-- ==== Sys2Proof/Word.lean ====
section
/-!
DEFINITION. The words of the module and the sparse tables in which it keeps what it has many of (R6: memory is
byte-addressed, multi-byte values are little-endian).
-/

namespace Sys2Proof

/-- A 64-bit register value. -/
abbrev Word := BitVec 64

/-- A byte of memory. -/
abbrev Byte := BitVec 8

/-- A sparse table: key and value pairs in rising order of the keys. An absent key stands for the table's default. -/
abbrev Tbl (α : Type) := List (Nat × α)

end Sys2Proof
end

