-- ==== Sys2Proof/Syntax.lean ====
section
/-!
DEFINITION. The instructions and events of the module: one constructor for each row of `spec/opcode_table.json`.
A slot word carries its slot where the word may stand in several slots (R82, R84); the header names the slot (R67),
so the slot is part of the instruction and not of the word's bits. The rows without an encoding are events of the
machine and of the parties around it; `State.agenda` may hold them.
-/

namespace Sys2Proof

/-- The seven slots of a bundle, in the order of R68. -/
inductive Slot where
  | sx | sy | vx | ls | mx | cp | cy
  deriving DecidableEq, Repr

/-- The two scalar clusters (R81): `x` in SX and `y` in SY. -/
inductive Cluster where
  | x | y
  deriving DecidableEq, Repr

/-- The scalar slot of a cluster. -/
def Cluster.slot : Cluster → Slot
  | .x => .sx
  | .y => .sy

/-- A store whose protection finds an error (R380): a line, by the key of its bytes divided by 64; block b of the instruction
store or the constant bank of a spindle; or registers, PIPE, engine and control state of a spindle. -/
inductive StoreAt where
  | line (l : Nat)
  | code (n : Nat) (b : Nat)
  | control (n : Nat)
  deriving DecidableEq, Repr

/-- The registers that a party outside the spindles writes and that have no row of their own in the table (R7). -/
inductive RegName where
  /-- ROOTGRAPH of a partition's virtual function (R30). -/
  | rootgraph (part : Nat)
  /-- EXPIRED of HLEASE, W1C (R33). -/
  | leaseExpired
  /-- PREMARGIN (R49). -/
  | premargin
  /-- Binding entry of a partition (R300). -/
  | binding (part : Nat) (bnd : Nat)
  /-- DENIED and RATE of a virtual function, W1C (R307). -/
  | vfGateStatus (part : Nat)
  /-- The disposition register of a spindle of a stand (R320). -/
  | disposition (stand : Nat) (k : Nat)
  /-- TRQBASE of a stand (R320). -/
  | trqbase (stand : Nat)
  /-- SRET of a spindle of a stand (R320). -/
  | sret (stand : Nat) (k : Nat)
  /-- FRZLIM of a spindle of a stand (R320). -/
  | frzlim (stand : Nat) (k : Nat)
  /-- EN and ROOT of a partition (R327). -/
  | xlateRoot (part : Nat)
  /-- Byte m of a partition's CLUSTER map (R327). -/
  | clusterMap (part : Nat) (m : Nat)
  /-- IMGBASE of a partition (R339). -/
  | imgbase (part : Nat)
  /-- IMGCNT and CUTPRIV of a partition (R339). -/
  | imgcnt (part : Nat)
  /-- Shedding entry n (R357). -/
  | shedEntry (n : Nat)
  /-- CE and UE (R382). -/
  | errCounts
  /-- DUMPBASE (R382). -/
  | dumpbase
  /-- ROLLBACK of the update status, W1C (R385). -/
  | updStatus
  deriving DecidableEq, Repr

/-- One constructor for each row of the opcode table. -/
inductive Instr where
  /-- NOP (R84). A slot word of all zeros that occupies its slot and changes no visible state. -/
  | nop (sl : Slot)
  /-- EMPTY_BUNDLE (R68). A header with SLOTMASK 0 that spends one issue cycle and may carry a stamp or a mark. -/
  | emptyBundle (mark : Bool) (stamp : BitVec 16)
  /-- BANK_LOCK_PREFIX (R71). A prefix that holds the named scratchpad banks for the spindle's own LS slot over the next N bundles. -/
  | bankLockPrefix (n : BitVec 3) (ga : BitVec 2) (maska : BitVec 8) (gb : BitVec 2) (maskb : BitVec 8)
  /-- ADD (R108). Writes the 64-bit sum of a and operand b. -/
  | add (cl : Cluster) (rd : BitVec 5) (ra : BitVec 5) (rb : BitVec 5) (bk : BitVec 2) (g : BitVec 4)
  /-- SUB (R108). Writes a minus operand b modulo 2^64. -/
  | sub (cl : Cluster) (rd : BitVec 5) (ra : BitVec 5) (rb : BitVec 5) (bk : BitVec 2) (g : BitVec 4)
  /-- AND (R108). Writes the bitwise AND of a and b. -/
  | and (cl : Cluster) (rd : BitVec 5) (ra : BitVec 5) (rb : BitVec 5) (bk : BitVec 2) (g : BitVec 4)
  /-- OR (R108). Writes the bitwise OR of a and b. -/
  | or (cl : Cluster) (rd : BitVec 5) (ra : BitVec 5) (rb : BitVec 5) (bk : BitVec 2) (g : BitVec 4)
  /-- XOR (R108). Writes the bitwise XOR of a and b. -/
  | xor (cl : Cluster) (rd : BitVec 5) (ra : BitVec 5) (rb : BitVec 5) (bk : BitVec 2) (g : BitVec 4)
  /-- ANDN (R108). Writes a AND NOT b. -/
  | andn (cl : Cluster) (rd : BitVec 5) (ra : BitVec 5) (rb : BitVec 5) (bk : BitVec 2) (g : BitVec 4)
  /-- SLL (R108). Shifts a left by b[5:0]. -/
  | sll (cl : Cluster) (rd : BitVec 5) (ra : BitVec 5) (rb : BitVec 5) (bk : BitVec 2) (g : BitVec 4)
  /-- SRL (R108). Shifts a right logically by b[5:0]. -/
  | srl (cl : Cluster) (rd : BitVec 5) (ra : BitVec 5) (rb : BitVec 5) (bk : BitVec 2) (g : BitVec 4)
  /-- SRA (R108). Shifts a right arithmetically by b[5:0]. -/
  | sra (cl : Cluster) (rd : BitVec 5) (ra : BitVec 5) (rb : BitVec 5) (bk : BitVec 2) (g : BitVec 4)
  /-- SLT (R108). Writes 1 if a is less than b as signed, else 0. -/
  | slt (cl : Cluster) (rd : BitVec 5) (ra : BitVec 5) (rb : BitVec 5) (bk : BitVec 2) (g : BitVec 4)
  /-- SLTU (R108). Writes 1 if a is less than b as unsigned, else 0. -/
  | sltu (cl : Cluster) (rd : BitVec 5) (ra : BitVec 5) (rb : BitVec 5) (bk : BitVec 2) (g : BitVec 4)
  /-- MIN (R108). Writes the signed minimum of a and b. -/
  | min (cl : Cluster) (rd : BitVec 5) (ra : BitVec 5) (rb : BitVec 5) (bk : BitVec 2) (g : BitVec 4)
  /-- MAX (R108). Writes the signed maximum of a and b. -/
  | max (cl : Cluster) (rd : BitVec 5) (ra : BitVec 5) (rb : BitVec 5) (bk : BitVec 2) (g : BitVec 4)
  /-- MINU (R108). Writes the unsigned minimum of a and b. -/
  | minu (cl : Cluster) (rd : BitVec 5) (ra : BitVec 5) (rb : BitVec 5) (bk : BitVec 2) (g : BitVec 4)
  /-- MAXU (R108). Writes the unsigned maximum of a and b. -/
  | maxu (cl : Cluster) (rd : BitVec 5) (ra : BitVec 5) (rb : BitVec 5) (bk : BitVec 2) (g : BitVec 4)
  /-- CLZ (R108). Writes the count of leading zeros of a. -/
  | clz (cl : Cluster) (rd : BitVec 5) (ra : BitVec 5) (g : BitVec 4)
  /-- POPC (R108). Writes the count of set bits of a. -/
  | popc (cl : Cluster) (rd : BitVec 5) (ra : BitVec 5) (g : BitVec 4)
  /-- ADDW (R108). Writes the sign-extended low 32 bits of a plus b. -/
  | addw (cl : Cluster) (rd : BitVec 5) (ra : BitVec 5) (rb : BitVec 5) (bk : BitVec 2) (g : BitVec 4)
  /-- SUBW (R108). Writes the sign-extended low 32 bits of a minus b. -/
  | subw (cl : Cluster) (rd : BitVec 5) (ra : BitVec 5) (rb : BitVec 5) (bk : BitVec 2) (g : BitVec 4)
  /-- SLLW (R108). Shifts a[31:0] left by b[4:0] and sign-extends the 32-bit result. -/
  | sllw (cl : Cluster) (rd : BitVec 5) (ra : BitVec 5) (rb : BitVec 5) (bk : BitVec 2) (g : BitVec 4)
  /-- SRLW (R108). Shifts a[31:0] right logically by b[4:0] and sign-extends. -/
  | srlw (cl : Cluster) (rd : BitVec 5) (ra : BitVec 5) (rb : BitVec 5) (bk : BitVec 2) (g : BitVec 4)
  /-- SRAW (R108). Shifts a[31:0] right arithmetically by b[4:0] and sign-extends. -/
  | sraw (cl : Cluster) (rd : BitVec 5) (ra : BitVec 5) (rb : BitVec 5) (bk : BitVec 2) (g : BitVec 4)
  /-- HASH (R109). Writes Hash32 of the low 32 bits of a and b. -/
  | hash (cl : Cluster) (rd : BitVec 5) (ra : BitVec 5) (rb : BitVec 5) (bk : BitVec 2) (g : BitVec 4)
  /-- MUL (R111). Writes the low 64 bits of a times b at latency 3. -/
  | mul (cl : Cluster) (rd : BitVec 5) (ra : BitVec 5) (rb : BitVec 5) (bk : BitVec 2) (g : BitVec 4)
  /-- MULH (R111). Writes the high 64 bits of the signed product. -/
  | mulh (cl : Cluster) (rd : BitVec 5) (ra : BitVec 5) (rb : BitVec 5) (bk : BitVec 2) (g : BitVec 4)
  /-- MULHU (R111). Writes the high 64 bits of the unsigned product. -/
  | mulhu (cl : Cluster) (rd : BitVec 5) (ra : BitVec 5) (rb : BitVec 5) (bk : BitVec 2) (g : BitVec 4)
  /-- MULW (R111). Writes the sign-extended low 32 bits of the 32-bit product. -/
  | mulw (cl : Cluster) (rd : BitVec 5) (ra : BitVec 5) (rb : BitVec 5) (bk : BitVec 2) (g : BitVec 4)
  /-- DIV (R111). Writes the signed quotient at latency 14, in SY only. -/
  | div (rd : BitVec 5) (ra : BitVec 5) (rb : BitVec 5) (bk : BitVec 2) (g : BitVec 4)
  /-- DIVU (R111). Writes the unsigned quotient at latency 14, in SY only. -/
  | divu (rd : BitVec 5) (ra : BitVec 5) (rb : BitVec 5) (bk : BitVec 2) (g : BitVec 4)
  /-- REM (R111). Writes the signed remainder at latency 14, in SY only. -/
  | rem (rd : BitVec 5) (ra : BitVec 5) (rb : BitVec 5) (bk : BitVec 2) (g : BitVec 4)
  /-- REMU (R111). Writes the unsigned remainder at latency 14, in SY only. -/
  | remu (rd : BitVec 5) (ra : BitVec 5) (rb : BitVec 5) (bk : BitVec 2) (g : BitVec 4)
  /-- ADDI (R110). Adds a sign-extended 12-bit immediate to a. -/
  | addi (cl : Cluster) (rd : BitVec 5) (ra : BitVec 5) (imm : BitVec 12) (g : BitVec 4)
  /-- ANDI (R110). ANDs a with a sign-extended immediate. -/
  | andi (cl : Cluster) (rd : BitVec 5) (ra : BitVec 5) (imm : BitVec 12) (g : BitVec 4)
  /-- ORI (R110). ORs a with a sign-extended immediate. -/
  | ori (cl : Cluster) (rd : BitVec 5) (ra : BitVec 5) (imm : BitVec 12) (g : BitVec 4)
  /-- XORI (R110). XORs a with a sign-extended immediate. -/
  | xori (cl : Cluster) (rd : BitVec 5) (ra : BitVec 5) (imm : BitVec 12) (g : BitVec 4)
  /-- SLLI (R110). Shifts a left by an immediate amount. -/
  | slli (cl : Cluster) (rd : BitVec 5) (ra : BitVec 5) (sh : BitVec 6) (g : BitVec 4)
  /-- SRLI (R110). Shifts a right logically by an immediate amount. -/
  | srli (cl : Cluster) (rd : BitVec 5) (ra : BitVec 5) (sh : BitVec 6) (g : BitVec 4)
  /-- SRAI (R110). Shifts a right arithmetically by an immediate amount. -/
  | srai (cl : Cluster) (rd : BitVec 5) (ra : BitVec 5) (sh : BitVec 6) (g : BitVec 4)
  /-- SLTI (R110). Writes 1 if a is less than the sign-extended immediate as signed. -/
  | slti (cl : Cluster) (rd : BitVec 5) (ra : BitVec 5) (imm : BitVec 12) (g : BitVec 4)
  /-- LIMM (R96). Writes the sign-extended 20-bit immediate. -/
  | limm (cl : Cluster) (rd : BitVec 5) (imm : BitVec 20)
  /-- LIMMH (R96). Places the sign-extended immediate at bits 39:20 and keeps bits 19:0 of rd. -/
  | limmh (cl : Cluster) (rd : BitVec 5) (imm : BitVec 20)
  /-- FIMM (R96). Writes an FP32 pattern whose upper 20 bits come from the immediate. -/
  | fimm (cl : Cluster) (rd : BitVec 5) (imm : BitVec 20)
  /-- LIT (R97). Writes literal word n of the bundle, zero-extended. -/
  | lit (cl : Cluster) (rd : BitVec 5) (num : BitVec 2)
  /-- LIT_S (R97). Writes literal word n, sign-extended. -/
  | litS (cl : Cluster) (rd : BitVec 5) (num : BitVec 2)
  /-- LIT_D (R97). Writes literal words n and n+1 as one 64-bit value. -/
  | litD (cl : Cluster) (rd : BitVec 5) (num : BitVec 2)
  /-- KLD (R98). Writes constant bank word idx relative to CBASE, zero-extended. -/
  | kld (cl : Cluster) (rd : BitVec 5) (idx : BitVec 8)
  /-- PCMP (R112). Writes a predicate with an integer comparison of a register and operand b. -/
  | pcmp (cl : Cluster) (pd : BitVec 3) (ra : BitVec 5) (rb : BitVec 5) (bk : BitVec 2) (cond : BitVec 5) (g : BitVec 4)
  /-- PCMPI (R112). Writes a predicate with an integer comparison of a register and an 11-bit immediate. -/
  | pcmpi (cl : Cluster) (pd : BitVec 3) (cond : BitVec 3) (ra : BitVec 5) (imm : BitVec 11) (g : BitVec 4)
  /-- PAND (R113). Writes the AND of two predicates. -/
  | pand (cl : Cluster) (pd : BitVec 3) (pa : BitVec 3) (pb : BitVec 3) (g : BitVec 4)
  /-- POR (R113). Writes the OR of two predicates. -/
  | por (cl : Cluster) (pd : BitVec 3) (pa : BitVec 3) (pb : BitVec 3) (g : BitVec 4)
  /-- PXOR (R113). Writes the XOR of two predicates. -/
  | pxor (cl : Cluster) (pd : BitVec 3) (pa : BitVec 3) (pb : BitVec 3) (g : BitVec 4)
  /-- PANDN (R113). Writes pa AND NOT pb. -/
  | pandn (cl : Cluster) (pd : BitVec 3) (pa : BitVec 3) (pb : BitVec 3) (g : BitVec 4)
  /-- SEL (R114). Writes ra or operand b according to a predicate. -/
  | sel (cl : Cluster) (rd : BitVec 5) (ra : BitVec 5) (rb : BitVec 5) (bk : BitVec 2) (pk : BitVec 3) (g : BitVec 4)
  /-- XMOV (R115). Copies a register of the other cluster at latency 2. -/
  | xmov (cl : Cluster) (rd : BitVec 5) (ra : BitVec 5) (g : BitVec 4)
  /-- CRD (R116). Reads a control register into rd at latency 2. -/
  | crd (cl : Cluster) (rd : BitVec 5) (num : BitVec 16)
  /-- CWR (R117). Writes a control register, effective for bundles of the next cycle. -/
  | cwr (cl : Cluster) (ra : BitVec 5) (num : BitVec 16)
  /-- ACVT_GEN2LOC (R119). Converts a generic address to LOCAL relative form. -/
  | acvtGen2loc (cl : Cluster) (rd : BitVec 5) (ra : BitVec 5) (g : BitVec 4)
  /-- ACVT_GEN2SHR (R119). Converts a generic address to SHARED relative form. -/
  | acvtGen2shr (cl : Cluster) (rd : BitVec 5) (ra : BitVec 5) (g : BitVec 4)
  /-- ACVT_GEN2CLU (R119). Converts a generic address to CLUSTER relative form. -/
  | acvtGen2clu (cl : Cluster) (rd : BitVec 5) (ra : BitVec 5) (g : BitVec 4)
  /-- ACVT_LOC2GEN (R119). Converts a LOCAL relative form to a generic address. -/
  | acvtLoc2gen (cl : Cluster) (rd : BitVec 5) (ra : BitVec 5) (g : BitVec 4)
  /-- ACVT_SHR2GEN (R119). Converts a SHARED relative form to a generic address. -/
  | acvtShr2gen (cl : Cluster) (rd : BitVec 5) (ra : BitVec 5) (g : BitVec 4)
  /-- ACVT_CLU2GEN (R119). Converts a CLUSTER relative form to a generic address. -/
  | acvtClu2gen (cl : Cluster) (rd : BitVec 5) (ra : BitVec 5) (g : BitVec 4)
  /-- ATEST (R119). Writes a predicate with aperture membership of an address. -/
  | atest (cl : Cluster) (pd : BitVec 3) (ra : BitVec 5) (ap : BitVec 5) (g : BitVec 4)
  /-- FADD (R206). Adds two FP32 or FP64 operands with one rounding. -/
  | fadd (cl : Cluster) (rd : BitVec 5) (ra : BitVec 5) (rb : BitVec 5) (bk : BitVec 2) (dbl : Bool) (zi : Bool) (zo : Bool) (rm : BitVec 2)
  /-- FSUB (R206). Subtracts FP operands with one rounding. -/
  | fsub (cl : Cluster) (rd : BitVec 5) (ra : BitVec 5) (rb : BitVec 5) (bk : BitVec 2) (dbl : Bool) (zi : Bool) (zo : Bool) (rm : BitVec 2)
  /-- FMUL (R206). Multiplies FP operands with one rounding. -/
  | fmul (cl : Cluster) (rd : BitVec 5) (ra : BitVec 5) (rb : BitVec 5) (bk : BitVec 2) (dbl : Bool) (zi : Bool) (zo : Bool) (rm : BitVec 2)
  /-- FMIN (R206). Writes the FP minimum under R168. -/
  | fmin (cl : Cluster) (rd : BitVec 5) (ra : BitVec 5) (rb : BitVec 5) (bk : BitVec 2) (dbl : Bool) (zi : Bool)
  /-- FMAX (R206). Writes the FP maximum under R168. -/
  | fmax (cl : Cluster) (rd : BitVec 5) (ra : BitVec 5) (rb : BitVec 5) (bk : BitVec 2) (dbl : Bool) (zi : Bool)
  /-- FABS (R206). Clears the sign bit of an FP value. -/
  | fabs (cl : Cluster) (rd : BitVec 5) (ra : BitVec 5) (dbl : Bool)
  /-- FNEG (R206). Inverts the sign bit of an FP value. -/
  | fneg (cl : Cluster) (rd : BitVec 5) (ra : BitVec 5) (dbl : Bool)
  /-- FCVT (R207). Converts between FP32 and FP64. -/
  | fcvt (cl : Cluster) (rd : BitVec 5) (ra : BitVec 5) (dbl : Bool) (zi : Bool) (zo : Bool) (rm : BitVec 2)
  /-- FTOI (R207). Converts an FP value to a signed 64-bit integer. -/
  | ftoi (cl : Cluster) (rd : BitVec 5) (ra : BitVec 5) (dbl : Bool) (zi : Bool) (rm : BitVec 2)
  /-- FITO (R207). Converts a signed 64-bit integer to FP. -/
  | fito (cl : Cluster) (rd : BitVec 5) (ra : BitVec 5) (dbl : Bool) (rm : BitVec 2)
  /-- FDIV (R206). Divides FP operands, correctly rounded, at latency 14 in SY. -/
  | fdiv (rd : BitVec 5) (ra : BitVec 5) (rb : BitVec 5) (bk : BitVec 2) (dbl : Bool) (zi : Bool) (zo : Bool) (rm : BitVec 2)
  /-- FSQRT (R206). Computes an FP square root at latency 14 in SY. -/
  | fsqrt (rd : BitVec 5) (ra : BitVec 5) (dbl : Bool) (zi : Bool) (zo : Bool) (rm : BitVec 2)
  /-- FMA (R208). Computes a times b plus c with one rounding. -/
  | fma (cl : Cluster) (rd : BitVec 5) (ra : BitVec 5) (rb : BitVec 5) (rc : BitVec 5) (dbl : Bool) (zi : Bool) (zo : Bool) (rm : BitVec 2)
  /-- FNMA (R208). Computes minus a times b plus c with one rounding. -/
  | fnma (cl : Cluster) (rd : BitVec 5) (ra : BitVec 5) (rb : BitVec 5) (rc : BitVec 5) (dbl : Bool) (zi : Bool) (zo : Bool) (rm : BitVec 2)
  /-- FCMP (R209). Writes a predicate with an FP comparison. -/
  | fcmp (cl : Cluster) (pd : BitVec 3) (cond : BitVec 2) (ra : BitVec 5) (rb : BitVec 5) (dbl : Bool)
  /-- FCLASS (R210). Writes a one-hot class mask of an FP value. -/
  | fclass (cl : Cluster) (rd : BitVec 5) (ra : BitVec 5) (dbl : Bool) (g : BitVec 4)
  /-- BR (R121). Branches to the header plus off22 when the guard holds. -/
  | br (off : BitVec 22) (g : BitVec 4)
  /-- JR (R122). Jumps to a register plus a signed word offset. -/
  | jr (ra : BitVec 5) (off : BitVec 12) (g : BitVec 4)
  /-- CALL (R121). Branches and writes the return address to x31. -/
  | call (off : BitVec 22) (g : BitVec 4)
  /-- RET (R122). Jumps to the address in x31. -/
  | ret (g : BitVec 4)
  /-- LOOP (R125). Starts a non-rotating hardware loop whose count comes from a register. -/
  | loop (lc : BitVec 2) (sm1 : BitVec 3) (xc : BitVec 5) (endOff : BitVec 15)
  /-- LOOP_R (R125). Starts a rotating hardware loop whose count comes from a register. -/
  | loopR (lc : BitVec 2) (sm1 : BitVec 3) (xc : BitVec 5) (endOff : BitVec 15)
  /-- LOOPI (R125). Starts a non-rotating hardware loop with an immediate count. -/
  | loopi (lc : BitVec 2) (sm1 : BitVec 3) (count : BitVec 10) (endOff : BitVec 10)
  /-- LOOPI_R (R125). Starts a rotating hardware loop with an immediate count. -/
  | loopiR (lc : BitVec 2) (sm1 : BitVec 3) (count : BitVec 10) (endOff : BitVec 10)
  /-- LBRK (R128). Limits REMAIN of the innermost loop so that no new iteration enters. -/
  | lbrk (g : BitVec 4)
  /-- FRAME (R130). Resets SFC to zero in its issue cycle. -/
  | frame (g : BitVec 4)
  /-- SYSC (R130). Raises SYSC after its bundle has issued in full. -/
  | sysc (code : BitVec 12) (g : BitVec 4)
  /-- BRK (R130). Raises BRK before any slot of its bundle takes effect. -/
  | brk (code : BitVec 12) (g : BitVec 4)
  /-- TEND (R131). Ends the task and freezes until the completion ordering of R377 is met. -/
  | tend (g : BitVec 4)
  /-- EST (R132). Sets the task's current estimate from a register. -/
  | est (ra : BitVec 5) (g : BitVec 4)
  /-- RFE (R316). Leaves handler mode and resumes the held context at TEPC. -/
  | rfe
  /-- ESC (R318). Escalates to the supervisor with FLAGS.VOL set. -/
  | esc (code : BitVec 12) (g : BitVec 4)
  /-- TLAUNCH (R37). Launches a task graph as a scheduler transaction and returns a handle or error. -/
  | tlaunch (rd : BitVec 5) (ra : BitVec 5) (g : BitVec 4)
  /-- TJOIN (R40). Polls a graph handle for its final status. -/
  | tjoin (rd : BitVec 5) (ra : BitVec 5) (g : BitVec 4)
  /-- TJOIN_W (R40). Waits on a graph handle until its final status and frees the handle. -/
  | tjoinW (rd : BitVec 5) (ra : BitVec 5) (g : BitVec 4)
  /-- ADMIT (R44). Requests admission of a periodic contract. -/
  | admitC (rd : BitVec 5) (ra : BitVec 5) (g : BitVec 4)
  /-- ADMIT_X (R45). Withdraws an admitted contract. -/
  | admitX (rd : BitVec 5) (ra : BitVec 5) (g : BitVec 4)
  /-- GSIG (R302). Releases and adds an amount to a gate's counter through a binding. -/
  | gsig (rd : BitVec 5) (ra : BitVec 5) (bnd : BitVec 8) (g : BitVec 4)
  /-- GWAIT (R302). Waits until a gate's counter reaches a threshold or the wait limit passes. -/
  | gwait (rd : BitVec 5) (ra : BitVec 5) (bnd : BitVec 8) (g : BitVec 4)
  /-- GPOLL (R302). Tests a gate's counter against a threshold without waiting. -/
  | gpoll (rd : BitVec 5) (ra : BitVec 5) (bnd : BitVec 8) (g : BitVec 4)
  /-- BARRA (R285). Releases and sends an arrival word to a barrier object. -/
  | barra (rd : BitVec 5) (ra : BitVec 5) (bar : BitVec 6) (g : BitVec 4)
  /-- BARRA_Q (R285). Returns a barrier's state without arriving. -/
  | barraQ (rd : BitVec 5) (bar : BitVec 6) (g : BitVec 4)
  /-- BARRW (R286). Waits until every barrier phase before the given one has completed. -/
  | barrw (ra : BitVec 5) (bar : BitVec 6) (g : BitVec 4)
  /-- SSTEP (R288). Arrives at the gang's step barrier and waits for the step to complete. -/
  | sstep (rd : BitVec 5) (g : BitVec 4)
  /-- FENCE (R133). Freezes until earlier loads have landed and earlier writes in scope are applied. -/
  | fence (scope : BitVec 3) (g : BitVec 4)
  /-- CUT (R338). Requests a cut of spindles of the task's own partition from a descriptor. -/
  | cut (rd : BitVec 5) (ra : BitVec 5) (g : BitVec 4)
  /-- LDB (R190). Loads a sign-extended byte. -/
  | ldb (reg : BitVec 6) (base : BitVec 5) (off : BitVec 10) (g : BitVec 3)
  /-- LDH (R190). Loads a sign-extended halfword. -/
  | ldh (reg : BitVec 6) (base : BitVec 5) (off : BitVec 10) (g : BitVec 3)
  /-- LDW (R190). Loads a sign-extended word. -/
  | ldw (reg : BitVec 6) (base : BitVec 5) (off : BitVec 10) (g : BitVec 3)
  /-- LDD (R190). Loads a doubleword. -/
  | ldd (reg : BitVec 6) (base : BitVec 5) (off : BitVec 10) (g : BitVec 3)
  /-- LDBZ (R190). Loads a zero-extended byte. -/
  | ldbz (reg : BitVec 6) (base : BitVec 5) (off : BitVec 10) (g : BitVec 3)
  /-- LDHZ (R190). Loads a zero-extended halfword. -/
  | ldhz (reg : BitVec 6) (base : BitVec 5) (off : BitVec 10) (g : BitVec 3)
  /-- LDWZ (R190). Loads a zero-extended word. -/
  | ldwz (reg : BitVec 6) (base : BitVec 5) (off : BitVec 10) (g : BitVec 3)
  /-- STB (R190). Stores a byte. -/
  | stb (reg : BitVec 6) (base : BitVec 5) (off : BitVec 10) (g : BitVec 3)
  /-- STH (R190). Stores a halfword. -/
  | sth (reg : BitVec 6) (base : BitVec 5) (off : BitVec 10) (g : BitVec 3)
  /-- STW (R190). Stores a word. -/
  | stw (reg : BitVec 6) (base : BitVec 5) (off : BitVec 10) (g : BitVec 3)
  /-- STD (R190). Stores a doubleword. -/
  | std (reg : BitVec 6) (base : BitVec 5) (off : BitVec 10) (g : BitVec 3)
  /-- VLD (R190). Loads a 512-byte row into a vector register. -/
  | vld (reg : BitVec 6) (base : BitVec 5) (off : BitVec 10) (g : BitVec 3)
  /-- VST (R190). Stores a vector register row of 512 bytes. -/
  | vst (reg : BitVec 6) (base : BitVec 5) (off : BitVec 10) (g : BitVec 3)
  /-- AINT_ADD_W (R274). Atomically adds 32 bits in accumulator SRAM and returns the old value. -/
  | aintAddW (d : BitVec 6) (base : BitVec 5) (s : BitVec 6) (ord : Bool) (g : BitVec 3)
  /-- AINT_ADD_D (R274). Atomically adds 64 bits and returns the old value. -/
  | aintAddD (d : BitVec 6) (base : BitVec 5) (s : BitVec 6) (ord : Bool) (g : BitVec 3)
  /-- AINT_AND (R274). Atomically ANDs 64 bits. -/
  | aintAnd (d : BitVec 6) (base : BitVec 5) (s : BitVec 6) (ord : Bool) (g : BitVec 3)
  /-- AINT_OR (R274). Atomically ORs 64 bits. -/
  | aintOr (d : BitVec 6) (base : BitVec 5) (s : BitVec 6) (ord : Bool) (g : BitVec 3)
  /-- AINT_XOR (R274). Atomically XORs 64 bits. -/
  | aintXor (d : BitVec 6) (base : BitVec 5) (s : BitVec 6) (ord : Bool) (g : BitVec 3)
  /-- AINT_MIN (R274). Atomically takes the signed minimum. -/
  | aintMin (d : BitVec 6) (base : BitVec 5) (s : BitVec 6) (ord : Bool) (g : BitVec 3)
  /-- AINT_MAX (R274). Atomically takes the signed maximum. -/
  | aintMax (d : BitVec 6) (base : BitVec 5) (s : BitVec 6) (ord : Bool) (g : BitVec 3)
  /-- AINT_MINZ (R274). Atomically takes the unsigned minimum. -/
  | aintMinz (d : BitVec 6) (base : BitVec 5) (s : BitVec 6) (ord : Bool) (g : BitVec 3)
  /-- AINT_MAXZ (R274). Atomically takes the unsigned maximum. -/
  | aintMaxz (d : BitVec 6) (base : BitVec 5) (s : BitVec 6) (ord : Bool) (g : BitVec 3)
  /-- AINT_SWAP_W (R274). Atomically swaps 32 bits. -/
  | aintSwapW (d : BitVec 6) (base : BitVec 5) (s : BitVec 6) (ord : Bool) (g : BitVec 3)
  /-- AINT_SWAP_D (R274). Atomically swaps 64 bits. -/
  | aintSwapD (d : BitVec 6) (base : BitVec 5) (s : BitVec 6) (ord : Bool) (g : BitVec 3)
  /-- AFP_FADD (R275). Atomically adds FP elements in accumulator SRAM. -/
  | afpFadd (d : BitVec 6) (base : BitVec 5) (s : BitVec 6) (fmt : BitVec 2) (ord : Bool) (g : BitVec 3)
  /-- AFP_FMIN (R275). Atomically takes the FP minimum of elements. -/
  | afpFmin (d : BitVec 6) (base : BitVec 5) (s : BitVec 6) (fmt : BitVec 2) (ord : Bool) (g : BitVec 3)
  /-- AFP_FMAX (R275). Atomically takes the FP maximum of elements. -/
  | afpFmax (d : BitVec 6) (base : BitVec 5) (s : BitVec 6) (fmt : BitVec 2) (ord : Bool) (g : BitVec 3)
  /-- ACAS_W (R276). Compares and swaps 32 bits. -/
  | acasW (d : BitVec 6) (base : BitVec 5) (s : BitVec 6) (ord : Bool) (g : BitVec 3)
  /-- ACAS_D (R276). Compares and swaps 64 bits. -/
  | acasD (d : BitVec 6) (base : BitVec 5) (s : BitVec 6) (ord : Bool) (g : BitVec 3)
  /-- ACAS_Q (R276). Compares and swaps 128 bits using register pairs. -/
  | acasQ (d : BitVec 5) (base : BitVec 5) (s : BitVec 5) (ord : Bool) (g : BitVec 3)
  /-- VACC_OVW (R277). Overwrites an accumulator row with a vector row as one atomic write. -/
  | vaccOvw (v : BitVec 6) (base : BitVec 5) (ord : Bool) (g : BitVec 3)
  /-- VACC_ADD_F32 (R277). Adds a row into an accumulator row in FP32 lanes. -/
  | vaccAddF32 (v : BitVec 6) (base : BitVec 5) (ord : Bool) (g : BitVec 3)
  /-- VACC_ADD_F64 (R277). Adds a row into an accumulator row in FP64 lanes. -/
  | vaccAddF64 (v : BitVec 6) (base : BitVec 5) (ord : Bool) (g : BitVec 3)
  /-- VACC_ADD_BF16 (R277). Adds a row into an accumulator row in BF16 lanes. -/
  | vaccAddBf16 (v : BitVec 6) (base : BitVec 5) (ord : Bool) (g : BitVec 3)
  /-- VACC_ADD_F16 (R277). Adds a row into an accumulator row in FP16 lanes. -/
  | vaccAddF16 (v : BitVec 6) (base : BitVec 5) (ord : Bool) (g : BitVec 3)
  /-- VACC_ADD_I32 (R277). Adds a row into an accumulator row in INT32 lanes. -/
  | vaccAddI32 (v : BitVec 6) (base : BitVec 5) (ord : Bool) (g : BitVec 3)
  /-- BPOP (R198). Pops a bobbin slot into a vector row with format conversion. -/
  | bpop (v : BitVec 6) (bob : BitVec 4) (n : BitVec 8) (g : BitVec 3)
  /-- BPUSH (R199). Writes a vector row unconverted into a bobbin slot. -/
  | bpush (v : BitVec 6) (bob : BitVec 4) (n : BitVec 8) (g : BitVec 3)
  /-- BADV_C (R200). Advances a bobbin's consumer counter. -/
  | badvC (bob : BitVec 4) (n : BitVec 8) (g : BitVec 3)
  /-- BADV_P (R200). Advances a bobbin's producer counter. -/
  | badvP (bob : BitVec 4) (n : BitVec 8) (g : BitVec 3)
  /-- BWAIT_C (R201). Waits until consumer slots are free of write locks. -/
  | bwaitC (bob : BitVec 4) (n : BitVec 8) (g : BitVec 3)
  /-- BWAIT_P (R201). Waits until producer slots are free of transfer locks. -/
  | bwaitP (bob : BitVec 4) (n : BitVec 8) (g : BitVec 3)
  /-- VADD (R167). Adds two rows lane by lane. -/
  | vadd (vd : BitVec 6) (va : BitVec 6) (vb : BitVec 6) (ty : BitVec 2) (zi : Bool) (zo : Bool) (s : Bool) (q : BitVec 3)
  /-- VSUB (R167). Subtracts rows lane by lane. -/
  | vsub (vd : BitVec 6) (va : BitVec 6) (vb : BitVec 6) (ty : BitVec 2) (zi : Bool) (zo : Bool) (s : Bool) (q : BitVec 3)
  /-- VMUL (R167). Multiplies rows lane by lane. -/
  | vmul (vd : BitVec 6) (va : BitVec 6) (vb : BitVec 6) (ty : BitVec 2) (zi : Bool) (zo : Bool) (s : Bool) (q : BitVec 3)
  /-- VFMA (R167). Computes a times b plus vd lane by lane with one rounding. -/
  | vfma (vd : BitVec 6) (va : BitVec 6) (vb : BitVec 6) (ty : BitVec 2) (zi : Bool) (zo : Bool) (s : Bool) (q : BitVec 3)
  /-- VFMAC (R167). Computes vd times a plus b lane by lane with one rounding. -/
  | vfmac (vd : BitVec 6) (va : BitVec 6) (vb : BitVec 6) (ty : BitVec 2) (zi : Bool) (zo : Bool) (s : Bool) (q : BitVec 3)
  /-- VMIN (R168). Takes the lane minimum. -/
  | vmin (vd : BitVec 6) (va : BitVec 6) (vb : BitVec 6) (ty : BitVec 2) (zi : Bool) (s : Bool) (q : BitVec 3)
  /-- VMAX (R168). Takes the lane maximum. -/
  | vmax (vd : BitVec 6) (va : BitVec 6) (vb : BitVec 6) (ty : BitVec 2) (zi : Bool) (s : Bool) (q : BitVec 3)
  /-- VABS (R167). Clears the sign of each lane. -/
  | vabs (vd : BitVec 6) (va : BitVec 6) (ty : BitVec 2) (q : BitVec 3)
  /-- VNEG (R167). Inverts the sign of each lane. -/
  | vneg (vd : BitVec 6) (va : BitVec 6) (ty : BitVec 2) (q : BitVec 3)
  /-- VDIV (R167). Divides lanes, correctly rounded, at latency 8. -/
  | vdiv (vd : BitVec 6) (va : BitVec 6) (vb : BitVec 6) (ty : BitVec 2) (zi : Bool) (zo : Bool) (s : Bool) (q : BitVec 3)
  /-- VEXP (R169). Computes e to the power of each lane, rounded once. -/
  | vexp (vd : BitVec 6) (va : BitVec 6) (ty : BitVec 2) (zi : Bool) (zo : Bool) (q : BitVec 3)
  /-- VEXP2 (R169). Computes 2 to the power of each lane. -/
  | vexp2 (vd : BitVec 6) (va : BitVec 6) (ty : BitVec 2) (zi : Bool) (zo : Bool) (q : BitVec 3)
  /-- VLOG2 (R169). Computes the base-2 logarithm of each lane. -/
  | vlog2 (vd : BitVec 6) (va : BitVec 6) (ty : BitVec 2) (zi : Bool) (zo : Bool) (q : BitVec 3)
  /-- VRCP (R169). Computes the reciprocal of each lane. -/
  | vrcp (vd : BitVec 6) (va : BitVec 6) (ty : BitVec 2) (zi : Bool) (zo : Bool) (q : BitVec 3)
  /-- VRSQRT (R169). Computes the reciprocal square root of each lane. -/
  | vrsqrt (vd : BitVec 6) (va : BitVec 6) (ty : BitVec 2) (zi : Bool) (zo : Bool) (q : BitVec 3)
  /-- VSQRT (R169). Computes the square root of each lane. -/
  | vsqrt (vd : BitVec 6) (va : BitVec 6) (ty : BitVec 2) (zi : Bool) (zo : Bool) (q : BitVec 3)
  /-- VRMAX (R170). Writes the maximum over all lanes to every lane, and may start a fused softmax. -/
  | vrmax (vd : BitVec 6) (va : BitVec 6) (ty : BitVec 2) (zi : Bool) (q : BitVec 3)
  /-- VRMIN (R170). Writes the minimum over all lanes to every lane. -/
  | vrmin (vd : BitVec 6) (va : BitVec 6) (ty : BitVec 2) (zi : Bool) (q : BitVec 3)
  /-- VRSUM (R170). Writes the exact sum over all lanes, rounded once, to every lane. -/
  | vrsum (vd : BitVec 6) (va : BitVec 6) (ty : BitVec 2) (zi : Bool) (zo : Bool) (q : BitVec 3)
  /-- VCMPLT (R171). Writes all ones in lanes where a is less than b. -/
  | vcmplt (vd : BitVec 6) (va : BitVec 6) (vb : BitVec 6) (ty : BitVec 2) (zi : Bool) (s : Bool) (q : BitVec 3)
  /-- VCMPEQ (R171). Writes all ones in lanes where a equals b. -/
  | vcmpeq (vd : BitVec 6) (va : BitVec 6) (vb : BitVec 6) (ty : BitVec 2) (zi : Bool) (s : Bool) (q : BitVec 3)
  /-- VSEL (R171). Selects a or b per lane by the mask in vd. -/
  | vsel (vd : BitVec 6) (va : BitVec 6) (vb : BitVec 6) (ty : BitVec 2) (s : Bool) (q : BitVec 3)
  /-- VCVT (R172). Converts lanes to a target format and zeroes the rest of the row. -/
  | vcvt (vd : BitVec 6) (va : BitVec 6) (code : BitVec 4) (ty : BitVec 2) (zi : Bool) (zo : Bool) (q : BitVec 3)
  /-- VMOV (R173). Copies a whole row. -/
  | vmov (vd : BitVec 6) (va : BitVec 6) (q : BitVec 3)
  /-- VBCAST (R173). Broadcasts lane n of a row to every lane. -/
  | vbcast (vd : BitVec 6) (va : BitVec 6) (vb : BitVec 6) (ty : BitVec 2) (q : BitVec 3)
  /-- VBCAST_Y (R173). Broadcasts a y register value to every lane. -/
  | vbcastY (vd : BitVec 6) (vb : BitVec 5) (ty : BitVec 2) (q : BitVec 3)
  /-- VLSH (R173). Shifts lanes down by an immediate amount, filling with zeros. -/
  | vlsh (vd : BitVec 6) (va : BitVec 6) (n : BitVec 6) (ty : BitVec 2) (q : BitVec 3)
  /-- VLSH_Y (R173). Shifts lanes by a signed amount from a y register. -/
  | vlshY (vd : BitVec 6) (va : BitVec 6) (vb : BitVec 5) (ty : BitVec 2) (q : BitVec 3)
  /-- VGET (R174). Moves one lane of a row into a y register. -/
  | vget (vd : BitVec 5) (va : BitVec 6) (vb : BitVec 5) (ty : BitVec 2) (q : BitVec 3)
  /-- VPUT (R174). Writes a y register value into one lane of a row. -/
  | vput (vd : BitVec 6) (va : BitVec 5) (vb : BitVec 5) (ty : BitVec 2) (q : BitVec 3)
  /-- VIADD (R175). Adds INT32 lanes modulo 2^32. -/
  | viadd (vd : BitVec 6) (va : BitVec 6) (vb : BitVec 6) (s : Bool) (q : BitVec 3)
  /-- VISUB (R175). Subtracts INT32 lanes. -/
  | visub (vd : BitVec 6) (va : BitVec 6) (vb : BitVec 6) (s : Bool) (q : BitVec 3)
  /-- VIMUL (R175). Multiplies INT32 lanes keeping the low 32 bits. -/
  | vimul (vd : BitVec 6) (va : BitVec 6) (vb : BitVec 6) (s : Bool) (q : BitVec 3)
  /-- VAND (R175). ANDs 32-bit lanes. -/
  | vand (vd : BitVec 6) (va : BitVec 6) (vb : BitVec 6) (s : Bool) (q : BitVec 3)
  /-- VOR (R175). ORs 32-bit lanes. -/
  | vor (vd : BitVec 6) (va : BitVec 6) (vb : BitVec 6) (s : Bool) (q : BitVec 3)
  /-- VXOR (R175). XORs 32-bit lanes. -/
  | vxor (vd : BitVec 6) (va : BitVec 6) (vb : BitVec 6) (s : Bool) (q : BitVec 3)
  /-- VSLL (R175). Shifts 32-bit lanes left. -/
  | vsll (vd : BitVec 6) (va : BitVec 6) (vb : BitVec 6) (s : Bool) (q : BitVec 3)
  /-- VSRL (R175). Shifts 32-bit lanes right logically. -/
  | vsrl (vd : BitVec 6) (va : BitVec 6) (vb : BitVec 6) (s : Bool) (q : BitVec 3)
  /-- VSRA (R175). Shifts 32-bit lanes right arithmetically. -/
  | vsra (vd : BitVec 6) (va : BitVec 6) (vb : BitVec 6) (s : Bool) (q : BitVec 3)
  /-- VIMIN (R175). Takes the signed minimum of INT32 lanes. -/
  | vimin (vd : BitVec 6) (va : BitVec 6) (vb : BitVec 6) (s : Bool) (q : BitVec 3)
  /-- VIMAX (R175). Takes the signed maximum of INT32 lanes. -/
  | vimax (vd : BitVec 6) (va : BitVec 6) (vb : BitVec 6) (s : Bool) (q : BitVec 3)
  /-- VADD8 (R176). Adds packed FP8 sub-elements. -/
  | vadd8 (vd : BitVec 6) (va : BitVec 6) (vb : BitVec 6) (ty : Bool) (zi : Bool) (zo : Bool) (s : Bool) (q : BitVec 3)
  /-- VMUL8 (R176). Multiplies packed FP8 sub-elements. -/
  | vmul8 (vd : BitVec 6) (va : BitVec 6) (vb : BitVec 6) (ty : Bool) (zi : Bool) (zo : Bool) (s : Bool) (q : BitVec 3)
  /-- VIOTA (R177). Writes each lane with its own index. -/
  | viota (vd : BitVec 6) (ty : BitVec 2) (q : BitVec 3)
  /-- VRNG (R177). Writes Hash32 of a and b in each 32-bit lane. -/
  | vrng (vd : BitVec 6) (va : BitVec 6) (vb : BitVec 6) (s : Bool) (q : BitVec 3)
  /-- MCALL_GEMM (R244). Issues a GEMM routine accumulating A times B into a tile. -/
  | mcallGemm (sa : BitVec 6) (sb : BitVec 6) (f0 : Bool) (neg : Bool)
  /-- MCALL_GEMMT (R244). Issues a GEMM with B read as transposed rows. -/
  | mcallGemmt (sa : BitVec 6) (sb : BitVec 6) (f0 : Bool) (neg : Bool)
  /-- MCALL_GEMMZ (R244). Issues a GEMM that first zeroes its output elements. -/
  | mcallGemmz (sa : BitVec 6) (sb : BitVec 6) (f0 : Bool) (neg : Bool)
  /-- MCALL_GEMV (R244). Issues a matrix-vector product into row 0 of a tile. -/
  | mcallGemv (sa : BitVec 6) (sb : BitVec 6) (f0 : Bool) (neg : Bool)
  /-- MCALL_OUTER (R244). Issues an outer product accumulation. -/
  | mcallOuter (sa : BitVec 6) (sb : BitVec 6) (f0 : Bool) (neg : Bool)
  /-- MCALL_TRANS (R246). Issues a tile transpose from ST into CT. -/
  | mcallTrans
  /-- MCALL_DGEMM (R245). Issues an FP64 fused GEMM into an FP64 tile. -/
  | mcallDgemm (sa : BitVec 6) (sb : BitVec 6) (f0 : Bool) (neg : Bool)
  /-- MCALL_ROWSC (R246). Issues a scaling of tile rows by an FP32 vector. -/
  | mcallRowsc (sa : BitVec 6) (f0 : Bool)
  /-- MCALL_COLRED (R246). Issues a column reduction of ST into row 0 of CT. -/
  | mcallColred (f0 : Bool)
  /-- MCALL_CVTOUT (R246). Issues a conversion of a tile into a storage format in scratchpad. -/
  | mcallCvtout (sb : BitVec 6) (f0 : Bool)
  /-- MCALL_LOADC (R246). Issues a load of stored elements from scratchpad into a tile. -/
  | mcallLoadc (sb : BitVec 6) (f0 : Bool)
  /-- MZERO (R254). Queues a routine that writes +0 to a whole tile. -/
  | mzero (tile : BitVec 5)
  /-- MWAIT (R254). Waits for every earlier matrix routine to complete. -/
  | mwait
  /-- MWAIT_TILE (R254). Waits for earlier routines that write a given tile. -/
  | mwaitTile (tile : BitVec 5)
  /-- MATRIX_ROUTINE_COMPLETE (R250). A routine reaches the end of its busy time, its writes and flags become visible, its tiles are released and the queued routine starts. -/
  | matrixRoutineComplete (n : Nat)
  /-- MATRIX_ROUTINE_STOP (R253). A routine meets a ciphertext line or uncorrectable error, stops at once and discards its queued successor. -/
  | matrixRoutineStop (n : Nat)
  /-- CPY (R219). Starts a strided copy stream on a channel. -/
  | cpy (sa : BitVec 6) (sb : BitVec 6) (ct : Bool) (sh : Bool) (ch : BitVec 3)
  /-- PUBL (R225). Queues the publish of a channel's shadowed stream. -/
  | publ (ch : BitVec 3)
  /-- GATH (R219). Starts a gather stream through an index array. -/
  | gath (sa : BitVec 6) (sb : BitVec 6) (ct : Bool) (sh : Bool) (ch : BitVec 3)
  /-- SCAT (R219). Starts a scatter stream through an index array. -/
  | scat (sa : BitVec 6) (sb : BitVec 6) (ct : Bool) (ch : BitVec 3)
  /-- COLL (R220). Starts a reduction stream into accumulator SRAM rows. -/
  | coll (sa : BitVec 6) (sb : BitVec 6) (ch : BitVec 3)
  /-- SBAR (R228). Orders access classes of later engine commands after those of earlier ones. -/
  | sbar (after : BitVec 3) (before : BitVec 3)
  /-- CWAIT (R229). Waits until a channel is idle, awaiting publish or failed, and raises a recorded failure. -/
  | cwait (ch : BitVec 3)
  /-- PERSIST (R232). Waits until the partition's writes in a range have reached the CXL persistence domain. -/
  | persist (sa : BitVec 6) (sb : BitVec 6)
  /-- CPYB (R221). Fills bobbin slots from consecutive source bytes. -/
  | cpyb (sa : BitVec 6) (n : BitVec 7) (bob : BitVec 4) (ch : BitVec 3)
  /-- BDRAIN (R222). Empties bobbin slots into memory with format conversion. -/
  | bdrain (sb : BitVec 6) (n : BitVec 7) (bob : BitVec 4) (ch : BitVec 3)
  /-- STREAM_LINE_MOVE (R223). The copy engine moves up to four 64-byte lines of its active channels in rotation. -/
  | streamLineMove (n : Nat)
  /-- STREAM_COMPLETE (R215). A stream finishes its last line and its channel leaves the running state. -/
  | streamComplete (n : Nat) (c : Nat)
  /-- STREAM_DEADLINE_EXPIRY (R217). A strict stream not complete DL cycles after issue fails with OVERRUN. -/
  | streamDeadlineExpiry (n : Nat) (c : Nat)
  /-- PUBLISH_SWAP (R225). After the fill, every shadow of a command replaces its old storage at one instant. -/
  | publishSwap (n : Nat) (c : Nat)
  /-- SEAL (R234). Encrypts chunks in place with AES-GCM and sets their form bits. -/
  | seal (sa : BitVec 6) (sb : BitVec 6) (ks : BitVec 8) (n : BitVec 6)
  /-- OPEN (R234). Decrypts and authenticates chunks in place and clears their form bits. -/
  | openCt (sa : BitVec 6) (sb : BitVec 6) (ks : BitVec 8) (n : BitVec 6)
  /-- YWAIT (R234). Waits until the cipher engine is idle and raises any recorded failure. -/
  | ywait
  /-- CIPHER_COMMAND_COMPLETE (R234). The cipher engine finishes or fails a SEAL or OPEN command. -/
  | cipherCommandComplete (n : Nat)
  /-- REMOTE_REPLY_ARRIVAL (R191). A reply to a remote load, atomic, gate or barrier operation arrives and its value is written at its due cycle or on arrival. -/
  | remoteReplyArrival (id : Nat)
  /-- WRITE_ACK_ARRIVAL (R257). An acknowledgement of a remote store, VACC, non-waiting atomic or GSIG reaches the issuer. -/
  | writeAckArrival (id : Nat)
  /-- FAILURE_NOTICE_ARRIVAL (R311). A notice of a failure found at a home arrives and is raised before the next bundle. -/
  | failureNoticeArrival (id : Nat)
  /-- REMOTE_READ_AT_HOME (R257). A read arrives at its home, waits for covered writes and is answered with merged tags. -/
  | remoteReadAtHome (id : Nat)
  /-- REMOTE_WRITE_AT_HOME (R257). A write arrives at its home and is applied after the writes its tag covers, then acknowledged. -/
  | remoteWriteAtHome (id : Nat)
  /-- REMOTE_ATOMIC_AT_HOME (R278). An atomic or VACC arrives at its home and is performed as one read-modify-write step. -/
  | remoteAtomicAtHome (id : Nat)
  /-- TRANSLATION_WALK_COMPLETE (R328). A page-table walk for a miss finishes and either supplies the translation or raises XLATE. -/
  | translationWalkComplete (die : Nat) (part : Nat) (off : Nat)
  /-- CODE_TAG_CHECK (R22). The first fetch from a code block computes and compares its GCM tag, raising FETCHAUTH on mismatch. -/
  | codeTagCheck (n : Nat) (block : Nat)
  /-- BLOCK_PULL_COMPLETE (R347). An absent presence block is filled from its directory source and becomes present. -/
  | blockPullComplete (n : Nat) (b : Nat)
  /-- OWED_BLOCK_WRITEOUT (R350). A newcomer's touch of an owed block writes it to the outgoing image before the newcomer's block is made present. -/
  | owedBlockWriteout (n : Nat) (b : Nat)
  /-- IMAGE_DRAIN_BLOCK (R351). The drain engine writes one owed block of a checkpoint to its image. -/
  | imageDrainBlock (n : Nat)
  /-- SEGMENT_LOAD (R21). The stand supervisor loads, verifies or reuses a segment for a placed task, or refuses it. -/
  | segmentLoad (n : Nat)
  /-- TOKEN_TICK (R52). At each multiple of 4,096 GCYC counts ready units gain a token and placed units lose one. -/
  | tokenTick (part : Nat)
  /-- CONTRACT_RELEASE (R55). At a job's release count its tasks go to their bound spindles, cutting and suspending other work. -/
  | contractRelease (part : Nat) (c : Nat)
  /-- BUDGET_EXHAUSTED (R27). A contract task uses its full BUDGET and goes on at its node's level without deadline precedence. -/
  | budgetExhausted (part : Nat) (c : Nat)
  /-- DRAIN_LIMIT_EXPIRY (R58). A drained victim not retired DRAINMAX×256 cycles after the choice is resolved again without the drain row. -/
  | drainLimitExpiry (n : Nat)
  /-- SCHEDULER_TRANSACTION_COMMIT (R46). A TLAUNCH, TJOIN, ADMIT or CUT transaction commits atomically and its result is written. -/
  | schedulerTransactionCommit (part : Nat)
  /-- TASK_RETIREMENT (R378). When TEND's completion ordering is met the task retires, DONE increments and the spindle is freed. -/
  | taskRetirement (n : Nat)
  /-- CUT_STOP (R340). At the cut count every spindle of the set stops issuing and is captured, killed or reported by KIND. -/
  | cutStop (n : Nat)
  /-- QUIESCENCE (R343). Nothing of a captured context remains in flight and its PIPE block is finalised. -/
  | quiescence (n : Nat)
  /-- PPBOUND_COUNT_EXPIRY (R335). The PPBOUND count exceeds BOUND and raises PPBOUND, or takes a pending checkpoint. -/
  | ppboundCountExpiry (n : Nat)
  /-- WATCHDOG (R323). A continuous wait exceeds FRZLIM and WATCHDOG is escalated. -/
  | watchdog (n : Nat)
  /-- DISPOSITION_RESUME (R321). A supervisor RESUME writes SRET if asked and resumes the held spindle at EPC or ADDR. -/
  | dispositionResume (stand : Nat) (k : Nat) (newpc : Bool) (setx : Bool) (xreg : BitVec 5) (addr : BitVec 16)
  /-- DISPOSITION_KILL (R321). A supervisor KILL ends the held task and fails its node. -/
  | dispositionKill (stand : Nat) (k : Nat)
  /-- TRAP_RING_TAIL_WRITE (R320). A write of TRQTAIL consumes records, freeing ring slots for held escalations. -/
  | trapRingTailWrite (stand : Nat) (val : BitVec 32)
  /-- BARRIER_ARRIVAL (R285). The barrier unit checks and counts an arrival, holds early ones, and completes the phase when the count is met. -/
  | barrierArrival (id : Nat)
  /-- BARRIER_COMPLETION_NOTICE (R287). The completion of a phase reaches a waiting BARRW, which ends its wait. -/
  | barrierCompletionNotice (n : Nat)
  /-- STEP_COMPLETION (R289). A gang step completes once every task has arrived and its accesses are applied. -/
  | stepCompletion (part : Nat) (handle : Nat) (node : Nat)
  /-- GATE_OPERATION_AT_HOME (R302). The gate unit checks rights and tokens and applies a signal, test or wait registration. -/
  | gateOperationAtHome (id : Nat)
  /-- GATE_WAIT_TIMEOUT (R302). A registered GWAIT reaches WLIM and returns TIMEOUT. -/
  | gateWaitTimeout (id : Nat)
  /-- GATE_TOKEN_REFILL (R299). At each GCYC multiple of REFILL one token is added to an entry's bucket up to BURST. -/
  | gateTokenRefill (gate : Nat) (entry : Nat)
  /-- GCNT_WRITE (R298). A hypervisor write replaces a gate's counter and tests every registered wait again. -/
  | gcntWrite (gate : Nat) (val : BitVec 64)
  /-- GATE_VALID_WRITE (R304). Writing a gate's VALID; clearing it fails every registered wait with GATE. -/
  | gateValidWrite (port : Nat) (gate : Nat) (val : Bool)
  /-- ACL_ENTRY_WRITE (R299). A write to a gate access-list entry sets its rights and fills its bucket to BURST. -/
  | aclEntryWrite (port : Nat) (gate : Nat) (entry : Nat) (val : BitVec 64)
  /-- HGSIG (R307). A host-party write signals a gate through a binding after its port's earlier writes are applied. -/
  | hgsig (port : Nat) (part : Nat) (bnd : Nat) (val : BitVec 64)
  /-- HGCNT (R307). A host-party read returns a gate's counter without consuming a token. -/
  | hgcnt (port : Nat) (part : Nat) (bnd : Nat)
  /-- HWAKE_WRITE (R307). A host-party write arms an MSI-X wake for when the gate's counter reaches a value. -/
  | hwakeWrite (port : Nat) (part : Nat) (bnd : Nat) (val : BitVec 64)
  /-- LEASE_CLAIM (R34). A port's CLAIM write takes, renews or registers standby for the host lease. -/
  | leaseClaim (port : Nat) (claim : BitVec 2)
  /-- LEASE_EXPIRY (R34). One millisecond without renewal expires the lease and passes it to the standby port. -/
  | leaseExpiry
  /-- HOST_MEMORY_WRITE (R267). A host write through BAR2 is applied at its translated home after that port's earlier writes. -/
  | hostMemoryWrite (port : Nat) (part : Nat) (off : Nat) (data : List (BitVec 8))
  /-- HOST_MEMORY_READ (R267). A host read through BAR2 is answered after that port's earlier writes, with poisoned lines marked. -/
  | hostMemoryRead (port : Nat) (part : Nat) (off : Nat) (len : Nat)
  /-- PSPIN_WRITE (R49). A write to a partition spindle mask assigns spindles, ignoring ones owned elsewhere and killing tasks on removed ones. -/
  | pspinWrite (port : Nat) (part : Nat) (word : Nat) (val : BitVec 64)
  /-- RESERVATION_WRITE (R295). A write to a strict bandwidth reservation is discarded with UR if it would exceed a cap. -/
  | reservationWrite (port : Nat) (part : Nat) (val : BitVec 64)
  /-- LSDOM_WRITE (R405). A write to LSDOM sets the module number and domain size only while every interface is unlocked. -/
  | lsdomWrite (port : Nat) (val : BitVec 64)
  /-- XINV_WRITE (R332). Writing 1 to XINV starts an invalidation of the partition's translations. -/
  | xinvWrite (part : Nat) (val : Bool)
  /-- INVALIDATION_COMPLETE (R332). An invalidation completes once units have dropped old translations, reloaded pins and applied old accesses. -/
  | invalidationComplete (part : Nat)
  /-- HCUT (R339). A write to HCUT issues a hypervisor cut from a descriptor in HBM. -/
  | hcut (val : BitVec 64)
  /-- HCUT_ACCEPT (R339). After the partitions' transaction waits end the hypervisor cut is accepted or refused and STATUS is set. -/
  | hcutAccept
  /-- POWER_EVALUATION (R358). Each millisecond the controller compares power with the cap and takes or undoes one shedding action. -/
  | powerEvaluation (watts : BitVec 16)
  /-- POWER_CAP_WRITE (R357). A write to CAP sets the module power cap clamped to 1,200 to 4,800 watts. -/
  | powerCapWrite (val : BitVec 64)
  /-- DROOP_TRIP (R355). A stand's droop detector trips and stretches cycles or swallows pulses. -/
  | droopTrip (stand : Nat) (level : Nat) (count : Nat)
  /-- PATROL_SCRUB (R380). The patrol scrubber reads a line, correcting or poisoning and logging errors. -/
  | patrolScrub (at_ : StoreAt)
  /-- COLD_RESET (R361). Power-on or cold reset starts the secure boot sequence. -/
  | coldReset
  /-- IMAGE_LOCATOR_RECEIVED (R361). A DHCPv6 image locator arrives and the image fetch begins. -/
  | imageLocatorReceived (port : Bool)
  /-- LINK_WAIT_TIMEOUT (R361). Port 0 has no link within 2 s and boot turns to port 1. -/
  | linkWaitTimeout
  /-- IMAGE_FETCH_COMPLETE (R361). The fetched boot image is checked, loaded and measured and the module starts. -/
  | imageFetchComplete (image : List (BitVec 8))
  /-- WARM_RESET (R383). A warm reset repeats boot from stage 1 and keeps the black box. -/
  | warmReset
  /-- FATAL_ERROR (R383). A fatal error sets FATAL and schedules every spindle to stop at F+64. -/
  | fatalError (row : Nat)
  /-- FATAL_STOP (R383). Spindles stop at F+64 and the firmware writes and sends the dump. -/
  | fatalStop
  /-- GET_VERSION (R365). An SPDM request answered with version 1.3. -/
  | getVersion (port : Nat)
  /-- GET_CAPABILITIES (R365). An SPDM request answered with the fixed capabilities. -/
  | getCapabilities (port : Nat)
  /-- NEGOTIATE_ALGORITHMS (R365). An SPDM request answered with the fixed algorithms. -/
  | negotiateAlgorithms (port : Nat)
  /-- GET_DIGESTS (R365). An SPDM request for the digest of certificate slot 0. -/
  | getDigests (port : Nat)
  /-- GET_CERTIFICATE (R365). An SPDM request for the slot 0 certificate chain. -/
  | getCertificate (port : Nat) (slot : Nat) (off : Nat) (len : Nat) (chunked : Bool)
  /-- CHALLENGE (R365). An SPDM challenge answered with a signature by the device key. -/
  | challenge (port : Nat) (slot : Nat) (nonce : List (BitVec 8))
  /-- GET_MEASUREMENTS (R367). An SPDM request for the measurement digests. -/
  | getMeasurements (port : Nat) (index : Nat)
  /-- KEY_EXCHANGE (R366). An SPDM ECDHE key exchange that opens a session with its heartbeat period. -/
  | keyExchange (port : Nat) (slot : Nat) (period : Nat) (psk : Bool) (mutAuth : Bool)
  /-- FINISH (R365). An SPDM FINISH that completes session establishment. -/
  | finish (sess : Nat)
  /-- HEARTBEAT (R366). A secured heartbeat that keeps a session alive. -/
  | heartbeat (sess : Nat)
  /-- KEY_UPDATE (R365). An SPDM request that updates a session's keys. -/
  | keyUpdate (sess : Nat)
  /-- END_SESSION (R366). Ends a session at once, a trust event for interfaces bound to it. -/
  | endSession (sess : Nat)
  /-- SESSION_EXPIRY (R366). No secured message within twice the heartbeat period ends the session. -/
  | sessionExpiry (sess : Nat)
  /-- KEYSET (R368). A vendor request that installs a key in a slot and resets its IV counter. -/
  | keyset (sess : Nat) (part : Nat) (slot : Nat) (key : List (BitVec 8))
  /-- KEYCLR (R368). A vendor request that zeroises and empties a key slot. -/
  | keyclr (sess : Nat) (part : Nat) (slot : Nat)
  /-- SIGNREG (R368). A vendor request that registers an RSA-3072 signing key under a KEYID. -/
  | signreg (sess : Nat) (part : Nat) (keyid : BitVec 64) (modulus : List (BitVec 8))
  /-- SIGNCLR (R368). A vendor request that removes a signer entry. -/
  | signclr (sess : Nat) (part : Nat) (keyid : BitVec 64)
  /-- LOCK_INTERFACE_REQUEST (R371). Locks an unlocked interface, binding it to the session and fixing its configuration. -/
  | lockInterfaceRequest (sess : Nat) (part : Nat)
  /-- GET_DEVICE_INTERFACE_REPORT (R371). Returns the locked interface report. -/
  | getDeviceInterfaceReport (sess : Nat) (part : Nat)
  /-- GET_DEVICE_INTERFACE_STATE (R371). Returns the interface state. -/
  | getDeviceInterfaceState (sess : Nat) (part : Nat)
  /-- START_INTERFACE_REQUEST (R371). Moves a locked interface to RUN, loading PIN leaves and launching the root graph. -/
  | startInterfaceRequest (sess : Nat) (part : Nat)
  /-- STOP_INTERFACE_REQUEST (R371). Stops an interface with a teardown and returns it to CONFIG_UNLOCKED. -/
  | stopInterfaceRequest (sess : Nat) (part : Nat)
  /-- TEARDOWN_SCRUB_COMPLETE (R374). After quiescence the partition's plaintext, keys and segments are zeroised and the STOP response is sent. -/
  | teardownScrubComplete (part : Nat)
  /-- REGISTER_WRITE (R7). A write to a register with no row of its own updates its writable fields by their access codes. -/
  | registerWrite (port : Nat) (reg : RegName) (val : BitVec 64)
  /-- UPDATE_START (R385). A write of UPDIMG starts verifying and loading a scheduler update into the inactive slot. -/
  | updateStart (val : BitVec 64)
  /-- UPDATE_SWITCH (R385). After verification the scheduler commits in-flight transactions, moves state and activates the new slot. -/
  | updateSwitch
  /-- FIRMWARE_HEARTBEAT (R385). The new scheduler firmware signals a heartbeat. -/
  | firmwareHeartbeat
  /-- UPDATE_COMMIT (R385). After 100 ms of heartbeats the update commits and measurement 4 changes. -/
  | updateCommit
  /-- HEARTBEAT_MISSED (R385). A missed firmware heartbeat rolls back before the commit, or is fatal after it. -/
  | heartbeatMissed
  /-- EXPOSED_RESULT_LANDING (R73). An issued result reaches its due cycle and is written to its register, row or predicate, or, if remote and not yet arrived, raises the freeze. -/
  | exposedResultLanding (n : Nat)
  /-- DECLARED_BOUND_EXPIRY (R294). Under STRICT a declared bound runs out during a freeze and OVERRUN is raised in that frozen cycle. -/
  | declaredBoundExpiry (n : Nat)
  /-- PERSISTENCE_REACHED (R232). Writes covered by a PERSIST reach the CXL persistence domain and the PERSIST freeze ends. -/
  | persistenceReached (n : Nat)
  /-- DROOP_RECOVERY (R355). A stand's droop detector stops tripping, so cycles are no longer stretched and the droop count of pulse swallowing returns to 0. -/
  | droopRecovery (stand : Nat)
  /-- POWER_LOSS (R379). Module power is lost, and every write not made durable by a covering PERSIST may be lost. -/
  | powerLoss
  deriving DecidableEq, Repr

end Sys2Proof
end

