-- ==== Sys2Proof/WellFormed.lean ====
section
/-!
DEFINITION. Which instructions the encoding admits whatever the state: the fates that R81, R82, R85 to R90 and the
defining rules give to field values. What depends on the bundle or on the state (LIT, the end offset, PRIV, HMODE,
RFE outside handler mode) is checked at the bundle start (R78) and not here.
-/

namespace Sys2Proof

/-- Operand kind of an RR or FR word (R81): 11 is ILLEGAL, and a literal number has its upper three bits zero. -/
def okB (rb : BitVec 5) (bk : BitVec 2) : Bool :=
  bk != 3#2 && (bk != 1#2 || rb.toNat < 3)

/-- A predicate destination is never p0 (R106). -/
def okPd (pd : BitVec 3) : Bool := pd != 0#3

/-- The y register of a broadcast operand needs vb[5] zero (R87). -/
def okVb (vb : BitVec 6) (s : Bool) : Bool := !s || vb.toNat < 32

/-- The control register numbers that R134 assigns. -/
def crAssigned (num : BitVec 16) : Bool :=
  let n := num.toNat
  n ≤ 0x00E || (0x010 ≤ n && n ≤ 0x016) || (0x018 ≤ n && n ≤ 0x01B) || (0x020 ≤ n && n ≤ 0x022)
    || (0x030 ≤ n && n ≤ 0x0C7)

/-- The control registers whose fields are all RO and that the map does not mark "Traps" (R117, R129, R214). -/
def crReadOnly (num : BitVec 16) : Bool :=
  let n := num.toNat
  n == 0x000 || (0x008 ≤ n && n ≤ 0x00D) || (0x018 ≤ n && n ≤ 0x01B) || n == 0x021 || n == 0x022
    || (0x080 ≤ n && n ≤ 0x0BF && 6 ≤ n % 8)

/-- The target codes of VCVT that are legal (R88). -/
def okVcvt (code : BitVec 4) : Bool := code.toNat ≤ 4 || code.toNat == 10

/-- Whether the operands of a slot word are among those that its encoding admits; an event has the ranges of the
parts that it names. -/
def Instr.wf : Instr → Bool
  | .nop _ => true
  | .emptyBundle _ _ => true
  | .bankLockPrefix n ga maska gb maskb => n != 0#3 && maska != 0#8 && (ga != gb || maskb == 0#8)
  | .add _ _ _ rb bk _ => okB rb bk
  | .sub _ _ _ rb bk _ => okB rb bk
  | .and _ _ _ rb bk _ => okB rb bk
  | .or _ _ _ rb bk _ => okB rb bk
  | .xor _ _ _ rb bk _ => okB rb bk
  | .andn _ _ _ rb bk _ => okB rb bk
  | .sll _ _ _ rb bk _ => okB rb bk
  | .srl _ _ _ rb bk _ => okB rb bk
  | .sra _ _ _ rb bk _ => okB rb bk
  | .slt _ _ _ rb bk _ => okB rb bk
  | .sltu _ _ _ rb bk _ => okB rb bk
  | .min _ _ _ rb bk _ => okB rb bk
  | .max _ _ _ rb bk _ => okB rb bk
  | .minu _ _ _ rb bk _ => okB rb bk
  | .maxu _ _ _ rb bk _ => okB rb bk
  | .clz _ _ _ _ => true
  | .popc _ _ _ _ => true
  | .addw _ _ _ rb bk _ => okB rb bk
  | .subw _ _ _ rb bk _ => okB rb bk
  | .sllw _ _ _ rb bk _ => okB rb bk
  | .srlw _ _ _ rb bk _ => okB rb bk
  | .sraw _ _ _ rb bk _ => okB rb bk
  | .hash _ _ _ rb bk _ => okB rb bk
  | .mul _ _ _ rb bk _ => okB rb bk
  | .mulh _ _ _ rb bk _ => okB rb bk
  | .mulhu _ _ _ rb bk _ => okB rb bk
  | .mulw _ _ _ rb bk _ => okB rb bk
  | .div _ _ rb bk _ => okB rb bk
  | .divu _ _ rb bk _ => okB rb bk
  | .rem _ _ rb bk _ => okB rb bk
  | .remu _ _ rb bk _ => okB rb bk
  | .addi _ _ _ _ _ => true
  | .andi _ _ _ _ _ => true
  | .ori _ _ _ _ _ => true
  | .xori _ _ _ _ _ => true
  | .slli _ _ _ _ _ => true
  | .srli _ _ _ _ _ => true
  | .srai _ _ _ _ _ => true
  | .slti _ _ _ _ _ => true
  | .limm _ _ _ => true
  | .limmh _ _ _ => true
  | .fimm _ _ _ => true
  | .lit _ _ num => num.toNat < 3
  | .litS _ _ num => num.toNat < 3
  | .litD _ _ num => num.toNat < 2
  | .kld _ _ _ => true
  | .pcmp _ pd _ rb bk cond _ => okB rb bk && okPd pd && cond.toNat < 6
  | .pcmpi _ pd cond _ _ _ => okPd pd && cond.toNat < 6
  | .pand _ pd _ _ _ => okPd pd
  | .por _ pd _ _ _ => okPd pd
  | .pxor _ pd _ _ _ => okPd pd
  | .pandn _ pd _ _ _ => okPd pd
  | .sel _ _ _ rb bk _ _ => okB rb bk
  | .xmov _ _ _ _ => true
  | .crd _ _ num => crAssigned num
  | .cwr _ _ num => crAssigned num && !crReadOnly num
  | .acvtGen2loc _ _ _ _ => true
  | .acvtGen2shr _ _ _ _ => true
  | .acvtGen2clu _ _ _ _ => true
  | .acvtLoc2gen _ _ _ _ => true
  | .acvtShr2gen _ _ _ _ => true
  | .acvtClu2gen _ _ _ _ => true
  | .atest _ pd _ ap _ => okPd pd && ap.toNat < 5
  | .fadd _ _ _ rb bk _ _ _ _ => okB rb bk
  | .fsub _ _ _ rb bk _ _ _ _ => okB rb bk
  | .fmul _ _ _ rb bk _ _ _ _ => okB rb bk
  | .fmin _ _ _ rb bk _ _ => okB rb bk
  | .fmax _ _ _ rb bk _ _ => okB rb bk
  | .fabs _ _ _ _ => true
  | .fneg _ _ _ _ => true
  | .fcvt _ _ _ _ _ _ _ => true
  | .ftoi _ _ _ _ _ _ => true
  | .fito _ _ _ _ _ => true
  | .fdiv _ _ rb bk _ _ _ _ => okB rb bk
  | .fsqrt _ _ _ _ _ _ => true
  | .fma _ _ _ _ _ _ _ _ _ => true
  | .fnma _ _ _ _ _ _ _ _ _ => true
  | .fcmp _ pd _ _ _ _ => okPd pd
  | .fclass _ _ _ _ _ => true
  | .br _ _ => true
  | .jr _ _ _ => true
  | .call _ _ => true
  | .ret _ => true
  | .loop _ sm1 _ _ => sm1 == 0#3
  | .loopR _ _ _ _ => true
  | .loopi _ sm1 count _ => sm1 == 0#3 && count != 0#10
  | .loopiR _ _ count _ => count != 0#10
  | .lbrk _ => true
  | .frame _ => true
  | .sysc _ _ => true
  | .brk _ _ => true
  | .tend _ => true
  | .est _ _ => true
  | .rfe => true
  | .esc _ _ => true
  | .tlaunch _ _ _ => true
  | .tjoin _ _ _ => true
  | .tjoinW _ _ _ => true
  | .admitC _ _ _ => true
  | .admitX _ _ _ => true
  | .gsig _ _ _ _ => true
  | .gwait _ _ _ _ => true
  | .gpoll _ _ _ _ => true
  | .barra _ _ _ _ => true
  | .barraQ _ _ _ => true
  | .barrw _ _ _ => true
  | .sstep _ _ => true
  | .fence scope _ => scope.toNat < 6
  | .cut _ _ _ => true
  | .ldb _ _ _ _ => true
  | .ldh _ _ _ _ => true
  | .ldw _ _ _ _ => true
  | .ldd _ _ _ _ => true
  | .ldbz _ _ _ _ => true
  | .ldhz _ _ _ _ => true
  | .ldwz _ _ _ _ => true
  | .stb _ _ _ _ => true
  | .sth _ _ _ _ => true
  | .stw _ _ _ _ => true
  | .std _ _ _ _ => true
  | .vld _ _ _ _ => true
  | .vst _ _ _ _ => true
  | .aintAddW _ _ _ _ _ => true
  | .aintAddD _ _ _ _ _ => true
  | .aintAnd _ _ _ _ _ => true
  | .aintOr _ _ _ _ _ => true
  | .aintXor _ _ _ _ _ => true
  | .aintMin _ _ _ _ _ => true
  | .aintMax _ _ _ _ _ => true
  | .aintMinz _ _ _ _ _ => true
  | .aintMaxz _ _ _ _ _ => true
  | .aintSwapW _ _ _ _ _ => true
  | .aintSwapD _ _ _ _ _ => true
  | .afpFadd _ _ _ _ _ _ => true
  | .afpFmin _ _ _ _ _ _ => true
  | .afpFmax _ _ _ _ _ _ => true
  | .acasW _ _ _ _ _ => true
  | .acasD _ _ _ _ _ => true
  | .acasQ _ _ _ _ _ => true
  | .vaccOvw _ _ _ _ => true
  | .vaccAddF32 _ _ _ _ => true
  | .vaccAddF64 _ _ _ _ => true
  | .vaccAddBf16 _ _ _ _ => true
  | .vaccAddF16 _ _ _ _ => true
  | .vaccAddI32 _ _ _ _ => true
  | .bpop _ _ _ _ => true
  | .bpush _ _ _ _ => true
  | .badvC _ _ _ => true
  | .badvP _ _ _ => true
  | .bwaitC _ _ _ => true
  | .bwaitP _ _ _ => true
  | .vadd _ _ vb _ _ _ s _ => okVb vb s
  | .vsub _ _ vb _ _ _ s _ => okVb vb s
  | .vmul _ _ vb _ _ _ s _ => okVb vb s
  | .vfma _ _ vb _ _ _ s _ => okVb vb s
  | .vfmac _ _ vb _ _ _ s _ => okVb vb s
  | .vmin _ _ vb _ _ s _ => okVb vb s
  | .vmax _ _ vb _ _ s _ => okVb vb s
  | .vabs _ _ _ _ => true
  | .vneg _ _ _ _ => true
  | .vdiv _ _ vb _ _ _ s _ => okVb vb s
  | .vexp _ _ _ _ _ _ => true
  | .vexp2 _ _ _ _ _ _ => true
  | .vlog2 _ _ _ _ _ _ => true
  | .vrcp _ _ _ _ _ _ => true
  | .vrsqrt _ _ _ _ _ _ => true
  | .vsqrt _ _ _ _ _ _ => true
  | .vrmax _ _ _ _ _ => true
  | .vrmin _ _ _ _ _ => true
  | .vrsum _ _ _ _ _ _ => true
  | .vcmplt _ _ vb _ _ s _ => okVb vb s
  | .vcmpeq _ _ vb _ _ s _ => okVb vb s
  | .vsel _ _ vb _ s _ => okVb vb s
  | .vcvt _ _ code _ _ _ _ => okVcvt code
  | .vmov _ _ _ => true
  | .vbcast _ _ _ _ _ => true
  | .vbcastY _ _ _ _ => true
  | .vlsh _ _ _ _ _ => true
  | .vlshY _ _ _ _ _ => true
  | .vget _ _ _ _ _ => true
  | .vput _ _ _ _ _ => true
  | .viadd _ _ vb s _ => okVb vb s
  | .visub _ _ vb s _ => okVb vb s
  | .vimul _ _ vb s _ => okVb vb s
  | .vand _ _ vb s _ => okVb vb s
  | .vor _ _ vb s _ => okVb vb s
  | .vxor _ _ vb s _ => okVb vb s
  | .vsll _ _ vb s _ => okVb vb s
  | .vsrl _ _ vb s _ => okVb vb s
  | .vsra _ _ vb s _ => okVb vb s
  | .vimin _ _ vb s _ => okVb vb s
  | .vimax _ _ vb s _ => okVb vb s
  | .vadd8 _ _ vb _ _ _ s _ => okVb vb s
  | .vmul8 _ _ vb _ _ _ s _ => okVb vb s
  | .viota _ _ _ => true
  | .vrng _ _ vb s _ => okVb vb s
  | .mcallGemm _ _ _ _ => true
  | .mcallGemmt _ _ _ _ => true
  | .mcallGemmz _ _ _ _ => true
  | .mcallGemv _ _ _ _ => true
  | .mcallOuter _ _ _ _ => true
  | .mcallTrans => true
  | .mcallDgemm _ _ _ _ => true
  | .mcallRowsc _ _ => true
  | .mcallColred _ => true
  | .mcallCvtout _ _ => true
  | .mcallLoadc _ _ => true
  | .mzero _ => true
  | .mwait => true
  | .mwaitTile _ => true
  | .matrixRoutineComplete n => n < 320
  | .matrixRoutineStop n => n < 320
  | .cpy _ _ _ _ _ => true
  | .publ _ => true
  | .gath _ _ _ _ _ => true
  | .scat _ _ _ _ => true
  | .coll _ _ _ => true
  | .sbar after before => after != 0#3 && before != 0#3
  | .cwait _ => true
  | .persist _ _ => true
  | .cpyb _ n _ _ => n != 0#7
  | .bdrain _ n _ _ => n != 0#7
  | .streamLineMove n => n < 320
  | .streamComplete n c => n < 320 && c < 8
  | .streamDeadlineExpiry n c => n < 320 && c < 8
  | .publishSwap n c => n < 320 && c < 8
  | .seal _ _ _ _ => true
  | .openCt _ _ _ _ => true
  | .ywait => true
  | .cipherCommandComplete n => n < 320
  | .remoteReplyArrival _ => true
  | .writeAckArrival _ => true
  | .failureNoticeArrival _ => true
  | .remoteReadAtHome _ => true
  | .remoteWriteAtHome _ => true
  | .remoteAtomicAtHome _ => true
  | .translationWalkComplete die part _ => die < 8 && part < 64
  | .codeTagCheck n _ => n < 320
  | .blockPullComplete n _ => n < 320
  | .owedBlockWriteout n _ => n < 320
  | .imageDrainBlock n => n < 320
  | .segmentLoad n => n < 320
  | .tokenTick part => part < 64
  | .contractRelease part _ => part < 64
  | .budgetExhausted part _ => part < 64
  | .drainLimitExpiry n => n < 320
  | .schedulerTransactionCommit part => part < 64
  | .taskRetirement n => n < 320
  | .cutStop n => n < 320
  | .quiescence n => n < 320
  | .ppboundCountExpiry n => n < 320
  | .watchdog n => n < 320
  | .dispositionResume stand k _ _ _ _ => stand < 40 && k < 8
  | .dispositionKill stand k => stand < 40 && k < 8
  | .trapRingTailWrite stand _ => stand < 40
  | .barrierArrival _ => true
  | .barrierCompletionNotice n => n < 320
  | .stepCompletion part _ _ => part < 64
  | .gateOperationAtHome _ => true
  | .gateWaitTimeout _ => true
  | .gateTokenRefill gate entry => gate < 4096 && entry < 8
  | .gcntWrite gate _ => gate < 4096
  | .gateValidWrite port gate _ => port < 2 && gate < 4096
  | .aclEntryWrite port gate entry _ => port < 2 && gate < 4096 && entry < 8
  | .hgsig port part bnd _ => port < 2 && part < 64 && bnd < 256
  | .hgcnt port part bnd => port < 2 && part < 64 && bnd < 256
  | .hwakeWrite port part bnd _ => port < 2 && part < 64 && bnd < 256
  | .leaseClaim port _ => port < 2
  | .leaseExpiry => true
  | .hostMemoryWrite port part _ _ => port < 2 && part < 64
  | .hostMemoryRead port part _ _ => port < 2 && part < 64
  | .pspinWrite port part word _ => port < 2 && part < 64 && word < 5
  | .reservationWrite port part _ => port < 2 && part < 64
  | .lsdomWrite port _ => port < 2
  | .xinvWrite part _ => part < 64
  | .invalidationComplete part => part < 64
  | .hcut _ => true
  | .hcutAccept => true
  | .powerEvaluation _ => true
  | .powerCapWrite _ => true
  | .droopTrip stand level count => stand < 40 && level ≤ 8 && count ≤ 8
  | .patrolScrub at_ => match at_ with
    | .line _ => true
    | .code n b => n < 320 && (b == 5 || (294 ≤ b && b < 310))
    | .control n => n < 320
  | .coldReset => true
  | .imageLocatorReceived _ => true
  | .linkWaitTimeout => true
  | .imageFetchComplete _ => true
  | .warmReset => true
  | .fatalError row => row < 7
  | .fatalStop => true
  | .getVersion port => port < 2
  | .getCapabilities port => port < 2
  | .negotiateAlgorithms port => port < 2
  | .getDigests port => port < 2
  | .getCertificate port slot _ _ _ => port < 2 && slot < 8
  | .challenge port slot _ => port < 2 && slot < 8
  | .getMeasurements port _ => port < 2
  | .keyExchange port slot _ _ _ => port < 2 && slot < 8
  | .finish sess => sess < 8
  | .heartbeat sess => sess < 8
  | .keyUpdate sess => sess < 8
  | .endSession sess => sess < 8
  | .sessionExpiry sess => sess < 8
  | .keyset sess part slot _ => sess < 8 && part < 64 && slot < 256
  | .keyclr sess part slot => sess < 8 && part < 64 && slot < 256
  | .signreg sess part _ _ => sess < 8 && part < 64
  | .signclr sess part _ => sess < 8 && part < 64
  | .lockInterfaceRequest sess part => sess < 8 && part < 64
  | .getDeviceInterfaceReport sess part => sess < 8 && part < 64
  | .getDeviceInterfaceState sess part => sess < 8 && part < 64
  | .startInterfaceRequest sess part => sess < 8 && part < 64
  | .stopInterfaceRequest sess part => sess < 8 && part < 64
  | .teardownScrubComplete part => part < 64
  | .registerWrite port _ _ => port < 2
  | .updateStart _ => true
  | .updateSwitch => true
  | .firmwareHeartbeat => true
  | .updateCommit => true
  | .heartbeatMissed => true
  | .exposedResultLanding n => n < 320
  | .declaredBoundExpiry n => n < 320
  | .persistenceReached n => n < 320
  | .droopRecovery stand => stand < 40
  | .powerLoss => true

end Sys2Proof
end

