-- ==== Sys2Proof/Decode.lean ====
section
/-!
DEFINITION. The decoder and the encoder of slot words, of headers and of lock prefixes, from the encoding tables of
R67, R70, R80 to R90. A word is read at the place that the header gives it: one of the seven slots, or the start of a
bundle. The decoder is total: what no row of the table is, and what R81, R82 and R85 to R90 call ILLEGAL, MROUTINE or
FMT, is rejected under that name.
-/

namespace Sys2Proof

/-- Bits [lo + n - 1 : lo] of the word whose value is `w` (R6). -/
def fld (w lo n : Nat) : Nat := w / 2 ^ lo % 2 ^ n

/-- A field as a bit vector. -/
def bits (w lo n : Nat) : BitVec n := BitVec.ofNat n (fld w lo n)

/-- A one-bit field as a truth value. -/
def flag (w lo : Nat) : Bool := fld w lo 1 == 1

/-- A truth value as a one-bit field. -/
def bit (b : Bool) : Nat := if b then 1 else 0

/-- The decode faults of the fetch chapter (R76, R78). -/
inductive DecodeFault where
  /-- An encoding that R76 to R90 mark ILLEGAL. -/
  | illegal
  /-- A matrix routine index from 0x0B to 0xFF (R90). -/
  | mroutine
  /-- A VCVT target code from 0xB to 0xF (R88). -/
  | fmt
  /-- A header or prefix that R67, R68 or R70 reject. -/
  | illhdr
  deriving DecidableEq, Repr

/-- Where a word stands: in a slot, or at a bundle start. -/
inductive Place where
  | slot (sl : Slot)
  | start
  deriving DecidableEq, Repr

/-- Words common to SX and SY (R82, R83), op 0x01. -/
def rawBoth01 (cl : Cluster) (w : Nat) : Option Instr :=
  if fld w 4 5 = 0 then some (.add cl (bits w 21 5) (bits w 16 5) (bits w 11 5) (bits w 9 2) (bits w 0 4)) else
  if fld w 4 5 = 1 then some (.sub cl (bits w 21 5) (bits w 16 5) (bits w 11 5) (bits w 9 2) (bits w 0 4)) else
  if fld w 4 5 = 2 then some (.and cl (bits w 21 5) (bits w 16 5) (bits w 11 5) (bits w 9 2) (bits w 0 4)) else
  if fld w 4 5 = 3 then some (.or cl (bits w 21 5) (bits w 16 5) (bits w 11 5) (bits w 9 2) (bits w 0 4)) else
  if fld w 4 5 = 4 then some (.xor cl (bits w 21 5) (bits w 16 5) (bits w 11 5) (bits w 9 2) (bits w 0 4)) else
  if fld w 4 5 = 5 then some (.andn cl (bits w 21 5) (bits w 16 5) (bits w 11 5) (bits w 9 2) (bits w 0 4)) else
  if fld w 4 5 = 6 then some (.sll cl (bits w 21 5) (bits w 16 5) (bits w 11 5) (bits w 9 2) (bits w 0 4)) else
  if fld w 4 5 = 7 then some (.srl cl (bits w 21 5) (bits w 16 5) (bits w 11 5) (bits w 9 2) (bits w 0 4)) else
  if fld w 4 5 = 8 then some (.sra cl (bits w 21 5) (bits w 16 5) (bits w 11 5) (bits w 9 2) (bits w 0 4)) else
  if fld w 4 5 = 9 then some (.slt cl (bits w 21 5) (bits w 16 5) (bits w 11 5) (bits w 9 2) (bits w 0 4)) else
  if fld w 4 5 = 10 then some (.sltu cl (bits w 21 5) (bits w 16 5) (bits w 11 5) (bits w 9 2) (bits w 0 4)) else
  if fld w 4 5 = 11 then some (.min cl (bits w 21 5) (bits w 16 5) (bits w 11 5) (bits w 9 2) (bits w 0 4)) else
  if fld w 4 5 = 12 then some (.max cl (bits w 21 5) (bits w 16 5) (bits w 11 5) (bits w 9 2) (bits w 0 4)) else
  if fld w 4 5 = 13 then some (.minu cl (bits w 21 5) (bits w 16 5) (bits w 11 5) (bits w 9 2) (bits w 0 4)) else
  if fld w 4 5 = 14 then some (.maxu cl (bits w 21 5) (bits w 16 5) (bits w 11 5) (bits w 9 2) (bits w 0 4)) else
  if fld w 4 12 = 15 then some (.clz cl (bits w 21 5) (bits w 16 5) (bits w 0 4)) else
  if fld w 4 12 = 16 then some (.popc cl (bits w 21 5) (bits w 16 5) (bits w 0 4)) else
  if fld w 4 5 = 17 then some (.addw cl (bits w 21 5) (bits w 16 5) (bits w 11 5) (bits w 9 2) (bits w 0 4)) else
  if fld w 4 5 = 18 then some (.subw cl (bits w 21 5) (bits w 16 5) (bits w 11 5) (bits w 9 2) (bits w 0 4)) else
  if fld w 4 5 = 19 then some (.sllw cl (bits w 21 5) (bits w 16 5) (bits w 11 5) (bits w 9 2) (bits w 0 4)) else
  if fld w 4 5 = 20 then some (.srlw cl (bits w 21 5) (bits w 16 5) (bits w 11 5) (bits w 9 2) (bits w 0 4)) else
  if fld w 4 5 = 21 then some (.sraw cl (bits w 21 5) (bits w 16 5) (bits w 11 5) (bits w 9 2) (bits w 0 4)) else
  if fld w 4 5 = 22 then some (.hash cl (bits w 21 5) (bits w 16 5) (bits w 11 5) (bits w 9 2) (bits w 0 4)) else
  none

/-- Words common to SX and SY (R82, R83), op 0x02. -/
def rawBoth02 (cl : Cluster) (w : Nat) : Option Instr :=
  if fld w 4 5 = 0 then some (.mul cl (bits w 21 5) (bits w 16 5) (bits w 11 5) (bits w 9 2) (bits w 0 4)) else
  if fld w 4 5 = 1 then some (.mulh cl (bits w 21 5) (bits w 16 5) (bits w 11 5) (bits w 9 2) (bits w 0 4)) else
  if fld w 4 5 = 2 then some (.mulhu cl (bits w 21 5) (bits w 16 5) (bits w 11 5) (bits w 9 2) (bits w 0 4)) else
  if fld w 4 5 = 3 then some (.mulw cl (bits w 21 5) (bits w 16 5) (bits w 11 5) (bits w 9 2) (bits w 0 4)) else
  none

/-- Words common to SX and SY (R82, R83), op 0x03. -/
def rawBoth03 (cl : Cluster) (w : Nat) : Option Instr :=
  some (.addi cl (bits w 21 5) (bits w 16 5) (bits w 4 12) (bits w 0 4))

/-- Words common to SX and SY (R82, R83), op 0x04. -/
def rawBoth04 (cl : Cluster) (w : Nat) : Option Instr :=
  some (.andi cl (bits w 21 5) (bits w 16 5) (bits w 4 12) (bits w 0 4))

/-- Words common to SX and SY (R82, R83), op 0x05. -/
def rawBoth05 (cl : Cluster) (w : Nat) : Option Instr :=
  some (.ori cl (bits w 21 5) (bits w 16 5) (bits w 4 12) (bits w 0 4))

/-- Words common to SX and SY (R82, R83), op 0x06. -/
def rawBoth06 (cl : Cluster) (w : Nat) : Option Instr :=
  some (.xori cl (bits w 21 5) (bits w 16 5) (bits w 4 12) (bits w 0 4))

/-- Words common to SX and SY (R82, R83), op 0x07. -/
def rawBoth07 (cl : Cluster) (w : Nat) : Option Instr :=
  if fld w 10 6 = 0 then some (.slli cl (bits w 21 5) (bits w 16 5) (bits w 4 6) (bits w 0 4)) else
  if fld w 10 6 = 16 then some (.srli cl (bits w 21 5) (bits w 16 5) (bits w 4 6) (bits w 0 4)) else
  if fld w 10 6 = 32 then some (.srai cl (bits w 21 5) (bits w 16 5) (bits w 4 6) (bits w 0 4)) else
  none

/-- Words common to SX and SY (R82, R83), op 0x08. -/
def rawBoth08 (cl : Cluster) (w : Nat) : Option Instr :=
  some (.slti cl (bits w 21 5) (bits w 16 5) (bits w 4 12) (bits w 0 4))

/-- Words common to SX and SY (R82, R83), op 0x09. -/
def rawBoth09 (cl : Cluster) (w : Nat) : Option Instr :=
  if fld w 0 1 = 0 then some (.limm cl (bits w 21 5) (bits w 1 20)) else
  none

/-- Words common to SX and SY (R82, R83), op 0x0A. -/
def rawBoth0A (cl : Cluster) (w : Nat) : Option Instr :=
  if fld w 0 1 = 0 then some (.limmh cl (bits w 21 5) (bits w 1 20)) else
  none

/-- Words common to SX and SY (R82, R83), op 0x0B. -/
def rawBoth0B (cl : Cluster) (w : Nat) : Option Instr :=
  if fld w 0 1 = 0 then some (.fimm cl (bits w 21 5) (bits w 1 20)) else
  none

/-- Words common to SX and SY (R82, R83), op 0x0C. -/
def rawBoth0C (cl : Cluster) (w : Nat) : Option Instr :=
  if fld w 2 19 = 0 then some (.lit cl (bits w 21 5) (bits w 0 2)) else
  if fld w 2 19 = 1 then some (.litS cl (bits w 21 5) (bits w 0 2)) else
  if fld w 2 19 = 2 then some (.litD cl (bits w 21 5) (bits w 0 2)) else
  none

/-- Words common to SX and SY (R82, R83), op 0x0D. -/
def rawBoth0D (cl : Cluster) (w : Nat) : Option Instr :=
  if fld w 8 13 = 0 then some (.kld cl (bits w 21 5) (bits w 0 8)) else
  none

/-- Words common to SX and SY (R82, R83), op 0x0E. -/
def rawBoth0E (cl : Cluster) (w : Nat) : Option Instr :=
  if fld w 24 2 = 0 then some (.pcmp cl (bits w 21 3) (bits w 16 5) (bits w 11 5) (bits w 9 2) (bits w 4 5) (bits w 0 4)) else
  none

/-- Words common to SX and SY (R82, R83), op 0x0F. -/
def rawBoth0F (cl : Cluster) (w : Nat) : Option Instr :=
  some (.pcmpi cl (bits w 23 3) (bits w 20 3) (bits w 15 5) (bits w 4 11) (bits w 0 4))

/-- Words common to SX and SY (R82, R83), op 0x10. -/
def rawBoth10 (cl : Cluster) (w : Nat) : Option Instr :=
  if fld w 4 7 = 0 ∧ fld w 14 2 = 0 ∧ fld w 19 2 = 0 ∧ fld w 24 2 = 0 then some (.pand cl (bits w 21 3) (bits w 16 3) (bits w 11 3) (bits w 0 4)) else
  if fld w 4 7 = 1 ∧ fld w 14 2 = 0 ∧ fld w 19 2 = 0 ∧ fld w 24 2 = 0 then some (.por cl (bits w 21 3) (bits w 16 3) (bits w 11 3) (bits w 0 4)) else
  if fld w 4 7 = 2 ∧ fld w 14 2 = 0 ∧ fld w 19 2 = 0 ∧ fld w 24 2 = 0 then some (.pxor cl (bits w 21 3) (bits w 16 3) (bits w 11 3) (bits w 0 4)) else
  if fld w 4 7 = 3 ∧ fld w 14 2 = 0 ∧ fld w 19 2 = 0 ∧ fld w 24 2 = 0 then some (.pandn cl (bits w 21 3) (bits w 16 3) (bits w 11 3) (bits w 0 4)) else
  none

/-- Words common to SX and SY (R82, R83), op 0x11. -/
def rawBoth11 (cl : Cluster) (w : Nat) : Option Instr :=
  if fld w 7 2 = 0 then some (.sel cl (bits w 21 5) (bits w 16 5) (bits w 11 5) (bits w 9 2) (bits w 4 3) (bits w 0 4)) else
  none

/-- Words common to SX and SY (R82, R83), op 0x12. -/
def rawBoth12 (cl : Cluster) (w : Nat) : Option Instr :=
  if fld w 4 12 = 0 then some (.xmov cl (bits w 21 5) (bits w 16 5) (bits w 0 4)) else
  none

/-- Words common to SX and SY (R82, R83), op 0x13. -/
def rawBoth13 (cl : Cluster) (w : Nat) : Option Instr :=
  if fld w 16 5 = 0 then some (.crd cl (bits w 21 5) (bits w 0 16)) else
  none

/-- Words common to SX and SY (R82, R83), op 0x14. -/
def rawBoth14 (cl : Cluster) (w : Nat) : Option Instr :=
  if fld w 21 5 = 0 then some (.cwr cl (bits w 16 5) (bits w 0 16)) else
  none

/-- Words common to SX and SY (R82, R83), op 0x15. -/
def rawBoth15 (cl : Cluster) (w : Nat) : Option Instr :=
  if fld w 4 12 = 0 then some (.acvtGen2loc cl (bits w 21 5) (bits w 16 5) (bits w 0 4)) else
  if fld w 4 12 = 1 then some (.acvtGen2shr cl (bits w 21 5) (bits w 16 5) (bits w 0 4)) else
  if fld w 4 12 = 2 then some (.acvtGen2clu cl (bits w 21 5) (bits w 16 5) (bits w 0 4)) else
  if fld w 4 12 = 3 then some (.acvtLoc2gen cl (bits w 21 5) (bits w 16 5) (bits w 0 4)) else
  if fld w 4 12 = 4 then some (.acvtShr2gen cl (bits w 21 5) (bits w 16 5) (bits w 0 4)) else
  if fld w 4 12 = 5 then some (.acvtClu2gen cl (bits w 21 5) (bits w 16 5) (bits w 0 4)) else
  none

/-- Words common to SX and SY (R82, R83), op 0x16. -/
def rawBoth16 (cl : Cluster) (w : Nat) : Option Instr :=
  if fld w 9 7 = 0 ∧ fld w 24 2 = 0 then some (.atest cl (bits w 21 3) (bits w 16 5) (bits w 4 5) (bits w 0 4)) else
  none

/-- Words common to SX and SY (R82, R83), op 0x18. -/
def rawBoth18 (cl : Cluster) (w : Nat) : Option Instr :=
  if fld w 0 4 = 0 then some (.fadd cl (bits w 21 5) (bits w 16 5) (bits w 11 5) (bits w 9 2) (flag w 8) (flag w 7) (flag w 6) (bits w 4 2)) else
  if fld w 0 4 = 1 then some (.fsub cl (bits w 21 5) (bits w 16 5) (bits w 11 5) (bits w 9 2) (flag w 8) (flag w 7) (flag w 6) (bits w 4 2)) else
  if fld w 0 4 = 2 then some (.fmul cl (bits w 21 5) (bits w 16 5) (bits w 11 5) (bits w 9 2) (flag w 8) (flag w 7) (flag w 6) (bits w 4 2)) else
  if fld w 0 7 = 3 then some (.fmin cl (bits w 21 5) (bits w 16 5) (bits w 11 5) (bits w 9 2) (flag w 8) (flag w 7)) else
  if fld w 0 7 = 4 then some (.fmax cl (bits w 21 5) (bits w 16 5) (bits w 11 5) (bits w 9 2) (flag w 8) (flag w 7)) else
  if fld w 0 8 = 5 ∧ fld w 9 7 = 0 then some (.fabs cl (bits w 21 5) (bits w 16 5) (flag w 8)) else
  if fld w 0 8 = 6 ∧ fld w 9 7 = 0 then some (.fneg cl (bits w 21 5) (bits w 16 5) (flag w 8)) else
  if fld w 0 4 = 7 ∧ fld w 9 7 = 0 then some (.fcvt cl (bits w 21 5) (bits w 16 5) (flag w 8) (flag w 7) (flag w 6) (bits w 4 2)) else
  if fld w 0 4 = 8 ∧ fld w 6 1 = 0 ∧ fld w 9 7 = 0 then some (.ftoi cl (bits w 21 5) (bits w 16 5) (flag w 8) (flag w 7) (bits w 4 2)) else
  if fld w 0 4 = 9 ∧ fld w 6 2 = 0 ∧ fld w 9 7 = 0 then some (.fito cl (bits w 21 5) (bits w 16 5) (flag w 8) (bits w 4 2)) else
  none

/-- Words common to SX and SY (R82, R83), op 0x19. -/
def rawBoth19 (cl : Cluster) (w : Nat) : Option Instr :=
  if fld w 0 1 = 0 then some (.fma cl (bits w 21 5) (bits w 16 5) (bits w 11 5) (bits w 6 5) (flag w 5) (flag w 4) (flag w 3) (bits w 1 2)) else
  if fld w 0 1 = 1 then some (.fnma cl (bits w 21 5) (bits w 16 5) (bits w 11 5) (bits w 6 5) (flag w 5) (flag w 4) (flag w 3) (bits w 1 2)) else
  none

/-- Words common to SX and SY (R82, R83), op 0x1A. -/
def rawBoth1A (cl : Cluster) (w : Nat) : Option Instr :=
  if fld w 0 10 = 0 then some (.fcmp cl (bits w 23 3) (bits w 21 2) (bits w 16 5) (bits w 11 5) (flag w 10)) else
  none

/-- Words common to SX and SY (R82, R83), op 0x1B. -/
def rawBoth1B (cl : Cluster) (w : Nat) : Option Instr :=
  if fld w 5 11 = 0 then some (.fclass cl (bits w 21 5) (bits w 16 5) (flag w 4) (bits w 0 4)) else
  none

/-- Words common to SX and SY (R82, R83): the row of the table whose fixed bits the word carries. -/
def rawBoth (cl : Cluster) (w : Nat) : Option Instr :=
  match fld w 26 6 with
  | 0 => if w = 0 then some (.nop cl.slot) else none
  | 1 => rawBoth01 cl w
  | 2 => rawBoth02 cl w
  | 3 => rawBoth03 cl w
  | 4 => rawBoth04 cl w
  | 5 => rawBoth05 cl w
  | 6 => rawBoth06 cl w
  | 7 => rawBoth07 cl w
  | 8 => rawBoth08 cl w
  | 9 => rawBoth09 cl w
  | 10 => rawBoth0A cl w
  | 11 => rawBoth0B cl w
  | 12 => rawBoth0C cl w
  | 13 => rawBoth0D cl w
  | 14 => rawBoth0E cl w
  | 15 => rawBoth0F cl w
  | 16 => rawBoth10 cl w
  | 17 => rawBoth11 cl w
  | 18 => rawBoth12 cl w
  | 19 => rawBoth13 cl w
  | 20 => rawBoth14 cl w
  | 21 => rawBoth15 cl w
  | 22 => rawBoth16 cl w
  | 24 => rawBoth18 cl w
  | 25 => rawBoth19 cl w
  | 26 => rawBoth1A cl w
  | 27 => rawBoth1B cl w
  | _ => none

/-- Words of SY alone (R82, R111, R205), op 0x02. -/
def rawSyOnly02 (w : Nat) : Option Instr :=
  if fld w 4 5 = 4 then some (.div (bits w 21 5) (bits w 16 5) (bits w 11 5) (bits w 9 2) (bits w 0 4)) else
  if fld w 4 5 = 5 then some (.divu (bits w 21 5) (bits w 16 5) (bits w 11 5) (bits w 9 2) (bits w 0 4)) else
  if fld w 4 5 = 6 then some (.rem (bits w 21 5) (bits w 16 5) (bits w 11 5) (bits w 9 2) (bits w 0 4)) else
  if fld w 4 5 = 7 then some (.remu (bits w 21 5) (bits w 16 5) (bits w 11 5) (bits w 9 2) (bits w 0 4)) else
  none

/-- Words of SY alone (R82, R111, R205), op 0x18. -/
def rawSyOnly18 (w : Nat) : Option Instr :=
  if fld w 0 4 = 10 then some (.fdiv (bits w 21 5) (bits w 16 5) (bits w 11 5) (bits w 9 2) (flag w 8) (flag w 7) (flag w 6) (bits w 4 2)) else
  if fld w 0 4 = 11 ∧ fld w 9 7 = 0 then some (.fsqrt (bits w 21 5) (bits w 16 5) (flag w 8) (flag w 7) (flag w 6) (bits w 4 2)) else
  none

/-- Words of SY alone (R82, R111, R205): the row of the table whose fixed bits the word carries. -/
def rawSyOnly (w : Nat) : Option Instr :=
  match fld w 26 6 with
  | 2 => rawSyOnly02 w
  | 24 => rawSyOnly18 w
  | _ => none

/-- Words of SX alone (R82), op 0x20. -/
def rawSxOnly20 (w : Nat) : Option Instr :=
  some (.br (bits w 4 22) (bits w 0 4))

/-- Words of SX alone (R82), op 0x21. -/
def rawSxOnly21 (w : Nat) : Option Instr :=
  if fld w 21 5 = 0 then some (.jr (bits w 16 5) (bits w 4 12) (bits w 0 4)) else
  none

/-- Words of SX alone (R82), op 0x22. -/
def rawSxOnly22 (w : Nat) : Option Instr :=
  some (.call (bits w 4 22) (bits w 0 4))

/-- Words of SX alone (R82), op 0x23. -/
def rawSxOnly23 (w : Nat) : Option Instr :=
  if fld w 4 22 = 0 then some (.ret (bits w 0 4)) else
  none

/-- Words of SX alone (R82), op 0x24. -/
def rawSxOnly24 (w : Nat) : Option Instr :=
  if fld w 23 1 = 0 then some (.loop (bits w 24 2) (bits w 20 3) (bits w 15 5) (bits w 0 15)) else
  if fld w 23 1 = 1 then some (.loopR (bits w 24 2) (bits w 20 3) (bits w 15 5) (bits w 0 15)) else
  none

/-- Words of SX alone (R82), op 0x25. -/
def rawSxOnly25 (w : Nat) : Option Instr :=
  if fld w 23 1 = 0 then some (.loopi (bits w 24 2) (bits w 20 3) (bits w 10 10) (bits w 0 10)) else
  if fld w 23 1 = 1 then some (.loopiR (bits w 24 2) (bits w 20 3) (bits w 10 10) (bits w 0 10)) else
  none

/-- Words of SX alone (R82), op 0x26. -/
def rawSxOnly26 (w : Nat) : Option Instr :=
  if fld w 4 22 = 0 then some (.lbrk (bits w 0 4)) else
  none

/-- Words of SX alone (R82), op 0x28. -/
def rawSxOnly28 (w : Nat) : Option Instr :=
  if fld w 4 22 = 0 then some (.frame (bits w 0 4)) else
  none

/-- Words of SX alone (R82), op 0x29. -/
def rawSxOnly29 (w : Nat) : Option Instr :=
  if fld w 16 10 = 0 then some (.sysc (bits w 4 12) (bits w 0 4)) else
  none

/-- Words of SX alone (R82), op 0x2A. -/
def rawSxOnly2A (w : Nat) : Option Instr :=
  if fld w 16 10 = 0 then some (.brk (bits w 4 12) (bits w 0 4)) else
  none

/-- Words of SX alone (R82), op 0x2B. -/
def rawSxOnly2B (w : Nat) : Option Instr :=
  if fld w 4 22 = 0 then some (.tend (bits w 0 4)) else
  none

/-- Words of SX alone (R82), op 0x2C. -/
def rawSxOnly2C (w : Nat) : Option Instr :=
  if fld w 4 12 = 0 ∧ fld w 21 5 = 0 then some (.est (bits w 16 5) (bits w 0 4)) else
  none

/-- Words of SX alone (R82), op 0x2D. -/
def rawSxOnly2D (w : Nat) : Option Instr :=
  if fld w 0 26 = 0 then some (.rfe) else
  none

/-- Words of SX alone (R82), op 0x2E. -/
def rawSxOnly2E (w : Nat) : Option Instr :=
  if fld w 16 10 = 0 then some (.esc (bits w 4 12) (bits w 0 4)) else
  none

/-- Words of SX alone (R82), op 0x30. -/
def rawSxOnly30 (w : Nat) : Option Instr :=
  if fld w 4 12 = 0 then some (.tlaunch (bits w 21 5) (bits w 16 5) (bits w 0 4)) else
  none

/-- Words of SX alone (R82), op 0x31. -/
def rawSxOnly31 (w : Nat) : Option Instr :=
  if fld w 4 12 = 0 then some (.tjoin (bits w 21 5) (bits w 16 5) (bits w 0 4)) else
  if fld w 4 12 = 2048 then some (.tjoinW (bits w 21 5) (bits w 16 5) (bits w 0 4)) else
  none

/-- Words of SX alone (R82), op 0x32. -/
def rawSxOnly32 (w : Nat) : Option Instr :=
  if fld w 4 12 = 0 then some (.admitC (bits w 21 5) (bits w 16 5) (bits w 0 4)) else
  if fld w 4 12 = 2048 then some (.admitX (bits w 21 5) (bits w 16 5) (bits w 0 4)) else
  none

/-- Words of SX alone (R82), op 0x34. -/
def rawSxOnly34 (w : Nat) : Option Instr :=
  if fld w 12 4 = 0 then some (.gsig (bits w 21 5) (bits w 16 5) (bits w 4 8) (bits w 0 4)) else
  none

/-- Words of SX alone (R82), op 0x35. -/
def rawSxOnly35 (w : Nat) : Option Instr :=
  if fld w 12 4 = 0 then some (.gwait (bits w 21 5) (bits w 16 5) (bits w 4 8) (bits w 0 4)) else
  none

/-- Words of SX alone (R82), op 0x36. -/
def rawSxOnly36 (w : Nat) : Option Instr :=
  if fld w 12 4 = 0 then some (.gpoll (bits w 21 5) (bits w 16 5) (bits w 4 8) (bits w 0 4)) else
  none

/-- Words of SX alone (R82), op 0x38. -/
def rawSxOnly38 (w : Nat) : Option Instr :=
  if fld w 10 6 = 0 then some (.barra (bits w 21 5) (bits w 16 5) (bits w 4 6) (bits w 0 4)) else
  if fld w 10 11 = 1 then some (.barraQ (bits w 21 5) (bits w 4 6) (bits w 0 4)) else
  none

/-- Words of SX alone (R82), op 0x39. -/
def rawSxOnly39 (w : Nat) : Option Instr :=
  if fld w 10 6 = 0 ∧ fld w 21 5 = 0 then some (.barrw (bits w 16 5) (bits w 4 6) (bits w 0 4)) else
  none

/-- Words of SX alone (R82), op 0x3A. -/
def rawSxOnly3A (w : Nat) : Option Instr :=
  if fld w 4 17 = 0 then some (.sstep (bits w 21 5) (bits w 0 4)) else
  none

/-- Words of SX alone (R82), op 0x3B. -/
def rawSxOnly3B (w : Nat) : Option Instr :=
  if fld w 7 19 = 0 then some (.fence (bits w 4 3) (bits w 0 4)) else
  none

/-- Words of SX alone (R82), op 0x3C. -/
def rawSxOnly3C (w : Nat) : Option Instr :=
  if fld w 4 12 = 0 then some (.cut (bits w 21 5) (bits w 16 5) (bits w 0 4)) else
  none

/-- Words of SX alone (R82): the row of the table whose fixed bits the word carries. -/
def rawSxOnly (w : Nat) : Option Instr :=
  match fld w 26 6 with
  | 32 => rawSxOnly20 w
  | 33 => rawSxOnly21 w
  | 34 => rawSxOnly22 w
  | 35 => rawSxOnly23 w
  | 36 => rawSxOnly24 w
  | 37 => rawSxOnly25 w
  | 38 => rawSxOnly26 w
  | 40 => rawSxOnly28 w
  | 41 => rawSxOnly29 w
  | 42 => rawSxOnly2A w
  | 43 => rawSxOnly2B w
  | 44 => rawSxOnly2C w
  | 45 => rawSxOnly2D w
  | 46 => rawSxOnly2E w
  | 48 => rawSxOnly30 w
  | 49 => rawSxOnly31 w
  | 50 => rawSxOnly32 w
  | 52 => rawSxOnly34 w
  | 53 => rawSxOnly35 w
  | 54 => rawSxOnly36 w
  | 56 => rawSxOnly38 w
  | 57 => rawSxOnly39 w
  | 58 => rawSxOnly3A w
  | 59 => rawSxOnly3B w
  | 60 => rawSxOnly3C w
  | _ => none

/-- LS words (R85, R86), op 0x01. -/
def rawLs01 (w : Nat) : Option Instr :=
  if fld w 3 2 = 0 then some (.ldb (bits w 20 6) (bits w 15 5) (bits w 5 10) (bits w 0 3)) else
  none

/-- LS words (R85, R86), op 0x02. -/
def rawLs02 (w : Nat) : Option Instr :=
  if fld w 3 2 = 0 then some (.ldh (bits w 20 6) (bits w 15 5) (bits w 5 10) (bits w 0 3)) else
  none

/-- LS words (R85, R86), op 0x03. -/
def rawLs03 (w : Nat) : Option Instr :=
  if fld w 3 2 = 0 then some (.ldw (bits w 20 6) (bits w 15 5) (bits w 5 10) (bits w 0 3)) else
  none

/-- LS words (R85, R86), op 0x04. -/
def rawLs04 (w : Nat) : Option Instr :=
  if fld w 3 2 = 0 then some (.ldd (bits w 20 6) (bits w 15 5) (bits w 5 10) (bits w 0 3)) else
  none

/-- LS words (R85, R86), op 0x05. -/
def rawLs05 (w : Nat) : Option Instr :=
  if fld w 3 2 = 0 then some (.ldbz (bits w 20 6) (bits w 15 5) (bits w 5 10) (bits w 0 3)) else
  none

/-- LS words (R85, R86), op 0x06. -/
def rawLs06 (w : Nat) : Option Instr :=
  if fld w 3 2 = 0 then some (.ldhz (bits w 20 6) (bits w 15 5) (bits w 5 10) (bits w 0 3)) else
  none

/-- LS words (R85, R86), op 0x07. -/
def rawLs07 (w : Nat) : Option Instr :=
  if fld w 3 2 = 0 then some (.ldwz (bits w 20 6) (bits w 15 5) (bits w 5 10) (bits w 0 3)) else
  none

/-- LS words (R85, R86), op 0x08. -/
def rawLs08 (w : Nat) : Option Instr :=
  if fld w 3 2 = 0 then some (.stb (bits w 20 6) (bits w 15 5) (bits w 5 10) (bits w 0 3)) else
  none

/-- LS words (R85, R86), op 0x09. -/
def rawLs09 (w : Nat) : Option Instr :=
  if fld w 3 2 = 0 then some (.sth (bits w 20 6) (bits w 15 5) (bits w 5 10) (bits w 0 3)) else
  none

/-- LS words (R85, R86), op 0x0A. -/
def rawLs0A (w : Nat) : Option Instr :=
  if fld w 3 2 = 0 then some (.stw (bits w 20 6) (bits w 15 5) (bits w 5 10) (bits w 0 3)) else
  none

/-- LS words (R85, R86), op 0x0B. -/
def rawLs0B (w : Nat) : Option Instr :=
  if fld w 3 2 = 0 then some (.std (bits w 20 6) (bits w 15 5) (bits w 5 10) (bits w 0 3)) else
  none

/-- LS words (R85, R86), op 0x0C. -/
def rawLs0C (w : Nat) : Option Instr :=
  if fld w 3 2 = 0 then some (.vld (bits w 20 6) (bits w 15 5) (bits w 5 10) (bits w 0 3)) else
  none

/-- LS words (R85, R86), op 0x0D. -/
def rawLs0D (w : Nat) : Option Instr :=
  if fld w 3 2 = 0 then some (.vst (bits w 20 6) (bits w 15 5) (bits w 5 10) (bits w 0 3)) else
  none

/-- LS words (R85, R86), op 0x10. -/
def rawLs10 (w : Nat) : Option Instr :=
  if fld w 4 5 = 0 then some (.aintAddW (bits w 20 6) (bits w 15 5) (bits w 9 6) (flag w 3) (bits w 0 3)) else
  if fld w 4 5 = 1 then some (.aintAddD (bits w 20 6) (bits w 15 5) (bits w 9 6) (flag w 3) (bits w 0 3)) else
  if fld w 4 5 = 2 then some (.aintAnd (bits w 20 6) (bits w 15 5) (bits w 9 6) (flag w 3) (bits w 0 3)) else
  if fld w 4 5 = 3 then some (.aintOr (bits w 20 6) (bits w 15 5) (bits w 9 6) (flag w 3) (bits w 0 3)) else
  if fld w 4 5 = 4 then some (.aintXor (bits w 20 6) (bits w 15 5) (bits w 9 6) (flag w 3) (bits w 0 3)) else
  if fld w 4 5 = 5 then some (.aintMin (bits w 20 6) (bits w 15 5) (bits w 9 6) (flag w 3) (bits w 0 3)) else
  if fld w 4 5 = 6 then some (.aintMax (bits w 20 6) (bits w 15 5) (bits w 9 6) (flag w 3) (bits w 0 3)) else
  if fld w 4 5 = 7 then some (.aintMinz (bits w 20 6) (bits w 15 5) (bits w 9 6) (flag w 3) (bits w 0 3)) else
  if fld w 4 5 = 8 then some (.aintMaxz (bits w 20 6) (bits w 15 5) (bits w 9 6) (flag w 3) (bits w 0 3)) else
  if fld w 4 5 = 9 then some (.aintSwapW (bits w 20 6) (bits w 15 5) (bits w 9 6) (flag w 3) (bits w 0 3)) else
  if fld w 4 5 = 10 then some (.aintSwapD (bits w 20 6) (bits w 15 5) (bits w 9 6) (flag w 3) (bits w 0 3)) else
  none

/-- LS words (R85, R86), op 0x11. -/
def rawLs11 (w : Nat) : Option Instr :=
  if fld w 4 2 = 0 ∧ fld w 8 1 = 0 then some (.afpFadd (bits w 20 6) (bits w 15 5) (bits w 9 6) (bits w 6 2) (flag w 3) (bits w 0 3)) else
  if fld w 4 2 = 1 ∧ fld w 8 1 = 0 then some (.afpFmin (bits w 20 6) (bits w 15 5) (bits w 9 6) (bits w 6 2) (flag w 3) (bits w 0 3)) else
  if fld w 4 2 = 2 ∧ fld w 8 1 = 0 then some (.afpFmax (bits w 20 6) (bits w 15 5) (bits w 9 6) (bits w 6 2) (flag w 3) (bits w 0 3)) else
  none

/-- LS words (R85, R86), op 0x12. -/
def rawLs12 (w : Nat) : Option Instr :=
  if fld w 4 5 = 0 then some (.acasW (bits w 20 6) (bits w 15 5) (bits w 9 6) (flag w 3) (bits w 0 3)) else
  if fld w 4 5 = 1 then some (.acasD (bits w 20 6) (bits w 15 5) (bits w 9 6) (flag w 3) (bits w 0 3)) else
  if fld w 4 6 = 2 ∧ fld w 20 1 = 0 then some (.acasQ (bits w 21 5) (bits w 15 5) (bits w 10 5) (flag w 3) (bits w 0 3)) else
  none

/-- LS words (R85, R86), op 0x13. -/
def rawLs13 (w : Nat) : Option Instr :=
  if fld w 4 11 = 0 then some (.vaccOvw (bits w 20 6) (bits w 15 5) (flag w 3) (bits w 0 3)) else
  if fld w 4 11 = 1 then some (.vaccAddF32 (bits w 20 6) (bits w 15 5) (flag w 3) (bits w 0 3)) else
  if fld w 4 11 = 2 then some (.vaccAddF64 (bits w 20 6) (bits w 15 5) (flag w 3) (bits w 0 3)) else
  if fld w 4 11 = 3 then some (.vaccAddBf16 (bits w 20 6) (bits w 15 5) (flag w 3) (bits w 0 3)) else
  if fld w 4 11 = 4 then some (.vaccAddF16 (bits w 20 6) (bits w 15 5) (flag w 3) (bits w 0 3)) else
  if fld w 4 11 = 5 then some (.vaccAddI32 (bits w 20 6) (bits w 15 5) (flag w 3) (bits w 0 3)) else
  none

/-- LS words (R85, R86), op 0x18. -/
def rawLs18 (w : Nat) : Option Instr :=
  if fld w 3 5 = 0 then some (.bpop (bits w 20 6) (bits w 16 4) (bits w 8 8) (bits w 0 3)) else
  none

/-- LS words (R85, R86), op 0x19. -/
def rawLs19 (w : Nat) : Option Instr :=
  if fld w 3 5 = 0 then some (.bpush (bits w 20 6) (bits w 16 4) (bits w 8 8) (bits w 0 3)) else
  none

/-- LS words (R85, R86), op 0x1A. -/
def rawLs1A (w : Nat) : Option Instr :=
  if fld w 3 5 = 0 ∧ fld w 20 6 = 0 then some (.badvC (bits w 16 4) (bits w 8 8) (bits w 0 3)) else
  if fld w 3 5 = 1 ∧ fld w 20 6 = 0 then some (.badvP (bits w 16 4) (bits w 8 8) (bits w 0 3)) else
  none

/-- LS words (R85, R86), op 0x1B. -/
def rawLs1B (w : Nat) : Option Instr :=
  if fld w 3 5 = 0 ∧ fld w 20 6 = 0 then some (.bwaitC (bits w 16 4) (bits w 8 8) (bits w 0 3)) else
  if fld w 3 5 = 1 ∧ fld w 20 6 = 0 then some (.bwaitP (bits w 16 4) (bits w 8 8) (bits w 0 3)) else
  none

/-- LS words (R85, R86): the row of the table whose fixed bits the word carries. -/
def rawLs (w : Nat) : Option Instr :=
  match fld w 26 6 with
  | 0 => if w = 0 then some (.nop .ls) else none
  | 1 => rawLs01 w
  | 2 => rawLs02 w
  | 3 => rawLs03 w
  | 4 => rawLs04 w
  | 5 => rawLs05 w
  | 6 => rawLs06 w
  | 7 => rawLs07 w
  | 8 => rawLs08 w
  | 9 => rawLs09 w
  | 10 => rawLs0A w
  | 11 => rawLs0B w
  | 12 => rawLs0C w
  | 13 => rawLs0D w
  | 16 => rawLs10 w
  | 17 => rawLs11 w
  | 18 => rawLs12 w
  | 19 => rawLs13 w
  | 24 => rawLs18 w
  | 25 => rawLs19 w
  | 26 => rawLs1A w
  | 27 => rawLs1B w
  | _ => none

/-- VX words (R87, R88), op 0x01. -/
def rawVx01 (w : Nat) : Option Instr :=
  some (.vadd (bits w 20 6) (bits w 14 6) (bits w 8 6) (bits w 6 2) (flag w 5) (flag w 4) (flag w 3) (bits w 0 3))

/-- VX words (R87, R88), op 0x02. -/
def rawVx02 (w : Nat) : Option Instr :=
  some (.vsub (bits w 20 6) (bits w 14 6) (bits w 8 6) (bits w 6 2) (flag w 5) (flag w 4) (flag w 3) (bits w 0 3))

/-- VX words (R87, R88), op 0x03. -/
def rawVx03 (w : Nat) : Option Instr :=
  some (.vmul (bits w 20 6) (bits w 14 6) (bits w 8 6) (bits w 6 2) (flag w 5) (flag w 4) (flag w 3) (bits w 0 3))

/-- VX words (R87, R88), op 0x04. -/
def rawVx04 (w : Nat) : Option Instr :=
  some (.vfma (bits w 20 6) (bits w 14 6) (bits w 8 6) (bits w 6 2) (flag w 5) (flag w 4) (flag w 3) (bits w 0 3))

/-- VX words (R87, R88), op 0x05. -/
def rawVx05 (w : Nat) : Option Instr :=
  some (.vfmac (bits w 20 6) (bits w 14 6) (bits w 8 6) (bits w 6 2) (flag w 5) (flag w 4) (flag w 3) (bits w 0 3))

/-- VX words (R87, R88), op 0x06. -/
def rawVx06 (w : Nat) : Option Instr :=
  if fld w 4 1 = 0 then some (.vmin (bits w 20 6) (bits w 14 6) (bits w 8 6) (bits w 6 2) (flag w 5) (flag w 3) (bits w 0 3)) else
  none

/-- VX words (R87, R88), op 0x07. -/
def rawVx07 (w : Nat) : Option Instr :=
  if fld w 4 1 = 0 then some (.vmax (bits w 20 6) (bits w 14 6) (bits w 8 6) (bits w 6 2) (flag w 5) (flag w 3) (bits w 0 3)) else
  none

/-- VX words (R87, R88), op 0x08. -/
def rawVx08 (w : Nat) : Option Instr :=
  if fld w 3 3 = 0 ∧ fld w 8 6 = 0 then some (.vabs (bits w 20 6) (bits w 14 6) (bits w 6 2) (bits w 0 3)) else
  none

/-- VX words (R87, R88), op 0x09. -/
def rawVx09 (w : Nat) : Option Instr :=
  if fld w 3 3 = 0 ∧ fld w 8 6 = 0 then some (.vneg (bits w 20 6) (bits w 14 6) (bits w 6 2) (bits w 0 3)) else
  none

/-- VX words (R87, R88), op 0x0A. -/
def rawVx0A (w : Nat) : Option Instr :=
  some (.vdiv (bits w 20 6) (bits w 14 6) (bits w 8 6) (bits w 6 2) (flag w 5) (flag w 4) (flag w 3) (bits w 0 3))

/-- VX words (R87, R88), op 0x0C. -/
def rawVx0C (w : Nat) : Option Instr :=
  if fld w 3 1 = 0 ∧ fld w 8 6 = 0 then some (.vexp (bits w 20 6) (bits w 14 6) (bits w 6 2) (flag w 5) (flag w 4) (bits w 0 3)) else
  none

/-- VX words (R87, R88), op 0x0D. -/
def rawVx0D (w : Nat) : Option Instr :=
  if fld w 3 1 = 0 ∧ fld w 8 6 = 0 then some (.vexp2 (bits w 20 6) (bits w 14 6) (bits w 6 2) (flag w 5) (flag w 4) (bits w 0 3)) else
  none

/-- VX words (R87, R88), op 0x0E. -/
def rawVx0E (w : Nat) : Option Instr :=
  if fld w 3 1 = 0 ∧ fld w 8 6 = 0 then some (.vlog2 (bits w 20 6) (bits w 14 6) (bits w 6 2) (flag w 5) (flag w 4) (bits w 0 3)) else
  none

/-- VX words (R87, R88), op 0x0F. -/
def rawVx0F (w : Nat) : Option Instr :=
  if fld w 3 1 = 0 ∧ fld w 8 6 = 0 then some (.vrcp (bits w 20 6) (bits w 14 6) (bits w 6 2) (flag w 5) (flag w 4) (bits w 0 3)) else
  none

/-- VX words (R87, R88), op 0x10. -/
def rawVx10 (w : Nat) : Option Instr :=
  if fld w 3 1 = 0 ∧ fld w 8 6 = 0 then some (.vrsqrt (bits w 20 6) (bits w 14 6) (bits w 6 2) (flag w 5) (flag w 4) (bits w 0 3)) else
  none

/-- VX words (R87, R88), op 0x11. -/
def rawVx11 (w : Nat) : Option Instr :=
  if fld w 3 1 = 0 ∧ fld w 8 6 = 0 then some (.vsqrt (bits w 20 6) (bits w 14 6) (bits w 6 2) (flag w 5) (flag w 4) (bits w 0 3)) else
  none

/-- VX words (R87, R88), op 0x12. -/
def rawVx12 (w : Nat) : Option Instr :=
  if fld w 3 2 = 0 ∧ fld w 8 6 = 0 then some (.vrmax (bits w 20 6) (bits w 14 6) (bits w 6 2) (flag w 5) (bits w 0 3)) else
  none

/-- VX words (R87, R88), op 0x13. -/
def rawVx13 (w : Nat) : Option Instr :=
  if fld w 3 2 = 0 ∧ fld w 8 6 = 0 then some (.vrmin (bits w 20 6) (bits w 14 6) (bits w 6 2) (flag w 5) (bits w 0 3)) else
  none

/-- VX words (R87, R88), op 0x14. -/
def rawVx14 (w : Nat) : Option Instr :=
  if fld w 3 1 = 0 ∧ fld w 8 6 = 0 then some (.vrsum (bits w 20 6) (bits w 14 6) (bits w 6 2) (flag w 5) (flag w 4) (bits w 0 3)) else
  none

/-- VX words (R87, R88), op 0x15. -/
def rawVx15 (w : Nat) : Option Instr :=
  if fld w 4 1 = 0 then some (.vcmplt (bits w 20 6) (bits w 14 6) (bits w 8 6) (bits w 6 2) (flag w 5) (flag w 3) (bits w 0 3)) else
  none

/-- VX words (R87, R88), op 0x16. -/
def rawVx16 (w : Nat) : Option Instr :=
  if fld w 4 1 = 0 then some (.vcmpeq (bits w 20 6) (bits w 14 6) (bits w 8 6) (bits w 6 2) (flag w 5) (flag w 3) (bits w 0 3)) else
  none

/-- VX words (R87, R88), op 0x17. -/
def rawVx17 (w : Nat) : Option Instr :=
  if fld w 4 2 = 0 then some (.vsel (bits w 20 6) (bits w 14 6) (bits w 8 6) (bits w 6 2) (flag w 3) (bits w 0 3)) else
  none

/-- VX words (R87, R88), op 0x18. -/
def rawVx18 (w : Nat) : Option Instr :=
  if fld w 3 1 = 0 ∧ fld w 12 2 = 0 then some (.vcvt (bits w 20 6) (bits w 14 6) (bits w 8 4) (bits w 6 2) (flag w 5) (flag w 4) (bits w 0 3)) else
  none

/-- VX words (R87, R88), op 0x19. -/
def rawVx19 (w : Nat) : Option Instr :=
  if fld w 3 11 = 0 then some (.vmov (bits w 20 6) (bits w 14 6) (bits w 0 3)) else
  none

/-- VX words (R87, R88), op 0x1A. -/
def rawVx1A (w : Nat) : Option Instr :=
  if fld w 3 3 = 0 then some (.vbcast (bits w 20 6) (bits w 14 6) (bits w 8 6) (bits w 6 2) (bits w 0 3)) else
  if fld w 3 3 = 1 ∧ fld w 13 7 = 0 then some (.vbcastY (bits w 20 6) (bits w 8 5) (bits w 6 2) (bits w 0 3)) else
  none

/-- VX words (R87, R88), op 0x1B. -/
def rawVx1B (w : Nat) : Option Instr :=
  if fld w 3 3 = 0 then some (.vlsh (bits w 20 6) (bits w 14 6) (bits w 8 6) (bits w 6 2) (bits w 0 3)) else
  if fld w 3 3 = 1 ∧ fld w 13 1 = 0 then some (.vlshY (bits w 20 6) (bits w 14 6) (bits w 8 5) (bits w 6 2) (bits w 0 3)) else
  none

/-- VX words (R87, R88), op 0x1C. -/
def rawVx1C (w : Nat) : Option Instr :=
  if fld w 3 3 = 0 ∧ fld w 13 1 = 0 ∧ fld w 25 1 = 0 then some (.vget (bits w 20 5) (bits w 14 6) (bits w 8 5) (bits w 6 2) (bits w 0 3)) else
  none

/-- VX words (R87, R88), op 0x1D. -/
def rawVx1D (w : Nat) : Option Instr :=
  if fld w 3 3 = 0 ∧ fld w 13 1 = 0 ∧ fld w 19 1 = 0 then some (.vput (bits w 20 6) (bits w 14 5) (bits w 8 5) (bits w 6 2) (bits w 0 3)) else
  none

/-- VX words (R87, R88), op 0x20. -/
def rawVx20 (w : Nat) : Option Instr :=
  if fld w 4 4 = 0 then some (.viadd (bits w 20 6) (bits w 14 6) (bits w 8 6) (flag w 3) (bits w 0 3)) else
  none

/-- VX words (R87, R88), op 0x21. -/
def rawVx21 (w : Nat) : Option Instr :=
  if fld w 4 4 = 0 then some (.visub (bits w 20 6) (bits w 14 6) (bits w 8 6) (flag w 3) (bits w 0 3)) else
  none

/-- VX words (R87, R88), op 0x22. -/
def rawVx22 (w : Nat) : Option Instr :=
  if fld w 4 4 = 0 then some (.vimul (bits w 20 6) (bits w 14 6) (bits w 8 6) (flag w 3) (bits w 0 3)) else
  none

/-- VX words (R87, R88), op 0x23. -/
def rawVx23 (w : Nat) : Option Instr :=
  if fld w 4 4 = 0 then some (.vand (bits w 20 6) (bits w 14 6) (bits w 8 6) (flag w 3) (bits w 0 3)) else
  none

/-- VX words (R87, R88), op 0x24. -/
def rawVx24 (w : Nat) : Option Instr :=
  if fld w 4 4 = 0 then some (.vor (bits w 20 6) (bits w 14 6) (bits w 8 6) (flag w 3) (bits w 0 3)) else
  none

/-- VX words (R87, R88), op 0x25. -/
def rawVx25 (w : Nat) : Option Instr :=
  if fld w 4 4 = 0 then some (.vxor (bits w 20 6) (bits w 14 6) (bits w 8 6) (flag w 3) (bits w 0 3)) else
  none

/-- VX words (R87, R88), op 0x26. -/
def rawVx26 (w : Nat) : Option Instr :=
  if fld w 4 4 = 0 then some (.vsll (bits w 20 6) (bits w 14 6) (bits w 8 6) (flag w 3) (bits w 0 3)) else
  none

/-- VX words (R87, R88), op 0x27. -/
def rawVx27 (w : Nat) : Option Instr :=
  if fld w 4 4 = 0 then some (.vsrl (bits w 20 6) (bits w 14 6) (bits w 8 6) (flag w 3) (bits w 0 3)) else
  none

/-- VX words (R87, R88), op 0x28. -/
def rawVx28 (w : Nat) : Option Instr :=
  if fld w 4 4 = 0 then some (.vsra (bits w 20 6) (bits w 14 6) (bits w 8 6) (flag w 3) (bits w 0 3)) else
  none

/-- VX words (R87, R88), op 0x29. -/
def rawVx29 (w : Nat) : Option Instr :=
  if fld w 4 4 = 0 then some (.vimin (bits w 20 6) (bits w 14 6) (bits w 8 6) (flag w 3) (bits w 0 3)) else
  none

/-- VX words (R87, R88), op 0x2A. -/
def rawVx2A (w : Nat) : Option Instr :=
  if fld w 4 4 = 0 then some (.vimax (bits w 20 6) (bits w 14 6) (bits w 8 6) (flag w 3) (bits w 0 3)) else
  none

/-- VX words (R87, R88), op 0x2C. -/
def rawVx2C (w : Nat) : Option Instr :=
  if fld w 7 1 = 0 then some (.vadd8 (bits w 20 6) (bits w 14 6) (bits w 8 6) (flag w 6) (flag w 5) (flag w 4) (flag w 3) (bits w 0 3)) else
  none

/-- VX words (R87, R88), op 0x2D. -/
def rawVx2D (w : Nat) : Option Instr :=
  if fld w 7 1 = 0 then some (.vmul8 (bits w 20 6) (bits w 14 6) (bits w 8 6) (flag w 6) (flag w 5) (flag w 4) (flag w 3) (bits w 0 3)) else
  none

/-- VX words (R87, R88), op 0x2E. -/
def rawVx2E (w : Nat) : Option Instr :=
  if fld w 3 3 = 0 ∧ fld w 8 12 = 0 then some (.viota (bits w 20 6) (bits w 6 2) (bits w 0 3)) else
  none

/-- VX words (R87, R88), op 0x2F. -/
def rawVx2F (w : Nat) : Option Instr :=
  if fld w 4 4 = 0 then some (.vrng (bits w 20 6) (bits w 14 6) (bits w 8 6) (flag w 3) (bits w 0 3)) else
  none

/-- VX words (R87, R88): the row of the table whose fixed bits the word carries. -/
def rawVx (w : Nat) : Option Instr :=
  match fld w 26 6 with
  | 0 => if w = 0 then some (.nop .vx) else none
  | 1 => rawVx01 w
  | 2 => rawVx02 w
  | 3 => rawVx03 w
  | 4 => rawVx04 w
  | 5 => rawVx05 w
  | 6 => rawVx06 w
  | 7 => rawVx07 w
  | 8 => rawVx08 w
  | 9 => rawVx09 w
  | 10 => rawVx0A w
  | 12 => rawVx0C w
  | 13 => rawVx0D w
  | 14 => rawVx0E w
  | 15 => rawVx0F w
  | 16 => rawVx10 w
  | 17 => rawVx11 w
  | 18 => rawVx12 w
  | 19 => rawVx13 w
  | 20 => rawVx14 w
  | 21 => rawVx15 w
  | 22 => rawVx16 w
  | 23 => rawVx17 w
  | 24 => rawVx18 w
  | 25 => rawVx19 w
  | 26 => rawVx1A w
  | 27 => rawVx1B w
  | 28 => rawVx1C w
  | 29 => rawVx1D w
  | 32 => rawVx20 w
  | 33 => rawVx21 w
  | 34 => rawVx22 w
  | 35 => rawVx23 w
  | 36 => rawVx24 w
  | 37 => rawVx25 w
  | 38 => rawVx26 w
  | 39 => rawVx27 w
  | 40 => rawVx28 w
  | 41 => rawVx29 w
  | 42 => rawVx2A w
  | 44 => rawVx2C w
  | 45 => rawVx2D w
  | 46 => rawVx2E w
  | 47 => rawVx2F w
  | _ => none

/-- MX words (R89, R90, R240), op 0x01. -/
def rawMx01 (w : Nat) : Option Instr :=
  if fld w 0 8 = 0 ∧ fld w 10 4 = 0 then some (.mcallGemm (bits w 20 6) (bits w 14 6) (flag w 9) (flag w 8)) else
  if fld w 0 8 = 1 ∧ fld w 10 4 = 0 then some (.mcallGemmt (bits w 20 6) (bits w 14 6) (flag w 9) (flag w 8)) else
  if fld w 0 8 = 2 ∧ fld w 10 4 = 0 then some (.mcallGemmz (bits w 20 6) (bits w 14 6) (flag w 9) (flag w 8)) else
  if fld w 0 8 = 3 ∧ fld w 10 4 = 0 then some (.mcallGemv (bits w 20 6) (bits w 14 6) (flag w 9) (flag w 8)) else
  if fld w 0 8 = 4 ∧ fld w 10 4 = 0 then some (.mcallOuter (bits w 20 6) (bits w 14 6) (flag w 9) (flag w 8)) else
  if fld w 0 26 = 5 then some (.mcallTrans) else
  if fld w 0 8 = 6 ∧ fld w 10 4 = 0 then some (.mcallDgemm (bits w 20 6) (bits w 14 6) (flag w 9) (flag w 8)) else
  if fld w 0 9 = 7 ∧ fld w 10 10 = 0 then some (.mcallRowsc (bits w 20 6) (flag w 9)) else
  if fld w 0 9 = 8 ∧ fld w 10 16 = 0 then some (.mcallColred (flag w 9)) else
  if fld w 0 9 = 9 ∧ fld w 10 4 = 0 ∧ fld w 20 6 = 0 then some (.mcallCvtout (bits w 14 6) (flag w 9)) else
  if fld w 0 9 = 10 ∧ fld w 10 4 = 0 ∧ fld w 20 6 = 0 then some (.mcallLoadc (bits w 14 6) (flag w 9)) else
  none

/-- MX words (R89, R90, R240), op 0x02. -/
def rawMx02 (w : Nat) : Option Instr :=
  if fld w 5 21 = 0 then some (.mzero (bits w 0 5)) else
  none

/-- MX words (R89, R90, R240), op 0x03. -/
def rawMx03 (w : Nat) : Option Instr :=
  if fld w 0 26 = 0 then some (.mwait) else
  if fld w 5 21 = 1 then some (.mwaitTile (bits w 0 5)) else
  none

/-- MX words (R89, R90, R240): the row of the table whose fixed bits the word carries. -/
def rawMx (w : Nat) : Option Instr :=
  match fld w 26 6 with
  | 0 => if w = 0 then some (.nop .mx) else none
  | 1 => rawMx01 w
  | 2 => rawMx02 w
  | 3 => rawMx03 w
  | _ => none

/-- CP words (R89, R90, R218), op 0x01. -/
def rawCp01 (w : Nat) : Option Instr :=
  if fld w 5 9 = 0 then some (.cpy (bits w 20 6) (bits w 14 6) (flag w 4) (flag w 3) (bits w 0 3)) else
  none

/-- CP words (R89, R90, R218), op 0x02. -/
def rawCp02 (w : Nat) : Option Instr :=
  if fld w 3 23 = 0 then some (.publ (bits w 0 3)) else
  none

/-- CP words (R89, R90, R218), op 0x03. -/
def rawCp03 (w : Nat) : Option Instr :=
  if fld w 5 9 = 0 then some (.gath (bits w 20 6) (bits w 14 6) (flag w 4) (flag w 3) (bits w 0 3)) else
  none

/-- CP words (R89, R90, R218), op 0x04. -/
def rawCp04 (w : Nat) : Option Instr :=
  if fld w 3 1 = 0 ∧ fld w 5 9 = 0 then some (.scat (bits w 20 6) (bits w 14 6) (flag w 4) (bits w 0 3)) else
  none

/-- CP words (R89, R90, R218), op 0x05. -/
def rawCp05 (w : Nat) : Option Instr :=
  if fld w 3 11 = 0 then some (.coll (bits w 20 6) (bits w 14 6) (bits w 0 3)) else
  none

/-- CP words (R89, R90, R218), op 0x06. -/
def rawCp06 (w : Nat) : Option Instr :=
  if fld w 6 20 = 0 then some (.sbar (bits w 3 3) (bits w 0 3)) else
  none

/-- CP words (R89, R90, R218), op 0x07. -/
def rawCp07 (w : Nat) : Option Instr :=
  if fld w 3 23 = 0 then some (.cwait (bits w 0 3)) else
  none

/-- CP words (R89, R90, R218), op 0x08. -/
def rawCp08 (w : Nat) : Option Instr :=
  if fld w 0 14 = 0 then some (.persist (bits w 20 6) (bits w 14 6)) else
  none

/-- CP words (R89, R90, R218), op 0x09. -/
def rawCp09 (w : Nat) : Option Instr :=
  if fld w 14 6 = 0 then some (.cpyb (bits w 20 6) (bits w 7 7) (bits w 3 4) (bits w 0 3)) else
  none

/-- CP words (R89, R90, R218), op 0x0A. -/
def rawCp0A (w : Nat) : Option Instr :=
  if fld w 20 6 = 0 then some (.bdrain (bits w 14 6) (bits w 7 7) (bits w 3 4) (bits w 0 3)) else
  none

/-- CP words (R89, R90, R218): the row of the table whose fixed bits the word carries. -/
def rawCp (w : Nat) : Option Instr :=
  match fld w 26 6 with
  | 0 => if w = 0 then some (.nop .cp) else none
  | 1 => rawCp01 w
  | 2 => rawCp02 w
  | 3 => rawCp03 w
  | 4 => rawCp04 w
  | 5 => rawCp05 w
  | 6 => rawCp06 w
  | 7 => rawCp07 w
  | 8 => rawCp08 w
  | 9 => rawCp09 w
  | 10 => rawCp0A w
  | _ => none

/-- CY words (R89, R90, R234), op 0x01. -/
def rawCy01 (w : Nat) : Option Instr :=
  some (.seal (bits w 20 6) (bits w 14 6) (bits w 6 8) (bits w 0 6))

/-- CY words (R89, R90, R234), op 0x02. -/
def rawCy02 (w : Nat) : Option Instr :=
  some (.openCt (bits w 20 6) (bits w 14 6) (bits w 6 8) (bits w 0 6))

/-- CY words (R89, R90, R234), op 0x03. -/
def rawCy03 (w : Nat) : Option Instr :=
  if fld w 0 26 = 0 then some (.ywait) else
  none

/-- CY words (R89, R90, R234): the row of the table whose fixed bits the word carries. -/
def rawCy (w : Nat) : Option Instr :=
  match fld w 26 6 with
  | 0 => if w = 0 then some (.nop .cy) else none
  | 1 => rawCy01 w
  | 2 => rawCy02 w
  | 3 => rawCy03 w
  | _ => none

/-- The words of a bundle start that are rows of the table: the empty bundle (R68) and the lock prefix (R70). -/
def rawStart (w : Nat) : Option Instr :=
  if fld w 29 3 = 0 ∧ fld w 16 12 = 0 then some (.emptyBundle (flag w 28) (bits w 0 16)) else
  if fld w 29 3 = 1 ∧ fld w 0 6 = 0 then
    some (.bankLockPrefix (bits w 26 3) (bits w 24 2) (bits w 16 8) (bits w 14 2) (bits w 6 8)) else
  none

/-- The row of the table that a word at a place is, before the checks of field values. -/
def rawAt (pl : Place) (w : Nat) : Option Instr :=
  match pl with
  | .start => rawStart w
  | .slot .sx => (rawBoth .x w).or (rawSxOnly w)
  | .slot .sy => (rawBoth .y w).or (rawSyOnly w)
  | .slot .vx => rawVx w
  | .slot .ls => rawLs w
  | .slot .mx => rawMx w
  | .slot .cp => rawCp w
  | .slot .cy => rawCy w

/-- The name under which a word that is not legal at a place is rejected (R77, R88, R90). -/
def rejectAt (pl : Place) (w : Nat) : DecodeFault :=
  match pl with
  | .start => .illhdr
  | .slot .mx => if fld w 26 6 = 1 ∧ 11 ≤ fld w 0 8 then .mroutine else .illegal
  | .slot .vx => if fld w 26 6 = 0x18 ∧ fld w 12 2 = 0 ∧ fld w 3 1 = 0 ∧ 11 ≤ fld w 8 4 then .fmt else .illegal
  | .slot _ => .illegal

/-- The decoder: the instruction that a word at a place is, or the fault that rejects it. -/
def decodeAt (pl : Place) (w : BitVec 32) : Except DecodeFault Instr :=
  match rawAt pl w.toNat with
  | some i => if i.wf then .ok i else .error (rejectAt pl w.toNat)
  | none => .error (rejectAt pl w.toNat)

/-- An ordinary header (R67). -/
structure Header where
  mark : Bool
  lit : Nat
  mask : Nat
  stamp : Nat
  deriving DecidableEq, Repr

/-- The ordinary header that a word is, or none where R67 and R68 reject it. -/
def decodeHeader (w : BitVec 32) : Option Header :=
  let n := w.toNat
  if fld n 29 3 = 0 ∧ fld n 16 3 = 0 ∧ (fld n 19 7 = 0 → fld n 26 2 = 0) then
    some ⟨flag n 28, fld n 26 2, fld n 19 7, fld n 0 16⟩
  else none

/-- The word of an ordinary header (R67). -/
def encodeHeader (h : Header) : BitVec 32 :=
  BitVec.ofNat 32 (bit h.mark * 2 ^ 28 + h.lit * 2 ^ 26 + h.mask * 2 ^ 19 + h.stamp)

/-- The slots that a mask names, in the order of R68. -/
def slotsOf (mask : Nat) : List Slot :=
  (if fld mask 6 1 = 1 then [.sx] else []) ++ (if fld mask 5 1 = 1 then [.sy] else [])
    ++ (if fld mask 4 1 = 1 then [.vx] else []) ++ (if fld mask 3 1 = 1 then [.ls] else [])
    ++ (if fld mask 2 1 = 1 then [.mx] else []) ++ (if fld mask 1 1 = 1 then [.cp] else [])
    ++ (if fld mask 0 1 = 1 then [.cy] else [])

/-- The SLOTMASK bit of a slot (R67). -/
def Slot.maskBit : Slot → Nat
  | .sx => 64
  | .sy => 32
  | .vx => 16
  | .ls => 8
  | .mx => 4
  | .cp => 2
  | .cy => 1

/-- The length of a bundle from its header (R63). -/
def Header.len (h : Header) : Nat := 1 + (slotsOf h.mask).length + h.lit

/-- The place of an instruction: none for an event, which has no word. -/
def Instr.place : Instr → Option Place
  | .nop sl => some (.slot sl)
  | .emptyBundle _ _ => some .start
  | .bankLockPrefix _ _ _ _ _ => some .start
  | .add cl _ _ _ _ _ => some (.slot cl.slot)
  | .sub cl _ _ _ _ _ => some (.slot cl.slot)
  | .and cl _ _ _ _ _ => some (.slot cl.slot)
  | .or cl _ _ _ _ _ => some (.slot cl.slot)
  | .xor cl _ _ _ _ _ => some (.slot cl.slot)
  | .andn cl _ _ _ _ _ => some (.slot cl.slot)
  | .sll cl _ _ _ _ _ => some (.slot cl.slot)
  | .srl cl _ _ _ _ _ => some (.slot cl.slot)
  | .sra cl _ _ _ _ _ => some (.slot cl.slot)
  | .slt cl _ _ _ _ _ => some (.slot cl.slot)
  | .sltu cl _ _ _ _ _ => some (.slot cl.slot)
  | .min cl _ _ _ _ _ => some (.slot cl.slot)
  | .max cl _ _ _ _ _ => some (.slot cl.slot)
  | .minu cl _ _ _ _ _ => some (.slot cl.slot)
  | .maxu cl _ _ _ _ _ => some (.slot cl.slot)
  | .clz cl _ _ _ => some (.slot cl.slot)
  | .popc cl _ _ _ => some (.slot cl.slot)
  | .addw cl _ _ _ _ _ => some (.slot cl.slot)
  | .subw cl _ _ _ _ _ => some (.slot cl.slot)
  | .sllw cl _ _ _ _ _ => some (.slot cl.slot)
  | .srlw cl _ _ _ _ _ => some (.slot cl.slot)
  | .sraw cl _ _ _ _ _ => some (.slot cl.slot)
  | .hash cl _ _ _ _ _ => some (.slot cl.slot)
  | .mul cl _ _ _ _ _ => some (.slot cl.slot)
  | .mulh cl _ _ _ _ _ => some (.slot cl.slot)
  | .mulhu cl _ _ _ _ _ => some (.slot cl.slot)
  | .mulw cl _ _ _ _ _ => some (.slot cl.slot)
  | .div _ _ _ _ _ => some (.slot .sy)
  | .divu _ _ _ _ _ => some (.slot .sy)
  | .rem _ _ _ _ _ => some (.slot .sy)
  | .remu _ _ _ _ _ => some (.slot .sy)
  | .addi cl _ _ _ _ => some (.slot cl.slot)
  | .andi cl _ _ _ _ => some (.slot cl.slot)
  | .ori cl _ _ _ _ => some (.slot cl.slot)
  | .xori cl _ _ _ _ => some (.slot cl.slot)
  | .slli cl _ _ _ _ => some (.slot cl.slot)
  | .srli cl _ _ _ _ => some (.slot cl.slot)
  | .srai cl _ _ _ _ => some (.slot cl.slot)
  | .slti cl _ _ _ _ => some (.slot cl.slot)
  | .limm cl _ _ => some (.slot cl.slot)
  | .limmh cl _ _ => some (.slot cl.slot)
  | .fimm cl _ _ => some (.slot cl.slot)
  | .lit cl _ _ => some (.slot cl.slot)
  | .litS cl _ _ => some (.slot cl.slot)
  | .litD cl _ _ => some (.slot cl.slot)
  | .kld cl _ _ => some (.slot cl.slot)
  | .pcmp cl _ _ _ _ _ _ => some (.slot cl.slot)
  | .pcmpi cl _ _ _ _ _ => some (.slot cl.slot)
  | .pand cl _ _ _ _ => some (.slot cl.slot)
  | .por cl _ _ _ _ => some (.slot cl.slot)
  | .pxor cl _ _ _ _ => some (.slot cl.slot)
  | .pandn cl _ _ _ _ => some (.slot cl.slot)
  | .sel cl _ _ _ _ _ _ => some (.slot cl.slot)
  | .xmov cl _ _ _ => some (.slot cl.slot)
  | .crd cl _ _ => some (.slot cl.slot)
  | .cwr cl _ _ => some (.slot cl.slot)
  | .acvtGen2loc cl _ _ _ => some (.slot cl.slot)
  | .acvtGen2shr cl _ _ _ => some (.slot cl.slot)
  | .acvtGen2clu cl _ _ _ => some (.slot cl.slot)
  | .acvtLoc2gen cl _ _ _ => some (.slot cl.slot)
  | .acvtShr2gen cl _ _ _ => some (.slot cl.slot)
  | .acvtClu2gen cl _ _ _ => some (.slot cl.slot)
  | .atest cl _ _ _ _ => some (.slot cl.slot)
  | .fadd cl _ _ _ _ _ _ _ _ => some (.slot cl.slot)
  | .fsub cl _ _ _ _ _ _ _ _ => some (.slot cl.slot)
  | .fmul cl _ _ _ _ _ _ _ _ => some (.slot cl.slot)
  | .fmin cl _ _ _ _ _ _ => some (.slot cl.slot)
  | .fmax cl _ _ _ _ _ _ => some (.slot cl.slot)
  | .fabs cl _ _ _ => some (.slot cl.slot)
  | .fneg cl _ _ _ => some (.slot cl.slot)
  | .fcvt cl _ _ _ _ _ _ => some (.slot cl.slot)
  | .ftoi cl _ _ _ _ _ => some (.slot cl.slot)
  | .fito cl _ _ _ _ => some (.slot cl.slot)
  | .fdiv _ _ _ _ _ _ _ _ => some (.slot .sy)
  | .fsqrt _ _ _ _ _ _ => some (.slot .sy)
  | .fma cl _ _ _ _ _ _ _ _ => some (.slot cl.slot)
  | .fnma cl _ _ _ _ _ _ _ _ => some (.slot cl.slot)
  | .fcmp cl _ _ _ _ _ => some (.slot cl.slot)
  | .fclass cl _ _ _ _ => some (.slot cl.slot)
  | .br _ _ => some (.slot .sx)
  | .jr _ _ _ => some (.slot .sx)
  | .call _ _ => some (.slot .sx)
  | .ret _ => some (.slot .sx)
  | .loop _ _ _ _ => some (.slot .sx)
  | .loopR _ _ _ _ => some (.slot .sx)
  | .loopi _ _ _ _ => some (.slot .sx)
  | .loopiR _ _ _ _ => some (.slot .sx)
  | .lbrk _ => some (.slot .sx)
  | .frame _ => some (.slot .sx)
  | .sysc _ _ => some (.slot .sx)
  | .brk _ _ => some (.slot .sx)
  | .tend _ => some (.slot .sx)
  | .est _ _ => some (.slot .sx)
  | .rfe => some (.slot .sx)
  | .esc _ _ => some (.slot .sx)
  | .tlaunch _ _ _ => some (.slot .sx)
  | .tjoin _ _ _ => some (.slot .sx)
  | .tjoinW _ _ _ => some (.slot .sx)
  | .admitC _ _ _ => some (.slot .sx)
  | .admitX _ _ _ => some (.slot .sx)
  | .gsig _ _ _ _ => some (.slot .sx)
  | .gwait _ _ _ _ => some (.slot .sx)
  | .gpoll _ _ _ _ => some (.slot .sx)
  | .barra _ _ _ _ => some (.slot .sx)
  | .barraQ _ _ _ => some (.slot .sx)
  | .barrw _ _ _ => some (.slot .sx)
  | .sstep _ _ => some (.slot .sx)
  | .fence _ _ => some (.slot .sx)
  | .cut _ _ _ => some (.slot .sx)
  | .ldb _ _ _ _ => some (.slot .ls)
  | .ldh _ _ _ _ => some (.slot .ls)
  | .ldw _ _ _ _ => some (.slot .ls)
  | .ldd _ _ _ _ => some (.slot .ls)
  | .ldbz _ _ _ _ => some (.slot .ls)
  | .ldhz _ _ _ _ => some (.slot .ls)
  | .ldwz _ _ _ _ => some (.slot .ls)
  | .stb _ _ _ _ => some (.slot .ls)
  | .sth _ _ _ _ => some (.slot .ls)
  | .stw _ _ _ _ => some (.slot .ls)
  | .std _ _ _ _ => some (.slot .ls)
  | .vld _ _ _ _ => some (.slot .ls)
  | .vst _ _ _ _ => some (.slot .ls)
  | .aintAddW _ _ _ _ _ => some (.slot .ls)
  | .aintAddD _ _ _ _ _ => some (.slot .ls)
  | .aintAnd _ _ _ _ _ => some (.slot .ls)
  | .aintOr _ _ _ _ _ => some (.slot .ls)
  | .aintXor _ _ _ _ _ => some (.slot .ls)
  | .aintMin _ _ _ _ _ => some (.slot .ls)
  | .aintMax _ _ _ _ _ => some (.slot .ls)
  | .aintMinz _ _ _ _ _ => some (.slot .ls)
  | .aintMaxz _ _ _ _ _ => some (.slot .ls)
  | .aintSwapW _ _ _ _ _ => some (.slot .ls)
  | .aintSwapD _ _ _ _ _ => some (.slot .ls)
  | .afpFadd _ _ _ _ _ _ => some (.slot .ls)
  | .afpFmin _ _ _ _ _ _ => some (.slot .ls)
  | .afpFmax _ _ _ _ _ _ => some (.slot .ls)
  | .acasW _ _ _ _ _ => some (.slot .ls)
  | .acasD _ _ _ _ _ => some (.slot .ls)
  | .acasQ _ _ _ _ _ => some (.slot .ls)
  | .vaccOvw _ _ _ _ => some (.slot .ls)
  | .vaccAddF32 _ _ _ _ => some (.slot .ls)
  | .vaccAddF64 _ _ _ _ => some (.slot .ls)
  | .vaccAddBf16 _ _ _ _ => some (.slot .ls)
  | .vaccAddF16 _ _ _ _ => some (.slot .ls)
  | .vaccAddI32 _ _ _ _ => some (.slot .ls)
  | .bpop _ _ _ _ => some (.slot .ls)
  | .bpush _ _ _ _ => some (.slot .ls)
  | .badvC _ _ _ => some (.slot .ls)
  | .badvP _ _ _ => some (.slot .ls)
  | .bwaitC _ _ _ => some (.slot .ls)
  | .bwaitP _ _ _ => some (.slot .ls)
  | .vadd _ _ _ _ _ _ _ _ => some (.slot .vx)
  | .vsub _ _ _ _ _ _ _ _ => some (.slot .vx)
  | .vmul _ _ _ _ _ _ _ _ => some (.slot .vx)
  | .vfma _ _ _ _ _ _ _ _ => some (.slot .vx)
  | .vfmac _ _ _ _ _ _ _ _ => some (.slot .vx)
  | .vmin _ _ _ _ _ _ _ => some (.slot .vx)
  | .vmax _ _ _ _ _ _ _ => some (.slot .vx)
  | .vabs _ _ _ _ => some (.slot .vx)
  | .vneg _ _ _ _ => some (.slot .vx)
  | .vdiv _ _ _ _ _ _ _ _ => some (.slot .vx)
  | .vexp _ _ _ _ _ _ => some (.slot .vx)
  | .vexp2 _ _ _ _ _ _ => some (.slot .vx)
  | .vlog2 _ _ _ _ _ _ => some (.slot .vx)
  | .vrcp _ _ _ _ _ _ => some (.slot .vx)
  | .vrsqrt _ _ _ _ _ _ => some (.slot .vx)
  | .vsqrt _ _ _ _ _ _ => some (.slot .vx)
  | .vrmax _ _ _ _ _ => some (.slot .vx)
  | .vrmin _ _ _ _ _ => some (.slot .vx)
  | .vrsum _ _ _ _ _ _ => some (.slot .vx)
  | .vcmplt _ _ _ _ _ _ _ => some (.slot .vx)
  | .vcmpeq _ _ _ _ _ _ _ => some (.slot .vx)
  | .vsel _ _ _ _ _ _ => some (.slot .vx)
  | .vcvt _ _ _ _ _ _ _ => some (.slot .vx)
  | .vmov _ _ _ => some (.slot .vx)
  | .vbcast _ _ _ _ _ => some (.slot .vx)
  | .vbcastY _ _ _ _ => some (.slot .vx)
  | .vlsh _ _ _ _ _ => some (.slot .vx)
  | .vlshY _ _ _ _ _ => some (.slot .vx)
  | .vget _ _ _ _ _ => some (.slot .vx)
  | .vput _ _ _ _ _ => some (.slot .vx)
  | .viadd _ _ _ _ _ => some (.slot .vx)
  | .visub _ _ _ _ _ => some (.slot .vx)
  | .vimul _ _ _ _ _ => some (.slot .vx)
  | .vand _ _ _ _ _ => some (.slot .vx)
  | .vor _ _ _ _ _ => some (.slot .vx)
  | .vxor _ _ _ _ _ => some (.slot .vx)
  | .vsll _ _ _ _ _ => some (.slot .vx)
  | .vsrl _ _ _ _ _ => some (.slot .vx)
  | .vsra _ _ _ _ _ => some (.slot .vx)
  | .vimin _ _ _ _ _ => some (.slot .vx)
  | .vimax _ _ _ _ _ => some (.slot .vx)
  | .vadd8 _ _ _ _ _ _ _ _ => some (.slot .vx)
  | .vmul8 _ _ _ _ _ _ _ _ => some (.slot .vx)
  | .viota _ _ _ => some (.slot .vx)
  | .vrng _ _ _ _ _ => some (.slot .vx)
  | .mcallGemm _ _ _ _ => some (.slot .mx)
  | .mcallGemmt _ _ _ _ => some (.slot .mx)
  | .mcallGemmz _ _ _ _ => some (.slot .mx)
  | .mcallGemv _ _ _ _ => some (.slot .mx)
  | .mcallOuter _ _ _ _ => some (.slot .mx)
  | .mcallTrans => some (.slot .mx)
  | .mcallDgemm _ _ _ _ => some (.slot .mx)
  | .mcallRowsc _ _ => some (.slot .mx)
  | .mcallColred _ => some (.slot .mx)
  | .mcallCvtout _ _ => some (.slot .mx)
  | .mcallLoadc _ _ => some (.slot .mx)
  | .mzero _ => some (.slot .mx)
  | .mwait => some (.slot .mx)
  | .mwaitTile _ => some (.slot .mx)
  | .matrixRoutineComplete _ => none
  | .matrixRoutineStop _ => none
  | .cpy _ _ _ _ _ => some (.slot .cp)
  | .publ _ => some (.slot .cp)
  | .gath _ _ _ _ _ => some (.slot .cp)
  | .scat _ _ _ _ => some (.slot .cp)
  | .coll _ _ _ => some (.slot .cp)
  | .sbar _ _ => some (.slot .cp)
  | .cwait _ => some (.slot .cp)
  | .persist _ _ => some (.slot .cp)
  | .cpyb _ _ _ _ => some (.slot .cp)
  | .bdrain _ _ _ _ => some (.slot .cp)
  | .streamLineMove _ => none
  | .streamComplete _ _ => none
  | .streamDeadlineExpiry _ _ => none
  | .publishSwap _ _ => none
  | .seal _ _ _ _ => some (.slot .cy)
  | .openCt _ _ _ _ => some (.slot .cy)
  | .ywait => some (.slot .cy)
  | .cipherCommandComplete _ => none
  | .remoteReplyArrival _ => none
  | .writeAckArrival _ => none
  | .failureNoticeArrival _ => none
  | .remoteReadAtHome _ => none
  | .remoteWriteAtHome _ => none
  | .remoteAtomicAtHome _ => none
  | .translationWalkComplete _ _ _ => none
  | .codeTagCheck _ _ => none
  | .blockPullComplete _ _ => none
  | .owedBlockWriteout _ _ => none
  | .imageDrainBlock _ => none
  | .segmentLoad _ => none
  | .tokenTick _ => none
  | .contractRelease _ _ => none
  | .budgetExhausted _ _ => none
  | .drainLimitExpiry _ => none
  | .schedulerTransactionCommit _ => none
  | .taskRetirement _ => none
  | .cutStop _ => none
  | .quiescence _ => none
  | .ppboundCountExpiry _ => none
  | .watchdog _ => none
  | .dispositionResume _ _ _ _ _ _ => none
  | .dispositionKill _ _ => none
  | .trapRingTailWrite _ _ => none
  | .barrierArrival _ => none
  | .barrierCompletionNotice _ => none
  | .stepCompletion _ _ _ => none
  | .gateOperationAtHome _ => none
  | .gateWaitTimeout _ => none
  | .gateTokenRefill _ _ => none
  | .gcntWrite _ _ => none
  | .gateValidWrite _ _ _ => none
  | .aclEntryWrite _ _ _ _ => none
  | .hgsig _ _ _ _ => none
  | .hgcnt _ _ _ => none
  | .hwakeWrite _ _ _ _ => none
  | .leaseClaim _ _ => none
  | .leaseExpiry => none
  | .hostMemoryWrite _ _ _ _ => none
  | .hostMemoryRead _ _ _ _ => none
  | .pspinWrite _ _ _ _ => none
  | .reservationWrite _ _ _ => none
  | .lsdomWrite _ _ => none
  | .xinvWrite _ _ => none
  | .invalidationComplete _ => none
  | .hcut _ => none
  | .hcutAccept => none
  | .powerEvaluation _ => none
  | .powerCapWrite _ => none
  | .droopTrip _ _ _ => none
  | .patrolScrub _ => none
  | .coldReset => none
  | .imageLocatorReceived _ => none
  | .linkWaitTimeout => none
  | .imageFetchComplete _ => none
  | .warmReset => none
  | .fatalError _ => none
  | .fatalStop => none
  | .getVersion _ => none
  | .getCapabilities _ => none
  | .negotiateAlgorithms _ => none
  | .getDigests _ => none
  | .getCertificate _ _ _ _ _ => none
  | .challenge _ _ _ => none
  | .getMeasurements _ _ => none
  | .keyExchange _ _ _ _ _ => none
  | .finish _ => none
  | .heartbeat _ => none
  | .keyUpdate _ => none
  | .endSession _ => none
  | .sessionExpiry _ => none
  | .keyset _ _ _ _ => none
  | .keyclr _ _ _ => none
  | .signreg _ _ _ _ => none
  | .signclr _ _ _ => none
  | .lockInterfaceRequest _ _ => none
  | .getDeviceInterfaceReport _ _ => none
  | .getDeviceInterfaceState _ _ => none
  | .startInterfaceRequest _ _ => none
  | .stopInterfaceRequest _ _ => none
  | .teardownScrubComplete _ => none
  | .registerWrite _ _ _ => none
  | .updateStart _ => none
  | .updateSwitch => none
  | .firmwareHeartbeat => none
  | .updateCommit => none
  | .heartbeatMissed => none
  | .exposedResultLanding _ => none
  | .declaredBoundExpiry _ => none
  | .persistenceReached _ => none
  | .droopRecovery _ => none
  | .powerLoss => none

/-- A word from its fields, the most significant first: each is its width and its value. -/
def pack : List (Nat × Nat) → Nat → Nat
  | [], acc => acc
  | (n, v) :: fs, acc => pack fs (acc * 2 ^ n + v)

/-- A bit-vector field for `pack`. -/
def fv {n : Nat} (v : BitVec n) : Nat × Nat := (n, v.toNat)

/-- A one-bit field for `pack`. -/
def fb (b : Bool) : Nat × Nat := (1, bit b)

/-- The fields of the word of an instruction, from the layouts of R67, R70, R80, R85, R87, R89; none for an event. -/
def Instr.fields : Instr → List (Nat × Nat)
  | .nop _ => []
  | .emptyBundle mark stamp => [(3, 0x0), fb mark, (12, 0x0), fv stamp]
  | .bankLockPrefix n ga maska gb maskb => [(3, 0x1), fv n, fv ga, fv maska, fv gb, fv maskb, (6, 0x0)]
  | .add _ rd ra rb bk g => [(6, 0x1), fv rd, fv ra, fv rb, fv bk, (5, 0x0), fv g]
  | .sub _ rd ra rb bk g => [(6, 0x1), fv rd, fv ra, fv rb, fv bk, (5, 0x1), fv g]
  | .and _ rd ra rb bk g => [(6, 0x1), fv rd, fv ra, fv rb, fv bk, (5, 0x2), fv g]
  | .or _ rd ra rb bk g => [(6, 0x1), fv rd, fv ra, fv rb, fv bk, (5, 0x3), fv g]
  | .xor _ rd ra rb bk g => [(6, 0x1), fv rd, fv ra, fv rb, fv bk, (5, 0x4), fv g]
  | .andn _ rd ra rb bk g => [(6, 0x1), fv rd, fv ra, fv rb, fv bk, (5, 0x5), fv g]
  | .sll _ rd ra rb bk g => [(6, 0x1), fv rd, fv ra, fv rb, fv bk, (5, 0x6), fv g]
  | .srl _ rd ra rb bk g => [(6, 0x1), fv rd, fv ra, fv rb, fv bk, (5, 0x7), fv g]
  | .sra _ rd ra rb bk g => [(6, 0x1), fv rd, fv ra, fv rb, fv bk, (5, 0x8), fv g]
  | .slt _ rd ra rb bk g => [(6, 0x1), fv rd, fv ra, fv rb, fv bk, (5, 0x9), fv g]
  | .sltu _ rd ra rb bk g => [(6, 0x1), fv rd, fv ra, fv rb, fv bk, (5, 0xa), fv g]
  | .min _ rd ra rb bk g => [(6, 0x1), fv rd, fv ra, fv rb, fv bk, (5, 0xb), fv g]
  | .max _ rd ra rb bk g => [(6, 0x1), fv rd, fv ra, fv rb, fv bk, (5, 0xc), fv g]
  | .minu _ rd ra rb bk g => [(6, 0x1), fv rd, fv ra, fv rb, fv bk, (5, 0xd), fv g]
  | .maxu _ rd ra rb bk g => [(6, 0x1), fv rd, fv ra, fv rb, fv bk, (5, 0xe), fv g]
  | .clz _ rd ra g => [(6, 0x1), fv rd, fv ra, (12, 0xf), fv g]
  | .popc _ rd ra g => [(6, 0x1), fv rd, fv ra, (12, 0x10), fv g]
  | .addw _ rd ra rb bk g => [(6, 0x1), fv rd, fv ra, fv rb, fv bk, (5, 0x11), fv g]
  | .subw _ rd ra rb bk g => [(6, 0x1), fv rd, fv ra, fv rb, fv bk, (5, 0x12), fv g]
  | .sllw _ rd ra rb bk g => [(6, 0x1), fv rd, fv ra, fv rb, fv bk, (5, 0x13), fv g]
  | .srlw _ rd ra rb bk g => [(6, 0x1), fv rd, fv ra, fv rb, fv bk, (5, 0x14), fv g]
  | .sraw _ rd ra rb bk g => [(6, 0x1), fv rd, fv ra, fv rb, fv bk, (5, 0x15), fv g]
  | .hash _ rd ra rb bk g => [(6, 0x1), fv rd, fv ra, fv rb, fv bk, (5, 0x16), fv g]
  | .mul _ rd ra rb bk g => [(6, 0x2), fv rd, fv ra, fv rb, fv bk, (5, 0x0), fv g]
  | .mulh _ rd ra rb bk g => [(6, 0x2), fv rd, fv ra, fv rb, fv bk, (5, 0x1), fv g]
  | .mulhu _ rd ra rb bk g => [(6, 0x2), fv rd, fv ra, fv rb, fv bk, (5, 0x2), fv g]
  | .mulw _ rd ra rb bk g => [(6, 0x2), fv rd, fv ra, fv rb, fv bk, (5, 0x3), fv g]
  | .div rd ra rb bk g => [(6, 0x2), fv rd, fv ra, fv rb, fv bk, (5, 0x4), fv g]
  | .divu rd ra rb bk g => [(6, 0x2), fv rd, fv ra, fv rb, fv bk, (5, 0x5), fv g]
  | .rem rd ra rb bk g => [(6, 0x2), fv rd, fv ra, fv rb, fv bk, (5, 0x6), fv g]
  | .remu rd ra rb bk g => [(6, 0x2), fv rd, fv ra, fv rb, fv bk, (5, 0x7), fv g]
  | .addi _ rd ra imm g => [(6, 0x3), fv rd, fv ra, fv imm, fv g]
  | .andi _ rd ra imm g => [(6, 0x4), fv rd, fv ra, fv imm, fv g]
  | .ori _ rd ra imm g => [(6, 0x5), fv rd, fv ra, fv imm, fv g]
  | .xori _ rd ra imm g => [(6, 0x6), fv rd, fv ra, fv imm, fv g]
  | .slli _ rd ra sh g => [(6, 0x7), fv rd, fv ra, (6, 0x0), fv sh, fv g]
  | .srli _ rd ra sh g => [(6, 0x7), fv rd, fv ra, (6, 0x10), fv sh, fv g]
  | .srai _ rd ra sh g => [(6, 0x7), fv rd, fv ra, (6, 0x20), fv sh, fv g]
  | .slti _ rd ra imm g => [(6, 0x8), fv rd, fv ra, fv imm, fv g]
  | .limm _ rd imm => [(6, 0x9), fv rd, fv imm, (1, 0x0)]
  | .limmh _ rd imm => [(6, 0xa), fv rd, fv imm, (1, 0x0)]
  | .fimm _ rd imm => [(6, 0xb), fv rd, fv imm, (1, 0x0)]
  | .lit _ rd num => [(6, 0xc), fv rd, (19, 0x0), fv num]
  | .litS _ rd num => [(6, 0xc), fv rd, (19, 0x1), fv num]
  | .litD _ rd num => [(6, 0xc), fv rd, (19, 0x2), fv num]
  | .kld _ rd idx => [(6, 0xd), fv rd, (13, 0x0), fv idx]
  | .pcmp _ pd ra rb bk cond g => [(8, 0x38), fv pd, fv ra, fv rb, fv bk, fv cond, fv g]
  | .pcmpi _ pd cond ra imm g => [(6, 0xf), fv pd, fv cond, fv ra, fv imm, fv g]
  | .pand _ pd pa pb g => [(8, 0x40), fv pd, (2, 0x0), fv pa, (2, 0x0), fv pb, (7, 0x0), fv g]
  | .por _ pd pa pb g => [(8, 0x40), fv pd, (2, 0x0), fv pa, (2, 0x0), fv pb, (7, 0x1), fv g]
  | .pxor _ pd pa pb g => [(8, 0x40), fv pd, (2, 0x0), fv pa, (2, 0x0), fv pb, (7, 0x2), fv g]
  | .pandn _ pd pa pb g => [(8, 0x40), fv pd, (2, 0x0), fv pa, (2, 0x0), fv pb, (7, 0x3), fv g]
  | .sel _ rd ra rb bk pk g => [(6, 0x11), fv rd, fv ra, fv rb, fv bk, (2, 0x0), fv pk, fv g]
  | .xmov _ rd ra g => [(6, 0x12), fv rd, fv ra, (12, 0x0), fv g]
  | .crd _ rd num => [(6, 0x13), fv rd, (5, 0x0), fv num]
  | .cwr _ ra num => [(11, 0x280), fv ra, fv num]
  | .acvtGen2loc _ rd ra g => [(6, 0x15), fv rd, fv ra, (12, 0x0), fv g]
  | .acvtGen2shr _ rd ra g => [(6, 0x15), fv rd, fv ra, (12, 0x1), fv g]
  | .acvtGen2clu _ rd ra g => [(6, 0x15), fv rd, fv ra, (12, 0x2), fv g]
  | .acvtLoc2gen _ rd ra g => [(6, 0x15), fv rd, fv ra, (12, 0x3), fv g]
  | .acvtShr2gen _ rd ra g => [(6, 0x15), fv rd, fv ra, (12, 0x4), fv g]
  | .acvtClu2gen _ rd ra g => [(6, 0x15), fv rd, fv ra, (12, 0x5), fv g]
  | .atest _ pd ra ap g => [(8, 0x58), fv pd, fv ra, (7, 0x0), fv ap, fv g]
  | .fadd _ rd ra rb bk dbl zi zo rm => [(6, 0x18), fv rd, fv ra, fv rb, fv bk, fb dbl, fb zi, fb zo, fv rm, (4, 0x0)]
  | .fsub _ rd ra rb bk dbl zi zo rm => [(6, 0x18), fv rd, fv ra, fv rb, fv bk, fb dbl, fb zi, fb zo, fv rm, (4, 0x1)]
  | .fmul _ rd ra rb bk dbl zi zo rm => [(6, 0x18), fv rd, fv ra, fv rb, fv bk, fb dbl, fb zi, fb zo, fv rm, (4, 0x2)]
  | .fmin _ rd ra rb bk dbl zi => [(6, 0x18), fv rd, fv ra, fv rb, fv bk, fb dbl, fb zi, (7, 0x3)]
  | .fmax _ rd ra rb bk dbl zi => [(6, 0x18), fv rd, fv ra, fv rb, fv bk, fb dbl, fb zi, (7, 0x4)]
  | .fabs _ rd ra dbl => [(6, 0x18), fv rd, fv ra, (7, 0x0), fb dbl, (8, 0x5)]
  | .fneg _ rd ra dbl => [(6, 0x18), fv rd, fv ra, (7, 0x0), fb dbl, (8, 0x6)]
  | .fcvt _ rd ra dbl zi zo rm => [(6, 0x18), fv rd, fv ra, (7, 0x0), fb dbl, fb zi, fb zo, fv rm, (4, 0x7)]
  | .ftoi _ rd ra dbl zi rm => [(6, 0x18), fv rd, fv ra, (7, 0x0), fb dbl, fb zi, (1, 0x0), fv rm, (4, 0x8)]
  | .fito _ rd ra dbl rm => [(6, 0x18), fv rd, fv ra, (7, 0x0), fb dbl, (2, 0x0), fv rm, (4, 0x9)]
  | .fdiv rd ra rb bk dbl zi zo rm => [(6, 0x18), fv rd, fv ra, fv rb, fv bk, fb dbl, fb zi, fb zo, fv rm, (4, 0xa)]
  | .fsqrt rd ra dbl zi zo rm => [(6, 0x18), fv rd, fv ra, (7, 0x0), fb dbl, fb zi, fb zo, fv rm, (4, 0xb)]
  | .fma _ rd ra rb rc dbl zi zo rm => [(6, 0x19), fv rd, fv ra, fv rb, fv rc, fb dbl, fb zi, fb zo, fv rm, (1, 0x0)]
  | .fnma _ rd ra rb rc dbl zi zo rm => [(6, 0x19), fv rd, fv ra, fv rb, fv rc, fb dbl, fb zi, fb zo, fv rm, (1, 0x1)]
  | .fcmp _ pd cond ra rb dbl => [(6, 0x1a), fv pd, fv cond, fv ra, fv rb, fb dbl, (10, 0x0)]
  | .fclass _ rd ra dbl g => [(6, 0x1b), fv rd, fv ra, (11, 0x0), fb dbl, fv g]
  | .br off g => [(6, 0x20), fv off, fv g]
  | .jr ra off g => [(11, 0x420), fv ra, fv off, fv g]
  | .call off g => [(6, 0x22), fv off, fv g]
  | .ret g => [(28, 0x8c00000), fv g]
  | .loop lc sm1 xc endOff => [(6, 0x24), fv lc, (1, 0x0), fv sm1, fv xc, fv endOff]
  | .loopR lc sm1 xc endOff => [(6, 0x24), fv lc, (1, 0x1), fv sm1, fv xc, fv endOff]
  | .loopi lc sm1 count endOff => [(6, 0x25), fv lc, (1, 0x0), fv sm1, fv count, fv endOff]
  | .loopiR lc sm1 count endOff => [(6, 0x25), fv lc, (1, 0x1), fv sm1, fv count, fv endOff]
  | .lbrk g => [(28, 0x9800000), fv g]
  | .frame g => [(28, 0xa000000), fv g]
  | .sysc code g => [(16, 0xa400), fv code, fv g]
  | .brk code g => [(16, 0xa800), fv code, fv g]
  | .tend g => [(28, 0xac00000), fv g]
  | .est ra g => [(11, 0x580), fv ra, (12, 0x0), fv g]
  | .rfe => [(32, 0xb4000000)]
  | .esc code g => [(16, 0xb800), fv code, fv g]
  | .tlaunch rd ra g => [(6, 0x30), fv rd, fv ra, (12, 0x0), fv g]
  | .tjoin rd ra g => [(6, 0x31), fv rd, fv ra, (12, 0x0), fv g]
  | .tjoinW rd ra g => [(6, 0x31), fv rd, fv ra, (12, 0x800), fv g]
  | .admitC rd ra g => [(6, 0x32), fv rd, fv ra, (12, 0x0), fv g]
  | .admitX rd ra g => [(6, 0x32), fv rd, fv ra, (12, 0x800), fv g]
  | .gsig rd ra bnd g => [(6, 0x34), fv rd, fv ra, (4, 0x0), fv bnd, fv g]
  | .gwait rd ra bnd g => [(6, 0x35), fv rd, fv ra, (4, 0x0), fv bnd, fv g]
  | .gpoll rd ra bnd g => [(6, 0x36), fv rd, fv ra, (4, 0x0), fv bnd, fv g]
  | .barra rd ra bar g => [(6, 0x38), fv rd, fv ra, (6, 0x0), fv bar, fv g]
  | .barraQ rd bar g => [(6, 0x38), fv rd, (11, 0x1), fv bar, fv g]
  | .barrw ra bar g => [(11, 0x720), fv ra, (6, 0x0), fv bar, fv g]
  | .sstep rd g => [(6, 0x3a), fv rd, (17, 0x0), fv g]
  | .fence scope g => [(25, 0x1d80000), fv scope, fv g]
  | .cut rd ra g => [(6, 0x3c), fv rd, fv ra, (12, 0x0), fv g]
  | .ldb reg base off g => [(6, 0x1), fv reg, fv base, fv off, (2, 0x0), fv g]
  | .ldh reg base off g => [(6, 0x2), fv reg, fv base, fv off, (2, 0x0), fv g]
  | .ldw reg base off g => [(6, 0x3), fv reg, fv base, fv off, (2, 0x0), fv g]
  | .ldd reg base off g => [(6, 0x4), fv reg, fv base, fv off, (2, 0x0), fv g]
  | .ldbz reg base off g => [(6, 0x5), fv reg, fv base, fv off, (2, 0x0), fv g]
  | .ldhz reg base off g => [(6, 0x6), fv reg, fv base, fv off, (2, 0x0), fv g]
  | .ldwz reg base off g => [(6, 0x7), fv reg, fv base, fv off, (2, 0x0), fv g]
  | .stb reg base off g => [(6, 0x8), fv reg, fv base, fv off, (2, 0x0), fv g]
  | .sth reg base off g => [(6, 0x9), fv reg, fv base, fv off, (2, 0x0), fv g]
  | .stw reg base off g => [(6, 0xa), fv reg, fv base, fv off, (2, 0x0), fv g]
  | .std reg base off g => [(6, 0xb), fv reg, fv base, fv off, (2, 0x0), fv g]
  | .vld reg base off g => [(6, 0xc), fv reg, fv base, fv off, (2, 0x0), fv g]
  | .vst reg base off g => [(6, 0xd), fv reg, fv base, fv off, (2, 0x0), fv g]
  | .aintAddW d base s ord g => [(6, 0x10), fv d, fv base, fv s, (5, 0x0), fb ord, fv g]
  | .aintAddD d base s ord g => [(6, 0x10), fv d, fv base, fv s, (5, 0x1), fb ord, fv g]
  | .aintAnd d base s ord g => [(6, 0x10), fv d, fv base, fv s, (5, 0x2), fb ord, fv g]
  | .aintOr d base s ord g => [(6, 0x10), fv d, fv base, fv s, (5, 0x3), fb ord, fv g]
  | .aintXor d base s ord g => [(6, 0x10), fv d, fv base, fv s, (5, 0x4), fb ord, fv g]
  | .aintMin d base s ord g => [(6, 0x10), fv d, fv base, fv s, (5, 0x5), fb ord, fv g]
  | .aintMax d base s ord g => [(6, 0x10), fv d, fv base, fv s, (5, 0x6), fb ord, fv g]
  | .aintMinz d base s ord g => [(6, 0x10), fv d, fv base, fv s, (5, 0x7), fb ord, fv g]
  | .aintMaxz d base s ord g => [(6, 0x10), fv d, fv base, fv s, (5, 0x8), fb ord, fv g]
  | .aintSwapW d base s ord g => [(6, 0x10), fv d, fv base, fv s, (5, 0x9), fb ord, fv g]
  | .aintSwapD d base s ord g => [(6, 0x10), fv d, fv base, fv s, (5, 0xa), fb ord, fv g]
  | .afpFadd d base s fmt ord g => [(6, 0x11), fv d, fv base, fv s, (1, 0x0), fv fmt, (2, 0x0), fb ord, fv g]
  | .afpFmin d base s fmt ord g => [(6, 0x11), fv d, fv base, fv s, (1, 0x0), fv fmt, (2, 0x1), fb ord, fv g]
  | .afpFmax d base s fmt ord g => [(6, 0x11), fv d, fv base, fv s, (1, 0x0), fv fmt, (2, 0x2), fb ord, fv g]
  | .acasW d base s ord g => [(6, 0x12), fv d, fv base, fv s, (5, 0x0), fb ord, fv g]
  | .acasD d base s ord g => [(6, 0x12), fv d, fv base, fv s, (5, 0x1), fb ord, fv g]
  | .acasQ d base s ord g => [(6, 0x12), fv d, (1, 0x0), fv base, fv s, (6, 0x2), fb ord, fv g]
  | .vaccOvw v base ord g => [(6, 0x13), fv v, fv base, (11, 0x0), fb ord, fv g]
  | .vaccAddF32 v base ord g => [(6, 0x13), fv v, fv base, (11, 0x1), fb ord, fv g]
  | .vaccAddF64 v base ord g => [(6, 0x13), fv v, fv base, (11, 0x2), fb ord, fv g]
  | .vaccAddBf16 v base ord g => [(6, 0x13), fv v, fv base, (11, 0x3), fb ord, fv g]
  | .vaccAddF16 v base ord g => [(6, 0x13), fv v, fv base, (11, 0x4), fb ord, fv g]
  | .vaccAddI32 v base ord g => [(6, 0x13), fv v, fv base, (11, 0x5), fb ord, fv g]
  | .bpop v bob n g => [(6, 0x18), fv v, fv bob, fv n, (5, 0x0), fv g]
  | .bpush v bob n g => [(6, 0x19), fv v, fv bob, fv n, (5, 0x0), fv g]
  | .badvC bob n g => [(12, 0x680), fv bob, fv n, (5, 0x0), fv g]
  | .badvP bob n g => [(12, 0x680), fv bob, fv n, (5, 0x1), fv g]
  | .bwaitC bob n g => [(12, 0x6c0), fv bob, fv n, (5, 0x0), fv g]
  | .bwaitP bob n g => [(12, 0x6c0), fv bob, fv n, (5, 0x1), fv g]
  | .vadd vd va vb ty zi zo s q => [(6, 0x1), fv vd, fv va, fv vb, fv ty, fb zi, fb zo, fb s, fv q]
  | .vsub vd va vb ty zi zo s q => [(6, 0x2), fv vd, fv va, fv vb, fv ty, fb zi, fb zo, fb s, fv q]
  | .vmul vd va vb ty zi zo s q => [(6, 0x3), fv vd, fv va, fv vb, fv ty, fb zi, fb zo, fb s, fv q]
  | .vfma vd va vb ty zi zo s q => [(6, 0x4), fv vd, fv va, fv vb, fv ty, fb zi, fb zo, fb s, fv q]
  | .vfmac vd va vb ty zi zo s q => [(6, 0x5), fv vd, fv va, fv vb, fv ty, fb zi, fb zo, fb s, fv q]
  | .vmin vd va vb ty zi s q => [(6, 0x6), fv vd, fv va, fv vb, fv ty, fb zi, (1, 0x0), fb s, fv q]
  | .vmax vd va vb ty zi s q => [(6, 0x7), fv vd, fv va, fv vb, fv ty, fb zi, (1, 0x0), fb s, fv q]
  | .vabs vd va ty q => [(6, 0x8), fv vd, fv va, (6, 0x0), fv ty, (3, 0x0), fv q]
  | .vneg vd va ty q => [(6, 0x9), fv vd, fv va, (6, 0x0), fv ty, (3, 0x0), fv q]
  | .vdiv vd va vb ty zi zo s q => [(6, 0xa), fv vd, fv va, fv vb, fv ty, fb zi, fb zo, fb s, fv q]
  | .vexp vd va ty zi zo q => [(6, 0xc), fv vd, fv va, (6, 0x0), fv ty, fb zi, fb zo, (1, 0x0), fv q]
  | .vexp2 vd va ty zi zo q => [(6, 0xd), fv vd, fv va, (6, 0x0), fv ty, fb zi, fb zo, (1, 0x0), fv q]
  | .vlog2 vd va ty zi zo q => [(6, 0xe), fv vd, fv va, (6, 0x0), fv ty, fb zi, fb zo, (1, 0x0), fv q]
  | .vrcp vd va ty zi zo q => [(6, 0xf), fv vd, fv va, (6, 0x0), fv ty, fb zi, fb zo, (1, 0x0), fv q]
  | .vrsqrt vd va ty zi zo q => [(6, 0x10), fv vd, fv va, (6, 0x0), fv ty, fb zi, fb zo, (1, 0x0), fv q]
  | .vsqrt vd va ty zi zo q => [(6, 0x11), fv vd, fv va, (6, 0x0), fv ty, fb zi, fb zo, (1, 0x0), fv q]
  | .vrmax vd va ty zi q => [(6, 0x12), fv vd, fv va, (6, 0x0), fv ty, fb zi, (2, 0x0), fv q]
  | .vrmin vd va ty zi q => [(6, 0x13), fv vd, fv va, (6, 0x0), fv ty, fb zi, (2, 0x0), fv q]
  | .vrsum vd va ty zi zo q => [(6, 0x14), fv vd, fv va, (6, 0x0), fv ty, fb zi, fb zo, (1, 0x0), fv q]
  | .vcmplt vd va vb ty zi s q => [(6, 0x15), fv vd, fv va, fv vb, fv ty, fb zi, (1, 0x0), fb s, fv q]
  | .vcmpeq vd va vb ty zi s q => [(6, 0x16), fv vd, fv va, fv vb, fv ty, fb zi, (1, 0x0), fb s, fv q]
  | .vsel vd va vb ty s q => [(6, 0x17), fv vd, fv va, fv vb, fv ty, (2, 0x0), fb s, fv q]
  | .vcvt vd va code ty zi zo q => [(6, 0x18), fv vd, fv va, (2, 0x0), fv code, fv ty, fb zi, fb zo, (1, 0x0), fv q]
  | .vmov vd va q => [(6, 0x19), fv vd, fv va, (11, 0x0), fv q]
  | .vbcast vd va vb ty q => [(6, 0x1a), fv vd, fv va, fv vb, fv ty, (3, 0x0), fv q]
  | .vbcastY vd vb ty q => [(6, 0x1a), fv vd, (7, 0x0), fv vb, fv ty, (3, 0x1), fv q]
  | .vlsh vd va n ty q => [(6, 0x1b), fv vd, fv va, fv n, fv ty, (3, 0x0), fv q]
  | .vlshY vd va vb ty q => [(6, 0x1b), fv vd, fv va, (1, 0x0), fv vb, fv ty, (3, 0x1), fv q]
  | .vget vd va vb ty q => [(7, 0x38), fv vd, fv va, (1, 0x0), fv vb, fv ty, (3, 0x0), fv q]
  | .vput vd va vb ty q => [(6, 0x1d), fv vd, (1, 0x0), fv va, (1, 0x0), fv vb, fv ty, (3, 0x0), fv q]
  | .viadd vd va vb s q => [(6, 0x20), fv vd, fv va, fv vb, (4, 0x0), fb s, fv q]
  | .visub vd va vb s q => [(6, 0x21), fv vd, fv va, fv vb, (4, 0x0), fb s, fv q]
  | .vimul vd va vb s q => [(6, 0x22), fv vd, fv va, fv vb, (4, 0x0), fb s, fv q]
  | .vand vd va vb s q => [(6, 0x23), fv vd, fv va, fv vb, (4, 0x0), fb s, fv q]
  | .vor vd va vb s q => [(6, 0x24), fv vd, fv va, fv vb, (4, 0x0), fb s, fv q]
  | .vxor vd va vb s q => [(6, 0x25), fv vd, fv va, fv vb, (4, 0x0), fb s, fv q]
  | .vsll vd va vb s q => [(6, 0x26), fv vd, fv va, fv vb, (4, 0x0), fb s, fv q]
  | .vsrl vd va vb s q => [(6, 0x27), fv vd, fv va, fv vb, (4, 0x0), fb s, fv q]
  | .vsra vd va vb s q => [(6, 0x28), fv vd, fv va, fv vb, (4, 0x0), fb s, fv q]
  | .vimin vd va vb s q => [(6, 0x29), fv vd, fv va, fv vb, (4, 0x0), fb s, fv q]
  | .vimax vd va vb s q => [(6, 0x2a), fv vd, fv va, fv vb, (4, 0x0), fb s, fv q]
  | .vadd8 vd va vb ty zi zo s q => [(6, 0x2c), fv vd, fv va, fv vb, (1, 0x0), fb ty, fb zi, fb zo, fb s, fv q]
  | .vmul8 vd va vb ty zi zo s q => [(6, 0x2d), fv vd, fv va, fv vb, (1, 0x0), fb ty, fb zi, fb zo, fb s, fv q]
  | .viota vd ty q => [(6, 0x2e), fv vd, (12, 0x0), fv ty, (3, 0x0), fv q]
  | .vrng vd va vb s q => [(6, 0x2f), fv vd, fv va, fv vb, (4, 0x0), fb s, fv q]
  | .mcallGemm sa sb f0 neg => [(6, 0x1), fv sa, fv sb, (4, 0x0), fb f0, fb neg, (8, 0x0)]
  | .mcallGemmt sa sb f0 neg => [(6, 0x1), fv sa, fv sb, (4, 0x0), fb f0, fb neg, (8, 0x1)]
  | .mcallGemmz sa sb f0 neg => [(6, 0x1), fv sa, fv sb, (4, 0x0), fb f0, fb neg, (8, 0x2)]
  | .mcallGemv sa sb f0 neg => [(6, 0x1), fv sa, fv sb, (4, 0x0), fb f0, fb neg, (8, 0x3)]
  | .mcallOuter sa sb f0 neg => [(6, 0x1), fv sa, fv sb, (4, 0x0), fb f0, fb neg, (8, 0x4)]
  | .mcallTrans => [(32, 0x4000005)]
  | .mcallDgemm sa sb f0 neg => [(6, 0x1), fv sa, fv sb, (4, 0x0), fb f0, fb neg, (8, 0x6)]
  | .mcallRowsc sa f0 => [(6, 0x1), fv sa, (10, 0x0), fb f0, (9, 0x7)]
  | .mcallColred f0 => [(22, 0x10000), fb f0, (9, 0x8)]
  | .mcallCvtout sb f0 => [(12, 0x40), fv sb, (4, 0x0), fb f0, (9, 0x9)]
  | .mcallLoadc sb f0 => [(12, 0x40), fv sb, (4, 0x0), fb f0, (9, 0xa)]
  | .mzero tile => [(27, 0x400000), fv tile]
  | .mwait => [(32, 0xc000000)]
  | .mwaitTile tile => [(27, 0x600001), fv tile]
  | .matrixRoutineComplete _ => []
  | .matrixRoutineStop _ => []
  | .cpy sa sb ct sh ch => [(6, 0x1), fv sa, fv sb, (9, 0x0), fb ct, fb sh, fv ch]
  | .publ ch => [(29, 0x1000000), fv ch]
  | .gath sa sb ct sh ch => [(6, 0x3), fv sa, fv sb, (9, 0x0), fb ct, fb sh, fv ch]
  | .scat sa sb ct ch => [(6, 0x4), fv sa, fv sb, (9, 0x0), fb ct, (1, 0x0), fv ch]
  | .coll sa sb ch => [(6, 0x5), fv sa, fv sb, (11, 0x0), fv ch]
  | .sbar after before => [(26, 0x600000), fv after, fv before]
  | .cwait ch => [(29, 0x3800000), fv ch]
  | .persist sa sb => [(6, 0x8), fv sa, fv sb, (14, 0x0)]
  | .cpyb sa n bob ch => [(6, 0x9), fv sa, (6, 0x0), fv n, fv bob, fv ch]
  | .bdrain sb n bob ch => [(12, 0x280), fv sb, fv n, fv bob, fv ch]
  | .streamLineMove _ => []
  | .streamComplete _ _ => []
  | .streamDeadlineExpiry _ _ => []
  | .publishSwap _ _ => []
  | .seal sa sb ks n => [(6, 0x1), fv sa, fv sb, fv ks, fv n]
  | .openCt sa sb ks n => [(6, 0x2), fv sa, fv sb, fv ks, fv n]
  | .ywait => [(32, 0xc000000)]
  | .cipherCommandComplete _ => []
  | .remoteReplyArrival _ => []
  | .writeAckArrival _ => []
  | .failureNoticeArrival _ => []
  | .remoteReadAtHome _ => []
  | .remoteWriteAtHome _ => []
  | .remoteAtomicAtHome _ => []
  | .translationWalkComplete _ _ _ => []
  | .codeTagCheck _ _ => []
  | .blockPullComplete _ _ => []
  | .owedBlockWriteout _ _ => []
  | .imageDrainBlock _ => []
  | .segmentLoad _ => []
  | .tokenTick _ => []
  | .contractRelease _ _ => []
  | .budgetExhausted _ _ => []
  | .drainLimitExpiry _ => []
  | .schedulerTransactionCommit _ => []
  | .taskRetirement _ => []
  | .cutStop _ => []
  | .quiescence _ => []
  | .ppboundCountExpiry _ => []
  | .watchdog _ => []
  | .dispositionResume _ _ _ _ _ _ => []
  | .dispositionKill _ _ => []
  | .trapRingTailWrite _ _ => []
  | .barrierArrival _ => []
  | .barrierCompletionNotice _ => []
  | .stepCompletion _ _ _ => []
  | .gateOperationAtHome _ => []
  | .gateWaitTimeout _ => []
  | .gateTokenRefill _ _ => []
  | .gcntWrite _ _ => []
  | .gateValidWrite _ _ _ => []
  | .aclEntryWrite _ _ _ _ => []
  | .hgsig _ _ _ _ => []
  | .hgcnt _ _ _ => []
  | .hwakeWrite _ _ _ _ => []
  | .leaseClaim _ _ => []
  | .leaseExpiry => []
  | .hostMemoryWrite _ _ _ _ => []
  | .hostMemoryRead _ _ _ _ => []
  | .pspinWrite _ _ _ _ => []
  | .reservationWrite _ _ _ => []
  | .lsdomWrite _ _ => []
  | .xinvWrite _ _ => []
  | .invalidationComplete _ => []
  | .hcut _ => []
  | .hcutAccept => []
  | .powerEvaluation _ => []
  | .powerCapWrite _ => []
  | .droopTrip _ _ _ => []
  | .patrolScrub _ => []
  | .coldReset => []
  | .imageLocatorReceived _ => []
  | .linkWaitTimeout => []
  | .imageFetchComplete _ => []
  | .warmReset => []
  | .fatalError _ => []
  | .fatalStop => []
  | .getVersion _ => []
  | .getCapabilities _ => []
  | .negotiateAlgorithms _ => []
  | .getDigests _ => []
  | .getCertificate _ _ _ _ _ => []
  | .challenge _ _ _ => []
  | .getMeasurements _ _ => []
  | .keyExchange _ _ _ _ _ => []
  | .finish _ => []
  | .heartbeat _ => []
  | .keyUpdate _ => []
  | .endSession _ => []
  | .sessionExpiry _ => []
  | .keyset _ _ _ _ => []
  | .keyclr _ _ _ => []
  | .signreg _ _ _ _ => []
  | .signclr _ _ _ => []
  | .lockInterfaceRequest _ _ => []
  | .getDeviceInterfaceReport _ _ => []
  | .getDeviceInterfaceState _ _ => []
  | .startInterfaceRequest _ _ => []
  | .stopInterfaceRequest _ _ => []
  | .teardownScrubComplete _ => []
  | .registerWrite _ _ _ => []
  | .updateStart _ => []
  | .updateSwitch => []
  | .firmwareHeartbeat => []
  | .updateCommit => []
  | .heartbeatMissed => []
  | .exposedResultLanding _ => []
  | .declaredBoundExpiry _ => []
  | .persistenceReached _ => []
  | .droopRecovery _ => []
  | .powerLoss => []

/-- The value of the word of an instruction. -/
def Instr.wordVal (i : Instr) : Nat := pack i.fields 0

/-- The encoder: the word of a well-formed slot word, empty bundle or prefix. -/
def encode (i : Instr) : BitVec 32 := BitVec.ofNat 32 i.wordVal

/-- The word that four bytes are, the first at the lowest address (R6). -/
def wordOfBytes : List Byte → Option (BitVec 32)
  | [a, b, c, d] => some (d ++ c ++ b ++ a)
  | _ => none

/-- The bytes of a word, the first at the lowest address (R6). -/
def bytesOfWord (w : BitVec 32) : List Byte :=
  [w.extractLsb' 0 8, w.extractLsb' 8 8, w.extractLsb' 16 8, w.extractLsb' 24 8]

/-- The decoder on bytes: an instruction word is four bytes (R6, R62). -/
def decodeBytes (pl : Place) (bs : List Byte) : Except DecodeFault Instr :=
  match wordOfBytes bs with
  | some w => decodeAt pl w
  | none => .error .illegal

/-- The first place of a list at which the bytes are an instruction. Log 8 (DEDUCED). -/
def firstPlace : List Place → List Byte → Option Instr
  | [], _ => none
  | pl :: ps, bs =>
    match decodeBytes pl bs with
    | .ok i => some i
    | .error _ => firstPlace ps bs

/-- The order in which `decodeTableWord` tries the places. A row of the table names no slot, and one word can be
legal in several slots (R82, R86, R88, R90): the reading with the most fixed bits comes first (log 8, DEDUCED). -/
def tablePlaces : List Place :=
  [.slot .mx, .slot .sx, .slot .sy, .slot .cp, .start, .slot .ls, .slot .vx, .slot .cy]

/-- The instruction that the decoder reads from a word of the opcode table, laid out as the hardware stores it.
A word of all zeros is the NOP of SX. Log 8 (DEDUCED). -/
def decodeTableWord (nbits w : Nat) : Option Instr :=
  if nbits ≤ 32 then
    let v := BitVec.ofNat 32 (w % 2 ^ nbits)
    if v = 0#32 then some (.nop .sx) else firstPlace tablePlaces (bytesOfWord v)
  else none

end Sys2Proof
end

