-- ==== Sys2Proof/Config.lean ====
section
/-!
DEFINITION. What the spec leaves to an implementation or to a standard that it names by reference: constants without a
body, of which no proof can see a value (logs 1, 2, 7, 24 and 31).
-/

namespace Sys2Proof.Config

/-- A free number: a value or a choice that the spec leaves open, one for each count of `State.free` (log 1, DESIGN CHOICE). -/
opaque freeNat : Nat → Nat

/-- A free byte, one for each count of `State.free` (log 1, DESIGN CHOICE). -/
opaque freeByte : Nat → Byte

/-- Whether another module of the load-store domain is connected (R405). Log 24 (DESIGN CHOICE). -/
opaque linked : Nat → Bool

/-- The bytes of memory attached to CXL port q (R326). -/
opaque cxlSize : Nat → Nat

/-- The fused hash of the root key (R361). Log 7 (DESIGN CHOICE). -/
opaque rootHash : List Byte

/-- The fused security version floor (R361). Log 7 (DESIGN CHOICE). -/
opaque svnMin : BitVec 16

/-- The fused device secret (R361). Log 7 (DESIGN CHOICE). -/
opaque uds : List Byte

/-- The device key pair that is derived from the secret, public and private (R361, R365). Log 7 (DESIGN CHOICE). -/
opaque deviceKey : List Byte → List Byte × List Byte

/-- Whether a certificate chain section ends in a public key (R361). Log 7 (DESIGN CHOICE). -/
opaque chainEndsIn : List Byte → List Byte → Bool

/-- The content of a response of the security engine whose bytes SPDM or TDISP fix (R365, R371): kind and inputs.
Log 31 (PRESUMED). -/
opaque response : Nat → List Byte → List Byte

end Sys2Proof.Config
end

