-- ==== Sys2Proof/Machine/State.lean ====
section
/-!
DEFINITION. The state of the whole module as plain data: the spindles with their contexts, the instruction stores of
the stands, memory, the messages between spindles and homes, the scheduler, gates, barriers, translation, host ports,
power, errors, update and trust. INVENTORY.md lists every piece with its rule and its reset value.
-/

namespace Sys2Proof.Machine

/-! ### Registers of a context -/

/-- A loop counter LC0 to LC3 (R129). -/
structure LoopCtr where
  top : BitVec 16 := 0
  endA : BitVec 16 := 0
  remain : BitVec 23 := 0
  rot : Bool := false
  trip : BitVec 4 := 0
  sm1 : BitVec 3 := 0
  active : Bool := false
  deriving DecidableEq, Repr

/-- The scalar register files, predicates, stage predicates, loop counters and the constant bank (R94, R106).
Log 3 (DESIGN CHOICE). -/
structure Regs where
  x : Vector Word 32 := Vector.replicate 32 0
  y : Vector Word 32 := Vector.replicate 32 0
  p : Vector Bool 8 := Vector.replicate 8 false
  q : BitVec 16 := 0
  lc : Vector LoopCtr 4 := Vector.replicate 4 {}
  k : Vector (BitVec 32) 256 := Vector.replicate 256 0
  deriving DecidableEq, Repr

/-- The control registers below 0x010 and SEGLO, SEGHI (R134 to R138, R95, R163, R165). sfc is the SFC of the cycle in
which the next bundle can issue (R72). Log 3 (DESIGN CHOICE). -/
structure Ctl where
  fixed : Bool := false
  strict : Bool := false
  det : Bool := false
  hmode : Bool := false
  fstat : BitVec 9 := 0
  fen : BitVec 5 := 0
  vctl : BitVec 5 := 0
  cbase : BitVec 8 := 0
  vbase : BitVec 6 := 0
  twist : BitVec 5 := 0
  fmtsel : BitVec 2 := 0
  sfc : BitVec 32 := 0
  estr : BitVec 32 := 0
  ppbound : BitVec 16 := 0x2000
  seglo : BitVec 25 := 0
  seghi : BitVec 25 := 0
  deriving DecidableEq, Repr

/-- The identity of a task: SPID, PARTID and TASKID (R138). -/
structure Ident where
  psn : BitVec 9 := 0
  part : BitVec 6 := 0
  t : BitVec 32 := 0
  node : BitVec 10 := 0
  handle : BitVec 8 := 0
  deriving DecidableEq, Repr

/-- The trap registers (R312), and in hsfc the SFC that a handler reads (R315). Log 3 (DESIGN CHOICE). -/
structure TrapRegs where
  tvec : BitVec 16 := 0
  tcause : BitVec 8 := 0
  tepc : BitVec 16 := 0
  tslot : BitVec 3 := 0
  tval : Word := 0
  tdeleg : Word := 0
  tscr : Word := 0
  frzlim : BitVec 32 := 0
  hsfc : BitVec 32 := 0
  deriving DecidableEq, Repr

/-! ### Results in flight -/

/-- One write that lands later (R73): a register, a predicate, bytes of accumulator SRAM at an offset from its start,
a control register, or flags of FSTAT. `own` marks a row write of a fused sequence (R182). -/
inductive Land where
  | x (r : BitVec 5) (v : Word)
  | y (r : BitVec 5) (v : Word)
  | p (n : BitVec 3) (b : Bool)
  | acc (own : Bool) (off : Nat) (bytes : List Byte)
  | creg (num : BitVec 16) (v : Word)
  | flags (f : BitVec 9)
  deriving DecidableEq, Repr

/-- What a remote result is written to once its reply arrives (R191, R278, R285, R302). -/
inductive Dest where
  | none
  | x (r : BitVec 5)
  | y (r : BitVec 5)
  | pair (hi : Bool) (r : BitVec 5)   -- two registers from r, of cluster y when hi (R276)
  | row (off : Nat)                  -- accumulator bytes from a LOCAL offset
  deriving DecidableEq, Repr

/-- A pending notice (R311), with the count in which it arrived. -/
structure Notice where
  code : Nat
  slot : Nat
  val : Word
  epc : Option (BitVec 16) := Option.none
  at_ : Nat := 0
  deriving DecidableEq, Repr

/-- A result in flight: the unfrozen cycles left, the message whose reply it awaits, the other messages of a row that lies in
two pages, its writes, the cycles left of its declared bound, whether it freezes no more (it has raised OVERRUN, or is never
late), whether a freeze waits for it, the notice that it lands as, the fixed-time access that it belongs to and whether that
returns a value, and the later-issued writes that were written before it in a freeze (R73 to R75, R185, R191, R285, R287,
R291, R294). -/
structure Pending where
  left : Nat
  await : Option Nat := Option.none
  also : List Nat := []
  lands : List Land := []
  bound : Option Nat := Option.none
  late : Bool := false
  frozen : Bool := false
  notice : Option Notice := Option.none
  dom : Option (Nat × Bool) := Option.none
  past : List Land := []
  deriving DecidableEq, Repr

/-! ### Atomics -/

/-- The update of an atomic: AINT, AFP, ACAS or VACC (R274 to R277). -/
inductive AtomOp where
  | int (fn : Nat)
  | fp (op : Nat) (fmt : Nat)
  | cas (size : Nat)
  | vacc (fn : Nat)
  deriving DecidableEq, Repr

/-- An atomic as its home performs it: the update, the operands read at issue and the rounding of VCTL (R273). -/
structure Atomic where
  op : AtomOp
  sv : Word := 0
  sv2 : Word := 0
  dv : Word := 0
  dv2 : Word := 0
  row : List Byte := []
  vctl : BitVec 5 := 0
  deriving DecidableEq, Repr

/-! ### Locations and messages -/

/-- A located byte range's start (R257): a spindle's slice by physical number and LOCAL offset, a physical address of
HBM or of the second tier, a host address behind the lease, or an address on another module. -/
inductive Loc where
  | slice (n : Nat) (off : Nat)
  | phys (pa : Nat)
  | host (a : Nat)
  | far (m : Nat) (off : Nat)
  deriving DecidableEq, Repr

/-- What a message asks of its home (R191, R278, R285, R302, R40). -/
inductive MsgOp where
  | load (op : Nat) (size : Nat)
  | store (bytes : List Byte)
  | atomic (a : Atomic)
  | barrier (n : Nat) (w : Word) (gang : Nat) (gid : Nat) (cyc : Nat)
  | query (n : Nat) (gid : Nat)
  | gate (op : Nat) (v : Word) (b : Nat) (wlim : Nat) (charged : Bool)
  | join (h : Nat)
  deriving DecidableEq, Repr

/-- How far a message has come: travelling to its home, parked with a captured context
(R308), waiting there (a held arrival, a registered wait), answered
with a value, bytes and flags, or failed with a trap code (R257, R280, R285, R302). -/
inductive MsgState where
  | going
  | parked
  | waiting (since : Nat)
  | replied (v : Word) (v2 : Word) (bytes : List Byte) (flags : BitVec 9) (clock : List Nat)
  | failed (code : Nat)
  deriving DecidableEq, Repr

/-- A message between a context and a home (R191, R192, R257, R260). `grp` is shared by the lines of one VST. -/
structure Msg where
  id : Nat
  ctx : Nat
  spin : Nat
  part : Nat
  loc : Loc
  op : MsgOp
  dest : Dest := .none
  waits : Bool
  grp : Nat
  val : Word
  slot : Nat := 3
  clock : List Nat := []
  st : MsgState := .going
  deriving DecidableEq, Repr

/-- A fixed-time access inside a timed domain that has not been applied, with its number, the domain cycles left to its
application and the clock with which it left (R260, R291, R292). Its result stands among the results in flight. -/
structure DomOp where
  id : Nat
  home : Nat
  off : Nat
  op : MsgOp
  dest : Dest
  val : Word
  applyIn : Nat
  clock : List Nat := []
  deriving DecidableEq, Repr

/-! ### Engines -/

/-- The routine of a matrix-engine command (R243, R254). -/
inductive Routine where
  | gemm | gemmt | gemmz | gemv | outer | trans | dgemm | rowsc | colred | cvtout | loadc | mzero
  deriving DecidableEq, Repr

/-- A routine issued to the matrix engine with what it read at issue (R248), the engine cycles left (R247), the bank
groups it holds (R249) and the tiles it locks (R252). -/
structure MxRun where
  rt : Routine
  sa : Nat := 0
  sb : Nat := 0
  m0 : Word := 0
  m1 : Word := 0
  m2 : Word := 0
  m3 : Word := 0
  fmt : Word := 0
  neg : Bool := false
  left : Nat := 0
  groups : List Nat := []
  tiles : List Nat := []
  deriving DecidableEq, Repr

/-- The matrix engine: the running routine, the queued one, a recorded fault with its address and the stopped routine's
tiles (R250, R253), and how far in the running routine's course each element was that another spindle has read, by LOCAL
offset (R252, R259). -/
structure Matrix where
  run : Option MxRun := none
  queue : Option MxRun := none
  started : Bool := false
  fault : Option (Nat × Word) := none
  faultTiles : List Nat := []
  seen : Tbl Nat := []
  deriving DecidableEq, Repr

/-- The kind of a stream command (R218). -/
inductive StreamKind where
  | cpy | gath | scat | coll | cpyb | bdrain
  deriving DecidableEq, Repr

/-- A stream command with what it read at issue (R215), its order number among the CP and CY commands (R228), the
lines moved and the bytes moved of the line it is at (R214), the index entry of the row it is at (R219), the cycles since its issue, those that its deadline counts
(R217, R294), and the flags gathered (R220). -/
structure Stream where
  kind : StreamKind
  src : Word
  dst : Word
  rowb : Nat
  rows : Nat
  sstr : Word := 0
  dstr : Word := 0
  idx : Nat := 0
  cctl : Word := 0
  dl : Nat := 0
  fmt : Word := 0
  bob : Vector Word 4 := Vector.replicate 4 0
  n : Nat := 0
  ct : Bool := false
  sh : Bool := false
  seq : Nat := 0
  done : Nat := 0
  part : Nat := 0
  ix : Nat := 0
  age : Nat := 0
  bound : Nat := 0
  flags : BitVec 9 := 0
  deriving DecidableEq, Repr

/-- A shadow held by a channel: the storage that the swap will name for a scratchpad block of a spindle or for a page,
and the lines written (R224, R225). -/
inductive ShadowOf where
  | block (n : Nat) (lb : Nat) (pb : Nat)
  | page (o : Nat) (pa : Nat) (pool : Nat)
  deriving DecidableEq, Repr

/-- A shadow with the offsets of the lines that the stream wrote to it (R225). -/
structure Shadow where
  of : ShadowOf
  lines : List Nat := []
  deriving DecidableEq, Repr

/-- A copy channel: its control registers CLEN, CSSTR, CDSTR, CIDX, CCTL, CDL, the fields of CSTAT and CFAULT, the
stream, a pending PUBL with its number among the CP and CY commands (R228), and the held shadows (R214, R215, R224). -/
structure Channel where
  reg : Vector Word 6 := Vector.replicate 6 0
  state : BitVec 2 := 0
  cause : BitVec 8 := 0
  done : BitVec 32 := 0
  addr : Word := 0
  stream : Option Stream := none
  publ : Bool := false
  publSeq : Nat := 0
  shadows : List Shadow := []
  deriving DecidableEq, Repr

/-- An SBAR issued before the commands numbered from `seq` on (R228). -/
structure Sbar where
  before : BitVec 3
  after : BitVec 3
  seq : Nat
  deriving DecidableEq, Repr

/-- A cipher command with what it read at issue, its the number of the KEYSET that gave its key
(R369), its order number among the CP and CY commands (R228), the chunk it is at, the lines of it converted, and their bytes of ciphertext in the order of the chunk (R234, R342). -/
structure Cipher where
  isOpen : Bool
  region : Word
  tag : Word
  key : Option (List Byte)
  ks : Nat
  gen : Nat := 0
  n : Nat
  seq : Nat
  chunk : Nat := 0
  line : Nat := 0
  text : List Byte := []
  deriving DecidableEq, Repr

/-- The control registers of block 3 (R134, R156, R196, R239) and the engines. Log 3 (DESIGN CHOICE). -/
structure Eng where
  fmt : Vector Word 16 := Vector.replicate 16 0
  bob : Vector Word 64 := Vector.replicate 64 0
  m : Vector Word 8 := Vector.replicate 8 0
  chan : Vector Channel 8 := Vector.replicate 8 {}
  mx : Matrix := {}
  cipher : Option Cipher := none
  cyFault : Option (Nat × Word) := none
  sbars : List Sbar := []
  seq : Nat := 0
  rot : Nat := 0
  bmap : Vector (BitVec 9) 256 := Vector.ofFn fun i => BitVec.ofNat 9 i.val
  deriving DecidableEq, Repr

/-! ### Control of issue -/

/-- The bundle being issued: its start, the address of its ordinary header, its length, its literals, the transfer
that a slot has taken (R63, R68, R123), what takes effect at its end: a loop started (R125), LBRK (R128), and SYSC
or ESC with their code (R130, R318), and the SFC at its issue if it holds a FRAME (R130). -/
structure Bun where
  start : Word := 0
  hdr : Word := 0
  len : Nat := 1
  lits : List (BitVec 32) := []
  xfer : Option Word := none
  newLoop : Option (BitVec 2 × LoopCtr) := none
  lbrk : Bool := false
  sysc : Option (BitVec 12) := none
  esc : Option (BitVec 12) := none
  frame : Option (BitVec 32) := none
  deriving DecidableEq, Repr

/-- A bank-lock run in force: the bundles left and the banks held (R70, R71). -/
structure LockRun where
  left : Nat
  ga : BitVec 2
  maska : BitVec 8
  gb : BitVec 2
  maskb : BitVec 8
  deriving DecidableEq, Repr

/-- A fused softmax in progress (R181, R182): the rows, the starts of the words still to come and their number. -/
structure Fusion where
  starts : List Word
  rows : List Nat
  deriving DecidableEq, Repr

/-- A scheduler transaction of a context (R37, R40, R42, R338): none, or not yet committed, with the register for its
result. -/
inductive TxState where
  | idle
  | waiting (rd : BitVec 5)
  deriving DecidableEq, Repr

/-- A superstep wait of a context (R288): none, or arrived in a domain cycle and waiting, with the register for the
count of steps. -/
inductive StepWait where
  | idle
  | waiting (at_ : Nat) (rd : BitVec 5)
  deriving DecidableEq, Repr

/-- The wait of a BARRW (R286, R287): none, frozen until the notice of its phase, or idling in a timed domain. -/
inductive BarWait where
  | idle
  | frozen (bar : Nat) (w : BitVec 32)
  | idling (bar : Nat) (w : BitVec 32)
  deriving DecidableEq, Repr

/-- A PERSIST of a context (R232): none, waiting for the bytes from an address, or reached. -/
inductive PersistWait where
  | idle
  | asked (a : Nat) (len : Nat)
  | reached
  deriving DecidableEq, Repr

/-- The waiting of a context as the watchdog counts it (R323). -/
structure Wait where
  kind : Nat := 0
  since : Nat := 0
  deriving DecidableEq, Repr

/-- A context: everything that a capture saves of a task (R342, R344). `stepH` says that the awaited SSTEP is a handler's,
`stepClock` is the die's clock at its arrival (R265, R288). Log 3 (DESIGN CHOICE). -/
structure Ctx where
  id : Nat := 0
  ident : Ident := {}
  gang : Nat := 0
  domain : Bool := false
  domCycle : Nat := 0
  gangSize : Nat := 1
  sync : Bool := false
  regs : Regs := {}
  ctl : Ctl := {}
  trap : TrapRegs := {}
  eng : Eng := {}
  pc : Word := 0
  cameFrom : Option Word := none
  bun : Bun := {}
  pipe : List Pending := []
  hpipe : List Pending := []
  domOps : List DomOp := []
  notices : List Notice := []
  lock : Option LockRun := none
  fusion : Option Fusion := none
  unfused : Option Word := none
  tx : TxState := .idle
  step : StepWait := .idle
  stepH : Bool := false
  stepClock : List Nat := []
  barw : BarWait := .idle
  bound : Nat := 0
  steps : Nat := 0
  persist : PersistWait := .idle
  ppcount : BitVec 32 := 0
  ckpt : Bool := false
  wait : Option Wait := none
  inTend : Bool := false
  clock : List Nat := []
  deriving DecidableEq, Repr

/-! ### Spindles and stands -/

/-- Why a spindle that holds a context issues nothing, or that it runs (R53, R319, R341, R383). A captured context keeps
the kind of its cut, why it was made, its count, and whether it was held by an escalation. -/
inductive RunState where
  | empty
  | loading
  | running
  | held (vol : Bool)
  | captured (kind why c : Nat) (was : Option Bool)
  | stopped
  deriving DecidableEq, Repr

/-- A source of an absent block (R345). -/
inductive BlockSrc where
  | zero
  | image
  | segment
  | owed (n : Nat)
  deriving DecidableEq, Repr

/-- A saved block of a context: its bytes that are not zero, form bits, poison bits and clock tags by line (R345).
Log 27 (DESIGN CHOICE). -/
structure SavedBlock where
  bytes : List (Nat × Byte) := []
  form : List Nat := []
  poison : List Nat := []
  tags : Tbl (List Nat) := []
  deriving DecidableEq, Repr

/-- A spindle: its run state, the resident context with its segment, its absent blocks with their sources and what is
saved of them, its image slot, the blocks owed by contexts that left it (block and context), the partition that used it
last, the state of its clock (`need` is the length of its cycle in progress in eighths, 0 before the first), the charge of a contract task, the code blocks that were pulled and whose tags it checks again (R66), the bytes of the image as
they were written, and its last trap record (R27, R344, R350, R355, R356, R370, R383). Log 3 (DESIGN CHOICE). -/
structure Spindle where
  run : RunState := .empty
  ctx : Ctx := {}
  seg : Nat := 0
  absent : List (Nat × BlockSrc) := []
  saved : Tbl SavedBlock := []
  image : Option Nat := none
  owed : List (Nat × Nat) := []
  lastPart : Option Nat := none
  credit : Nat := 0
  need : Nat := 0
  pulse : BitVec 4 := 0
  moved : Bool := false
  firstIssue : Option Nat := none
  charged : Nat := 0
  want : List Nat := []
  recheck : List Nat := []
  written : Tbl (List Byte) := []
  lastTrap : List Byte := []
  deriving DecidableEq, Repr

/-- A segment loaded in the instruction store of a stand (R19 to R24, R62); `base` is SBASE in blocks of 256 words. -/
structure Segment where
  id : Nat
  part : Nat
  addr : Word
  code : List (BitVec 32)
  heads : List Bool
  cbank : List (BitVec 32)
  seglo : BitVec 25
  seghi : BitVec 25
  keyslot : Nat
  nonce : Word
  tags : List (List Byte)
  codeOff : Nat
  verified : List Nat := []
  lastUse : Nat := 0
  base : Nat := 0
  mapOff : Nat := 0
  deriving DecidableEq, Repr

/-- The block that a stand presents to its supervisor, the records that wait for a slot of its trap ring and the spindles whose
records were written in a count, its instruction store, its droop detector (R62, R320, R355) and the droop count of the pinned
clock, 0 while the supply droop does not exceed the guard band (R356). -/
structure Stand where
  trqbase : BitVec 36 := 0
  trqhead : BitVec 32 := 0
  trqtail : BitVec 32 := 0
  disp : Vector (BitVec 32) 8 := Vector.replicate 8 0
  sret : Vector Word 8 := Vector.replicate 8 0
  frzlim : Vector (BitVec 32) 8 := Vector.replicate 8 0x01000000
  recWait : List (Nat × List Byte) := []
  recent : List Nat := []
  recentAt : Nat := 0
  segs : List Segment := []
  droop : Nat := 0
  count : Nat := 0
  deriving DecidableEq, Repr

/-! ### Scheduler -/

/-- A node of a graph as TLAUNCH kept it (R10, R14). -/
structure Node where
  seg : Word
  entry : Nat
  gang : Bool
  sync : Bool
  fixed : Bool
  strict : Bool
  det : Bool
  level : Nat
  i0 : Nat
  icount : Nat
  j0 : Nat
  jcount : Nat
  tokens : Nat
  deps : List Nat
  policy : BitVec 32
  estimate : BitVec 32
  param : Word
  contract : Word
  deriving DecidableEq, Repr

/-- The progress of a node: tasks made ready, retired, failed or cancelled (R13, R16), and the merged clocks of its ended
tasks (R265). -/
structure NodeRun where
  opened : Bool := false
  retired : Nat := 0
  failed : Bool := false
  cancelled : Bool := false
  killed : Nat := 0
  clock : List Nat := []
  deriving DecidableEq, Repr

/-- A live graph (R9, R15, R28), with the clock of its launch (R265). -/
structure Graph where
  addr : Word
  nodes : List Node
  runs : List NodeRun
  status : BitVec 32 := 0
  done : BitVec 32 := 0
  failnode : BitVec 32 := 0xFFFFFFFF
  failStatus : BitVec 32 := 0
  failAt : Nat := 0
  clock : List Nat := []
  deriving DecidableEq, Repr

/-- A unit of work: a task or a gang (R51). `images` holds, task by task, the image slots of checkpointed contexts, and
`gid` the number of their gang; `job` is the address of a job's contract. -/
structure Work where
  handle : Nat
  node : Nat
  t : Nat
  gang : Bool
  level : Nat
  tokens : Nat
  readyAt : Nat
  images : List Nat := []
  gid : Nat := 0
  job : Option Nat := none
  deriving DecidableEq, Repr

/-- How a victim is being resolved (R56, R58). -/
inductive Victim where
  | none
  | drain (until_ : Nat)
  | drained
  | ckpt
  | kill
  deriving DecidableEq, Repr

/-- A placed unit: the spindles it was placed on, in increasing t, those whose task has not left it, and its resolution
as a victim (R52, R56). -/
structure Placed where
  work : Work
  gid : Nat
  spins : List Nat
  at_ : Nat
  victim : Victim := .none
  left : List Nat := []
  deriving DecidableEq, Repr

/-- A suspended context, the spindle it resumes on, and why it was suspended: 0 a contract release, 1 a cut, 2 a
shedding pause, 3 a hypervisor cut (R53, R60, R341). -/
structure Susp where
  spin : Nat
  why : Nat
  sp : Spindle
  deriving DecidableEq, Repr

/-- A context image (R345): its header fields, the saved context, its directory and its saved blocks, and in `written` the bytes
that went to its slot, by their place in it (R370). A resumed image
leaves the table; its slot is then held by the spindle. Log 27 (DESIGN CHOICE). -/
structure Image where
  state : Nat
  kind : Nat
  c : Nat
  was : Option Bool
  ctx : Ctx
  rev : BitVec 32
  spin : Nat
  seg : Nat
  dir : Tbl BlockSrc
  blocks : Tbl SavedBlock
  charged : Nat := 0
  firstIssue : Option Nat := none
  written : Tbl (List Byte) := []
  deriving DecidableEq, Repr

/-- An admitted contract (R25, R44) with its running job; `idle` counts the releases that found no open node. Log 12 (DEDUCED). -/
structure Contract where
  addr : Word
  first : Nat
  period : Nat
  budget : Nat
  deadline : Nat
  spindles : Nat
  jobs : Nat
  bound : List Nat
  released : Nat := 0
  jobsDone : Nat := 0
  misses : Nat := 0
  overruns : Nat := 0
  running : Option (Nat × Bool) := none
  idle : Nat := 0
  deriving DecidableEq, Repr

/-- A scheduler transaction that a spindle waits for (R46). -/
inductive TxKind where
  | launch (addr : Word)
  | join (h : Word)
  | poll (h : Word) (msg : Nat)
  | admitC (addr : Word)
  | withdraw (addr : Word)
  | cut (addr : Word)
  deriving DecidableEq, Repr

/-- A queued transaction with the context that waits for it (R46) and the clock of its die (R265). -/
structure Tx where
  ctx : Nat
  kind : TxKind
  clock : List Nat := []
  deriving DecidableEq, Repr

/-- A recorded cut: its count, kind and physical spindles, why it was made (R337 to R340, R358): as in `Susp`, and 4
for the checkpoint or the kill of a victim; `gid` is the number of the unit whose cut the scheduler makes itself (R55, R58), 0
for a cut of spindles. -/
structure Cut where
  c : Nat
  kind : Nat
  spins : List Nat
  why : Nat := 1
  gid : Nat := 0
  deriving DecidableEq, Repr

/-- A barrier object (R283). HELD holds message numbers; `due` holds the domain and the domain cycle at which a phase whose
arrivals all came from one timed domain completes, or 0 and the count where that domain has been left (R287, log 25); `doms` the domains of the arrivals of the open phase, 0 for
none, with their cycles; `clock` and `newClock` the merged clocks of the arrivals of the completed phases and of the
open one (R265). -/
structure Barrier where
  phase : BitVec 32 := 0
  arrived : BitVec 9 := 0
  e : BitVec 9 := 0
  held : List Nat := []
  due : Option (Nat × Nat) := none
  doms : List (Nat × Nat) := []
  clock : List Nat := []
  newClock : List Nat := []
  deriving DecidableEq, Repr

/-- The locked configuration registers of a partition (R30, R49, R295, R327, R339). -/
structure PartCfg where
  pspin : BitVec 320 := 0
  rootgraph : Word := 0
  en : Bool := false
  root : BitVec 47 := 0
  cluster : Vector (BitVec 7) 64 := Vector.replicate 64 0
  rhbm : BitVec 16 := 0
  rcxl : BitVec 16 := 0
  rclu : BitVec 16 := 0
  imgbase : BitVec 27 := 0
  imgcnt : BitVec 16 := 0
  cutpriv : Bool := false
  binds : Vector Word 256 := Vector.replicate 256 0
  deriving DecidableEq, Repr

/-- The scheduler's state of a partition (R28, R50 to R60). `resting` holds units whose images are not yet complete,
`queue` the tasks of released jobs that wait for their spindle, as spindle and placed unit; `rootDue` says that the root graph's
launch waits for its pages (R31); `ticks` counts the token ticks that an update's switch holds back (R385). -/
structure PartSched where
  psns : List Nat := []
  rootstat : BitVec 2 := 0
  graphs : Tbl Graph := []
  ready : List Work := []
  resting : List Work := []
  placed : List Placed := []
  queue : List (Nat × Nat) := []
  susp : List Susp := []
  contracts : List Contract := []
  txq : List Tx := []
  images : Tbl Image := []
  paused : Bool := false
  evicted : Bool := false
  stepDue : Bool := false
  rootDue : Bool := false
  ticks : Nat := 0
  slow : Nat := 0
  deriving DecidableEq, Repr

/-- The translation and host-gate registers of a partition (R307, R327, R329). -/
structure PartHost where
  xinv : Bool := false
  pinned : BitVec 16 := 0
  pinfull : Bool := false
  denied : Bool := false
  rate : Bool := false
  bind : BitVec 8 := 0
  hwake : Vector Word 256 := Vector.replicate 256 0
  ur : Nat := 0
  deriving DecidableEq, Repr

/-- An AES-256 key slot: empty, or a key with its IV counter and the number of its KEYSET (R368, R369). -/
structure KeySlot where
  key : Option (List Byte) := none
  iv : Word := 0
  gen : Nat := 0
  deriving DecidableEq, Repr

/-- The states of an interface (R371, R372). -/
inductive IfState where
  | unlocked | locked | run | error
  deriving DecidableEq, Repr

/-- The interface of a partition and its keys (R368 to R372). `starting` is the window of a START (R373); `stopping` holds
the session whose STOP waits for the end of the scrub; `gens` counts the KEYSETs, and `olds` holds the IV counters of keys that
left their slot, which commands issued before go on to use (R234, R369). -/
structure PartTrust where
  state : IfState := .unlocked
  scrub : Bool := false
  bound : Option (BitVec 3) := none
  ecause : BitVec 8 := 0
  starting : Bool := false
  stopping : Option Nat := none
  keys : Tbl KeySlot := []
  gens : Nat := 0
  olds : Tbl Word := []
  signers : List (Word × List Byte) := []
  imgkey : Option Nat := none
  report : List Byte := []
  deriving DecidableEq, Repr

/-- A partition (R28, R29). -/
structure Part where
  cfg : PartCfg := {}
  sched : PartSched := {}
  host : PartHost := {}
  bars : Vector Barrier 64 := Vector.replicate 64 {}
  trust : PartTrust := {}
  deriving DecidableEq, Repr

/-! ### Gates, lease, translation -/

/-- A gate object (R298, R299): GCNT, VALID, the access list with its tokens, the merged clocks of its signals (R265), and
the thresholds of the waits that other modules have registered. -/
structure Gate where
  gcnt : Word := 0
  valid : Bool := false
  acl : Vector Word 8 := Vector.replicate 8 0
  tokens : Vector (BitVec 8) 8 := Vector.replicate 8 0
  clock : List Nat := []
  far : List Word := []
  deriving DecidableEq, Repr

/-- The lease register HLEASE, the count at which the window started, the interrupts that wait for a holder, as
partition and vector, and the writes of the device itself to host memory that wait for one (R33, R34). -/
structure Lease where
  holder : BitVec 2 := 0
  claim : BitVec 2 := 0
  standby : BitVec 2 := 0
  expired : Bool := false
  window : BitVec 16 := 0x03E8
  epoch : BitVec 32 := 0
  since : Nat := 0
  pending : List (Nat × Nat) := []
  writes : List (Nat × List Byte) := []
  deriving DecidableEq, Repr

/-- A translation that a die's unit holds (R328, R329): the partition, the page's first offset, its size, its entry.
Log 6 (DESIGN CHOICE). -/
structure Held where
  die : Nat
  part : Nat
  base : Nat
  size : Nat
  entry : Word
  pinned : Bool
  deriving DecidableEq, Repr

/-- A walk asked for, and what a failed walk leaves for the access that asked (R328). -/
structure Walk where
  die : Nat
  part : Nat
  off : Nat
  failed : Bool := false
  deriving DecidableEq, Repr

/-- What the module has sent to a host: a write of its memory, read data with a poison mark by 64-byte completion, a
status, an interrupt vector, or a message response (R257, R267, R307, R371, R381). -/
inductive HostOut where
  | memWrite (port : Nat) (a : Nat) (bytes : List Byte)
  | readData (port : Nat) (bytes : List Byte) (poisoned : List Nat)
  | unsupported (port : Nat)
  | value (port : Nat) (v : Word)
  | msix (part : Nat) (vec : Nat) (port : Nat)
  | spdm (port : Nat) (code : Nat) (data : List Byte)
  | spdmError (port : Nat)
  | tdisp (sess : Nat) (code : Nat) (data : List Byte)
  | tdispError (sess : Nat)
  | dump (data : List Byte)
  deriving DecidableEq, Repr

/-! ### Platform -/

/-- The power controller (R355 to R359). `acts` is the history of the actions in force: kind, entry. -/
structure Power where
  cap : BitVec 16 := 0x12C0
  hyst : BitVec 16 := 0x00C8
  pwr : BitVec 16 := 0
  step : BitVec 8 := 0
  floor : Bool := false
  shed : Vector (BitVec 13) 64 := Vector.replicate 64 0
  acts : List (Nat × Nat) := []
  deriving DecidableEq, Repr

/-- The error registers and the black box (R382 to R384). -/
structure Errors where
  ce : BitVec 32 := 0
  ue : BitVec 32 := 0
  lastue : BitVec 60 := 0
  kind : BitVec 4 := 0
  fatal : Bool := false
  fatalAt : Option Nat := none
  dumpbase : BitVec 27 := 0
  bbhead : BitVec 32 := 0
  bb : Tbl (List Byte) := []
  deriving DecidableEq, Repr

/-- The live update of the scheduler firmware (R385): its registers, the switch, the heartbeats, what is known of the image, and
whether the firmware of the slot that was left gave heartbeats. -/
structure Update where
  updimg : Word := 0
  active : Bool := false
  phase : BitVec 2 := 0
  rollback : Bool := false
  failcode : BitVec 8 := 0
  switching : Bool := false
  switchedAt : Nat := 0
  lastBeat : Nat := 0
  beating : Bool := false
  since : Nat := 0
  rev : BitVec 32 := 0
  digest : List Byte := []
  svn : BitVec 16 := 0
  was : Bool := false
  deriving DecidableEq, Repr

/-- An SPDM session (R366). -/
structure Session where
  port : Nat
  period : Nat
  last : Nat
  finished : Bool := false
  generation : Nat := 0
  deriving DecidableEq, Repr

/-- The boot state and SECSTAT (R361 to R364), the count at which stage 1 began, the device key pair (R365), the security version
that an update must reach (R385), the measurements (R367) and the sessions. -/
structure Security where
  stage : BitVec 4 := 0
  port : Bool := false
  failcode : BitVec 8 := 0
  svn : BitVec 16 := 0
  rev : BitVec 32 := 0
  retried : Bool := false
  image : List Byte := []
  began : Nat := 0
  device : List Byte × List Byte := ([], [])
  running : BitVec 16 := 0
  meas : Vector (List Byte) 6 := Vector.replicate 6 []
  sessions : Tbl Session := []
  negotiated : List Nat := []
  deriving DecidableEq, Repr

/-- The scheduler registers PREMARGIN and TICK, HCUT and LSDOM (R49, R339, R405). -/
structure PfRegs where
  premargin : BitVec 16 := 0x0040
  tick : BitVec 16 := 0x1000
  hcut : Word := 0
  hcutStatus : BitVec 2 := 0
  hcutBusy : Bool := false
  modid : BitVec 6 := 0
  nmod : BitVec 7 := 1
  deriving DecidableEq, Repr

/-- The memory of the module as one list of bytes in canonical form (see `Memory.wf`), with the lines whose form bit or
poison bit is 1, the clock tags of written lines (R233, R260, R381), and the bytes of second-tier memory that are not
yet durable: for each the durable byte and then the writes since, each with its spindle (R232, R379). Log 5 (DESIGN
CHOICE). -/
structure Memory where
  cells : List Host.Cell := []
  form : List Nat := []
  poison : List Nat := []
  tags : Tbl (List Nat) := []
  soft : Tbl (List (Nat × Byte)) := []
  deriving DecidableEq, Repr

/-- The events that the module itself brings about. Each is the event of the same name of `Instr`, but for `schedulerStep`, a step of a
partition's scheduler (R54), `recordWrite`, a write of the scheduler to a record that has waited for its home (R194, R259, R347),
`farGate`, an operation of another module on a gate of this one (R302), `farWake`, a wake of a
binding that names a gate of another module (R307), and `farAccess`, an access of a task of another module to this module's memory
(R330). -/
inductive Ev where
  | matrixRoutineComplete (n : Nat)
  | matrixRoutineStop (n : Nat)
  | streamLineMove (n : Nat)
  | streamComplete (n : Nat) (c : Nat)
  | streamDeadlineExpiry (n : Nat) (c : Nat)
  | publishSwap (n : Nat) (c : Nat)
  | cipherCommandComplete (n : Nat)
  | remoteReplyArrival (id : Nat)
  | writeAckArrival (id : Nat)
  | failureNoticeArrival (id : Nat)
  | remoteReadAtHome (id : Nat)
  | remoteWriteAtHome (id : Nat)
  | remoteAtomicAtHome (id : Nat)
  | translationWalkComplete (die : Nat) (part : Nat) (off : Nat)
  | codeTagCheck (n : Nat) (block : Nat)
  | blockPullComplete (n : Nat) (b : Nat)
  | owedBlockWriteout (n : Nat) (b : Nat)
  | imageDrainBlock (n : Nat)
  | segmentLoad (n : Nat)
  | tokenTick (part : Nat)
  | contractRelease (part : Nat) (c : Nat)
  | budgetExhausted (part : Nat) (c : Nat)
  | drainLimitExpiry (n : Nat)
  | schedulerTransactionCommit (part : Nat)
  | taskRetirement (n : Nat)
  | cutStop (n : Nat)
  | quiescence (n : Nat)
  | ppboundCountExpiry (n : Nat)
  | watchdog (n : Nat)
  | barrierArrival (id : Nat)
  | barrierCompletionNotice (n : Nat)
  | stepCompletion (part : Nat) (handle : Nat) (node : Nat)
  | gateOperationAtHome (id : Nat)
  | gateWaitTimeout (id : Nat)
  | gateTokenRefill (gate : Nat) (entry : Nat)
  | leaseExpiry
  | invalidationComplete (part : Nat)
  | hcutAccept
  | powerEvaluation (watts : BitVec 16)
  | linkWaitTimeout
  | fatalError (row : Nat)
  | fatalStop
  | sessionExpiry (sess : Nat)
  | teardownScrubComplete (part : Nat)
  | updateSwitch
  | updateCommit
  | heartbeatMissed
  | persistenceReached (n : Nat)
  | schedulerStep (part : Nat)
  | recordWrite (part : Nat)
  | farGate (gate : Nat) (entry : Nat)
  | farWake (part : Nat) (bnd : Nat)
  | farAccess (part : Nat)
  deriving DecidableEq, Repr

/-- The parts of a GCYC count: its opening, in which what comes at the count and the transactions of the scheduler take place, the
turns of the spindles, and its close, when the scheduler's step of the count is done. Log 2 (DESIGN CHOICE). -/
inductive Phase where
  | opening
  | turns
  | closed
  deriving DecidableEq, Repr

/-- A write of the scheduler to a field of a record that waits for its home (R194, R259, R347): the partition, the address and the
bytes. -/
structure RecWrite where
  part : Nat
  addr : Word
  bytes : List Byte
  deriving DecidableEq, Repr

/-- The state of the module. `served` holds, for each home, how far the order of R259 and R305 has come in this count;
`recWrites` the writes to records that wait for their homes;
`cur` is the spindle on which a slot word acts; `turn` the spindle whose cycle comes next
in this GCYC count, and `phase` the part of the count that has come; `agenda` the events to come at once; `inputs` what arrives from outside, each at a GCYC count;
`free` counts the free values taken (log 1, DESIGN CHOICE). -/
structure State where
  gcyc : Nat
  spindles : Tbl Spindle
  stands : Tbl Stand
  parts : Tbl Part
  gates : Tbl Gate
  mem : Memory
  msgs : List Msg
  served : Tbl Nat
  recWrites : List RecWrite
  clocks : Tbl (List Nat)
  held : List Held
  walks : List Walk
  cuts : List Cut
  lease : Lease
  out : List HostOut
  pf : PfRegs
  power : Power
  errors : Errors
  update : Update
  sec : Security
  nextId : Nat
  cur : Nat
  turn : Nat
  phase : Phase
  agenda : List Ev
  inputs : List (Nat × Instr)
  free : Nat
  deriving DecidableEq, Repr

/-- The reasons for which the Lean machine stops with a fault. Every trap of the spec is a next state, so no rule of
the spec ends here. -/
inductive Fault where
  /-- No meaning raises it: every trap and every failure that the spec describes is a next state. Safe. -/
  | none
  deriving DecidableEq, Repr

/-- The reasons for which the Lean machine refuses. -/
inductive Refusal where
  /-- Raised by an arm of `exec` whose instruction has no meaning yet. Safe. -/
  | notModelled (mnemonic : String)
  deriving DecidableEq, Repr

/-- The module right after reset: R33, R49, R283, R298, R320, R327, R339, R357, R364, R372, R382, R385, R405 give the
values; R18 gives those of a context, which hold here too (log 3, DESIGN CHOICE). Log 4 (DESIGN CHOICE), log 5 (DESIGN CHOICE). -/
def State.reset : State where
  gcyc := 0
  spindles := []
  stands := []
  parts := []
  gates := []
  mem := {}
  msgs := []
  served := []
  recWrites := []
  clocks := []
  held := []
  walks := []
  cuts := []
  lease := {}
  out := []
  pf := {}
  power := {}
  errors := {}
  update := {}
  sec := {}
  nextId := 1
  cur := 0
  turn := 0
  phase := .turns
  agenda := []
  inputs := []
  free := 0

end Sys2Proof.Machine
end

