-- ==== Sys2Proof/Machine/Tbl.lean ====
section
/-!
DEFINITION. Sparse tables and sorted lists as plain data, byte order (R6), and small helpers on lists.
-/

namespace Sys2Proof.Machine

/-- The value at a key, or the default. -/
def tget {α : Type} (d : α) (k : Nat) : Tbl α → α
  | [] => d
  | (j, v) :: t => if j = k then v else tget d k t

/-- The value at a key, if there is one. -/
def tfind {α : Type} (k : Nat) : Tbl α → Option α
  | [] => none
  | (j, v) :: t => if j = k then some v else tfind k t

/-- Sets the value at a key, keeping the keys in rising order. -/
def tput {α : Type} (k : Nat) (v : α) : Tbl α → Tbl α
  | [] => [(k, v)]
  | (j, w) :: t => if k < j then (k, v) :: (j, w) :: t else if j = k then (k, v) :: t else (j, w) :: tput k v t

/-- Removes a key. -/
def tdel {α : Type} (k : Nat) (t : Tbl α) : Tbl α := t.filter fun p => p.1 != k

/-- Inserts a number into a rising list without repeats. -/
def insN (k : Nat) : List Nat → List Nat
  | [] => [k]
  | j :: t => if k < j then k :: j :: t else if j = k then j :: t else j :: insN k t

/-- Removes a number from a list. -/
def delN (k : Nat) (l : List Nat) : List Nat := l.filter fun j => j != k

/-- The bytes of a value, least significant first (R6). -/
def bytesLE (v : Nat) : Nat → List Byte
  | 0 => []
  | n + 1 => BitVec.ofNat 8 v :: bytesLE (v / 256) n

/-- The value of bytes, least significant first (R6). -/
def ofBytesLE : List Byte → Nat
  | [] => 0
  | b :: bs => b.toNat + 256 * ofBytesLE bs

/-- The value of bytes, most significant first (R20, R361). -/
def ofBytesBE (bs : List Byte) : Nat := ofBytesLE bs.reverse

/-- n numbers from a. -/
def rangeFrom (a n : Nat) : List Nat := (List.range n).map (a + ·)

/-- ⌈a / b⌉. -/
def ceilDiv (a b : Nat) : Nat := (a + b - 1) / b

/-- A field of a number (R6). -/
def bitsOf (v lo n : Nat) : Nat := v / 2 ^ lo % 2 ^ n

/-- A bit of a number. -/
def bitOf (v lo : Nat) : Bool := v / 2 ^ lo % 2 == 1

/-- A list cut into pieces of n, with fuel for its length. -/
def chunksOf {α : Type} (n : Nat) : Nat → List α → List (List α)
  | 0, _ => []
  | _, [] => []
  | k + 1, l => l.take n :: chunksOf n k (l.drop n)

/-- A signed reading of a 64-bit value (R6). -/
def sext64 (n : Nat) (v : Nat) : Word := (BitVec.ofNat n v).signExtend 64

end Sys2Proof.Machine
end

