-- ==== Sys2Proof/Machine/Mem.lean ====
section
/-!
DEFINITION. Memory as one list of bytes in canonical form, with its form and poison bits, and where each home's bytes
stand in it (R187, R233, R257, R326, R381).
-/

namespace Sys2Proof.Machine

/-- What an unlisted byte reads as: zero (log 5, DESIGN CHOICE). -/
def defaultByte : Byte := 0

/-- One byte of the list. -/
def cellGet : List Host.Cell → Nat → Byte
  | [], _ => defaultByte
  | (j, c) :: t, a => if j = a then c else cellGet t a

/-- Writes one byte, keeping the addresses rising and no byte listed that reads as the default. -/
def cellSet : List Host.Cell → Nat → Byte → List Host.Cell
  | [], a, b => if b = defaultByte then [] else [(a, b)]
  | (j, c) :: t, a, b =>
    if a < j then (if b = defaultByte then (j, c) :: t else (a, b) :: (j, c) :: t)
    else if j = a then (if b = defaultByte then t else (a, b) :: t)
    else (j, c) :: cellSet t a b

/-- The canonical form: addresses strictly rising, no byte equal to the default. -/
def cellsWf : List Host.Cell → Bool
  | [] => true
  | [(_, c)] => c != defaultByte
  | (j, c) :: (k, d) :: t => c != defaultByte && decide (j < k) && cellsWf ((k, d) :: t)

/-- The canonical form of the memory. -/
def Memory.wf (m : Memory) : Bool := cellsWf m.cells

/-- n bytes from a key. -/
def cellsRead (m : List Host.Cell) (a n : Nat) : List Byte := (List.range n).map fun i => cellGet m (a + i)

/-- Bytes written from a key on. -/
def cellsWrite : List Host.Cell → Nat → List Byte → List Host.Cell
  | m, _, [] => m
  | m, a, b :: bs => cellsWrite (cellSet m a b) (a + 1) bs

/-- The numbers of the 64-byte lines that n bytes from a key touch. -/
def linesOf (a n : Nat) : List Nat := if n = 0 then [] else rangeFrom (a / 64) ((a + n - 1) / 64 - a / 64 + 1)

/-- The lines that n bytes from a key cover whole. -/
def wholeLines (a n : Nat) : List Nat := (linesOf a n).filter fun l => decide (a ≤ 64 * l) && decide (64 * l + 64 ≤ a + n)

/-- n bytes of memory from address a. Log 5 (DESIGN CHOICE). -/
def Memory.read (m : Memory) (a n : Nat) : List Byte := cellsRead m.cells a n

/-- A store, VX write, matrix write or atomic: form bits become 0 (R233), a line covered whole loses its poison
(R381). -/
def Memory.write (m : Memory) (a : Nat) (bs : List Byte) : Memory :=
  { m with
    cells := cellsWrite m.cells a bs
    form := m.form.filter fun l => !(linesOf a bs.length).contains l
    poison := m.poison.filter fun l => !(wholeLines a bs.length).contains l }

/-- Sets or clears the form bits of the lines that n bytes touch. -/
def Memory.setForm (m : Memory) (a n : Nat) (f : Bool) : Memory :=
  { m with form := (linesOf a n).foldl (fun l k => if f then insN k l else delN k l) m.form }

/-- Poisons a line (R381). -/
def Memory.poisonLine (m : Memory) (l : Nat) : Memory := { m with poison := insN l m.poison }

/-- Whether some line of the bytes is ciphertext, and whether some line is poisoned: its byte key. -/
def Memory.formIn (m : Memory) (a n : Nat) : Option Nat := ((linesOf a n).find? fun l => m.form.contains l).map (· * 64)
def Memory.poisonIn (m : Memory) (a n : Nat) : Option Nat :=
  ((linesOf a n).find? fun l => m.poison.contains l).map (· * 64)

/-! ### Where the homes' bytes stand -/

/-- The key of a spindle's physical scratchpad byte or accumulator byte: 288 blocks of 64 KiB, then 2 MiB (R187). -/
def sliceKey (n off : Nat) : Nat := 0x100000000000000000 + n * 0x2000000 + off

/-- The key of a byte of a stand supervisor's memory (R320). -/
def superKey (stand a : Nat) : Nat := 0x300000000000000000 + stand * 0x1000000000000 + a

/-- Whether a physical address is HBM (R326). -/
def isHbm (pa : Nat) : Bool := decide (pa < 0x20000000000)

/-- Whether a physical address is attached second-tier memory (R326). -/
def isCxl (pa : Nat) : Bool :=
  decide (0x100000000000 ≤ pa) && decide (pa < 0x200000000000)
    && decide (pa % 0x10000000000 < Config.cxlSize (pa / 0x10000000000 % 16))

/-- The compute die of a spindle, its stand in the module and its index (R48). -/
def dieOf (n : Nat) : Nat := n / 40
def standOf (n : Nat) : Nat := n / 8
def indexOf (n : Nat) : Nat := n % 8

/-- The physical offset in a slice of a LOCAL offset, through the block map (R188). -/
def mapOff (bmap : Vector (BitVec 9) 256) (off : Nat) : Nat :=
  if off < 0x1000000 then (bmap[off / 65536 % 256]'(Nat.mod_lt _ (by decide))).toNat * 65536 + off % 65536
  else 0x1200000 + (off - 0x1000000)

/-! ### Access to the tables of the state -/

def State.sp (s : State) (n : Nat) : Spindle := tget {} n s.spindles
def State.setSp (s : State) (n : Nat) (x : Spindle) : State := { s with spindles := tput n x s.spindles }
def State.modSp (s : State) (n : Nat) (f : Spindle → Spindle) : State := s.setSp n (f (s.sp n))
def State.stand (s : State) (k : Nat) : Stand := tget {} k s.stands
def State.modStand (s : State) (k : Nat) (f : Stand → Stand) : State :=
  { s with stands := tput k (f (s.stand k)) s.stands }
def State.part (s : State) (p : Nat) : Part := tget {} p s.parts
def State.modPart (s : State) (p : Nat) (f : Part → Part) : State := { s with parts := tput p (f (s.part p)) s.parts }
def State.modCfg (s : State) (p : Nat) (f : PartCfg → PartCfg) : State := s.modPart p fun x => { x with cfg := f x.cfg }
def State.modSched (s : State) (p : Nat) (f : PartSched → PartSched) : State :=
  s.modPart p fun x => { x with sched := f x.sched }
def State.modPHost (s : State) (p : Nat) (f : PartHost → PartHost) : State :=
  s.modPart p fun x => { x with host := f x.host }
def State.modTrust (s : State) (p : Nat) (f : PartTrust → PartTrust) : State :=
  s.modPart p fun x => { x with trust := f x.trust }
def State.gate (s : State) (g : Nat) : Gate := tget {} g s.gates
def State.modGate (s : State) (g : Nat) (f : Gate → Gate) : State := { s with gates := tput g (f (s.gate g)) s.gates }
def State.modMem (s : State) (f : Memory → Memory) : State := { s with mem := f s.mem }

/-- The context on a spindle and its update. -/
def State.ctxOf (s : State) (n : Nat) : Ctx := (s.sp n).ctx
def State.modCtx (s : State) (n : Nat) (f : Ctx → Ctx) : State := s.modSp n fun x => { x with ctx := f x.ctx }

/-- The context on which a slot word acts. -/
def State.c (s : State) : Ctx := s.ctxOf s.cur
def State.modC (s : State) (f : Ctx → Ctx) : State := s.modCtx s.cur f

/-- Appends events to the agenda. -/
def State.push (s : State) (es : List Ev) : State := { s with agenda := s.agenda ++ es }

/-- Appends what goes out to a host. -/
def State.emit (s : State) (o : HostOut) : State := { s with out := s.out ++ [o] }

/-- A fresh number. Log 1 (DESIGN CHOICE). -/
def State.fresh (s : State) : Nat × State := (s.nextId, { s with nextId := s.nextId + 1 })

/-- A free choice below k, and the state that has taken it (log 1, DESIGN CHOICE). With one choice nothing is taken. -/
def State.choose (s : State) (k : Nat) : Nat × State :=
  if k ≤ 1 then (0, s) else (Config.freeNat s.free % k, { s with free := s.free + 1 })

/-- n free bytes (log 1, DESIGN CHOICE). -/
def State.freeBytes (s : State) (n : Nat) : List Byte × State :=
  ((List.range n).map fun i => Config.freeByte (s.free + i), { s with free := s.free + n })

/-- A free word (log 1, DESIGN CHOICE). -/
def State.freeWord (s : State) : Word × State :=
  let r := s.freeBytes 8
  (BitVec.ofNat 64 (ofBytesLE r.1), r.2)

/-! ### Slices -/

/-- The key of a LOCAL offset of spindle n. -/
def State.sliceAt (s : State) (n off : Nat) : Nat := sliceKey n (mapOff (s.ctxOf n).eng.bmap off)

/-- Bytes of a slice, each through the block map (R188). -/
def State.readSlice (s : State) (n off len : Nat) : List Byte :=
  (List.range len).map fun i => cellGet s.mem.cells (s.sliceAt n (off + i))

/-- A write of bytes to a slice, block by block (R186, R188). -/
def State.putSlice (s : State) (n off : Nat) (bs : List Byte) : Nat → State
  | 0 => s
  | k + 1 =>
    if bs.isEmpty then s
    else
      let w := 65536 - off % 65536
      (s.modMem fun m => m.write (s.sliceAt n off) (bs.take w)).putSlice n (off + w) (bs.drop w) k

/-- The fused sequence that a write to accumulator bytes leaves (R182). -/
def Fusion.after (f : Option Fusion) (off len : Nat) : Option Fusion :=
  match f with
  | none => none
  | some u =>
    if 0x1000000 ≤ off && u.rows.any fun r =>
        decide (off < 0x1000000 + 512 * r + 512) && decide (0x1000000 + 512 * r < off + len)
    then none else some u

/-- A write of bytes to a slice by a store, an atomic, an engine or a remote spindle. -/
def State.writeSlice (s : State) (n off : Nat) (bs : List Byte) : State :=
  (s.putSlice n off bs (bs.length / 65536 + 2)).modCtx n fun c => { c with fusion := Fusion.after c.fusion off bs.length }

/-- The write of a fused sequence itself, which does not end it. -/
def State.writeOwn (s : State) (n off : Nat) (bs : List Byte) : State :=
  s.putSlice n off bs (bs.length / 65536 + 2)

/-- Whether a location lies outside the module: in a host's memory or on another module. Those bytes are not in the
state. -/
def Loc.outside : Loc → Bool
  | .host _ | .far .. => true
  | _ => false

/-- The key of a location of the module. -/
def State.keyOf (s : State) : Loc → Nat
  | .slice n off => s.sliceAt n off
  | .phys pa => pa
  | .host a => a
  | .far _ off => off

/-- The lines of bytes at a location, each with its distance from the first byte and its number among the lines of the module:
those of a slice are found block by block (R188). -/
def State.linesAt (s : State) (l : Loc) (len : Nat) : List (Int × Nat) :=
  match l with
  | .slice n off => (linesOf off len).map fun k => (((64 * k : Nat) : Int) - off, s.sliceAt n (64 * k) / 64)
  | l => (linesOf (s.keyOf l) len).map fun k => (((64 * k : Nat) : Int) - s.keyOf l, k)

/-- The first line of form 1 among bytes of the module, and the first poisoned one: its distance from their start. -/
def State.formOf (s : State) (l : Loc) (len : Nat) : Option Int :=
  if s.mem.form.isEmpty then none else ((s.linesAt l len).find? fun x => s.mem.form.contains x.2).map Prod.fst

def State.poisonOf (s : State) (l : Loc) (len : Nat) : Option Int :=
  if s.mem.poison.isEmpty then none else ((s.linesAt l len).find? fun x => s.mem.poison.contains x.2).map Prod.fst

/-- Bytes at a location; those outside the module are free (log 1, DESIGN CHOICE). Log 24 (DESIGN CHOICE). -/
def State.readLoc (s : State) (l : Loc) (len : Nat) : List Byte × State :=
  match l with
  | .slice n off => (s.readSlice n off len, s)
  | .phys pa => (s.mem.read pa len, s)
  | _ => s.freeBytes len

/-- Notes that spindle w (or none, from 320 on) is about to write second-tier bytes: until a PERSIST of w covers them, an
earlier value of theirs is the durable one (R232). -/
def Memory.soften (m : Memory) (w a : Nat) (bs : List Byte) : Memory :=
  if isCxl a then
    { m with soft := (List.range bs.length).foldl (fun t i =>
        tput (a + i) ((tfind (a + i) t).getD [(320, cellGet m.cells (a + i))] ++ [(w, bs.getD i 0)]) t) m.soft }
  else m

/-- A write of bytes at a location by an agent w: to the memory of the lease holder it goes out, and while no port holds
the lease it is held (R34, R257). -/
def State.writeLoc (s : State) (w : Nat) (l : Loc) (bs : List Byte) : State :=
  match l with
  | .slice n off => s.writeSlice n off bs
  | .phys pa => s.modMem fun m => (m.soften w pa bs).write pa bs
  | .host a =>
    if s.lease.holder = 0 then { s with lease := { s.lease with writes := s.lease.writes ++ [(a, bs)] } }
    else s.emit (.memWrite (s.lease.holder.toNat - 1) a bs)
  | .far .. => s

end Sys2Proof.Machine
end

