-- ==== Sys2Proof/Machine/Numbers.lean ====
section
/-!
DEFINITION. Numbers to the last bit: the formats of R141 to R147, exact dyadic values, RoundTo and Overflow of R148,
conversions of R149 to R155, IEEE operations with their special cases (R151, R152, R167 to R171, R207 to R210), and the
correctly rounded functions of R169. Arithmetic is exact on integers and dyadic numbers and rounded once, at the end.
-/

namespace Sys2Proof.Machine

/-! ### Flags of one operation -/

/-- The flags of FSTAT by name (R136, R152). -/
def fNV : BitVec 9 := 0x001
def fDZ : BitVec 9 := 0x002
def fOF : BitVec 9 := 0x004
def fUF : BitVec 9 := 0x008
def fNX : BitVec 9 := 0x010
def fSAT : BitVec 9 := 0x020
def fOVR : BitVec 9 := 0x040
def fDETREAD : BitVec 9 := 0x080
def fSCLAMP : BitVec 9 := 0x100

/-- A flag when a condition holds. -/
def flagIf (c : Bool) (f : BitVec 9) : BitVec 9 := if c then f else 0

/-- A result pattern with the flags it raises. -/
structure Res where
  bits : Nat
  fl : BitVec 9 := 0
  deriving DecidableEq, Repr

/-! ### Exact values -/

/-- A signed dyadic number: (-1)^neg × man × 2^exp. A zero keeps its sign. -/
structure Dy where
  neg : Bool
  man : Nat
  exp : Int
  deriving DecidableEq, Repr

/-- A decoded value: a number, an infinity or a NaN, quiet or signalling, with its sign (R142). -/
inductive FVal where
  | num (d : Dy)
  | inf (neg : Bool)
  | nan (sig neg : Bool)
  deriving DecidableEq, Repr

/-- 2^e for a difference of exponents taken as a natural number. -/
def pow2 (e : Int) : Nat := 2 ^ e.toNat

/-- The signed integer mantissa of a dyadic number at a smaller exponent. -/
def Dy.at (d : Dy) (e : Int) : Int :=
  let m : Int := d.man * pow2 (d.exp - e)
  if d.neg then -m else m

/-- The dyadic number of an integer times 2^e; a zero is positive. -/
def Dy.ofInt (i : Int) (e : Int) : Dy := ⟨decide (i < 0), i.natAbs, e⟩

/-- The exact sum; an exact zero is positive. -/
def Dy.add (a b : Dy) : Dy :=
  let e := min a.exp b.exp
  Dy.ofInt (a.at e + b.at e) e

/-- The exact product, with the sign of the product also for zeros. -/
def Dy.mul (a b : Dy) : Dy := ⟨a.neg != b.neg, a.man * b.man, a.exp + b.exp⟩

def Dy.negate (a : Dy) : Dy := ⟨!a.neg, a.man, a.exp⟩

/-- Exact comparison of two dyadic numbers; -0 equals +0. -/
def Dy.lt (a b : Dy) : Bool :=
  let e := min a.exp b.exp
  decide (a.at e < b.at e)

def Dy.eqv (a b : Dy) : Bool :=
  let e := min a.exp b.exp
  decide (a.at e = b.at e)

/-- floor(log2 |x|) of a nonzero number. -/
def Dy.log2 (d : Dy) : Int := d.exp + (Nat.log2 d.man : Nat)

/-! ### Rounding -/

/-- Int(v, rm) of R148 on a magnitude: the number man × 2^exp, plus something less than one unit of its last place when
`st`, in units of 2^qe, with whether it was inexact. -/
def roundAt (neg : Bool) (man : Nat) (exp : Int) (st : Bool) (qe : Int) (rm : Nat) : Nat × Bool :=
  if qe ≤ exp then (man * pow2 (exp - qe), st)
  else
    let k := pow2 (qe - exp)
    let n := man / k
    let r := man % k
    let inexact := r != 0 || st
    let up := match rm with
      | 0 => decide (k < 2 * r) || (decide (2 * r = k) && (st || n % 2 == 1))
      | 1 => false
      | 2 => neg && inexact
      | _ => !neg && inexact
    (if up then n + 1 else n, inexact)

/-- A scalar floating-point format (R142, R143): exponent and fraction widths, bias, whether it has infinities, and its
largest finite significand at the largest exponent. -/
structure FF where
  ew : Nat
  pw : Nat
  bias : Nat
  infs : Bool
  maxN : Nat
  emax : Int
  deriving DecidableEq, Repr

def ff64 : FF := ⟨11, 52, 1023, true, 2 ^ 53 - 1, 1023⟩
def ff32 : FF := ⟨8, 23, 127, true, 2 ^ 24 - 1, 127⟩
def ffB16 : FF := ⟨8, 7, 127, true, 255, 127⟩
def ff16 : FF := ⟨5, 10, 15, true, 2047, 15⟩
def ffE5 : FF := ⟨5, 2, 15, true, 7, 15⟩
def ffE4 : FF := ⟨4, 3, 7, false, 14, 8⟩

def FF.width (f : FF) : Nat := 1 + f.ew + f.pw
def FF.emin (f : FF) : Int := 1 - (f.bias : Int)
def FF.signBit (f : FF) (neg : Bool) : Nat := if neg then 2 ^ (f.ew + f.pw) else 0
/-- The pattern of infinity (formats that have it). -/
def FF.infBits (f : FF) (neg : Bool) : Nat := f.signBit neg + (2 ^ f.ew - 1) * 2 ^ f.pw
/-- The default NaN (R143, R151). -/
def FF.nanBits (f : FF) : Nat :=
  if f.infs then (2 ^ f.ew - 1) * 2 ^ f.pw + 2 ^ (f.pw - 1) else 2 ^ (f.ew + f.pw) - 1
/-- The pattern of the largest finite magnitude. -/
def FF.maxBits (f : FF) (neg : Bool) : Nat :=
  f.signBit neg + (f.emax - f.emin).toNat * 2 ^ f.pw + f.maxN

/-- Decode(F, bits) of R142 with the departures of R144. -/
def FF.decode (f : FF) (b : Nat) : FVal :=
  let neg := b / 2 ^ (f.ew + f.pw) % 2 == 1
  let e := b / 2 ^ f.pw % 2 ^ f.ew
  let fr := b % 2 ^ f.pw
  if f.infs && e == 2 ^ f.ew - 1 then
    if fr == 0 then .inf neg else .nan (fr / 2 ^ (f.pw - 1) == 0) neg
  else if !f.infs && e == 2 ^ f.ew - 1 && fr == 2 ^ f.pw - 1 then .nan true neg
  else if e == 0 then .num ⟨neg, fr, f.emin - f.pw⟩
  else .num ⟨neg, 2 ^ f.pw + fr, (e : Int) - f.bias - f.pw⟩

/-- Whether a pattern is subnormal. -/
def FF.subnormal (f : FF) (b : Nat) : Bool := b / 2 ^ f.pw % 2 ^ f.ew == 0 && b % 2 ^ f.pw != 0

/-- The flush-input bit (R150): a subnormal becomes the zero of its sign, with no flag. -/
def FF.flush (f : FF) (zi : Bool) (b : Nat) : Nat :=
  if zi && f.subnormal b then f.signBit (b / 2 ^ (f.ew + f.pw) % 2 == 1) else b

/-- Overflow(F, x, rm, sat) of R148. -/
def FF.overflow (f : FF) (neg : Bool) (rm : Nat) (sat : Bool) : Res :=
  if sat then ⟨f.maxBits neg, fOF ||| fNX ||| fSAT⟩
  else if rm == 0 || (rm == 3 && !neg) || (rm == 2 && neg) then
    if f.infs then ⟨f.infBits neg, fOF ||| fNX⟩
    else ⟨if neg then 0xFF else 0x7F, fOF ||| fNX ||| fNV⟩
  else ⟨f.maxBits neg, fOF ||| fNX⟩

/-- RoundTo(F, x, rm, sat, zo) of R148 for a nonzero x = (-1)^neg × (man × 2^exp + ε), where ε lies strictly between 0
and 2^exp when `st` and is 0 otherwise. -/
def FF.roundSt (f : FF) (d : Dy) (st : Bool) (rm : Nat) (sat zo : Bool) : Res :=
  let l := d.log2
  let e := max l f.emin
  let (n, inexact) := roundAt d.neg d.man d.exp st (e - f.pw) rm
  let (t, _) := roundAt d.neg d.man d.exp st (l - f.pw) rm
  let tTop : Bool := t == 2 ^ (f.pw + 1)
  let tExp : Int := if tTop then l + 1 else l
  let tN : Nat := if tTop then 2 ^ f.pw else t
  if tExp > f.emax || (tExp == f.emax && f.maxN < tN) then f.overflow d.neg rm sat
  else
    let tiny := decide (tExp < f.emin)
    if tiny && zo then ⟨f.signBit d.neg, fUF ||| fNX⟩
    else
      ⟨f.signBit d.neg + (e - f.emin).toNat * 2 ^ f.pw + n,
        flagIf inexact fNX ||| flagIf (tiny && inexact) fUF⟩

/-- RoundTo for an exact x; a zero keeps its sign (R149). -/
def FF.round (f : FF) (d : Dy) (rm : Nat) (sat zo : Bool) : Res :=
  if d.man == 0 then ⟨f.signBit d.neg, 0⟩ else f.roundSt d false rm sat zo

/-- The default NaN with NV when `nv`. -/
def FF.nan (f : FF) (nv : Bool) : Res := ⟨f.nanBits, flagIf nv fNV⟩

/-! ### IEEE operations on patterns -/

/-- Whether a value is a signalling NaN. -/
def FVal.sig : FVal → Bool
  | .nan s _ => s
  | _ => false

def FVal.isNan : FVal → Bool
  | .nan _ _ => true
  | _ => false

/-- The sign of an exact zero sum (R207): the common sign, or minus only under RDN. -/
def zeroSign (an bn : Bool) (bothZero : Bool) (rm : Nat) : Bool :=
  if bothZero && an == bn then an else rm == 2

/-- The sum of two numbers rounded into a format. -/
def FF.addNum (f : FF) (a b : Dy) (rm : Nat) (sat zo : Bool) : Res :=
  let s := a.add b
  if s.man == 0 then ⟨f.signBit (zeroSign a.neg b.neg (a.man == 0 && b.man == 0) rm), 0⟩
  else f.roundSt s false rm sat zo

/-- A sum of two values (R167, R207). `sat` matters only in packed FP8 (R153). -/
def FF.addV (f : FF) (a b : FVal) (rm : Nat) (sat zo : Bool) : Res :=
  match a, b with
  | .nan s _, b => f.nan (s || b.sig)
  | a, .nan s _ => f.nan (s || a.sig)
  | .inf n, .inf m => if n == m then ⟨f.infBits n, 0⟩ else f.nan true
  | .inf n, .num _ => ⟨f.infBits n, 0⟩
  | .num _, .inf n => ⟨f.infBits n, 0⟩
  | .num x, .num y => f.addNum x y rm sat zo

/-- A value with its sign changed. -/
def FVal.neg : FVal → FVal
  | .num d => .num d.negate
  | .inf n => .inf (!n)
  | .nan s n => .nan s (!n)

/-- A product of two values (R167, R207). -/
def FF.mulV (f : FF) (a b : FVal) (rm : Nat) (sat zo : Bool) : Res :=
  match a, b with
  | .nan s _, b => f.nan (s || b.sig)
  | a, .nan s _ => f.nan (s || a.sig)
  | .inf n, .inf m => ⟨f.infBits (n != m), 0⟩
  | .inf n, .num d => if d.man == 0 then f.nan true else ⟨f.infBits (n != d.neg), 0⟩
  | .num d, .inf n => if d.man == 0 then f.nan true else ⟨f.infBits (n != d.neg), 0⟩
  | .num x, .num y => f.round (x.mul y) rm sat zo

/-- a × b + c with one rounding (R208): 0 × ∞ is invalid whatever c is. -/
def FF.fmaV (f : FF) (a b c : FVal) (rm : Nat) (zo : Bool) : Res :=
  let sig := a.sig || b.sig || c.sig
  match a, b with
  | .nan _ _, _ => f.nan sig
  | _, .nan _ _ => f.nan sig
  | .inf n, .inf m => infPlus (n != m) c sig
  | .inf n, .num d => if d.man == 0 then f.nan true else infPlus (n != d.neg) c sig
  | .num d, .inf n => if d.man == 0 then f.nan true else infPlus (n != d.neg) c sig
  | .num x, .num y =>
    match c with
    | .nan _ _ => f.nan sig
    | .inf n => ⟨f.infBits n, 0⟩
    | .num z => f.addNum (x.mul y) z rm false zo
where
  /-- An infinite product plus c. -/
  infPlus (n : Bool) (c : FVal) (sig : Bool) : Res :=
    match c with
    | .nan _ _ => f.nan sig
    | .inf m => if n == m then ⟨f.infBits n, 0⟩ else f.nan true
    | .num _ => ⟨f.infBits n, 0⟩

/-- The quotient of two nonzero magnitudes to at least 64 bits, with whether something is left over. -/
def quot (a b : Dy) : Dy × Bool :=
  let s := Nat.log2 b.man + 66
  let n := a.man * 2 ^ s
  (⟨a.neg != b.neg, n / b.man, a.exp - b.exp - s⟩, n % b.man != 0)

/-- A quotient of two values (R167, R207). -/
def FF.divV (f : FF) (a b : FVal) (rm : Nat) (zo : Bool) : Res :=
  match a, b with
  | .nan s _, b => f.nan (s || b.sig)
  | a, .nan s _ => f.nan (s || a.sig)
  | .inf _, .inf _ => f.nan true
  | .inf n, .num d => ⟨f.infBits (n != d.neg), 0⟩
  | .num d, .inf n => ⟨f.signBit (d.neg != n), 0⟩
  | .num x, .num y =>
    if y.man == 0 then
      if x.man == 0 then f.nan true else ⟨f.infBits (x.neg != y.neg), fDZ⟩
    else if x.man == 0 then ⟨f.signBit (x.neg != y.neg), 0⟩
    else
      let (q, st) := quot x y
      f.roundSt q st rm false zo

/-- The integer square root, one bit of the result at a time from bit `k` downwards. -/
def isqrtBits (n : Nat) : Nat → Nat → Nat
  | 0, r => r
  | k + 1, r =>
    let r' := r + 2 ^ k
    isqrtBits n k (if r' * r' ≤ n then r' else r)

def isqrt (n : Nat) : Nat := isqrtBits n (Nat.log2 n / 2 + 1) 0

/-- The square root of a positive number to at least 64 bits. -/
def sqrtDy (d : Dy) : Dy × Bool :=
  let (m, e) : Nat × Int := if d.exp % 2 == 0 then (d.man, d.exp) else (2 * d.man, d.exp - 1)
  let n := m * 2 ^ 136
  let r := isqrt n
  (⟨false, r, e / 2 - 68⟩, r * r != n)

/-- A square root (R169, R207). -/
def FF.sqrtV (f : FF) (a : FVal) (rm : Nat) (zo : Bool) : Res :=
  match a with
  | .nan s _ => f.nan s
  | .inf n => if n then f.nan true else ⟨f.infBits false, 0⟩
  | .num d =>
    if d.man == 0 then ⟨f.signBit d.neg, 0⟩
    else if d.neg then f.nan true
    else
      let (r, st) := sqrtDy d
      f.roundSt r st rm false zo

/-- VRCP (R169). -/
def FF.rcpV (f : FF) (a : FVal) (rm : Nat) (zo : Bool) : Res := f.divV (.num ⟨false, 1, 0⟩) a rm zo

/-- VRSQRT (R169): 1 / √a as the root of the quotient, whose floor is the root of the quotient's floor. -/
def FF.rsqrtV (f : FF) (a : FVal) (rm : Nat) (zo : Bool) : Res :=
  match a with
  | .nan s _ => f.nan s
  | .inf n => if n then f.nan true else ⟨f.signBit false, 0⟩
  | .num d =>
    if d.man == 0 then ⟨f.infBits d.neg, fDZ⟩
    else if d.neg then f.nan true
    else
      let (m, e) : Nat × Int := if d.exp % 2 == 0 then (d.man, d.exp) else (2 * d.man, d.exp - 1)
      let s := 2 * (Nat.log2 m + 70)
      let q := 2 ^ s / m
      let r := isqrt q
      f.roundSt ⟨false, r, -(e / 2) - (s / 2 : Nat)⟩ (r * r * m != 2 ^ s) rm false zo

/-! ### Exponential and logarithm, correctly rounded (R169)

Each is bracketed by dyadic bounds at a working precision, which is doubled until both bounds have the same floor at
the precision that the rounding needs. The value is never dyadic (except in the cases taken out first), so the value
lies strictly between two neighbouring dyadic numbers. Six doublings are allowed (log 9, DEDUCED). -/

/-- A sum of n terms, where `f` maps a term and its number to the next term. -/
def sumTerms (f : Nat → Nat → Nat) : Nat → Nat → Nat → Nat → Nat
  | 0, _, _, acc => acc
  | n + 1, i, t, acc => sumTerms f n (i + 1) (f i t) (acc + t)

/-- Bounds of ln 2 in units of 2^-m: the sum of 2^-i / i for i from 1 to m. -/
def ln2Bounds (m : Nat) : Nat × Nat :=
  let lo := (List.range m).foldl (fun a i => a + 2 ^ (m - (i + 1)) / (i + 1)) 0
  (lo, lo + m + 2)

/-- Bounds of e^(r / 2^m) in units of 2^-m, for r from `rl` to `ru` with 0 ≤ r < 2^m. Log 9 (DEDUCED). -/
def expBounds (m rl ru : Nat) : Nat × Nat :=
  let lo := sumTerms (fun i t => t * rl / ((i + 1) * 2 ^ m)) m 0 (2 ^ m) 0
  let hi := sumTerms (fun i t => t * ru / ((i + 1) * 2 ^ m) + 1) m 0 (2 ^ m) 0
  (lo, hi + 2 * m + 4)

/-- Bounds of ln(v) in units of 2^-m for v = n / 2^k with 1 < v < 2, by 2 atanh((v - 1) / (v + 1)). Log 9 (DEDUCED). -/
def lnBounds (m n k : Nat) : Nat × Nat :=
  let zn := n - 2 ^ k
  let zd := n + 2 ^ k
  let lo := (List.range m).foldl (fun (p : Nat × Nat) i =>
    (p.1 + p.2 / (2 * i + 1), p.2 * zn * zn / (zd * zd))) (0, 2 ^ m * zn / zd)
  (2 * lo.1, 2 * lo.1 + 6 * m + 8)

/-- The floor of both bounds at 2^-n, once they agree: the lower one rounded down, the upper one rounded up less one.
Log 9 (DEDUCED). -/
def agree (m n lo hi : Nat) : Option Nat :=
  let k := 2 ^ (m - n)
  let a := lo / k
  let b := (hi + k - 1) / k - 1
  if a == b then some a else none

/-- The first answer among doubled precisions. Log 9 (DEDUCED). -/
def refine (f : Nat → Option Nat) : Nat → Nat → Option Nat
  | 0, _ => none
  | k + 1, m =>
    match f m with
    | some v => some v
    | none => refine f k (2 * m)

/-- floor(a / ln 2) and the rest, as bounds in units of 2^-m; `ai` is a in the same units, rounded down. -/
def expReduce (m : Nat) (ai : Int) : Int × Nat × Nat :=
  let (l, h) := ln2Bounds m
  let q : Int := if ai < 0 then Int.fdiv ai l else Int.fdiv ai h
  let rl := ai - q * (if 0 ≤ q then h else l)
  let ru := ai + 1 - q * (if 0 ≤ q then l else h)
  (q, rl.toNat, ru.toNat)

/-- a in units of 2^-m, rounded down. -/
def Dy.units (d : Dy) (m : Nat) : Int :=
  let v : Int := if 0 ≤ d.exp + m then (d.man * pow2 (d.exp + m) : Nat) else
    if d.neg then ((d.man + pow2 (-(d.exp + m)) - 1) / pow2 (-(d.exp + m)) : Nat)
    else (d.man / pow2 (-(d.exp + m)) : Nat)
  if d.neg then -v else v

/-- e^a as a proxy for rounding, for a nonzero a. -/
def expDy (d : Dy) : Dy × Bool :=
  if 11 ≤ d.log2 then (if d.neg then (⟨false, 1, -5000⟩, true) else (⟨false, 1, 5000⟩, true))
  else if d.log2 < -64 then (⟨false, if d.neg then 2 ^ 62 - 1 else 2 ^ 62, -62⟩, true)
  else
    let f (m : Nat) : Option Nat :=
      let (q, rl, ru) := expReduce m (d.units m)
      let (lo, hi) := expBounds m rl ru
      -- the answer carries q so that the exponent can be recovered: v × 2^13 + (q + 4096)
      (agree m 80 lo hi).map fun v => v * 8192 + (q + 4096).toNat
    match refine f 6 200 with
    | some v => (⟨false, v / 8192, ((v % 8192 : Nat) : Int) - 4096 - 80⟩, true)
    | none => (⟨false, 1, 0⟩, true)

/-- VEXP (R169). -/
def FF.expV (f : FF) (a : FVal) (rm : Nat) (zo : Bool) : Res :=
  match a with
  | .nan s _ => f.nan s
  | .inf n => if n then ⟨f.signBit false, 0⟩ else ⟨f.infBits false, 0⟩
  | .num d =>
    if d.man == 0 then f.round ⟨false, 1, 0⟩ rm false zo
    else
      let (v, st) := expDy d
      f.roundSt v st rm false zo

/-- 2^a as a proxy for rounding, for a nonzero a that is no integer. -/
def exp2Dy (d : Dy) : Dy × Bool :=
  if 12 ≤ d.log2 then (if d.neg then (⟨false, 1, -5000⟩, true) else (⟨false, 1, 5000⟩, true))
  else if d.log2 < -64 then (⟨false, if d.neg then 2 ^ 62 - 1 else 2 ^ 62, -62⟩, true)
  else
    let q := Int.fdiv (d.units 1100) (2 ^ 1100)
    let f (m : Nat) : Option Nat :=
      let r := (d.units m - q * 2 ^ m).toNat
      let (l, h) := ln2Bounds m
      let (lo, hi) := expBounds m (r * l / 2 ^ m) ((r + 1) * h / 2 ^ m + 1)
      agree m 80 lo hi
    match refine f 6 200 with
    | some v => (⟨false, v, q - 80⟩, true)
    | none => (⟨false, 1, 0⟩, true)

/-- Whether a dyadic number is an integer. -/
def Dy.isInt (d : Dy) : Bool := decide (0 ≤ d.exp) || d.man % pow2 (-d.exp) == 0

/-- VEXP2 (R169): a power of two is exact. -/
def FF.exp2V (f : FF) (a : FVal) (rm : Nat) (zo : Bool) : Res :=
  match a with
  | .nan s _ => f.nan s
  | .inf n => if n then ⟨f.signBit false, 0⟩ else ⟨f.infBits false, 0⟩
  | .num d =>
    if d.man == 0 then f.round ⟨false, 1, 0⟩ rm false zo
    else if d.isInt && decide (d.log2 < 12) then f.roundSt ⟨false, 1, d.units 0⟩ false rm false zo
    else
      let (v, st) := exp2Dy d
      f.roundSt v st rm false zo

/-- log2 of a positive number that is no power of two, as a proxy for rounding. -/
def log2Dy (d : Dy) : Dy × Bool :=
  let k := Nat.log2 d.man
  let n : Int := d.log2
  let f (m : Nat) : Option Nat :=
    let (ll, lh) := lnBounds m d.man k
    let (l2, h2) := ln2Bounds m
    -- bounds of n + log2(v), as a magnitude, in units of 2^-m
    let lo : Int := n * 2 ^ m + (ll * 2 ^ m / h2 : Nat)
    let hi : Int := n * 2 ^ m + (lh * 2 ^ m / l2 + 1 : Nat)
    if 0 ≤ n then agree m 140 lo.toNat hi.toNat else agree m 140 (-hi).toNat (-lo).toNat
  match refine f 6 320 with
  | some v => (⟨decide (n < 0), v, -140⟩, true)
  | none => (⟨false, 1, 0⟩, true)

/-- VLOG2 (R169): the logarithm of a power of two is exact. -/
def FF.log2V (f : FF) (a : FVal) (rm : Nat) (zo : Bool) : Res :=
  match a with
  | .nan s _ => f.nan s
  | .inf n => if n then f.nan true else ⟨f.infBits false, 0⟩
  | .num d =>
    if d.man == 0 then ⟨f.infBits true, fDZ⟩
    else if d.neg then f.nan true
    else if d.man == 2 ^ Nat.log2 d.man then f.round (Dy.ofInt d.log2 0) rm false zo
    else
      let (v, st) := log2Dy d
      f.roundSt v st rm false zo

/-! ### Comparisons, minimum and maximum, classes -/

/-- a < b with NaNs false and -0 = +0 (R171, R209). -/
def FVal.lt : FVal → FVal → Bool
  | .num a, .num b => a.lt b
  | .inf true, .inf false => true
  | .inf true, .num _ => true
  | .num _, .inf false => true
  | _, _ => false

/-- a = b with NaNs false and -0 = +0. -/
def FVal.eqv : FVal → FVal → Bool
  | .num a, .num b => a.eqv b
  | .inf a, .inf b => a == b
  | _, _ => false

/-- Whether a value is minus zero. -/
def FVal.negZero : FVal → Bool
  | .num d => d.man == 0 && d.neg
  | _ => false

/-- The minimum or maximum of two patterns (R168), in which -0 lies below +0. -/
def FF.minmax (f : FF) (isMax : Bool) (a b : Nat) : Res :=
  let va := f.decode a
  let vb := f.decode b
  let nv := flagIf (va.sig || vb.sig) fNV
  if va.isNan && vb.isNan then ⟨f.nanBits, nv⟩
  else if va.isNan then ⟨b, nv⟩
  else if vb.isNan then ⟨a, nv⟩
  else
    let aLess := va.lt vb || (va.eqv vb && va.negZero)
    ⟨if aLess == isMax then b else a, nv⟩

/-- FCLASS (R210): the number of the one bit that is set. -/
def FF.classBit (f : FF) (b : Nat) : Nat :=
  match f.decode b with
  | .inf n => if n then 0 else 7
  | .nan s _ => if s then 8 else 9
  | .num d =>
    if d.man == 0 then (if d.neg then 3 else 4)
    else if f.subnormal b then (if d.neg then 2 else 5)
    else if d.neg then 1 else 6

/-! ### Conversions -/

/-- Int(v, rm) of a number as a signed integer, with whether it was inexact. -/
def Dy.toInt (d : Dy) (rm : Nat) : Int × Bool :=
  let (n, i) := roundAt d.neg d.man d.exp false 0 rm
  (if d.neg then -(n : Int) else n, i)

/-- FTOI (R207): a signed 64-bit integer. -/
def ftoi (v : FVal) (rm : Nat) : Res :=
  match v with
  | .nan _ _ => ⟨0, fNV⟩
  | .inf n => ⟨if n then 2 ^ 63 else 2 ^ 63 - 1, fNV⟩
  | .num d =>
    let (i, inexact) := d.toInt rm
    if i > 2 ^ 63 - 1 then ⟨2 ^ 63 - 1, fNV⟩
    else if i < -(2 ^ 63) then ⟨2 ^ 63, fNV⟩
    else ⟨(BitVec.ofInt 64 i).toNat, flagIf inexact fNX⟩

/-- FITO (R207). -/
def FF.ofInt (f : FF) (i : Int) (rm : Nat) : Res := f.round (Dy.ofInt i 0) rm false false

/-- Conversion of a value to a scalar floating-point format (R149). -/
def FF.convert (f : FF) (v : FVal) (rm : Nat) (sat zo : Bool) : Res :=
  match v with
  | .nan s _ => f.nan s
  | .inf n =>
    if f.infs then ⟨f.infBits n, 0⟩
    else if sat then ⟨f.maxBits n, fSAT⟩
    else ⟨f.signBit n + f.nanBits, fNV⟩
  | .num d => f.round d rm sat zo

/-- Conversion of a value to INT8 (R149), as an 8-bit pattern. -/
def toInt8 (v : FVal) (rm : Nat) : Res :=
  match v with
  | .nan _ _ => ⟨0, fNV⟩
  | .inf n => ⟨if n then 0x80 else 0x7F, fNV⟩
  | .num d =>
    let (i, inexact) := d.toInt rm
    if i > 127 then ⟨0x7F, fSAT ||| fNX⟩
    else if i < -128 then ⟨0x80, fSAT ||| fNX⟩
    else ⟨(BitVec.ofInt 8 i).toNat, flagIf inexact fNX⟩

/-- The formats that have a code (R141). -/
inductive Fmt where
  | fp32 | bf16 | fp16 | e4m3 | e5m2 | dx8 | dx6 | dx4 | mxfp4 | int8 | fp64
  deriving DecidableEq, Repr

def Fmt.ofCode : Nat → Option Fmt
  | 0 => some .fp32
  | 1 => some .bf16
  | 2 => some .fp16
  | 3 => some .e4m3
  | 4 => some .e5m2
  | 5 => some .dx8
  | 6 => some .dx6
  | 7 => some .dx4
  | 8 => some .mxfp4
  | 9 => some .int8
  | 10 => some .fp64
  | _ => none

/-- Element bits (R141). -/
def Fmt.ebits : Fmt → Nat
  | .fp32 => 32
  | .bf16 | .fp16 => 16
  | .e4m3 | .e5m2 | .dx8 | .int8 => 8
  | .dx6 => 6
  | .dx4 | .mxfp4 => 4
  | .fp64 => 64

/-- The scalar layout of a format that has one (R143). -/
def Fmt.ff : Fmt → Option FF
  | .fp32 => some ff32
  | .bf16 => some ffB16
  | .fp16 => some ff16
  | .e4m3 => some ffE4
  | .e5m2 => some ffE5
  | .fp64 => some ff64
  | _ => none

def Fmt.isDx : Fmt → Bool
  | .dx8 | .dx6 | .dx4 => true
  | _ => false

def Fmt.isBlock (f : Fmt) : Bool := f.isDx || f == .mxfp4

/-- Bytes of scales per block (R145, R146). -/
def Fmt.scaleBytes (f : Fmt) : Nat := if f.isDx then 2 else if f == .mxfp4 then 1 else 0

/-- The value of an E8M0 scale (R144), or NaN. -/
def e8m0 (e : Nat) : Option Int := if e == 0xFF then none else some ((e : Int) - 127)

/-- Decode of one element with its block's scale word or byte (R142 to R147), after the flush-input bit (R150). -/
def Fmt.decode (f : Fmt) (fi : Bool) (elem scale : Nat) : FVal :=
  match f with
  | .int8 => .num (Dy.ofInt (BitVec.ofNat 8 elem).toInt 0)
  | .mxfp4 =>
    match e8m0 scale with
    | none => .nan true (elem / 8 % 2 == 1)
    | some s =>
      let e := elem / 2 % 4
      let fr := elem % 2
      .num (if e == 0 then ⟨elem / 8 % 2 == 1, fr, -1 + s⟩ else ⟨elem / 8 % 2 == 1, 2 + fr, (e : Int) - 2 + s⟩)
  | .dx8 | .dx6 | .dx4 =>
    let w := f.ebits
    let es := if elem / 2 ^ (w - 1) % 2 == 1 then scale / 256 % 256 else scale % 256
    match e8m0 es with
    | none => .nan true (elem / 2 ^ (w - 2) % 2 == 1)
    | some s => .num ⟨elem / 2 ^ (w - 2) % 2 == 1, elem % 2 ^ (w - 2), s - ((w - 3 : Nat) : Int)⟩
  | .fp32 => ff32.decode (ff32.flush fi elem)
  | .bf16 => ffB16.decode (ffB16.flush fi elem)
  | .fp16 => ff16.decode (ff16.flush fi elem)
  | .e4m3 => ffE4.decode (ffE4.flush fi elem)
  | .e5m2 => ffE5.decode (ffE5.flush fi elem)
  | .fp64 => ff64.decode (ff64.flush fi elem)

/-- Convert(t, v, rm, sat, zo) into a format that is no block format (R149). -/
def Fmt.convert (t : Fmt) (v : FVal) (rm : Nat) (sat zo : Bool) : Res :=
  match t.ff with
  | some f => f.convert v rm sat zo
  | none => toInt8 v rm

/-- A converted block: elements, the scale word or byte, and the flags of all elements. -/
structure Block where
  elems : List Nat
  scale : Nat
  fl : BitVec 9
  deriving DecidableEq, Repr

/-- |x| scaled by 2^k and rounded to nearest even (R154, R155). -/
def rneScaled (d : Dy) (k : Int) : Nat := (roundAt false d.man (d.exp + k) false 0 0).1

/-- The largest floor(log2 |v|) over nonzero finite values, if any. -/
def maxLog2 (vs : List FVal) : Option Int :=
  vs.foldl (fun m v => match v with
    | .num d => if d.man == 0 then m else some (match m with | none => d.log2 | some l => max l d.log2)
    | _ => m) none

def clampNat (i : Int) (hi : Nat) : Nat := min i.toNat hi

/-- Whether a value is NaN or infinite. -/
def FVal.special : FVal → Bool
  | .num _ => false
  | _ => true

/-- ConvertDX (R155) into elements of width w under a gap g. Log 42 (DEDUCED). -/
def convertDX (w g : Nat) (vs : List FVal) : Block :=
  let mmax := 2 ^ (w - 2) - 1
  let f : Nat := w - 3
  let etop : Nat := match maxLog2 vs with | none => 0 | some l => clampNat (l + 127) 0xFE
  let special := vs.any FVal.special
  let e1 := if special then 0xFF else etop
  let e0 := if special then etop else etop - g
  let one (v : FVal) : Nat × BitVec 9 :=
    match v with
    | .inf n => (2 ^ (w - 1) + (if n then 2 ^ (w - 2) else 0), fNV)
    | .nan _ n => (2 ^ (w - 1) + (if n then 2 ^ (w - 2) else 0), fNV)
    | .num d =>
      let sg := if d.neg then 2 ^ (w - 2) else 0
      let m0 := rneScaled d ((f : Int) - (e0 - 127))
      let (sel, m, e, sat) : Nat × Nat × Nat × Bool :=
        if m0 ≤ mmax then (0, m0, e0, false)
        else if special then (0, mmax, e0, true)
        else
          let m1 := rneScaled d ((f : Int) - (e1 - 127))
          if mmax < m1 then (1, mmax, e1, true) else (1, m1, e1, false)
      let exact := (Dy.eqv ⟨false, m, (e : Int) - 127 - f⟩ ⟨false, d.man, d.exp⟩)
      (sel * 2 ^ (w - 1) + sg + m,
        flagIf sat fSAT ||| flagIf (!exact) fNX ||| flagIf (m == 0 && d.man != 0) fUF)
  let out := vs.map one
  ⟨out.map Prod.fst, e1 * 256 + e0, out.foldl (fun a p => a ||| p.2) 0⟩

/-- The E2M1 grid in units of one half: 0, 0.5, 1, 1.5, 2, 3, 4, 6 and the point 8 above it (R154). -/
def e2m1Grid : List Nat := [0, 1, 2, 3, 4, 6, 8, 12, 16]

/-- Rounding to nearest even on the continued E2M1 grid: the index of the point that a magnitude goes to, and whether it
was exact. A tie goes to the even index. -/
def e2m1Round (d : Dy) : Nat × Bool :=
  let below (k : Nat) : Bool := Dy.lt ⟨false, d.man, d.exp⟩ ⟨false, k, -2⟩
  let isMid (k : Nat) : Bool := Dy.eqv ⟨false, d.man, d.exp⟩ ⟨false, k, -2⟩
  -- mid-points between neighbours i and i + 1 in quarter units: the sum of the two grid values
  let mids := (List.range 8).map fun i => (e2m1Grid.getD i 0 + e2m1Grid.getD (i + 1) 0)
  let i := mids.foldl (fun (a : Nat × Nat) mid =>
    (a.1 + 1, if below mid then a.2 else if isMid mid then (if a.1 % 2 == 0 then a.2 else a.1 + 1) else a.1 + 1)) (0, 0)
  (i.2, Dy.eqv ⟨false, d.man, d.exp⟩ ⟨false, e2m1Grid.getD i.2 0, -1⟩)

/-- ConvertMX (R154). Log 42 (DEDUCED). -/
def convertMX (vs : List FVal) : Block :=
  if vs.any FVal.special then ⟨vs.map fun _ => 0, 0xFF, fNV⟩
  else
    let x : Nat := match maxLog2 vs with | none => 0 | some l => clampNat (l - 2 + 127) 0xFE
    let one (v : FVal) : Nat × BitVec 9 :=
      match v with
      | .num d =>
        let (i, exact) := e2m1Round ⟨false, d.man, d.exp - ((x : Int) - 127)⟩
        let sat := i == 8
        let i' := if sat then 7 else i
        ((if d.neg then 8 else 0) + i',
          flagIf sat (fSAT ||| fNX) ||| flagIf (!exact) fNX ||| flagIf (i' == 0 && d.man != 0) (fUF ||| fNX))
      | _ => (0, 0)
    let out := vs.map one
    ⟨out.map Prod.fst, x, out.foldl (fun a p => a ||| p.2) 0⟩

/-! ### Sums of many terms -/

/-- The exact sum of a list of values with the rules that VRSUM, COLRED and the group sums share: a NaN or infinities of
both signs give NaN. `none` is NaN; the second part says whether NV is raised. -/
structure Total where
  nan : Bool := false
  nv : Bool := false
  pinf : Bool := false
  ninf : Bool := false
  sum : Dy := ⟨false, 0, 0⟩
  allNeg0 : Bool := true
  allPos0 : Bool := true
  deriving DecidableEq, Repr

def Total.add (t : Total) (v : FVal) : Total :=
  match v with
  | .nan s _ => { t with nan := true, nv := t.nv || s, allNeg0 := false, allPos0 := false }
  | .inf true => { t with ninf := true, allNeg0 := false, allPos0 := false }
  | .inf false => { t with pinf := true, allNeg0 := false, allPos0 := false }
  | .num d => { t with sum := t.sum.add d, allNeg0 := t.allNeg0 && (d.man == 0 && d.neg),
                       allPos0 := t.allPos0 && (d.man == 0 && !d.neg) }

def totalOf (vs : List FVal) : Total := vs.foldl Total.add {}

/-- The total rounded once (R170): an exact zero is -0 when every term is -0, or under RDN unless every term is +0. -/
def FF.roundTotal (f : FF) (t : Total) (rm : Nat) (zo : Bool) : Res :=
  if t.nan then f.nan (t.nv || (t.pinf && t.ninf))
  else if t.pinf && t.ninf then f.nan true
  else if t.pinf then ⟨f.infBits false, 0⟩
  else if t.ninf then ⟨f.infBits true, 0⟩
  else if t.sum.man == 0 then ⟨f.signBit (t.allNeg0 || (rm == 2 && !t.allPos0)), 0⟩
  else f.roundSt t.sum false rm false zo

/-- Hash32 of R109. -/
def hash32 (u v : BitVec 32) : BitVec 32 :=
  let h := (u ^^^ v) * 0x9E3779B1#32
  let h := h ^^^ (h >>> 15)
  let h := h * 0x85EBCA77#32
  h ^^^ (h >>> 13)

end Sys2Proof.Machine
end

