-- ==== Sys2Proof/Machine/Ops.lean ====
section
/-!
DEFINITION. The named operations over registers, results in flight and traps: the accessors of R106, the landing of
exposed results (R73, R75), taking a trap (R313, R314, R319) and the return from one (R316), the black box (R384).
-/

namespace Sys2Proof.Machine

/-! ### Trap codes (R310) -/

def tILLEGAL : Nat := 0x01
def tILLHDR : Nat := 0x02
def tBALIGN : Nat := 0x03
def tPRIV : Nat := 0x05
def tHMODE : Nat := 0x06
def tFETCHAUTH : Nat := 0x08
def tSEGBOUND : Nat := 0x09
def tMBANK : Nat := 0x0A
def tMROUTINE : Nat := 0x0B
def tATOMPLAIN : Nat := 0x0C
def tALIGN : Nat := 0x0D
def tXLATE : Nat := 0x0E
def tFORM : Nat := 0x0F
def tOVERRUN : Nat := 0x10
def tPPBOUND : Nat := 0x11
def tBOVER : Nat := 0x12
def tGATE : Nat := 0x13
def tMEMERR : Nat := 0x14
def tFPX : Nat := 0x15
def tSYSC : Nat := 0x16
def tBRK : Nat := 0x17
def tLOOPNEST : Nat := 0x18
def tBOBBIN : Nat := 0x19
def tCUT : Nat := 0x1A
def tWATCHDOG : Nat := 0x1B
def tFMT : Nat := 0x1C

/-! ### Registers -/

/-- x0 and y0 read as zero (R106). -/
def Regs.rx (r : Regs) (n : BitVec 5) : Word := if n = 0 then 0 else r.x[n.toNat]
def Regs.ry (r : Regs) (n : BitVec 5) : Word := if n = 0 then 0 else r.y[n.toNat]

/-- Writes to x0 and y0 are discarded (R106). -/
def Regs.wx (r : Regs) (n : BitVec 5) (v : Word) : Regs := if n = 0 then r else { r with x := r.x.set n.toNat v }
def Regs.wy (r : Regs) (n : BitVec 5) (v : Word) : Regs := if n = 0 then r else { r with y := r.y.set n.toNat v }

/-- p0 reads as true; no legal word writes it (R106). -/
def Regs.rp (r : Regs) (n : BitVec 3) : Bool := n == 0 || r.p[n.toNat]
def Regs.wp (r : Regs) (n : BitVec 3) (b : Bool) : Regs := if n = 0 then r else { r with p := r.p.set n.toNat b }

/-- q0 reads as true (R106). -/
def Regs.rq (r : Regs) (n : Nat) : Bool := n == 0 || r.q.getLsbD n

/-- The register of a slot's own cluster (R81). -/
def Ctx.rd (c : Ctx) (cl : Cluster) (n : BitVec 5) : Word :=
  match cl with
  | .x => c.regs.rx n
  | .y => c.regs.ry n

/-- A 6-bit register field: x0 to x31 by 0 to 31, y0 to y31 by 32 to 63 (R85, R89). -/
def Ctx.rd6 (c : Ctx) (n : BitVec 6) : Word :=
  if n.toNat < 32 then c.regs.rx (BitVec.ofNat 5 n.toNat) else c.regs.ry (BitVec.ofNat 5 n.toNat)

/-- The scalar guard g: p(g[2:0]), negated when g[3] = 1 (R81). -/
def Ctx.guard (c : Ctx) (g : BitVec 4) : Bool :=
  c.regs.rp (BitVec.ofNat 3 g.toNat) != g.getLsbD 3

/-- The LS guard g: p0 to p7 without negation (R85). -/
def Ctx.guardLs (c : Ctx) (g : BitVec 3) : Bool := c.regs.rp g

/-- The stage guard of a VX word (R87). -/
def Ctx.guardVx (c : Ctx) (q : BitVec 3) : Bool := c.regs.rq q.toNat

/-- The accumulator row that a v-register field names, with VBASE and TWIST as they stand (R127, R163). -/
def Ctx.row (c : Ctx) (k : BitVec 6) : Nat :=
  let vb := c.ctl.vbase.toNat * 64
  if k.toNat < 32 then vb + k.toNat
  else vb + 32 + (c.ctl.twist.toNat + 32 - (k.toNat - 32)) % 32

/-- The LOCAL offset of an accumulator row (R163). -/
def rowOff (r : Nat) : Nat := 0x1000000 + 512 * r

/-- The 512 bytes of an accumulator row. -/
def State.readRow (s : State) (n r : Nat) : List Byte := s.readSlice n (rowOff r) 512

/-- The current entry of the format table: FMT(TRIP) of the loop that FMTSEL names, FMT0 while it is inactive (R137). -/
def Ctx.fmtEntry (c : Ctx) : Word :=
  let l := c.regs.lc[c.ctl.fmtsel.toNat]
  if l.active then c.eng.fmt[l.trip.toNat] else c.eng.fmt[0]

/-- MODE as CRD reads it (R135). -/
def Ctl.mode (c : Ctl) : Word :=
  BitVec.ofNat 64 (c.fixed.toNat + 2 * c.strict.toNat + 4 * c.det.toNat + 8 * c.hmode.toNat)

/-- A loop counter as CRD reads it (R129). -/
def LoopCtr.word (l : LoopCtr) : Word :=
  BitVec.ofNat 64 (l.top.toNat + l.endA.toNat * 2 ^ 16 + l.remain.toNat * 2 ^ 32 + l.rot.toNat * 2 ^ 55
    + l.trip.toNat * 2 ^ 56 + l.sm1.toNat * 2 ^ 60 + l.active.toNat * 2 ^ 63)

/-- TASKID as CRD reads it (R138). -/
def Ident.word (i : Ident) : Word :=
  BitVec.ofNat 64 (i.t.toNat + i.node.toNat * 2 ^ 32 + i.handle.toNat * 2 ^ 42)

/-! ### Control registers -/

/-- A bobbin register and a channel register by number. -/
def Eng.bobReg (e : Eng) (i : Nat) : Word := e.bob[i % 64]'(Nat.mod_lt _ (by decide))
def Eng.channel (e : Eng) (c : Nat) : Channel := e.chan[c % 8]'(Nat.mod_lt _ (by decide))
def Eng.setChannel (e : Eng) (c : Nat) (x : Channel) : Eng :=
  { e with chan := e.chan.set (c % 8) x (Nat.mod_lt _ (by decide)) }
def Eng.modChannel (e : Eng) (c : Nat) (f : Channel → Channel) : Eng := e.setChannel c (f (e.channel c))

/-- Register i of a copy channel as CRD reads it (R214). -/
def Channel.read (ch : Channel) (i : Nat) : Word :=
  if h : i < 6 then ch.reg[i]
  else if i = 6 then
    BitVec.ofNat 64 (ch.state.toNat + ch.cause.toNat * 2 ^ 8 + ch.done.toNat * 2 ^ 32)
  else ch.addr

/-- The value of an assigned control register (R134), deterministic mode apart; `gcyc` is the module's count. -/
def Ctx.readCr (c : Ctx) (gcyc : Nat) (num : BitVec 16) : Word :=
  let n := num.toNat
  if n = 0x000 then c.ctl.mode
  else if n = 0x001 then c.ctl.fstat.setWidth 64
  else if n = 0x002 then c.ctl.fen.setWidth 64
  else if n = 0x003 then c.ctl.vctl.setWidth 64
  else if n = 0x004 then c.ctl.cbase.setWidth 64
  else if n = 0x005 then BitVec.ofNat 64 (c.ctl.vbase.toNat * 64)
  else if n = 0x006 then c.ctl.twist.setWidth 64
  else if n = 0x007 then c.ctl.fmtsel.setWidth 64
  else if n = 0x008 then (if c.ctl.hmode then c.trap.hsfc else c.ctl.sfc).setWidth 64
  else if n = 0x009 then BitVec.ofNat 64 gcyc
  else if n = 0x00A then c.ident.psn.setWidth 64
  else if n = 0x00B then c.ident.part.setWidth 64
  else if n = 0x00C then c.ident.word
  else if n = 0x00D then c.ctl.estr.setWidth 64
  else if n = 0x00E then c.ctl.ppbound.setWidth 64
  else if n = 0x010 then c.trap.tvec.setWidth 64
  else if n = 0x011 then c.trap.tcause.setWidth 64
  else if n = 0x012 then c.trap.tepc.setWidth 64
  else if n = 0x013 then c.trap.tslot.setWidth 64
  else if n = 0x014 then c.trap.tval
  else if n = 0x015 then c.trap.tdeleg
  else if n = 0x016 then c.trap.tscr
  else if 0x018 ≤ n ∧ n ≤ 0x01B then (c.regs.lc[(n - 0x018) % 4]'(Nat.mod_lt _ (by decide))).word
  else if n = 0x020 then c.trap.frzlim.setWidth 64
  else if n = 0x021 then c.ctl.seglo.setWidth 64
  else if n = 0x022 then c.ctl.seghi.setWidth 64
  else if 0x030 ≤ n ∧ n ≤ 0x03F then c.eng.fmt[n % 16]'(Nat.mod_lt _ (by decide))
  else if 0x040 ≤ n ∧ n ≤ 0x07F then c.eng.bobReg n
  else if 0x080 ≤ n ∧ n ≤ 0x0BF then (c.eng.channel (n / 8)).read (n % 8)
  else if 0x0C0 ≤ n ∧ n ≤ 0x0C7 then c.eng.m[n % 8]'(Nat.mod_lt _ (by decide))
  else 0

/-- The writable bits of a bobbin, a channel, a format and a matrix register (R156, R196, R214, R239). -/
def bobMask (i : Nat) : Word :=
  match i % 4 with
  | 0 => 0x0000000000FFFFC0#64
  | 1 => 0x000000000FFF0FFF#64
  | 2 => 0xFFFFFFFFFFFFFFFF#64
  | _ => 0x00000000003FFFFF#64

def chanMask (i : Nat) : Word :=
  match i with
  | 0 => 0x0000FFFF00FFFFFF#64
  | 1 => 0xFFFFFFFFFFFFFFFF#64
  | 2 => 0xFFFFFFFFFFFFFFFF#64
  | 3 => 0x0000000000FFFFFF#64
  | 4 => 0x00000000000001F3#64
  | _ => 0x00000000FFFFFFFF#64

def fmtMask : Word := 0xFFFFFFFF007FFFFF#64

def mMask (i : Nat) : Word :=
  match i with
  | 0 => 0x00001F1FFFFF7F7F#64
  | 1 | 2 | 3 => 0x0000000000FFFFFF#64
  | _ => 0xFFFFFFFFFFFFFFFF#64

/-- TDELEG without the bits that are RO and read 0 (R312): codes 8, 15, 19, 20, 26, 27 and the unassigned ones. -/
def tdelegMask : Word := 0x0000000013E77E6E#64

/-- A write of a control register as it lands: RO fields keep their value, W1C fields are cleared by ones (R117). A
number that R134 does not assign, or whose fields are all RO, is not written. -/
def Ctx.writeCr (c : Ctx) (num : BitVec 16) (v : Word) : Ctx :=
  let n := num.toNat
  if n = 0x001 then { c with ctl := { c.ctl with fstat := c.ctl.fstat &&& ~~~(v.setWidth 9) } }
  else if n = 0x002 then { c with ctl := { c.ctl with fen := v.setWidth 5 } }
  else if n = 0x003 then { c with ctl := { c.ctl with vctl := v.setWidth 5 } }
  else if n = 0x004 then { c with ctl := { c.ctl with cbase := v.setWidth 8 } }
  else if n = 0x005 then { c with ctl := { c.ctl with vbase := v.extractLsb' 6 6 } }
  else if n = 0x006 then { c with ctl := { c.ctl with twist := v.setWidth 5 } }
  else if n = 0x007 then { c with ctl := { c.ctl with fmtsel := v.setWidth 2 } }
  else if n = 0x00D then { c with ctl := { c.ctl with estr := v.setWidth 32 } }
  else if n = 0x00E then
    { c with ctl := { c.ctl with ppbound := if v.toNat % 65536 < 0x0400 then 0x0400 else v.setWidth 16 } }
  else if n = 0x010 then { c with trap := { c.trap with tvec := v.setWidth 16 } }
  else if n = 0x011 then { c with trap := { c.trap with tcause := v.setWidth 8 } }
  else if n = 0x012 then { c with trap := { c.trap with tepc := v.setWidth 16 } }
  else if n = 0x013 then { c with trap := { c.trap with tslot := v.setWidth 3 } }
  else if n = 0x014 then { c with trap := { c.trap with tval := v } }
  else if n = 0x015 then { c with trap := { c.trap with tdeleg := v &&& tdelegMask } }
  else if n = 0x016 then { c with trap := { c.trap with tscr := v } }
  else if 0x030 ≤ n ∧ n ≤ 0x03F then
    { c with eng := { c.eng with fmt := c.eng.fmt.set (n % 16) (v &&& fmtMask) (Nat.mod_lt _ (by decide)) } }
  else if 0x040 ≤ n ∧ n ≤ 0x07F then
    { c with eng := { c.eng with bob := c.eng.bob.set (n % 64) (v &&& bobMask n) (Nat.mod_lt _ (by decide)) } }
  else if 0x080 ≤ n ∧ n ≤ 0x0BF then
    if h : n % 8 < 6 then
      { c with eng := c.eng.modChannel (n / 8) fun ch => { ch with reg := ch.reg.set (n % 8) (v &&& chanMask (n % 8)) h } }
    else c
  else if 0x0C0 ≤ n ∧ n ≤ 0x0C7 then
    { c with eng := { c.eng with m := c.eng.m.set (n % 8) (v &&& mMask (n % 8)) (Nat.mod_lt _ (by decide)) } }
  else c

/-- Flags that become visible (R136). -/
def Ctx.setFlags (c : Ctx) (f : BitVec 9) : Ctx := { c with ctl := { c.ctl with fstat := c.ctl.fstat ||| f } }

/-- Flags that an engine or an answer sets while the context runs: they are in FSTAT from the end of the cycle on, past a
write of FSTAT in that cycle (R136). A context that does not run has them at once. -/
def Ctx.flagLater (c : Ctx) (runs : Bool) (f : BitVec 9) : Ctx :=
  if f = 0 then c else if runs then { c with pipe := c.pipe ++ [{ left := 1, lands := [.flags f] }] } else c.setFlags f

/-! ### Vector clocks (R260) -/

/-- The clock of a die: eight entries. -/
def State.clockOf (s : State) (d : Nat) : List Nat := tget (List.replicate 8 0) d s.clocks

def clockMax (a b : List Nat) : List Nat := (List.range 8).map fun i => max (a.getD i 0) (b.getD i 0)

def State.setClock (s : State) (d : Nat) (v : List Nat) : State := { s with clocks := tput d v s.clocks }

/-- A write leaves die d, or is applied locally (R260, departure). -/
def State.tick (s : State) (d : Nat) : State :=
  s.setClock d ((List.range 8).map fun i => (s.clockOf d).getD i 0 + (if i = d then 1 else 0))

/-- A reply's tag merged into a die's clock (R260, merging). Log 10 (DEDUCED). -/
def State.mergeClock (s : State) (d : Nat) (t : List Nat) : State :=
  if t.all (· == 0) then s else s.setClock d (clockMax (s.clockOf d) t)

/-- Writes the tag of a write into the lines that it reaches: replaced where the line is written whole, merged elsewhere
(log 10, DEDUCED). -/
def State.tagLines (s : State) (l : Loc) (len : Nat) (t : List Nat) : State :=
  s.modMem fun m => { m with tags := (s.linesAt l len).foldl (fun tg x =>
    tput x.2 (if 0 ≤ x.1 ∧ x.1 + 64 ≤ (len : Int) then t else clockMax (tget [] x.2 tg) t) tg) m.tags }

/-- The merged tags of the lines of bytes. -/
def State.tagsOf (s : State) (l : Loc) (len : Nat) : List Nat :=
  (s.linesAt l len).foldl (fun t x => clockMax t (tget [] x.2 s.mem.tags)) []

/-- A local write of spindle n: counted in its die's clock in this cycle (R260). -/
def State.localWrite (s : State) (n off : Nat) (bs : List Byte) : State :=
  let s := (s.writeSlice n off bs).tick (dieOf n)
  s.tagLines (.slice n off) bs.length (s.clockOf (dieOf n))

/-- A local read of spindle n: the tags of what it reads are merged at once (log 10, DEDUCED). -/
def State.localRead (s : State) (n off len : Nat) : List Byte × State :=
  (s.readSlice n off len, s.mergeClock (dieOf n) (s.tagsOf (.slice n off) len))

/-! ### Results in flight -/

/-- A write as it lands in the context on spindle n. Flags are landed after the control registers of their cycle
(R136), which `landAll` sees to. -/
def State.land (s : State) (n : Nat) : Land → State
  | .x r v => s.modCtx n fun c => { c with regs := c.regs.wx r v }
  | .y r v => s.modCtx n fun c => { c with regs := c.regs.wy r v }
  | .p k b => s.modCtx n fun c => { c with regs := c.regs.wp k b }
  | .acc own off bs =>
    let s := (if own then s.writeOwn n off bs else s.writeSlice n off bs).tick (dieOf n)
    s.tagLines (.slice n off) bs.length (s.clockOf (dieOf n))
  | .creg k v => s.modCtx n fun c => c.writeCr k v
  | .flags f => s.modCtx n fun c => c.setFlags f

def Land.isFlags : Land → Bool
  | .flags _ => true
  | _ => false

/-- Writes that land in one cycle, in the order of their issue, so that the later-issued wins (R75), the flags last. -/
def State.landAll (s : State) (n : Nat) (ls : List Land) : State :=
  (ls.filter fun l => !l.isFlags).foldl (fun s l => s.land n l) s |> fun s =>
    (ls.filter Land.isFlags).foldl (fun s l => s.land n l) s

/-- The pending notice that is raised first, and the others: notices of one count are taken by increasing code (R311). -/
def pickNotice : List Notice → Option (Notice × List Notice)
  | [] => none
  | x :: t =>
    let y := t.foldl (fun (b : Notice) z => if z.at_ == x.at_ && decide (z.code < b.code) then z else b) x
    some (y, (x :: t).erase y)

/-- Whether a write goes to the register, the row, the predicate or the control register of another one (R75). -/
def Land.sameAs : Land → Land → Bool
  | .x r _, .x k _ => r == k
  | .y r _, .y k _ => r == k
  | .p n _, .p k _ => n == k
  | .acc _ o bs, .acc _ q cs => decide (q ≤ o) && decide (o + bs.length ≤ q + cs.length)
  | .creg n _, .creg k _ => n == k
  | _, _ => false

/-- Writes without those that later-issued writes have overtaken (R75). -/
def landsPast (later ls : List Land) : List Land := ls.filter fun l => !later.any l.sameAs

/-- Puts a result of a latency in flight (R73); in handler mode beside the held results (R315). -/
def Ctx.pend (c : Ctx) (lat : Nat) (ls : List Land) : Ctx :=
  let e : Pending := { left := lat, lands := ls }
  if c.ctl.hmode then { c with hpipe := c.hpipe ++ [e] } else { c with pipe := c.pipe ++ [e] }

/-- A result of the current spindle's word. -/
def State.pend (s : State) (lat : Nat) (ls : List Land) : State := s.modC fun c => c.pend lat ls

/-- The write of a slot's destination register (R81). -/
def landReg (cl : Cluster) (r : BitVec 5) (v : Word) : Land :=
  match cl with
  | .x => .x r v
  | .y => .y r v

/-- The write of a 6-bit register field (R85). -/
def landReg6 (r : BitVec 6) (v : Word) : Land :=
  if r.toNat < 32 then .x (BitVec.ofNat 5 r.toNat) v else .y (BitVec.ofNat 5 r.toNat) v

/-- The destination of a remote result named by a 6-bit register field. -/
def dest6 (r : BitVec 6) : Dest :=
  if r.toNat % 32 = 0 then .none
  else if r.toNat < 32 then .x (BitVec.ofNat 5 r.toNat) else .y (BitVec.ofNat 5 r.toNat)

/-- The writes that a remote result makes. -/
def Dest.lands (d : Dest) (v v2 : Word) (bs : List Byte) : List Land :=
  match d with
  | .none => []
  | .x r => [.x r v]
  | .y r => [.y r v]
  | .pair false r => [.x r v, .x (r + 1) v2]
  | .pair true r => [.y r v, .y (r + 1) v2]
  | .row off => [.acc false off bs]

/-- The pieces of a row that came in two answers, as one write. -/
def joinRow : List Land → List Land
  | [.acc w o bs, .acc _ q cs] => if o ≤ q then [.acc w o (bs ++ cs)] else [.acc w q (cs ++ bs)]
  | ls => ls

/-- An answer with writes `ls` reaches a result in flight: it is awaited no more once all its answers have come. -/
def Pending.answered (p : Pending) (id : Nat) (ls : List Land) : Pending :=
  let p := { p with lands := p.lands ++ landsPast p.past ls }
  match p.also with
  | [] => { p with await := none, lands := joinRow p.lands }
  | j :: js => if p.await == some id then { p with await := some j, also := js } else { p with also := p.also.erase id }

/-- The messages that a result in flight awaits. -/
def Pending.awaits (p : Pending) : List Nat := p.await.toList ++ p.also

/-! ### The black box and error logging -/

/-- Appends a record to the black box (R384). Log 33 (DESIGN CHOICE). -/
def State.blackBox (s : State) (code source part : Nat) (data : List Byte) : State :=
  let rec_ := bytesLE s.gcyc 8 ++ bytesLE code 2 ++ bytesLE source 1 ++ bytesLE part 1
    ++ (data ++ List.replicate 20 0).take 20
  { s with errors := { s.errors with
      bb := tput (s.errors.bbhead.toNat % 4096) rec_ s.errors.bb
      bbhead := s.errors.bbhead + 1 } }

/-- Counts and logs an uncorrectable error at a physical address, in a row of R380, of a die (R382, R384). Log 33 (DESIGN CHOICE). -/
def State.logUE (s : State) (pa kind die : Nat) : State :=
  let e := s.errors
  let s := { s with errors := { e with
      ue := if e.ue = 0xFFFFFFFF then e.ue else e.ue + 1
      lastue := BitVec.ofNat 60 pa
      kind := BitVec.ofNat 4 kind } }
  s.blackBox 2 die 0xFF (bytesLE (pa % 2 ^ 60 + kind % 16 * 2 ^ 60) 8)

/-! ### Traps -/

/-- A record that a trap raises and clears: a matrix fault (R253), a failed channel (R229), a failed cipher command
(R234). -/
inductive TrapSource where
  | bundle
  | matrix
  | channel (c : Nat)
  | cipher
  deriving DecidableEq, Repr

/-- What a raised trap carries (R311 to R319). -/
structure Trap where
  code : Nat
  slot : Nat
  val : Word
  epc : BitVec 16
  notice : Bool := false
  source : TrapSource := .bundle
  deriving DecidableEq, Repr

/-- A recorded fault is raised once. -/
def Eng.clear (e : Eng) (t : TrapSource) : Eng :=
  match t with
  | .bundle => e
  | .matrix => { e with mx := { e.mx with fault := none, faultTiles := [] } }
  | .channel c => e.modChannel c fun ch => { ch with state := 0 }
  | .cipher => { e with cyFault := none }

/-- What every trap ends: the bank-lock hold (R71), a fused sequence (R182), a pending failed walk of the access, and
the wait that the watchdog counts. -/
def Ctx.trapEnds (c : Ctx) : Ctx := { c with lock := none, fusion := none, wait := none }

/-- The trap registers as a trap writes them (R314, R319). -/
def TrapRegs.take (t : TrapRegs) (tr : Trap) : TrapRegs :=
  { t with tcause := BitVec.ofNat 8 tr.code, tslot := BitVec.ofNat 3 tr.slot, tval := tr.val, tepc := tr.epc }

/-- LocalEntry (R314): the trap registers are written, handler mode begins, and HANDLER is the next bundle start. -/
def State.localEntry (s : State) (n : Nat) (tr : Trap) : State :=
  s.modCtx n fun c =>
    { c.trapEnds with
      trap := { c.trap.take tr with hsfc := c.ctl.sfc }
      ctl := { c.ctl with hmode := true }
      pc := c.trap.tvec.setWidth 64
      cameFrom := none }

/-- The 32 bytes of a trap record (R319). `vol` marks ESC, `nested` a trap in handler mode. Log 43 (DEDUCED). -/
def trapRecord (c : Ctx) (gcyc : Nat) (tr : Trap) (nested vol : Bool) : List Byte :=
  bytesLE tr.code 1 ++ bytesLE tr.slot 1
    ++ bytesLE (nested.toNat + 2 * vol.toNat + 4 * c.ctl.strict.toNat + 8 * tr.notice.toNat) 2
    ++ bytesLE tr.epc.toNat 2 ++ bytesLE c.ident.psn.toNat 2 ++ bytesLE gcyc 8 ++ bytesLE tr.val.toNat 8
    ++ bytesLE c.ident.t.toNat 4 ++ bytesLE c.ident.node.toNat 2 ++ bytesLE c.ident.handle.toNat 1
    ++ bytesLE c.ident.part.toNat 1

/-- Writes a record into the trap ring of a stand (R320). -/
def State.putRecord (s : State) (k : Nat) (bs : List Byte) : State :=
  let st := s.stand k
  let s := s.modMem fun m =>
    { m with cells := cellsWrite m.cells (superKey k (st.trqbase.toNat * 4096 + 32 * (st.trqhead.toNat % 128))) bs }
  s.modStand k fun st => { st with trqhead := st.trqhead + 1 }

/-- Whether the trap ring of a stand is full (R320). -/
def Stand.ringFull (st : Stand) : Bool := st.trqhead - st.trqtail == 128

/-- A record that waits for a slot stands before those of later spindles of the same count (R320). -/
def waitRecord (r : Nat × List Byte) : List (Nat × List Byte) → List (Nat × List Byte)
  | [] => [r]
  | q :: qs =>
    if (q.2.drop 8).take 8 == (r.2.drop 8).take 8 && decide (r.1 < q.1) then r :: q :: qs else q :: waitRecord r qs

/-- Writes records of a stand into its ring while it has room; the others wait (R320). -/
def State.putRecords (s : State) (k : Nat) : List (Nat × List Byte) → State
  | [] => s
  | r :: rs =>
    if (s.stand k).ringFull then (s.modStand k fun st => { st with recWait := waitRecord r st.recWait }).putRecords k rs
    else ((s.putRecord k r.2).modStand k fun st => { st with recent := st.recent ++ [r.1] }).putRecords k rs

/-- The spindles whose records have been written in this count. -/
def State.recordsNow (s : State) (k : Nat) : List Nat := if (s.stand k).recentAt = s.gcyc then (s.stand k).recent else []

/-- The record of spindle n: before those of later spindles of its stand that escalated in the same count (R320). -/
def State.postRecord (s : State) (n : Nat) (bs : List Byte) : State :=
  let k := standOf n
  let st := s.stand k
  let now := s.recordsNow k
  let after := if now.length ≤ (st.trqhead - st.trqtail).toNat then now.filter fun m => decide (n < m) else []
  let base := st.trqhead.toNat + 128 - after.length
  let old := after.zipIdx.map fun x =>
    (x.1, s.mem.read (superKey k (st.trqbase.toNat * 4096 + 32 * ((base + x.2) % 128))) 32)
  (s.modStand k fun st => { st with
    trqhead := st.trqhead - BitVec.ofNat 32 after.length
    recent := now.filter fun m => !after.contains m
    recentAt := s.gcyc }).putRecords k ((n, bs) :: old)

/-- An escalation (R319): the record goes to the ring, or waits for a free slot (R320), the spindle is held, and a
trap that is not nested writes the trap registers. -/
def State.escalateWith (s : State) (n : Nat) (tr : Trap) (nested vol : Bool) (keepRegs : Bool) : State :=
  let c := s.ctxOf n
  let bs := trapRecord c s.gcyc tr nested vol
  let s := (s.blackBox 1 (dieOf n) c.ident.part.toNat (bs.take 20)).postRecord n bs
  s.modSp n fun sp =>
    { sp with
      run := .held vol
      lastTrap := bs
      ctx := { c.trapEnds with
        trap := if nested || keepRegs then c.trap else c.trap.take tr
        pc := tr.epc.setWidth 64
        cameFrom := none } }

def State.escalate (s : State) (n : Nat) (tr : Trap) : State :=
  s.escalateWith n tr (s.ctxOf n).ctl.hmode false false

/-- Whether a code is always escalated (R313). -/
def alwaysEscalated (code : Nat) : Bool :=
  code == tFETCHAUTH || code == tFORM || code == tGATE || code == tMEMERR || code == tCUT || code == tWATCHDOG

/-- Drops the failed walks of a die for a partition: the access that asked has faulted (R328). -/
def State.clearWalks (s : State) (n : Nat) : State :=
  { s with walks := s.walks.filter fun w => !(w.failed && w.die == dieOf n && w.part == (s.ctxOf n).ident.part.toNat) }

/-- Route of R313: taking a trap on spindle n. -/
def State.takeTrap (s : State) (n : Nat) (tr : Trap) : State :=
  let s := if tr.source = .bundle then s else s.modCtx n fun c => { c with eng := c.eng.clear tr.source }
  let c := s.ctxOf n
  let s := s.clearWalks n
  if c.ctl.hmode then s.escalate n tr
  else if alwaysEscalated tr.code then s.escalate n tr
  else if tr.code == tXLATE && c.ctl.strict then s.escalate n tr
  else if !(c.trap.tdeleg.getLsbD tr.code) then s.escalate n tr
  else s.localEntry n tr

/-- RFE (R316): handler mode ends and TEPC is the next bundle start, reached from the RFE bundle (R65). -/
def Ctx.returnFromTrap (c : Ctx) : Ctx :=
  { c with
    ctl := { c.ctl with hmode := false }
    bun := { c.bun with xfer := some (c.trap.tepc.setWidth 64) } }

/-! ### Identity -/

/-- The partition of a context, its spindle count and its spindles in PSN order (R48, R118). -/
def Ctx.partN (c : Ctx) : Nat := c.ident.part.toNat
def State.psns (s : State) (p : Nat) : List Nat := (s.part p).sched.psns
/-- The spindles of a timed domain in the order of their PSN, or the spindle alone (R290). -/
def State.groupOf (s : State) (n : Nat) : List Nat :=
  let c := s.ctxOf n
  if c.domain then
    ((s.psns c.partN).filter fun m => (s.sp m).run != .empty && (s.ctxOf m).domain && (s.ctxOf m).gang == c.gang)
  else [n]

def State.npOf (s : State) (p : Nat) : Nat := (s.psns p).length
def State.physOf (s : State) (p psn : Nat) : Option Nat := (s.psns p)[psn]?

/-- The spindle on which a context is resident, if any. -/
def State.whereIs (s : State) (ctx : Nat) : Option Nat :=
  (s.spindles.find? fun p => decide (p.2.run ≠ .empty) && p.2.ctx.id == ctx).map Prod.fst

end Sys2Proof.Machine
end

