-- ==== Sys2Proof/Machine/Operands.lean ====
section
/-!
DEFINITION. Every operand form: operand b of scalar words (R92), apertures (R118), the decode of addresses (R184) and
the translation of GLOBAL and CLUSTER addresses (R325 to R330).
-/

namespace Sys2Proof.Machine

/-! ### Operand b -/

/-- LitWord(n) of R92. -/
def Ctx.litWord (c : Ctx) (n : Nat) : BitVec 32 := c.bun.lits.getD n 0

/-- Konst(i) of R92. -/
def Ctx.konst (c : Ctx) (i : Nat) : BitVec 32 :=
  c.regs.k[(c.ctl.cbase.toNat + i) % 256]'(Nat.mod_lt _ (by decide))

/-- OperandB of R92 as an integer. -/
def Ctx.opB (c : Ctx) (cl : Cluster) (rb : BitVec 5) (bk : BitVec 2) : Word :=
  match bk.toNat with
  | 0 => c.rd cl rb
  | 1 => (c.litWord (rb.toNat % 4)).signExtend 64
  | _ => (c.konst rb.toNat).signExtend 64

/-- WidenFP32(w, zi) of R92: the FP64 pattern of the same value; a NaN keeps its sign, quiet bit and payload. -/
def widen32 (w : Nat) (zi : Bool) : Nat :=
  let w := ff32.flush zi w
  let sign := w / 2 ^ 31 % 2 * 2 ^ 63
  let e := w / 2 ^ 23 % 256
  let fr := w % 2 ^ 23
  if e == 255 then sign + 2047 * 2 ^ 52 + fr * 2 ^ 29
  else
    match ff32.decode w with
    | .num d => (ff64.round d 0 false false).bits
    | _ => sign

/-- OperandB of R92 as a floating-point pattern: the low 32 bits, or all 64 with a 32-bit source widened (R204). -/
def Ctx.opBF (c : Ctx) (cl : Cluster) (rb : BitVec 5) (bk : BitVec 2) (dbl zi : Bool) : Nat :=
  match bk.toNat with
  | 0 => if dbl then (c.rd cl rb).toNat else (c.rd cl rb).toNat % 2 ^ 32
  | 1 => if dbl then widen32 (c.litWord (rb.toNat % 4)).toNat zi else (c.litWord (rb.toNat % 4)).toNat
  | _ => if dbl then widen32 (c.konst rb.toNat).toNat zi else (c.konst rb.toNat).toNat

/-- A floating-point register operand (R204). -/
def Ctx.opF (c : Ctx) (cl : Cluster) (r : BitVec 5) (dbl : Bool) : Nat :=
  if dbl then (c.rd cl r).toNat else (c.rd cl r).toNat % 2 ^ 32

/-- The format of a scalar floating-point width (R206). -/
def ffOf (dbl : Bool) : FF := if dbl then ff64 else ff32

/-! ### Apertures (R118) -/

def localSize : Nat := 0x1200000
def sharedBase : Nat := 0x10000000000
def sharedStride : Nat := 0x2000000
def clusterBase : Nat := 0x100000000000000
def globalBase : Nat := 0x1000000000000
def globalTop : Nat := 0x3000000000000

/-- The PSN and offset of a SHARED address, for a partition of np spindles. -/
def asShared (np a : Nat) : Option (Nat × Nat) :=
  if sharedBase ≤ a then
    let d := a - sharedBase
    let psn := d / sharedStride
    let off := d % sharedStride
    if psn < np ∧ off < localSize then some (psn, off) else none
  else none

/-- The module and offset of a CLUSTER address, for a domain of nm modules. -/
def asCluster (nm a : Nat) : Option (Nat × Nat) :=
  if clusterBase ≤ a then
    let d := a - clusterBase
    let m := d / 2 ^ 44
    if m < nm then some (m, d % 2 ^ 44) else none
  else none

def inLocal (a : Nat) : Bool := decide (a < localSize)
def inShared (np a : Nat) : Bool := (asShared np a).isSome
def inCluster (nm a : Nat) : Bool := (asCluster nm a).isSome
def inGlobal (a : Nat) : Bool := decide (globalBase ≤ a) && decide (a < globalTop)
def inAcc (np a : Nat) : Bool :=
  (inLocal a && decide (0x1000000 ≤ a)) || (match asShared np a with | some (_, off) => decide (0x1000000 ≤ off) | none => false)

/-- ATEST (R119). -/
def aperture (np nm : Nat) (ap : Nat) (a : Nat) : Bool :=
  match ap with
  | 0 => inLocal a
  | 1 => inShared np a
  | 2 => inCluster nm a
  | 3 => inAcc np a
  | _ => inGlobal a

/-- The result of ACVT when its condition fails (R119). -/
def acvtFail : Nat := 0xFFFFFFFFFFFFFFFF

/-- ACVT (R119). -/
def acvt (np nm : Nat) (fn : Nat) (a : Nat) : Nat :=
  match fn with
  | 0 => if inLocal a then a else acvtFail
  | 1 => match asShared np a with | some (psn, off) => psn * 2 ^ 32 + off | none => acvtFail
  | 2 => match asCluster nm a with | some (m, off) => m * 2 ^ 48 + off | none => acvtFail
  | 3 => if inLocal a then a else acvtFail
  | 4 =>
    if a / 2 ^ 32 < np ∧ a % 2 ^ 32 < localSize then
      sharedBase + a / 2 ^ 32 * sharedStride + a % 2 ^ 32 else acvtFail
  | _ =>
    if a / 2 ^ 48 < nm ∧ a / 2 ^ 44 % 16 = 0 then clusterBase + a / 2 ^ 48 * 2 ^ 44 + a % 2 ^ 44 else acvtFail

/-! ### The decode of an address (R184) -/

/-- What an effective address names: the own slice at a LOCAL offset, another spindle's slice, a GLOBAL offset, a
CLUSTER offset on a module, or nothing. -/
inductive Aim where
  | own (off : Nat)
  | remote (n : Nat) (off : Nat)
  | global (o : Nat)
  | cluster (m : Nat) (off : Nat)
  | bad
  deriving DecidableEq, Repr

/-- The decode of an address for spindle n's context (R184). -/
def State.aim (s : State) (c : Ctx) (a : Nat) : Aim :=
  if inLocal a then .own a
  else if inGlobal a then .global (a - globalBase)
  else
    match asShared (s.npOf c.partN) a with
    | some (psn, off) =>
      if psn = c.ident.psn.toNat then .own off
      else match s.physOf c.partN psn with
        | some n => .remote n off
        | none => .bad
    | none =>
      match asCluster s.pf.nmod.toNat a with
      | some (m, off) => .cluster m off
      | none => .bad

/-- Whether an address names the spindle's own scratchpad or accumulator, and where. -/
def Aim.ownOff : Aim → Option Nat
  | .own off => some off
  | _ => none

/-! ### Translation (R325 to R332) -/

/-- A leaf entry's fields (R326). -/
def leafW (e : Word) : Bool := e.getLsbD 2
def leafTR (e : Word) : Bool := e.getLsbD 3
def leafPIN (e : Word) : Bool := e.getLsbD 4
def leafHOST (e : Word) : Bool := e.getLsbD 5
def leafPERS (e : Word) : Bool := e.getLsbD 6
def leafSHP (e : Word) : Bool := e.getLsbD 7
def leafAddr (e : Word) : Nat := e.toNat % 2 ^ 60 / 256 * 256

/-- Whether a leaf for a page of a size is malformed (R326); `second` marks the second tier. -/
def leafMalformed (e : Word) (size : Nat) (second : Bool) : Bool :=
  let pa := leafAddr e
  pa % size != 0 || e.toNat / 2 ^ 60 != 0
    || (leafHOST e && (leafTR e || leafPERS e || leafSHP e))
    || (!second && !leafHOST e && !isHbm pa)
    || (second && (leafHOST e || !isCxl pa))

/-- A found page: its first offset, its size and its entry. -/
structure Leaf where
  base : Nat
  size : Nat
  entry : Word
  deriving DecidableEq, Repr

/-- The levels of the table below L3: the lowest index bit and the number of entries (R325). -/
def walkLevels : List (Nat × Nat) := [(39, 1024), (30, 512), (21, 512), (16, 32)]

/-- The walk of a partition's table for an offset: the leaf, or none where an entry is invalid or malformed (R328). -/
def walkFrom (m : Memory) (o : Nat) : List (Nat × Nat) → Nat → Option Leaf
  | [], _ => none
  | (lo, n) :: ls, table =>
    let e : Word := BitVec.ofNat 64 (ofBytesLE (m.read (table + 8 * (o / 2 ^ lo % n)) 8))
    if !e.getLsbD 0 then none
    else if e.getLsbD 1 then
      if lo = 39 then none
      else if leafMalformed e (2 ^ lo) (decide (2 ^ 48 ≤ o)) then none
      else some ⟨o / 2 ^ lo * 2 ^ lo, 2 ^ lo, e⟩
    else if ls.isEmpty || e.toNat / 2 ^ 60 != 0 then none
    else walkFrom m o ls (leafAddr e)

/-- The leaf that a partition's table gives for an offset (R325, R327). -/
def State.walk (s : State) (p o : Nat) : Option Leaf :=
  let cfg := (s.part p).cfg
  if cfg.en then walkFrom s.mem o walkLevels (cfg.root.toNat * 8192) else none

/-- The translation that a die's unit holds for an offset (R328). -/
def State.heldFor (s : State) (die p o : Nat) : Option Held :=
  s.held.find? fun h => h.die == die && h.part == p && decide (h.base ≤ o) && decide (o < h.base + h.size)

/-- The location that a leaf maps an offset to. -/
def leafLoc (e : Word) (base o : Nat) : Loc :=
  if leafHOST e then .host (leafAddr e + (o - base)) else .phys (leafAddr e + (o - base))

/-- The outcome of translating an access (R328). -/
inductive Xlate where
  | hit (l : Loc) (entry : Word)
  | miss
  | fault
  deriving DecidableEq, Repr

/-- Translation of a GLOBAL offset for a task on a die (R327, R328): a miss of a strict context faults; a write needs W;
an SHP leaf is invalid for every access; a walk that failed for this page has left its mark. -/
def State.xlate (s : State) (die p o : Nat) (write strict : Bool) : Xlate :=
  if !(s.part p).cfg.en then .fault
  else
    match s.heldFor die p o with
    | some h =>
      if leafSHP h.entry || (write && !leafW h.entry) then .fault else .hit (leafLoc h.entry h.base o) h.entry
    | none =>
      if strict then .fault
      else if s.walks.any fun w => w.die == die && w.part == p && w.failed && w.off / 65536 == o / 65536 then .fault
      else .miss

/-- Asks a die's unit for a walk (R328). -/
def State.askWalk (s : State) (die p o : Nat) : State :=
  let w : Walk := { die := die, part := p, off := o / 65536 * 65536 }
  if s.walks.contains w then s else { s with walks := s.walks ++ [w] }

/-- Whether the CLUSTER map of a partition reaches a module (R327, R330). -/
def State.clusterByte (s : State) (p m : Nat) : BitVec 7 :=
  (s.part p).cfg.cluster[m % 64]'(Nat.mod_lt _ (by decide))

/-! ### Presence (R346, R350) -/

/-- The presence block of a LOCAL offset (R163, R186). -/
def blockOf (off : Nat) : Nat := if off < 0x1000000 then 38 + off / 65536 else 6 + (off - 0x1000000) / 65536

/-- Whether a block of the resident context is not there: absent, or owed by a context that left the spindle. -/
def Spindle.missing (sp : Spindle) (b : Nat) : Bool :=
  sp.absent.any (fun p => p.1 == b) || sp.owed.any fun p => p.1 == b && p.2 != sp.ctx.id

/-- Asks for the pull of a block. -/
def State.askBlock (s : State) (n b : Nat) : State :=
  s.modSp n fun sp => if sp.want.contains b then sp else { sp with want := sp.want ++ [b] }

/-- The blocks, among those listed, that are not there. -/
def State.missingOf (s : State) (n : Nat) (bs : List Nat) : List Nat :=
  let sp := s.sp n
  if sp.absent.isEmpty && sp.owed.isEmpty then [] else bs.filter sp.missing

/-- Asks for the pulls of blocks. -/
def State.askBlocks (s : State) (n : Nat) (bs : List Nat) : State := bs.foldl (fun s b => s.askBlock n b) s

/-- The register block of a cluster and of a 6-bit register field (R344). -/
def regBlock (cl : Cluster) : Nat := match cl with | .x => 0 | .y => 1
def regBlock6 (r : BitVec 6) : Nat := if r.toNat < 32 then 0 else 1

/-- What a CLUSTER offset names on its destination module (R330), for the partition that the map names there. -/
def State.farPlace (s : State) (p off : Nat) (write : Bool) : Option Loc :=
  if off < 2 ^ 43 then
    match asShared (s.npOf p) off with
    | some (psn, o) => (s.physOf p psn).map fun n => Loc.slice n o
    | none => none
  else
    match s.walk p (off - 2 ^ 43) with
    | some l =>
      if leafHOST l.entry || leafSHP l.entry || (write && !leafW l.entry) then none
      else some (leafLoc l.entry l.base (off - 2 ^ 43))
    | none => none

/-- The partition reached on a module (R327). -/
def State.farPart (s : State) (p m : Nat) : Nat := ((s.clusterByte p m).extractLsb' 0 6).toNat

end Sys2Proof.Machine
end

