-- ==== Sys2Proof/Machine/Flags.lean ====
section
/-!
DEFINITION. The flag computations: which flags FEN enables (R136, R212), when FSTAT shows them (R136), and the flags of
comparisons (R171, R209). The flags of rounding and conversion are part of the results of Numbers (R148 to R155).
-/

namespace Sys2Proof.Machine

/-- The flags that FEN enables (R136, R212). -/
def enabled (fl : BitVec 9) (fen : BitVec 5) : Bool := fl.setWidth 5 &&& fen != 0

/-- Flags of a word that issues: seen from the next cycle (R136). -/
def State.raiseFlags (s : State) (fl : BitVec 9) : State := if fl = 0 then s else s.pend 1 [.flags fl]

/-- FPCMP (R209): the truth of a condition, 0 EQ, 1 LT, 2 LE, 3 UN. -/
def fcmpTruth (cond : Nat) (a b : FVal) : Bool :=
  match cond with
  | 0 => a.eqv b
  | 1 => a.lt b
  | 2 => a.lt b || a.eqv b
  | _ => a.isNan || b.isNan

/-- The flags of FPCMP: LT and LE raise NV on any NaN, EQ and UN on a signalling one (R209). -/
def fcmpFlags (cond : Nat) (a b : FVal) : BitVec 9 :=
  if cond = 1 ∨ cond = 2 then flagIf (a.isNan || b.isNan) fNV else flagIf (a.sig || b.sig) fNV

end Sys2Proof.Machine
end

