-- ==== Sys2Proof/Machine/Issue.lean ====
section
/-!
DEFINITION. The issue of one slot word (R74, R78, R212, R311): its issue-time checks, the waits that freeze it, the
floating-point flags it raises, and the state it leaves. `commit` turns an issue into the outcome of the word alone;
the bundle of `Step` looks at the issues of all its words first.
-/

namespace Sys2Proof.Machine

/-- The kinds of wait of R323. -/
def wREMOTE : Nat := 1
def wENGINE : Nat := 2
def wBOBBIN : Nat := 3
def wSYNC : Nat := 4
def wBANK : Nat := 5
def wBLOCK : Nat := 6
def wXLATE : Nat := 7
def wTAG : Nat := 8
def wHANDLER : Nat := 9
def wIDLE : Nat := 10
def wORDER : Nat := 11
def wSTREAM : Nat := 12
def wLIMIT : Nat := 13
def wTEND : Nat := 14

/-- Beside another kind, the mark of a wait that has no declared bound (R294). -/
def wUNBOUND : Nat := 15

/-- One word at issue: the trap of its first failing check, or the kind of wait that keeps it from issuing with the
state that has asked for what it waits for, or its flags and the state after it. -/
inductive Issue where
  /-- A check fails: the trap is raised before any slot takes effect. -/
  | trap (t : Trap)
  /-- The word freezes (R74): the kinds of its causes and the state with its requests made. -/
  | wait (kinds : List Nat) (s : State)
  /-- The word idles in a timed domain (R293). -/
  | idle (s : State)
  /-- The word issues: flags, the word for TVAL of FPX, whether its flags were checked before (R182), the state after. -/
  | go (fl : BitVec 9) (word : Word) (fused : Bool) (s : State)

/-- A word that issues and raises no flag. -/
def Issue.ok (s : State) : Issue := .go 0 0 false s

/-- A trap at the current bundle. -/
def State.trapHere (s : State) (code slot : Nat) (val : Word) : Trap :=
  { code := code, slot := slot, val := val, epc := s.c.bun.start.setWidth 16 }

def State.raise (s : State) (code slot : Nat) (val : Word) : Issue := .trap (s.trapHere code slot val)

/-- The word of an instruction as TVAL holds it. -/
def wordOf (i : Instr) : Word := (encode i).setWidth 64

/-- FPX (R212): FSTAT receives the flags at once, and the trap is taken. -/
def State.takeFpx (s : State) (slot : Nat) (word : Word) (fl : BitVec 9) : State :=
  let tr := s.trapHere tFPX slot word
  (s.modC fun c => c.setFlags fl).takeTrap s.cur tr

/-- The outcome of one word. -/
def commit (slot : Nat) (s : State) (i : Issue) : Host.Outcome State Fault Refusal :=
  match i with
  | .trap t => .next (s.takeTrap s.cur t)
  | .wait _ s' => .next s'
  | .idle s' => .next s'
  | .go fl word fused s' =>
    if !fused && enabled fl s.c.ctl.fen then .next (s.takeFpx slot word fl) else .next (s'.raiseFlags fl)

/-- A word that touches the listed presence blocks (R346): it freezes until they are there. -/
def Issue.touching (s : State) (bs : List Nat) (k : Issue) : Issue :=
  if (s.missingOf s.cur bs).isEmpty then k else .wait [wBLOCK] (s.askBlocks s.cur (s.missingOf s.cur bs))

/-- The number of a cluster's slot (R77). -/
def slotNo (cl : Cluster) : Nat := match cl with | .x => 0 | .y => 1

end Sys2Proof.Machine
end

