-- ==== Sys2Proof/Machine/Fetch.lean ====
section
/-!
DEFINITION. Fetch: the code of the resident task, bundle headers and lock prefixes (R62 to R71), and the next start
after a bundle (R63, R125).
-/

namespace Sys2Proof.Machine

/-- The segment from which spindle n fetches. -/
def State.segOf (s : State) (n : Nat) : Option Segment := (s.stand (standOf n)).segs.find? fun g => g.id == (s.sp n).seg

/-- CODEWORDS of the resident task's segment. -/
def State.codeWords (s : State) (n : Nat) : Nat := match s.segOf n with | some g => g.code.length | none => 0

/-- The word at a segment-relative address, and its head bit (R62). -/
def State.codeWord (s : State) (n a : Nat) : BitVec 32 := match s.segOf n with | some g => g.code.getD a 0 | none => 0
def State.headBit (s : State) (n a : Nat) : Bool := match s.segOf n with | some g => g.heads.getD a false | none => false

/-- The header kind HK of a word (R67). -/
def hkOf (w : BitVec 32) : Nat := (w.extractLsb' 29 3).toNat

/-- An ordinary header (R67). -/
structure Hdr where
  mark : Bool
  lit : Nat
  mask : BitVec 7
  stamp : BitVec 16
  deriving DecidableEq, Repr

def hdrOf (w : BitVec 32) : Hdr where
  mark := w.getLsbD 28
  lit := (w.extractLsb' 26 2).toNat
  mask := w.extractLsb' 19 7
  stamp := w.extractLsb' 0 16

/-- Whether the header names a slot: bit 25 is SX, bit 19 is CY (R67). -/
def Hdr.has (h : Hdr) (sl : Slot) : Bool :=
  match sl with
  | .sx => h.mask.getLsbD 6
  | .sy => h.mask.getLsbD 5
  | .vx => h.mask.getLsbD 4
  | .ls => h.mask.getLsbD 3
  | .mx => h.mask.getLsbD 2
  | .cp => h.mask.getLsbD 1
  | .cy => h.mask.getLsbD 0

/-- The slots in the order of R68, and their numbers in TSLOT (R77). -/
def slotOrder : List Slot := [.sx, .sy, .vx, .ls, .mx, .cp, .cy]

def slotNum : Slot → Nat
  | .sx => 0
  | .sy => 1
  | .vx => 2
  | .ls => 3
  | .mx => 4
  | .cp => 5
  | .cy => 6

/-- The slots that a header names, in the order of R68. -/
def Hdr.slots (h : Hdr) : List Slot := slotOrder.filter h.has

/-- L of R63. -/
def Hdr.len (h : Hdr) : Nat := 1 + h.slots.length + h.lit

/-- The address of the ordinary header of the bundle that starts at an address, past its lock prefix (R67, R70). -/
def State.hdrAddr (s : State) (n a : Nat) : Nat := if s.headBit n a && hkOf (s.codeWord n a) == 1 then a + 1 else a

/-- The word after the bundle that starts at an address (R63, R125). -/
def State.endOf (s : State) (n a : Nat) : Nat :=
  if a < s.codeWords n then s.hdrAddr n a + (hdrOf (s.codeWord n (s.hdrAddr n a))).len else a

/-- The bank-lock prefix: N, GA, MASKA, GB, MASKB (R70). -/
def prefixOf (w : BitVec 32) : Nat × LockRun :=
  ((w.extractLsb' 26 3).toNat,
    { left := (w.extractLsb' 26 3).toNat, ga := w.extractLsb' 24 2, maska := w.extractLsb' 16 8,
      gb := w.extractLsb' 14 2, maskb := w.extractLsb' 6 8 })

/-- Whether a prefix is legal in itself (R70). -/
def prefixOk (w : BitVec 32) : Bool :=
  let (n, l) := prefixOf w
  n != 0 && l.maska != 0 && !(l.ga == l.gb && l.maskb != 0) && w.extractLsb' 0 6 == 0

/-- Whether an ordinary header is legal in itself (R67, R68). -/
def hdrOk (w : BitVec 32) : Bool :=
  w.extractLsb' 16 3 == 0 && ((hdrOf w).mask != 0 || (hdrOf w).lit == 0)

/-- The presence block of an instruction-store word (R66). -/
def codeBlock (a : Nat) : Nat := 294 + a / 4096 % 16

/-- The presence blocks of the words that say where the bundle at an address ends (R66, R125). -/
def State.endBlocks (s : State) (n a : Nat) : List Nat :=
  if a < s.codeWords n then [codeBlock a, codeBlock (s.hdrAddr n a)].eraseDups else []

/-- The code blocks of 1 KiB that words touch (R22). -/
def tagBlocks (a n : Nat) : List Nat := if n = 0 then [] else rangeFrom (a / 256) ((a + n - 1) / 256 - a / 256 + 1)

end Sys2Proof.Machine
end

