-- ==== Sys2Proof/Machine/Scalar.lean ====
section
/-!
DEFINITION. The scalar integer words: moves, arithmetic, predicates and control registers (R84, R92 to R99, R107 to
R120). Each word is an issue (its checks and the state after it) and the meaning that commits it.
-/

namespace Sys2Proof.Machine

/-! ### Shapes -/

/-- The presence block that a guard touches (R81, R106). -/
def guardBlocks (g : BitVec 4) : List Nat := if BitVec.ofNat 3 g.toNat = 0 then [] else [2]

/-- The presence block of a constant operand (R94). -/
def bkBlocks (bk : BitVec 2) : List Nat := if bk = 2 then [5] else []

/-- A guarded scalar word: with a false guard it has no effect (R107); then the blocks that it touches (R120). -/
def State.guarded (s : State) (g : BitVec 4) (bs : List Nat) (k : Issue) : Issue :=
  Issue.touching s (guardBlocks g) (if s.c.guard g then Issue.touching s bs k else .ok s)

/-- A result of latency lat in a register of the slot's cluster. -/
def State.toReg (s : State) (cl : Cluster) (rd : BitVec 5) (lat : Nat) (v : Word) : Issue :=
  .ok (s.pend lat [landReg cl rd v])

/-- A word that computes from registers a and operand b (R108, R111). -/
def State.aluB (s : State) (cl : Cluster) (rd ra rb : BitVec 5) (bk : BitVec 2) (g : BitVec 4) (lat : Nat)
    (f : Word → Word → Word) : Issue :=
  s.guarded g (regBlock cl :: bkBlocks bk) (s.toReg cl rd lat (f (s.c.rd cl ra) (s.c.opB cl rb bk)))

/-- A word that computes from one register (R108, R110, R119, R210). -/
def State.aluA (s : State) (cl : Cluster) (rd ra : BitVec 5) (g : BitVec 4) (lat : Nat) (f : Word → Word) : Issue :=
  s.guarded g [regBlock cl] (s.toReg cl rd lat (f (s.c.rd cl ra)))

/-- A word that writes a predicate (R112, R113, R119): latency 1. -/
def State.toPred (s : State) (pd : BitVec 3) (b : Bool) : Issue := .ok (s.pend 1 [.p pd b])

/-! ### Integer results -/

/-- A 32-bit result, sign-extended. -/
def word32 (v : BitVec 32) : Word := v.signExtend 64

/-- 1 or 0. -/
def boolWord (b : Bool) : Word := if b then 1 else 0

/-- The number of leading zeros. -/
def clz64 (a : Word) : Word := if a = 0 then 64 else BitVec.ofNat 64 (63 - Nat.log2 a.toNat)

/-- The number of set bits. -/
def popc64 (a : Word) : Word := BitVec.ofNat 64 ((List.range 64).countP fun i => a.getLsbD i)

/-- The comparison conditions 0 to 5 of PCMP (R112). -/
def condOf (k : Nat) (a b : Word) : Bool :=
  match k with
  | 0 => a == b
  | 1 => a != b
  | 2 => BitVec.slt a b
  | 3 => !BitVec.slt a b
  | 4 => BitVec.ult a b
  | _ => !BitVec.ult a b

/-- The upper half of a product (R111). -/
def mulHigh (a b : Int) : Word := BitVec.ofInt 64 (a * b / 2 ^ 64)

/-- Division and remainder with the edge cases of R111. -/
def divS (a b : Word) : Word := if b = 0 then BitVec.allOnes 64 else BitVec.ofInt 64 (Int.tdiv a.toInt b.toInt)
def divU (a b : Word) : Word := if b = 0 then BitVec.allOnes 64 else BitVec.ofNat 64 (a.toNat / b.toNat)
def remS (a b : Word) : Word := if b = 0 then a else BitVec.ofInt 64 (Int.tmod a.toInt b.toInt)
def remU (a b : Word) : Word := if b = 0 then a else BitVec.ofNat 64 (a.toNat % b.toNat)

/-- Shift amounts (R108). -/
def sh6 (b : Word) : Nat := b.toNat % 64
def sh5 (b : Word) : Nat := b.toNat % 32

/-! ### The words -/

/-- NOP has no effect on visible state (R84). -/
def issueNop (_sl : Slot) (s : State) : Issue :=
  .ok s

def execNop (sl : Slot) (s : State) : Host.Outcome State Fault Refusal :=
  commit (slotNum sl) s (issueNop sl s)

/-- ADD (R108). -/
def issueAdd (cl : Cluster) (rd : BitVec 5) (ra : BitVec 5) (rb : BitVec 5) (bk : BitVec 2) (g : BitVec 4) (s : State) : Issue :=
  s.aluB cl rd ra rb bk g 1 fun a b => a + b

def execAdd (cl : Cluster) (rd : BitVec 5) (ra : BitVec 5) (rb : BitVec 5) (bk : BitVec 2) (g : BitVec 4) (s : State) : Host.Outcome State Fault Refusal :=
  commit (slotNo cl) s (issueAdd cl rd ra rb bk g s)

/-- SUB (R108). -/
def issueSub (cl : Cluster) (rd : BitVec 5) (ra : BitVec 5) (rb : BitVec 5) (bk : BitVec 2) (g : BitVec 4) (s : State) : Issue :=
  s.aluB cl rd ra rb bk g 1 fun a b => a - b

def execSub (cl : Cluster) (rd : BitVec 5) (ra : BitVec 5) (rb : BitVec 5) (bk : BitVec 2) (g : BitVec 4) (s : State) : Host.Outcome State Fault Refusal :=
  commit (slotNo cl) s (issueSub cl rd ra rb bk g s)

/-- AND (R108). -/
def issueAnd (cl : Cluster) (rd : BitVec 5) (ra : BitVec 5) (rb : BitVec 5) (bk : BitVec 2) (g : BitVec 4) (s : State) : Issue :=
  s.aluB cl rd ra rb bk g 1 fun a b => a &&& b

def execAnd (cl : Cluster) (rd : BitVec 5) (ra : BitVec 5) (rb : BitVec 5) (bk : BitVec 2) (g : BitVec 4) (s : State) : Host.Outcome State Fault Refusal :=
  commit (slotNo cl) s (issueAnd cl rd ra rb bk g s)

/-- OR (R108). -/
def issueOr (cl : Cluster) (rd : BitVec 5) (ra : BitVec 5) (rb : BitVec 5) (bk : BitVec 2) (g : BitVec 4) (s : State) : Issue :=
  s.aluB cl rd ra rb bk g 1 fun a b => a ||| b

def execOr (cl : Cluster) (rd : BitVec 5) (ra : BitVec 5) (rb : BitVec 5) (bk : BitVec 2) (g : BitVec 4) (s : State) : Host.Outcome State Fault Refusal :=
  commit (slotNo cl) s (issueOr cl rd ra rb bk g s)

/-- XOR (R108). -/
def issueXor (cl : Cluster) (rd : BitVec 5) (ra : BitVec 5) (rb : BitVec 5) (bk : BitVec 2) (g : BitVec 4) (s : State) : Issue :=
  s.aluB cl rd ra rb bk g 1 fun a b => a ^^^ b

def execXor (cl : Cluster) (rd : BitVec 5) (ra : BitVec 5) (rb : BitVec 5) (bk : BitVec 2) (g : BitVec 4) (s : State) : Host.Outcome State Fault Refusal :=
  commit (slotNo cl) s (issueXor cl rd ra rb bk g s)

/-- ANDN (R108). -/
def issueAndn (cl : Cluster) (rd : BitVec 5) (ra : BitVec 5) (rb : BitVec 5) (bk : BitVec 2) (g : BitVec 4) (s : State) : Issue :=
  s.aluB cl rd ra rb bk g 1 fun a b => a &&& ~~~b

def execAndn (cl : Cluster) (rd : BitVec 5) (ra : BitVec 5) (rb : BitVec 5) (bk : BitVec 2) (g : BitVec 4) (s : State) : Host.Outcome State Fault Refusal :=
  commit (slotNo cl) s (issueAndn cl rd ra rb bk g s)

/-- SLL (R108). -/
def issueSll (cl : Cluster) (rd : BitVec 5) (ra : BitVec 5) (rb : BitVec 5) (bk : BitVec 2) (g : BitVec 4) (s : State) : Issue :=
  s.aluB cl rd ra rb bk g 1 fun a b => a <<< sh6 b

def execSll (cl : Cluster) (rd : BitVec 5) (ra : BitVec 5) (rb : BitVec 5) (bk : BitVec 2) (g : BitVec 4) (s : State) : Host.Outcome State Fault Refusal :=
  commit (slotNo cl) s (issueSll cl rd ra rb bk g s)

/-- SRL (R108). -/
def issueSrl (cl : Cluster) (rd : BitVec 5) (ra : BitVec 5) (rb : BitVec 5) (bk : BitVec 2) (g : BitVec 4) (s : State) : Issue :=
  s.aluB cl rd ra rb bk g 1 fun a b => a >>> sh6 b

def execSrl (cl : Cluster) (rd : BitVec 5) (ra : BitVec 5) (rb : BitVec 5) (bk : BitVec 2) (g : BitVec 4) (s : State) : Host.Outcome State Fault Refusal :=
  commit (slotNo cl) s (issueSrl cl rd ra rb bk g s)

/-- SRA (R108). -/
def issueSra (cl : Cluster) (rd : BitVec 5) (ra : BitVec 5) (rb : BitVec 5) (bk : BitVec 2) (g : BitVec 4) (s : State) : Issue :=
  s.aluB cl rd ra rb bk g 1 fun a b => a.sshiftRight (sh6 b)

def execSra (cl : Cluster) (rd : BitVec 5) (ra : BitVec 5) (rb : BitVec 5) (bk : BitVec 2) (g : BitVec 4) (s : State) : Host.Outcome State Fault Refusal :=
  commit (slotNo cl) s (issueSra cl rd ra rb bk g s)

/-- SLT (R108). -/
def issueSlt (cl : Cluster) (rd : BitVec 5) (ra : BitVec 5) (rb : BitVec 5) (bk : BitVec 2) (g : BitVec 4) (s : State) : Issue :=
  s.aluB cl rd ra rb bk g 1 fun a b => boolWord (BitVec.slt a b)

def execSlt (cl : Cluster) (rd : BitVec 5) (ra : BitVec 5) (rb : BitVec 5) (bk : BitVec 2) (g : BitVec 4) (s : State) : Host.Outcome State Fault Refusal :=
  commit (slotNo cl) s (issueSlt cl rd ra rb bk g s)

/-- SLTU (R108). -/
def issueSltu (cl : Cluster) (rd : BitVec 5) (ra : BitVec 5) (rb : BitVec 5) (bk : BitVec 2) (g : BitVec 4) (s : State) : Issue :=
  s.aluB cl rd ra rb bk g 1 fun a b => boolWord (BitVec.ult a b)

def execSltu (cl : Cluster) (rd : BitVec 5) (ra : BitVec 5) (rb : BitVec 5) (bk : BitVec 2) (g : BitVec 4) (s : State) : Host.Outcome State Fault Refusal :=
  commit (slotNo cl) s (issueSltu cl rd ra rb bk g s)

/-- MIN (R108). -/
def issueMin (cl : Cluster) (rd : BitVec 5) (ra : BitVec 5) (rb : BitVec 5) (bk : BitVec 2) (g : BitVec 4) (s : State) : Issue :=
  s.aluB cl rd ra rb bk g 1 fun a b => if BitVec.slt a b then a else b

def execMin (cl : Cluster) (rd : BitVec 5) (ra : BitVec 5) (rb : BitVec 5) (bk : BitVec 2) (g : BitVec 4) (s : State) : Host.Outcome State Fault Refusal :=
  commit (slotNo cl) s (issueMin cl rd ra rb bk g s)

/-- MAX (R108). -/
def issueMax (cl : Cluster) (rd : BitVec 5) (ra : BitVec 5) (rb : BitVec 5) (bk : BitVec 2) (g : BitVec 4) (s : State) : Issue :=
  s.aluB cl rd ra rb bk g 1 fun a b => if BitVec.slt a b then b else a

def execMax (cl : Cluster) (rd : BitVec 5) (ra : BitVec 5) (rb : BitVec 5) (bk : BitVec 2) (g : BitVec 4) (s : State) : Host.Outcome State Fault Refusal :=
  commit (slotNo cl) s (issueMax cl rd ra rb bk g s)

/-- MINU (R108). -/
def issueMinu (cl : Cluster) (rd : BitVec 5) (ra : BitVec 5) (rb : BitVec 5) (bk : BitVec 2) (g : BitVec 4) (s : State) : Issue :=
  s.aluB cl rd ra rb bk g 1 fun a b => if BitVec.ult a b then a else b

def execMinu (cl : Cluster) (rd : BitVec 5) (ra : BitVec 5) (rb : BitVec 5) (bk : BitVec 2) (g : BitVec 4) (s : State) : Host.Outcome State Fault Refusal :=
  commit (slotNo cl) s (issueMinu cl rd ra rb bk g s)

/-- MAXU (R108). -/
def issueMaxu (cl : Cluster) (rd : BitVec 5) (ra : BitVec 5) (rb : BitVec 5) (bk : BitVec 2) (g : BitVec 4) (s : State) : Issue :=
  s.aluB cl rd ra rb bk g 1 fun a b => if BitVec.ult a b then b else a

def execMaxu (cl : Cluster) (rd : BitVec 5) (ra : BitVec 5) (rb : BitVec 5) (bk : BitVec 2) (g : BitVec 4) (s : State) : Host.Outcome State Fault Refusal :=
  commit (slotNo cl) s (issueMaxu cl rd ra rb bk g s)

/-- CLZ (R108). -/
def issueClz (cl : Cluster) (rd : BitVec 5) (ra : BitVec 5) (g : BitVec 4) (s : State) : Issue :=
  s.aluA cl rd ra g 1 clz64

def execClz (cl : Cluster) (rd : BitVec 5) (ra : BitVec 5) (g : BitVec 4) (s : State) : Host.Outcome State Fault Refusal :=
  commit (slotNo cl) s (issueClz cl rd ra g s)

/-- POPC (R108). -/
def issuePopc (cl : Cluster) (rd : BitVec 5) (ra : BitVec 5) (g : BitVec 4) (s : State) : Issue :=
  s.aluA cl rd ra g 1 popc64

def execPopc (cl : Cluster) (rd : BitVec 5) (ra : BitVec 5) (g : BitVec 4) (s : State) : Host.Outcome State Fault Refusal :=
  commit (slotNo cl) s (issuePopc cl rd ra g s)

/-- ADDW (R108). -/
def issueAddw (cl : Cluster) (rd : BitVec 5) (ra : BitVec 5) (rb : BitVec 5) (bk : BitVec 2) (g : BitVec 4) (s : State) : Issue :=
  s.aluB cl rd ra rb bk g 1 fun a b => word32 ((a + b).setWidth 32)

def execAddw (cl : Cluster) (rd : BitVec 5) (ra : BitVec 5) (rb : BitVec 5) (bk : BitVec 2) (g : BitVec 4) (s : State) : Host.Outcome State Fault Refusal :=
  commit (slotNo cl) s (issueAddw cl rd ra rb bk g s)

/-- SUBW (R108). -/
def issueSubw (cl : Cluster) (rd : BitVec 5) (ra : BitVec 5) (rb : BitVec 5) (bk : BitVec 2) (g : BitVec 4) (s : State) : Issue :=
  s.aluB cl rd ra rb bk g 1 fun a b => word32 ((a - b).setWidth 32)

def execSubw (cl : Cluster) (rd : BitVec 5) (ra : BitVec 5) (rb : BitVec 5) (bk : BitVec 2) (g : BitVec 4) (s : State) : Host.Outcome State Fault Refusal :=
  commit (slotNo cl) s (issueSubw cl rd ra rb bk g s)

/-- SLLW (R108). -/
def issueSllw (cl : Cluster) (rd : BitVec 5) (ra : BitVec 5) (rb : BitVec 5) (bk : BitVec 2) (g : BitVec 4) (s : State) : Issue :=
  s.aluB cl rd ra rb bk g 1 fun a b => word32 (a.setWidth 32 <<< sh5 b)

def execSllw (cl : Cluster) (rd : BitVec 5) (ra : BitVec 5) (rb : BitVec 5) (bk : BitVec 2) (g : BitVec 4) (s : State) : Host.Outcome State Fault Refusal :=
  commit (slotNo cl) s (issueSllw cl rd ra rb bk g s)

/-- SRLW (R108). -/
def issueSrlw (cl : Cluster) (rd : BitVec 5) (ra : BitVec 5) (rb : BitVec 5) (bk : BitVec 2) (g : BitVec 4) (s : State) : Issue :=
  s.aluB cl rd ra rb bk g 1 fun a b => word32 (a.setWidth 32 >>> sh5 b)

def execSrlw (cl : Cluster) (rd : BitVec 5) (ra : BitVec 5) (rb : BitVec 5) (bk : BitVec 2) (g : BitVec 4) (s : State) : Host.Outcome State Fault Refusal :=
  commit (slotNo cl) s (issueSrlw cl rd ra rb bk g s)

/-- SRAW (R108). -/
def issueSraw (cl : Cluster) (rd : BitVec 5) (ra : BitVec 5) (rb : BitVec 5) (bk : BitVec 2) (g : BitVec 4) (s : State) : Issue :=
  s.aluB cl rd ra rb bk g 1 fun a b => word32 ((a.setWidth 32).sshiftRight (sh5 b))

def execSraw (cl : Cluster) (rd : BitVec 5) (ra : BitVec 5) (rb : BitVec 5) (bk : BitVec 2) (g : BitVec 4) (s : State) : Host.Outcome State Fault Refusal :=
  commit (slotNo cl) s (issueSraw cl rd ra rb bk g s)

/-- HASH (R108, R109). -/
def issueHash (cl : Cluster) (rd : BitVec 5) (ra : BitVec 5) (rb : BitVec 5) (bk : BitVec 2) (g : BitVec 4) (s : State) : Issue :=
  s.aluB cl rd ra rb bk g 1 fun a b => (hash32 (a.setWidth 32) (b.setWidth 32)).setWidth 64

def execHash (cl : Cluster) (rd : BitVec 5) (ra : BitVec 5) (rb : BitVec 5) (bk : BitVec 2) (g : BitVec 4) (s : State) : Host.Outcome State Fault Refusal :=
  commit (slotNo cl) s (issueHash cl rd ra rb bk g s)

/-- MUL (R111). -/
def issueMul (cl : Cluster) (rd : BitVec 5) (ra : BitVec 5) (rb : BitVec 5) (bk : BitVec 2) (g : BitVec 4) (s : State) : Issue :=
  s.aluB cl rd ra rb bk g 3 fun a b => a * b

def execMul (cl : Cluster) (rd : BitVec 5) (ra : BitVec 5) (rb : BitVec 5) (bk : BitVec 2) (g : BitVec 4) (s : State) : Host.Outcome State Fault Refusal :=
  commit (slotNo cl) s (issueMul cl rd ra rb bk g s)

/-- MULH (R111). -/
def issueMulh (cl : Cluster) (rd : BitVec 5) (ra : BitVec 5) (rb : BitVec 5) (bk : BitVec 2) (g : BitVec 4) (s : State) : Issue :=
  s.aluB cl rd ra rb bk g 3 fun a b => mulHigh a.toInt b.toInt

def execMulh (cl : Cluster) (rd : BitVec 5) (ra : BitVec 5) (rb : BitVec 5) (bk : BitVec 2) (g : BitVec 4) (s : State) : Host.Outcome State Fault Refusal :=
  commit (slotNo cl) s (issueMulh cl rd ra rb bk g s)

/-- MULHU (R111). -/
def issueMulhu (cl : Cluster) (rd : BitVec 5) (ra : BitVec 5) (rb : BitVec 5) (bk : BitVec 2) (g : BitVec 4) (s : State) : Issue :=
  s.aluB cl rd ra rb bk g 3 fun a b => mulHigh a.toNat b.toNat

def execMulhu (cl : Cluster) (rd : BitVec 5) (ra : BitVec 5) (rb : BitVec 5) (bk : BitVec 2) (g : BitVec 4) (s : State) : Host.Outcome State Fault Refusal :=
  commit (slotNo cl) s (issueMulhu cl rd ra rb bk g s)

/-- MULW (R111). -/
def issueMulw (cl : Cluster) (rd : BitVec 5) (ra : BitVec 5) (rb : BitVec 5) (bk : BitVec 2) (g : BitVec 4) (s : State) : Issue :=
  s.aluB cl rd ra rb bk g 3 fun a b => word32 (a.setWidth 32 * b.setWidth 32)

def execMulw (cl : Cluster) (rd : BitVec 5) (ra : BitVec 5) (rb : BitVec 5) (bk : BitVec 2) (g : BitVec 4) (s : State) : Host.Outcome State Fault Refusal :=
  commit (slotNo cl) s (issueMulw cl rd ra rb bk g s)

/-- DIV in SY (R111). -/
def issueDiv (rd : BitVec 5) (ra : BitVec 5) (rb : BitVec 5) (bk : BitVec 2) (g : BitVec 4) (s : State) : Issue :=
  s.aluB .y rd ra rb bk g 14 divS

def execDiv (rd : BitVec 5) (ra : BitVec 5) (rb : BitVec 5) (bk : BitVec 2) (g : BitVec 4) (s : State) : Host.Outcome State Fault Refusal :=
  commit 1 s (issueDiv rd ra rb bk g s)

/-- DIVU in SY (R111). -/
def issueDivu (rd : BitVec 5) (ra : BitVec 5) (rb : BitVec 5) (bk : BitVec 2) (g : BitVec 4) (s : State) : Issue :=
  s.aluB .y rd ra rb bk g 14 divU

def execDivu (rd : BitVec 5) (ra : BitVec 5) (rb : BitVec 5) (bk : BitVec 2) (g : BitVec 4) (s : State) : Host.Outcome State Fault Refusal :=
  commit 1 s (issueDivu rd ra rb bk g s)

/-- REM in SY (R111). -/
def issueRem (rd : BitVec 5) (ra : BitVec 5) (rb : BitVec 5) (bk : BitVec 2) (g : BitVec 4) (s : State) : Issue :=
  s.aluB .y rd ra rb bk g 14 remS

def execRem (rd : BitVec 5) (ra : BitVec 5) (rb : BitVec 5) (bk : BitVec 2) (g : BitVec 4) (s : State) : Host.Outcome State Fault Refusal :=
  commit 1 s (issueRem rd ra rb bk g s)

/-- REMU in SY (R111). -/
def issueRemu (rd : BitVec 5) (ra : BitVec 5) (rb : BitVec 5) (bk : BitVec 2) (g : BitVec 4) (s : State) : Issue :=
  s.aluB .y rd ra rb bk g 14 remU

def execRemu (rd : BitVec 5) (ra : BitVec 5) (rb : BitVec 5) (bk : BitVec 2) (g : BitVec 4) (s : State) : Host.Outcome State Fault Refusal :=
  commit 1 s (issueRemu rd ra rb bk g s)

/-- ADDI (R110). -/
def issueAddi (cl : Cluster) (rd : BitVec 5) (ra : BitVec 5) (imm : BitVec 12) (g : BitVec 4) (s : State) : Issue :=
  s.aluA cl rd ra g 1 fun a => a + imm.signExtend 64

def execAddi (cl : Cluster) (rd : BitVec 5) (ra : BitVec 5) (imm : BitVec 12) (g : BitVec 4) (s : State) : Host.Outcome State Fault Refusal :=
  commit (slotNo cl) s (issueAddi cl rd ra imm g s)

/-- ANDI (R110). -/
def issueAndi (cl : Cluster) (rd : BitVec 5) (ra : BitVec 5) (imm : BitVec 12) (g : BitVec 4) (s : State) : Issue :=
  s.aluA cl rd ra g 1 fun a => a &&& imm.signExtend 64

def execAndi (cl : Cluster) (rd : BitVec 5) (ra : BitVec 5) (imm : BitVec 12) (g : BitVec 4) (s : State) : Host.Outcome State Fault Refusal :=
  commit (slotNo cl) s (issueAndi cl rd ra imm g s)

/-- ORI (R110). -/
def issueOri (cl : Cluster) (rd : BitVec 5) (ra : BitVec 5) (imm : BitVec 12) (g : BitVec 4) (s : State) : Issue :=
  s.aluA cl rd ra g 1 fun a => a ||| imm.signExtend 64

def execOri (cl : Cluster) (rd : BitVec 5) (ra : BitVec 5) (imm : BitVec 12) (g : BitVec 4) (s : State) : Host.Outcome State Fault Refusal :=
  commit (slotNo cl) s (issueOri cl rd ra imm g s)

/-- XORI (R110). -/
def issueXori (cl : Cluster) (rd : BitVec 5) (ra : BitVec 5) (imm : BitVec 12) (g : BitVec 4) (s : State) : Issue :=
  s.aluA cl rd ra g 1 fun a => a ^^^ imm.signExtend 64

def execXori (cl : Cluster) (rd : BitVec 5) (ra : BitVec 5) (imm : BitVec 12) (g : BitVec 4) (s : State) : Host.Outcome State Fault Refusal :=
  commit (slotNo cl) s (issueXori cl rd ra imm g s)

/-- SLLI (R110). -/
def issueSlli (cl : Cluster) (rd : BitVec 5) (ra : BitVec 5) (sh : BitVec 6) (g : BitVec 4) (s : State) : Issue :=
  s.aluA cl rd ra g 1 fun a => a <<< sh.toNat

def execSlli (cl : Cluster) (rd : BitVec 5) (ra : BitVec 5) (sh : BitVec 6) (g : BitVec 4) (s : State) : Host.Outcome State Fault Refusal :=
  commit (slotNo cl) s (issueSlli cl rd ra sh g s)

/-- SRLI (R110). -/
def issueSrli (cl : Cluster) (rd : BitVec 5) (ra : BitVec 5) (sh : BitVec 6) (g : BitVec 4) (s : State) : Issue :=
  s.aluA cl rd ra g 1 fun a => a >>> sh.toNat

def execSrli (cl : Cluster) (rd : BitVec 5) (ra : BitVec 5) (sh : BitVec 6) (g : BitVec 4) (s : State) : Host.Outcome State Fault Refusal :=
  commit (slotNo cl) s (issueSrli cl rd ra sh g s)

/-- SRAI (R110). -/
def issueSrai (cl : Cluster) (rd : BitVec 5) (ra : BitVec 5) (sh : BitVec 6) (g : BitVec 4) (s : State) : Issue :=
  s.aluA cl rd ra g 1 fun a => a.sshiftRight sh.toNat

def execSrai (cl : Cluster) (rd : BitVec 5) (ra : BitVec 5) (sh : BitVec 6) (g : BitVec 4) (s : State) : Host.Outcome State Fault Refusal :=
  commit (slotNo cl) s (issueSrai cl rd ra sh g s)

/-- SLTI (R110). -/
def issueSlti (cl : Cluster) (rd : BitVec 5) (ra : BitVec 5) (imm : BitVec 12) (g : BitVec 4) (s : State) : Issue :=
  s.aluA cl rd ra g 1 fun a => boolWord (BitVec.slt a (imm.signExtend 64))

def execSlti (cl : Cluster) (rd : BitVec 5) (ra : BitVec 5) (imm : BitVec 12) (g : BitVec 4) (s : State) : Host.Outcome State Fault Refusal :=
  commit (slotNo cl) s (issueSlti cl rd ra imm g s)

/-- LIMM (R96). -/
def issueLimm (cl : Cluster) (rd : BitVec 5) (imm : BitVec 20) (s : State) : Issue :=
  Issue.touching s [regBlock cl] (s.toReg cl rd 1 (imm.signExtend 64))

def execLimm (cl : Cluster) (rd : BitVec 5) (imm : BitVec 20) (s : State) : Host.Outcome State Fault Refusal :=
  commit (slotNo cl) s (issueLimm cl rd imm s)

/-- LIMMH (R96): the low 20 bits of rd as it stands at issue stay. -/
def issueLimmh (cl : Cluster) (rd : BitVec 5) (imm : BitVec 20) (s : State) : Issue :=
  Issue.touching s [regBlock cl] (s.toReg cl rd 1 ((imm.signExtend 64 <<< 20) ||| ((s.c.rd cl rd).setWidth 20).setWidth 64))

def execLimmh (cl : Cluster) (rd : BitVec 5) (imm : BitVec 20) (s : State) : Host.Outcome State Fault Refusal :=
  commit (slotNo cl) s (issueLimmh cl rd imm s)

/-- FIMM (R96). -/
def issueFimm (cl : Cluster) (rd : BitVec 5) (imm : BitVec 20) (s : State) : Issue :=
  Issue.touching s [regBlock cl] (s.toReg cl rd 1 (imm.setWidth 64 <<< 12))

def execFimm (cl : Cluster) (rd : BitVec 5) (imm : BitVec 20) (s : State) : Host.Outcome State Fault Refusal :=
  commit (slotNo cl) s (issueFimm cl rd imm s)

/-- LIT (R97). -/
def issueLit (cl : Cluster) (rd : BitVec 5) (num : BitVec 2) (s : State) : Issue :=
  Issue.touching s [regBlock cl] (s.toReg cl rd 1 ((s.c.litWord num.toNat).setWidth 64))

def execLit (cl : Cluster) (rd : BitVec 5) (num : BitVec 2) (s : State) : Host.Outcome State Fault Refusal :=
  commit (slotNo cl) s (issueLit cl rd num s)

/-- LIT.S (R97). -/
def issueLitS (cl : Cluster) (rd : BitVec 5) (num : BitVec 2) (s : State) : Issue :=
  Issue.touching s [regBlock cl] (s.toReg cl rd 1 ((s.c.litWord num.toNat).signExtend 64))

def execLitS (cl : Cluster) (rd : BitVec 5) (num : BitVec 2) (s : State) : Host.Outcome State Fault Refusal :=
  commit (slotNo cl) s (issueLitS cl rd num s)

/-- LIT.D (R97). -/
def issueLitD (cl : Cluster) (rd : BitVec 5) (num : BitVec 2) (s : State) : Issue :=
  Issue.touching s [regBlock cl] (s.toReg cl rd 1 ((s.c.litWord (num.toNat + 1)).setWidth 64 <<< 32 ||| (s.c.litWord num.toNat).setWidth 64))

def execLitD (cl : Cluster) (rd : BitVec 5) (num : BitVec 2) (s : State) : Host.Outcome State Fault Refusal :=
  commit (slotNo cl) s (issueLitD cl rd num s)

/-- KLD (R98). -/
def issueKld (cl : Cluster) (rd : BitVec 5) (idx : BitVec 8) (s : State) : Issue :=
  Issue.touching s [5, regBlock cl] (s.toReg cl rd 1 ((s.c.konst idx.toNat).setWidth 64))

def execKld (cl : Cluster) (rd : BitVec 5) (idx : BitVec 8) (s : State) : Host.Outcome State Fault Refusal :=
  commit (slotNo cl) s (issueKld cl rd idx s)

/-- PCMP (R112). -/
def issuePcmp (cl : Cluster) (pd : BitVec 3) (ra : BitVec 5) (rb : BitVec 5) (bk : BitVec 2) (cond : BitVec 5) (g : BitVec 4) (s : State) : Issue :=
  s.guarded g (regBlock cl :: 2 :: bkBlocks bk)
    (s.toPred pd (condOf cond.toNat (s.c.rd cl ra) (s.c.opB cl rb bk)))

def execPcmp (cl : Cluster) (pd : BitVec 3) (ra : BitVec 5) (rb : BitVec 5) (bk : BitVec 2) (cond : BitVec 5) (g : BitVec 4) (s : State) : Host.Outcome State Fault Refusal :=
  commit (slotNo cl) s (issuePcmp cl pd ra rb bk cond g s)

/-- PCMPI (R112). -/
def issuePcmpi (cl : Cluster) (pd : BitVec 3) (cond : BitVec 3) (ra : BitVec 5) (imm : BitVec 11) (g : BitVec 4) (s : State) : Issue :=
  s.guarded g [regBlock cl, 2] (s.toPred pd (condOf cond.toNat (s.c.rd cl ra) (imm.signExtend 64)))

def execPcmpi (cl : Cluster) (pd : BitVec 3) (cond : BitVec 3) (ra : BitVec 5) (imm : BitVec 11) (g : BitVec 4) (s : State) : Host.Outcome State Fault Refusal :=
  commit (slotNo cl) s (issuePcmpi cl pd cond ra imm g s)

/-- PAND (R113). -/
def issuePand (_cl : Cluster) (pd : BitVec 3) (pa : BitVec 3) (pb : BitVec 3) (g : BitVec 4) (s : State) : Issue :=
  s.guarded g [2] (s.toPred pd ((s.c.regs.rp pa) && (s.c.regs.rp pb)))

def execPand (cl : Cluster) (pd : BitVec 3) (pa : BitVec 3) (pb : BitVec 3) (g : BitVec 4) (s : State) : Host.Outcome State Fault Refusal :=
  commit (slotNo cl) s (issuePand cl pd pa pb g s)

/-- POR (R113). -/
def issuePor (_cl : Cluster) (pd : BitVec 3) (pa : BitVec 3) (pb : BitVec 3) (g : BitVec 4) (s : State) : Issue :=
  s.guarded g [2] (s.toPred pd ((s.c.regs.rp pa) || (s.c.regs.rp pb)))

def execPor (cl : Cluster) (pd : BitVec 3) (pa : BitVec 3) (pb : BitVec 3) (g : BitVec 4) (s : State) : Host.Outcome State Fault Refusal :=
  commit (slotNo cl) s (issuePor cl pd pa pb g s)

/-- PXOR (R113). -/
def issuePxor (_cl : Cluster) (pd : BitVec 3) (pa : BitVec 3) (pb : BitVec 3) (g : BitVec 4) (s : State) : Issue :=
  s.guarded g [2] (s.toPred pd ((s.c.regs.rp pa) != (s.c.regs.rp pb)))

def execPxor (cl : Cluster) (pd : BitVec 3) (pa : BitVec 3) (pb : BitVec 3) (g : BitVec 4) (s : State) : Host.Outcome State Fault Refusal :=
  commit (slotNo cl) s (issuePxor cl pd pa pb g s)

/-- PANDN (R113). -/
def issuePandn (_cl : Cluster) (pd : BitVec 3) (pa : BitVec 3) (pb : BitVec 3) (g : BitVec 4) (s : State) : Issue :=
  s.guarded g [2] (s.toPred pd ((s.c.regs.rp pa) && !(s.c.regs.rp pb)))

def execPandn (cl : Cluster) (pd : BitVec 3) (pa : BitVec 3) (pb : BitVec 3) (g : BitVec 4) (s : State) : Host.Outcome State Fault Refusal :=
  commit (slotNo cl) s (issuePandn cl pd pa pb g s)

/-- SEL (R114). -/
def issueSel (cl : Cluster) (rd : BitVec 5) (ra : BitVec 5) (rb : BitVec 5) (bk : BitVec 2) (pk : BitVec 3) (g : BitVec 4) (s : State) : Issue :=
  s.guarded g (regBlock cl :: 2 :: bkBlocks bk)
    (s.toReg cl rd 1 (if s.c.regs.rp pk then s.c.rd cl ra else s.c.opB cl rb bk))

def execSel (cl : Cluster) (rd : BitVec 5) (ra : BitVec 5) (rb : BitVec 5) (bk : BitVec 2) (pk : BitVec 3) (g : BitVec 4) (s : State) : Host.Outcome State Fault Refusal :=
  commit (slotNo cl) s (issueSel cl rd ra rb bk pk g s)

/-- The other cluster. -/
def otherCl (cl : Cluster) : Cluster := match cl with | .x => .y | .y => .x

/-- XMOV (R115): the other cluster's register, with latency 2. -/
def issueXmov (cl : Cluster) (rd : BitVec 5) (ra : BitVec 5) (g : BitVec 4) (s : State) : Issue :=
  s.guarded g [regBlock (otherCl cl), regBlock cl] (s.toReg cl rd 2 (s.c.rd (otherCl cl) ra))

def execXmov (cl : Cluster) (rd : BitVec 5) (ra : BitVec 5) (g : BitVec 4) (s : State) : Host.Outcome State Fault Refusal :=
  commit (slotNo cl) s (issueXmov cl rd ra g s)

/-- The numbers that R134 assigns. -/
def crAssigned (n : Nat) : Bool :=
  decide (n ≤ 0x00E) || (decide (0x010 ≤ n) && decide (n ≤ 0x016)) || (decide (0x018 ≤ n) && decide (n ≤ 0x01B))
    || (decide (0x020 ≤ n) && decide (n ≤ 0x022)) || (decide (0x030 ≤ n) && decide (n ≤ 0x0C7))

/-- The registers whose fields are all RO, FRZLIM apart (R117, R134, R138, R214). -/
def crReadOnly (n : Nat) : Bool :=
  n == 0x000 || (decide (0x008 ≤ n) && decide (n ≤ 0x00D)) || (decide (0x018 ≤ n) && decide (n ≤ 0x01B))
    || n == 0x021 || n == 0x022 || (decide (0x080 ≤ n) && decide (n ≤ 0x0BF) && decide (6 ≤ n % 8))

/-- The registers whose CWR raises PRIV (R312): FRZLIM, and the trap registers outside handler mode. -/
def crPriv (hmode : Bool) (n : Nat) : Bool := n == 0x020 || (!hmode && decide (0x011 ≤ n) && decide (n ≤ 0x014))

/-- The presence block of a control register (R134). -/
def crBlock (n : Nat) : Nat := if n < 0x030 then 2 else 3

/-- Whether a CRD of the number is masked by MODE.DET (R139). -/
def detMasked (c : Ctx) (n : Nat) : Bool := c.ctl.det && decide (0x009 ≤ n) && decide (n ≤ 0x00C)

/-- CRD (R116): the register as it stands in the issue cycle, with latency 2; under DET, R139. -/
def issueCrd (cl : Cluster) (rd : BitVec 5) (num : BitVec 16) (s : State) : Issue :=
  if !crAssigned num.toNat then s.raise tILLEGAL (slotNo cl) (wordOf (.crd cl rd num))
  else
    Issue.touching s [crBlock num.toNat, regBlock cl]
      (if detMasked s.c num.toNat then
        .ok ((s.pend 2 [landReg cl rd 0]).raiseFlags fDETREAD)
      else s.toReg cl rd 2 (s.c.readCr s.gcyc num))

def execCrd (cl : Cluster) (rd : BitVec 5) (num : BitVec 16) (s : State) : Host.Outcome State Fault Refusal :=
  commit (slotNo cl) s (issueCrd cl rd num s)

/-- CWR (R117): written for the bundles of the next cycle and later; PRIV and ILLEGAL by R117 and R312. -/
def issueCwr (cl : Cluster) (ra : BitVec 5) (num : BitVec 16) (s : State) : Issue :=
  if crPriv s.c.ctl.hmode num.toNat then s.raise tPRIV (slotNo cl) (wordOf (.cwr cl ra num))
  else if !crAssigned num.toNat || crReadOnly num.toNat then
    s.raise tILLEGAL (slotNo cl) (wordOf (.cwr cl ra num))
  else
    Issue.touching s [regBlock cl, crBlock num.toNat] (.ok (s.pend 1 [.creg num (s.c.rd cl ra)]))

def execCwr (cl : Cluster) (ra : BitVec 5) (num : BitVec 16) (s : State) : Host.Outcome State Fault Refusal :=
  commit (slotNo cl) s (issueCwr cl ra num s)

/-- ACVT function 0 (R119). -/
def issueAcvtGen2loc (cl : Cluster) (rd : BitVec 5) (ra : BitVec 5) (g : BitVec 4) (s : State) : Issue :=
  s.aluA cl rd ra g 1 fun a =>
    BitVec.ofNat 64 (acvt (s.npOf s.c.partN) s.pf.nmod.toNat 0 a.toNat)

def execAcvtGen2loc (cl : Cluster) (rd : BitVec 5) (ra : BitVec 5) (g : BitVec 4) (s : State) : Host.Outcome State Fault Refusal :=
  commit (slotNo cl) s (issueAcvtGen2loc cl rd ra g s)

/-- ACVT function 1 (R119). -/
def issueAcvtGen2shr (cl : Cluster) (rd : BitVec 5) (ra : BitVec 5) (g : BitVec 4) (s : State) : Issue :=
  s.aluA cl rd ra g 1 fun a =>
    BitVec.ofNat 64 (acvt (s.npOf s.c.partN) s.pf.nmod.toNat 1 a.toNat)

def execAcvtGen2shr (cl : Cluster) (rd : BitVec 5) (ra : BitVec 5) (g : BitVec 4) (s : State) : Host.Outcome State Fault Refusal :=
  commit (slotNo cl) s (issueAcvtGen2shr cl rd ra g s)

/-- ACVT function 2 (R119). -/
def issueAcvtGen2clu (cl : Cluster) (rd : BitVec 5) (ra : BitVec 5) (g : BitVec 4) (s : State) : Issue :=
  s.aluA cl rd ra g 1 fun a =>
    BitVec.ofNat 64 (acvt (s.npOf s.c.partN) s.pf.nmod.toNat 2 a.toNat)

def execAcvtGen2clu (cl : Cluster) (rd : BitVec 5) (ra : BitVec 5) (g : BitVec 4) (s : State) : Host.Outcome State Fault Refusal :=
  commit (slotNo cl) s (issueAcvtGen2clu cl rd ra g s)

/-- ACVT function 3 (R119). -/
def issueAcvtLoc2gen (cl : Cluster) (rd : BitVec 5) (ra : BitVec 5) (g : BitVec 4) (s : State) : Issue :=
  s.aluA cl rd ra g 1 fun a =>
    BitVec.ofNat 64 (acvt (s.npOf s.c.partN) s.pf.nmod.toNat 3 a.toNat)

def execAcvtLoc2gen (cl : Cluster) (rd : BitVec 5) (ra : BitVec 5) (g : BitVec 4) (s : State) : Host.Outcome State Fault Refusal :=
  commit (slotNo cl) s (issueAcvtLoc2gen cl rd ra g s)

/-- ACVT function 4 (R119). -/
def issueAcvtShr2gen (cl : Cluster) (rd : BitVec 5) (ra : BitVec 5) (g : BitVec 4) (s : State) : Issue :=
  s.aluA cl rd ra g 1 fun a =>
    BitVec.ofNat 64 (acvt (s.npOf s.c.partN) s.pf.nmod.toNat 4 a.toNat)

def execAcvtShr2gen (cl : Cluster) (rd : BitVec 5) (ra : BitVec 5) (g : BitVec 4) (s : State) : Host.Outcome State Fault Refusal :=
  commit (slotNo cl) s (issueAcvtShr2gen cl rd ra g s)

/-- ACVT function 5 (R119). -/
def issueAcvtClu2gen (cl : Cluster) (rd : BitVec 5) (ra : BitVec 5) (g : BitVec 4) (s : State) : Issue :=
  s.aluA cl rd ra g 1 fun a =>
    BitVec.ofNat 64 (acvt (s.npOf s.c.partN) s.pf.nmod.toNat 5 a.toNat)

def execAcvtClu2gen (cl : Cluster) (rd : BitVec 5) (ra : BitVec 5) (g : BitVec 4) (s : State) : Host.Outcome State Fault Refusal :=
  commit (slotNo cl) s (issueAcvtClu2gen cl rd ra g s)

/-- ATEST (R119). -/
def issueAtest (cl : Cluster) (pd : BitVec 3) (ra : BitVec 5) (ap : BitVec 5) (g : BitVec 4) (s : State) : Issue :=
  s.guarded g [regBlock cl, 2]
    (s.toPred pd (aperture (s.npOf s.c.partN) s.pf.nmod.toNat ap.toNat (s.c.rd cl ra).toNat))

def execAtest (cl : Cluster) (pd : BitVec 3) (ra : BitVec 5) (ap : BitVec 5) (g : BitVec 4) (s : State) : Host.Outcome State Fault Refusal :=
  commit (slotNo cl) s (issueAtest cl pd ra ap g s)

end Sys2Proof.Machine
end

