-- ==== Sys2Proof/Machine/ScalarFloat.lean ====
section
/-!
DEFINITION. The scalar floating-point words (R204 to R211). Flags are set in the issue cycle; an enabled one raises FPX
(R212), which `commit` and the bundle see to.
-/

namespace Sys2Proof.Machine

/-- A result with its flags in a register (R204, R211). -/
def State.fpReg (s : State) (cl : Cluster) (rd : BitVec 5) (lat : Nat) (w : Word) (r : Res) : Issue :=
  .go r.fl w false (s.pend lat [landReg cl rd (BitVec.ofNat 64 r.bits)])

/-- A word of two operands of one width, flushed by zi (R206). -/
def State.fpB (s : State) (cl : Cluster) (rd ra rb : BitVec 5) (bk : BitVec 2) (dbl zi : Bool) (lat : Nat) (w : Word)
    (f : FF → Nat → Nat → Res) : Issue :=
  Issue.touching s (regBlock cl :: 2 :: bkBlocks bk)
    (s.fpReg cl rd lat w (f (ffOf dbl) ((ffOf dbl).flush zi (s.c.opF cl ra dbl))
      ((ffOf dbl).flush zi (s.c.opBF cl rb bk dbl zi))))

/-- A word of one operand of a width. -/
def State.fpA (s : State) (cl : Cluster) (rd ra : BitVec 5) (src : Bool) (zi : Bool) (lat : Nat) (w : Word)
    (f : FF → Nat → Res) : Issue :=
  Issue.touching s [regBlock cl, 2] (s.fpReg cl rd lat w (f (ffOf src) ((ffOf src).flush zi (s.c.opF cl ra src))))

/-- A sum, a difference and a product of patterns (R206, R207). -/
def FF.addP (f : FF) (a b rm : Nat) (zo : Bool) : Res := f.addV (f.decode a) (f.decode b) rm false zo
def FF.subP (f : FF) (a b rm : Nat) (zo : Bool) : Res := f.addV (f.decode a) (f.decode b).neg rm false zo
def FF.mulP (f : FF) (a b rm : Nat) (zo : Bool) : Res := f.mulV (f.decode a) (f.decode b) rm false zo

/-- The pattern with its sign bit cleared or inverted (R206). -/
def FF.absP (f : FF) (a : Nat) : Res := ⟨a % 2 ^ (f.width - 1), 0⟩
def FF.negP (f : FF) (a : Nat) : Res := ⟨(a + 2 ^ (f.width - 1)) % 2 ^ f.width, 0⟩

/-- FADD (R206, R207). -/
def issueFadd (cl : Cluster) (rd : BitVec 5) (ra : BitVec 5) (rb : BitVec 5) (bk : BitVec 2) (dbl : Bool) (zi : Bool) (zo : Bool) (rm : BitVec 2) (s : State) : Issue :=
  s.fpB cl rd ra rb bk dbl zi 4 (wordOf (.fadd cl rd ra rb bk dbl zi zo rm))
    fun f a b => f.addP a b rm.toNat zo

def execFadd (cl : Cluster) (rd : BitVec 5) (ra : BitVec 5) (rb : BitVec 5) (bk : BitVec 2) (dbl : Bool) (zi : Bool) (zo : Bool) (rm : BitVec 2) (s : State) : Host.Outcome State Fault Refusal :=
  commit (slotNo cl) s (issueFadd cl rd ra rb bk dbl zi zo rm s)

/-- FSUB (R206, R207). -/
def issueFsub (cl : Cluster) (rd : BitVec 5) (ra : BitVec 5) (rb : BitVec 5) (bk : BitVec 2) (dbl : Bool) (zi : Bool) (zo : Bool) (rm : BitVec 2) (s : State) : Issue :=
  s.fpB cl rd ra rb bk dbl zi 4 (wordOf (.fsub cl rd ra rb bk dbl zi zo rm))
    fun f a b => f.subP a b rm.toNat zo

def execFsub (cl : Cluster) (rd : BitVec 5) (ra : BitVec 5) (rb : BitVec 5) (bk : BitVec 2) (dbl : Bool) (zi : Bool) (zo : Bool) (rm : BitVec 2) (s : State) : Host.Outcome State Fault Refusal :=
  commit (slotNo cl) s (issueFsub cl rd ra rb bk dbl zi zo rm s)

/-- FMUL (R206, R207). -/
def issueFmul (cl : Cluster) (rd : BitVec 5) (ra : BitVec 5) (rb : BitVec 5) (bk : BitVec 2) (dbl : Bool) (zi : Bool) (zo : Bool) (rm : BitVec 2) (s : State) : Issue :=
  s.fpB cl rd ra rb bk dbl zi 4 (wordOf (.fmul cl rd ra rb bk dbl zi zo rm))
    fun f a b => f.mulP a b rm.toNat zo

def execFmul (cl : Cluster) (rd : BitVec 5) (ra : BitVec 5) (rb : BitVec 5) (bk : BitVec 2) (dbl : Bool) (zi : Bool) (zo : Bool) (rm : BitVec 2) (s : State) : Host.Outcome State Fault Refusal :=
  commit (slotNo cl) s (issueFmul cl rd ra rb bk dbl zi zo rm s)

/-- FMIN (R206, R207). -/
def issueFmin (cl : Cluster) (rd : BitVec 5) (ra : BitVec 5) (rb : BitVec 5) (bk : BitVec 2) (dbl : Bool) (zi : Bool) (s : State) : Issue :=
  s.fpB cl rd ra rb bk dbl zi 4 (wordOf (.fmin cl rd ra rb bk dbl zi))
    fun f a b => f.minmax false a b

def execFmin (cl : Cluster) (rd : BitVec 5) (ra : BitVec 5) (rb : BitVec 5) (bk : BitVec 2) (dbl : Bool) (zi : Bool) (s : State) : Host.Outcome State Fault Refusal :=
  commit (slotNo cl) s (issueFmin cl rd ra rb bk dbl zi s)

/-- FMAX (R206, R207). -/
def issueFmax (cl : Cluster) (rd : BitVec 5) (ra : BitVec 5) (rb : BitVec 5) (bk : BitVec 2) (dbl : Bool) (zi : Bool) (s : State) : Issue :=
  s.fpB cl rd ra rb bk dbl zi 4 (wordOf (.fmax cl rd ra rb bk dbl zi))
    fun f a b => f.minmax true a b

def execFmax (cl : Cluster) (rd : BitVec 5) (ra : BitVec 5) (rb : BitVec 5) (bk : BitVec 2) (dbl : Bool) (zi : Bool) (s : State) : Host.Outcome State Fault Refusal :=
  commit (slotNo cl) s (issueFmax cl rd ra rb bk dbl zi s)

/-- FABS (R206, R207). -/
def issueFabs (cl : Cluster) (rd : BitVec 5) (ra : BitVec 5) (dbl : Bool) (s : State) : Issue :=
  s.fpA cl rd ra dbl false 4 (wordOf (.fabs cl rd ra dbl))
    fun f a => f.absP a

def execFabs (cl : Cluster) (rd : BitVec 5) (ra : BitVec 5) (dbl : Bool) (s : State) : Host.Outcome State Fault Refusal :=
  commit (slotNo cl) s (issueFabs cl rd ra dbl s)

/-- FNEG (R206, R207). -/
def issueFneg (cl : Cluster) (rd : BitVec 5) (ra : BitVec 5) (dbl : Bool) (s : State) : Issue :=
  s.fpA cl rd ra dbl false 4 (wordOf (.fneg cl rd ra dbl))
    fun f a => f.negP a

def execFneg (cl : Cluster) (rd : BitVec 5) (ra : BitVec 5) (dbl : Bool) (s : State) : Host.Outcome State Fault Refusal :=
  commit (slotNo cl) s (issueFneg cl rd ra dbl s)

/-- FCVT (R149, R207). -/
def issueFcvt (cl : Cluster) (rd : BitVec 5) (ra : BitVec 5) (dbl : Bool) (zi : Bool) (zo : Bool) (rm : BitVec 2) (s : State) : Issue :=
  s.fpA cl rd ra (!dbl) zi 4 (wordOf (.fcvt cl rd ra dbl zi zo rm))
    fun _ a => (ffOf dbl).convert ((ffOf (!dbl)).decode a) rm.toNat false zo

def execFcvt (cl : Cluster) (rd : BitVec 5) (ra : BitVec 5) (dbl : Bool) (zi : Bool) (zo : Bool) (rm : BitVec 2) (s : State) : Host.Outcome State Fault Refusal :=
  commit (slotNo cl) s (issueFcvt cl rd ra dbl zi zo rm s)

/-- FTOI (R207). -/
def issueFtoi (cl : Cluster) (rd : BitVec 5) (ra : BitVec 5) (dbl : Bool) (zi : Bool) (rm : BitVec 2) (s : State) : Issue :=
  s.fpA cl rd ra dbl zi 4 (wordOf (.ftoi cl rd ra dbl zi rm))
    fun f a => Sys2Proof.Machine.ftoi (f.decode a) rm.toNat

def execFtoi (cl : Cluster) (rd : BitVec 5) (ra : BitVec 5) (dbl : Bool) (zi : Bool) (rm : BitVec 2) (s : State) : Host.Outcome State Fault Refusal :=
  commit (slotNo cl) s (issueFtoi cl rd ra dbl zi rm s)

/-- FITO (R207). -/
def issueFito (cl : Cluster) (rd : BitVec 5) (ra : BitVec 5) (dbl : Bool) (rm : BitVec 2) (s : State) : Issue :=
  Issue.touching s [regBlock cl, 2]
    (s.fpReg cl rd 4 (wordOf (.fito cl rd ra dbl rm)) ((ffOf dbl).ofInt (s.c.rd cl ra).toInt rm.toNat))

def execFito (cl : Cluster) (rd : BitVec 5) (ra : BitVec 5) (dbl : Bool) (rm : BitVec 2) (s : State) : Host.Outcome State Fault Refusal :=
  commit (slotNo cl) s (issueFito cl rd ra dbl rm s)

/-- FDIV (R206, R207). -/
def issueFdiv (rd : BitVec 5) (ra : BitVec 5) (rb : BitVec 5) (bk : BitVec 2) (dbl : Bool) (zi : Bool) (zo : Bool) (rm : BitVec 2) (s : State) : Issue :=
  s.fpB .y rd ra rb bk dbl zi 14 (wordOf (.fdiv rd ra rb bk dbl zi zo rm))
    fun f a b => f.divV (f.decode a) (f.decode b) rm.toNat zo

def execFdiv (rd : BitVec 5) (ra : BitVec 5) (rb : BitVec 5) (bk : BitVec 2) (dbl : Bool) (zi : Bool) (zo : Bool) (rm : BitVec 2) (s : State) : Host.Outcome State Fault Refusal :=
  commit 1 s (issueFdiv rd ra rb bk dbl zi zo rm s)

/-- FSQRT (R206, R207). -/
def issueFsqrt (rd : BitVec 5) (ra : BitVec 5) (dbl : Bool) (zi : Bool) (zo : Bool) (rm : BitVec 2) (s : State) : Issue :=
  s.fpA .y rd ra dbl zi 14 (wordOf (.fsqrt rd ra dbl zi zo rm))
    fun f a => f.sqrtV (f.decode a) rm.toNat zo

def execFsqrt (rd : BitVec 5) (ra : BitVec 5) (dbl : Bool) (zi : Bool) (zo : Bool) (rm : BitVec 2) (s : State) : Host.Outcome State Fault Refusal :=
  commit 1 s (issueFsqrt rd ra dbl zi zo rm s)

/-- FMA and FNMA (R208): one rounding of ±a × b + c. -/
def State.fmaWord (s : State) (cl : Cluster) (rd ra rb rc : BitVec 5) (dbl zi zo : Bool) (rm : BitVec 2) (n : Bool)
    (w : Word) : Issue :=
  let f := ffOf dbl
  let rd3 := fun r => f.decode (f.flush zi (s.c.opF cl r dbl))
  let a := if n then (rd3 ra).neg else rd3 ra
  Issue.touching s [regBlock cl, 2] (s.fpReg cl rd 4 w (f.fmaV a (rd3 rb) (rd3 rc) rm.toNat zo))

/-- FMA (R208). -/
def issueFma (cl : Cluster) (rd : BitVec 5) (ra : BitVec 5) (rb : BitVec 5) (rc : BitVec 5) (dbl : Bool) (zi : Bool) (zo : Bool) (rm : BitVec 2) (s : State) : Issue :=
  s.fmaWord cl rd ra rb rc dbl zi zo rm false (wordOf (.fma cl rd ra rb rc dbl zi zo rm))

def execFma (cl : Cluster) (rd : BitVec 5) (ra : BitVec 5) (rb : BitVec 5) (rc : BitVec 5) (dbl : Bool) (zi : Bool) (zo : Bool) (rm : BitVec 2) (s : State) : Host.Outcome State Fault Refusal :=
  commit (slotNo cl) s (issueFma cl rd ra rb rc dbl zi zo rm s)

/-- FNMA (R208). -/
def issueFnma (cl : Cluster) (rd : BitVec 5) (ra : BitVec 5) (rb : BitVec 5) (rc : BitVec 5) (dbl : Bool) (zi : Bool) (zo : Bool) (rm : BitVec 2) (s : State) : Issue :=
  s.fmaWord cl rd ra rb rc dbl zi zo rm true (wordOf (.fnma cl rd ra rb rc dbl zi zo rm))

def execFnma (cl : Cluster) (rd : BitVec 5) (ra : BitVec 5) (rb : BitVec 5) (rc : BitVec 5) (dbl : Bool) (zi : Bool) (zo : Bool) (rm : BitVec 2) (s : State) : Host.Outcome State Fault Refusal :=
  commit (slotNo cl) s (issueFnma cl rd ra rb rc dbl zi zo rm s)

/-- FPCMP (R209). -/
def issueFcmp (cl : Cluster) (pd : BitVec 3) (cond : BitVec 2) (ra : BitVec 5) (rb : BitVec 5) (dbl : Bool) (s : State) : Issue :=
  let f := ffOf dbl
  let a := f.decode (s.c.opF cl ra dbl)
  let b := f.decode (s.c.opF cl rb dbl)
  Issue.touching s [regBlock cl, 2]
    (.go (fcmpFlags cond.toNat a b) (wordOf (.fcmp cl pd cond ra rb dbl)) false (s.pend 1 [.p pd (fcmpTruth cond.toNat a b)]))

def execFcmp (cl : Cluster) (pd : BitVec 3) (cond : BitVec 2) (ra : BitVec 5) (rb : BitVec 5) (dbl : Bool) (s : State) : Host.Outcome State Fault Refusal :=
  commit (slotNo cl) s (issueFcmp cl pd cond ra rb dbl s)

/-- FCLASS (R210). -/
def issueFclass (cl : Cluster) (rd : BitVec 5) (ra : BitVec 5) (dbl : Bool) (g : BitVec 4) (s : State) : Issue :=
  s.guarded g [regBlock cl, 2]
    (s.toReg cl rd 1 (BitVec.ofNat 64 (2 ^ (ffOf dbl).classBit (s.c.opF cl ra dbl))))

def execFclass (cl : Cluster) (rd : BitVec 5) (ra : BitVec 5) (dbl : Bool) (g : BitVec 4) (s : State) : Host.Outcome State Fault Refusal :=
  commit (slotNo cl) s (issueFclass cl rd ra dbl g s)

end Sys2Proof.Machine
end

