-- ==== Sys2Proof/Machine/Control.lean ====
section
/-!
DEFINITION. Control flow, hardware loops and the system words of SX (R121 to R132, R316, R318). A transfer, a loop that
starts, LBRK, SYSC and ESC take effect at the end of their bundle, and are kept in `Ctx.bun` until then.
-/

namespace Sys2Proof.Machine

/-- A word that changes only the context. -/
def State.onCtx (s : State) (f : Ctx → Ctx) : Issue := .ok (s.modC f)

/-- A taken transfer (R63, R123). -/
def Ctx.jump (c : Ctx) (target : Word) : Ctx := { c with bun := { c.bun with xfer := some target } }

/-- The link of a CALL: h + L (R121). -/
def Ctx.link (c : Ctx) : Word := c.bun.hdr + BitVec.ofNat 64 c.bun.len

/-- BR (R121). -/
def issueBr (off : BitVec 22) (g : BitVec 4) (s : State) : Issue :=
  s.guarded g [] (s.onCtx fun c => c.jump (c.bun.hdr + off.signExtend 64))

def execBr (off : BitVec 22) (g : BitVec 4) (s : State) : Host.Outcome State Fault Refusal :=
  commit 0 s (issueBr off g s)

/-- JR (R122). -/
def issueJr (ra : BitVec 5) (off : BitVec 12) (g : BitVec 4) (s : State) : Issue :=
  s.guarded g [0] (s.onCtx fun c => c.jump (c.regs.rx ra + off.signExtend 64))

def execJr (ra : BitVec 5) (off : BitVec 12) (g : BitVec 4) (s : State) : Host.Outcome State Fault Refusal :=
  commit 0 s (issueJr ra off g s)

/-- CALL (R121): x31 is written with latency 1. -/
def issueCall (off : BitVec 22) (g : BitVec 4) (s : State) : Issue :=
  s.guarded g [0]
    (.ok ((s.pend 1 [.x 31 s.c.link]).modC fun c => c.jump (s.c.bun.hdr + off.signExtend 64)))

def execCall (off : BitVec 22) (g : BitVec 4) (s : State) : Host.Outcome State Fault Refusal :=
  commit 0 s (issueCall off g s)

/-- RET (R122). -/
def issueRet (g : BitVec 4) (s : State) : Issue :=
  s.guarded g [0] (s.onCtx fun c => c.jump (c.regs.rx 31))

def execRet (g : BitVec 4) (s : State) : Host.Outcome State Fault Refusal :=
  commit 0 s (issueRet g s)

/-- The number of trips of R125. -/
def tripsOf (n : Nat) (r : Bool) (sm1 : Nat) : Nat := if n = 0 then 0 else if r then n + sm1 else n

/-- The innermost active loop counter: the highest number (R126). -/
def Regs.innermost (r : Regs) : Option (Fin 4) :=
  if r.lc[3].active then some 3 else if r.lc[2].active then some 2 else if r.lc[1].active then some 1
  else if r.lc[0].active then some 0 else none

/-- Whether a counter of the number k or above is active. -/
def Regs.activeFrom (r : Regs) (k : Nat) : Bool :=
  match r.innermost with
  | some j => decide (k ≤ j.val)
  | none => false

/-- A loop word (R124, R125): `n` trips are asked for, `r` marks a rotating loop. -/
def State.loopWord (s : State) (lc : BitVec 2) (sm1 : BitVec 3) (n : Nat) (off : Nat) (r : Bool) (w : Word)
    (bs : List Nat) : Issue :=
  Issue.touching s bs <|
    let c := s.c
    let fin := c.bun.hdr.toNat + off
    let t := tripsOf n r sm1.toNat
    let beyond := match c.regs.innermost with
      | some j => decide (s.hdrAddr s.cur (c.regs.lc[j]).endA.toNat < s.hdrAddr s.cur fin)
      | none => false
    if c.regs.activeFrom lc.toNat || beyond || decide (0x7FFFFF < t) then s.raise tLOOPNEST 0 w
    else if t = 0 then Issue.touching s (s.endBlocks s.cur fin) (.ok (s.modC fun c => c.jump (BitVec.ofNat 64 (s.endOf s.cur fin))))
    else
      let l : LoopCtr := {
        top := BitVec.ofNat 16 (c.bun.hdr.toNat + c.bun.len), endA := BitVec.ofNat 16 fin,
        remain := BitVec.ofNat 23 (t - 1), rot := r, trip := 0, sm1 := sm1, active := true }
      .ok (s.modC fun c => { c with bun := { c.bun with newLoop := some (lc, l) } })

/-- LOOP (R124, R125). -/
def issueLoop (lc : BitVec 2) (sm1 : BitVec 3) (xc : BitVec 5) (endOff : BitVec 15) (s : State) : Issue :=
  s.loopWord lc sm1 (s.c.regs.rx xc).toNat endOff.toNat false (wordOf (.loop lc sm1 xc endOff)) [0, 2]

def execLoop (lc : BitVec 2) (sm1 : BitVec 3) (xc : BitVec 5) (endOff : BitVec 15) (s : State) : Host.Outcome State Fault Refusal :=
  commit 0 s (issueLoop lc sm1 xc endOff s)

/-- LOOP.R (R124, R125). -/
def issueLoopR (lc : BitVec 2) (sm1 : BitVec 3) (xc : BitVec 5) (endOff : BitVec 15) (s : State) : Issue :=
  s.loopWord lc sm1 (s.c.regs.rx xc).toNat endOff.toNat true (wordOf (.loopR lc sm1 xc endOff)) [0, 2]

def execLoopR (lc : BitVec 2) (sm1 : BitVec 3) (xc : BitVec 5) (endOff : BitVec 15) (s : State) : Host.Outcome State Fault Refusal :=
  commit 0 s (issueLoopR lc sm1 xc endOff s)

/-- LOOPI (R124, R125). -/
def issueLoopi (lc : BitVec 2) (sm1 : BitVec 3) (count : BitVec 10) (endOff : BitVec 10) (s : State) : Issue :=
  s.loopWord lc sm1 count.toNat endOff.toNat false (wordOf (.loopi lc sm1 count endOff)) [2]

def execLoopi (lc : BitVec 2) (sm1 : BitVec 3) (count : BitVec 10) (endOff : BitVec 10) (s : State) : Host.Outcome State Fault Refusal :=
  commit 0 s (issueLoopi lc sm1 count endOff s)

/-- LOOPI.R (R124, R125). -/
def issueLoopiR (lc : BitVec 2) (sm1 : BitVec 3) (count : BitVec 10) (endOff : BitVec 10) (s : State) : Issue :=
  s.loopWord lc sm1 count.toNat endOff.toNat true (wordOf (.loopiR lc sm1 count endOff)) [2]

def execLoopiR (lc : BitVec 2) (sm1 : BitVec 3) (count : BitVec 10) (endOff : BitVec 10) (s : State) : Host.Outcome State Fault Refusal :=
  commit 0 s (issueLoopiR lc sm1 count endOff s)

/-- LBRK (R128), which acts before the back-edge step of its bundle. -/
def issueLbrk (g : BitVec 4) (s : State) : Issue :=
  s.guarded g [2] (s.onCtx fun c => { c with bun := { c.bun with lbrk := true } })

def execLbrk (g : BitVec 4) (s : State) : Host.Outcome State Fault Refusal :=
  commit 0 s (issueLbrk g s)

/-- FRAME (R130): SFC is 0 in this cycle, and the bundle keeps the SFC that its stamp was checked against. A handler reads 0 from then on, and the next unfrozen cycle is the first that
counts (R72, R315). -/
def issueFrame (g : BitVec 4) (s : State) : Issue :=
  s.guarded g [2] (s.onCtx fun c =>
    if c.ctl.hmode then { c with ctl := { c.ctl with sfc := 1 }, trap := { c.trap with hsfc := 0 } }
    else { c with ctl := { c.ctl with sfc := 0 }, bun := { c.bun with frame := some c.ctl.sfc } })

def execFrame (g : BitVec 4) (s : State) : Host.Outcome State Fault Refusal :=
  commit 0 s (issueFrame g s)

/-- SYSC (R130), raised after its bundle. -/
def issueSysc (code : BitVec 12) (g : BitVec 4) (s : State) : Issue :=
  s.guarded g [2] (s.onCtx fun c => { c with bun := { c.bun with sysc := some code } })

def execSysc (code : BitVec 12) (g : BitVec 4) (s : State) : Host.Outcome State Fault Refusal :=
  commit 0 s (issueSysc code g s)

/-- BRK (R130), raised before any slot takes effect. -/
def issueBrk (code : BitVec 12) (g : BitVec 4) (s : State) : Issue :=
  s.guarded g [2] (s.raise tBRK 0 (code.setWidth 64))

def execBrk (code : BitVec 12) (g : BitVec 4) (s : State) : Host.Outcome State Fault Refusal :=
  commit 0 s (issueBrk code g s)

/-- TEND (R131): the bundle issues in full and the spindle waits for the completion ordering. -/
def issueTend (g : BitVec 4) (s : State) : Issue :=
  s.guarded g [] (s.onCtx fun c => { c with inTend := true })

def execTend (g : BitVec 4) (s : State) : Host.Outcome State Fault Refusal :=
  commit 0 s (issueTend g s)

/-- The estimate that EST sets (R132), as ESTR holds it. -/
def estOf (v : Word) : Nat := if 0xFFFFFFFF ≤ v.toNat then 0xFFFFFFFF else v.toNat

/-- An estimate one unfrozen cycle later (R57). -/
def estNext (e : Nat) : Nat := if e = 0xFFFFFFFF then e else e - 1

/-- EST (R132): the estimate counts from this cycle, unless a handler sets it, whose cycles count for no estimate (R57, R315). -/
def issueEst (ra : BitVec 5) (g : BitVec 4) (s : State) : Issue :=
  let e := estOf (s.c.regs.rx ra)
  s.guarded g [0, 2] (.ok (s.pend 1 [.creg 0x00D (BitVec.ofNat 64 (if s.c.ctl.hmode then e else estNext e))]))

def execEst (ra : BitVec 5) (g : BitVec 4) (s : State) : Host.Outcome State Fault Refusal :=
  commit 0 s (issueEst ra g s)

/-- RFE (R316), in handler mode only (R82). -/
def issueRfe (s : State) : Issue :=
  if s.c.ctl.hmode then Issue.touching s [2] (s.onCtx Ctx.returnFromTrap) else s.raise tILLEGAL 0 (wordOf .rfe)

def execRfe (s : State) : Host.Outcome State Fault Refusal :=
  commit 0 s (issueRfe s)

/-- ESC (R318), which escalates after its bundle. -/
def issueEsc (code : BitVec 12) (g : BitVec 4) (s : State) : Issue :=
  s.guarded g [2] (s.onCtx fun c => { c with bun := { c.bun with esc := some code } })

def execEsc (code : BitVec 12) (g : BitVec 4) (s : State) : Host.Outcome State Fault Refusal :=
  commit 0 s (issueEsc code g s)

end Sys2Proof.Machine
end

