-- ==== Sys2Proof/Machine/Rings.lean ====
section
/-!
DEFINITION. Bobbins (R196 to R198): the ring that the four registers describe, the formats of its slots, and the
conversion of a slot (R145 to R149, R154, R155), which BPOP and BDRAIN share.
-/

namespace Sys2Proof.Machine

/-! ### The ring -/

/-- The ring of a bobbin (R196). -/
structure Ring where
  base : Nat
  slotb : Nat
  count : Nat
  prod : Nat
  cons : Nat
  deriving DecidableEq, Repr

def ringOf (v : Vector Word 4) : Ring where
  base := bitsOf v[0].toNat 0 24
  slotb := bitsOf v[1].toNat 0 12
  count := bitsOf v[1].toNat 16 12
  prod := bitsOf v[2].toNat 0 32
  cons := bitsOf v[2].toNat 32 32

/-- A and F of R197. -/
def Ring.filled (r : Ring) : Nat := (r.prod + 2 ^ 32 - r.cons) % 2 ^ 32
def Ring.free (r : Ring) : Nat := r.count - r.filled

/-- The bytes of a slot, and where a slot at an offset from a counter starts (R197). -/
def Ring.size (r : Ring) : Nat := r.slotb * 64
def Ring.slotAt (r : Ring) (p n : Nat) : Nat := r.base + (p + n) % r.count * r.size

/-- The checks that every bobbin word makes (R197): BOBBIN, or the lowest byte of the ring outside the bounds. -/
def Ring.bad (r : Ring) : Bool :=
  r.slotb == 0 || r.count == 0 || decide (r.count < r.filled) || decide (0x1000000 < r.base + r.count * r.size)

def Ring.outside (r : Ring) (lo hi : Nat) : Option Nat :=
  let fin := r.base + r.count * r.size
  if r.base < lo then some r.base
  else if hi < fin then some (max hi r.base) else none

/-- The registers of bobbin k. -/
def Eng.bobbin (e : Eng) (k : BitVec 4) : Vector Word 4 :=
  #v[e.bobReg (4 * k.toNat), e.bobReg (4 * k.toNat + 1), e.bobReg (4 * k.toNat + 2), e.bobReg (4 * k.toNat + 3)]

/-! ### Formats -/

/-- Codes and attributes of a conversion (R196). -/
structure BobFmt where
  src : Nat
  snk : Nat
  rm : Nat
  sat : Bool
  fi : Bool
  fo : Bool
  gap : Nat
  deriving DecidableEq, Repr

/-- A code from BFMTS, or AF, BF, CF of the entry by the select field. -/
def pickCode (bf entry : Nat) (codeLo selLo : Nat) : Nat :=
  let sel := bitsOf bf selLo 2
  if sel = 0 then bitsOf bf codeLo 4 else bitsOf entry (4 * (sel - 1)) 4

def bobFmtOf (bfmts entry : Word) : BobFmt :=
  let b := bfmts.toNat
  let e := entry.toNat
  let t := bitOf b 21
  { src := pickCode b e 0 8, snk := pickCode b e 4 10
    rm := if t then bitsOf e 18 2 else bitsOf b 12 2
    sat := if t then bitOf e 20 else bitOf b 14
    fi := if t then bitOf e 21 else bitOf b 15
    fo := if t then bitOf e 22 else bitOf b 16
    gap := if t then bitsOf e 14 4 else bitsOf b 17 4 }

/-- R157 without the GAP rule: a code 0xB to 0xF, a reserved SMODE, an odd SOFF. -/
def entryBad (entry : Word) : Bool :=
  let e := entry.toNat
  decide (0xB ≤ bitsOf e 0 4) || decide (0xB ≤ bitsOf e 4 4) || decide (0xB ≤ bitsOf e 8 4)
    || decide (2 ≤ bitsOf e 12 2) || bitOf e 32

/-- The register that FMT names for a bobbin conversion, if one of its fields fails (R157, R197). -/
def bobFmtFault (bfmts entry : Word) (intoDx : Bool) : Option Word :=
  let b := bfmts.toNat
  let f := bobFmtOf bfmts entry
  let srcSel := bitsOf b 8 2
  let snkSel := bitsOf b 10 2
  let t := bitOf b 21
  if 0xB ≤ f.src then some (if srcSel = 0 then bfmts else entry)
  else if 0xB ≤ f.snk then some (if snkSel = 0 then bfmts else entry)
  else if intoDx && f.gap == 0 then some (if t then entry else bfmts)
  else if (srcSel != 0 || snkSel != 0 || t) && (entryBad entry || (intoDx && bitsOf entry.toNat 14 4 == 0)) then some entry
  else none

/-! ### Packed elements -/

/-- The w bits of bytes from a bit on. -/
def bitsAt (bs : Array Byte) (bit w : Nat) : Nat :=
  let lo := bit / 8
  ofBytesLE ((List.range ((w + 7) / 8 + 1)).map fun i => bs.getD (lo + i) 0) / 2 ^ (bit % 8) % 2 ^ w

/-- Element e of width w bits in bytes (R145, R242). -/
def elemAt (bs : Array Byte) (w e : Nat) : Nat := bitsAt bs (e * w) w

/-- n elements of width w. -/
def elemsOf (bs : List Byte) (w n : Nat) : List Nat :=
  let a := bs.toArray
  (List.range n).map fun e => elemAt a w e

/-- Elements of width w as bytes. -/
def packElems (w : Nat) (es : List Nat) : List Byte :=
  (chunksOf 8 es.length es).flatMap fun c =>
    bytesLE (c.foldr (fun e acc => e + acc * 2 ^ w) 0) (ceilDiv (c.length * w) 8)

/-- The bytes that n elements of a format take with the scales of their blocks after them (R198). -/
def Fmt.bytesFor (f : Fmt) (n : Nat) : Nat := n * f.ebits / 8 + f.scaleBytes * ceilDiv n 32

/-- The values of n elements with the scales of their blocks after them (R142 to R147, R198). -/
def Fmt.values (f : Fmt) (fi : Bool) (bs : List Byte) (n : Nat) : List FVal :=
  let a := bs.toArray
  let at_ := n * f.ebits / 8
  (List.range n).map fun e =>
    f.decode fi (elemAt a f.ebits e) (elemAt (a.extract at_ a.size) (8 * f.scaleBytes) (e / 32))

/-- Values converted into a format with their flags: elements, then the scales of their blocks (R149, R154, R155). -/
def Fmt.encodeAll (t : Fmt) (vs : List FVal) (rm : Nat) (sat fo : Bool) (gap : Nat) : List Byte × BitVec 9 :=
  if t.isBlock then
    let bl := (chunksOf 32 vs.length vs).map fun g => if t.isDx then convertDX t.ebits gap g else convertMX g
    (packElems t.ebits (bl.flatMap Block.elems) ++ bl.flatMap fun b => bytesLE b.scale t.scaleBytes,
      bl.foldl (fun f b => f ||| b.fl) 0)
  else
    let rs := vs.map fun v => t.convert v rm sat fo
    (packElems t.ebits (rs.map Res.bits), rs.foldl (fun f r => f ||| r.fl) 0)

/-- The conversion of a slot of n elements: equal codes copy the bits (R198, R222). -/
def convertSlot (f : BobFmt) (s t : Fmt) (bs : List Byte) (n : Nat) : List Byte × BitVec 9 :=
  if s = t then (bs.take (s.bytesFor n), 0) else t.encodeAll (s.values f.fi bs n) f.rm f.sat f.fo f.gap

end Sys2Proof.Machine
end

