-- ==== Sys2Proof/Machine/Locks.lean ====
section
/-!
DEFINITION. What keeps an access to a slice waiting: the rows of a stream and the lines that it locks (R195, R219 to
R222), bank holds (R194), groups and tiles held by matrix routines (R249, R252), absent blocks (R346); form and poison
bits of what is read (R236, R381).
-/

namespace Sys2Proof.Machine

/-! ### Rows of a stream -/

/-- Whether [a, a + n) and [b, b + m) meet. -/
def overlap (a n b m : Nat) : Bool := decide (a < b + m) && decide (b < a + n)

/-- The formats of a BDRAIN with what it read at issue. -/
def Stream.bf (st : Stream) : BobFmt := bobFmtOf st.bob[3] st.fmt
def Stream.ring (st : Stream) : Ring := ringOf st.bob

/-- The elements of a BDRAIN slot (R222). -/
def Stream.elems (st : Stream) : Nat :=
  match Fmt.ofCode st.bf.snk with
  | some t => st.rowb * 8 / t.ebits
  | none => 0

def Stream.rowCount (st : Stream) : Nat :=
  match st.kind with
  | .cpyb | .bdrain => st.n
  | _ => st.rows

/-- The bytes read and written by each row (R219, R221, R222). -/
def Stream.readLen (st : Stream) : Nat :=
  match st.kind with
  | .cpyb => st.ring.size
  | .bdrain => match Fmt.ofCode st.bf.src with | some f => f.bytesFor st.elems | none => 0
  | _ => st.rowb

def Stream.writeLen (st : Stream) : Nat :=
  match st.kind with
  | .cpyb => st.ring.size
  | .bdrain => match Fmt.ofCode st.bf.snk with | some f => f.bytesFor st.elems | none => 0
  | _ => st.rowb

/-- Whether [off, off + len) and [o, o + n) touch a line of a slice in common. -/
def linesMeet (o n off len : Nat) : Bool :=
  decide (0 < n) && decide (0 < len)
    && overlap (o / 64) ((o + n - 1) / 64 - o / 64 + 1) (off / 64) ((off + len - 1) / 64 - off / 64 + 1)

/-- Entry r of the index array, read when row r starts (R219). -/
def State.idxEntry (s : State) (n : Nat) (st : Stream) (r : Nat) : Nat :=
  let l := ceilDiv st.writeLen 64
  if r * l < st.done && decide (st.done < r * l + l) then st.ix else ofBytesLE (s.readSlice n (st.idx + 4 * r) 4)

/-- The addresses of row r: its source and its destination (R219, R221, R222). -/
def State.srcRow (s : State) (n : Nat) (st : Stream) (r : Nat) : Nat :=
  match st.kind with
  | .gath => (st.src + BitVec.ofNat 64 (s.idxEntry n st r) * st.sstr).toNat
  | .cpyb => (st.src + BitVec.ofNat 64 (r * st.ring.size)).toNat
  | .bdrain => st.ring.slotAt st.ring.cons r
  | _ => (st.src + BitVec.ofNat 64 r * st.sstr).toNat

def State.dstRow (s : State) (n : Nat) (st : Stream) (r : Nat) : Nat :=
  match st.kind with
  | .scat => (st.dst + BitVec.ofNat 64 (s.idxEntry n st r) * st.dstr).toNat
  | .cpyb => st.ring.slotAt st.ring.prod r
  | _ => (st.dst + BitVec.ofNat 64 r * st.dstr).toNat

/-- Whether some row of a stream touches lines of own bytes [off, off + len). -/
def State.rowsTouch (s : State) (n : Nat) (st : Stream) (dst : Bool) (off len : Nat) : Bool :=
  (List.range st.rowCount).any fun r =>
    let a := if dst then s.dstRow n st r else s.srcRow n st r
    match (s.aim (s.ctxOf n) a).ownOff with
    | some o => overlap (o / 64) (ceilDiv (if dst then st.writeLen else st.readLen) 64) (off / 64)
        ((off + len - 1) / 64 - off / 64 + 1)
    | none => false

/-- Whether an access meets the lines that a cipher command locks (R234): those of the chunk that it is at, and of its
record, which OPEN only reads. -/
def State.cipherTouches (s : State) (n : Nat) (cy : Cipher) (off len : Nat) (write : Bool) : Bool :=
  let hit (a : Word) (m : Nat) : Bool :=
    match (s.aim (s.ctxOf n) a.toNat).ownOff with
    | some o => linesMeet o m off len
    | none => false
  hit (cy.region + BitVec.ofNat 64 (4096 * cy.chunk)) 4096
    || ((write || !cy.isOpen) && hit (cy.tag + BitVec.ofNat 64 (32 * cy.chunk)) 32)

/-- The transfer locks of R195 on own bytes. A shadowed destination locks nothing (R224). Log 16 (DEDUCED). -/
def State.transferLocked (s : State) (n off len : Nat) (write : Bool) : Bool :=
  let e := (s.ctxOf n).eng
  (e.chan.toList.any fun ch =>
    match ch.stream with
    | some st => ch.state == 1 && ((!st.sh && s.rowsTouch n st true off len)
        || (write && (s.rowsTouch n st false off len
              || ((st.kind == .gath || st.kind == .scat) && linesMeet st.idx (4 * st.rows) off len))))
    | none => false)
    || (match e.cipher with | some cy => s.cipherTouches n cy off len write | none => false)

/-! ### Holds -/

/-- Whether a bank-lock run holds a line of the bytes (R70, R186, R194). -/
def LockRun.holds (l : LockRun) (off len : Nat) : Bool :=
  (linesOf off len).any fun ln =>
    let g := BitVec.ofNat 2 (ln / 65536)
    let b := ln % 8
    decide (ln < 0x40000) && ((g == l.ga && l.maska.getLsbD b) || (g == l.gb && l.maskb.getLsbD b))

def Ctx.bankHeld (c : Ctx) (off len : Nat) : Bool :=
  match c.lock with
  | some l => l.holds off len
  | none => false

/-- The tiles locked by the routines issued and not complete (R252). -/
def Ctx.lockedTiles (c : Ctx) : List Nat :=
  (match c.eng.mx.run with | some r => r.tiles | none => []) ++
    (match c.eng.mx.queue with | some r => r.tiles | none => [])

/-- The tiles that accumulator bytes lie in (R163). -/
def tilesOf (off len : Nat) : List Nat :=
  if off < 0x1000000 then [] else rangeFrom ((off - 0x1000000) / 65536) ((off + len - 1 - 0x1000000) / 65536 - (off - 0x1000000) / 65536 + 1)

def Ctx.tileLocked (c : Ctx) (off len : Nat) : Bool := (tilesOf off len).any fun t => c.lockedTiles.contains t

/-- The bank groups held by the running routine (R249). -/
def Ctx.heldGroups (c : Ctx) : List Nat :=
  match c.eng.mx.run with
  | some r => if c.eng.mx.started then r.groups else []
  | none => []

/-- The bank groups of scratchpad bytes (R186). -/
def groupsOf (off len : Nat) : List Nat :=
  if 0x1000000 ≤ off then [] else rangeFrom (off / 0x400000) ((off + len - 1) / 0x400000 - off / 0x400000 + 1)

def Ctx.groupHeld (c : Ctx) (off len : Nat) : Bool := (groupsOf off len).any fun g => c.heldGroups.contains g

/-- The presence blocks of bytes of a slice. -/
def blocksOf (off len : Nat) : List Nat := rangeFrom (blockOf off) (blockOf (off + len - 1) - blockOf off + 1)

/-! ### Form and poison -/

/-- The first offset of a line of a slice whose form or poison bit is set, among the lines of the bytes. -/
def State.formAt (s : State) (n off len : Nat) : Option Nat :=
  if s.mem.form.isEmpty then none
  else ((linesOf off len).find? fun l => s.mem.form.contains (s.sliceAt n (64 * l) / 64)).map (· * 64)

def State.poisonAt (s : State) (n off len : Nat) : Option Nat :=
  if s.mem.poison.isEmpty then none
  else ((linesOf off len).find? fun l => s.mem.poison.contains (s.sliceAt n (64 * l) / 64)).map (· * 64)

/-- The address of a line that an access at address a, offset off, touches at offset o. Log 14 (DEDUCED). -/
def lineAddr (a : Word) (off o : Nat) : Word := a + BitVec.ofNat 64 o - BitVec.ofNat 64 off

/-- A recorded matrix fault, raised with TSLOT 4 (R253). -/
def State.mxTrap (s : State) : Option Trap :=
  match s.c.eng.mx.fault with
  | some (code, a) => some { s.trapHere code 4 a with source := .matrix }
  | none => none

/-- Whether an access of the current context to own bytes that went out through CLUSTER has not been applied (R118, R192): a later
access to the same lines waits for it, unless the spindle's own hold keeps it out. Log 49 (DEDUCED). -/
def State.ownUnderWay (s : State) (off len : Nat) : Bool :=
  s.msgs.any fun m => m.st == .going && m.ctx == s.c.id && !s.c.bankHeld off len &&
    match m.loc, m.op with
    | .slice n o, .load _ k => n == s.cur && linesMeet o k off len
    | .slice n o, .store bs => n == s.cur && linesMeet o bs.length off len
    | .slice n o, .atomic a => n == s.cur && linesMeet o (match a.op with | .vacc _ => 512 | _ => 16) off len
    | _, _ => false

/-- An access of the current spindle's own slots to own bytes, after its address checks: the traps and waits of R179,
R195, R236, R252, R346 and R381 in front of its effect `k`. Log 14 (DEDUCED). -/
def State.ownAccess (s : State) (slot : Nat) (a : Word) (off len : Nat) (read write : Bool) (k : Issue) : Issue :=
  let n := s.cur
  let c := s.c
  let miss := s.missingOf n (blocksOf off len)
  if !miss.isEmpty then .wait (wBLOCK :: if c.tileLocked off len then [wENGINE] else []) (s.askBlocks n miss)
  else if (tilesOf off len).any (fun t => c.eng.mx.faultTiles.contains t) && s.mxTrap.isSome then
    match s.mxTrap with | some t => .trap t | none => k
  else if c.tileLocked off len then .wait [wENGINE] s
  else if s.transferLocked n off len write then .wait [wBANK] s
  else if s.ownUnderWay off len then .wait [wREMOTE] s
  else
    match (if read then s.formAt n off len else none) with
    | some o => s.raise tFORM slot (lineAddr a off o)
    | none =>
      match (if read then s.poisonAt n off len else none) with
      | some o => s.raise tMEMERR slot (lineAddr a off o)
      | none => k

end Sys2Proof.Machine
end

