-- ==== Sys2Proof/Machine/Access.lean ====
section
/-!
DEFINITION. Accesses of the LS slot (R184, R185, R190, R191): the checks of an address, the own slice, and the requests
that leave the spindle as messages (R191, R192, R260) or as fixed-time accesses of a timed domain (R291).
-/

namespace Sys2Proof.Machine

/-! ### Reaching a remote home -/

/-- Where a remote access goes: a home with a location, another spindle of the same timed domain, or nowhere. -/
inductive Reach where
  | home (l : Loc)
  | dom (n : Nat) (off : Nat)
  | stop (i : Issue)

/-- Whether spindle m belongs to the timed domain of the current context (R290). Handler cycles are no domain cycles. -/
def State.inDomain (s : State) (m : Nat) : Bool :=
  let c := s.c
  let d := s.sp m
  c.domain && !c.ctl.hmode && d.run != .empty && d.ctx.domain && d.ctx.gang == c.gang

/-- The hops of R291. -/
def hops (a b : Nat) : Nat :=
  let d (x y : Nat) := if x ≤ y then y - x else x - y
  d (standOf a % 5) (standOf b % 5) + d (indexOf a) (indexOf b)

/-- The home of a remote access that passes its checks (R184, R328, R330). -/
def State.reach (s : State) (slot : Nat) (a : Word) (aim : Aim) (write : Bool) : Reach :=
  let c := s.c
  match aim with
  | .own off => .home (.slice s.cur off)
  | .remote n off => if s.inDomain n then .dom n off else .home (.slice n off)
  | .global o =>
    if 2 ^ 49 ≤ o then .stop (s.raise tXLATE slot a)
    else
      match s.xlate (dieOf s.cur) c.partN o write c.ctl.strict with
      | .hit l _ => .home l
      | .miss => .stop (.wait [wXLATE] (s.askWalk (dieOf s.cur) c.partN o))
      | .fault => .stop (s.raise tXLATE slot a)
  | .cluster m off =>
    if (s.clusterByte c.partN m).getLsbD 6 then
      -- an address of the own module has the home of its byte (R257)
      match (if m = s.pf.modid.toNat then s.farPlace (s.farPart c.partN m) off write else none) with
      | some l => .home l
      | none => .home (.far m off)
    else .stop (s.raise tXLATE slot a)
  | .bad => .stop (s.raise tXLATE slot a)

/-! ### Limits (R191, R278, R302) -/

/-- Whether a message counts towards a limit: a load, a store, an atomic, a GWAIT, or a GSIG that does not wait. -/
def Msg.counted (m : Msg) : Bool :=
  match m.op with
  | .load .. | .store _ | .atomic _ => true
  | .gate op _ _ _ _ => op == 1 || (op == 0 && !m.waits)
  | _ => false

/-- Groups of counted messages of a context, waiting or not. -/
def State.groupsOfCtx (s : State) (ctx : Nat) (waits : Bool) : List Nat :=
  ((s.msgs.filter fun m => m.ctx == ctx && m.waits == waits && m.counted).map Msg.grp).eraseDups

/-- The fixed-time accesses that return a value and whose result has not landed. -/
def Ctx.domReturns (c : Ctx) : Nat := c.pipe.countP fun p => match p.dom with | some d => d.2 | none => false

/-- Fixed-time accesses in flight that return a value, or that return none. -/
def Ctx.domInFlight (c : Ctx) (waits : Bool) : Nat :=
  if waits then c.domReturns else c.domOps.countP fun d => d.dest == .none

/-- The limits: 32 remote loads, 64 unacknowledged stores. The word waits, or idles where every access it waits for has a
domain home (R293). -/
def State.limited (s : State) (waits : Bool) (k : Issue) : Issue :=
  let outside := (s.groupsOfCtx s.c.id waits).length
  let inside := s.c.domInFlight waits
  if outside + inside < (if waits then 32 else 64) then k
  else if outside = 0 then .idle s else .wait [wLIMIT] s

/-! ### Sending -/

/-- A write or an atomic enters the clock of its die as it leaves (R260). -/
def MsgOp.writes : MsgOp → Bool
  | .store _ | .atomic _ => true
  | _ => false

/-- Sends one message of the current context; returns its number. -/
def State.send (s : State) (loc : Loc) (op : MsgOp) (dest : Dest) (waits : Bool) (grp : Nat) (val : Word) (slot : Nat) :
    Nat × State :=
  let d := dieOf s.cur
  let s := if op.writes then s.tick d else s
  let (id, s) := s.fresh
  let m : Msg := { id := id, ctx := s.c.id, spin := s.cur, part := s.c.partN, loc := loc, op := op, dest := dest,
                   waits := waits, grp := grp, val := val, slot := slot, clock := s.clockOf d }
  (id, { s with msgs := s.msgs ++ [m] })

/-- A result of latency lat that awaits messages (R191), with its declared bound under strict mode (R294). -/
def State.awaitAll (s : State) (ids : List Nat) (lat bound : Nat) : State :=
  let e : Pending := { left := lat, await := ids.head?, also := ids.tail, bound := if s.c.ctl.strict then some bound else none }
  s.modC fun c => if c.ctl.hmode then { c with hpipe := c.hpipe ++ [e] } else { c with pipe := c.pipe ++ [e] }

/-- The same for one message. -/
def State.await (s : State) (id lat bound : Nat) : State := s.awaitAll [id] lat bound

/-- A remote request whose reply is waited for at latency 6, or one that is only acknowledged. -/
def State.request (s : State) (loc : Loc) (op : MsgOp) (dest : Dest) (waits : Bool) (val : Word) (slot : Nat) : State :=
  let (id, s) := s.send loc op dest waits s.nextId val slot
  if waits then s.await id 6 6 else s

/-- A fixed-time access (R291): its result takes its place among the results in flight as it issues (R75). -/
def State.domSend (s : State) (n off : Nat) (op : MsgOp) (dest : Dest) (val : Word) : State :=
  let h := hops s.cur n
  let s := if op.writes then s.tick (dieOf s.cur) else s
  let (id, s) := s.fresh
  let d : DomOp := { id := id, home := n, off := off, op := op, dest := dest, val := val, applyIn := 5 + h
                     clock := s.clockOf (dieOf s.cur) }
  s.modC fun c => { c with
    domOps := c.domOps ++ [d]
    pipe := c.pipe ++ [{ left := 10 + 2 * h, dom := some (id, dest != .none) }] }

/-! ### The checks of a load or a store -/

/-- The presence block of the guard of an LS word. -/
def guardBlocksLs (g : BitVec 3) : List Nat := if g = 0 then [] else [2]

/-- A guarded LS word (R76). -/
def State.guardedLs (s : State) (g : BitVec 3) (bs : List Nat) (k : Issue) : Issue :=
  Issue.touching s (guardBlocksLs g) (if s.c.guardLs g then Issue.touching s bs k else .ok s)

/-- Whether an address targets accumulator SRAM, on this module or, by range alone, on another (R185, R272). -/
def accRange (a : Nat) : Bool :=
  decide (sharedBase ≤ a) && decide (a < 2 ^ 43) && decide (0x1000000 ≤ (a - sharedBase) % sharedStride)
    && decide ((a - sharedBase) % sharedStride < localSize)

def State.targetsAcc (s : State) (a : Nat) : Bool :=
  match s.aim s.c a with
  | .own off | .remote _ off => decide (0x1000000 ≤ off)
  | .cluster _ off => accRange off
  | _ => false

/-- The bounds of R189 on own bytes: the scratchpad lies in [SEGLO, SEGHI). -/
def Ctx.inBounds (c : Ctx) (off len : Nat) : Bool :=
  decide (0x1000000 ≤ off) || (decide (c.ctl.seglo.toNat ≤ off) && decide (off + len ≤ c.ctl.seghi.toNat))

/-- An access of len bytes at a: alignment, decode, bounds and MBANK (R185, R249), then `own` for the own slice and
`far` for a remote home. -/
def State.lsAccess (s : State) (a : Word) (len : Nat) (own : Nat → Issue) (far : Aim → Issue) : Issue :=
  let al := if len = 512 then (if s.targetsAcc a.toNat then 512 else 64) else len
  if a.toNat % al != 0 then s.raise tALIGN 3 a
  else
    match s.aim s.c a.toNat with
    | .bad => s.raise tXLATE 3 a
    | .own off =>
      if !s.c.inBounds off len then s.raise tSEGBOUND 3 a
      else if s.c.groupHeld off len then s.raise tMBANK 3 a
      else own off
    | aim => far aim

/-- The effective address of the LM format (R190). -/
def Ctx.ea (c : Ctx) (base : BitVec 5) (off : BitVec 10) (size : Nat) : Word :=
  c.regs.rx base + off.signExtend 64 * BitVec.ofNat 64 size

/-- The bytes of a scalar load as a register value, sign-extended from its size or zero-extended (R190). -/
def loadValue (sx : Bool) (bs : List Byte) : Word :=
  let v := ofBytesLE bs
  if sx && decide (2 ^ (8 * bs.length - 1) ≤ v) then BitVec.ofNat 64 (v + 2 ^ 64 - 2 ^ (8 * bs.length))
  else BitVec.ofNat 64 v

/-- The operation number of a load message: 0 sign-extends, 1 zero-extends, 2 is a row (R190). -/
def loadOp (sx : Bool) : Nat := if sx then 0 else 1

/-- A scalar load (R190, R191). -/
def State.load (s : State) (reg : BitVec 6) (base : BitVec 5) (off : BitVec 10) (g : BitVec 3) (size : Nat) (sx : Bool) :
    Issue :=
  s.guardedLs g [0, regBlock6 reg] <|
    let a := s.c.ea base off size
    s.lsAccess a size
      (fun o => s.ownAccess 3 a o size true false <|
        let r := s.localRead s.cur o size
        .ok (r.2.pend 6 [landReg6 reg (loadValue sx r.1)]))
      (fun aim => s.limited true <|
        match s.reach 3 a aim false with
        | .home l => .ok (s.request l (.load (loadOp sx) size) (dest6 reg) true a 3)
        | .dom n o => .ok (s.domSend n o (.load (loadOp sx) size) (if dest6 reg = .none then .x 0 else dest6 reg) a)
        | .stop i => i)

/-- A scalar store (R190, R191). -/
def State.store (s : State) (reg : BitVec 6) (base : BitVec 5) (off : BitVec 10) (g : BitVec 3) (size : Nat) : Issue :=
  s.guardedLs g [0, regBlock6 reg] <|
    let a := s.c.ea base off size
    let bs := bytesLE (s.c.rd6 reg).toNat size
    s.lsAccess a size
      (fun o => s.ownAccess 3 a o size false true (.ok (s.localWrite s.cur o bs)))
      (fun aim => s.limited false <|
        match s.reach 3 a aim true with
        | .home l => .ok (s.request l (.store bs) .none false a 3)
        | .dom n o => .ok (s.domSend n o (.store bs) .none a)
        | .stop i => i)

/-! ### Rows -/

/-- The bytes from an offset to the end of the page that holds it, for an access through a page table: GLOBAL, and the
translated half of CLUSTER on the own module (R328, R330). Other bytes lie together. -/
def State.toPageEnd (s : State) (aim : Aim) : Option Nat :=
  match aim with
  | .global o => some (match s.heldFor (dieOf s.cur) s.c.partN o with | some h => h.base + h.size - o | none => 65536 - o % 65536)
  | .cluster m off =>
    if bitOf off 43 && m == s.pf.modid.toNat then
      let o := off - 2 ^ 43
      some (match s.walk (s.farPart s.c.partN m) o with | some l => l.base + l.size - o | none => 65536 - o % 65536)
    else none
  | _ => none

/-- The pieces of a row by page: offset from its start and length. -/
def State.rowPieces (s : State) (aim : Aim) : List (Nat × Nat) :=
  match s.toPageEnd aim with
  | some w => if 512 ≤ w then [(0, 512)] else [(0, w), (w, 512 - w)]
  | none => [(0, 512)]

/-- The homes of several pieces of an access: all of them, or the first that stops. -/
def State.reachAll (s : State) (slot : Nat) (a : Word) (write : Bool) : List (Nat × Nat) → Except Issue (List (Nat × Nat × Loc))
  | [] => .ok []
  | (d, n) :: ps =>
    let b := a + BitVec.ofNat 64 d
    -- a fault of any piece reports the address of the access (R185, R328)
    match s.reach slot a (s.aim s.c b.toNat) write with
    | .stop i => .error i
    | .dom m o => (s.reachAll slot a write ps).map fun r => (d, n, .slice m o) :: r
    | .home l => (s.reachAll slot a write ps).map fun r => (d, n, l) :: r

/-- VLD (R190, R191): the row is fixed at issue (R163). A row in two pages is one result that awaits two answers. -/
def State.vload (s : State) (reg : BitVec 6) (base : BitVec 5) (off : BitVec 10) (g : BitVec 3) : Issue :=
  s.guardedLs g [0, 2] <|
    let a := s.c.ea base off 512
    let ro := rowOff (s.c.row reg)
    s.lsAccess a 512
      (fun o => s.ownAccess 3 (BitVec.ofNat 64 ro) ro 512 false true <| s.ownAccess 3 a o 512 true false <|
        let r := s.localRead s.cur o 512
        .ok (r.2.pend 6 [.acc false ro r.1]))
      (fun aim => s.ownAccess 3 (BitVec.ofNat 64 ro) ro 512 false true <| s.limited true <|
        match s.reach 3 a aim false with
        | .dom n o => .ok (s.domSend n o (.load 2 512) (.row ro) a)
        | .stop i => i
        | .home l =>
          let ps := s.rowPieces aim
          match (if ps.length = 1 then .ok [(0, 512, l)] else s.reachAll 3 a false ps) with
          | .error i => i
          | .ok ls =>
            let grp := s.nextId
            .ok ((ls.foldl (fun s p => (s.send p.2.2 (.load 2 p.2.1) (.row (ro + p.1)) true grp a 3).2) s).awaitAll
              ((List.range ls.length).map (grp + ·)) 6 6))

/-- VST (R190, R192): eight line writes to a remote home, one write of 512 bytes to the own slice. -/
def State.vstore (s : State) (reg : BitVec 6) (base : BitVec 5) (off : BitVec 10) (g : BitVec 3) : Issue :=
  s.guardedLs g [0, 2] <|
    let a := s.c.ea base off 512
    let ro := rowOff (s.c.row reg)
    s.lsAccess a 512
      (fun o => s.ownAccess 3 (BitVec.ofNat 64 ro) ro 512 true false <| s.ownAccess 3 a o 512 false true <|
        .ok (s.localWrite s.cur o (s.readRow s.cur (s.c.row reg))))
      (fun aim => s.ownAccess 3 (BitVec.ofNat 64 ro) ro 512 true false <| s.limited false <|
        let bs := s.readRow s.cur (s.c.row reg)
        match s.reach 3 a aim true with
        | .dom n o => .ok (s.domSend n o (.store bs) .none a)
        | .stop i => i
        | .home _ =>
          match s.reachAll 3 a true ((List.range 8).map fun i => (64 * i, 64)) with
          | .error i => i
          | .ok ls =>
            let grp := s.nextId
            .ok (ls.foldl (fun s p => (s.send p.2.2 (.store ((bs.drop p.1).take 64)) .none false grp a 3).2) s))

end Sys2Proof.Machine
end

