-- ==== Sys2Proof/Machine/LoadStore.lean ====
section
/-!
DEFINITION. The loads and stores of the LS slot (R190, R191).
-/

namespace Sys2Proof.Machine

/-- LDB (R190). -/
def issueLdb (reg : BitVec 6) (base : BitVec 5) (off : BitVec 10) (g : BitVec 3) (s : State) : Issue :=
  s.load reg base off g 1 true

def execLdb (reg : BitVec 6) (base : BitVec 5) (off : BitVec 10) (g : BitVec 3) (s : State) : Host.Outcome State Fault Refusal :=
  commit 3 s (issueLdb reg base off g s)

/-- LDH (R190). -/
def issueLdh (reg : BitVec 6) (base : BitVec 5) (off : BitVec 10) (g : BitVec 3) (s : State) : Issue :=
  s.load reg base off g 2 true

def execLdh (reg : BitVec 6) (base : BitVec 5) (off : BitVec 10) (g : BitVec 3) (s : State) : Host.Outcome State Fault Refusal :=
  commit 3 s (issueLdh reg base off g s)

/-- LDW (R190). -/
def issueLdw (reg : BitVec 6) (base : BitVec 5) (off : BitVec 10) (g : BitVec 3) (s : State) : Issue :=
  s.load reg base off g 4 true

def execLdw (reg : BitVec 6) (base : BitVec 5) (off : BitVec 10) (g : BitVec 3) (s : State) : Host.Outcome State Fault Refusal :=
  commit 3 s (issueLdw reg base off g s)

/-- LDD (R190). -/
def issueLdd (reg : BitVec 6) (base : BitVec 5) (off : BitVec 10) (g : BitVec 3) (s : State) : Issue :=
  s.load reg base off g 8 false

def execLdd (reg : BitVec 6) (base : BitVec 5) (off : BitVec 10) (g : BitVec 3) (s : State) : Host.Outcome State Fault Refusal :=
  commit 3 s (issueLdd reg base off g s)

/-- LDBZ (R190). -/
def issueLdbz (reg : BitVec 6) (base : BitVec 5) (off : BitVec 10) (g : BitVec 3) (s : State) : Issue :=
  s.load reg base off g 1 false

def execLdbz (reg : BitVec 6) (base : BitVec 5) (off : BitVec 10) (g : BitVec 3) (s : State) : Host.Outcome State Fault Refusal :=
  commit 3 s (issueLdbz reg base off g s)

/-- LDHZ (R190). -/
def issueLdhz (reg : BitVec 6) (base : BitVec 5) (off : BitVec 10) (g : BitVec 3) (s : State) : Issue :=
  s.load reg base off g 2 false

def execLdhz (reg : BitVec 6) (base : BitVec 5) (off : BitVec 10) (g : BitVec 3) (s : State) : Host.Outcome State Fault Refusal :=
  commit 3 s (issueLdhz reg base off g s)

/-- LDWZ (R190). -/
def issueLdwz (reg : BitVec 6) (base : BitVec 5) (off : BitVec 10) (g : BitVec 3) (s : State) : Issue :=
  s.load reg base off g 4 false

def execLdwz (reg : BitVec 6) (base : BitVec 5) (off : BitVec 10) (g : BitVec 3) (s : State) : Host.Outcome State Fault Refusal :=
  commit 3 s (issueLdwz reg base off g s)

/-- STB (R190). -/
def issueStb (reg : BitVec 6) (base : BitVec 5) (off : BitVec 10) (g : BitVec 3) (s : State) : Issue :=
  s.store reg base off g 1

def execStb (reg : BitVec 6) (base : BitVec 5) (off : BitVec 10) (g : BitVec 3) (s : State) : Host.Outcome State Fault Refusal :=
  commit 3 s (issueStb reg base off g s)

/-- STH (R190). -/
def issueSth (reg : BitVec 6) (base : BitVec 5) (off : BitVec 10) (g : BitVec 3) (s : State) : Issue :=
  s.store reg base off g 2

def execSth (reg : BitVec 6) (base : BitVec 5) (off : BitVec 10) (g : BitVec 3) (s : State) : Host.Outcome State Fault Refusal :=
  commit 3 s (issueSth reg base off g s)

/-- STW (R190). -/
def issueStw (reg : BitVec 6) (base : BitVec 5) (off : BitVec 10) (g : BitVec 3) (s : State) : Issue :=
  s.store reg base off g 4

def execStw (reg : BitVec 6) (base : BitVec 5) (off : BitVec 10) (g : BitVec 3) (s : State) : Host.Outcome State Fault Refusal :=
  commit 3 s (issueStw reg base off g s)

/-- STD (R190). -/
def issueStd (reg : BitVec 6) (base : BitVec 5) (off : BitVec 10) (g : BitVec 3) (s : State) : Issue :=
  s.store reg base off g 8

def execStd (reg : BitVec 6) (base : BitVec 5) (off : BitVec 10) (g : BitVec 3) (s : State) : Host.Outcome State Fault Refusal :=
  commit 3 s (issueStd reg base off g s)

/-- VLD (R190). -/
def issueVld (reg : BitVec 6) (base : BitVec 5) (off : BitVec 10) (g : BitVec 3) (s : State) : Issue :=
  s.vload reg base off g

def execVld (reg : BitVec 6) (base : BitVec 5) (off : BitVec 10) (g : BitVec 3) (s : State) : Host.Outcome State Fault Refusal :=
  commit 3 s (issueVld reg base off g s)

/-- VST (R190, R192). -/
def issueVst (reg : BitVec 6) (base : BitVec 5) (off : BitVec 10) (g : BitVec 3) (s : State) : Issue :=
  s.vstore reg base off g

def execVst (reg : BitVec 6) (base : BitVec 5) (off : BitVec 10) (g : BitVec 3) (s : State) : Host.Outcome State Fault Refusal :=
  commit 3 s (issueVst reg base off g s)

end Sys2Proof.Machine
end

