-- ==== Sys2Proof/Machine/Messages.lean ====
section
/-!
DEFINITION. The updates of atomics (R274 to R277), the messages between contexts and homes: where a home is, the order in
which it applies them (R192, R260), replies and failures as they arrive (R191, R280, R304, R311), and the waits of a
FENCE and of a release half (R133, R263, R264, R279, R287).
-/

namespace Sys2Proof.Machine

/-! ### Updates of atomics -/

/-- What an atomic's update gives: the new bytes, or none when nothing is written, the returned values and the flags. -/
structure Upd where
  bytes : Option (List Byte)
  v : Word := 0
  v2 : Word := 0
  fl : BitVec 9 := 0
  deriving DecidableEq, Repr

/-- AINT (R274): the new value of m. -/
def aintNew (fn : Nat) (m sv : Word) : Word :=
  match fn with
  | 0 | 1 => m + sv
  | 2 => m &&& sv
  | 3 => m ||| sv
  | 4 => m ^^^ sv
  | 5 => if BitVec.slt m sv then m else sv
  | 6 => if BitVec.slt m sv then sv else m
  | 7 => if BitVec.ult m sv then m else sv
  | 8 => if BitVec.ult m sv then sv else m
  | _ => sv

/-- The format and element bytes of an AFP format field (R275). -/
def afpFmt (k : Nat) : FF × Nat :=
  match k with
  | 0 => (ff16, 2)
  | 1 => (ffB16, 2)
  | 2 => (ff32, 4)
  | _ => (ff64, 8)

/-- One element of an AFP or of a VACC or COLL: 0 adds, 1 and 2 take the minimum and the maximum (R168, R275, R277). -/
def fpUpdate (f : FF) (op a b rm : Nat) (zi zo : Bool) : Res :=
  let a := f.flush zi a
  let b := f.flush zi b
  match op with
  | 0 => f.addV (f.decode a) (f.decode b) rm false zo
  | 1 => f.minmax false a b
  | _ => f.minmax true a b

/-- The elements of w bytes of two byte lists updated one by one. -/
def mapElems (w : Nat) (f : Nat → Nat → Res) (a b : List Byte) : List Byte × BitVec 9 :=
  let rs := ((chunksOf w a.length a).zip (chunksOf w b.length b)).map fun p => f (ofBytesLE p.1) (ofBytesLE p.2)
  (rs.flatMap fun r => bytesLE r.bits w, rs.foldl (fun fl r => fl ||| r.fl) 0)

/-- A lane function of VACC and COLL by the type code of VACC's fn (R86, R214, R277): its width and its element update. -/
def laneUpdate (ty op rm : Nat) (zi zo : Bool) : Nat × (Nat → Nat → Res) :=
  let fp (f : FF) (w : Nat) : Nat × (Nat → Nat → Res) := (w, fun a b => fpUpdate f op a b rm zi zo)
  match ty with
  | 1 => fp ff32 4
  | 2 => fp ff64 8
  | 3 => fp ffB16 2
  | 4 => fp ff16 2
  | _ => (4, fun a b =>
      match op with
      | 0 => ⟨(a + b) % 2 ^ 32, 0⟩
      | 1 => ⟨if BitVec.slt (BitVec.ofNat 32 a) (BitVec.ofNat 32 b) then a else b, 0⟩
      | _ => ⟨if BitVec.slt (BitVec.ofNat 32 a) (BitVec.ofNat 32 b) then b else a, 0⟩)

/-- The update of an atomic on the bytes that it reads (R274 to R277). -/
def Atomic.update (a : Atomic) (m : List Byte) : Upd :=
  let mv := BitVec.ofNat 64 (ofBytesLE m)
  let old32 := loadValue true m
  match a.op with
  | .int fn => ⟨some (bytesLE (aintNew fn mv a.sv).toNat m.length), if m.length = 4 then old32 else mv, 0, 0⟩
  | .fp op k =>
    let (f, w) := afpFmt k
    let r := mapElems w (fun x y => fpUpdate f op x y (a.vctl.toNat % 4) false false) m (bytesLE a.sv.toNat m.length)
    ⟨some r.1, mv, 0, r.2⟩
  | .cas size =>
    if size = 16 then
      let lo := BitVec.ofNat 64 (ofBytesLE (m.take 8))
      let hi := BitVec.ofNat 64 (ofBytesLE (m.drop 8))
      ⟨if lo = a.dv ∧ hi = a.dv2 then some (bytesLE a.sv.toNat 8 ++ bytesLE a.sv2.toNat 8) else none, lo, hi, 0⟩
    else
      ⟨if bytesLE a.dv.toNat size = m then some (bytesLE a.sv.toNat size) else none,
        if size = 4 then old32 else mv, 0, 0⟩
  | .vacc 0 => ⟨some a.row, 0, 0, 0⟩
  | .vacc fn =>
    let (w, f) := laneUpdate fn 0 (a.vctl.toNat % 4) (a.vctl.getLsbD 3) (a.vctl.getLsbD 4)
    let r := mapElems w f m a.row
    ⟨some r.1, 0, 0, r.2⟩

/-- The bytes that an atomic reads (R272). -/
def Atomic.size (a : Atomic) : Nat :=
  match a.op with
  | .int 0 | .int 9 => 4
  | .int _ => 8
  | .fp _ k => if k = 3 then 8 else 4
  | .cas size => size
  | .vacc _ => 512

/-! ### Homes -/

/-- The home of a message (R257): its kind and number. -/
def Msg.home (m : Msg) : Nat × Nat :=
  match m.op with
  | .barrier .. | .query .. => (5, 0)
  | .gate .. => (6, 0)
  | .join _ => (7, 0)
  | _ =>
    match m.loc with
    | .slice n _ => (0, n)
    | .phys pa => if isHbm pa then (1, pa / 2 ^ 36) else (2, pa / 2 ^ 40 % 16)
    | .host _ => (3, 0)
    | .far k _ => (4, k)

/-- The die to which a home belongs, if it is on a compute die (R257). -/
def homeDie (h : Nat × Nat) : Option Nat :=
  if h.1 = 0 then some (dieOf h.2) else if h.1 = 1 then some (h.2 / 4) else none

/-- Whether a home lies in a fence's scope for spindle n (R263). -/
def inScope (n scope : Nat) (h : Nat × Nat) : Bool :=
  match scope with
  | 0 => h == (0, n)
  | 1 => h.1 == 0 && standOf h.2 == standOf n
  | 2 => homeDie h == some (dieOf n)
  | 3 => decide (h.1 ≤ 2)
  | _ => true

def Msg.isGoing (m : Msg) : Bool := m.st == .going

/-- Whether a clock covers a write of a fixed-time access that has not been applied at a home, its issuer's domain apart:
such an access never waits, and the domain's own schedule orders it (R260, R291). Log 49 (DEDUCED). -/
def State.domCovered (s : State) (atHome : Nat → Bool) (gang : Nat) (t : List Nat) : Bool :=
  s.spindles.any fun x => x.2.run != .empty && x.2.ctx.gang != gang && x.2.ctx.domOps.any fun d =>
    d.op.writes && atHome d.home && decide (d.clock.getD (dieOf x.1) 0 ≤ t.getD (dieOf x.1) 0)

/-- The gang of the context that sent a message, 0 if it is on no spindle. -/
def State.gangOfMsg (s : State) (m : Msg) : Nat :=
  match s.whereIs m.ctx with
  | some n => (s.ctxOf n).gang
  | none => 0

/-- Whether a home is the slice of a spindle of a timed domain: its fixed-time accesses never wait for what they cover. -/
def State.homeInDomain (s : State) (h : Nat × Nat) : Bool := h.1 == 0 && (s.sp h.2).run != .empty && (s.ctxOf h.2).domain

/-- Whether the homes of two messages are one for the order of a write: the same home or, for a write to a slice of a timed
domain, any home of its die, so that no fixed-time access sees a write before what that write covers (R260, R261, R291).
Log 49 (DEDUCED). -/
def State.sameOrder (s : State) (e m : Msg) : Bool :=
  e.home == m.home || (m.op.writes && s.homeInDomain m.home && (homeDie e.home).isSome && homeDie e.home == homeDie m.home)

/-- Whether a message must not be applied yet: an earlier one of its spindle to the same home is still going (R192), or
a write to the same home that its clock covers is (R260). -/
def State.blockedByOrder (s : State) (m : Msg) : Bool :=
  (s.msgs.any fun e => e.isGoing && e.id != m.id && s.sameOrder e m &&
    ((e.home == m.home && e.spin == m.spin && decide (e.id < m.id))
      || (e.op.writes && decide (e.clock.getD (dieOf e.spin) 0 ≤ m.clock.getD (dieOf e.spin) 0)
          && !(dieOf e.spin == dieOf m.spin && decide (m.id < e.id)))))
    || s.domCovered (fun n => m.home == (0, n)) (s.gangOfMsg m) m.clock

def State.msg (s : State) (id : Nat) : Option Msg := s.msgs.find? fun m => m.id == id
def State.modMsg (s : State) (id : Nat) (f : Msg → Msg) : State :=
  { s with msgs := s.msgs.map fun m => if m.id == id then f m else m }
def State.dropMsg (s : State) (id : Nat) : State := { s with msgs := s.msgs.filter fun m => m.id != id }

/-- Changes a context wherever it is: on a spindle, suspended, or in an image of its partition. -/
def State.modCtxId (s : State) (part ctx : Nat) (f : Ctx → Ctx) : State :=
  match s.whereIs ctx with
  | some n => s.modCtx n f
  | none =>
    s.modSched part fun d => { d with
      susp := d.susp.map fun u => if u.sp.ctx.id == ctx then { u with sp := { u.sp with ctx := f u.sp.ctx } } else u
      images := d.images.map fun p => if p.2.ctx.id == ctx then (p.1, { p.2 with ctx := f p.2.ctx }) else p }

/-- Changes the results in flight of a context that await a message. -/
def Ctx.onAwaited (c : Ctx) (id : Nat) (f : Pending → Option Pending) : Ctx :=
  let go (l : List Pending) : List Pending := l.filterMap fun p => if p.awaits.contains id then f p else some p
  { c with pipe := go c.pipe, hpipe := go c.hpipe }

/-- Whether a reply may land on a die for a context of a gang: every write that its tag covers and that goes to a home of
the die has been applied (R260, merging). -/
def State.mayLandIn (s : State) (die gang : Nat) (tag : List Nat) : Bool :=
  !(s.msgs.any fun e => e.isGoing && e.op.writes && homeDie e.home == some die
    && decide (e.clock.getD (dieOf e.spin) 0 ≤ tag.getD (dieOf e.spin) 0))
    && !s.domCovered (fun n => dieOf n == die) gang tag

/-- The same for what reaches no timed domain. -/
def State.mayLand (s : State) (die : Nat) (tag : List Nat) : Bool := s.mayLandIn die 0 tag

/-- Whether the acquiring side of an edge of R265 may go on with a clock: no clock, or every write that it covers on the
die has been applied. -/
def State.mayAcquire (s : State) (n : Nat) (t : List Nat) : Bool :=
  t.all (· == 0) || s.mayLandIn (dieOf n) (s.ctxOf n).gang t

/-- A reply or an acknowledgement arrives (R191, R278): flags are set, the tag is merged, and the value is held for its
landing. -/
def State.deliver (s : State) (id : Nat) : State :=
  match s.msg id with
  | some m =>
    match m.st with
    | .replied v v2 bs fl tag =>
      let s := (s.dropMsg id).mergeClock (dieOf m.spin) tag
      let runs := (s.sp m.spin).run == .running && (s.ctxOf m.spin).id == m.ctx
      -- what a task reads before its SSTEP goes on is among what the step releases (R265)
      s.modCtxId m.part m.ctx fun c => ({ c.flagLater runs fl with
          stepClock := if c.step == StepWait.idle then c.stepClock else clockMax c.stepClock tag }).onAwaited id fun p =>
        some (p.answered id (m.dest.lands v v2 bs))
    | _ => s
  | none => s

/-- A failure arrives (R280, R285, R304): the destination keeps its value, the other answer of a row that lies in two pages is
not looked at, and a notice is pending (R311). That of a barrier arrival whose reply is awaited is raised when the reply lands
(R285). -/
def State.deliverFailure (s : State) (id : Nat) : State :=
  match s.msg id with
  | some m =>
    match m.st with
    | .failed code =>
      let x : Notice := { code := code, slot := m.slot, val := m.val, at_ := s.gcyc }
      let twin (e : Msg) : Bool := e.ctx == m.ctx && e.grp == m.grp && e.waits && m.waits
      { s with msgs := s.msgs.filter fun e => !(e.id == id || twin e) }.modCtxId m.part m.ctx fun c =>
        if code = tBOVER ∧ m.waits = true then
          c.onAwaited id fun p => some { p with await := none, lands := [], notice := some x }
        else
          let c := c.onAwaited id fun _ => none
          { c with notices := c.notices ++ [x] }
    | _ => s
  | none => s

/-- The home's answers. -/
def State.answer (s : State) (id : Nat) (v v2 : Word) (bs : List Byte) (fl : BitVec 9) (tag : List Nat) : State :=
  s.modMsg id fun m => { m with st := .replied v v2 bs fl tag }
def State.refuse (s : State) (id code : Nat) : State := s.modMsg id fun m => { m with st := .failed code }

/-! ### Fences -/

/-- The messages of a context that a fence of a scope waits for: every earlier load, and the writes to homes in the
scope (R133, R263). Log 15 (DEDUCED). -/
def State.fenceMsgs (s : State) (scope : Nat) : Bool :=
  s.msgs.any fun m => m.ctx == s.c.id &&
    (match m.op with
     | .load .. => true
     | .store _ => inScope s.cur scope m.home
     | .atomic _ => m.waits || inScope s.cur scope m.home
     | _ => false)

/-- The fixed-time accesses that it waits for (R293). -/
def State.fenceDom (s : State) (scope : Nat) : Bool :=
  s.c.domReturns != 0 || s.c.domOps.any fun d => inScope s.cur scope (0, d.home)

/-- A FENCE in front of `k`: a freeze of the given kinds while an access to a home outside the domain is missing, an idle
while only accesses to domain homes are (R293). -/
def State.fencedBy (s : State) (kinds : List Nat) (scope : Nat) (k : Issue) : Issue :=
  if s.fenceMsgs scope then .wait kinds s
  else if s.fenceDom scope then .idle s
  else k

/-- FENCE, PERSIST's and TLAUNCH's fence, and the release halves that have a declared bound (R294). -/
def State.fenced (s : State) (scope : Nat) (k : Issue) : Issue := s.fencedBy [wORDER] scope k

/-- The release half of an ordered atomic, of BARRA and of GSIG: the conditions of a PART fence (R279, R287, R302). -/
def State.releasingBy (s : State) (kinds : List Nat) (ord : Bool) (k : Issue) : Issue := if ord then s.fencedBy kinds 4 k else k
def State.releasing (s : State) (ord : Bool) (k : Issue) : Issue := s.releasingBy [wORDER] ord k

end Sys2Proof.Machine
end

