-- ==== Sys2Proof/Machine/Atomics.lean ====
section
/-!
DEFINITION. The atomic words of the LS slot (R272, R273, R278, R279). Their updates are in Messages.
-/

namespace Sys2Proof.Machine

/-- An atomic word (R272): its checks, the release half (R279), then the update in the own slice or a request. `size` is
the access size, `src` the source row of VACC, `dest` the destination, `lands` what a local old value writes. -/
def State.atomic (s : State) (base : BitVec 5) (ord : Bool) (g : BitVec 3) (size : Nat) (bs : List Nat)
    (src : Option Nat) (at_ : Atomic) (dest : Dest) (mustWait : Bool) : Issue :=
  s.guardedLs g (0 :: bs) <|
    let a := s.c.regs.rx base
    let aim := s.aim s.c a.toNat
    if a.toNat % size != 0 then s.raise tALIGN 3 a
    else if aim = .bad then s.raise tXLATE 3 a
    else if !s.targetsAcc a.toNat then s.raise tATOMPLAIN 3 a
    else
      let go : Issue :=
        match aim with
        | .own o => s.ownAccess 3 a o size (at_.op != .vacc 0) true <|
            s.releasing ord <|
              let r := s.localRead s.cur o size
              let u := at_.update r.1
              let s1 := match u.bytes with | some b => r.2.localWrite s.cur o b | none => r.2
              .ok ((if dest = .none then s1 else s1.pend 6 (dest.lands u.v u.v2 [])).raiseFlags u.fl)
        | aim => s.releasing ord <|
            let waits := dest != .none || ord || mustWait
            s.limited waits <|
              match s.reach 3 a aim true with
              | .home l => .ok (s.request l (.atomic at_) dest waits a 3)
              | .dom n o => .ok (s.domSend n o (.atomic at_) (if waits && dest == .none then .x 0 else dest) a)
              | .stop i => i
      match src with
      | some r => s.ownAccess 3 (BitVec.ofNat 64 (rowOff r)) (rowOff r) 512 true false go
      | none => go

/-- An AINT, AFP or ACAS word on registers (R273). -/
def State.atomicReg (s : State) (d : BitVec 6) (base : BitVec 5) (sr : BitVec 6) (ord : Bool) (g : BitVec 3) (size : Nat)
    (op : AtomOp) : Issue :=
  s.atomic base ord g size [regBlock6 d, regBlock6 sr, 2] none
    { op := op, sv := s.c.rd6 sr, dv := s.c.rd6 d, vctl := s.c.ctl.vctl } (dest6 d) false

/-- A VACC word (R273, R277). -/
def State.vaccWord (s : State) (v : BitVec 6) (base : BitVec 5) (ord : Bool) (g : BitVec 3) (fn : Nat) : Issue :=
  s.atomic base ord g 512 [2] (some (s.c.row v))
    { op := .vacc fn, row := s.readRow s.cur (s.c.row v), vctl := s.c.ctl.vctl } .none false

/-- ACAS.Q on the pairs d, d + 1 and s, s + 1 (R85, R276). Fields d and s name even registers, halved. -/
def State.atomicQ (s : State) (d : BitVec 6) (base : BitVec 5) (sr : BitVec 6) (ord : Bool) (g : BitVec 3) : Issue :=
  s.atomic base ord g 16 [regBlock6 d, regBlock6 sr] none
    { op := .cas 16, sv := s.c.rd6 sr, sv2 := s.c.rd6 (sr + 1), dv := s.c.rd6 d, dv2 := s.c.rd6 (d + 1) }
    (.pair (decide (32 ≤ d.toNat)) (BitVec.ofNat 5 d.toNat)) true

/-- AINT function 0 (R274). -/
def issueAintAddW (d : BitVec 6) (base : BitVec 5) (sr : BitVec 6) (ord : Bool) (g : BitVec 3) (s : State) : Issue :=
  s.atomicReg d base sr ord g 4 (.int 0)

def execAintAddW (d : BitVec 6) (base : BitVec 5) (sr : BitVec 6) (ord : Bool) (g : BitVec 3) (s : State) : Host.Outcome State Fault Refusal :=
  commit 3 s (issueAintAddW d base sr ord g s)

/-- AINT function 1 (R274). -/
def issueAintAddD (d : BitVec 6) (base : BitVec 5) (sr : BitVec 6) (ord : Bool) (g : BitVec 3) (s : State) : Issue :=
  s.atomicReg d base sr ord g 8 (.int 1)

def execAintAddD (d : BitVec 6) (base : BitVec 5) (sr : BitVec 6) (ord : Bool) (g : BitVec 3) (s : State) : Host.Outcome State Fault Refusal :=
  commit 3 s (issueAintAddD d base sr ord g s)

/-- AINT function 2 (R274). -/
def issueAintAnd (d : BitVec 6) (base : BitVec 5) (sr : BitVec 6) (ord : Bool) (g : BitVec 3) (s : State) : Issue :=
  s.atomicReg d base sr ord g 8 (.int 2)

def execAintAnd (d : BitVec 6) (base : BitVec 5) (sr : BitVec 6) (ord : Bool) (g : BitVec 3) (s : State) : Host.Outcome State Fault Refusal :=
  commit 3 s (issueAintAnd d base sr ord g s)

/-- AINT function 3 (R274). -/
def issueAintOr (d : BitVec 6) (base : BitVec 5) (sr : BitVec 6) (ord : Bool) (g : BitVec 3) (s : State) : Issue :=
  s.atomicReg d base sr ord g 8 (.int 3)

def execAintOr (d : BitVec 6) (base : BitVec 5) (sr : BitVec 6) (ord : Bool) (g : BitVec 3) (s : State) : Host.Outcome State Fault Refusal :=
  commit 3 s (issueAintOr d base sr ord g s)

/-- AINT function 4 (R274). -/
def issueAintXor (d : BitVec 6) (base : BitVec 5) (sr : BitVec 6) (ord : Bool) (g : BitVec 3) (s : State) : Issue :=
  s.atomicReg d base sr ord g 8 (.int 4)

def execAintXor (d : BitVec 6) (base : BitVec 5) (sr : BitVec 6) (ord : Bool) (g : BitVec 3) (s : State) : Host.Outcome State Fault Refusal :=
  commit 3 s (issueAintXor d base sr ord g s)

/-- AINT function 5 (R274). -/
def issueAintMin (d : BitVec 6) (base : BitVec 5) (sr : BitVec 6) (ord : Bool) (g : BitVec 3) (s : State) : Issue :=
  s.atomicReg d base sr ord g 8 (.int 5)

def execAintMin (d : BitVec 6) (base : BitVec 5) (sr : BitVec 6) (ord : Bool) (g : BitVec 3) (s : State) : Host.Outcome State Fault Refusal :=
  commit 3 s (issueAintMin d base sr ord g s)

/-- AINT function 6 (R274). -/
def issueAintMax (d : BitVec 6) (base : BitVec 5) (sr : BitVec 6) (ord : Bool) (g : BitVec 3) (s : State) : Issue :=
  s.atomicReg d base sr ord g 8 (.int 6)

def execAintMax (d : BitVec 6) (base : BitVec 5) (sr : BitVec 6) (ord : Bool) (g : BitVec 3) (s : State) : Host.Outcome State Fault Refusal :=
  commit 3 s (issueAintMax d base sr ord g s)

/-- AINT function 7 (R274). -/
def issueAintMinz (d : BitVec 6) (base : BitVec 5) (sr : BitVec 6) (ord : Bool) (g : BitVec 3) (s : State) : Issue :=
  s.atomicReg d base sr ord g 8 (.int 7)

def execAintMinz (d : BitVec 6) (base : BitVec 5) (sr : BitVec 6) (ord : Bool) (g : BitVec 3) (s : State) : Host.Outcome State Fault Refusal :=
  commit 3 s (issueAintMinz d base sr ord g s)

/-- AINT function 8 (R274). -/
def issueAintMaxz (d : BitVec 6) (base : BitVec 5) (sr : BitVec 6) (ord : Bool) (g : BitVec 3) (s : State) : Issue :=
  s.atomicReg d base sr ord g 8 (.int 8)

def execAintMaxz (d : BitVec 6) (base : BitVec 5) (sr : BitVec 6) (ord : Bool) (g : BitVec 3) (s : State) : Host.Outcome State Fault Refusal :=
  commit 3 s (issueAintMaxz d base sr ord g s)

/-- AINT function 9 (R274). -/
def issueAintSwapW (d : BitVec 6) (base : BitVec 5) (sr : BitVec 6) (ord : Bool) (g : BitVec 3) (s : State) : Issue :=
  s.atomicReg d base sr ord g 4 (.int 9)

def execAintSwapW (d : BitVec 6) (base : BitVec 5) (sr : BitVec 6) (ord : Bool) (g : BitVec 3) (s : State) : Host.Outcome State Fault Refusal :=
  commit 3 s (issueAintSwapW d base sr ord g s)

/-- AINT function 10 (R274). -/
def issueAintSwapD (d : BitVec 6) (base : BitVec 5) (sr : BitVec 6) (ord : Bool) (g : BitVec 3) (s : State) : Issue :=
  s.atomicReg d base sr ord g 8 (.int 10)

def execAintSwapD (d : BitVec 6) (base : BitVec 5) (sr : BitVec 6) (ord : Bool) (g : BitVec 3) (s : State) : Host.Outcome State Fault Refusal :=
  commit 3 s (issueAintSwapD d base sr ord g s)

/-- AFP operation 0 (R275). -/
def issueAfpFadd (d : BitVec 6) (base : BitVec 5) (sr : BitVec 6) (fmt : BitVec 2) (ord : Bool) (g : BitVec 3) (s : State) : Issue :=
  s.atomicReg d base sr ord g (if fmt = 3 then 8 else 4) (.fp 0 fmt.toNat)

def execAfpFadd (d : BitVec 6) (base : BitVec 5) (sr : BitVec 6) (fmt : BitVec 2) (ord : Bool) (g : BitVec 3) (s : State) : Host.Outcome State Fault Refusal :=
  commit 3 s (issueAfpFadd d base sr fmt ord g s)

/-- AFP operation 1 (R275). -/
def issueAfpFmin (d : BitVec 6) (base : BitVec 5) (sr : BitVec 6) (fmt : BitVec 2) (ord : Bool) (g : BitVec 3) (s : State) : Issue :=
  s.atomicReg d base sr ord g (if fmt = 3 then 8 else 4) (.fp 1 fmt.toNat)

def execAfpFmin (d : BitVec 6) (base : BitVec 5) (sr : BitVec 6) (fmt : BitVec 2) (ord : Bool) (g : BitVec 3) (s : State) : Host.Outcome State Fault Refusal :=
  commit 3 s (issueAfpFmin d base sr fmt ord g s)

/-- AFP operation 2 (R275). -/
def issueAfpFmax (d : BitVec 6) (base : BitVec 5) (sr : BitVec 6) (fmt : BitVec 2) (ord : Bool) (g : BitVec 3) (s : State) : Issue :=
  s.atomicReg d base sr ord g (if fmt = 3 then 8 else 4) (.fp 2 fmt.toNat)

def execAfpFmax (d : BitVec 6) (base : BitVec 5) (sr : BitVec 6) (fmt : BitVec 2) (ord : Bool) (g : BitVec 3) (s : State) : Host.Outcome State Fault Refusal :=
  commit 3 s (issueAfpFmax d base sr fmt ord g s)

/-- ACAS.W (R276). -/
def issueAcasW (d : BitVec 6) (base : BitVec 5) (sr : BitVec 6) (ord : Bool) (g : BitVec 3) (s : State) : Issue :=
  s.atomicReg d base sr ord g 4 (.cas 4)

def execAcasW (d : BitVec 6) (base : BitVec 5) (sr : BitVec 6) (ord : Bool) (g : BitVec 3) (s : State) : Host.Outcome State Fault Refusal :=
  commit 3 s (issueAcasW d base sr ord g s)

/-- ACAS.D (R276). -/
def issueAcasD (d : BitVec 6) (base : BitVec 5) (sr : BitVec 6) (ord : Bool) (g : BitVec 3) (s : State) : Issue :=
  s.atomicReg d base sr ord g 8 (.cas 8)

def execAcasD (d : BitVec 6) (base : BitVec 5) (sr : BitVec 6) (ord : Bool) (g : BitVec 3) (s : State) : Host.Outcome State Fault Refusal :=
  commit 3 s (issueAcasD d base sr ord g s)

/-- ACAS.Q (R276). -/
def issueAcasQ (d : BitVec 5) (base : BitVec 5) (sr : BitVec 5) (ord : Bool) (g : BitVec 3) (s : State) : Issue :=
  s.atomicQ (d.setWidth 6 <<< 1) base (sr.setWidth 6 <<< 1) ord g

def execAcasQ (d : BitVec 5) (base : BitVec 5) (sr : BitVec 5) (ord : Bool) (g : BitVec 3) (s : State) : Host.Outcome State Fault Refusal :=
  commit 3 s (issueAcasQ d base sr ord g s)

/-- VACC function 0 (R277). -/
def issueVaccOvw (v : BitVec 6) (base : BitVec 5) (ord : Bool) (g : BitVec 3) (s : State) : Issue :=
  s.vaccWord v base ord g 0

def execVaccOvw (v : BitVec 6) (base : BitVec 5) (ord : Bool) (g : BitVec 3) (s : State) : Host.Outcome State Fault Refusal :=
  commit 3 s (issueVaccOvw v base ord g s)

/-- VACC function 1 (R277). -/
def issueVaccAddF32 (v : BitVec 6) (base : BitVec 5) (ord : Bool) (g : BitVec 3) (s : State) : Issue :=
  s.vaccWord v base ord g 1

def execVaccAddF32 (v : BitVec 6) (base : BitVec 5) (ord : Bool) (g : BitVec 3) (s : State) : Host.Outcome State Fault Refusal :=
  commit 3 s (issueVaccAddF32 v base ord g s)

/-- VACC function 2 (R277). -/
def issueVaccAddF64 (v : BitVec 6) (base : BitVec 5) (ord : Bool) (g : BitVec 3) (s : State) : Issue :=
  s.vaccWord v base ord g 2

def execVaccAddF64 (v : BitVec 6) (base : BitVec 5) (ord : Bool) (g : BitVec 3) (s : State) : Host.Outcome State Fault Refusal :=
  commit 3 s (issueVaccAddF64 v base ord g s)

/-- VACC function 3 (R277). -/
def issueVaccAddBf16 (v : BitVec 6) (base : BitVec 5) (ord : Bool) (g : BitVec 3) (s : State) : Issue :=
  s.vaccWord v base ord g 3

def execVaccAddBf16 (v : BitVec 6) (base : BitVec 5) (ord : Bool) (g : BitVec 3) (s : State) : Host.Outcome State Fault Refusal :=
  commit 3 s (issueVaccAddBf16 v base ord g s)

/-- VACC function 4 (R277). -/
def issueVaccAddF16 (v : BitVec 6) (base : BitVec 5) (ord : Bool) (g : BitVec 3) (s : State) : Issue :=
  s.vaccWord v base ord g 4

def execVaccAddF16 (v : BitVec 6) (base : BitVec 5) (ord : Bool) (g : BitVec 3) (s : State) : Host.Outcome State Fault Refusal :=
  commit 3 s (issueVaccAddF16 v base ord g s)

/-- VACC function 5 (R277). -/
def issueVaccAddI32 (v : BitVec 6) (base : BitVec 5) (ord : Bool) (g : BitVec 3) (s : State) : Issue :=
  s.vaccWord v base ord g 5

def execVaccAddI32 (v : BitVec 6) (base : BitVec 5) (ord : Bool) (g : BitVec 3) (s : State) : Host.Outcome State Fault Refusal :=
  commit 3 s (issueVaccAddI32 v base ord g s)

end Sys2Proof.Machine
end

