-- ==== Sys2Proof/Machine/Bobbins.lean ====
section
/-!
DEFINITION. The bobbin words of the LS slot (R196 to R202).
-/

namespace Sys2Proof.Machine

/-- The checks of every bobbin word, then `k` with the ring (R197). -/
def State.bobbin (s : State) (bob : BitVec 4) (g : BitVec 3) (w : Word) (bs : List Nat) (k : Ring → Issue) : Issue :=
  s.guardedLs g (3 :: bs) <|
    let r := ringOf (s.c.eng.bobbin bob)
    if r.bad then s.raise tBOBBIN 3 w
    else
      match r.outside s.c.ctl.seglo.toNat s.c.ctl.seghi.toNat with
      | some o => s.raise tSEGBOUND 3 (BitVec.ofNat 64 o)
      | none => k r

/-- The access of a bobbin word to bytes of a slot: MBANK (R249), then the waits of R202. -/
def State.slotAccess (s : State) (o len : Nat) (write : Bool) (k : Issue) : Issue :=
  if s.c.groupHeld o len then s.raise tMBANK 3 (BitVec.ofNat 64 o)
  else s.ownAccess 3 (BitVec.ofNat 64 o) o len (!write) write k

/-- BPOP (R198). -/
def State.pop (s : State) (v : BitVec 6) (bob : BitVec 4) (n : BitVec 8) (g : BitVec 3) (w : Word) : Issue :=
  s.bobbin bob g w [2] fun r =>
    let bf := s.c.eng.bobReg (4 * bob.toNat + 3)
    let e := s.c.fmtEntry
    let f := bobFmtOf bf e
    if r.filled ≤ n.toNat then s.raise tBOBBIN 3 w
    else
      match bobFmtFault bf e false, Fmt.ofCode f.src, Fmt.ofCode f.snk with
      | none, some src, some snk =>
        let l := 4096 / snk.ebits
        if snk.isBlock || decide (r.size < src.bytesFor l) then s.raise tBOBBIN 3 w
        else
          let o := r.slotAt r.cons n.toNat
          let ro := rowOff (s.c.row v)
          s.ownAccess 3 (BitVec.ofNat 64 ro) ro 512 false true <|
            s.slotAccess o (src.bytesFor l) false <|
              let rd := s.localRead s.cur o (src.bytesFor l)
              let c := convertSlot f src snk rd.1 l
              .go c.2 w false (rd.2.pend 6 [.acc false ro c.1])
      | some reg, _, _ => s.raise tFMT 3 reg
      | _, _, _ => s.raise tFMT 3 bf

/-- BPUSH (R199). -/
def State.push_ (s : State) (v : BitVec 6) (bob : BitVec 4) (n : BitVec 8) (g : BitVec 3) (w : Word) : Issue :=
  s.bobbin bob g w [2] fun r =>
    if r.free ≤ n.toNat then s.raise tBOBBIN 3 w
    else
      let o := r.slotAt r.prod n.toNat
      let len := min 512 r.size
      let ro := rowOff (s.c.row v)
      s.ownAccess 3 (BitVec.ofNat 64 ro) ro 512 true false <|
        s.slotAccess o len true <|
          .ok (s.localWrite s.cur o ((s.readRow s.cur (s.c.row v)).take len))

/-- BADV (R200): the counters are seen from the next cycle. -/
def State.advance (s : State) (bob : BitVec 4) (n : BitVec 8) (g : BitVec 3) (prod : Bool) (w : Word) : Issue :=
  s.bobbin bob g w [] fun r =>
    if (if prod then r.free else r.filled) < n.toNat then s.raise tBOBBIN 3 w
    else
      let p := if prod then (r.prod + n.toNat) % 2 ^ 32 else r.prod
      let c := if prod then r.cons else (r.cons + n.toNat) % 2 ^ 32
      .ok (s.pend 1 [.creg (BitVec.ofNat 16 (0x042 + 4 * bob.toNat)) (BitVec.ofNat 64 (p + c * 2 ^ 32))])

/-- BWAIT (R201). -/
def State.bwait (s : State) (bob : BitVec 4) (n : BitVec 8) (g : BitVec 3) (prod : Bool) (w : Word) : Issue :=
  s.bobbin bob g w [] fun r =>
    if (if prod then r.free else r.filled) < n.toNat then s.raise tBOBBIN 3 w
    else if (List.range n.toNat).any fun i =>
        s.transferLocked s.cur (r.slotAt (if prod then r.prod else r.cons) i) r.size prod
    then .wait [wBOBBIN] s
    else .ok s

/-- BPOP (R197 to R202). -/
def issueBpop (v : BitVec 6) (bob : BitVec 4) (n : BitVec 8) (g : BitVec 3) (s : State) : Issue :=
  s.pop v bob n g (wordOf (.bpop v bob n g))

def execBpop (v : BitVec 6) (bob : BitVec 4) (n : BitVec 8) (g : BitVec 3) (s : State) : Host.Outcome State Fault Refusal :=
  commit 3 s (issueBpop v bob n g s)

/-- BPUSH (R197 to R202). -/
def issueBpush (v : BitVec 6) (bob : BitVec 4) (n : BitVec 8) (g : BitVec 3) (s : State) : Issue :=
  s.push_ v bob n g (wordOf (.bpush v bob n g))

def execBpush (v : BitVec 6) (bob : BitVec 4) (n : BitVec 8) (g : BitVec 3) (s : State) : Host.Outcome State Fault Refusal :=
  commit 3 s (issueBpush v bob n g s)

/-- BADVC (R197 to R202). -/
def issueBadvC (bob : BitVec 4) (n : BitVec 8) (g : BitVec 3) (s : State) : Issue :=
  s.advance bob n g false (wordOf (.badvC bob n g))

def execBadvC (bob : BitVec 4) (n : BitVec 8) (g : BitVec 3) (s : State) : Host.Outcome State Fault Refusal :=
  commit 3 s (issueBadvC bob n g s)

/-- BADVP (R197 to R202). -/
def issueBadvP (bob : BitVec 4) (n : BitVec 8) (g : BitVec 3) (s : State) : Issue :=
  s.advance bob n g true (wordOf (.badvP bob n g))

def execBadvP (bob : BitVec 4) (n : BitVec 8) (g : BitVec 3) (s : State) : Host.Outcome State Fault Refusal :=
  commit 3 s (issueBadvP bob n g s)

/-- BWAITC (R197 to R202). -/
def issueBwaitC (bob : BitVec 4) (n : BitVec 8) (g : BitVec 3) (s : State) : Issue :=
  s.bwait bob n g false (wordOf (.bwaitC bob n g))

def execBwaitC (bob : BitVec 4) (n : BitVec 8) (g : BitVec 3) (s : State) : Host.Outcome State Fault Refusal :=
  commit 3 s (issueBwaitC bob n g s)

/-- BWAITP (R197 to R202). -/
def issueBwaitP (bob : BitVec 4) (n : BitVec 8) (g : BitVec 3) (s : State) : Issue :=
  s.bwait bob n g true (wordOf (.bwaitP bob n g))

def execBwaitP (bob : BitVec 4) (n : BitVec 8) (g : BitVec 3) (s : State) : Host.Outcome State Fault Refusal :=
  commit 3 s (issueBwaitP bob n g s)

end Sys2Proof.Machine
end

