-- ==== Sys2Proof/Machine/Vector.lean ====
section
/-!
DEFINITION. The vector words on accumulator rows (R163 to R178).
-/

namespace Sys2Proof.Machine

/-! ### Lanes -/

/-- The float format and lane width of a type field (R164). -/
def tyFF (ty : BitVec 2) : FF :=
  match ty.toNat with
  | 0 => ff32
  | 1 => ff64
  | 2 => ffB16
  | _ => ff16

def tyW (ty : BitVec 2) : Nat :=
  match ty.toNat with
  | 0 => 4
  | 1 => 8
  | _ => 2

/-- The lanes of w bytes of a row. -/
def lanesOf (w : Nat) (bs : List Byte) : List Nat := (chunksOf w bs.length bs).map ofBytesLE

/-- A row of lanes with the flags of all of them (R166). -/
def rowOfRes (w : Nat) (rs : List Res) : List Byte × BitVec 9 :=
  (rs.flatMap fun r => bytesLE r.bits w, rs.foldl (fun f r => f ||| r.fl) 0)

def rowOfNats (w : Nat) (vs : List Nat) : List Byte × BitVec 9 := (vs.flatMap fun v => bytesLE v w, 0)

/-- The bytes of the row that a v-register field names. -/
def State.vrow (s : State) (k : BitVec 6) : List Byte := s.readRow s.cur (s.c.row k)

/-- Operand b: a row, or a y register in every lane (R166). -/
def State.vopB (s : State) (w : Nat) (vb : BitVec 6) (sb : Bool) : List Nat :=
  if sb then List.replicate (512 / w) ((s.c.regs.ry (vb.setWidth 5)).toNat % 2 ^ (8 * w)) else lanesOf w (s.vrow vb)

/-- VCTL.RM and VCTL.SAT8 (R165). -/
def Ctx.vrm (c : Ctx) : Nat := c.ctl.vctl.toNat % 4
def Ctx.sat8 (c : Ctx) : Bool := c.ctl.vctl.getLsbD 2

/-! ### Shapes -/

/-- Accesses to rows in front of an effect: sources, then the destination (R179, R236, R381). -/
def State.rows (s : State) (reads : List (BitVec 6)) (k : Issue) : Issue :=
  reads.foldr (fun v k =>
    let ro := rowOff (s.c.row v)
    s.ownAccess 2 (BitVec.ofNat 64 ro) ro 512 true false k) k

/-- Whether the bundle being issued is the next one of a fused sequence (R182). -/
def Ctx.fusedHere (c : Ctx) : Bool :=
  match c.fusion with
  | some f => f.starts.head? == some c.bun.start
  | none => false

/-- Any other VX word that issues ends a fused sequence. -/
def Ctx.fusionStep (c : Ctx) : Ctx :=
  match c.fusion with
  | some f =>
    if f.starts.head? == some c.bun.start && decide (1 < f.starts.length) then
      { c with fusion := some { f with starts := f.starts.tail } }
    else { c with fusion := none }
  | none => c

/-- A VX word (R166): the stage guard, the blocks that it touches, its rows, then the row that it writes with a latency
(R178) and its flags. -/
def State.vx (s : State) (q : BitVec 3) (bs : List Nat) (reads : List (BitVec 6)) (vd : BitVec 6) (lat : Nat) (w : Word)
    (f : List Byte × BitVec 9) : Issue :=
  Issue.touching s (if q = 0 then [] else [2]) <|
    if !s.c.guardVx q then .ok s
    else
      Issue.touching s (2 :: bs) <| s.rows reads <|
        let ro := rowOff (s.c.row vd)
        s.ownAccess 2 (BitVec.ofNat 64 ro) ro 512 false true <|
          let fu := s.c.fusedHere
          .go f.2 w fu ((s.modC Ctx.fusionStep).pend lat [.acc fu ro f.1])

/-- A float word of two operands (R167). -/
def State.vfB (s : State) (vd va vb : BitVec 6) (ty : BitVec 2) (zi sb : Bool) (q : BitVec 3) (lat : Nat) (w : Word)
    (f : FF → Nat → Nat → Res) : Issue :=
  let ff := tyFF ty
  s.vx q (if sb then [1] else []) (va :: if sb then [] else [vb]) vd lat w <|
    rowOfRes (tyW ty) <| List.zipWith (fun a b => f ff (ff.flush zi a) (ff.flush zi b)) (lanesOf (tyW ty) (s.vrow va))
      (s.vopB (tyW ty) vb sb)

/-- VFMA and VFMAC (R167): vd is read at issue. -/
def State.vfT (s : State) (vd va vb : BitVec 6) (ty : BitVec 2) (zi zo sb : Bool) (q : BitVec 3) (w : Word)
    (acc : Bool) : Issue :=
  let ff := tyFF ty
  let dec := fun x => ff.decode (ff.flush zi x)
  s.vx q (if sb then [1] else []) (va :: vd :: if sb then [] else [vb]) vd 4 w <|
    rowOfRes (tyW ty) <| List.zipWith (fun (ab : Nat × Nat) d =>
      if acc then ff.fmaV (dec d) (dec ab.1) (dec ab.2) s.c.vrm zo else ff.fmaV (dec ab.1) (dec ab.2) (dec d) s.c.vrm zo)
      ((lanesOf (tyW ty) (s.vrow va)).zip (s.vopB (tyW ty) vb sb)) (lanesOf (tyW ty) (s.vrow vd))

/-- A float word of one operand (R167, R169). -/
def State.vfU (s : State) (vd va : BitVec 6) (ty : BitVec 2) (zi : Bool) (q : BitVec 3) (lat : Nat) (w : Word)
    (f : FF → Nat → Res) : Issue :=
  s.vx q [] [va] vd lat w <|
    rowOfRes (tyW ty) <| (lanesOf (tyW ty) (s.vrow va)).map fun a => f (tyFF ty) ((tyFF ty).flush zi a)

/-- One value in every lane. -/
def spread (w : Nat) (r : Res) : List Byte × BitVec 9 :=
  ((List.replicate (512 / w) r.bits).flatMap fun v => bytesLE v w, r.fl)

/-- VRMAX and VRMIN over lanes (R170). -/
def FF.reduceMinmax (f : FF) (isMax : Bool) (vs : List Nat) : Res :=
  match vs with
  | [] => ⟨0, 0⟩
  | v :: t => t.foldl (fun r x => let m := f.minmax isMax r.bits x; ⟨m.bits, r.fl ||| m.fl⟩) ⟨v, 0⟩

/-- VRSUM over lanes (R170). -/
def FF.reduceSum (f : FF) (vs : List Nat) (rm : Nat) (zo : Bool) : Res := f.roundTotal (totalOf (vs.map f.decode)) rm zo

/-- An integer word on 32-bit lanes (R175, R177). -/
def State.viB (s : State) (vd va vb : BitVec 6) (sb : Bool) (q : BitVec 3) (f : BitVec 32 → BitVec 32 → BitVec 32) :
    Issue :=
  s.vx q (if sb then [1] else []) (va :: if sb then [] else [vb]) vd 4 0 <|
    rowOfNats 4 <| List.zipWith (fun a b => (f (BitVec.ofNat 32 a) (BitVec.ofNat 32 b)).toNat) (lanesOf 4 (s.vrow va))
      (s.vopB 4 vb sb)

/-- VADD8 and VMUL8 on packed FP8 (R153, R176). -/
def State.v8 (s : State) (vd va vb : BitVec 6) (ty zi sb : Bool) (q : BitVec 3) (w : Word) (f : FF → FVal → FVal → Res) :
    Issue :=
  let ff := if ty then ffE5 else ffE4
  let b := if sb then (List.replicate 128 (bytesLE (s.c.regs.ry (vb.setWidth 5)).toNat 4)).flatten else s.vrow vb
  s.vx q (if sb then [1] else []) (va :: if sb then [] else [vb]) vd 4 w <|
    rowOfRes 1 <| List.zipWith (fun x y => f ff (ff.decode (ff.flush zi x)) (ff.decode (ff.flush zi y)))
      (lanesOf 1 (s.vrow va)) (lanesOf 1 b)

/-- A row shifted by n lanes (R173). -/
def shiftLanes (w : Nat) (vs : List Nat) (n : Int) : List Byte × BitVec 9 :=
  let a := vs.toArray
  rowOfNats w <| (List.range (512 / w)).map fun i =>
    let j : Int := Int.ofNat i + n
    if j < 0 then 0 else a.getD j.toNat 0

/-- VADD (R167). -/
def issueVadd (vd : BitVec 6) (va : BitVec 6) (vb : BitVec 6) (ty : BitVec 2) (zi : Bool) (zo : Bool) (sb : Bool) (q : BitVec 3) (s : State) : Issue :=
  s.vfB vd va vb ty zi sb q 4 (wordOf (.vadd vd va vb ty zi zo sb q))
    fun f a b => f.addP a b s.c.vrm zo

def execVadd (vd : BitVec 6) (va : BitVec 6) (vb : BitVec 6) (ty : BitVec 2) (zi : Bool) (zo : Bool) (sb : Bool) (q : BitVec 3) (s : State) : Host.Outcome State Fault Refusal :=
  commit 2 s (issueVadd vd va vb ty zi zo sb q s)

/-- VSUB (R167). -/
def issueVsub (vd : BitVec 6) (va : BitVec 6) (vb : BitVec 6) (ty : BitVec 2) (zi : Bool) (zo : Bool) (sb : Bool) (q : BitVec 3) (s : State) : Issue :=
  s.vfB vd va vb ty zi sb q 4 (wordOf (.vsub vd va vb ty zi zo sb q))
    fun f a b => f.subP a b s.c.vrm zo

def execVsub (vd : BitVec 6) (va : BitVec 6) (vb : BitVec 6) (ty : BitVec 2) (zi : Bool) (zo : Bool) (sb : Bool) (q : BitVec 3) (s : State) : Host.Outcome State Fault Refusal :=
  commit 2 s (issueVsub vd va vb ty zi zo sb q s)

/-- VMUL (R167). -/
def issueVmul (vd : BitVec 6) (va : BitVec 6) (vb : BitVec 6) (ty : BitVec 2) (zi : Bool) (zo : Bool) (sb : Bool) (q : BitVec 3) (s : State) : Issue :=
  s.vfB vd va vb ty zi sb q 4 (wordOf (.vmul vd va vb ty zi zo sb q))
    fun f a b => f.mulP a b s.c.vrm zo

def execVmul (vd : BitVec 6) (va : BitVec 6) (vb : BitVec 6) (ty : BitVec 2) (zi : Bool) (zo : Bool) (sb : Bool) (q : BitVec 3) (s : State) : Host.Outcome State Fault Refusal :=
  commit 2 s (issueVmul vd va vb ty zi zo sb q s)

/-- VFMA (R167). -/
def issueVfma (vd : BitVec 6) (va : BitVec 6) (vb : BitVec 6) (ty : BitVec 2) (zi : Bool) (zo : Bool) (sb : Bool) (q : BitVec 3) (s : State) : Issue :=
  s.vfT vd va vb ty zi zo sb q (wordOf (.vfma vd va vb ty zi zo sb q)) false

def execVfma (vd : BitVec 6) (va : BitVec 6) (vb : BitVec 6) (ty : BitVec 2) (zi : Bool) (zo : Bool) (sb : Bool) (q : BitVec 3) (s : State) : Host.Outcome State Fault Refusal :=
  commit 2 s (issueVfma vd va vb ty zi zo sb q s)

/-- VFMAC (R167). -/
def issueVfmac (vd : BitVec 6) (va : BitVec 6) (vb : BitVec 6) (ty : BitVec 2) (zi : Bool) (zo : Bool) (sb : Bool) (q : BitVec 3) (s : State) : Issue :=
  s.vfT vd va vb ty zi zo sb q (wordOf (.vfmac vd va vb ty zi zo sb q)) true

def execVfmac (vd : BitVec 6) (va : BitVec 6) (vb : BitVec 6) (ty : BitVec 2) (zi : Bool) (zo : Bool) (sb : Bool) (q : BitVec 3) (s : State) : Host.Outcome State Fault Refusal :=
  commit 2 s (issueVfmac vd va vb ty zi zo sb q s)

/-- VMIN (R168). -/
def issueVmin (vd : BitVec 6) (va : BitVec 6) (vb : BitVec 6) (ty : BitVec 2) (zi : Bool) (sb : Bool) (q : BitVec 3) (s : State) : Issue :=
  s.vfB vd va vb ty zi sb q 4 (wordOf (.vmin vd va vb ty zi sb q))
    fun f a b => f.minmax false a b

def execVmin (vd : BitVec 6) (va : BitVec 6) (vb : BitVec 6) (ty : BitVec 2) (zi : Bool) (sb : Bool) (q : BitVec 3) (s : State) : Host.Outcome State Fault Refusal :=
  commit 2 s (issueVmin vd va vb ty zi sb q s)

/-- VMAX (R168). -/
def issueVmax (vd : BitVec 6) (va : BitVec 6) (vb : BitVec 6) (ty : BitVec 2) (zi : Bool) (sb : Bool) (q : BitVec 3) (s : State) : Issue :=
  s.vfB vd va vb ty zi sb q 4 (wordOf (.vmax vd va vb ty zi sb q))
    fun f a b => f.minmax true a b

def execVmax (vd : BitVec 6) (va : BitVec 6) (vb : BitVec 6) (ty : BitVec 2) (zi : Bool) (sb : Bool) (q : BitVec 3) (s : State) : Host.Outcome State Fault Refusal :=
  commit 2 s (issueVmax vd va vb ty zi sb q s)

/-- VABS (R167). -/
def issueVabs (vd : BitVec 6) (va : BitVec 6) (ty : BitVec 2) (q : BitVec 3) (s : State) : Issue :=
  s.vfU vd va ty false q 4 0 fun f a => f.absP a

def execVabs (vd : BitVec 6) (va : BitVec 6) (ty : BitVec 2) (q : BitVec 3) (s : State) : Host.Outcome State Fault Refusal :=
  commit 2 s (issueVabs vd va ty q s)

/-- VNEG (R167). -/
def issueVneg (vd : BitVec 6) (va : BitVec 6) (ty : BitVec 2) (q : BitVec 3) (s : State) : Issue :=
  s.vfU vd va ty false q 4 0 fun f a => f.negP a

def execVneg (vd : BitVec 6) (va : BitVec 6) (ty : BitVec 2) (q : BitVec 3) (s : State) : Host.Outcome State Fault Refusal :=
  commit 2 s (issueVneg vd va ty q s)

/-- VDIV (R167). -/
def issueVdiv (vd : BitVec 6) (va : BitVec 6) (vb : BitVec 6) (ty : BitVec 2) (zi : Bool) (zo : Bool) (sb : Bool) (q : BitVec 3) (s : State) : Issue :=
  s.vfB vd va vb ty zi sb q 8 (wordOf (.vdiv vd va vb ty zi zo sb q))
    fun f a b => f.divV (f.decode a) (f.decode b) s.c.vrm zo

def execVdiv (vd : BitVec 6) (va : BitVec 6) (vb : BitVec 6) (ty : BitVec 2) (zi : Bool) (zo : Bool) (sb : Bool) (q : BitVec 3) (s : State) : Host.Outcome State Fault Refusal :=
  commit 2 s (issueVdiv vd va vb ty zi zo sb q s)

/-- VEXP (R169). -/
def issueVexp (vd : BitVec 6) (va : BitVec 6) (ty : BitVec 2) (zi : Bool) (zo : Bool) (q : BitVec 3) (s : State) : Issue :=
  s.vfU vd va ty zi q 8 (wordOf (.vexp vd va ty zi zo q))
    fun f a => f.expV (f.decode a) s.c.vrm zo

def execVexp (vd : BitVec 6) (va : BitVec 6) (ty : BitVec 2) (zi : Bool) (zo : Bool) (q : BitVec 3) (s : State) : Host.Outcome State Fault Refusal :=
  commit 2 s (issueVexp vd va ty zi zo q s)

/-- VEXP2 (R169). -/
def issueVexp2 (vd : BitVec 6) (va : BitVec 6) (ty : BitVec 2) (zi : Bool) (zo : Bool) (q : BitVec 3) (s : State) : Issue :=
  s.vfU vd va ty zi q 8 (wordOf (.vexp2 vd va ty zi zo q))
    fun f a => f.exp2V (f.decode a) s.c.vrm zo

def execVexp2 (vd : BitVec 6) (va : BitVec 6) (ty : BitVec 2) (zi : Bool) (zo : Bool) (q : BitVec 3) (s : State) : Host.Outcome State Fault Refusal :=
  commit 2 s (issueVexp2 vd va ty zi zo q s)

/-- VLOG2 (R169). -/
def issueVlog2 (vd : BitVec 6) (va : BitVec 6) (ty : BitVec 2) (zi : Bool) (zo : Bool) (q : BitVec 3) (s : State) : Issue :=
  s.vfU vd va ty zi q 8 (wordOf (.vlog2 vd va ty zi zo q))
    fun f a => f.log2V (f.decode a) s.c.vrm zo

def execVlog2 (vd : BitVec 6) (va : BitVec 6) (ty : BitVec 2) (zi : Bool) (zo : Bool) (q : BitVec 3) (s : State) : Host.Outcome State Fault Refusal :=
  commit 2 s (issueVlog2 vd va ty zi zo q s)

/-- VRCP (R169). -/
def issueVrcp (vd : BitVec 6) (va : BitVec 6) (ty : BitVec 2) (zi : Bool) (zo : Bool) (q : BitVec 3) (s : State) : Issue :=
  s.vfU vd va ty zi q 8 (wordOf (.vrcp vd va ty zi zo q))
    fun f a => f.rcpV (f.decode a) s.c.vrm zo

def execVrcp (vd : BitVec 6) (va : BitVec 6) (ty : BitVec 2) (zi : Bool) (zo : Bool) (q : BitVec 3) (s : State) : Host.Outcome State Fault Refusal :=
  commit 2 s (issueVrcp vd va ty zi zo q s)

/-- VRSQRT (R169). -/
def issueVrsqrt (vd : BitVec 6) (va : BitVec 6) (ty : BitVec 2) (zi : Bool) (zo : Bool) (q : BitVec 3) (s : State) : Issue :=
  s.vfU vd va ty zi q 8 (wordOf (.vrsqrt vd va ty zi zo q))
    fun f a => f.rsqrtV (f.decode a) s.c.vrm zo

def execVrsqrt (vd : BitVec 6) (va : BitVec 6) (ty : BitVec 2) (zi : Bool) (zo : Bool) (q : BitVec 3) (s : State) : Host.Outcome State Fault Refusal :=
  commit 2 s (issueVrsqrt vd va ty zi zo q s)

/-- VSQRT (R169). -/
def issueVsqrt (vd : BitVec 6) (va : BitVec 6) (ty : BitVec 2) (zi : Bool) (zo : Bool) (q : BitVec 3) (s : State) : Issue :=
  s.vfU vd va ty zi q 8 (wordOf (.vsqrt vd va ty zi zo q))
    fun f a => f.sqrtV (f.decode a) s.c.vrm zo

def execVsqrt (vd : BitVec 6) (va : BitVec 6) (ty : BitVec 2) (zi : Bool) (zo : Bool) (q : BitVec 3) (s : State) : Host.Outcome State Fault Refusal :=
  commit 2 s (issueVsqrt vd va ty zi zo q s)

/-! ### Softmax fusion (R181, R182) -/

/-- A bundle as the look-ahead of a VRMAX sees it: its start, its header and its slot words. -/
structure Peek where
  start : Nat
  pfx : Bool
  hdr : Hdr
  words : List (Slot × Instr)

/-- The bundle that starts at an address. Words that do not decode are left out. -/
def State.peek (s : State) (n a : Nat) : Peek :=
  let h := s.hdrAddr n a
  let hd := hdrOf (s.codeWord n h)
  let sl := hd.slots
  { start := a, pfx := hkOf (s.codeWord n a) == 1, hdr := hd
    words := (sl.zip (List.range sl.length)).filterMap fun p =>
      match decodeAt (.slot p.1) (s.codeWord n (h + 1 + p.2)) with
      | .ok i => some (p.1, i)
      | .error _ => none }

/-- The bundles from an address up to the k-th that holds a VX word. -/
def State.peekVx (s : State) (n : Nat) : Nat → Nat → Nat → List Peek
  | 0, _, _ => []
  | fuel + 1, a, k =>
    if k = 0 || decide (s.codeWords n ≤ a) then []
    else
      let p := s.peek n a
      p :: s.peekVx n fuel (s.endOf n a) (if p.hdr.has .vx then k - 1 else k)

/-- The v register that a word names as its destination. -/
def vDest : Instr → Option (BitVec 6)
  | .vld reg .. => some reg
  | .bpop v .. => some v
  | _ => none

/-- The words that end straight-line order, and a CWR to VBASE, TWIST or VCTL (R181). -/
def breaksFusion : Instr → Bool
  | .br .. | .jr .. | .call .. | .ret _ | .loop .. | .loopR .. | .loopi .. | .loopiR .. | .lbrk _ | .sysc .. | .brk ..
  | .tend _ | .esc .. => true
  | .cwr _ _ num => num == 0x003 || num == 0x005 || num == 0x006
  | _ => false

/-- The VX word of a bundle. -/
def Peek.vx (p : Peek) : Option Instr := (p.words.find? fun w => w.1 == .vx).map Prod.snd

/-- Whether an address names the lock prefix of the bundle whose ordinary header is at h, whichever way that bundle was
entered (R126). -/
def State.prefixAt (s : State) (n h a : Nat) : Bool := a + 1 == h && s.headBit n a && hkOf (s.codeWord n a) == 1

/-- Whether the bundle on spindle n that starts at a and has its header at h is the END bundle of an active loop (R126,
R181). -/
def State.endsLoop (s : State) (n a h : Nat) : Bool :=
  (s.ctxOf n).regs.lc.toList.any fun l =>
    l.active && (l.endA.toNat == a || l.endA.toNat == h || s.prefixAt n h l.endA.toNat)

/-- A recognised sequence: the three later words with their starts, vm, vy and vs (R181). -/
structure Fused where
  starts : List Nat
  vm : BitVec 6
  vx : BitVec 6
  vy : BitVec 6
  words : List Word

/-- Recognition at a VRMAX of the bundle being issued (R181); a FRAME in that bundle resets the SFC after its stamp was
checked (R130). -/
def State.recognise (s : State) (vm vx : BitVec 6) (ty : BitVec 2) (zi : Bool) (q : BitVec 3) : Option Fused :=
  let n := s.cur
  let c := s.c
  let b1 := s.peek n c.bun.start.toNat
  let rest := s.peekVx n (s.codeWords n) (s.endOf n c.bun.start.toNat) 3
  let vxs := rest.filter fun p => p.hdr.has .vx
  match (vxs.map fun p => (p, p.vx) : List (Peek × Option Instr)) with
  | [(p2, some (.vsub vy2 va2 vb2 ty2 zi2 zo2 false q2)), (p3, some (.vexp vd3 va3 ty3 zi3 zo3 q3)),
     (p4, some (.vrsum vs4 va4 ty4 zi4 zo4 q4))] =>
    let vy := vy2
    let named := va2 == vx && vb2 == vm && vd3 == vy && va3 == vy && va4 == vy && vm != vx && vm != vy
    let same := ty2 == ty && ty3 == ty && ty4 == ty && q2 == q && q3 == q && q4 == q
      && zi2 == zi && zi3 == zi && zi4 == zi && zo2 == false && zo3 == false && zo4 == false
    let st (p : Peek) : Nat := p.hdr.stamp.toNat
    let stamps := [b1, p2, p3, p4].all (fun p => p.hdr.stamp != 0) && (c.bun.frame.getD c.ctl.sfc).toNat == st b1
      && decide (st b1 + 6 ≤ st p2) && decide (st p2 + 4 ≤ st p3) && decide (st p3 + 8 ≤ st p4)
    let clean := (b1 :: rest).all fun p => !p.pfx && p.words.all fun w =>
      !breaksFusion w.2 && (match vDest w.2 with | some d => d != vx && d != vm && d != vy | none => true)
    let ends := [b1, p2, p3].any fun p => s.endsLoop n p.start (s.hdrAddr n p.start)
    if named && same && stamps && clean && !ends && !c.ctl.hmode && c.unfused != some c.bun.start then
      some { starts := [p2.start, p3.start, p4.start], vm := vm, vx := vx, vy := vy
             words := [wordOf (.vsub vy2 va2 vb2 ty2 zi2 zo2 false q2), wordOf (.vexp vd3 va3 ty3 zi3 zo3 q3),
                       wordOf (.vrsum vs4 va4 ty4 zi4 zo4 q4)] }
    else none
  | _ => none

/-- The flags of the four words of a sequence, evaluated from vx as it stands (R182). -/
def fusedFlags (f : FF) (rm : Nat) (zi : Bool) (x : List Nat) : List (BitVec 9) :=
  let fl := fun (rs : List Res) => rs.foldl (fun a r => a ||| r.fl) 0
  let m := f.reduceMinmax true (x.map (f.flush zi))
  let d := x.map fun a => f.subP (f.flush zi a) (f.flush zi m.bits) rm false
  let e := d.map fun a => f.expV (f.decode (f.flush zi a.bits)) rm false
  let t := f.reduceSum ((e.map Res.bits).map (f.flush zi)) rm false
  [m.fl, fl d, fl e, t.fl]

/-- VRMAX (R170), which may start a fused softmax (R181, R182). -/
def State.vrmaxWord (s : State) (vd va : BitVec 6) (ty : BitVec 2) (zi : Bool) (q : BitVec 3) (w : Word) : Issue :=
  let f := tyFF ty
  let x := lanesOf (tyW ty) (s.vrow va)
  let r := f.reduceMinmax true (x.map (f.flush zi))
  let plain := s.vx q [] [va] vd 6 w (spread (tyW ty) r)
  match plain, (if s.c.guardVx q then s.recognise vd va ty zi q else none) with
  | .go fl w1 _ s1, some u =>
    let fls := fusedFlags f s.c.vrm zi x
    let bad := ((w1 :: u.words).zip fls).find? fun p => enabled p.2 s.c.ctl.fen
    match bad with
    | some p => .go (fls.foldl (fun a b => a ||| b) 0) p.1 false s1
    | none =>
      .go fl w1 true (s1.modC fun c => { c with
        fusion := some { starts := u.starts.map (BitVec.ofNat 64), rows := [c.row u.vx, c.row u.vm, c.row u.vy] }
        pipe := c.pipe.map fun p => { p with lands := p.lands.map fun l =>
          match l with
          -- what an earlier sequence still writes is no write of this one
          | .acc _ off bs => .acc (off == rowOff (c.row vd) && p.left == 6) off bs
          | l => l } })
  | i, _ => i

/-- VRMAX (R170, R181, R182). -/
def issueVrmax (vd : BitVec 6) (va : BitVec 6) (ty : BitVec 2) (zi : Bool) (q : BitVec 3) (s : State) : Issue :=
  s.vrmaxWord vd va ty zi q (wordOf (.vrmax vd va ty zi q))

def execVrmax (vd : BitVec 6) (va : BitVec 6) (ty : BitVec 2) (zi : Bool) (q : BitVec 3) (s : State) : Host.Outcome State Fault Refusal :=
  commit 2 s (issueVrmax vd va ty zi q s)

/-- VRMIN (R170). -/
def issueVrmin (vd : BitVec 6) (va : BitVec 6) (ty : BitVec 2) (zi : Bool) (q : BitVec 3) (s : State) : Issue :=
  s.vx q [] [va] vd 6 (wordOf (.vrmin vd va ty zi q)) <|
    spread (tyW ty) ((tyFF ty).reduceMinmax false ((lanesOf (tyW ty) (s.vrow va)).map ((tyFF ty).flush zi)))

def execVrmin (vd : BitVec 6) (va : BitVec 6) (ty : BitVec 2) (zi : Bool) (q : BitVec 3) (s : State) : Host.Outcome State Fault Refusal :=
  commit 2 s (issueVrmin vd va ty zi q s)

/-- VRSUM (R170). -/
def issueVrsum (vd : BitVec 6) (va : BitVec 6) (ty : BitVec 2) (zi : Bool) (zo : Bool) (q : BitVec 3) (s : State) : Issue :=
  s.vx q [] [va] vd 6 (wordOf (.vrsum vd va ty zi zo q)) <|
    spread (tyW ty) ((tyFF ty).reduceSum ((lanesOf (tyW ty) (s.vrow va)).map ((tyFF ty).flush zi)) s.c.vrm zo)

def execVrsum (vd : BitVec 6) (va : BitVec 6) (ty : BitVec 2) (zi : Bool) (zo : Bool) (q : BitVec 3) (s : State) : Host.Outcome State Fault Refusal :=
  commit 2 s (issueVrsum vd va ty zi zo q s)

/-- VCMPLT (R171). -/
def issueVcmplt (vd : BitVec 6) (va : BitVec 6) (vb : BitVec 6) (ty : BitVec 2) (zi : Bool) (sb : Bool) (q : BitVec 3) (s : State) : Issue :=
  s.vfB vd va vb ty zi sb q 4 (wordOf (.vcmplt vd va vb ty zi sb q)) fun f a b =>
    ⟨if fcmpTruth 1 (f.decode a) (f.decode b) then 2 ^ f.width - 1 else 0, fcmpFlags 1 (f.decode a) (f.decode b)⟩

def execVcmplt (vd : BitVec 6) (va : BitVec 6) (vb : BitVec 6) (ty : BitVec 2) (zi : Bool) (sb : Bool) (q : BitVec 3) (s : State) : Host.Outcome State Fault Refusal :=
  commit 2 s (issueVcmplt vd va vb ty zi sb q s)

/-- VCMPEQ (R171). -/
def issueVcmpeq (vd : BitVec 6) (va : BitVec 6) (vb : BitVec 6) (ty : BitVec 2) (zi : Bool) (sb : Bool) (q : BitVec 3) (s : State) : Issue :=
  s.vfB vd va vb ty zi sb q 4 (wordOf (.vcmpeq vd va vb ty zi sb q)) fun f a b =>
    ⟨if fcmpTruth 0 (f.decode a) (f.decode b) then 2 ^ f.width - 1 else 0, fcmpFlags 0 (f.decode a) (f.decode b)⟩

def execVcmpeq (vd : BitVec 6) (va : BitVec 6) (vb : BitVec 6) (ty : BitVec 2) (zi : Bool) (sb : Bool) (q : BitVec 3) (s : State) : Host.Outcome State Fault Refusal :=
  commit 2 s (issueVcmpeq vd va vb ty zi sb q s)

/-- VSEL (R171). -/
def issueVsel (vd : BitVec 6) (va : BitVec 6) (vb : BitVec 6) (ty : BitVec 2) (sb : Bool) (q : BitVec 3) (s : State) : Issue :=
  s.vx q (if sb then [1] else []) (va :: vd :: if sb then [] else [vb]) vd 4 0 <|
    rowOfNats (tyW ty) <| List.zipWith (fun (ab : Nat × Nat) d => if d != 0 then ab.1 else ab.2)
      ((lanesOf (tyW ty) (s.vrow va)).zip (s.vopB (tyW ty) vb sb)) (lanesOf (tyW ty) (s.vrow vd))

def execVsel (vd : BitVec 6) (va : BitVec 6) (vb : BitVec 6) (ty : BitVec 2) (sb : Bool) (q : BitVec 3) (s : State) : Host.Outcome State Fault Refusal :=
  commit 2 s (issueVsel vd va vb ty sb q s)

/-- The lanes of a VCVT (R172): n conversions, then zeros. -/
def vcvtRow (ty : BitVec 2) (t : Fmt) (zi zo : Bool) (rm : Nat) (sat8 : Bool) (row : List Byte) : List Byte × BitVec 9 :=
  let f := tyFF ty
  let wt := t.ebits / 8
  let n := min (512 / tyW ty) (512 / wt)
  let sat := sat8 && (t == .e4m3 || t == .e5m2)
  let r := rowOfRes wt (((lanesOf (tyW ty) row).take n).map fun a => t.convert (f.decode (f.flush zi a)) rm sat zo)
  (r.1 ++ List.replicate (512 - n * wt) 0, r.2)

/-- VCVT (R172). -/
def issueVcvt (vd : BitVec 6) (va : BitVec 6) (code : BitVec 4) (ty : BitVec 2) (zi : Bool) (zo : Bool) (q : BitVec 3) (s : State) : Issue :=
  match Fmt.ofCode code.toNat with
  | some t => s.vx q [] [va] vd 4 (wordOf (.vcvt vd va code ty zi zo q)) (vcvtRow ty t zi zo s.c.vrm s.c.sat8 (s.vrow va))
  | none => s.raise tFMT 2 (wordOf (.vcvt vd va code ty zi zo q))

def execVcvt (vd : BitVec 6) (va : BitVec 6) (code : BitVec 4) (ty : BitVec 2) (zi : Bool) (zo : Bool) (q : BitVec 3) (s : State) : Host.Outcome State Fault Refusal :=
  commit 2 s (issueVcvt vd va code ty zi zo q s)

/-- VMOV (R173). -/
def issueVmov (vd : BitVec 6) (va : BitVec 6) (q : BitVec 3) (s : State) : Issue :=
  s.vx q [] [va] vd 4 0 (s.vrow va, 0)

def execVmov (vd : BitVec 6) (va : BitVec 6) (q : BitVec 3) (s : State) : Host.Outcome State Fault Refusal :=
  commit 2 s (issueVmov vd va q s)

/-- VBCAST (R173). -/
def issueVbcast (vd : BitVec 6) (va : BitVec 6) (vb : BitVec 6) (ty : BitVec 2) (q : BitVec 3) (s : State) : Issue :=
  s.vx q [] [va] vd 4 0 (spread (tyW ty) ⟨(lanesOf (tyW ty) (s.vrow va)).getD vb.toNat 0, 0⟩)

def execVbcast (vd : BitVec 6) (va : BitVec 6) (vb : BitVec 6) (ty : BitVec 2) (q : BitVec 3) (s : State) : Host.Outcome State Fault Refusal :=
  commit 2 s (issueVbcast vd va vb ty q s)

/-- VBCASTY (R173). -/
def issueVbcastY (vd : BitVec 6) (vb : BitVec 5) (ty : BitVec 2) (q : BitVec 3) (s : State) : Issue :=
  s.vx q [1] [] vd 4 0 (spread (tyW ty) ⟨(s.c.regs.ry vb).toNat % 2 ^ (8 * tyW ty), 0⟩)

def execVbcastY (vd : BitVec 6) (vb : BitVec 5) (ty : BitVec 2) (q : BitVec 3) (s : State) : Host.Outcome State Fault Refusal :=
  commit 2 s (issueVbcastY vd vb ty q s)

/-- VLSH (R173). -/
def issueVlsh (vd : BitVec 6) (va : BitVec 6) (n : BitVec 6) (ty : BitVec 2) (q : BitVec 3) (s : State) : Issue :=
  s.vx q [] [va] vd 4 0 (shiftLanes (tyW ty) (lanesOf (tyW ty) (s.vrow va)) n.toNat)

def execVlsh (vd : BitVec 6) (va : BitVec 6) (n : BitVec 6) (ty : BitVec 2) (q : BitVec 3) (s : State) : Host.Outcome State Fault Refusal :=
  commit 2 s (issueVlsh vd va n ty q s)

/-- VLSHY (R173). -/
def issueVlshY (vd : BitVec 6) (va : BitVec 6) (vb : BitVec 5) (ty : BitVec 2) (q : BitVec 3) (s : State) : Issue :=
  s.vx q [1] [va] vd 4 0 (shiftLanes (tyW ty) (lanesOf (tyW ty) (s.vrow va)) (s.c.regs.ry vb).toInt)

def execVlshY (vd : BitVec 6) (va : BitVec 6) (vb : BitVec 5) (ty : BitVec 2) (q : BitVec 3) (s : State) : Host.Outcome State Fault Refusal :=
  commit 2 s (issueVlshY vd va vb ty q s)

/-- VGET (R174). -/
def issueVget (vd : BitVec 5) (va : BitVec 6) (vb : BitVec 5) (ty : BitVec 2) (q : BitVec 3) (s : State) : Issue :=
  Issue.touching s (if q = 0 then [] else [2]) <|
    if !s.c.guardVx q then .ok s
    else
      Issue.touching s [1, 2] <| s.rows [va] <|
        let j := (s.c.regs.ry vb).toNat % (512 / tyW ty)
        .ok ((s.modC Ctx.fusionStep).pend 4 [.y vd (BitVec.ofNat 64 ((lanesOf (tyW ty) (s.vrow va)).getD j 0))])

def execVget (vd : BitVec 5) (va : BitVec 6) (vb : BitVec 5) (ty : BitVec 2) (q : BitVec 3) (s : State) : Host.Outcome State Fault Refusal :=
  commit 2 s (issueVget vd va vb ty q s)

/-- VPUT (R174). -/
def issueVput (vd : BitVec 6) (va : BitVec 5) (vb : BitVec 5) (ty : BitVec 2) (q : BitVec 3) (s : State) : Issue :=
  Issue.touching s (if q = 0 then [] else [2]) <|
    if !s.c.guardVx q then .ok s
    else
      Issue.touching s [1, 2] <|
        let j := (s.c.regs.ry vb).toNat % (512 / tyW ty)
        let o := rowOff (s.c.row vd) + j * tyW ty
        s.ownAccess 2 (BitVec.ofNat 64 o) o (tyW ty) false true <|
          .ok ((s.modC Ctx.fusionStep).pend 4 [.acc false o (bytesLE (s.c.regs.ry va).toNat (tyW ty))])

def execVput (vd : BitVec 6) (va : BitVec 5) (vb : BitVec 5) (ty : BitVec 2) (q : BitVec 3) (s : State) : Host.Outcome State Fault Refusal :=
  commit 2 s (issueVput vd va vb ty q s)

/-- VIADD (R175). -/
def issueViadd (vd : BitVec 6) (va : BitVec 6) (vb : BitVec 6) (sb : Bool) (q : BitVec 3) (s : State) : Issue :=
  s.viB vd va vb sb q fun a b => a + b

def execViadd (vd : BitVec 6) (va : BitVec 6) (vb : BitVec 6) (sb : Bool) (q : BitVec 3) (s : State) : Host.Outcome State Fault Refusal :=
  commit 2 s (issueViadd vd va vb sb q s)

/-- VISUB (R175). -/
def issueVisub (vd : BitVec 6) (va : BitVec 6) (vb : BitVec 6) (sb : Bool) (q : BitVec 3) (s : State) : Issue :=
  s.viB vd va vb sb q fun a b => a - b

def execVisub (vd : BitVec 6) (va : BitVec 6) (vb : BitVec 6) (sb : Bool) (q : BitVec 3) (s : State) : Host.Outcome State Fault Refusal :=
  commit 2 s (issueVisub vd va vb sb q s)

/-- VIMUL (R175). -/
def issueVimul (vd : BitVec 6) (va : BitVec 6) (vb : BitVec 6) (sb : Bool) (q : BitVec 3) (s : State) : Issue :=
  s.viB vd va vb sb q fun a b => a * b

def execVimul (vd : BitVec 6) (va : BitVec 6) (vb : BitVec 6) (sb : Bool) (q : BitVec 3) (s : State) : Host.Outcome State Fault Refusal :=
  commit 2 s (issueVimul vd va vb sb q s)

/-- VAND (R175). -/
def issueVand (vd : BitVec 6) (va : BitVec 6) (vb : BitVec 6) (sb : Bool) (q : BitVec 3) (s : State) : Issue :=
  s.viB vd va vb sb q fun a b => a &&& b

def execVand (vd : BitVec 6) (va : BitVec 6) (vb : BitVec 6) (sb : Bool) (q : BitVec 3) (s : State) : Host.Outcome State Fault Refusal :=
  commit 2 s (issueVand vd va vb sb q s)

/-- VOR (R175). -/
def issueVor (vd : BitVec 6) (va : BitVec 6) (vb : BitVec 6) (sb : Bool) (q : BitVec 3) (s : State) : Issue :=
  s.viB vd va vb sb q fun a b => a ||| b

def execVor (vd : BitVec 6) (va : BitVec 6) (vb : BitVec 6) (sb : Bool) (q : BitVec 3) (s : State) : Host.Outcome State Fault Refusal :=
  commit 2 s (issueVor vd va vb sb q s)

/-- VXOR (R175). -/
def issueVxor (vd : BitVec 6) (va : BitVec 6) (vb : BitVec 6) (sb : Bool) (q : BitVec 3) (s : State) : Issue :=
  s.viB vd va vb sb q fun a b => a ^^^ b

def execVxor (vd : BitVec 6) (va : BitVec 6) (vb : BitVec 6) (sb : Bool) (q : BitVec 3) (s : State) : Host.Outcome State Fault Refusal :=
  commit 2 s (issueVxor vd va vb sb q s)

/-- VSLL (R175). -/
def issueVsll (vd : BitVec 6) (va : BitVec 6) (vb : BitVec 6) (sb : Bool) (q : BitVec 3) (s : State) : Issue :=
  s.viB vd va vb sb q fun a b => a <<< (b.toNat % 32)

def execVsll (vd : BitVec 6) (va : BitVec 6) (vb : BitVec 6) (sb : Bool) (q : BitVec 3) (s : State) : Host.Outcome State Fault Refusal :=
  commit 2 s (issueVsll vd va vb sb q s)

/-- VSRL (R175). -/
def issueVsrl (vd : BitVec 6) (va : BitVec 6) (vb : BitVec 6) (sb : Bool) (q : BitVec 3) (s : State) : Issue :=
  s.viB vd va vb sb q fun a b => a >>> (b.toNat % 32)

def execVsrl (vd : BitVec 6) (va : BitVec 6) (vb : BitVec 6) (sb : Bool) (q : BitVec 3) (s : State) : Host.Outcome State Fault Refusal :=
  commit 2 s (issueVsrl vd va vb sb q s)

/-- VSRA (R175). -/
def issueVsra (vd : BitVec 6) (va : BitVec 6) (vb : BitVec 6) (sb : Bool) (q : BitVec 3) (s : State) : Issue :=
  s.viB vd va vb sb q fun a b => a.sshiftRight (b.toNat % 32)

def execVsra (vd : BitVec 6) (va : BitVec 6) (vb : BitVec 6) (sb : Bool) (q : BitVec 3) (s : State) : Host.Outcome State Fault Refusal :=
  commit 2 s (issueVsra vd va vb sb q s)

/-- VIMIN (R175). -/
def issueVimin (vd : BitVec 6) (va : BitVec 6) (vb : BitVec 6) (sb : Bool) (q : BitVec 3) (s : State) : Issue :=
  s.viB vd va vb sb q fun a b => if BitVec.slt a b then a else b

def execVimin (vd : BitVec 6) (va : BitVec 6) (vb : BitVec 6) (sb : Bool) (q : BitVec 3) (s : State) : Host.Outcome State Fault Refusal :=
  commit 2 s (issueVimin vd va vb sb q s)

/-- VIMAX (R175). -/
def issueVimax (vd : BitVec 6) (va : BitVec 6) (vb : BitVec 6) (sb : Bool) (q : BitVec 3) (s : State) : Issue :=
  s.viB vd va vb sb q fun a b => if BitVec.slt a b then b else a

def execVimax (vd : BitVec 6) (va : BitVec 6) (vb : BitVec 6) (sb : Bool) (q : BitVec 3) (s : State) : Host.Outcome State Fault Refusal :=
  commit 2 s (issueVimax vd va vb sb q s)

/-- VADD8 (R153, R176). -/
def issueVadd8 (vd : BitVec 6) (va : BitVec 6) (vb : BitVec 6) (ty : Bool) (zi : Bool) (zo : Bool) (sb : Bool) (q : BitVec 3) (s : State) : Issue :=
  s.v8 vd va vb ty zi sb q (wordOf (.vadd8 vd va vb ty zi zo sb q)) fun f a b => f.addV a b s.c.vrm s.c.sat8 zo

def execVadd8 (vd : BitVec 6) (va : BitVec 6) (vb : BitVec 6) (ty : Bool) (zi : Bool) (zo : Bool) (sb : Bool) (q : BitVec 3) (s : State) : Host.Outcome State Fault Refusal :=
  commit 2 s (issueVadd8 vd va vb ty zi zo sb q s)

/-- VMUL8 (R153, R176). -/
def issueVmul8 (vd : BitVec 6) (va : BitVec 6) (vb : BitVec 6) (ty : Bool) (zi : Bool) (zo : Bool) (sb : Bool) (q : BitVec 3) (s : State) : Issue :=
  s.v8 vd va vb ty zi sb q (wordOf (.vmul8 vd va vb ty zi zo sb q)) fun f a b => f.mulV a b s.c.vrm s.c.sat8 zo

def execVmul8 (vd : BitVec 6) (va : BitVec 6) (vb : BitVec 6) (ty : Bool) (zi : Bool) (zo : Bool) (sb : Bool) (q : BitVec 3) (s : State) : Host.Outcome State Fault Refusal :=
  commit 2 s (issueVmul8 vd va vb ty zi zo sb q s)

/-- VIOTA (R177). -/
def issueViota (vd : BitVec 6) (ty : BitVec 2) (q : BitVec 3) (s : State) : Issue :=
  s.vx q [] [] vd 4 0 (rowOfNats (tyW ty) (List.range (512 / tyW ty)))

def execViota (vd : BitVec 6) (ty : BitVec 2) (q : BitVec 3) (s : State) : Host.Outcome State Fault Refusal :=
  commit 2 s (issueViota vd ty q s)

/-- VRNG (R109, R177). -/
def issueVrng (vd : BitVec 6) (va : BitVec 6) (vb : BitVec 6) (sb : Bool) (q : BitVec 3) (s : State) : Issue :=
  s.viB vd va vb sb q fun a b => hash32 a b

def execVrng (vd : BitVec 6) (va : BitVec 6) (vb : BitVec 6) (sb : Bool) (q : BitVec 3) (s : State) : Host.Outcome State Fault Refusal :=
  commit 2 s (issueVrng vd va vb sb q s)

end Sys2Proof.Machine
end

