-- ==== Sys2Proof/Machine/Matrix.lean ====
section
/-!
DEFINITION. The matrix engine (R238 to R255): the checks of MCALL and MZERO, the operands and arithmetic of the routines
(R159 to R161, R242 to R246), their busy times, their completion and their stop.
-/

namespace Sys2Proof.Machine

/-! ### Parameters -/

/-- What a routine read of M0 to M3 and of its entry (R156, R239). -/
def MxRun.m (r : MxRun) : Nat := bitsOf r.m0.toNat 0 7 + 1
def MxRun.n (r : MxRun) : Nat := bitsOf r.m0.toNat 8 7 + 1
def MxRun.klen (r : MxRun) : Nat := bitsOf r.m0.toNat 16 16
def MxRun.ct (r : MxRun) : Nat := bitsOf r.m0.toNat 32 5
def MxRun.stile (r : MxRun) : Nat := bitsOf r.m0.toNat 40 5
def MxRun.rstr (r : MxRun) : Nat := bitsOf r.m1.toNat 0 24
def MxRun.af (r : MxRun) : Nat := bitsOf r.fmt.toNat 0 4
def MxRun.bf (r : MxRun) : Nat := bitsOf r.fmt.toNat 4 4
def MxRun.cf (r : MxRun) : Nat := bitsOf r.fmt.toNat 8 4
def MxRun.smode (r : MxRun) : Nat := bitsOf r.fmt.toNat 12 2
def MxRun.gap (r : MxRun) : Nat := bitsOf r.fmt.toNat 14 4
def MxRun.rm (r : MxRun) : Nat := bitsOf r.fmt.toNat 18 2
def MxRun.sat (r : MxRun) : Bool := bitOf r.fmt.toNat 20
def MxRun.fi (r : MxRun) : Bool := bitOf r.fmt.toNat 21
def MxRun.fo (r : MxRun) : Bool := bitOf r.fmt.toNat 22
def MxRun.soff (r : MxRun) : Nat := r.fmt.toNat / 2 ^ 32
def MxRun.ascl (r : MxRun) : Nat := bitsOf r.m2.toNat 0 24 + r.soff
def MxRun.bscl (r : MxRun) : Nat := bitsOf r.m3.toNat 0 24 + r.soff

/-- The routines that multiply two operands (R249). -/
def Routine.isMul : Routine → Bool
  | .gemm | .gemmt | .gemmz | .gemv | .outer | .dgemm => true
  | _ => false

/-- The routines that use K (R248). -/
def Routine.usesK : Routine → Bool
  | .gemm | .gemmt | .gemmz | .gemv | .dgemm => true
  | _ => false

/-- K′ of R244. -/
def MxRun.k (r : MxRun) : Nat := if r.rt == .outer then 1 else r.klen

/-! ### Busy time (R247) -/

/-- Twice the kstep of a code. -/
def kstep2 (code : Nat) : Nat :=
  match code with
  | 7 | 8 => 16
  | 3 | 4 | 5 | 6 | 9 => 8
  | 1 | 2 => 4
  | _ => 1

def MxRun.busy (r : MxRun) : Nat :=
  match r.rt with
  | .mzero => 32
  | .dgemm => 16 + 4 * r.klen
  | .gemm | .gemmt | .gemmz | .gemv | .outer => 16 + ceilDiv (2 * r.k) (min (kstep2 r.af) (kstep2 r.bf))
  | _ => 16 + ceilDiv r.m 4

/-! ### Areas (R241, R242) -/

/-- A scratchpad area: its start and its length. -/
structure Area where
  start : Nat
  len : Nat
  deriving DecidableEq, Repr

def up64 (n : Nat) : Nat := ceilDiv n 64 * 64

/-- The scale area of an operand of `elems` elements in `blocks` blocks, with `added` bytes under SMODE 01. -/
def scaleArea (f : Fmt) (smode start blocks added : Nat) : List Area :=
  if f.isBlock then [⟨start, up64 (blocks * f.scaleBytes)⟩]
  else if smode = 1 then [⟨start, up64 added⟩] else []

/-- The blocks of a row of GEMMT's B before element 0 of row j (R242). -/
def gemmtBlock (rstr w j : Nat) : Nat := j * (rstr * 8 / w) / 32

/-- Operand a's area and its scale area. -/
def MxRun.areaA (r : MxRun) : List Area :=
  match r.rt, Fmt.ofCode r.af with
  | .rowsc, _ => [⟨r.sa, 4 * r.m⟩]
  | .outer, some f => ⟨r.sa, 128 * f.ebits / 8⟩ :: scaleArea f r.smode r.ascl 4 (128 * 3 + 1)
  | .dgemm, some f => [⟨r.sa, r.klen * 128 * f.ebits / 8⟩]
  | .gemm, some f | .gemmt, some f | .gemmz, some f | .gemv, some f =>
    ⟨r.sa, r.klen * 128 * f.ebits / 8⟩ :: scaleArea f r.smode r.ascl (4 * r.klen) (128 * ceilDiv r.klen 32)
  | _, _ => []

/-- Operand b's area and its scale area, or those of CVTOUT and LOADC. Log 17 (DEDUCED). -/
def MxRun.areaB (r : MxRun) : List Area :=
  match r.rt, Fmt.ofCode r.bf, Fmt.ofCode r.cf with
  | .gemm, some f, _ | .gemmz, some f, _ =>
    ⟨r.sb, r.klen * 128 * f.ebits / 8⟩ :: scaleArea f r.smode r.bscl (4 * r.klen) (128 * ceilDiv r.klen 32)
  | .gemmt, some f, _ =>
    ⟨r.sb, (r.n - 1) * r.rstr + ceilDiv (r.klen * f.ebits) 8⟩
      :: scaleArea f r.smode r.bscl (gemmtBlock r.rstr f.ebits (r.n - 1) + ceilDiv r.klen 32)
        (128 * (ceilDiv r.klen 32 - 1) + r.n)
  | .gemv, some f, _ =>
    ⟨r.sb, ceilDiv (r.klen * f.ebits) 8⟩
      :: scaleArea f r.smode r.bscl (ceilDiv r.klen 32) (128 * (ceilDiv r.klen 32 - 1) + 1)
  | .outer, some f, _ => ⟨r.sb, 128 * f.ebits / 8⟩ :: scaleArea f r.smode r.bscl 4 (128 * 3 + 1)
  | .dgemm, some _, _ => [⟨r.sb, r.klen * 64 * 8⟩]
  | .cvtout, _, some f | .loadc, _, some f =>
    ⟨r.sb, (r.m - 1) * r.rstr + r.n * f.ebits / 8⟩
      :: (if f.isBlock then [⟨r.ascl, up64 (r.m * r.n / 32 * f.scaleBytes)⟩] else [])
  | _, _, _ => []

def MxRun.areas (r : MxRun) : List Area := r.areaA ++ r.areaB

/-- The scratchpad bytes that a routine reads or writes: of strided rows, and of the scales of GEMMT's rows, not what lies between
them (R242, R246). -/
def MxRun.rows (r : MxRun) : List Area :=
  match r.rt, Fmt.ofCode r.bf, Fmt.ofCode r.cf with
  | .gemmt, some f, _ =>
    r.areaA ++ (List.range r.n).map (fun j => ⟨r.sb + j * r.rstr, ceilDiv (r.klen * f.ebits) 8⟩)
      ++ if f.isBlock then
          (List.range r.n).map fun j => ⟨r.bscl + gemmtBlock r.rstr f.ebits j * f.scaleBytes, ceilDiv r.klen 32 * f.scaleBytes⟩
        else r.areaB.tail
  | .cvtout, _, some f | .loadc, _, some f =>
    (List.range r.m).map (fun i => ⟨r.sb + i * r.rstr, r.n * f.ebits / 8⟩) ++ r.areaB.tail
  | _, _, _ => r.areas

/-- The tiles that a routine locks (R252), and its tile blocks in the order of R248. -/
def MxRun.locks (r : MxRun) : List Nat :=
  match r.rt with
  | .trans | .colred => [r.stile, r.ct]
  | .mzero => r.tiles
  | _ => [r.ct]

/-! ### The checks of MCALL (R243, R248, R249) -/

/-- Check 1: the entry. TRANS uses none. -/
def MxRun.fmtBad (r : MxRun) : Bool :=
  match r.rt with
  | .trans | .mzero => false
  | .gemm | .gemmt | .gemmz | .gemv | .outer => entryBad r.fmt || decide (9 < r.af) || decide (9 < r.bf)
  | .dgemm => entryBad r.fmt || r.af != 0xA || r.bf != 0xA
  | .cvtout => entryBad r.fmt || (decide (5 ≤ r.cf) && decide (r.cf ≤ 7) && r.gap == 0)
  | _ => entryBad r.fmt

/-- Check 2: the register that breaks a limit (R239, R245, R246). -/
def MxRun.paramBad (r : MxRun) : Option Word :=
  let w := match Fmt.ofCode r.cf with | some f => f.ebits | none => 0
  let io := r.rt == .cvtout || r.rt == .loadc
  let blk := match Fmt.ofCode r.cf with | some f => f.isBlock | none => false
  if r.rt.usesK && r.klen == 0 then some r.m0
  else if r.rt == .dgemm && decide (64 < r.n) then some r.m0
  else if r.rt == .trans && r.ct == r.stile then some r.m0
  else if io && r.cf == 0xA && decide (64 < r.n) then some r.m0
  else if io && blk && r.n % 32 != 0 then some r.m0
  else if (io || r.rt == .gemmt) && r.rstr % 64 != 0 then some r.m1
  else if io && decide (r.rstr * 8 < r.n * w) then some r.m1
  else none

/-- Check 6: the second area found in a group, where the placement of R249 fails. -/
def MxRun.misplaced (r : MxRun) : Option Nat :=
  let g (a : Area) : Nat := a.start / 0x400000
  let whole (a : Area) : Bool := a.len == 0 || g a == (a.start + a.len - 1) / 0x400000
  match (r.areaA ++ r.areaB).find? fun a => !whole a with
  | some a => some a.start
  | none =>
    let same (l : List Area) : Option Nat :=
      match l with
      | [] => none
      | a :: t => (t.find? fun b => g b != g a).map Area.start
    if r.rt.isMul then
      match same r.areaA, same r.areaB, r.areaA, r.areaB with
      | some x, _, _, _ => some x
      | none, some x, _, _ => some x
      | none, none, a :: _, b :: _ => if g a == g b then some b.start else none
      | _, _, _, _ => none
    else same r.areas

/-- The bank groups of a routine. -/
def MxRun.groupsUsed (r : MxRun) : List Nat := (r.areas.map fun a => a.start / 0x400000).eraseDups

/-- The presence blocks of areas. -/
def areaBlocks (as : List Area) : List Nat := as.flatMap fun a => if a.len = 0 then [] else blocksOf a.start a.len

/-- The routine enters the engine (R250). -/
def Matrix.enter (mx : Matrix) (r : MxRun) : Matrix :=
  match mx.run with
  | none => { mx with run := some r, started := false, seen := [] }
  | some _ => { mx with queue := some r }

def Matrix.full (mx : Matrix) : Bool := mx.run.isSome && mx.queue.isSome

/-- The LOCAL offset of element (i, j) of w bytes in a tile (R238). -/
def tileOff (t i j w : Nat) : Nat := 0x1000000 + t * 65536 + i * 512 + j * w

/-- The first bytes of the first m rows of a tile. -/
def tileRows (t m len : Nat) : List Area := (List.range m).map fun i => ⟨tileOff t i 0 1, len⟩

/-- The bytes of an element of FP32 and FP64 tiles. -/
def MxRun.cellBytes (r : MxRun) : Nat :=
  match r.rt with
  | .dgemm => 8
  | .cvtout | .loadc => if r.cf = 0xA then 8 else 4
  | _ => 4

/-- The tile bytes that a routine reads (R244 to R246). -/
def MxRun.tileReads (r : MxRun) : List Area :=
  match r.rt with
  | .mzero | .gemmz | .loadc => []
  | .gemv => tileRows r.ct 1 (4 * r.m)
  | .trans => tileRows r.stile r.n (4 * r.m)
  | .colred => tileRows r.stile r.m (4 * r.n)
  | _ => tileRows r.ct r.m (r.cellBytes * r.n)

/-- The rows, columns and element bytes that a routine writes in its tile. -/
def MxRun.outShape (r : MxRun) : Nat × Nat × Nat :=
  match r.rt with
  | .gemv => (1, r.m, 4)
  | .colred => (1, r.n, 4)
  | .mzero => (128, 128, 4)
  | .cvtout => (0, 0, 4)
  | _ => (r.m, r.n, r.cellBytes)

/-- The tile bytes that a routine writes. -/
def MxRun.tileWrites (r : MxRun) : List Area :=
  tileRows (if r.rt == .mzero then r.tiles.headD 0 else r.ct) r.outShape.1 (r.outShape.2.1 * r.outShape.2.2)

/-- Whether a transfer of the spindle locks lines that a routine needs (R195). -/
def State.mxLocked (s : State) (n : Nat) (r : MxRun) : Bool :=
  r.rows.any fun a => a.len != 0 && s.transferLocked n a.start a.len (r.rt == .cvtout)

/-- The same for the areas and the tiles of a routine that would issue. -/
def State.mxCrosses (s : State) (n : Nat) (r : MxRun) : Bool :=
  s.mxLocked n r || (r.tileReads.any fun a => s.transferLocked n a.start a.len false)
    || r.tileWrites.any fun a => s.transferLocked n a.start a.len true

/-- A word that asserts a wait for the matrix engine beside what else it waits for (R251). -/
def Issue.alsoEngine (b : Bool) : Issue → Issue
  | .wait ks s => .wait (if b && !ks.contains wENGINE then ks ++ [wENGINE] else ks) s
  | i => i

/-- MCALL and MZERO with what they read at issue (R248). -/
def State.mcall (s : State) (r : MxRun) (bs : List Nat) : Issue :=
  let lo := s.c.ctl.seglo.toNat
  let hi := s.c.ctl.seghi.toNat
  Issue.alsoEngine s.c.eng.mx.full <| Issue.touching s bs <|
    match s.mxTrap with
    | some t => .trap t
    | none =>
      if r.fmtBad then s.raise tFMT 4 r.fmt
      else
        match r.paramBad with
        | some x => s.raise tILLEGAL 4 x
        | none =>
          let addr (a : Area) : Word := BitVec.ofNat 64 a.start
          match r.areas.find? fun a => a.start % 64 != 0 with
          | some a => s.raise tALIGN 4 (addr a)
          | none =>
            match r.areas.find? fun a => decide (0x1000000 < a.start + a.len) || decide (0x1000000 ≤ a.start) with
            | some a => s.raise tXLATE 4 (addr a)
            | none =>
              match r.areas.find? fun a => decide (a.start < lo) || decide (hi < a.start + a.len) with
              | some a => s.raise tSEGBOUND 4 (addr a)
              | none =>
                match r.misplaced with
                | some x => s.raise tMBANK 4 (BitVec.ofNat 64 x)
                | none =>
                  Issue.touching s (areaBlocks r.areas ++ r.locks.map (6 + ·)) <|
                    if s.c.eng.mx.full then .wait [wENGINE] s
                    else if s.mxCrosses s.cur r then .wait [wBANK] s
                    else
                      let r := { r with left := r.busy, groups := r.groupsUsed, tiles := r.locks }
                      .ok (s.modC fun c => { c with eng := { c.eng with mx := c.eng.mx.enter r } })

/-- An MCALL: its routine, operands, NEG and F0 (R240). -/
def State.mcallWord (s : State) (rt : Routine) (sa sb : Option (BitVec 6)) (f0 neg : Bool) : Issue :=
  let c := s.c
  let rd (x : Option (BitVec 6)) : Nat := match x with | some r => (c.rd6 r).toNat | none => 0
  let bs := (match sa with | some r => [regBlock6 r] | none => []) ++ (match sb with | some r => [regBlock6 r] | none => [])
  s.mcall { rt := rt, sa := rd sa, sb := rd sb, m0 := c.eng.m[0], m1 := c.eng.m[1], m2 := c.eng.m[2], m3 := c.eng.m[3]
            fmt := if f0 then c.eng.fmt[0] else c.fmtEntry, neg := neg } (bs ++ [2, 3])

/-! ### Values (R159, R161) -/

/-- A NaN element raises NV in a product, whatever kind it is. -/
def FVal.loud : FVal → FVal
  | .nan _ n => .nan true n
  | v => v

/-- Multiplication by an E8M0 scale (R159). -/
def FVal.scaled (v : FVal) (e : Nat) : FVal :=
  match e8m0 e, v with
  | none, _ => .nan true false
  | some k, .num d => .num ⟨d.neg, d.man, d.exp + k⟩
  | some _, v => v

/-- An exact product (R161). -/
def FVal.times (a b : FVal) : FVal :=
  match a, b with
  | .nan _ _, _ => .nan true false
  | _, .nan _ _ => .nan true false
  | .inf x, .inf y => .inf (x != y)
  | .inf x, .num d => if d.man == 0 then .nan true false else .inf (x != d.neg)
  | .num d, .inf x => if d.man == 0 then .nan true false else .inf (x != d.neg)
  | .num x, .num y => .num (x.mul y)

/-- Bytes of a spindle's scratchpad as an array. -/
def State.area (s : State) (n : Nat) (start len : Nat) : Array Byte := (s.readSlice n start len).toArray

/-- An operand: its bytes, its scale bytes, and for an element the index, the block and the added byte (R242). -/
structure Operand where
  f : Fmt
  bytes : Array Byte
  scales : Array Byte
  added : Bool

/-- Val of R159, of the element that starts at a bit of the operand. -/
def Operand.valBit (o : Operand) (fi : Bool) (bit block add : Nat) : FVal :=
  let sc := if o.f.isBlock then elemAt o.scales (8 * o.f.scaleBytes) block else 0
  let v := (o.f.decode fi (bitsAt o.bytes bit o.f.ebits) sc).loud
  if o.added && !o.f.isBlock then v.scaled (o.scales.getD add 0).toNat else v

/-- Val of R159, of an element by its index. -/
def Operand.val (o : Operand) (fi : Bool) (e block add : Nat) : FVal := o.valBit fi (e * o.f.ebits) block add

def State.operand (s : State) (n : Nat) (code smode : Nat) (as : List Area) : Option Operand :=
  match Fmt.ofCode code, as with
  | some f, a :: t =>
    some { f := f, bytes := s.area n a.start a.len
           scales := match t with | b :: _ => s.area n b.start b.len | [] => #[]
           added := smode == 1 }
  | _, _ => none

/-- A[i][k] and B[k][j] of the FP32 routines (R242, R244). -/
def MxRun.valA (r : MxRun) (o : Operand) (i k : Nat) : FVal :=
  match r.rt with
  | .outer => o.val r.fi i (i / 32) (128 * (i / 32))
  | _ => o.val r.fi (128 * k + i) ((128 * k + i) / 32) (128 * (k / 32) + i)

def MxRun.valB (r : MxRun) (o : Operand) (k j : Nat) : FVal :=
  match r.rt with
  | .outer => o.val r.fi j (j / 32) (128 * (j / 32))
  | .gemv => o.val r.fi k (k / 32) (128 * (k / 32))
  | .gemmt => o.valBit r.fi (8 * (j * r.rstr) + k * o.f.ebits) (gemmtBlock r.rstr o.f.ebits j + k / 32) (128 * (k / 32) + j)
  | _ => o.val r.fi (128 * k + j) ((128 * k + j) / 32) (128 * (k / 32) + j)

/-! ### Tiles -/

def State.tileElem (s : State) (n t i j w : Nat) : Nat := ofBytesLE (s.readSlice n (tileOff t i j w) w)

/-- The values of an element of C after each group addition, first to last, with the flags of all (R160, R244). -/
def MxRun.groupSums (r : MxRun) (a b : Operand) (i j c0 : Nat) : List Nat × BitVec 9 :=
  let groups := (List.range (ceilDiv r.k 32)).map fun g => rangeFrom (32 * g) (min 32 (r.k - 32 * g))
  let st := groups.foldl (fun (acc : List Nat × BitVec 9 × Nat) ks =>
    let terms := ks.map fun k =>
      let p := (r.valA a i k).times (r.valB b k j)
      if r.neg then p.neg else p
    let g := ff32.roundTotal (totalOf terms) 0 r.fo
    let c := ff32.addV (ff32.decode acc.2.2) (ff32.decode g.bits) 0 false r.fo
    (acc.1 ++ [c.bits], acc.2.1 ||| g.fl ||| c.fl, c.bits)) ([], 0, c0)
  (st.1, st.2.1)

/-- A fused FP64 chain (R245). -/
def MxRun.chain (r : MxRun) (a b : Operand) (i j c0 : Nat) : List Nat × BitVec 9 :=
  (List.range r.klen).foldl (fun (acc : List Nat × BitVec 9) k =>
    let x := a.f.decode r.fi (elemAt a.bytes 64 (128 * k + i)) 0
    let y := b.f.decode r.fi (elemAt b.bytes 64 (64 * k + j)) 0
    let c := ff64.fmaV (if r.neg then x.neg else x) y (ff64.decode (acc.1.getLast?.getD c0)) 0 false
    (acc.1 ++ [c.bits], acc.2 ||| c.fl)) ([], 0)

/-- The values that element (i, j) of tile CT takes: after each group, or the final one, with flags (R244 to R246).
GEMV writes row 0, lane by lane. -/
def State.mxElem (s : State) (n : Nat) (r : MxRun) (a b : Option Operand) (i j : Nat) : List Nat × BitVec 9 :=
  let old := s.tileElem n r.ct i j 4
  match r.rt, a, b with
  | .gemm, some a, some b | .gemmt, some a, some b | .outer, some a, some b => r.groupSums a b i j old
  | .gemmz, some a, some b => let g := r.groupSums a b i j 0; (0 :: g.1, g.2)
  | .gemv, some a, some b => r.groupSums a b j 0 old
  | .dgemm, some a, some b => r.chain a b i j (s.tileElem n r.ct i j 8)
  | .trans, _, _ => ([s.tileElem n r.stile j i 4], 0)
  | .rowsc, _, _ =>
    let x := ff32.mulV (ff32.decode old) (ff32.decode (ofBytesLE (s.readSlice n (r.sa + 4 * i) 4))) 0 false r.fo
    ([x.bits], x.fl)
  | .colred, _, _ =>
    let x := ff32.roundTotal (totalOf ((List.range r.m).map fun k => ff32.decode (s.tileElem n r.stile k j 4))) 0 r.fo
    ([x.bits], x.fl)
  | .mzero, _, _ => ([0], 0)
  | _, _, _ => ([], 0)

def State.operandsOf (s : State) (n : Nat) (r : MxRun) : Option Operand × Option Operand :=
  (if r.rt.isMul then s.operand n r.af r.smode r.areaA else none,
    if r.rt.isMul then s.operand n r.bf r.smode r.areaB else none)

/-- The element of LOADC (R246): the stored bits for codes 0 and 0xA, otherwise the value rounded to FP32. -/
def State.loadcElem (s : State) (n : Nat) (r : MxRun) (f : Fmt) (i j : Nat) : Nat × BitVec 9 :=
  let row := s.area n (r.sb + i * r.rstr) (r.n * f.ebits / 8 + 1)
  let raw := elemAt row f.ebits j
  if f == .fp32 || f == .fp64 then (raw, 0)
  else
    let sc := if f.isBlock then
      ofBytesLE (s.readSlice n (r.ascl + (i * r.n / 32 + j / 32) * f.scaleBytes) f.scaleBytes) else 0
    let v := f.decode r.fi raw sc
    let x := ff32.convert v 0 false r.fo
    (x.bits, x.fl)

/-- The writes of CVTOUT (R246): element rows and their scales. -/
def State.cvtoutWrites (s : State) (n : Nat) (r : MxRun) (f : Fmt) : List (Nat × List Byte) × BitVec 9 :=
  let rows := (List.range r.m).map fun i =>
    if f == .fp32 || f == .fp64 then
      ([(r.sb + i * r.rstr, s.readSlice n (tileOff r.ct i 0 1) (r.n * f.ebits / 8))], (0 : BitVec 9))
    else
      let vs := (List.range r.n).map fun j => ff32.decode (ff32.flush r.fi (s.tileElem n r.ct i j 4))
      let e := f.encodeAll vs r.rm r.sat r.fo r.gap
      let eb := r.n * f.ebits / 8
      ((r.sb + i * r.rstr, e.1.take eb)
        :: (if f.isBlock then [(r.ascl + i * r.n / 32 * f.scaleBytes, e.1.drop eb)] else []), e.2)
  (rows.flatMap Prod.fst, rows.foldl (fun a p => a ||| p.2) 0)

/-- The writes of a routine with its flags. -/
def State.mxWrites (s : State) (n : Nat) (r : MxRun) : List (Nat × List Byte) × BitVec 9 :=
  match r.rt, Fmt.ofCode r.cf with
  | .cvtout, some f => s.cvtoutWrites n r f
  | rt, f =>
    let (a, b) := s.operandsOf n r
    let (m, c, w) := r.outShape
    let t := if rt == .mzero then r.tiles.headD 0 else r.ct
    let rows := (List.range m).map fun i =>
      let es := (List.range c).map fun j =>
        match rt, f with
        | .loadc, some f => s.loadcElem n r f i j
        | _, _ => let e := s.mxElem n r a b i j; (e.1.getLast?.getD 0, e.2)
      ((tileOff t i 0 w, es.flatMap fun e => bytesLE e.1 w), es.foldl (fun x e => x ||| e.2) (0 : BitVec 9))
    (rows.map Prod.fst, rows.foldl (fun x p => x ||| p.2) 0)

/-! ### Running (R250 to R253) -/

/-- Whether a result in flight goes to a row of a tile (R250). -/
def Land.intoTiles (ts : List Nat) : Land → Bool
  | .acc _ off bs => (tilesOf off bs.length).any fun t => ts.contains t
  | _ => false

def Dest.intoTiles (ts : List Nat) : Dest → Bool
  | .row off => (tilesOf off 512).any fun t => ts.contains t
  | _ => false

/-- Whether a result in flight of a context, that of a remote VLD included, goes to a row of a tile. -/
def State.goesInto (s : State) (c : Ctx) (ts : List Nat) (p : Pending) : Bool :=
  (p.lands.any fun l => l.intoTiles ts)
    || (p.awaits.any fun id => match s.msg id with | some m => m.dest.intoTiles ts | none => false)
    || (c.domOps.any fun d => p.dom.map Prod.fst == some d.id && d.dest.intoTiles ts)

/-- The results in flight to a tile, those of fixed-time accesses included. -/
def State.pendingInto (s : State) (n : Nat) (ts : List Nat) : Bool :=
  let c := s.ctxOf n
  c.pipe.any (s.goesInto c ts) || c.hpipe.any (s.goesInto c ts)

/-- The first line of form 1 or poisoned among the operands of a routine (R253). -/
def State.mxMeets (s : State) (n : Nat) (r : MxRun) : Option (Nat × Word) :=
  let as := ((if r.rt == .cvtout then [] else r.rows) ++ r.tileReads).filter fun a => a.len != 0
  match as.findSome? fun a => s.formAt n a.start a.len with
  | some o => some (tFORM, BitVec.ofNat 64 o)
  | none => (as.findSome? fun a => s.poisonAt n a.start a.len).map fun o => (tMEMERR, BitVec.ofNat 64 o)

/-- Whether a bank hold lies on a line that the routine needs (R249). -/
def Ctx.mxHeld (c : Ctx) (r : MxRun) : Bool := r.rows.any fun a => a.len != 0 && c.bankHeld a.start a.len

/-- A change of the matrix engine of a spindle. -/
def State.modMx (s : State) (n : Nat) (f : Matrix → Matrix) : State :=
  s.modCtx n fun c => { c with eng := { c.eng with mx := f c.eng.mx } }

/-- The absent blocks of a routine that a resumed context goes on with, in the order of R248 (R255, R346). -/
def State.mxMissing (s : State) (n : Nat) : List Nat :=
  match (s.ctxOf n).eng.mx.run with
  | some r => s.missingOf n (areaBlocks r.areas ++ r.locks.map (6 + ·)).eraseDups
  | none => []

/-- A cycle opens for the engine: a routine starts (R250), unless results in flight go to its tiles, or a transfer locks lines
of its areas (R195). -/
def State.mxOpen (s : State) (n : Nat) : State :=
  match (s.ctxOf n).eng.mx.run with
  | some r =>
    if (s.ctxOf n).eng.mx.started || s.pendingInto n r.tiles || s.mxLocked n r then s
    else s.modMx n fun mx => { mx with started := true, seen := [] }
  | none => s

/-- A routine that would start would read lines under a transfer lock: the spindle freezes (R195). -/
def State.mxStalls (s : State) (n : Nat) : Bool :=
  match (s.ctxOf n).eng.mx.run with
  | some r => !(s.ctxOf n).eng.mx.started && !s.pendingInto n r.tiles && s.mxLocked n r
  | none => false

/-- One engine cycle at the end of a cycle that the engine counts (R250, R251): a routine starts, waits or runs. It meets a
line of form 1 or poison in the cycle in which such a line is among its operands (R253). Log 44 (DEDUCED). -/
def State.mxTick (s : State) (n : Nat) : State :=
  let s := s.mxOpen n
  match (s.ctxOf n).eng.mx.run with
  | none => s
  | some r =>
    if !(s.ctxOf n).eng.mx.started || (s.ctxOf n).mxHeld r || !(s.mxMissing n).isEmpty then s
    else if (s.mxMeets n r).isSome then s.push [.matrixRoutineStop n]
    else
      let s := s.modMx n fun mx => { mx with run := some { r with left := r.left - 1 } }
      if r.left ≤ 1 then s.push [.matrixRoutineComplete n] else s

/-- The routine completes (R250, R253): its writes, its flags, and the queued routine moves up. Log 44 (DEDUCED). -/
def State.mxComplete (s : State) (n : Nat) : State :=
  match (s.ctxOf n).eng.mx.run with
  | some r =>
    if r.left != 0 then s
    else
      let (ws, fl) := s.mxWrites n r
      let s := ws.foldl (fun s w => s.localWrite n w.1 w.2) s
      s.modCtx n fun c =>
        { c.setFlags fl with eng := { c.eng with mx := { c.eng.mx with run := c.eng.mx.queue, queue := none, started := false, seen := [] } } }
  | none => s

/-- The routine stops at a line of form 1 or at an uncorrectable error (R253): its tiles hold free bytes, the fault is
recorded and the queued routine is discarded. No line loses its poison, the one at which it stopped among them (R381).
Log 44 (DEDUCED). -/
def State.mxStop (s : State) (n : Nat) : State :=
  match (s.ctxOf n).eng.mx.run with
  | some r =>
    match s.mxMeets n r with
    | some f =>
      let (form, poison) := (s.mem.form, s.mem.poison)
      let s := r.tiles.foldl (fun s t =>
        let (bs, s) := s.freeBytes 65536
        s.localWrite n (0x1000000 + t * 65536) bs) s
      let s := s.modMem fun m => { m with form := form, poison := poison }
      s.modCtx n fun c => { c with eng := { c.eng with mx :=
        { run := none, queue := none, started := false, fault := some f, faultTiles := r.tiles, seen := [] } } }
    | none => s
  | none => s

/-! ### MWAIT (R254) -/

/-- MWAIT, for every routine or for those that write a tile. -/
def State.mwaitWord (s : State) (tile : Option Nat) : Issue :=
  let writes (r : MxRun) : Bool :=
    match tile with
    | none => true
    | some t => if r.rt == .mzero then r.tiles.contains t else r.ct == t
  let mx := s.c.eng.mx
  let busy (x : Option MxRun) : Bool := match x with | some r => writes r | none => false
  Issue.alsoEngine (busy mx.run || busy mx.queue) <| Issue.touching s [3] <|
    match s.mxTrap with
    | some t => .trap t
    | none => if busy mx.run || busy mx.queue then .wait [wENGINE] s else .ok s

/-- MCALL GEMM (R240, R244, R245). -/
def issueMcallGemm (sa : BitVec 6) (sb : BitVec 6) (f0 : Bool) (neg : Bool) (s : State) : Issue :=
  s.mcallWord .gemm (some sa) (some sb) f0 neg

def execMcallGemm (sa : BitVec 6) (sb : BitVec 6) (f0 : Bool) (neg : Bool) (s : State) : Host.Outcome State Fault Refusal :=
  commit 4 s (issueMcallGemm sa sb f0 neg s)

/-- MCALL GEMMT (R240, R244, R245). -/
def issueMcallGemmt (sa : BitVec 6) (sb : BitVec 6) (f0 : Bool) (neg : Bool) (s : State) : Issue :=
  s.mcallWord .gemmt (some sa) (some sb) f0 neg

def execMcallGemmt (sa : BitVec 6) (sb : BitVec 6) (f0 : Bool) (neg : Bool) (s : State) : Host.Outcome State Fault Refusal :=
  commit 4 s (issueMcallGemmt sa sb f0 neg s)

/-- MCALL GEMMZ (R240, R244, R245). -/
def issueMcallGemmz (sa : BitVec 6) (sb : BitVec 6) (f0 : Bool) (neg : Bool) (s : State) : Issue :=
  s.mcallWord .gemmz (some sa) (some sb) f0 neg

def execMcallGemmz (sa : BitVec 6) (sb : BitVec 6) (f0 : Bool) (neg : Bool) (s : State) : Host.Outcome State Fault Refusal :=
  commit 4 s (issueMcallGemmz sa sb f0 neg s)

/-- MCALL GEMV (R240, R244, R245). -/
def issueMcallGemv (sa : BitVec 6) (sb : BitVec 6) (f0 : Bool) (neg : Bool) (s : State) : Issue :=
  s.mcallWord .gemv (some sa) (some sb) f0 neg

def execMcallGemv (sa : BitVec 6) (sb : BitVec 6) (f0 : Bool) (neg : Bool) (s : State) : Host.Outcome State Fault Refusal :=
  commit 4 s (issueMcallGemv sa sb f0 neg s)

/-- MCALL OUTER (R240, R244, R245). -/
def issueMcallOuter (sa : BitVec 6) (sb : BitVec 6) (f0 : Bool) (neg : Bool) (s : State) : Issue :=
  s.mcallWord .outer (some sa) (some sb) f0 neg

def execMcallOuter (sa : BitVec 6) (sb : BitVec 6) (f0 : Bool) (neg : Bool) (s : State) : Host.Outcome State Fault Refusal :=
  commit 4 s (issueMcallOuter sa sb f0 neg s)

/-- MCALL DGEMM (R240, R244, R245). -/
def issueMcallDgemm (sa : BitVec 6) (sb : BitVec 6) (f0 : Bool) (neg : Bool) (s : State) : Issue :=
  s.mcallWord .dgemm (some sa) (some sb) f0 neg

def execMcallDgemm (sa : BitVec 6) (sb : BitVec 6) (f0 : Bool) (neg : Bool) (s : State) : Host.Outcome State Fault Refusal :=
  commit 4 s (issueMcallDgemm sa sb f0 neg s)

/-- MCALL TRANS (R246). -/
def issueMcallTrans (s : State) : Issue :=
  s.mcallWord .trans none none false false

def execMcallTrans (s : State) : Host.Outcome State Fault Refusal :=
  commit 4 s (issueMcallTrans s)

/-- MCALL ROWSC (R246). -/
def issueMcallRowsc (sa : BitVec 6) (f0 : Bool) (s : State) : Issue :=
  s.mcallWord .rowsc (some sa) none f0 false

def execMcallRowsc (sa : BitVec 6) (f0 : Bool) (s : State) : Host.Outcome State Fault Refusal :=
  commit 4 s (issueMcallRowsc sa f0 s)

/-- MCALL COLRED (R246). -/
def issueMcallColred (f0 : Bool) (s : State) : Issue :=
  s.mcallWord .colred none none f0 false

def execMcallColred (f0 : Bool) (s : State) : Host.Outcome State Fault Refusal :=
  commit 4 s (issueMcallColred f0 s)

/-- MCALL CVTOUT (R246). -/
def issueMcallCvtout (sb : BitVec 6) (f0 : Bool) (s : State) : Issue :=
  s.mcallWord .cvtout none (some sb) f0 false

def execMcallCvtout (sb : BitVec 6) (f0 : Bool) (s : State) : Host.Outcome State Fault Refusal :=
  commit 4 s (issueMcallCvtout sb f0 s)

/-- MCALL LOADC (R246). -/
def issueMcallLoadc (sb : BitVec 6) (f0 : Bool) (s : State) : Issue :=
  s.mcallWord .loadc none (some sb) f0 false

def execMcallLoadc (sb : BitVec 6) (f0 : Bool) (s : State) : Host.Outcome State Fault Refusal :=
  commit 4 s (issueMcallLoadc sb f0 s)

/-- MZERO (R254). -/
def issueMzero (tile : BitVec 5) (s : State) : Issue :=
  s.mcall { rt := .mzero, tiles := [tile.toNat] } [3]

def execMzero (tile : BitVec 5) (s : State) : Host.Outcome State Fault Refusal :=
  commit 4 s (issueMzero tile s)

/-- MWAIT (R254). -/
def issueMwait (s : State) : Issue :=
  s.mwaitWord none

def execMwait (s : State) : Host.Outcome State Fault Refusal :=
  commit 4 s (issueMwait s)

/-- MWAIT of a tile (R254). -/
def issueMwaitTile (tile : BitVec 5) (s : State) : Issue :=
  s.mwaitWord (some tile.toNat)

def execMwaitTile (tile : BitVec 5) (s : State) : Host.Outcome State Fault Refusal :=
  commit 4 s (issueMwaitTile tile s)

/-- A routine completes (R244 to R254). -/
def execMatrixRoutineComplete (n : Nat) (s : State) : Host.Outcome State Fault Refusal := .next (s.mxComplete n)

/-- A routine stops (R253). -/
def execMatrixRoutineStop (n : Nat) (s : State) : Host.Outcome State Fault Refusal := .next (s.mxStop n)

end Sys2Proof.Machine
end

