-- ==== Sys2Proof/Machine/Copy.lean ====
section
/-!
DEFINITION. The copy engine (R214 to R232): the words of the CP slot, the movement of lines, shadows and their publish,
the end of streams, and PERSIST.
-/

namespace Sys2Proof.Machine

/-! ### Contexts of a partition -/

/-- Every context of a partition: on a spindle, suspended, or in an image. -/
def State.ctxsOf (s : State) (p : Nat) : List Ctx :=
  ((s.spindles.filter fun x => x.2.run != .empty && x.2.ctx.partN == p).map fun x => x.2.ctx)
    ++ (s.part p).sched.susp.map (fun u => u.sp.ctx)
    ++ (s.part p).sched.images.map fun i => i.2.ctx

/-! ### Table leaves -/

/-- A leaf with the key of its entry. -/
structure LeafAt where
  base : Nat
  size : Nat
  entry : Word
  key : Nat
  deriving DecidableEq, Repr

/-- The well-formed leaves below a table, in rising order of offset (R325, R326). -/
def leavesFrom (m : Memory) : List (Nat × Nat) → Nat → Nat → List LeafAt
  | [], _, _ => []
  | (lo, n) :: ls, table, base =>
    (List.range n).flatMap fun i =>
      let key := table + 8 * i
      let e : Word := BitVec.ofNat 64 (ofBytesLE (m.read key 8))
      let o := base + i * 2 ^ lo
      if !e.getLsbD 0 then []
      else if e.getLsbD 1 then
        if lo = 39 || leafMalformed e (2 ^ lo) (decide (2 ^ 48 ≤ o)) then [] else [⟨o, 2 ^ lo, e, key⟩]
      else if ls.isEmpty || e.toNat / 2 ^ 60 != 0 then []
      else leavesFrom m ls (leafAddr e) o

/-- The leaves of a partition's table. -/
def State.leaves (s : State) (p : Nat) : List LeafAt :=
  let cfg := (s.part p).cfg
  if cfg.en then leavesFrom s.mem walkLevels (cfg.root.toNat * 8192) 0 else []

/-! ### Durability of second-tier memory (R232, R379) -/

/-- The undurable bytes that a PERSIST of spindle w over [a, a + len) covers. -/
def State.persistCovers (s : State) (w : Nat) (c : Ctx) (a len : Nat) : List Nat :=
  let ls := (s.leaves c.partN).filter fun l => leafPERS l.entry
  (s.mem.soft.filter fun e => e.2.tail.any (fun x => x.1 == w) && ls.any fun l =>
    decide (leafAddr l.entry ≤ e.1) && decide (e.1 < leafAddr l.entry + l.size) &&
      (let x := globalBase + l.base + (e.1 - leafAddr l.entry)
       decide (a ≤ x) && decide (x < a + len))).map Prod.fst

/-! ### Lines -/

/-- Where bytes of a stream lie: their home, whether it keeps form bits, whether it is trusted (R233). -/
structure Place where
  loc : Loc
  kept : Bool
  trusted : Bool
  deriving DecidableEq, Repr

/-- The outcome of reaching the bytes of a stream: reached, stalled with the state that has asked, or a fault. -/
inductive LineReach where
  | at_ (p : Place)
  | wait (s : State)
  | bad (code : Nat)

/-- What keeps traffic other than the owner's slots away from bytes of a slice (R194, R249, R252). -/
def State.sliceBusy (s : State) (m off len : Nat) (locked : Bool) : Bool :=
  let h := s.ctxOf m
  h.bankHeld off len || h.groupHeld off len || (locked && h.tileLocked off len)

/-! ### The order of one count (R259, R305) -/

/-- Whether the turn of a spindle has passed in this count, with its local accesses. -/
def State.turnOver (s : State) (n : Nat) : Bool := decide ((s.groupOf n).head?.getD n < s.turn)

/-- Whether a fixed-time write of the slice's timed domain, by a spindle that comes before spindle w, has still to reach
bytes of it in this count. -/
def State.domainFirst (s : State) (w n off len : Nat) : Bool :=
  (s.ctxOf n).domain && (s.groupOf n).any fun m => decide (m < w) && (s.ctxOf m).domOps.any fun d =>
    d.applyIn == 0 && d.home == n && d.op.writes && decide (d.off < off + len)

/-- Whether an access of spindle w may be applied at its home in this count (R259): writes to a line come in the order of the
physical spindle numbers, what enters at an I/O die (320) after them, the owner's local writes last (321), and reads after
them (322). Log 2 (DESIGN CHOICE). -/
def State.inOrder (s : State) (w : Nat) (l : Loc) (len : Nat) (write : Bool) : Bool :=
  let own (m : Nat) : Bool := m == w
  let rank := match l with | .slice m _ => if own m then 321 else w | _ => w
  l.outside ||
    ((if write then (s.linesAt l len).all fun x => decide (tget 0 x.2 s.served ≤ rank) else true)
      && match l with
        | .slice m off => own m || (s.sp m).run == .empty
            || (if write then !s.turnOver m && !s.domainFirst w m off len else s.turnOver m)
        | _ => true)

/-- An access of spindle w has been applied in this count. -/
def State.noteServed (s : State) (w : Nat) (l : Loc) (len : Nat) (write : Bool) : State :=
  if l.outside then s
  else
    let own := match l with | .slice m _ => m == w | _ => false
    let rank := if own then 321 else if write then w else 322
    if own && !write then s
    else { s with served := (s.linesAt l len).foldl (fun t x => tput x.2 (max rank (tget 0 x.2 t)) t) s.served }

/-- Bytes of a slice for a stream of spindle n. -/
def State.lineSlice (s : State) (n m off len : Nat) (write trusted : Bool) : LineReach :=
  if m == n && !(s.ctxOf n).inBounds off len then .bad tSEGBOUND
  else
    let miss := s.missingOf m (blocksOf off len)
    if !miss.isEmpty then .wait (s.askBlocks m miss)
    else if s.sliceBusy m off len (write || m == n) || !s.inOrder n (.slice m off) len write then .wait s
    else .at_ ⟨.slice m off, trusted, trusted⟩

/-- Bytes of a stream of spindle n (R217, R231, R328). A host home waits for a holder of the lease (R34). -/
def State.lineReach (s : State) (n : Nat) (a : Word) (len : Nat) (write : Bool) : LineReach :=
  let c := s.ctxOf n
  match s.aim c a.toNat with
  | .bad => .bad tXLATE
  | .own off => s.lineSlice n n off len write true
  | .remote m off => s.lineSlice n m off len write true
  | .global o =>
    match s.xlate (dieOf n) c.partN o write c.ctl.strict with
    | .miss => .wait (s.askWalk (dieOf n) c.partN o)
    | .fault => .bad tXLATE
    | .hit (.host h) _ => if s.lease.holder = 0 then .wait s else .at_ ⟨.host h, false, false⟩
    | .hit l e => if !s.inOrder n l len write then .wait s else .at_ ⟨l, (match l with | .phys pa => isHbm pa | _ => false), leafTR e⟩
  | .cluster m off =>
    if !(s.clusterByte c.partN m).getLsbD 6 then .bad tXLATE
    else if m != s.pf.modid.toNat then (if Config.linked m then .at_ ⟨.far m off, false, false⟩ else .bad tXLATE)
    else
      match s.farPlace (s.farPart c.partN m) off write with
      | some (.slice k o) =>
        let miss := s.missingOf k (blocksOf o len)
        if !miss.isEmpty then .wait (s.askBlocks k miss)
        else if s.sliceBusy k o len write || !s.inOrder n (.slice k o) len write then .wait s
        else .at_ ⟨.slice k o, false, false⟩
      | some l => if !s.inOrder n l len write then .wait s else .at_ ⟨l, false, false⟩
      | none => .bad tXLATE

/-- Whether bytes have a line of form 1, or a poisoned one. -/
def State.lineForm (s : State) (p : Place) (len : Nat) : Bool := p.kept && (s.formOf p.loc len).isSome
def State.linePoison (s : State) (p : Place) (len : Nat) : Bool :=
  !p.loc.outside && (s.poisonOf p.loc len).isSome

/-- A write of an engine line: no clock, so that the tag of what it leaves of a line stays (R260), and the form bit carried
(R233). -/
def State.putLine (s : State) (w : Nat) (p : Place) (bs : List Byte) (form : Bool) : State :=
  let k := s.keyOf p.loc
  let s := (s.writeLoc w p.loc bs).noteServed w p.loc bs.length true
  if p.loc.outside then s
  else s.modMem fun m =>
    let m := { m with tags := (wholeLines k bs.length).foldl (fun t l => tdel l t) m.tags }
    if p.kept && form then m.setForm k bs.length true else m

/-! ### Bytes of a tile that a routine is working on (R252) -/

/-- The values that the element of w bytes at a tile offset holds in the course of the running routine. -/
def State.courseOf (s : State) (m : Nat) (r : MxRun) (t rel w : Nat) : List Nat :=
  let old := ofBytesLE (s.readSlice m (0x1000000 + t * 65536 + rel) w)
  let sh := r.outShape
  let i := rel / 512
  let j := rel % 512 / w
  let mine := if r.rt == .mzero then r.tiles.contains t else r.ct == t
  if mine && decide (i < sh.1) && decide (j < sh.2.1) then
    if r.rt == .loadc then
      match Fmt.ofCode r.cf with
      | some f => [old, (s.loadcElem m r f i j).1]
      | none => [old]
    else
      let (a, b) := s.operandsOf m r
      old :: (s.mxElem m r a b i j).1
  else [old]

/-- A read of a slice by another spindle or an I/O die: each element of a locked tile comes from some point of the
running routine, no earlier than an element already read from it (R252, R259). Log 24 (DESIGN CHOICE). -/
def State.outerRead (s : State) (m off len : Nat) : List Byte × State :=
  match (s.ctxOf m).eng.mx.run with
  | none => (s.readSlice m off len, s)
  | some r =>
    if !(s.ctxOf m).eng.mx.started || off < 0x1000000 || !(s.ctxOf m).tileLocked off len then (s.readSlice m off len, s)
    else
      let w := r.outShape.2.2
      let lo := off / w * w
      let es := (List.range (ceilDiv (off + len - lo) w)).foldl (fun (x : List Byte × State) i =>
        let o := lo + i * w
        let vs := x.2.courseOf m r ((o - 0x1000000) / 65536) ((o - 0x1000000) % 65536) w
        let from_ := tget 0 o (x.2.ctxOf m).eng.mx.seen
        let (k, s) := x.2.choose (vs.length - from_)
        let s := s.modCtx m fun c => { c with eng := { c.eng with mx := { c.eng.mx with seen := tput o (from_ + k) c.eng.mx.seen } } }
        (x.1 ++ bytesLE (vs.getD (from_ + k) 0) w, s)) ([], s)
      ((es.1.drop (off - lo)).take len, es.2)

/-- A read of located bytes with the tags of the writes that it returns (R260). -/
def State.homeRead (s : State) (l : Loc) (len : Nat) : List Byte × List Nat × State :=
  if l.outside then
    let r := s.readLoc l len
    (r.1, [], r.2)
  else
    let t := s.tagsOf l len
    match l with
    | .slice n off =>
      let r := s.outerRead n off len
      (r.1, t, r.2)
    | l => ((s.readLoc l len).1, t, s)

/-! ### Order (R228) -/

/-- The class bit of an access: 1 SPR, 2 SPW, 4 MEM. -/
def State.classAt (s : State) (c : Ctx) (a : Word) (write : Bool) : Nat :=
  match s.aim c a.toNat with
  | .own _ | .remote .. => if write then 2 else 1
  | _ => 4

def Stream.lines (st : Stream) : Nat := ceilDiv st.writeLen 64
def Stream.total (st : Stream) : Nat := st.rowCount * st.lines
def Stream.indexed (st : Stream) : Bool := st.kind == .gath || st.kind == .scat

/-- Whether the rows of a stream from r on have an access of a class in the mask. -/
def State.classFrom (s : State) (n : Nat) (st : Stream) (mask r : Nat) : Bool :=
  let c := s.ctxOf n
  let hit (a : Nat) (len : Nat) (write : Bool) : Bool :=
    (s.classAt c (BitVec.ofNat 64 a) write) &&& mask != 0
      || (s.classAt c (BitVec.ofNat 64 (a + len - 1)) write) &&& mask != 0
  (rangeFrom r (st.rowCount - r)).any fun i =>
    hit (s.srcRow n st i) st.readLen false || hit (s.dstRow n st i) st.writeLen true
      || (st.indexed && mask % 2 == 1)

/-- The classes of the accesses of a pending PUBL: its fill reads and writes the storage of its shadows (R225, R228). -/
def Channel.publClass (ch : Channel) : Nat :=
  ch.shadows.foldl (fun x u => x ||| match u.of with | .block .. => 3 | .page .. => 4) 0

/-- Whether a command numbered below q still has accesses of the classes in the mask. -/
def State.earlier (s : State) (n q mask : Nat) : Bool :=
  let e := (s.ctxOf n).eng
  (e.chan.toList.any fun ch =>
    match ch.stream with
    | some st => decide (st.seq < q) && s.classFrom n st mask (st.done / st.lines)
    | none => false)
    || (e.chan.toList.any fun ch => ch.publ && decide (ch.publSeq < q) && ch.publClass &&& mask != 0)
    || (match e.cipher with
        | some cy => decide (cy.seq < q) &&
            ((s.classAt (s.ctxOf n) cy.region false ||| s.classAt (s.ctxOf n) cy.region true
              ||| s.classAt (s.ctxOf n) cy.tag false ||| s.classAt (s.ctxOf n) cy.tag true) &&& mask != 0)
        | none => false)

/-- Whether an SBAR keeps the accesses of the classes in the mask of a command numbered q. -/
def State.barred (s : State) (n q mask : Nat) : Bool :=
  (s.ctxOf n).eng.sbars.any fun b =>
    decide (b.seq ≤ q) && b.after.toNat &&& mask != 0 && s.earlier n b.seq b.before.toNat

/-! ### Changes of a channel -/

def State.modChan (s : State) (n c : Nat) (f : Channel → Channel) : State :=
  s.modCtx n fun x => { x with eng := x.eng.modChannel c f }

/-- A stream fails (R217, R226): its shadow is discarded. -/
def State.failStream (s : State) (n c code : Nat) (a : Word) : State :=
  (s.clearWalks n).modChan n c fun ch =>
    { ch with state := 3, cause := BitVec.ofNat 8 code, addr := a, stream := none, publ := false, shadows := [] }

/-- The bytes of line l of a row. -/
def Stream.lineLen (st : Stream) (l : Nat) : Nat := min 64 (st.writeLen - 64 * l)

/-- Bytes of the next line are done: DONE counts them (R214), and with the last of them the line. -/
def Stream.lineMoved (st : Stream) (len : Nat) (fl : BitVec 9) : Stream :=
  let st := { st with flags := st.flags ||| fl }
  if st.part + len < st.lineLen (st.done % st.lines) then { st with part := st.part + len }
  else { st with done := st.done + 1, part := 0 }

def State.lineDone (s : State) (n c len : Nat) (fl : BitVec 9) : State :=
  s.modChan n c fun ch => { ch with
    done := ch.done + BitVec.ofNat 32 len
    stream := ch.stream.map fun st => st.lineMoved len fl }

/-! ### One line -/

/-- The storage of a shadowed line: the key of its bytes (R224). -/
def Channel.shadowKey (ch : Channel) (aim : Aim) (n : Nat) : Option Nat :=
  let slice (m off : Nat) : Option Nat := ch.shadows.findSome? fun x =>
    match x.of with
    | .block k lb pb => if k == m && lb == off / 65536 then some (sliceKey m (pb * 65536 + off % 65536)) else none
    | .page .. => none
  match aim with
  | .own off => slice n off
  | .remote m off => slice m off
  | .global o => ch.shadows.findSome? fun x =>
    match x.of with
    | .page b pa _ => if b == o / 2 ^ 21 * 2 ^ 21 then some (pa + o % 2 ^ 21) else none
    | .block .. => none
  | _ => none

/-- Notes a line as written to its shadow (R225). -/
def Channel.shadowWrote (ch : Channel) (aim : Aim) (n : Nat) : Channel :=
  let hit (x : Shadow) : Option Nat :=
    match x.of, aim with
    | .block k lb _, .own off => if k == n && lb == off / 65536 then some (off % 65536 / 64) else none
    | .block k lb _, .remote m off => if k == m && lb == off / 65536 then some (off % 65536 / 64) else none
    | .page b _ _, .global o => if b == o / 2 ^ 21 * 2 ^ 21 then some (o % 2 ^ 21 / 64) else none
    | _, _ => none
  { ch with shadows := ch.shadows.map fun x =>
      match hit x with
      | some l => { x with lines := insN l x.lines }
      | none => x }

/-- The write of a line of a stream at a reached place, to the shadow when there is one. -/
def State.streamPut (s : State) (n c : Nat) (a : Word) (p : Place) (bs : List Byte) (form : Bool) (fl : BitVec 9) : State :=
  let ch := (s.ctxOf n).eng.channel c
  let aim := s.aim (s.ctxOf n) a.toNat
  match ch.shadowKey aim n with
  | some k =>
    -- second-tier memory holds no form bits (R233), and its bytes are durable only after a PERSIST (R232)
    let s := s.modMem fun m =>
      let m := (m.soften n k bs).write k bs
      if form && !isCxl k then m.setForm k bs.length true else m
    (s.modChan n c fun ch => ch.shadowWrote aim n).lineDone n c bs.length fl
  | none => (s.putLine n p bs form).lineDone n c bs.length fl

/-- The conversion of row r of a BDRAIN (R222). -/
def State.drainRow (s : State) (n : Nat) (st : Stream) (r : Nat) : List Byte × BitVec 9 :=
  match Fmt.ofCode st.bf.src, Fmt.ofCode st.bf.snk with
  | some a, some b => convertSlot st.bf a b (s.readSlice n (s.srcRow n st r) st.readLen) st.elems
  | _, _ => ([], 0)

/-- The bytes of a slot that bytes [x, x + w) of the destination row come from (R198, R222): their elements, whole groups of 32
where the sink has block scales, and the scales that those elements have in the slot. -/
def Stream.drainFrom (st : Stream) (x w : Nat) : List (Nat × Nat) :=
  match Fmt.ofCode st.bf.src, Fmt.ofCode st.bf.snk with
  | some a, some b =>
    if a = b then [(x, w)]
    else
      let el := st.elems * b.ebits / 8
      let y := x + w - 1
      let es := (if x < el then [(8 * x / b.ebits, min (st.elems - 1) ((8 * min y (el - 1) + 7) / b.ebits))] else [])
        ++ (if el ≤ y && b.isBlock then [(32 * ((max x el - el) / b.scaleBytes), min (st.elems - 1) (32 * ((y - el) / b.scaleBytes) + 31))]
            else [])
      es.flatMap fun e =>
        let lo := if b.isBlock then e.1 / 32 * 32 else e.1
        let hi := if b.isBlock then min (st.elems - 1) (e.2 / 32 * 32 + 31) else e.2
        let from_ := lo * a.ebits / 8
        (from_, ceilDiv ((hi + 1) * a.ebits) 8 - from_)
          :: (if a.isBlock then [(st.elems * a.ebits / 8 + lo / 32 * a.scaleBytes, (hi / 32 - lo / 32 + 1) * a.scaleBytes)] else [])
  | _, _ => []

/-- The reduction of a line of a COLL (R220). -/
def collLine (cctl : Word) (dst src : List Byte) : List Byte × BitVec 9 :=
  let v := cctl.toNat
  let u := laneUpdate (bitsOf v 4 3) (bitsOf v 0 2) 0 (bitOf v 7) (bitOf v 8)
  mapElems u.1 u.2 dst src

/-- Whether a location is on another module. -/
def Loc.isFar : Loc → Bool
  | .far .. => true
  | _ => false

/-- What another module finds of a line by a free choice: 0, or the code of a fault, an uncorrectable error for a read
(R217, R330). Log 24 (DESIGN CHOICE). -/
def State.farFails (s : State) (p q : Place) : Nat × State :=
  if p.loc.isFar then (let (k, s) := s.choose 3; ([0, tXLATE, tMEMERR].getD k 0, s))
  else if q.loc.isFar then (let (k, s) := s.choose 2; ([0, tXLATE].getD k 0, s))
  else (0, s)

/-- The bytes that a location some bytes further on names. -/
def Loc.plus (l : Loc) (k : Nat) : Loc :=
  match l with
  | .slice n off => .slice n (off + k)
  | .phys a => .phys (a + k)
  | .host a => .host (a + k)
  | .far m off => .far m (off + k)

/-- The address of the first line, among pieces of bytes at address a, that meets a condition (R217, R381). -/
def lineOf (a : Word) (l : Loc) (f : Loc → Nat → Option Int) (ps : List (Nat × Nat)) : Option Word :=
  ps.findSome? fun x => (f (l.plus x.1) x.2).map fun d => a + BitVec.ofNat 64 x.1 + BitVec.ofInt 64 d

/-- The line of an index entry (R217). -/
def idxLine (e : Nat) : Word := BitVec.ofNat 64 (e / 64 * 64)

/-- The bytes of DONE that a stream may still move before it stands, once its context is captured (R227). -/
def State.streamRoom (s : State) (n : Nat) (ch : Channel) : Nat :=
  match (s.sp n).run with | .captured .. => 4096 - ch.done.toNat % 4096 | _ => 64

/-- Moves the next line of channel c, if it can: the state and whether the channel advanced (R217, R219 to R222). A captured
stream moves no byte past a multiple of 4,096 of DONE (R227). -/
def State.moveLine (s : State) (n c : Nat) : State × Bool :=
  let ch := (s.ctxOf n).eng.channel c
  match ch.stream with
  | none => (s, false)
  | some st =>
    if st.total ≤ st.done then (s, false)
    else
      let r := st.done / st.lines
      let l := st.done % st.lines
      let e := st.idx + 4 * r
      let first := st.indexed && l == 0
      let miss := if first then s.missingOf n (blocksOf e 4) else []
      if !miss.isEmpty then (s.askBlocks n miss, false)
      else if first && s.sliceBusy n e 4 false then (s, false)
      else if first && (s.formAt n e 4).isSome then (s.failStream n c tFORM (idxLine e), true)
      else if first && (s.poisonAt n e 4).isSome then (s.failStream n c tMEMERR (idxLine e), true)
      else
      let s := if st.indexed && l == 0 then
          s.modChan n c fun ch => { ch with stream := some { st with ix := s.idxEntry n st r } } else s
      let drain := st.kind == .bdrain
      let a : Word := BitVec.ofNat 64 (s.srcRow n st r + if drain then 0 else 64 * l)
      let x := 64 * l + st.part
      let b : Word := BitVec.ofNat 64 (s.dstRow n st r + x)
      let rl := if drain then st.readLen else 64
      let wl := if drain then min (st.lineLen l - st.part) (s.streamRoom n ch) else 64
      let needs := if drain then st.drainFrom x wl else [(0, 64)]
      let mask := s.classAt (s.ctxOf n) a false ||| s.classAt (s.ctxOf n) b true ||| (if st.indexed then 1 else 0)
      if s.barred n st.seq mask then (s, false)
      else
        match s.lineReach n a rl false with
        | .wait s => (s, false)
        | .bad code => (s.failStream n c code a, true)
        | .at_ p =>
          match s.lineReach n b wl true with
          | .wait s => (s, false)
          | .bad code => (s.failStream n c code b, true)
          | .at_ q =>
            let formed := if p.kept then lineOf a p.loc s.formOf needs else if st.ct then some a else none
            let form := formed.isSome
            let (away, s) := (s.noteServed n p.loc rl false).farFails p q
            if away != 0 then (s.failStream n c away (if p.loc.isFar then a else b), true)
            else if !p.loc.outside && (lineOf a p.loc s.poisonOf needs).isSome then
              (s.failStream n c tMEMERR ((lineOf a p.loc s.poisonOf needs).getD a), true)
            else if form && (drain || st.kind == .coll) then (s.failStream n c tFORM (formed.getD a), true)
            else if st.kind == .coll then
              if s.linePoison q wl then (s.failStream n c tMEMERR b, true)
              else
                let x := s.homeRead p.loc rl
                let y := x.2.2.readLoc q.loc wl
                let u := collLine st.cctl y.1 x.1
                ((y.2.putLine n q u.1 false).lineDone n c u.1.length u.2, true)
            else if !form && !q.trusted then (s.failStream n c tFORM b, true)
            else if drain then
              let u := s.drainRow n st r
              (s.streamPut n c b q ((u.1.drop x).take wl) false u.2, true)
            else
              let x := s.homeRead p.loc 64
              (x.2.2.streamPut n c b q x.1 form 0, true)

/-- Whether the engine of spindle n moves lines of a stream: while its context runs or is held, and to its next
boundary of 4,096 bytes once it is captured (R227). -/
def State.streamGoes (s : State) (n : Nat) (ch : Channel) : Bool :=
  (match ch.stream with | some st => decide (8 ≤ st.age) | none => false) &&
    match (s.sp n).run with
    | .running | .held _ => true
    | .captured .. => ch.done.toNat % 4096 != 0
    | _ => false

/-- Lines of the active channels in rotation (R223): at most `budget`, while some channel advances. -/
def State.moveLines (s : State) (n : Nat) : Nat → Nat → Nat → State
  | 0, _, _ => s
  | _, 0, _ => s
  | fuel + 1, budget + 1, idle =>
    if 8 ≤ idle then s
    else
      let c := (s.ctxOf n).eng.rot % 8
      let s := s.modCtx n fun x => { x with eng := { x.eng with rot := (c + 1) % 8 } }
      if s.streamGoes n ((s.ctxOf n).eng.channel c) then
        let (s, ok) := s.moveLine n c
        if ok then s.moveLines n fuel budget 0 else s.moveLines n fuel (budget + 1) (idle + 1)
      else s.moveLines n fuel (budget + 1) (idle + 1)

/-- The engine moves lines once in a cycle of its spindle's clock, how many of the four is not fixed (R223). Its state must
be there (R344). -/
def State.streamMoves (s : State) (n : Nat) : State :=
  if (s.sp n).moved then s
  else if !(s.missingOf n [3]).isEmpty then s.askBlocks n [3]
  else
    let (k, s) := s.choose 4
    (s.modSp n fun sp => { sp with moved := true }).moveLines n 64 (k + 1) 0

/-- A stream ends (R220, R222, R224, R229): its flags are set; a shadowed one awaits its publish. -/
def State.streamEnds (s : State) (n c : Nat) : State :=
  let ch := (s.ctxOf n).eng.channel c
  match ch.stream with
  | some st =>
    if st.total ≤ st.done && !(ch.publ && !ch.shadows.isEmpty) then
      (s.modCtx n fun x => x.flagLater ((s.sp n).run == .running) st.flags).modChan n c fun ch =>
        { ch with stream := none, publ := false, state := if ch.shadows.isEmpty then 0 else 2 }
    else s
  | none => s

/-- The deadline of a strict stream runs out (R217, R295). Log 22 (DESIGN CHOICE). -/
def State.deadline (s : State) (n c : Nat) : State :=
  match ((s.ctxOf n).eng.channel c).stream with
  | some st =>
    if st.dl != 0 && st.dl ≤ st.bound then
      let a := s.freeWord
      a.2.failStream n c tOVERRUN a.1
    else s
  | none => s

/-- The end of a cycle for the streams of spindle n; `counted` marks a cycle that a deadline counts (R294). -/
def State.streamTick (s : State) (n : Nat) (counted : Bool) : State :=
  (List.range 8).foldl (fun s c =>
    match ((s.ctxOf n).eng.channel c).stream with
    | some st =>
      let st := { st with age := st.age + 1, bound := st.bound + counted.toNat }
      let s := s.modChan n c fun ch => { ch with stream := some st }
      if st.dl != 0 && decide (st.dl ≤ st.bound) && decide (st.done < st.total) then s.push [.streamDeadlineExpiry n c] else s
    | none => s) (s.modSp n fun sp => { sp with moved := false })

/-! ### Publish (R225) -/

/-- The entry that maps a 2 MiB page of a partition (R331). -/
def State.pageLeaf (s : State) (p o : Nat) : Option LeafAt :=
  (s.leaves p).find? fun l => l.base == o && l.size == 2 ^ 21

/-- The key of the mapped storage that a shadow replaces, with the key of the shadow and the size. -/
def State.shadowSpan (s : State) (p : Nat) (x : Shadow) : Option (Nat × Nat × Nat) :=
  match x.of with
  | .block m lb pb => some (s.sliceAt m (65536 * lb), sliceKey m (65536 * pb), 65536)
  | .page o pa _ => (s.pageLeaf p o).map fun l => (leafAddr l.entry, pa, 2 ^ 21)

/-- Copies lines with their form, poison and clock tags, for spindle w (R232). Log 19 (DEDUCED). -/
def Memory.copyLines (m : Memory) (w src dst : Nat) (ls : List Nat) : Memory :=
  ls.foldl (fun m l =>
    let a := src + 64 * l
    let b := dst + 64 * l
    let f := m.form.contains (a / 64)
    let x := m.poison.contains (a / 64)
    let t := tget [] (a / 64) m.tags
    let m := ((m.soften w b (m.read a 64)).write b (m.read a 64)).setForm b 64 f
    { (if x then m.poisonLine (b / 64) else m) with tags := if t.isEmpty then tdel (b / 64) m.tags else tput (b / 64) t m.tags }) m

/-- Fill: the lines that the stream did not write come from the mapped storage. -/
def State.fill (s : State) (w p : Nat) (x : Shadow) : State :=
  match s.shadowSpan p x with
  | some (src, dst, size) =>
    s.modMem fun m => m.copyLines w src dst ((List.range (size / 64)).filter fun l => !x.lines.contains l)
  | none => s

/-- The entry with the address of another. -/
def withAddr (e a : Word) : Word := BitVec.ofNat 64 (e.toNat - leafAddr e + leafAddr a)

/-- Whether the page table of a partition translated a message: its own, or, of an address of CLUSTER on this module, that of the
partition that the map names (R330). -/
def State.translatedBy (s : State) (p : Nat) (m : Msg) : Bool :=
  m.part == p || (decide (clusterBase ≤ m.val.toNat) && s.farPart m.part s.pf.modid.toNat == p)

/-- An access under way to a page that is swapped is applied to the page that then has its address (R225): every access
applied at its home after the swap sees the new storage. -/
def State.redirect (s : State) (p old new : Nat) : State :=
  { s with msgs := s.msgs.map fun m =>
      match m.loc with
      | .phys pa => if m.isGoing && s.translatedBy p m && decide (old ≤ pa) && decide (pa < old + 2 ^ 21)
          then { m with loc := .phys (new + (pa - old)) } else m
      | _ => m }

/-- Swap: the block map or the page translation names the shadow (R188, R331). -/
def State.swap (s : State) (p : Nat) (x : Shadow) : State :=
  match x.of with
  | .block m lb pb =>
    s.modCtx m fun c => { c with eng := { c.eng with
      bmap := c.eng.bmap.set (lb % 256) (BitVec.ofNat 9 pb) (Nat.mod_lt _ (by decide)) } }
  | .page o _ pool =>
    -- the page's own leaf, by its offset: no translation of another leaf changes (R331)
    match s.pageLeaf p o with
    | some l =>
      let e := l.entry
      let f : Word := BitVec.ofNat 64 (ofBytesLE (s.mem.read pool 8))
      let s := s.modMem fun m => (m.write l.key (bytesLE (withAddr e f).toNat 8)).write pool (bytesLE (withAddr f e).toNat 8)
      let renamed (h : Held) : Held :=
        if h.part == p && h.base == l.base && h.size == l.size then { h with entry := withAddr h.entry f } else h
      { s with held := s.held.map renamed }.redirect p (leafAddr e) (leafAddr f)
    | none => s

/-- Whether the storage that a shadow replaces can be read: no block of it is absent. -/
def State.fillMiss (s : State) (x : Shadow) : List (Nat × Nat) :=
  match x.of with
  | .block m lb _ => (s.missingOf m [38 + lb]).map fun b => (m, b)
  | .page .. => []

/-- Whether a publish can take effect: its stream has completed (R225), the context is not captured (R227), no SBAR keeps its
accesses (R228), and no bank of the blocks is held (R194, R249). -/
def State.mayPublish (s : State) (n c : Nat) : Bool :=
  let ch := (s.ctxOf n).eng.channel c
  ch.publ && !ch.shadows.isEmpty
    && (match ch.stream with | some st => decide (st.total ≤ st.done) | none => true)
    && (match (s.sp n).run with | .running | .held _ => true | _ => false)
    && !s.barred n ch.publSeq ch.publClass
    && ch.shadows.all fun x => match x.of with | .block m lb _ => !s.sliceBusy m (65536 * lb) 65536 false | .page .. => true

/-- PUBL is carried out once its conditions hold. Log 19 (DEDUCED). -/
def State.publish (s : State) (n c : Nat) : State :=
  if !s.mayPublish n c then s
  else
    let p := (s.ctxOf n).partN
    let ch := (s.ctxOf n).eng.channel c
    let miss := (s.missingOf n [3]).map (fun b => (n, b)) ++ ch.shadows.flatMap s.fillMiss
    if !miss.isEmpty then miss.foldl (fun s x => s.askBlock x.1 x.2) s
    else
      let fl := match ch.stream with | some st => st.flags | none => 0
      let s := ch.shadows.foldl (fun s x => s.fill n p x) s
      let s := ch.shadows.foldl (fun s x => s.swap p x) s
      (s.modCtx n fun x => x.flagLater ((s.sp n).run == .running) fl).modChan n c fun ch =>
        { ch with state := 0, stream := none, publ := false, shadows := [] }

/-! ### Shadows at issue (R224, R331) -/

/-- The shadows that other channels hold. -/
def State.shadowsHeld (s : State) (n c : Nat) : List Shadow :=
  (s.spindles.flatMap fun x => (List.range 8).flatMap fun i =>
    if x.1 == n && i == c then [] else (x.2.ctx.eng.channel i).shadows)
    ++ s.parts.flatMap fun p => (p.2.sched.susp.flatMap fun u => (List.range 8).flatMap fun i => (u.sp.ctx.eng.channel i).shadows)
        ++ p.2.sched.images.flatMap fun m => (List.range 8).flatMap fun i => (m.2.ctx.eng.channel i).shadows

/-- The shadows that the other channels of the same spindle hold. -/
def Eng.ownShadows (e : Eng) (c : Nat) : List Shadow :=
  (List.range 8).flatMap fun i => if i = c then [] else (e.channel i).shadows

/-- The physical blocks of a bank group (R187). -/
def groupBlocks (g : Nat) : List Nat := rangeFrom (64 * g) 64 ++ rangeFrom (256 + 8 * g) 8

/-- The blocks and pages that the destination rows touch, in order; none where one cannot be shadowed. -/
def State.shadowNeeds (s : State) (n : Nat) (st : Stream) : Option (List (Nat × Nat) × List Nat) :=
  let c := s.ctxOf n
  (List.range st.rowCount).foldl (fun acc r =>
    match acc with
    | none => none
    | some (bl, pg) =>
      let a := s.dstRow n st r
      let blocks (m off : Nat) : Option (List (Nat × Nat) × List Nat) :=
        if 0x1000000 < off + st.writeLen || 0x1000000 ≤ off then none
        else some ((bl ++ (rangeFrom (off / 65536) ((off + st.writeLen - 1) / 65536 - off / 65536 + 1)).map fun b => (m, b)).eraseDups, pg)
      match s.aim c a with
      | .own off => blocks n off
      | .remote m off => blocks m off
      | .global o =>
        some (bl, (pg ++ (rangeFrom (o / 2 ^ 21) ((o + st.writeLen - 1) / 2 ^ 21 - o / 2 ^ 21 + 1)).map (· * 2 ^ 21)).eraseDups)
      | _ => none) (some ([], []))

/-- The free shadow storage of a bank group of spindle m. -/
def State.freeBlocks (s : State) (used : List ShadowOf) (m g : Nat) : List Nat :=
  let map_ := (s.ctxOf m).eng.bmap.toList.map BitVec.toNat
  (groupBlocks g).filter fun pb => !map_.contains pb && !used.any fun u =>
    match u with | .block k _ q => k == m && q == pb | .page .. => false

/-- The free leaves of the shadow-page pool for pages of a tier (R331). Log 23 (DEDUCED). -/
def freeLeaves (all : List LeafAt) (used : List ShadowOf) (first : Bool) : List LeafAt :=
  all.filter fun l => leafSHP l.entry && l.size == 2 ^ 21 && decide (l.base < 2 ^ 48) == first
    && !used.any fun u => match u with | .page _ _ k => k == l.key | .block .. => false

/-- Need, free and held by the same spindle's other channels: 0 there is enough, 1 there will be, 2 there is not. -/
def shadowVerdict (need free own : Nat) : Nat := if need ≤ free then 0 else if need ≤ free + own then 1 else 2

/-- The shadows of a command, or whether it must wait (true) or fails (false). Log 23 (DEDUCED). -/
def State.shadowsFor (s : State) (n c : Nat) (st : Stream) : Except Bool (List Shadow) :=
  if !st.sh then .ok []
  else
    match s.shadowNeeds n st with
    | none => .error false
    | some (bl, pg) =>
      let used := (s.shadowsHeld n c).map Shadow.of
      let own := ((s.ctxOf n).eng.ownShadows c).map Shadow.of
      let all := if pg.isEmpty then [] else s.leaves (s.ctxOf n).partN
      let groups := (bl.map fun x => (x.1, x.2 / 64)).eraseDups
      let of (k : Nat × Nat) : List (Nat × Nat) := bl.filter fun x => (x.1, x.2 / 64) == k
      let tier (f : Bool) : List Nat := pg.filter fun o => decide (o < 2 ^ 48) == f
      let good (o : Nat) : Bool :=
        match all.find? fun l => l.base == o && l.size == 2 ^ 21 with
        | some l => !leafSHP l.entry && !leafHOST l.entry
        | none => false
      let v := (groups.map fun k => shadowVerdict (of k).length (s.freeBlocks used k.1 k.2).length
          (own.countP fun u => match u with | .block m _ pb => m == k.1 && (groupBlocks k.2).contains pb | .page .. => false))
        ++ ([true, false].map fun f => shadowVerdict (tier f).length (freeLeaves all used f).length
          (own.countP fun u => match u with | .page o _ _ => decide (o < 2 ^ 48) == f | .block .. => false))
      if v.contains 2 || !pg.all good then .error false
      else if v.contains 1 then .error true
      else
        .ok ((groups.flatMap fun k => ((of k).zip (s.freeBlocks used k.1 k.2)).map fun x => ⟨.block x.1.1 x.1.2 x.2, []⟩)
          ++ [true, false].flatMap fun f => ((tier f).zip (freeLeaves all used f)).map fun x =>
              ⟨.page x.1 (leafAddr x.2.entry) x.2.key, []⟩)

/-! ### The checks of a stream command (R216, R217, R295) -/

/-- The spans that a command's rows name, in the order in which R216 checks them: an indexed side is checked when used,
and a ring by R197. -/
def State.spans (s : State) (n : Nat) (st : Stream) : List (Word × Nat) :=
  (List.range st.rowCount).flatMap fun r =>
    (if st.kind == .gath || st.kind == .bdrain then [] else [(BitVec.ofNat 64 (s.srcRow n st r), st.readLen)])
      ++ (if st.kind == .scat || st.kind == .cpyb then [] else [(BitVec.ofNat 64 (s.dstRow n st r), st.writeLen)])

/-- The first own bytes of a span: their distance from its start and their LOCAL offset, and that of the SHARED window of the
spindle (R118), when the span begins before them. -/
def State.ownPart (s : State) (n : Nat) (a : Word) (len : Nat) : Option (Nat × Nat) :=
  let c := s.ctxOf n
  match (s.aim c a.toNat).ownOff with
  | some off => some (0, off)
  | none =>
    let b := sharedBase + c.ident.psn.toNat * sharedStride
    if a.toNat < b && b < a.toNat + len then some (b - a.toNat, 0) else none

/-- The lowest address of own scratchpad bytes outside the bounds (R189). Log 20 (DEDUCED). -/
def Ctx.spanOut (c : Ctx) (a : Word) (off len : Nat) : Option Word :=
  let lo := c.ctl.seglo.toNat
  let hi := c.ctl.seghi.toNat
  if 0x1000000 ≤ off then none
  else if off < lo || hi ≤ off then some a
  else if hi < min (off + len) 0x1000000 then some (a + BitVec.ofNat 64 (hi - off)) else none

/-- The classes of a reservation that a stream belongs to, by the first and the last byte of each row: first tier, second
tier, CLUSTER (R295). -/
def State.memClasses (s : State) (n : Nat) (st : Stream) : List Nat :=
  let c := s.ctxOf n
  let of (a : Nat) : List Nat :=
    match s.aim c a with
    | .global o => if o < 2 ^ 48 then [0] else [1]
    | .cluster .. => [2]
    | _ => []
  (((if st.indexed then [st.src.toNat, st.dst.toNat] else [])
    ++ (s.spans n st).flatMap fun x => [x.1.toNat, x.1.toNat + (x.2 - 1)]).flatMap of).eraseDups

/-- A sum of fractions. -/
def fracSum (l : List (Nat × Nat)) : Nat × Nat :=
  l.foldl (fun x y => (x.1 * y.2 + y.1 * x.2, x.2 * y.2)) (0, 1)

/-- R295: whether a strict stream is admitted. -/
def State.admits (s : State) (n : Nat) (st : Stream) : Bool :=
  let p := (s.ctxOf n).partN
  let cfg := (s.part p).cfg
  let share := (st.total, st.dl - 64)
  let ok (x : Nat) : Bool :=
    let r := match x with | 0 => cfg.rhbm.toNat | 1 => cfg.rcxl.toNat | _ => cfg.rclu.toNat
    let others := (s.ctxsOf p).flatMap fun c => c.eng.chan.toList.filterMap fun ch =>
      match ch.stream with
      | some t => if t.dl != 0 && (s.memClasses n t).contains x then some (t.total - t.done, max 1 (t.dl - t.bound)) else none
      | none => none
    let f := fracSum (others ++ [share])
    decide (f.1 * 64 ≤ r * f.2)
  decide (64 < st.dl) && decide (share.1 ≤ 4 * share.2) && (s.memClasses n st).all ok

/-- The register values of a channel as a stream reads them. -/
def Stream.strideBad (st : Stream) : Option Word :=
  let two := st.kind == .cpy || st.kind == .gath || st.kind == .scat || st.kind == .coll
  if two && st.sstr.toNat % 64 != 0 then some st.sstr
  else if (two || st.kind == .bdrain) && st.dstr.toNat % 64 != 0 then some st.dstr
  else none

/-- Check 1 of R216 with the deadline rule of R217: the value of the register that breaks its limits. -/
def State.streamField (s : State) (n : Nat) (st : Stream) (clen : Word) (strict : Bool) : Option Word :=
  if st.kind != .cpyb && (st.rowb == 0 || st.rowb % 64 != 0) then some clen
  else if st.kind != .cpyb && st.kind != .bdrain && st.rows == 0 then some clen
  else
    match st.strideBad with
    | some v => some v
    | none =>
      let ty := bitsOf st.cctl.toNat 4 3
      if st.indexed && st.idx % 4 != 0 then some (BitVec.ofNat 64 st.idx)
      else if st.kind == .coll && (ty == 0 || decide (5 < ty) || bitsOf st.cctl.toNat 0 2 == 3) then some st.cctl
      else if strict && st.dl == 0 && !(s.memClasses n st).isEmpty then some 0
      else none

/-- The checks of a bobbin stream on its ring and its formats (R197, R221, R222). Log 20 (DEDUCED). -/
def State.ringFault (s : State) (n : Nat) (st : Stream) (w : Word) : Option (Nat × Word) :=
  let c := s.ctxOf n
  let r := st.ring
  if r.bad then some (tBOBBIN, w)
  else
    match r.outside c.ctl.seglo.toNat c.ctl.seghi.toNat with
    | some o => some (tSEGBOUND, BitVec.ofNat 64 o)
    | none =>
      if st.kind == .cpyb then (if r.free < st.n then some (tBOBBIN, w) else none)
      else
        match bobFmtFault st.bob[3] st.fmt (match Fmt.ofCode st.bf.snk with | some f => f.isDx | none => false),
            Fmt.ofCode st.bf.src, Fmt.ofCode st.bf.snk with
        | some v, _, _ => some (tFMT, v)
        | none, some a, some b =>
          if st.rowb * 8 % b.ebits != 0 || ((a.isBlock || b.isBlock) && st.elems % 32 != 0)
              || decide (r.size < a.bytesFor st.elems) then some (tBOBBIN, w)
          else none
        | none, _, _ => some (tFMT, st.bob[3])

/-- The checks of R216 before shadows, in their order; ATOMPLAIN of COLL stands after the decode of its rows (R220).
Log 20 (DEDUCED). -/
def State.streamFault (s : State) (n : Nat) (st : Stream) (clen w : Word) : Option (Nat × Word) :=
  let c := s.ctxOf n
  match s.streamField n st clen c.ctl.strict with
  | some v => some (tILLEGAL, v)
  | none =>
    if st.kind != .bdrain && st.src.toNat % 64 != 0 then some (tALIGN, st.src)
    else if st.kind != .cpyb && st.dst.toNat % 64 != 0 then some (tALIGN, st.dst)
    else
      match (if st.kind == .cpyb || st.kind == .bdrain then s.ringFault n st w else none) with
      | some f => some f
      | none =>
        let sp := s.spans n st
        let bad (x : Word) : Bool := s.aim c x.toNat == .bad
        match sp.findSome? fun x =>
            if bad x.1 then some x.1
            else if bad (x.1 + BitVec.ofNat 64 (x.2 - 1)) then some (x.1 + BitVec.ofNat 64 (x.2 - 1)) else none with
        | some v => some (tXLATE, v)
        | none =>
          if st.indexed && (decide (st.idx < c.ctl.seglo.toNat) || decide (c.ctl.seghi.toNat < st.idx + 4 * st.rows)) then
            some (tSEGBOUND, BitVec.ofNat 64 st.idx)
          else
            match sp.findSome? fun x =>
                match s.ownPart n x.1 x.2 with
                | some d => c.spanOut (x.1 + BitVec.ofNat 64 d.1) d.2 (x.2 - d.1)
                | none => none with
            | some v => some (tSEGBOUND, v)
            | none =>
              if st.kind == .coll then
                ((List.range st.rowCount).findSome? fun r =>
                  let a := s.dstRow n st r
                  let acc (x : Nat) : Bool :=
                    match s.aim c x with
                    | .own off | .remote _ off => decide (0x1000000 ≤ off)
                    | .cluster _ off => accRange off
                    | _ => false
                  if acc a && acc (a + st.writeLen - 1) then none else some (BitVec.ofNat 64 a)).map fun v => (tATOMPLAIN, v)
              else none

/-- The stream enters its channel (R215, R226): an unpublished shadow is discarded. -/
def Ctx.startStream (c : Ctx) (ch : Nat) (st : Stream) (sh : List Shadow) : Ctx :=
  { c with eng := { (c.eng.modChannel ch fun x =>
      { x with state := 1, cause := 0, addr := 0, done := 0, stream := some { st with seq := c.eng.seq }, publ := false,
               shadows := sh }) with seq := c.eng.seq + 1 } }

/-- A stream command (R215 to R222, R224). -/
def State.streamWord (s : State) (k : StreamKind) (ch : BitVec 3) (sa sb : Option (BitVec 6)) (ct sh : Bool)
    (bob : BitVec 4) (n : Nat) (w : Word) : Issue :=
  let reg (x : Option (BitVec 6)) : List Nat := match x with | some r => [regBlock6 r] | none => []
  Issue.touching s (reg sa ++ reg sb ++ [3]) <|
    let c := s.c
    let x := c.eng.channel ch.toNat
    let rd (y : Option (BitVec 6)) : Word := match y with | some r => c.rd6 r | none => 0
    if x.state = 1 then .wait [wSTREAM] s
    else if x.state = 3 then .trap { s.trapHere x.cause.toNat 5 x.addr with source := .channel ch.toNat }
    else
      let clen := x.read 0
      let st0 : Stream :=
        { kind := k, src := rd sa, dst := rd sb, rowb := bitsOf clen.toNat 0 24, rows := bitsOf clen.toNat 32 16
          sstr := x.read 1, dstr := x.read 2, idx := bitsOf (x.read 3).toNat 0 24, cctl := x.read 4
          dl := bitsOf (x.read 5).toNat 0 32, fmt := c.fmtEntry, bob := c.eng.bobbin bob, n := n, ct := ct, sh := sh }
      match s.streamFault s.cur st0 clen w with
      | some f => s.raise f.1 5 f.2
      | none =>
        let st := { st0 with dl := if c.ctl.strict && !(s.memClasses s.cur st0).isEmpty then st0.dl else 0 }
        match s.shadowsFor s.cur ch.toNat st with
        | .error false => s.raise tXLATE 5 st.dst
        | r =>
          if st.dl != 0 && !s.admits s.cur st then s.raise tOVERRUN 5 (BitVec.ofNat 64 st.dl)
          else
            match r with
            | .ok shs => .ok (s.modC fun c => c.startStream ch.toNat st shs)
            | .error _ => .wait [wSTREAM] s

/-- PUBL (R215, R225): it is queued behind its stream; with no shadow pending it has no effect. -/
def State.publWord (s : State) (ch : BitVec 3) : Issue :=
  Issue.touching s [3] <|
    let x := s.c.eng.channel ch.toNat
    if x.publ then .wait [wSTREAM] s
    else if x.shadows.isEmpty then .ok s
    else .ok (s.modC fun c => { c with eng := { c.eng.modChannel ch.toNat fun x =>
      { x with publ := true, publSeq := c.eng.seq, state := 1 } with seq := c.eng.seq + 1 } })

/-- CWAIT (R229). -/
def State.cwaitWord (s : State) (ch : BitVec 3) : Issue :=
  Issue.touching s [3] <|
    let x := s.c.eng.channel ch.toNat
    if x.state = 1 then .wait [wSTREAM] s
    else if x.state = 3 then .trap { s.trapHere x.cause.toNat 5 x.addr with source := .channel ch.toNat }
    else .ok s

/-- SBAR (R228). -/
def State.sbarWord (s : State) (after before : BitVec 3) : Issue :=
  Issue.touching s [3] <|
    .ok (s.modC fun c => { c with eng := { c.eng with
      sbars := (c.eng.sbars.filter fun b => s.earlier s.cur b.seq 7) ++ [⟨before, after, c.eng.seq⟩] } })

/-- PERSIST (R232). -/
def State.persistWord (s : State) (sa sb : BitVec 6) (w : Word) : Issue :=
  Issue.touching s [regBlock6 sa, regBlock6 sb] <|
    let c := s.c
    if c.ctl.strict then s.raise tILLEGAL 5 w
    else if c.rd6 sb = 0 then .ok s
    else if c.persist = .reached then .ok (s.modC fun c => { c with persist := .idle })
    else .wait [wORDER] (s.modC fun c => { c with persist := .asked (c.rd6 sa).toNat (c.rd6 sb).toNat })

/-- The writes to a byte once those of spindle w are durable: its last write is the durable byte, and later writes of
others are still to come. -/
def hardened (w : Nat) : List (Nat × Byte) → List (Nat × Byte)
  | [] => []
  | x :: t => if t.any fun y => y.1 == w then hardened w t else x :: t

/-- The covered writes reach the persistence domain (R232). A byte that nobody has written since leaves the list. -/
def Memory.harden (m : Memory) (w : Nat) (ks : List Nat) : Memory :=
  { m with soft := (m.soft.map fun e => if ks.contains e.1 then (e.1, hardened w e.2) else e).filter fun e => 1 < e.2.length }

/-- Whether a write of a spindle to host memory waits for a holder of the lease, which a PERSIST awaits too (R34). -/
def State.hostHeld (s : State) (n : Nat) : Bool :=
  s.msgs.any fun m => m.ctx == (s.ctxOf n).id && m.isGoing && (match m.loc with | .host _ => true | _ => false)
    && (match m.op with | .store _ | .atomic _ => true | _ => false)

/-- A PERSIST ends once what it covers is durable (R232). -/
def State.persistReached (s : State) (n : Nat) : State :=
  match (s.ctxOf n).persist with
  | .asked a len =>
    if s.hostHeld n then s
    else
      let ks := s.persistCovers n (s.ctxOf n) a len
      (s.modMem fun m => m.harden n ks).modCtx n fun c => { c with persist := .reached }
  | _ => s


/-- CPY (R219). -/
def issueCpy (sa : BitVec 6) (sb : BitVec 6) (ct : Bool) (sh : Bool) (ch : BitVec 3) (s : State) : Issue :=
  s.streamWord .cpy ch (some sa) (some sb) ct sh 0 0 (wordOf (.cpy sa sb ct sh ch))

def execCpy (sa : BitVec 6) (sb : BitVec 6) (ct : Bool) (sh : Bool) (ch : BitVec 3) (s : State) : Host.Outcome State Fault Refusal :=
  commit 5 s (issueCpy sa sb ct sh ch s)

/-- PUBL (R225). -/
def issuePubl (ch : BitVec 3) (s : State) : Issue :=
  s.publWord ch

def execPubl (ch : BitVec 3) (s : State) : Host.Outcome State Fault Refusal :=
  commit 5 s (issuePubl ch s)

/-- GATH (R219). -/
def issueGath (sa : BitVec 6) (sb : BitVec 6) (ct : Bool) (sh : Bool) (ch : BitVec 3) (s : State) : Issue :=
  s.streamWord .gath ch (some sa) (some sb) ct sh 0 0 (wordOf (.gath sa sb ct sh ch))

def execGath (sa : BitVec 6) (sb : BitVec 6) (ct : Bool) (sh : Bool) (ch : BitVec 3) (s : State) : Host.Outcome State Fault Refusal :=
  commit 5 s (issueGath sa sb ct sh ch s)

/-- SCAT (R219). -/
def issueScat (sa : BitVec 6) (sb : BitVec 6) (ct : Bool) (ch : BitVec 3) (s : State) : Issue :=
  s.streamWord .scat ch (some sa) (some sb) ct false 0 0 (wordOf (.scat sa sb ct ch))

def execScat (sa : BitVec 6) (sb : BitVec 6) (ct : Bool) (ch : BitVec 3) (s : State) : Host.Outcome State Fault Refusal :=
  commit 5 s (issueScat sa sb ct ch s)

/-- COLL (R220). -/
def issueColl (sa : BitVec 6) (sb : BitVec 6) (ch : BitVec 3) (s : State) : Issue :=
  s.streamWord .coll ch (some sa) (some sb) false false 0 0 (wordOf (.coll sa sb ch))

def execColl (sa : BitVec 6) (sb : BitVec 6) (ch : BitVec 3) (s : State) : Host.Outcome State Fault Refusal :=
  commit 5 s (issueColl sa sb ch s)

/-- SBAR (R228). -/
def issueSbar (after : BitVec 3) (before : BitVec 3) (s : State) : Issue :=
  s.sbarWord after before

def execSbar (after : BitVec 3) (before : BitVec 3) (s : State) : Host.Outcome State Fault Refusal :=
  commit 5 s (issueSbar after before s)

/-- CWAIT (R229). -/
def issueCwait (ch : BitVec 3) (s : State) : Issue :=
  s.cwaitWord ch

def execCwait (ch : BitVec 3) (s : State) : Host.Outcome State Fault Refusal :=
  commit 5 s (issueCwait ch s)

/-- PERSIST (R232). -/
def issuePersist (sa : BitVec 6) (sb : BitVec 6) (s : State) : Issue :=
  s.persistWord sa sb (wordOf (.persist sa sb))

def execPersist (sa : BitVec 6) (sb : BitVec 6) (s : State) : Host.Outcome State Fault Refusal :=
  commit 5 s (issuePersist sa sb s)

/-- CPYB (R221). -/
def issueCpyb (sa : BitVec 6) (n : BitVec 7) (bob : BitVec 4) (ch : BitVec 3) (s : State) : Issue :=
  s.streamWord .cpyb ch (some sa) none false false bob n.toNat (wordOf (.cpyb sa n bob ch))

def execCpyb (sa : BitVec 6) (n : BitVec 7) (bob : BitVec 4) (ch : BitVec 3) (s : State) : Host.Outcome State Fault Refusal :=
  commit 5 s (issueCpyb sa n bob ch s)

/-- BDRAIN (R222). -/
def issueBdrain (sb : BitVec 6) (n : BitVec 7) (bob : BitVec 4) (ch : BitVec 3) (s : State) : Issue :=
  s.streamWord .bdrain ch none (some sb) false false bob n.toNat (wordOf (.bdrain sb n bob ch))

def execBdrain (sb : BitVec 6) (n : BitVec 7) (bob : BitVec 4) (ch : BitVec 3) (s : State) : Host.Outcome State Fault Refusal :=
  commit 5 s (issueBdrain sb n bob ch s)

/-- The copy engine moves lines (R223). -/
def execStreamLineMove (n : Nat) (s : State) : Host.Outcome State Fault Refusal := .next (s.streamMoves n)

/-- A stream ends (R229). -/
def execStreamComplete (n : Nat) (c : Nat) (s : State) : Host.Outcome State Fault Refusal := .next (s.streamEnds n c)

/-- A strict stream misses its deadline (R217). -/
def execStreamDeadlineExpiry (n : Nat) (c : Nat) (s : State) : Host.Outcome State Fault Refusal := .next (s.deadline n c)

/-- A publish takes effect (R225). -/
def execPublishSwap (n : Nat) (c : Nat) (s : State) : Host.Outcome State Fault Refusal := .next (s.publish n c)

/-- A PERSIST ends (R232). -/
def execPersistenceReached (n : Nat) (s : State) : Host.Outcome State Fault Refusal := .next (s.persistReached n)

end Sys2Proof.Machine
end

