-- ==== Sys2Proof/Machine/Crypto.lean ====
section
/-!
DEFINITION. The cryptographic functions that the spec names: SHA-256 (R20, R361), AES-256-GCM (R20, R234) and RSASSA-PSS with
SHA-256, MGF1 and a 32-byte salt over a 3,072-bit modulus with exponent 65,537 (R20, R361), as their standards define them
(log 51, PRESUMED).
-/

namespace Sys2Proof.Machine

/-! ### SHA-256 -/

/-- The largest r with r ^ k ≤ v, found from bit n - 1 down. -/
def rootBits (k v : Nat) : Nat → Nat → Nat
  | 0, r => r
  | n + 1, r => rootBits k v n (if (r + 2 ^ n) ^ k ≤ v then r + 2 ^ n else r)

/-- The first 64 primes. -/
def shaPrimes : List Nat :=
  [2, 3, 5, 7, 11, 13, 17, 19, 23, 29, 31, 37, 41, 43, 47, 53, 59, 61, 67, 71, 73, 79, 83, 89, 97, 101, 103, 107, 109, 113, 127, 131]
    ++ [137, 139, 149, 151, 157, 163, 167, 173, 179, 181, 191, 193, 197, 199, 211, 223, 227, 229, 233, 239, 241, 251, 257, 263, 269,
        271, 277, 281, 283, 293, 307, 311]

/-- The round constants: the first 32 bits of the fractions of the primes' cube roots; the initial hash: of the square roots
of the first eight. -/
def shaK : List (BitVec 32) := shaPrimes.map fun p => BitVec.ofNat 32 (rootBits 3 (p * 2 ^ 96) 36 0)
def shaH : List (BitVec 32) := (shaPrimes.take 8).map fun p => BitVec.ofNat 32 (rootBits 2 (p * 2 ^ 64) 37 0)

/-- A big-endian word of four bytes. -/
def shaWord (bs : List Byte) : BitVec 32 := BitVec.ofNat 32 (ofBytesBE bs)

/-- The message padded to whole blocks of 64 bytes. -/
def shaPad (m : List Byte) : List Byte :=
  m ++ (0x80 : Byte) :: List.replicate ((119 - m.length % 64) % 64) 0 ++ (bytesLE (8 * m.length) 8).reverse

/-- The message schedule, latest word first: k more words. -/
def shaExpand : Nat → List (BitVec 32) → List (BitVec 32)
  | 0, w => w
  | k + 1, w =>
    let g (i : Nat) : BitVec 32 := w.getD i 0
    let s0 := (g 14).rotateRight 7 ^^^ (g 14).rotateRight 18 ^^^ (g 14) >>> 3
    let s1 := (g 1).rotateRight 17 ^^^ (g 1).rotateRight 19 ^^^ (g 1) >>> 10
    shaExpand k ((g 15 + s0 + g 6 + s1) :: w)

/-- One round on the eight working words. -/
def shaRound (v : List (BitVec 32)) (kw : BitVec 32 × BitVec 32) : List (BitVec 32) :=
  match v with
  | [a, b, c, d, e, f, g, h] =>
    let t1 := h + (e.rotateRight 6 ^^^ e.rotateRight 11 ^^^ e.rotateRight 25) + ((e &&& f) ^^^ (~~~e &&& g)) + kw.1 + kw.2
    let t2 := (a.rotateRight 2 ^^^ a.rotateRight 13 ^^^ a.rotateRight 22) + ((a &&& b) ^^^ (a &&& c) ^^^ (b &&& c))
    [t1 + t2, a, b, c, d + t1, e, f, g]
  | v => v

/-- One block of 64 bytes. -/
def shaBlock (h : List (BitVec 32)) (b : List Byte) : List (BitVec 32) :=
  let w := (shaExpand 48 ((chunksOf 4 16 b).map shaWord).reverse).reverse
  (h.zip ((shaK.zip w).foldl shaRound h)).map fun x => x.1 + x.2

/-- SHA-256. -/
def sha256 (m : List Byte) : List Byte :=
  let p := shaPad m
  ((chunksOf 64 p.length p).foldl shaBlock shaH).flatMap fun w => (bytesLE w.toNat 4).reverse

/-! ### AES-256 -/

/-- Twice an element of AES's field, and a product. -/
def aesTwice (a : Byte) : Byte := (a <<< 1) ^^^ (if a.getLsbD 7 then 0x1B else 0)
def aesMul (a b : Byte) : Byte :=
  ((List.range 8).foldl (fun (x : Byte × Byte) i => (if b.getLsbD i then x.1 ^^^ x.2 else x.1, aesTwice x.2)) (0, a)).1

/-- The S-box: the inverse a ^ 254, then the affine map. -/
def aesSub (a : Byte) : Byte :=
  let r := ((List.range 6).foldl (fun (x : Byte) _ => aesMul (aesMul x x) a) a)
  let i := aesMul r r
  i ^^^ i.rotateLeft 1 ^^^ i.rotateLeft 2 ^^^ i.rotateLeft 3 ^^^ i.rotateLeft 4 ^^^ 0x63
def aesBox : Array Byte := ((List.range 256).map fun i => aesSub (BitVec.ofNat 8 i)).toArray
def subByte (a : Byte) : Byte := aesBox.getD a.toNat 0

def xorBytes (a b : List Byte) : List Byte := (a.zip b).map fun x => x.1 ^^^ x.2

/-- The key schedule of a 32-byte key, latest word first: words of index 8 to 59. -/
def aesExpand : Nat → Nat → List (List Byte) → List (List Byte)
  | 0, _, w => w
  | k + 1, i, w =>
    let t := w.getD 0 []
    let t :=
      if i % 8 = 0 then
        match (t.drop 1 ++ t.take 1).map subByte with
        | b :: bs => (b ^^^ (List.range (i / 8 - 1)).foldl (fun x _ => aesTwice x) 1) :: bs
        | [] => []
      else if i % 8 = 4 then t.map subByte else t
    aesExpand k (i + 1) (xorBytes (w.getD 7 []) t :: w)

/-- The fifteen round keys. -/
def aesKeys (key : List Byte) : List (List Byte) :=
  let w := (aesExpand 52 8 (chunksOf 4 8 key).reverse).reverse
  (chunksOf 4 15 w).map List.flatten

/-- ShiftRows and MixColumns on the sixteen bytes, column by column. -/
def shiftRows (b : List Byte) : List Byte := (List.range 16).map fun i => b.getD ((i + 4 * (i % 4)) % 16) 0
def mixColumn (c : List Byte) : List Byte :=
  (List.range 4).map fun i =>
    let g (j : Nat) : Byte := c.getD ((i + j) % 4) 0
    aesTwice (g 0) ^^^ aesTwice (g 1) ^^^ g 1 ^^^ g 2 ^^^ g 3

/-- The cipher on one block with its round keys. -/
def aesBlock (ks : List (List Byte)) (b : List Byte) : List Byte :=
  let s := xorBytes b (ks.getD 0 [])
  let s := ((ks.drop 1).take 13).foldl (fun s k =>
    xorBytes ((chunksOf 4 4 (shiftRows (s.map subByte))).flatMap mixColumn) k) s
  xorBytes (shiftRows (s.map subByte)) (ks.getD 14 [])

/-! ### GCM -/

/-- The product in GCM's field, whose first bit is the most significant one. -/
def ghashMul (x y : BitVec 128) : BitVec 128 :=
  ((List.range 128).foldl (fun (z : BitVec 128 × BitVec 128) i =>
    (if x.getMsbD i then z.1 ^^^ z.2 else z.1, if z.2.getLsbD 0 then (z.2 >>> 1) ^^^ (0xE1#128 <<< 120) else z.2 >>> 1)) (0, y)).1

def padBlock (bs : List Byte) : List Byte := bs ++ List.replicate ((16 - bs.length % 16) % 16) 0
def blockOf128 (bs : List Byte) : BitVec 128 := BitVec.ofNat 128 (ofBytesBE bs)
def bytes128 (v : BitVec 128) : List Byte := (bytesLE v.toNat 16).reverse

/-- GHASH of the additional data and the ciphertext. -/
def ghash (h : BitVec 128) (aad text : List Byte) : BitVec 128 :=
  let len (bs : List Byte) : List Byte := (bytesLE (8 * bs.length) 8).reverse
  let bs := padBlock aad ++ padBlock text ++ len aad ++ len text
  (chunksOf 16 bs.length bs).foldl (fun y b => ghashMul (y ^^^ blockOf128 b) h) 0

/-- The counter mode from counter 2 on. -/
def gcmCtr (ks : List (List Byte)) (iv text : List Byte) : List Byte :=
  let bs := chunksOf 16 text.length text
  ((List.range bs.length).zip bs).flatMap fun x => xorBytes x.2 (aesBlock ks (iv ++ (bytesLE (x.1 + 2) 4).reverse))

/-- The tag of a ciphertext. -/
def gcmTag (ks : List (List Byte)) (iv aad text : List Byte) : List Byte :=
  let h := blockOf128 (aesBlock ks (List.replicate 16 0))
  xorBytes (bytes128 (ghash h aad text)) (aesBlock ks (iv ++ (bytesLE 1 4).reverse))

/-- AES-256-GCM encryption: key, IV of 12 bytes, additional data and plaintext give ciphertext and a 16-byte tag. -/
def gcmSeal (key iv aad text : List Byte) : List Byte × List Byte :=
  let ks := aesKeys key
  let c := gcmCtr ks iv text
  (c, gcmTag ks iv aad c)

/-- AES-256-GCM decryption: the plaintext when the tag is right. -/
def gcmOpen (key iv aad text tag : List Byte) : Option (List Byte) :=
  let ks := aesKeys key
  if gcmTag ks iv aad text = tag then some (gcmCtr ks iv text) else none

/-! ### RSASSA-PSS -/

/-- b ^ 65,537 mod n. -/
def rsaPower (b n : Nat) : Nat := (List.range 16).foldl (fun x _ => x * x % n) (b % n) * b % n

/-- MGF1 with SHA-256: n bytes. -/
def mgf1 (seed : List Byte) (n : Nat) : List Byte :=
  ((List.range ((n + 31) / 32)).flatMap fun i => sha256 (seed ++ (bytesLE i 4).reverse)).take n

/-- EMSA-PSS verification of an encoded message of `bits` bits with a salt of 32 bytes. -/
def pssGood (bits : Nat) (msg em : List Byte) : Bool :=
  let n := em.length
  let db := em.take (n - 33)
  let h := (em.drop (n - 33)).take 32
  let top := 8 * n - bits
  let clear (bs : List Byte) : List Byte := match bs with | b :: t => (b &&& (0xFF#8 >>> top)) :: t | [] => []
  let x := clear (xorBytes db (mgf1 h (n - 33)))
  decide (66 ≤ n) && em.getLast? == some 0xBC && clear db == db
    && x.take (n - 66) == List.replicate (n - 66) 0 && (x.drop (n - 66)).head? == some 1
    && sha256 (List.replicate 8 0 ++ sha256 msg ++ x.drop (n - 65)) == h

/-- RSASSA-PSS verification with a big-endian modulus of 384 bytes. -/
def pssVerify (modulus msg sig : List Byte) : Bool :=
  let n := ofBytesBE modulus
  let s := ofBytesBE sig
  let bits := Nat.log2 n
  let len := (bits + 7) / 8
  let m := rsaPower s n
  decide (2 ≤ n) && sig.length == modulus.length && decide (s < n) && decide (m < 2 ^ (8 * len))
    && pssGood bits msg (bytesLE m len).reverse

end Sys2Proof.Machine
end

