-- ==== Sys2Proof/Machine/Cipher.lean ====
section
/-!
DEFINITION. The cipher engine (R233 to R236, R369): SEAL, OPEN and YWAIT, and the chunks that a command converts.
-/

namespace Sys2Proof.Machine

/-- A key slot of a partition (R368). -/
def State.keySlot (s : State) (p k : Nat) : KeySlot := tget {} k (s.part p).trust.keys

/-- The first page of [a, a + len) that is not in the trusted region (R233): its address, or a walk to ask for. -/
def State.untrusted (s : State) (n : Nat) (a : Word) (len : Nat) (write : Bool) : Option (Except Nat Word) :=
  let c := s.ctxOf n
  let b := a.toNat
  ((List.range ((b + len - 1) / 65536 - b / 65536 + 1)).map fun i => if i = 0 then b else (b / 65536 + i) * 65536).findSome? fun x =>
    match s.aim c x with
    | .own _ | .remote .. => none
    | .global o =>
      match s.xlate (dieOf n) c.partN o write c.ctl.strict with
      | .hit (.phys _) e => if leafTR e then none else some (.ok (BitVec.ofNat 64 x))
      | .miss => some (.error o)
      | _ => some (.ok (BitVec.ofNat 64 x))
    | _ => some (.ok (BitVec.ofNat 64 x))

/-- SEAL and OPEN at issue (R215, R234, R235). Log 20 (DEDUCED). -/
def State.cipherWord (s : State) (isOpen : Bool) (sa sb : BitVec 6) (ks n : Nat) : Issue :=
  Issue.touching s [regBlock6 sa, regBlock6 sb, 3] <|
    let c := s.c
    let a := c.rd6 sa
    let t := c.rd6 sb
    match c.eng.cyFault with
    | some f => .trap { s.trapHere f.1 6 f.2 with source := .cipher }
    | none =>
      if c.eng.cipher.isSome then .wait [wSTREAM] s
      else if a.toNat % 4096 != 0 then s.raise tALIGN 6 a
      else if t.toNat % 32 != 0 then s.raise tALIGN 6 t
      else
        match s.untrusted s.cur a (4096 * (n + 1)) true, s.untrusted s.cur t (32 * (n + 1)) (!isOpen) with
        | some (.ok x), _ => s.raise tXLATE 6 x
        | _, some (.ok x) => s.raise tXLATE 6 x
        | some (.error o), _ => .wait [wXLATE] (s.askWalk (dieOf s.cur) c.partN o)
        | none, some (.error o) => .wait [wXLATE] (s.askWalk (dieOf s.cur) c.partN o)
        | none, none =>
          let k := s.keySlot c.partN ks
          let cy : Cipher := { isOpen := isOpen, region := a, tag := t, key := k.key, ks := ks, gen := k.gen, n := n
                               seq := c.eng.seq }
          .ok (s.modC fun c => { c with eng := { c.eng with cipher := some cy, seq := c.eng.seq + 1 } })

/-- YWAIT (R234). -/
def State.ywaitWord (s : State) : Issue :=
  Issue.touching s [3] <|
    if s.c.eng.cipher.isSome then .wait [wSTREAM] s
    else
      match s.c.eng.cyFault with
      | some f => .trap { s.trapHere f.1 6 f.2 with source := .cipher }
      | none => .ok s

/-- A cipher command fails (R235). -/
def State.failCipher (s : State) (n code : Nat) (a : Word) : State :=
  s.modCtx n fun c => { c with eng := { c.eng with cipher := none, cyFault := some (code, a) } }

/-- The next chunk, or the end of the command. -/
def State.cipherNext (s : State) (n : Nat) (cy : Cipher) : State :=
  s.modCtx n fun c => { c with eng := { c.eng with
    cipher := if cy.chunk < cy.n then some { cy with chunk := cy.chunk + 1, line := 0, text := [] } else none } }

/-- The invocation IV of a key slot (R369). -/
def ivOf (p ks : Nat) (count : Word) : List Byte := bytesLE p 1 ++ bytesLE ks 1 ++ bytesLE 0 2 ++ bytesLE count.toNat 8

/-- The IV counter of the key that a command holds, and the trust state in which it is one higher (R234, R369). -/
def PartTrust.takeIv (t : PartTrust) (cy : Cipher) : Word × PartTrust :=
  let k := tget {} cy.ks t.keys
  if k.key.isSome && k.gen = cy.gen then (k.iv, { t with keys := tput cy.ks { k with iv := k.iv + 1 } t.keys })
  else
    let v := tget 0 cy.gen t.olds
    (v, { t with olds := tput cy.gen (v + 1) t.olds })

/-- A place some bytes further on. -/
def Place.plus (p : Place) (k : Nat) : Place := { p with loc := p.loc.plus k }

/-- What a chunk becomes (R234): its bytes and its record where SEAL writes one, or the failure with its address; and the state
with the IV taken. -/
def State.cipherConvert (s : State) (n : Nat) (cy : Cipher) (a t : Word) (p q : Place) :
    Except (Nat × Word) (List Byte × List Byte) × State :=
  let part := (s.ctxOf n).partN
  let aad := bytesLE part 8
  let k := s.keyOf p.loc
  let hasForm (l : Nat) : Bool := p.kept && s.mem.form.contains l
  let wrong := (linesOf k 4096).find? fun l => hasForm l != cy.isOpen
  match s.mem.poisonIn k 4096, wrong, cy.key with
  | some x, _, _ => (.error (tMEMERR, a + BitVec.ofNat 64 x - BitVec.ofNat 64 k), s)
  | none, some l, _ => (.error (tFORM, a + BitVec.ofNat 64 (64 * l) - BitVec.ofNat 64 k), s)
  | none, none, none => (.error (tFORM, a), s)
  | none, none, some key =>
    let (text, _, s) := s.homeRead p.loc 4096
    if cy.isOpen then
      if s.linePoison q 32 then (.error (tMEMERR, t), s)
      else
        let (rec_, _, s) := s.homeRead q.loc 32
        match gcmOpen key (rec_.take 12) aad text (rec_.drop 16) with
        | some pt => (.ok (pt, []), s)
        | none => (.error (tFORM, a), s)
    else
      let (iv, tr) := (s.part part).trust.takeIv cy
      if 0x100000000 ≤ iv.toNat then (.error (tFORM, a), s)
      else
        let i := ivOf part cy.ks iv
        let (ct, tag) := gcmSeal key i aad text
        (.ok (ct, i ++ bytesLE 0 4 ++ tag), s.modTrust part fun _ => tr)

/-- The bytes and the record of the chunk that the engine is at: those that a stopped conversion holds, or new ones. -/
def State.cipherBytes (s : State) (n : Nat) (cy : Cipher) (a t : Word) (p q : Place) :
    Except (Nat × Word) (List Byte × List Byte) × State :=
  if cy.line = 0 then s.cipherConvert n cy a t p q else (.ok (cy.text.take 4096, cy.text.drop 4096), s)

/-- One chunk at reached places (R234), from the line that it stopped at. -/
def State.cipherChunk (s : State) (n : Nat) (cy : Cipher) (a t : Word) (p q : Place) : State :=
  match s.cipherBytes n cy a t p q with
  | (.error f, s) => s.failCipher n f.1 f.2
  | (.ok (bytes, rec_), s) =>
    let s := s.putLine n (p.plus (64 * cy.line)) (bytes.drop (64 * cy.line)) !cy.isOpen
    (if cy.isOpen then s else s.putLine n q rec_ false).cipherNext n cy

/-- The lines of a chunk up to the end of the current one, where a capture stops the engine (R234, R342): which line that is,
is a free choice. Log 21 (DESIGN CHOICE). -/
def State.cipherLines (s : State) (n : Nat) (cy : Cipher) (a t : Word) (p q : Place) : State :=
  let (k, s) := s.choose (64 - cy.line)
  let upto := cy.line + k
  if k = 0 then s
  else
    match s.cipherBytes n cy a t p q with
    | (.error _, s) => s
    | (.ok (bytes, rec_), s) =>
      let s := s.putLine n (p.plus (64 * cy.line)) ((bytes.take (64 * upto)).drop (64 * cy.line)) !cy.isOpen
      s.modCtx n fun c => { c with eng := { c.eng with cipher := some { cy with line := upto, text := bytes ++ rec_ } } }

/-- Whether the cipher engine of a spindle runs: not while its context is captured (R234). -/
def State.cipherGoes (s : State) (n : Nat) : Bool := match (s.sp n).run with | .running | .held _ => true | _ => false

/-- What the cipher engine does with the chunk that it is at, once its bytes are reached and no SBAR keeps them (R228). -/
def State.cipherAt (s : State) (n : Nat) (f : Cipher → Word → Word → Place → Place → State → State) : State :=
  match (s.ctxOf n).eng.cipher with
  | none => s
  | some cy =>
    let a := cy.region + BitVec.ofNat 64 (4096 * cy.chunk)
    let t := cy.tag + BitVec.ofNat 64 (32 * cy.chunk)
    let mask := s.classAt (s.ctxOf n) a false ||| s.classAt (s.ctxOf n) a true
      ||| s.classAt (s.ctxOf n) t (!cy.isOpen)
    if !s.cipherGoes n || s.barred n cy.seq mask then s
    else if !(s.missingOf n [3]).isEmpty then s.askBlocks n [3]
    else
      match s.lineReach n a 4096 true, s.lineReach n t 32 (!cy.isOpen) with
      | .bad code, _ => s.failCipher n code a
      | .wait s, _ => s
      | .at_ _, .bad code => s.failCipher n code t
      | .at_ _, .wait s => s
      | .at_ p, .at_ q => f cy a t p q s

/-- The cipher engine converts a chunk, finishes or fails. Log 21 (DESIGN CHOICE). -/
def State.cipherStep (s : State) (n : Nat) : State := s.cipherAt n fun cy a t p q s => s.cipherChunk n cy a t p q

/-- A capture finds the engine in the middle of a chunk (R234, R342). -/
def State.cipherCut (s : State) (n : Nat) : State := s.cipherAt n fun cy a t p q s => s.cipherLines n cy a t p q

/-- SEAL (R234). -/
def issueSeal (sa : BitVec 6) (sb : BitVec 6) (ks : BitVec 8) (n : BitVec 6) (s : State) : Issue :=
  s.cipherWord false sa sb ks.toNat n.toNat

def execSeal (sa : BitVec 6) (sb : BitVec 6) (ks : BitVec 8) (n : BitVec 6) (s : State) : Host.Outcome State Fault Refusal :=
  commit 6 s (issueSeal sa sb ks n s)

/-- OPEN (R234). -/
def issueOpenCt (sa : BitVec 6) (sb : BitVec 6) (ks : BitVec 8) (n : BitVec 6) (s : State) : Issue :=
  s.cipherWord true sa sb ks.toNat n.toNat

def execOpenCt (sa : BitVec 6) (sb : BitVec 6) (ks : BitVec 8) (n : BitVec 6) (s : State) : Host.Outcome State Fault Refusal :=
  commit 6 s (issueOpenCt sa sb ks n s)

/-- YWAIT (R234). -/
def issueYwait (s : State) : Issue :=
  s.ywaitWord

def execYwait (s : State) : Host.Outcome State Fault Refusal :=
  commit 6 s (issueYwait s)

/-- The cipher engine converts a chunk, finishes or fails a command (R234, R235). -/
def execCipherCommandComplete (n : Nat) (s : State) : Host.Outcome State Fault Refusal := .next (s.cipherStep n)

end Sys2Proof.Machine
end

