-- ==== Sys2Proof/Machine/Sync.lean ====
section
/-!
DEFINITION. Fences, barriers, supersteps, gate words and scheduler transactions as a task issues them (R36 to R46, R133,
R263, R264, R283 to R289, R301 to R303, R338), and the barrier unit (R285 to R287). A wait of BARRW, SSTEP, TJOIN.W,
TLAUNCH, ADMIT or CUT begins once the bundle has issued in full (log 11, DEDUCED).
-/

namespace Sys2Proof.Machine

/-! ### FENCE -/

/-- FENCE (R133, R263): SYS executes as PART and sets SCLAMP. -/
def State.fenceWord (s : State) (scope : BitVec 3) (g : BitVec 4) (w : Word) : Issue :=
  s.guarded g [] (s.fenced (min scope.toNat 4) (.go (if scope.toNat = 5 then fSCLAMP else 0) w false s))

/-! ### The barrier unit -/

def State.barrier (s : State) (p n : Nat) : Barrier := (s.part p).bars[n % 64]'(Nat.mod_lt _ (by decide))
def State.modBarrier (s : State) (p n : Nat) (f : Barrier → Barrier) : State :=
  s.modPart p fun x => { x with bars := x.bars.set (n % 64) (f (x.bars[n % 64]'(Nat.mod_lt _ (by decide)))) (Nat.mod_lt _ (by decide)) }

/-- Whether every phase before w has completed (R286). -/
def Barrier.reached (b : Barrier) (w : BitVec 32) : Bool := decide ((b.phase - w).toNat < 2 ^ 31)

/-- The domain and the domain cycle at which a full phase completes, when its arrivals all came from one timed domain: 24
cycles after the last of them (R287). -/
def Barrier.completesAt (b : Barrier) : Option (Nat × Nat) :=
  match b.doms with
  | [] => none
  | d :: t => if d.1 != 0 && t.all fun e => e.1 == d.1 then some (d.1, t.foldl (fun m e => max m e.2) d.2 + 24) else none

/-- The completion of a full phase (R285): its clocks are those that a completed wait acquires (R265). -/
def Barrier.complete (b : Barrier) : Barrier :=
  { b with phase := b.phase + 1, arrived := 0, held := [], doms := [], due := none
           clock := clockMax b.clock b.newClock, newClock := [] }

/-- A strict BARRW of another domain meets an arrival from outside it (R294): OVERRUN at the BARRW. Log 18 (DEDUCED). -/
def State.lateArrival (s : State) (p n : Nat) (ph : BitVec 32) (gid : Nat) : State :=
  (s.spindles.map Prod.fst).foldl (fun s k =>
    let c := s.ctxOf k
    match c.barw with
    | .idling b w =>
      if c.ctl.strict && c.partN == p && b == n && c.gang != gid && decide ((w - ph - 1).toNat < 2 ^ 31) then
        s.modCtx k fun c => { c with
          barw := .idle
          notices := c.notices ++ [{ code := tOVERRUN, slot := 0, val := ph.setWidth 64
                                     epc := some (c.bun.start.setWidth 16), at_ := s.gcyc }] }
      else s
    | _ => s) s

/-- Whether a barrier operation comes from a spindle of a timed domain: a query names the gang of one. -/
def MsgOp.fromDomain : MsgOp → Bool
  | .barrier _ _ _ gid _ => gid != 0
  | .query _ gid => gid != 0
  | _ => false

/-- An arrival at the barrier unit (R285), and the held arrivals that a completed phase counts. -/
def State.arrive (s : State) (id : Nat) : Nat → State
  | 0 => s
  | fuel + 1 =>
    match s.msg id with
    | none => s
    | some m =>
      match m.op with
      | .query n _ =>
        let b := s.barrier m.part n
        s.answer id (BitVec.ofNat 64 (b.arrived.toNat * 2 ^ 48 + b.e.toNat * 2 ^ 32 + b.phase.toNat)) 0 [] 0 []
      | .barrier n w gang gid cyc =>
        let b := s.barrier m.part n
        let ph : BitVec 32 := w.setWidth 32
        let e0 := bitsOf w.toNat 32 9
        let e := if e0 = 0 then gang else e0
        if bitsOf w.toNat 41 7 != 0 || bitsOf w.toNat 57 7 != 0 || decide (320 < e) then s.refuse id tBOVER
        else if ph = b.phase + 1 then
          (s.modBarrier m.part n fun b => { b with held := b.held ++ [id] }).modMsg id fun m => { m with st := .waiting s.gcyc }
        else if ph != b.phase || b.due.isSome || (b.arrived != 0 && b.e.toNat != e) then s.refuse id tBOVER
        else
          let v := b.arrived.toNat * 2 ^ 48 + e * 2 ^ 32 + (ph + 1).toNat
          let b1 := { b with e := BitVec.ofNat 9 e, arrived := b.arrived + 1, doms := b.doms ++ [(gid, cyc)]
                             newClock := clockMax b.newClock m.clock }
          let full := b1.arrived == b1.e
          let s := (s.lateArrival m.part n ph gid).answer id (BitVec.ofNat 64 v) 0 [] 0 []
          if full && b1.completesAt.isNone then
            b1.held.foldl (fun s k => s.arrive k fuel) (s.modBarrier m.part n fun _ => b1.complete)
          else s.modBarrier m.part n fun _ => { b1 with due := if full then b1.completesAt else none }
      | _ => s

/-- The arrivals that may follow one another in one count. -/
def State.arriveAll (s : State) (id : Nat) : State := s.arrive id 400

/-- An arrival or a query reaches the barrier unit (R285); what it answers a spindle of a timed domain comes at once: it lands at
its latency (R287). -/
def State.barrierArrives (s : State) (id : Nat) : State :=
  match s.msg id with
  | some m =>
    let s := s.arriveAll id
    if m.op.fromDomain then (let s := s.deliver id; if m.waits then s.deliverFailure id else s) else s
  | none => s

/-- A phase of one domain's arrivals completes, and what is held for the next one is counted (R285, R287). -/
def State.phaseEnds (s : State) (p n : Nat) : State :=
  let b := s.barrier p n
  b.held.foldl (fun s k => s.arriveAll k) (s.modBarrier p n Barrier.complete)

/-- The phases that complete in a cycle of a timed domain (R287). -/
def State.barrierTick (s : State) (p gid cyc : Nat) : State :=
  (List.range 64).foldl (fun s n => match (s.barrier p n).due with
    | some d => if d.1 == gid && decide (d.2 ≤ cyc) then s.phaseEnds p n else s
    | none => s) s

/-! ### Barrier words -/

/-- How far the arrivals of this count have come at a barrier, by PSN (R285): the key of `served`. -/
def barrierKey (p n : Nat) : Nat := 2 ^ 90 + 64 * p + n

/-- The barrier that an operation names. -/
def MsgOp.bar : MsgOp → Nat
  | .barrier n .. | .query n _ => n
  | _ => 0

/-- The result of a barrier word, which has no declared bound (R294); `never` says that it is never late (R287). -/
def State.awaitBarrier (s : State) (id lat : Nat) (never : Bool) : State :=
  let e : Pending := { left := lat, await := some id, late := never }
  s.modC fun c => if c.ctl.hmode then { c with hpipe := c.hpipe ++ [e] } else { c with pipe := c.pipe ++ [e] }

/-- BARRA and BARRA.Q (R284, R285, R287). In a timed domain the arrival is counted in the count of its issue, and its reply or
failure lands after 12 cycles, in a handler of the domain too; that of an arrival held for a later phase lands no earlier than
the arrival is counted, and freezes nothing. Log 25 (DEDUCED). -/
def State.barraWord (s : State) (rd : BitVec 5) (op : MsgOp) (w : Word) : Issue :=
  let dom := s.c.domain
  let waits := rd != 0
  let (id, s) := s.send (.phys 0) op (if rd = 0 then .none else .x rd) waits s.nextId w 0
  .ok (if waits then s.awaitBarrier id (if dom then 12 else 6) dom else s)

/-- The gang of a context in a timed domain, else 0. -/
def Ctx.domGang (c : Ctx) : Nat := if c.domain then c.gang else 0

/-- BARRA (R285): its release half, then the arrival. -/
def State.barra (s : State) (rd ra : BitVec 5) (bar : BitVec 6) (g : BitVec 4) (w : Word) : Issue :=
  s.guarded g [0] <|
    let c := s.c
    if !c.sync then s.raise tILLEGAL 0 w
    else
      s.releasing true (s.barraWord rd (.barrier bar.toNat (c.regs.rx ra) c.gangSize c.domGang c.domCycle) (c.regs.rx ra))

/-- BARRA.Q (R285): no arrival. -/
def State.barraQuery (s : State) (rd : BitVec 5) (bar : BitVec 6) (g : BitVec 4) (w : Word) : Issue :=
  s.guarded g [0] (if !s.c.sync then s.raise tILLEGAL 0 w else s.barraWord rd (.query bar.toNat s.c.domGang) 0)

/-- BARRW (R286, R287, R293). A wait ends once what its phases release is applied on the die (R265). -/
def State.barrw (s : State) (ra : BitVec 5) (bar : BitVec 6) (g : BitVec 4) (word : Word) : Issue :=
  s.guarded g [0] <|
    let c := s.c
    let w : BitVec 32 := (c.regs.rx ra).setWidth 32
    let b := s.barrier c.partN bar.toNat
    if !c.sync then s.raise tILLEGAL 0 word
    else if c.domain && !c.ctl.hmode then
      if b.reached w && s.mayAcquire s.cur b.clock then .ok (s.mergeClock (dieOf s.cur) b.clock)
      else .ok (s.modC fun c => { c with barw := .idling bar.toNat w })
    else if b.reached w && s.mayAcquire s.cur b.clock then .ok (s.mergeClock (dieOf s.cur) b.clock)
    else .ok (s.modC fun c => { c with barw := .frozen bar.toNat w })

/-- The notice of a completed phase ends the wait of a BARRW (R287). -/
def State.barrierNotice (s : State) (n : Nat) : State :=
  let c := s.ctxOf n
  match c.barw with
  | .frozen b w =>
    let o := s.barrier c.partN b
    if o.reached w && s.mayAcquire n o.clock then (s.modCtx n fun c => { c with barw := .idle }).mergeClock (dieOf n) o.clock
    else s
  | _ => s

/-! ### Supersteps -/

/-- SSTEP (R288). -/
def State.sstepWord (s : State) (rd : BitVec 5) (g : BitVec 4) (w : Word) : Issue :=
  s.guarded g [0] <|
    if !s.c.sync then s.raise tILLEGAL 0 w
    else .ok (s.modC fun c =>
      { c with step := .waiting c.domCycle rd, stepH := c.ctl.hmode, stepClock := s.clockOf (dieOf s.cur) })

/-- The spindles on which the tasks of a placed gang run. -/
def State.gangOn (s : State) (gid : Nat) : List Nat :=
  (s.spindles.filter fun x => x.2.run != .empty && x.2.ctx.gang == gid).map Prod.fst

/-- Whether the accesses of a context that a step orders are applied, and in a domain acknowledged (R289). -/
def State.stepApplied (s : State) (c : Ctx) : Bool :=
  c.domOps.isEmpty && !s.msgs.any fun m => m.ctx == c.id && (c.domain || m.isGoing) &&
    match m.op with
    | .load .. | .store _ | .atomic _ => true
    | _ => false

/-- The contexts of a gang that have neither retired nor been killed: on their spindles, suspended, or in images. -/
def State.gangCtxs (s : State) (p gid : Nat) : List Ctx :=
  let d := (s.part p).sched
  ((s.gangOn gid).map s.ctxOf) ++ ((d.susp.filter fun u => u.sp.ctx.gang == gid).map fun u => u.sp.ctx)
    ++ ((d.images.filter fun i => i.2.ctx.gang == gid && i.2.state != 2).map fun i => i.2.ctx)

/-- The placed units of a gang. -/
def State.placedGang (s : State) (p gid : Nat) : List Placed := (s.part p).sched.placed.filter fun x => x.gid == gid

/-- Whether tasks of a gang have still to take their spindles: they wait behind an earlier job, or for their images. -/
def State.gangWaits (s : State) (p gid : Nat) : Bool :=
  let d := (s.part p).sched
  d.queue.any (fun q => q.2 == gid) || d.ready.any (fun w => w.gid == gid) || d.resting.any (fun w => w.gid == gid)

/-- Whether a gang step completes (R289): every task that is left waits in it, their accesses are applied, and what they
release is applied on the other dies of the gang (R265); in a timed domain 24 cycles after the last arrival. -/
def State.stepReady (s : State) (p gid : Nat) : Bool :=
  let ns := s.gangOn gid
  let cs := s.gangCtxs p gid
  !ns.isEmpty && !(s.gangWaits p gid)
    && (cs.all fun c =>
      (match c.step with
        | .waiting t _ => !c.domain || (ns.length == cs.length && decide (t + 24 ≤ c.domCycle))
        | .idle => false) && s.stepApplied c)
    && ns.all fun n => ns.all fun m =>
      -- what a member reads from its own die is ordered there already
      dieOf m == dieOf n || s.mayAcquire n (s.ctxOf m).stepClock

/-- A task that waits in a step gets the count of steps and goes on (R288). -/
def Ctx.stepEnd (c : Ctx) : Ctx :=
  let k := c.steps + 1
  match c.step with
  | .waiting _ rd => { c with regs := c.regs.wx rd (BitVec.ofNat 64 (k % 2 ^ 32)), step := .idle, stepH := false, steps := k }
  | .idle => { c with steps := k }

/-- Every waiting task of a gang goes on, wherever its context is, and its die acquires what the gang releases (R265, R289). -/
def State.stepFinish (s : State) (p gid : Nat) : State :=
  let t := (s.gangCtxs p gid).foldl (fun t c => clockMax t c.stepClock) []
  let s := (s.gangOn gid).foldl (fun s n => (s.modCtx n Ctx.stepEnd).mergeClock (dieOf n) t) s
  let away (c : Ctx) : Ctx := if c.gang == gid then { c.stepEnd with clock := clockMax c.clock t } else c
  s.modSched p fun d => { d with
    susp := d.susp.map fun u => { u with sp := { u.sp with ctx := away u.sp.ctx } }
    images := d.images.map fun i => (i.1, { i.2 with ctx := away i.2.ctx }) }

/-- A step completes (R289). -/
def State.stepCompletes (s : State) (p handle node : Nat) : State :=
  match (s.part p).sched.placed.find? fun x => x.work.handle == handle && x.work.node == node with
  | none => s
  | some x => if s.stepReady p x.gid then s.stepFinish p x.gid else s

/-! ### Gate words (R301 to R303) -/

/-- A binding of a partition (R300). -/
def State.binding (s : State) (p b : Nat) : Word := (s.part p).cfg.binds[b % 256]'(Nat.mod_lt _ (by decide))
def bindGate (e : Word) : Nat := bitsOf e.toNat 0 12
def bindMod (e : Word) : Nat := bitsOf e.toNat 12 6
def bindV (e : Word) : Bool := bitOf e.toNat 18
def bindLim (e : Word) : Nat := bitsOf e.toNat 32 32

/-- GSIG (op 0), GWAIT (op 1) and GPOLL (op 2). -/
def State.gateWord (s : State) (op : Nat) (rd ra : BitVec 5) (b : BitVec 8) (g : BitVec 4) (w : Word) : Issue :=
  s.guarded g [0] <|
    let c := s.c
    let e := s.binding c.partN b.toNat
    let lim := bindLim e
    if !bindV e then s.raise tGATE 0 (b.setWidth 64)
    else if c.ctl.strict && (bindMod e != s.pf.modid.toNat || (op == 1 && (lim == 0 || decide (65535 < lim)))) then
      s.raise tILLEGAL 0 w
    else
      -- the release half of GSIG has no declared bound (R294)
      s.releasingBy [wORDER, wUNBOUND] (op == 0) <|
        let waits := rd != 0 || op == 1
        let (id, s) := s.send (.phys 0) (.gate op (c.regs.rx ra) b.toNat lim false) (if rd = 0 then .none else .x rd) waits
          s.nextId (b.setWidth 64) 0
        .ok (if waits then s.await id 6 (if op = 1 then 400 + lim else 400) else s)

/-! ### Scheduler transactions -/

/-- Queues a transaction of the current context (R46). -/
def State.queueTx (s : State) (k : TxKind) : State :=
  s.modSched s.c.partN fun d => { d with txq := d.txq ++ [{ ctx := s.c.id, kind := k, clock := s.clockOf (dieOf s.cur) }] }

/-- A transaction that the task waits for (R37, R40, R42, R338). -/
def State.txWord (s : State) (rd : BitVec 5) (k : TxKind) (w : Word) : Issue :=
  if s.c.ctl.strict then s.raise tILLEGAL 0 w
  else .ok ((s.queueTx k).modC fun c => { c with tx := .waiting rd })

/-- TLAUNCH (R37): FencePart, then the transaction. -/
def State.launchWord (s : State) (rd ra : BitVec 5) (w : Word) : Issue :=
  if s.c.ctl.strict then s.raise tILLEGAL 0 w else s.fenced 4 (s.txWord rd (.launch (s.c.regs.rx ra)) w)

/-- The poll of TJOIN (R40): a reply of latency 6. -/
def State.pollWord (s : State) (rd ra : BitVec 5) : Issue :=
  let h := s.c.regs.rx ra
  let (id, s) := s.send (.phys 0) (.join h.toNat) (if rd = 0 then .none else .x rd) true s.nextId h 0
  .ok ((s.queueTx (.poll h id)).await id 6 400)


/-- TLAUNCH (R36, R37). -/
def issueTlaunch (rd : BitVec 5) (ra : BitVec 5) (g : BitVec 4) (s : State) : Issue :=
  s.guarded g [0] (s.launchWord rd ra (wordOf (.tlaunch rd ra g)))

def execTlaunch (rd : BitVec 5) (ra : BitVec 5) (g : BitVec 4) (s : State) : Host.Outcome State Fault Refusal :=
  commit 0 s (issueTlaunch rd ra g s)

/-- TJOIN, the poll (R40). -/
def issueTjoin (rd : BitVec 5) (ra : BitVec 5) (g : BitVec 4) (s : State) : Issue :=
  s.guarded g [0] (s.pollWord rd ra)

def execTjoin (rd : BitVec 5) (ra : BitVec 5) (g : BitVec 4) (s : State) : Host.Outcome State Fault Refusal :=
  commit 0 s (issueTjoin rd ra g s)

/-- TJOIN.W (R40). -/
def issueTjoinW (rd : BitVec 5) (ra : BitVec 5) (g : BitVec 4) (s : State) : Issue :=
  s.guarded g [0] (s.txWord rd (.join (s.c.regs.rx ra)) (wordOf (.tjoinW rd ra g)))

def execTjoinW (rd : BitVec 5) (ra : BitVec 5) (g : BitVec 4) (s : State) : Host.Outcome State Fault Refusal :=
  commit 0 s (issueTjoinW rd ra g s)

/-- ADMIT (R42). -/
def issueAdmitC (rd : BitVec 5) (ra : BitVec 5) (g : BitVec 4) (s : State) : Issue :=
  s.guarded g [0] (s.txWord rd (.admitC (s.c.regs.rx ra)) (wordOf (.admitC rd ra g)))

def execAdmitC (rd : BitVec 5) (ra : BitVec 5) (g : BitVec 4) (s : State) : Host.Outcome State Fault Refusal :=
  commit 0 s (issueAdmitC rd ra g s)

/-- ADMIT.X (R45). -/
def issueAdmitX (rd : BitVec 5) (ra : BitVec 5) (g : BitVec 4) (s : State) : Issue :=
  s.guarded g [0] (s.txWord rd (.withdraw (s.c.regs.rx ra)) (wordOf (.admitX rd ra g)))

def execAdmitX (rd : BitVec 5) (ra : BitVec 5) (g : BitVec 4) (s : State) : Host.Outcome State Fault Refusal :=
  commit 0 s (issueAdmitX rd ra g s)

/-- CUT (R338); PRIV is a decode check. -/
def issueCut (rd : BitVec 5) (ra : BitVec 5) (g : BitVec 4) (s : State) : Issue :=
  s.guarded g [0] (s.txWord rd (.cut (s.c.regs.rx ra)) (wordOf (.cut rd ra g)))

def execCut (rd : BitVec 5) (ra : BitVec 5) (g : BitVec 4) (s : State) : Host.Outcome State Fault Refusal :=
  commit 0 s (issueCut rd ra g s)

/-- GSIG (R301, R302). -/
def issueGsig (rd : BitVec 5) (ra : BitVec 5) (bnd : BitVec 8) (g : BitVec 4) (s : State) : Issue :=
  s.gateWord 0 rd ra bnd g (wordOf (.gsig rd ra bnd g))

def execGsig (rd : BitVec 5) (ra : BitVec 5) (bnd : BitVec 8) (g : BitVec 4) (s : State) : Host.Outcome State Fault Refusal :=
  commit 0 s (issueGsig rd ra bnd g s)

/-- GWAIT (R301, R302). -/
def issueGwait (rd : BitVec 5) (ra : BitVec 5) (bnd : BitVec 8) (g : BitVec 4) (s : State) : Issue :=
  s.gateWord 1 rd ra bnd g (wordOf (.gwait rd ra bnd g))

def execGwait (rd : BitVec 5) (ra : BitVec 5) (bnd : BitVec 8) (g : BitVec 4) (s : State) : Host.Outcome State Fault Refusal :=
  commit 0 s (issueGwait rd ra bnd g s)

/-- GPOLL (R301, R302). -/
def issueGpoll (rd : BitVec 5) (ra : BitVec 5) (bnd : BitVec 8) (g : BitVec 4) (s : State) : Issue :=
  s.gateWord 2 rd ra bnd g (wordOf (.gpoll rd ra bnd g))

def execGpoll (rd : BitVec 5) (ra : BitVec 5) (bnd : BitVec 8) (g : BitVec 4) (s : State) : Host.Outcome State Fault Refusal :=
  commit 0 s (issueGpoll rd ra bnd g s)

/-- BARRA (R284, R285). -/
def issueBarra (rd : BitVec 5) (ra : BitVec 5) (bar : BitVec 6) (g : BitVec 4) (s : State) : Issue :=
  s.barra rd ra bar g (wordOf (.barra rd ra bar g))

def execBarra (rd : BitVec 5) (ra : BitVec 5) (bar : BitVec 6) (g : BitVec 4) (s : State) : Host.Outcome State Fault Refusal :=
  commit 0 s (issueBarra rd ra bar g s)

/-- BARRA.Q (R285). -/
def issueBarraQ (rd : BitVec 5) (bar : BitVec 6) (g : BitVec 4) (s : State) : Issue :=
  s.barraQuery rd bar g (wordOf (.barraQ rd bar g))

def execBarraQ (rd : BitVec 5) (bar : BitVec 6) (g : BitVec 4) (s : State) : Host.Outcome State Fault Refusal :=
  commit 0 s (issueBarraQ rd bar g s)

/-- BARRW (R286). -/
def issueBarrw (ra : BitVec 5) (bar : BitVec 6) (g : BitVec 4) (s : State) : Issue :=
  s.barrw ra bar g (wordOf (.barrw ra bar g))

def execBarrw (ra : BitVec 5) (bar : BitVec 6) (g : BitVec 4) (s : State) : Host.Outcome State Fault Refusal :=
  commit 0 s (issueBarrw ra bar g s)

/-- SSTEP (R288). -/
def issueSstep (rd : BitVec 5) (g : BitVec 4) (s : State) : Issue :=
  s.sstepWord rd g (wordOf (.sstep rd g))

def execSstep (rd : BitVec 5) (g : BitVec 4) (s : State) : Host.Outcome State Fault Refusal :=
  commit 0 s (issueSstep rd g s)

/-- FENCE (R133). -/
def issueFence (scope : BitVec 3) (g : BitVec 4) (s : State) : Issue :=
  s.fenceWord scope g (wordOf (.fence scope g))

def execFence (scope : BitVec 3) (g : BitVec 4) (s : State) : Host.Outcome State Fault Refusal :=
  commit 0 s (issueFence scope g s)

/-- An arrival or a query reaches the barrier unit (R285). -/
def execBarrierArrival (id : Nat) (s : State) : Host.Outcome State Fault Refusal := .next (s.barrierArrives id)

/-- The completion of a phase reaches a waiting BARRW (R287). -/
def execBarrierCompletionNotice (n : Nat) (s : State) : Host.Outcome State Fault Refusal := .next (s.barrierNotice n)

/-- A gang step completes (R289). -/
def execStepCompletion (part : Nat) (handle : Nat) (node : Nat) (s : State) : Host.Outcome State Fault Refusal := .next (s.stepCompletes part handle node)

end Sys2Proof.Machine
end

