-- ==== Sys2Proof/Machine/Home.lean ====
section
/-!
DEFINITION. What happens at the homes of accesses (R191, R257 to R260, R267, R278, R280), the fixed-time accesses of a
timed domain (R291, R292), and translation units (R328, R329, R332).
-/

namespace Sys2Proof.Machine

/-! ### Accesses at their homes -/

/-- What a located access finds at its home. -/
inductive AtHome where
  | go (l : Loc)
  | wait (s : State)
  | fail (code : Nat)
  | away

/-- Whether bytes of a slice can be reached from outside it: absent blocks are pulled (R347), holds are waited for (R194,
R249), and a write waits for a locked tile (R252). Log 45 (DESIGN CHOICE). -/
def State.sliceHome (s : State) (m off len : Nat) (write : Bool) : AtHome :=
  let miss := s.missingOf m (blocksOf off len)
  if !miss.isEmpty then .wait (s.askBlocks m miss)
  else if s.sliceBusy m off len write then .wait s else .go (.slice m off)

/-- The home of a message (R257, R330, R405). A host home waits for a holder of the lease (R34). -/
def State.atHome (s : State) (m : Msg) (len : Nat) (write : Bool) : AtHome :=
  match m.loc with
  | .slice n off => s.sliceHome n off len write
  | .phys pa => .go (.phys pa)
  | .host a => if s.lease.holder = 0 then .wait s else .go (.host a)
  | .far k off =>
    if k != s.pf.modid.toNat then (if Config.linked k then .away else .fail tXLATE)
    else
      match s.farPlace (s.farPart m.part k) off write with
      | some (.slice n o) => s.sliceHome n o len write
      | some l => .go l
      | none => .fail tXLATE

/-- A write of located bytes by spindle w, or at an I/O die (320), with its tag. -/
def State.homeWrite (s : State) (w : Nat) (l : Loc) (bs : List Byte) (tag : List Nat) : State :=
  let s := (s.writeLoc w l bs).noteServed w l bs.length true
  if l.outside then s else s.tagLines l bs.length tag

/-- The first fault of a read at a home: form 1 (R236) or poison (R381), with the distance of its line. -/
def State.homeFault (s : State) (l : Loc) (len : Nat) : Option (Nat × Int) :=
  if l.outside then none
  else
    match s.formOf l len, s.poisonOf l len with
    | some x, _ => some (tFORM, x)
    | none, some x => some (tMEMERR, x)
    | none, none => none

/-- A failure with the line's address for TVAL. Log 14 (DEDUCED). -/
def State.refuseAt (s : State) (id code : Nat) (d : Int) : State :=
  s.modMsg id fun m => { m with st := .failed code, val := m.val + BitVec.ofInt 64 d }

/-- The answer of another module, whose memory is not in the state: success with free bytes, or a failure (log 1, DESIGN CHOICE).
Log 24 (DESIGN CHOICE). -/
def State.awayAnswer (s : State) (id len : Nat) (sx returns : Bool) : State :=
  let (k, s) := s.choose 4
  if k = 1 then s.refuse id tXLATE
  else if returns && k = 2 then s.refuse id tFORM
  else if returns && k = 3 then s.refuse id tMEMERR
  else
    let r := s.freeBytes len
    r.2.answer id (loadValue sx (r.1.take 8)) (BitVec.ofNat 64 (ofBytesLE (r.1.drop 8))) r.1 0 []

/-- The answer of another module to an atomic (R275, R277, R280): the old value is free, the returned value and the flags follow
from it, and `vacc.ovw` has no read half that could fail. Log 24 (DESIGN CHOICE). -/
def State.awayAtomic (s : State) (id : Nat) (a : Atomic) : State :=
  let (k, s) := s.choose 4
  if k = 1 then s.refuse id tXLATE
  else if a.op != .vacc 0 && k = 2 then s.refuse id tFORM
  else if a.op != .vacc 0 && k = 3 then s.refuse id tMEMERR
  else
    let r := s.freeBytes a.size
    let u := a.update r.1
    r.2.answer id u.v u.v2 [] u.fl []

/-- A read arrives at its home (R191, R257, R260). -/
def State.readAtHome (s : State) (id : Nat) : State :=
  match s.msg id with
  | none => s
  | some m =>
    match m.op with
    | .load op len =>
      if !m.isGoing || s.blockedByOrder m then s
      else
        match s.atHome m len false with
        | .wait s => s
        | .fail code => s.refuse id code
        | .away => s.awayAnswer id len (op == 0) true
        | .go l =>
          match s.homeFault l len with
          | some f => s.refuseAt id f.1 f.2
          | none =>
            let (bs, t, s) := (s.noteServed m.spin l len false).homeRead l len
            s.answer id (if op = 2 then 0 else loadValue (op == 0) bs) 0 bs 0 t
    | _ => s

/-- A write arrives at its home and is acknowledged (R257, R260). -/
def State.writeAtHome (s : State) (id : Nat) : State :=
  match s.msg id with
  | none => s
  | some m =>
    match m.op with
    | .store bs =>
      if !m.isGoing || s.blockedByOrder m then s
      else
        match s.atHome m bs.length true with
        | .wait s => s
        | .fail code => s.refuse id code
        | .away => (let (k, s) := s.choose 2; if k = 0 then s.answer id 0 0 [] 0 [] else s.refuse id tXLATE)
        | .go l => (s.homeWrite m.spin l bs m.clock).answer id 0 0 [] 0 []
    | _ => s

/-- An atomic at a location: its returned values and flags, or its failure. -/
def State.doAtomic (s : State) (w : Nat) (a : Atomic) (l : Loc) (tag : List Nat) : State × Except (Nat × Int) (Upd × List Nat) :=
  match (if a.op = .vacc 0 then none else s.homeFault l a.size) with
  | some f => (s, .error f)
  | none =>
    let (bs, t, s) := s.homeRead l a.size
    let u := a.update bs
    let s := match u.bytes with
      | some nb => s.homeWrite w l nb tag
      | none => s
    (s, .ok (u, if u.bytes.isSome then clockMax t tag else t))

/-- An atomic arrives at its home and is performed in one step (R278, R280). -/
def State.atomicAtHome (s : State) (id : Nat) : State :=
  match s.msg id with
  | none => s
  | some m =>
    match m.op with
    | .atomic a =>
      if !m.isGoing || s.blockedByOrder m then s
      else
        match s.atHome m a.size true with
        | .wait s => s
        | .fail code => s.refuse id code
        | .away => s.awayAtomic id a
        | .go l =>
          match s.doAtomic m.spin a l m.clock with
          | (s, .error f) => s.refuse id f.1
          | (s, .ok (u, t)) => s.answer id u.v u.v2 [] u.fl t
    | _ => s

/-- Whether a message may reach its home in this count, by the order in which a home applies the accesses of one cycle
(R259). Log 2 (DESIGN CHOICE). -/
def State.accessInOrder (s : State) (m : Msg) : Bool :=
  let may (len : Nat) (write : Bool) : Bool := match s.atHome m len write with
    | .go l => s.inOrder m.spin l len write
    | _ => true
  match m.op with
  | .load _ len => may len false
  | .store bs => may bs.length true
  | .atomic a => may a.size true
  | _ => true

/-! ### Accesses of other modules (R330) -/

/-- The kinds of atomics. -/
def atomicKinds : List AtomOp :=
  (List.range 10).map .int ++ (List.range 12).map (fun k => .fp (k / 4) (k % 4)) ++ [.cas 4, .cas 8, .cas 16]
    ++ (List.range 6).map .vacc

/-- An atomic of another module: its kind and its operands are free. Log 24 (DESIGN CHOICE). -/
def State.freeAtomic (s : State) : Atomic × State :=
  let (k, s) := s.choose atomicKinds.length
  let (sv, s) := s.freeWord
  let (sv2, s) := s.freeWord
  let (dv, s) := s.freeWord
  let (dv2, s) := s.freeWord
  let (rm, s) := s.choose 32
  let (row, s) := s.freeBytes 512
  ({ op := atomicKinds.getD k (.int 0), sv := sv, sv2 := sv2, dv := dv, dv2 := dv2, row := row, vctl := BitVec.ofNat 5 rm }, s)

/-- What an access of another module finds at an offset of a partition's CLUSTER range, in the order of a count (R194, R252, R259,
R330): it enters at an I/O die. -/
def State.farHome (s : State) (p off len : Nat) (write : Bool) : Option Loc × State :=
  match s.farPlace p off write with
  | none => (none, s)
  | some l =>
    match (match l with | .slice n o => s.sliceHome n o len write | l => .go l) with
    | .go l => if s.inOrder 320 l len write then (some l, s) else (none, s)
    | .wait s => (none, s)
    | _ => (none, s)

/-- An access of a task of another module to this module's memory (R278, R330): its kind, its address and its operands are free,
a load of a locked tile leaves what it has seen, and no clock crosses modules (R260). Log 24 (DESIGN CHOICE). -/
def State.farAccess (s : State) (p : Nat) : State :=
  let (w, s) := s.freeWord
  let place (len : Nat) : Nat := w.toNat % 2 ^ 44 / len * len
  let (k, s) := s.choose 3
  if k = 2 then
    let (a, s) := s.freeAtomic
    match s.farHome p (place a.size) a.size true with
    | (some (.slice n o), s) =>
      if 0x1000000 ≤ o then (s.doAtomic 320 a (.slice n o) (List.replicate 8 0)).1 else s
    | (_, s) => s
  else
    let (e, s) := s.choose 7
    let len := 2 ^ e
    match s.farHome p (place len) len (k == 1) with
    | (some l, s) =>
      if k = 1 then
        let (bs, s) := s.freeBytes len
        s.homeWrite 320 l bs (List.replicate 8 0)
      else ((s.noteServed 320 l len false).homeRead l len).2.2
    | (none, s) => s

/-! ### Arrivals at the issuer -/

def Msg.tag (m : Msg) : List Nat := match m.st with | .replied _ _ _ _ t => t | _ => []

/-- A reply arrives (R191); it lands after the writes that its tag covers have been applied on the die (R260). -/
def State.replyArrives (s : State) (id : Nat) : State :=
  match s.msg id with
  | some m => if m.waits && s.mayLandIn (dieOf m.spin) (s.gangOfMsg m) m.tag then s.deliver id else s
  | none => s

/-- An acknowledgement arrives (R257). -/
def State.ackArrives (s : State) (id : Nat) : State :=
  match s.msg id with
  | some m => if m.waits then s else s.deliver id
  | none => s

/-! ### Fixed-time accesses (R291, R292) -/

/-- Whether a domain access is not performed: a held bank, a group held by a routine, a write into a locked tile. `holds` are
the contexts of homes whose bundles begin a hold or a routine in this cycle (R71, R250). -/
def State.domRefused (s : State) (holds : List (Nat × Ctx)) (d : DomOp) (len : Nat) : Bool :=
  let h := match holds.find? fun x => x.1 == d.home with | some x => x.2 | none => s.ctxOf d.home
  h.bankHeld d.off len || h.groupHeld d.off len || (d.op.writes && h.tileLocked d.off len)

def DomOp.len (d : DomOp) : Nat :=
  match d.op with
  | .load _ n => n
  | .store bs => bs.length
  | .atomic a => a.size
  | _ => 0

/-- The blocks that a domain access reaching its home in this cycle misses. -/
def State.domMiss (s : State) (d : DomOp) : List Nat :=
  if 0 < d.applyIn then [] else s.missingOf d.home (blocksOf d.off d.len)

/-- A notice of a fixed-time access. -/
def domNotice (code : Nat) (val : Word) : Option Notice := some { code := code, slot := 3, val := val }

/-- A domain access is applied or sampled at its home (R292): what its result writes, or its notice. -/
def State.domApply (s : State) (holds : List (Nat × Ctx)) (n : Nat) (d : DomOp) : (List Land × Option Notice) × State :=
  let l := Loc.slice d.home d.off
  if s.domRefused holds d d.len then (([], domNotice tMBANK d.val), s)
  else
    match d.op with
    | .load op len =>
      match s.homeFault l len with
      | some f => (([], domNotice f.1 (d.val + BitVec.ofInt 64 f.2)), s)
      | none =>
        let (bs, t, s) := s.homeRead l len
        ((d.dest.lands (if op = 2 then 0 else loadValue (op == 0) bs) 0 bs, none), s.mergeClock (dieOf n) t)
    | .store bs => (([], none), s.homeWrite n l bs d.clock)
    | .atomic a =>
      match s.doAtomic n a l d.clock with
      | (s, .error f) => (([], domNotice f.1 d.val), s)
      | (s, .ok (u, t)) =>
        ((d.dest.lands u.v u.v2 [] ++ (if u.fl = 0 then [] else [.flags u.fl]), none), s.mergeClock (dieOf n) t)
    | _ => (([], none), s)

/-- What a fixed-time access gives takes its place among the results in flight. -/
def Ctx.domFill (c : Ctx) (id : Nat) (r : List Land × Option Notice) : Ctx :=
  { c with
    domOps := c.domOps.filter fun e => e.id != id
    pipe := c.pipe.map fun p =>
      if p.dom.map Prod.fst == some id then { p with lands := landsPast p.past r.1, notice := r.2 } else p }

/-- The fixed-time accesses of spindle n that satisfy a condition reach their homes. -/
def State.domReach (s : State) (holds : List (Nat × Ctx)) (f : DomOp → Bool) (n : Nat) : State :=
  ((s.ctxOf n).domOps.filter f).foldl (fun s d =>
    let r := s.domApply holds n d
    r.2.modCtx n fun c => c.domFill d.id r.1) s

/-- Whether a fixed-time access reaches its home in this domain cycle, as a write or to be sampled (R291). -/
def DomOp.writesNow (d : DomOp) : Bool := d.applyIn == 0 && d.op.writes
def DomOp.readsNow (d : DomOp) : Bool := d.applyIn == 0 && !d.op.writes

/-- The fixed-time writes of a domain that reach their homes in one cycle, in the order of the spindles' numbers (R259, R291). -/
def State.domWrites (s : State) (holds : List (Nat × Ctx)) (g : List Nat) : State :=
  g.foldl (fun s n => s.domReach holds DomOp.writesNow n) s

/-- The fixed-time loads of a domain that reach their homes in this cycle. -/
def State.domDue (s : State) (g : List Nat) : List Nat :=
  g.flatMap fun n => ((s.ctxOf n).domOps.filter DomOp.readsNow).map DomOp.id

/-- They are sampled, after every write of the cycle (R259). -/
def State.domLoads (s : State) (holds : List (Nat × Ctx)) (ids : List Nat) (g : List Nat) : State :=
  g.foldl (fun s n => s.domReach holds (fun d => ids.contains d.id) n) s

/-! ### Translation units (R328, R329, R332) -/

/-- A walk finishes, or, with none asked for, a unit drops an unpinned translation. Log 6 (DESIGN CHOICE). -/
def State.walkDone (s : State) (die p o : Nat) : State :=
  let page := o / 65536 * 65536
  match s.walks.find? fun w => w.die == die && w.part == p && w.off == page && !w.failed with
  | none => { s with held := s.held.filter fun h => h.pinned || !(h.die == die && h.part == p && decide (h.base ≤ o) && decide (o < h.base + h.size)) }
  | some w =>
    match s.walk p page with
    | some l =>
      if leafSHP l.entry then { s with walks := s.walks.map fun x => if x == w then { x with failed := true } else x }
      else
        { s with
          walks := s.walks.filter fun x => x != w
          held := s.held ++ [{ die := die, part := p, base := l.base, size := l.size, entry := l.entry, pinned := false }] }
    | none => { s with walks := s.walks.map fun x => if x == w then { x with failed := true } else x }

/-- The dies on which a partition has spindles. -/
def State.diesOf (s : State) (p : Nat) : List Nat := ((s.psns p).map dieOf).eraseDups

/-- Loads the PIN leaves of a partition into the units of its dies, 1,024 slots in each (R329). -/
def State.loadPins (s : State) (p : Nat) : State :=
  let s := { s with held := s.held.filter fun h => h.part != p }
  let pins := (s.leaves p).filter fun l => leafPIN l.entry
  let (s, full) := (s.diesOf p).foldl (fun (x : State × Bool) die =>
    let room := 1024 - x.1.held.countP fun h => h.die == die && h.pinned
    let new := (pins.take room).map fun l =>
      ({ die := die, part := p, base := l.base, size := l.size, entry := l.entry, pinned := true } : Held)
    ({ x.1 with held := x.1.held ++ new }, x.2 || decide (room < pins.length))) (s, false)
  s.modPHost p fun h => { h with
    pinned := BitVec.ofNat 16 (s.held.countP fun x => x.part == p && x.pinned)
    pinfull := full }

/-- An invalidation completes once every access translated under an old entry is applied (R332). -/
def State.invalidated (s : State) (p : Nat) : State :=
  let old := s.msgs.any fun m => s.translatedBy p m && m.isGoing && (match m.loc with | .phys _ | .host _ => true | _ => false)
    && (match m.op with | .load .. | .store _ | .atomic _ => true | _ => false)
  if !(s.part p).host.xinv || old then s
  else
    let s := { s with walks := s.walks.filter fun w => w.part != p }
    (s.loadPins p).modPHost p fun h => { h with xinv := false }

/-! ### Host accesses through BAR2 (R267) -/

/-- The translations that a host access may use: the table's, or one that a unit still holds (R332). -/
def State.hostLeaf (s : State) (p o : Nat) (write : Bool) : Option Loc × State :=
  let good (l : Leaf) : Bool := !leafSHP l.entry && (!write || leafW l.entry)
  let cands := (match s.walk p o with | some l => [some l] | none => [none]) ++
    (s.held.filter fun h => h.part == p && decide (h.base ≤ o) && decide (o < h.base + h.size)).map fun h => some ⟨h.base, h.size, h.entry⟩
  let cands := cands.eraseDups
  let (k, s) := s.choose cands.length
  match cands.getD k none with
  | some l => (if good l && (s.part p).cfg.en then some (leafLoc l.entry l.base o) else none, s)
  | none => (none, s)

/-- The locations that a host access of a partition may have at an offset. -/
def State.hostLocs (s : State) (p o : Nat) : List Loc :=
  ((s.walk p o).toList.map fun l => leafLoc l.entry l.base o) ++
    (s.held.filter fun h => h.part == p && decide (h.base ≤ o) && decide (o < h.base + h.size)).map fun h =>
      leafLoc h.entry h.base o

/-- Unsupported Request on a port. -/
def State.unsupported (s : State) (port : Nat) : State := s.emit (.unsupported port)

/-- Whether a BAR2 access of a partition is answered: inside the window and no teardown (R267, R374). -/
def State.bar2 (s : State) (p off len : Nat) : Bool :=
  decide (p < 64) && decide (0 < len) && decide (off + len ≤ 2 ^ 41) && !(s.part p).trust.scrub && s.sec.stage != 0xF && !s.errors.fatal

/-- The locations of the pages that a BAR2 access touches: offset from its start, length, location. -/
def State.hostPieces (s : State) (p off : Nat) (write : Bool) : List (Nat × Nat) → Option (List (Nat × Nat × Loc)) × State
  | [] => (some [], s)
  | (d, n) :: ps =>
    match s.hostLeaf p (off + d) write with
    | (none, s) => (none, s)
    | (some l, s) =>
      match s.hostPieces p off write ps with
      | (some r, s) => (some ((d, n, l) :: r), s)
      | (none, s) => (none, s)

/-- The pieces of a range by 64 KiB page. -/
def pagesOf (off len : Nat) : List (Nat × Nat) :=
  (rangeFrom (off / 65536) ((off + len - 1) / 65536 - off / 65536 + 1)).map fun k =>
    let a := max off (k * 65536)
    (a - off, min (off + len) ((k + 1) * 65536) - a)

/-- Whether a host access may be applied in this count, by the order of R259. -/
def State.hostInTurn (s : State) (p off len : Nat) (write : Bool) : Bool :=
  (pagesOf off len).all fun x => (s.hostLocs p (off + x.1)).all fun l => s.inOrder 320 l x.2 write

/-- A host write through BAR2 (R267): it carries no clock. -/
def State.hostWrite (s : State) (port p off : Nat) (data : List Byte) : State :=
  if !s.bar2 p off data.length then s.unsupported port
  else
    match s.hostPieces p off true (pagesOf off data.length) with
    | (none, s) => s.unsupported port
    | (some ps, s) => ps.foldl (fun s x => s.homeWrite 320 x.2.2 ((data.drop x.1).take x.2.1) (List.replicate 8 0)) s

/-- A host read through BAR2 (R267, R381): the bytes, and the numbers of its 64-byte completions that are poisoned. -/
def State.hostRead (s : State) (port p off len : Nat) : State :=
  if !s.bar2 p off len then s.unsupported port
  else
    match s.hostPieces p off false (pagesOf off len) with
    | (none, s) => s.unsupported port
    | (some ps, s) =>
      let bad := ps.flatMap fun x =>
        if x.2.2.outside then []
        else ((s.linesAt x.2.2 x.2.1).filter fun l => s.mem.poison.contains l.2).map fun l =>
          ((off + x.1 : Int) + l.1).toNat / 64 - off / 64
      let r := ps.foldl (fun (y : List Byte × State) x =>
        let b := (y.2.noteServed 320 x.2.2 x.2.1 false).homeRead x.2.2 x.2.1
        (y.1 ++ b.1, b.2.2)) ([], s)
      r.2.emit (.readData port r.1 bad)

/-- A write of XINV (R332). -/
def State.startInvalidation (s : State) (p : Nat) (val : Bool) : State :=
  if val && decide (p < 64) then s.modPHost p fun h => { h with xinv := true } else s

/-! ### The events -/

/-- R191, R278. -/
def execRemoteReplyArrival (id : Nat) (s : State) : Host.Outcome State Fault Refusal := .next (s.replyArrives id)

/-- R257. -/
def execWriteAckArrival (id : Nat) (s : State) : Host.Outcome State Fault Refusal := .next (s.ackArrives id)

/-- R280, R311. -/
def execFailureNoticeArrival (id : Nat) (s : State) : Host.Outcome State Fault Refusal := .next (s.deliverFailure id)

/-- R257. -/
def execRemoteReadAtHome (id : Nat) (s : State) : Host.Outcome State Fault Refusal := .next (s.readAtHome id)

/-- R257. -/
def execRemoteWriteAtHome (id : Nat) (s : State) : Host.Outcome State Fault Refusal := .next (s.writeAtHome id)

/-- R278. -/
def execRemoteAtomicAtHome (id : Nat) (s : State) : Host.Outcome State Fault Refusal := .next (s.atomicAtHome id)

/-- R328. -/
def execTranslationWalkComplete (die part off : Nat) (s : State) : Host.Outcome State Fault Refusal := .next (s.walkDone die part off)

/-- R332. -/
def execInvalidationComplete (part : Nat) (s : State) : Host.Outcome State Fault Refusal := .next (s.invalidated part)

/-- R332. -/
def execXinvWrite (part : Nat) (val : Bool) (s : State) : Host.Outcome State Fault Refusal := .next (s.startInvalidation part val)

/-- R267. -/
def execHostMemoryWrite (port part off : Nat) (data : List (BitVec 8)) (s : State) : Host.Outcome State Fault Refusal :=
  .next (s.hostWrite port part off data)

/-- R267. -/
def execHostMemoryRead (port part off len : Nat) (s : State) : Host.Outcome State Fault Refusal := .next (s.hostRead port part off len)

end Sys2Proof.Machine
end

