-- ==== Sys2Proof/Machine/Issues.lean ====
section
/-!
DEFINITION. The issue of each slot word by its constructor, and the registers that a word of a handler bundle reads
(R315).
-/

namespace Sys2Proof.Machine

/-- The issue of a slot word. An event is no slot word and changes nothing here. -/
def issueOf (i : Instr) (st : State) : Issue :=
  match i with
  | .nop sl => issueNop sl st
  | .emptyBundle _ _ => .ok st
  | .bankLockPrefix _ _ _ _ _ => .ok st
  | .add cl rd ra rb bk g => issueAdd cl rd ra rb bk g st
  | .sub cl rd ra rb bk g => issueSub cl rd ra rb bk g st
  | .and cl rd ra rb bk g => issueAnd cl rd ra rb bk g st
  | .or cl rd ra rb bk g => issueOr cl rd ra rb bk g st
  | .xor cl rd ra rb bk g => issueXor cl rd ra rb bk g st
  | .andn cl rd ra rb bk g => issueAndn cl rd ra rb bk g st
  | .sll cl rd ra rb bk g => issueSll cl rd ra rb bk g st
  | .srl cl rd ra rb bk g => issueSrl cl rd ra rb bk g st
  | .sra cl rd ra rb bk g => issueSra cl rd ra rb bk g st
  | .slt cl rd ra rb bk g => issueSlt cl rd ra rb bk g st
  | .sltu cl rd ra rb bk g => issueSltu cl rd ra rb bk g st
  | .min cl rd ra rb bk g => issueMin cl rd ra rb bk g st
  | .max cl rd ra rb bk g => issueMax cl rd ra rb bk g st
  | .minu cl rd ra rb bk g => issueMinu cl rd ra rb bk g st
  | .maxu cl rd ra rb bk g => issueMaxu cl rd ra rb bk g st
  | .clz cl rd ra g => issueClz cl rd ra g st
  | .popc cl rd ra g => issuePopc cl rd ra g st
  | .addw cl rd ra rb bk g => issueAddw cl rd ra rb bk g st
  | .subw cl rd ra rb bk g => issueSubw cl rd ra rb bk g st
  | .sllw cl rd ra rb bk g => issueSllw cl rd ra rb bk g st
  | .srlw cl rd ra rb bk g => issueSrlw cl rd ra rb bk g st
  | .sraw cl rd ra rb bk g => issueSraw cl rd ra rb bk g st
  | .hash cl rd ra rb bk g => issueHash cl rd ra rb bk g st
  | .mul cl rd ra rb bk g => issueMul cl rd ra rb bk g st
  | .mulh cl rd ra rb bk g => issueMulh cl rd ra rb bk g st
  | .mulhu cl rd ra rb bk g => issueMulhu cl rd ra rb bk g st
  | .mulw cl rd ra rb bk g => issueMulw cl rd ra rb bk g st
  | .div rd ra rb bk g => issueDiv rd ra rb bk g st
  | .divu rd ra rb bk g => issueDivu rd ra rb bk g st
  | .rem rd ra rb bk g => issueRem rd ra rb bk g st
  | .remu rd ra rb bk g => issueRemu rd ra rb bk g st
  | .addi cl rd ra imm g => issueAddi cl rd ra imm g st
  | .andi cl rd ra imm g => issueAndi cl rd ra imm g st
  | .ori cl rd ra imm g => issueOri cl rd ra imm g st
  | .xori cl rd ra imm g => issueXori cl rd ra imm g st
  | .slli cl rd ra sh g => issueSlli cl rd ra sh g st
  | .srli cl rd ra sh g => issueSrli cl rd ra sh g st
  | .srai cl rd ra sh g => issueSrai cl rd ra sh g st
  | .slti cl rd ra imm g => issueSlti cl rd ra imm g st
  | .limm cl rd imm => issueLimm cl rd imm st
  | .limmh cl rd imm => issueLimmh cl rd imm st
  | .fimm cl rd imm => issueFimm cl rd imm st
  | .lit cl rd num => issueLit cl rd num st
  | .litS cl rd num => issueLitS cl rd num st
  | .litD cl rd num => issueLitD cl rd num st
  | .kld cl rd idx => issueKld cl rd idx st
  | .pcmp cl pd ra rb bk cond g => issuePcmp cl pd ra rb bk cond g st
  | .pcmpi cl pd cond ra imm g => issuePcmpi cl pd cond ra imm g st
  | .pand cl pd pa pb g => issuePand cl pd pa pb g st
  | .por cl pd pa pb g => issuePor cl pd pa pb g st
  | .pxor cl pd pa pb g => issuePxor cl pd pa pb g st
  | .pandn cl pd pa pb g => issuePandn cl pd pa pb g st
  | .sel cl rd ra rb bk pk g => issueSel cl rd ra rb bk pk g st
  | .xmov cl rd ra g => issueXmov cl rd ra g st
  | .crd cl rd num => issueCrd cl rd num st
  | .cwr cl ra num => issueCwr cl ra num st
  | .acvtGen2loc cl rd ra g => issueAcvtGen2loc cl rd ra g st
  | .acvtGen2shr cl rd ra g => issueAcvtGen2shr cl rd ra g st
  | .acvtGen2clu cl rd ra g => issueAcvtGen2clu cl rd ra g st
  | .acvtLoc2gen cl rd ra g => issueAcvtLoc2gen cl rd ra g st
  | .acvtShr2gen cl rd ra g => issueAcvtShr2gen cl rd ra g st
  | .acvtClu2gen cl rd ra g => issueAcvtClu2gen cl rd ra g st
  | .atest cl pd ra ap g => issueAtest cl pd ra ap g st
  | .fadd cl rd ra rb bk dbl zi zo rm => issueFadd cl rd ra rb bk dbl zi zo rm st
  | .fsub cl rd ra rb bk dbl zi zo rm => issueFsub cl rd ra rb bk dbl zi zo rm st
  | .fmul cl rd ra rb bk dbl zi zo rm => issueFmul cl rd ra rb bk dbl zi zo rm st
  | .fmin cl rd ra rb bk dbl zi => issueFmin cl rd ra rb bk dbl zi st
  | .fmax cl rd ra rb bk dbl zi => issueFmax cl rd ra rb bk dbl zi st
  | .fabs cl rd ra dbl => issueFabs cl rd ra dbl st
  | .fneg cl rd ra dbl => issueFneg cl rd ra dbl st
  | .fcvt cl rd ra dbl zi zo rm => issueFcvt cl rd ra dbl zi zo rm st
  | .ftoi cl rd ra dbl zi rm => issueFtoi cl rd ra dbl zi rm st
  | .fito cl rd ra dbl rm => issueFito cl rd ra dbl rm st
  | .fdiv rd ra rb bk dbl zi zo rm => issueFdiv rd ra rb bk dbl zi zo rm st
  | .fsqrt rd ra dbl zi zo rm => issueFsqrt rd ra dbl zi zo rm st
  | .fma cl rd ra rb rc dbl zi zo rm => issueFma cl rd ra rb rc dbl zi zo rm st
  | .fnma cl rd ra rb rc dbl zi zo rm => issueFnma cl rd ra rb rc dbl zi zo rm st
  | .fcmp cl pd cond ra rb dbl => issueFcmp cl pd cond ra rb dbl st
  | .fclass cl rd ra dbl g => issueFclass cl rd ra dbl g st
  | .br off g => issueBr off g st
  | .jr ra off g => issueJr ra off g st
  | .call off g => issueCall off g st
  | .ret g => issueRet g st
  | .loop lc sm1 xc endOff => issueLoop lc sm1 xc endOff st
  | .loopR lc sm1 xc endOff => issueLoopR lc sm1 xc endOff st
  | .loopi lc sm1 count endOff => issueLoopi lc sm1 count endOff st
  | .loopiR lc sm1 count endOff => issueLoopiR lc sm1 count endOff st
  | .lbrk g => issueLbrk g st
  | .frame g => issueFrame g st
  | .sysc code g => issueSysc code g st
  | .brk code g => issueBrk code g st
  | .tend g => issueTend g st
  | .est ra g => issueEst ra g st
  | .rfe => issueRfe st
  | .esc code g => issueEsc code g st
  | .tlaunch rd ra g => issueTlaunch rd ra g st
  | .tjoin rd ra g => issueTjoin rd ra g st
  | .tjoinW rd ra g => issueTjoinW rd ra g st
  | .admitC rd ra g => issueAdmitC rd ra g st
  | .admitX rd ra g => issueAdmitX rd ra g st
  | .gsig rd ra bnd g => issueGsig rd ra bnd g st
  | .gwait rd ra bnd g => issueGwait rd ra bnd g st
  | .gpoll rd ra bnd g => issueGpoll rd ra bnd g st
  | .barra rd ra bar g => issueBarra rd ra bar g st
  | .barraQ rd bar g => issueBarraQ rd bar g st
  | .barrw ra bar g => issueBarrw ra bar g st
  | .sstep rd g => issueSstep rd g st
  | .fence scope g => issueFence scope g st
  | .cut rd ra g => issueCut rd ra g st
  | .ldb reg base off g => issueLdb reg base off g st
  | .ldh reg base off g => issueLdh reg base off g st
  | .ldw reg base off g => issueLdw reg base off g st
  | .ldd reg base off g => issueLdd reg base off g st
  | .ldbz reg base off g => issueLdbz reg base off g st
  | .ldhz reg base off g => issueLdhz reg base off g st
  | .ldwz reg base off g => issueLdwz reg base off g st
  | .stb reg base off g => issueStb reg base off g st
  | .sth reg base off g => issueSth reg base off g st
  | .stw reg base off g => issueStw reg base off g st
  | .std reg base off g => issueStd reg base off g st
  | .vld reg base off g => issueVld reg base off g st
  | .vst reg base off g => issueVst reg base off g st
  | .aintAddW d base s ord g => issueAintAddW d base s ord g st
  | .aintAddD d base s ord g => issueAintAddD d base s ord g st
  | .aintAnd d base s ord g => issueAintAnd d base s ord g st
  | .aintOr d base s ord g => issueAintOr d base s ord g st
  | .aintXor d base s ord g => issueAintXor d base s ord g st
  | .aintMin d base s ord g => issueAintMin d base s ord g st
  | .aintMax d base s ord g => issueAintMax d base s ord g st
  | .aintMinz d base s ord g => issueAintMinz d base s ord g st
  | .aintMaxz d base s ord g => issueAintMaxz d base s ord g st
  | .aintSwapW d base s ord g => issueAintSwapW d base s ord g st
  | .aintSwapD d base s ord g => issueAintSwapD d base s ord g st
  | .afpFadd d base s fmt ord g => issueAfpFadd d base s fmt ord g st
  | .afpFmin d base s fmt ord g => issueAfpFmin d base s fmt ord g st
  | .afpFmax d base s fmt ord g => issueAfpFmax d base s fmt ord g st
  | .acasW d base s ord g => issueAcasW d base s ord g st
  | .acasD d base s ord g => issueAcasD d base s ord g st
  | .acasQ d base s ord g => issueAcasQ d base s ord g st
  | .vaccOvw v base ord g => issueVaccOvw v base ord g st
  | .vaccAddF32 v base ord g => issueVaccAddF32 v base ord g st
  | .vaccAddF64 v base ord g => issueVaccAddF64 v base ord g st
  | .vaccAddBf16 v base ord g => issueVaccAddBf16 v base ord g st
  | .vaccAddF16 v base ord g => issueVaccAddF16 v base ord g st
  | .vaccAddI32 v base ord g => issueVaccAddI32 v base ord g st
  | .bpop v bob n g => issueBpop v bob n g st
  | .bpush v bob n g => issueBpush v bob n g st
  | .badvC bob n g => issueBadvC bob n g st
  | .badvP bob n g => issueBadvP bob n g st
  | .bwaitC bob n g => issueBwaitC bob n g st
  | .bwaitP bob n g => issueBwaitP bob n g st
  | .vadd vd va vb ty zi zo s q => issueVadd vd va vb ty zi zo s q st
  | .vsub vd va vb ty zi zo s q => issueVsub vd va vb ty zi zo s q st
  | .vmul vd va vb ty zi zo s q => issueVmul vd va vb ty zi zo s q st
  | .vfma vd va vb ty zi zo s q => issueVfma vd va vb ty zi zo s q st
  | .vfmac vd va vb ty zi zo s q => issueVfmac vd va vb ty zi zo s q st
  | .vmin vd va vb ty zi s q => issueVmin vd va vb ty zi s q st
  | .vmax vd va vb ty zi s q => issueVmax vd va vb ty zi s q st
  | .vabs vd va ty q => issueVabs vd va ty q st
  | .vneg vd va ty q => issueVneg vd va ty q st
  | .vdiv vd va vb ty zi zo s q => issueVdiv vd va vb ty zi zo s q st
  | .vexp vd va ty zi zo q => issueVexp vd va ty zi zo q st
  | .vexp2 vd va ty zi zo q => issueVexp2 vd va ty zi zo q st
  | .vlog2 vd va ty zi zo q => issueVlog2 vd va ty zi zo q st
  | .vrcp vd va ty zi zo q => issueVrcp vd va ty zi zo q st
  | .vrsqrt vd va ty zi zo q => issueVrsqrt vd va ty zi zo q st
  | .vsqrt vd va ty zi zo q => issueVsqrt vd va ty zi zo q st
  | .vrmax vd va ty zi q => issueVrmax vd va ty zi q st
  | .vrmin vd va ty zi q => issueVrmin vd va ty zi q st
  | .vrsum vd va ty zi zo q => issueVrsum vd va ty zi zo q st
  | .vcmplt vd va vb ty zi s q => issueVcmplt vd va vb ty zi s q st
  | .vcmpeq vd va vb ty zi s q => issueVcmpeq vd va vb ty zi s q st
  | .vsel vd va vb ty s q => issueVsel vd va vb ty s q st
  | .vcvt vd va code ty zi zo q => issueVcvt vd va code ty zi zo q st
  | .vmov vd va q => issueVmov vd va q st
  | .vbcast vd va vb ty q => issueVbcast vd va vb ty q st
  | .vbcastY vd vb ty q => issueVbcastY vd vb ty q st
  | .vlsh vd va n ty q => issueVlsh vd va n ty q st
  | .vlshY vd va vb ty q => issueVlshY vd va vb ty q st
  | .vget vd va vb ty q => issueVget vd va vb ty q st
  | .vput vd va vb ty q => issueVput vd va vb ty q st
  | .viadd vd va vb s q => issueViadd vd va vb s q st
  | .visub vd va vb s q => issueVisub vd va vb s q st
  | .vimul vd va vb s q => issueVimul vd va vb s q st
  | .vand vd va vb s q => issueVand vd va vb s q st
  | .vor vd va vb s q => issueVor vd va vb s q st
  | .vxor vd va vb s q => issueVxor vd va vb s q st
  | .vsll vd va vb s q => issueVsll vd va vb s q st
  | .vsrl vd va vb s q => issueVsrl vd va vb s q st
  | .vsra vd va vb s q => issueVsra vd va vb s q st
  | .vimin vd va vb s q => issueVimin vd va vb s q st
  | .vimax vd va vb s q => issueVimax vd va vb s q st
  | .vadd8 vd va vb ty zi zo s q => issueVadd8 vd va vb ty zi zo s q st
  | .vmul8 vd va vb ty zi zo s q => issueVmul8 vd va vb ty zi zo s q st
  | .viota vd ty q => issueViota vd ty q st
  | .vrng vd va vb s q => issueVrng vd va vb s q st
  | .mcallGemm sa sb f0 neg => issueMcallGemm sa sb f0 neg st
  | .mcallGemmt sa sb f0 neg => issueMcallGemmt sa sb f0 neg st
  | .mcallGemmz sa sb f0 neg => issueMcallGemmz sa sb f0 neg st
  | .mcallGemv sa sb f0 neg => issueMcallGemv sa sb f0 neg st
  | .mcallOuter sa sb f0 neg => issueMcallOuter sa sb f0 neg st
  | .mcallTrans => issueMcallTrans st
  | .mcallDgemm sa sb f0 neg => issueMcallDgemm sa sb f0 neg st
  | .mcallRowsc sa f0 => issueMcallRowsc sa f0 st
  | .mcallColred f0 => issueMcallColred f0 st
  | .mcallCvtout sb f0 => issueMcallCvtout sb f0 st
  | .mcallLoadc sb f0 => issueMcallLoadc sb f0 st
  | .mzero tile => issueMzero tile st
  | .mwait => issueMwait st
  | .mwaitTile tile => issueMwaitTile tile st
  | .matrixRoutineComplete _ => .ok st
  | .matrixRoutineStop _ => .ok st
  | .cpy sa sb ct sh ch => issueCpy sa sb ct sh ch st
  | .publ ch => issuePubl ch st
  | .gath sa sb ct sh ch => issueGath sa sb ct sh ch st
  | .scat sa sb ct ch => issueScat sa sb ct ch st
  | .coll sa sb ch => issueColl sa sb ch st
  | .sbar after before => issueSbar after before st
  | .cwait ch => issueCwait ch st
  | .persist sa sb => issuePersist sa sb st
  | .cpyb sa n bob ch => issueCpyb sa n bob ch st
  | .bdrain sb n bob ch => issueBdrain sb n bob ch st
  | .streamLineMove _ => .ok st
  | .streamComplete _ _ => .ok st
  | .streamDeadlineExpiry _ _ => .ok st
  | .publishSwap _ _ => .ok st
  | .seal sa sb ks n => issueSeal sa sb ks n st
  | .openCt sa sb ks n => issueOpenCt sa sb ks n st
  | .ywait => issueYwait st
  | .cipherCommandComplete _ => .ok st
  | .remoteReplyArrival _ => .ok st
  | .writeAckArrival _ => .ok st
  | .failureNoticeArrival _ => .ok st
  | .remoteReadAtHome _ => .ok st
  | .remoteWriteAtHome _ => .ok st
  | .remoteAtomicAtHome _ => .ok st
  | .translationWalkComplete _ _ _ => .ok st
  | .codeTagCheck _ _ => .ok st
  | .blockPullComplete _ _ => .ok st
  | .owedBlockWriteout _ _ => .ok st
  | .imageDrainBlock _ => .ok st
  | .segmentLoad _ => .ok st
  | .tokenTick _ => .ok st
  | .contractRelease _ _ => .ok st
  | .budgetExhausted _ _ => .ok st
  | .drainLimitExpiry _ => .ok st
  | .schedulerTransactionCommit _ => .ok st
  | .taskRetirement _ => .ok st
  | .cutStop _ => .ok st
  | .quiescence _ => .ok st
  | .ppboundCountExpiry _ => .ok st
  | .watchdog _ => .ok st
  | .dispositionResume _ _ _ _ _ _ => .ok st
  | .dispositionKill _ _ => .ok st
  | .trapRingTailWrite _ _ => .ok st
  | .barrierArrival _ => .ok st
  | .barrierCompletionNotice _ => .ok st
  | .stepCompletion _ _ _ => .ok st
  | .gateOperationAtHome _ => .ok st
  | .gateWaitTimeout _ => .ok st
  | .gateTokenRefill _ _ => .ok st
  | .gcntWrite _ _ => .ok st
  | .gateValidWrite _ _ _ => .ok st
  | .aclEntryWrite _ _ _ _ => .ok st
  | .hgsig _ _ _ _ => .ok st
  | .hgcnt _ _ _ => .ok st
  | .hwakeWrite _ _ _ _ => .ok st
  | .leaseClaim _ _ => .ok st
  | .leaseExpiry => .ok st
  | .hostMemoryWrite _ _ _ _ => .ok st
  | .hostMemoryRead _ _ _ _ => .ok st
  | .pspinWrite _ _ _ _ => .ok st
  | .reservationWrite _ _ _ => .ok st
  | .lsdomWrite _ _ => .ok st
  | .xinvWrite _ _ => .ok st
  | .invalidationComplete _ => .ok st
  | .hcut _ => .ok st
  | .hcutAccept => .ok st
  | .powerEvaluation _ => .ok st
  | .powerCapWrite _ => .ok st
  | .droopTrip _ _ _ => .ok st
  | .patrolScrub _ => .ok st
  | .coldReset => .ok st
  | .imageLocatorReceived _ => .ok st
  | .linkWaitTimeout => .ok st
  | .imageFetchComplete _ => .ok st
  | .warmReset => .ok st
  | .fatalError _ => .ok st
  | .fatalStop => .ok st
  | .getVersion _ => .ok st
  | .getCapabilities _ => .ok st
  | .negotiateAlgorithms _ => .ok st
  | .getDigests _ => .ok st
  | .getCertificate _ _ _ _ _ => .ok st
  | .challenge _ _ _ => .ok st
  | .getMeasurements _ _ => .ok st
  | .keyExchange _ _ _ _ _ => .ok st
  | .finish _ => .ok st
  | .heartbeat _ => .ok st
  | .keyUpdate _ => .ok st
  | .endSession _ => .ok st
  | .sessionExpiry _ => .ok st
  | .keyset _ _ _ _ => .ok st
  | .keyclr _ _ _ => .ok st
  | .signreg _ _ _ _ => .ok st
  | .signclr _ _ _ => .ok st
  | .lockInterfaceRequest _ _ => .ok st
  | .getDeviceInterfaceReport _ _ => .ok st
  | .getDeviceInterfaceState _ _ => .ok st
  | .startInterfaceRequest _ _ => .ok st
  | .stopInterfaceRequest _ _ => .ok st
  | .teardownScrubComplete _ => .ok st
  | .registerWrite _ _ _ => .ok st
  | .updateStart _ => .ok st
  | .updateSwitch => .ok st
  | .firmwareHeartbeat => .ok st
  | .updateCommit => .ok st
  | .heartbeatMissed => .ok st
  | .exposedResultLanding _ => .ok st
  | .declaredBoundExpiry _ => .ok st
  | .persistenceReached _ => .ok st
  | .droopRecovery _ => .ok st
  | .powerLoss => .ok st

/-- The number of literal words that a word needs (R69, R92, R97). -/
def litNeeds (i : Instr) : Nat :=
  match i with
  | .add _ _ _ rb bk _ => if bk = 1 then rb.toNat + 1 else 0
  | .sub _ _ _ rb bk _ => if bk = 1 then rb.toNat + 1 else 0
  | .and _ _ _ rb bk _ => if bk = 1 then rb.toNat + 1 else 0
  | .or _ _ _ rb bk _ => if bk = 1 then rb.toNat + 1 else 0
  | .xor _ _ _ rb bk _ => if bk = 1 then rb.toNat + 1 else 0
  | .andn _ _ _ rb bk _ => if bk = 1 then rb.toNat + 1 else 0
  | .sll _ _ _ rb bk _ => if bk = 1 then rb.toNat + 1 else 0
  | .srl _ _ _ rb bk _ => if bk = 1 then rb.toNat + 1 else 0
  | .sra _ _ _ rb bk _ => if bk = 1 then rb.toNat + 1 else 0
  | .slt _ _ _ rb bk _ => if bk = 1 then rb.toNat + 1 else 0
  | .sltu _ _ _ rb bk _ => if bk = 1 then rb.toNat + 1 else 0
  | .min _ _ _ rb bk _ => if bk = 1 then rb.toNat + 1 else 0
  | .max _ _ _ rb bk _ => if bk = 1 then rb.toNat + 1 else 0
  | .minu _ _ _ rb bk _ => if bk = 1 then rb.toNat + 1 else 0
  | .maxu _ _ _ rb bk _ => if bk = 1 then rb.toNat + 1 else 0
  | .addw _ _ _ rb bk _ => if bk = 1 then rb.toNat + 1 else 0
  | .subw _ _ _ rb bk _ => if bk = 1 then rb.toNat + 1 else 0
  | .sllw _ _ _ rb bk _ => if bk = 1 then rb.toNat + 1 else 0
  | .srlw _ _ _ rb bk _ => if bk = 1 then rb.toNat + 1 else 0
  | .sraw _ _ _ rb bk _ => if bk = 1 then rb.toNat + 1 else 0
  | .hash _ _ _ rb bk _ => if bk = 1 then rb.toNat + 1 else 0
  | .mul _ _ _ rb bk _ => if bk = 1 then rb.toNat + 1 else 0
  | .mulh _ _ _ rb bk _ => if bk = 1 then rb.toNat + 1 else 0
  | .mulhu _ _ _ rb bk _ => if bk = 1 then rb.toNat + 1 else 0
  | .mulw _ _ _ rb bk _ => if bk = 1 then rb.toNat + 1 else 0
  | .div _ _ rb bk _ => if bk = 1 then rb.toNat + 1 else 0
  | .divu _ _ rb bk _ => if bk = 1 then rb.toNat + 1 else 0
  | .rem _ _ rb bk _ => if bk = 1 then rb.toNat + 1 else 0
  | .remu _ _ rb bk _ => if bk = 1 then rb.toNat + 1 else 0
  | .lit _ _ num => num.toNat + 1
  | .litS _ _ num => num.toNat + 1
  | .litD _ _ num => num.toNat + 2
  | .pcmp _ _ _ rb bk _ _ => if bk = 1 then rb.toNat + 1 else 0
  | .sel _ _ _ rb bk _ _ => if bk = 1 then rb.toNat + 1 else 0
  | .fadd _ _ _ rb bk _ _ _ _ => if bk = 1 then rb.toNat + 1 else 0
  | .fsub _ _ _ rb bk _ _ _ _ => if bk = 1 then rb.toNat + 1 else 0
  | .fmul _ _ _ rb bk _ _ _ _ => if bk = 1 then rb.toNat + 1 else 0
  | .fmin _ _ _ rb bk _ _ => if bk = 1 then rb.toNat + 1 else 0
  | .fmax _ _ _ rb bk _ _ => if bk = 1 then rb.toNat + 1 else 0
  | .fdiv _ _ rb bk _ _ _ _ => if bk = 1 then rb.toNat + 1 else 0
  | _ => 0

/-- The predicate that a word writes in its next cycle (R75), the control register of a CWR, the bobbin of a bobbin
word (R202), and the end offset of a loop word (R124). -/
def predDest (i : Instr) : Option (BitVec 3) :=
  match i with
  | .pcmp _ pd _ _ _ _ _ => some pd
  | .pcmpi _ pd _ _ _ _ => some pd
  | .pand _ pd _ _ _ => some pd
  | .por _ pd _ _ _ => some pd
  | .pxor _ pd _ _ _ => some pd
  | .pandn _ pd _ _ _ => some pd
  | .atest _ pd _ _ _ => some pd
  | .fcmp _ pd _ _ _ _ => some pd
  | _ => none

def crDest (i : Instr) : Option (BitVec 16) :=
  match i with
  | .cwr _ _ num => some num
  | _ => none

def bobbinOf (i : Instr) : Option (BitVec 4) :=
  match i with
  | .bpop _ bob _ _ => some bob
  | .bpush _ bob _ _ => some bob
  | .badvC bob _ _ => some bob
  | .badvP bob _ _ => some bob
  | .bwaitC bob _ _ => some bob
  | .bwaitP bob _ _ => some bob
  | _ => none

def endOffset (i : Instr) : Option Nat :=
  match i with
  | .loop _ _ _ e | .loopR _ _ _ e => some e.toNat
  | .loopi _ _ _ e | .loopiR _ _ _ e => some e.toNat
  | _ => none

/-- A source that an earlier handler word may still have to write (R315). -/
inductive Src where
  | x (r : BitVec 5)
  | y (r : BitVec 5)
  | p (n : BitVec 3)
  | row (r : Nat)
  deriving DecidableEq, Repr

/-- A register of a cluster, a 6-bit register field, and operand b as sources. -/
def srcOf (cl : Cluster) (r : BitVec 5) : Src :=
  match cl with
  | .x => .x r
  | .y => .y r
def src6 (r : BitVec 6) : Src := if r.toNat < 32 then .x (BitVec.ofNat 5 r.toNat) else .y (BitVec.ofNat 5 r.toNat)
def srcB (cl : Cluster) (r : BitVec 5) (bk : BitVec 2) : List Src := if bk = 0 then [srcOf cl r] else []
def srcG (g : BitVec 4) : Src := .p (BitVec.ofNat 3 g.toNat)
def srcPair (r : BitVec 5) : List Src := [src6 (BitVec.ofNat 6 (2 * r.toNat)), src6 (BitVec.ofNat 6 (2 * r.toNat + 1))]

/-- The sources of a word that a handler bundle may hold: SX, SY and LS words. -/
def srcsOf (i : Instr) (c : Ctx) : List Src :=
  match i with
  | .add cl _ ra rb bk g => [srcOf cl ra] ++ srcB cl rb bk ++ [srcG g]
  | .sub cl _ ra rb bk g => [srcOf cl ra] ++ srcB cl rb bk ++ [srcG g]
  | .and cl _ ra rb bk g => [srcOf cl ra] ++ srcB cl rb bk ++ [srcG g]
  | .or cl _ ra rb bk g => [srcOf cl ra] ++ srcB cl rb bk ++ [srcG g]
  | .xor cl _ ra rb bk g => [srcOf cl ra] ++ srcB cl rb bk ++ [srcG g]
  | .andn cl _ ra rb bk g => [srcOf cl ra] ++ srcB cl rb bk ++ [srcG g]
  | .sll cl _ ra rb bk g => [srcOf cl ra] ++ srcB cl rb bk ++ [srcG g]
  | .srl cl _ ra rb bk g => [srcOf cl ra] ++ srcB cl rb bk ++ [srcG g]
  | .sra cl _ ra rb bk g => [srcOf cl ra] ++ srcB cl rb bk ++ [srcG g]
  | .slt cl _ ra rb bk g => [srcOf cl ra] ++ srcB cl rb bk ++ [srcG g]
  | .sltu cl _ ra rb bk g => [srcOf cl ra] ++ srcB cl rb bk ++ [srcG g]
  | .min cl _ ra rb bk g => [srcOf cl ra] ++ srcB cl rb bk ++ [srcG g]
  | .max cl _ ra rb bk g => [srcOf cl ra] ++ srcB cl rb bk ++ [srcG g]
  | .minu cl _ ra rb bk g => [srcOf cl ra] ++ srcB cl rb bk ++ [srcG g]
  | .maxu cl _ ra rb bk g => [srcOf cl ra] ++ srcB cl rb bk ++ [srcG g]
  | .clz cl _ ra g => [srcOf cl ra, srcG g]
  | .popc cl _ ra g => [srcOf cl ra, srcG g]
  | .addw cl _ ra rb bk g => [srcOf cl ra] ++ srcB cl rb bk ++ [srcG g]
  | .subw cl _ ra rb bk g => [srcOf cl ra] ++ srcB cl rb bk ++ [srcG g]
  | .sllw cl _ ra rb bk g => [srcOf cl ra] ++ srcB cl rb bk ++ [srcG g]
  | .srlw cl _ ra rb bk g => [srcOf cl ra] ++ srcB cl rb bk ++ [srcG g]
  | .sraw cl _ ra rb bk g => [srcOf cl ra] ++ srcB cl rb bk ++ [srcG g]
  | .hash cl _ ra rb bk g => [srcOf cl ra] ++ srcB cl rb bk ++ [srcG g]
  | .mul cl _ ra rb bk g => [srcOf cl ra] ++ srcB cl rb bk ++ [srcG g]
  | .mulh cl _ ra rb bk g => [srcOf cl ra] ++ srcB cl rb bk ++ [srcG g]
  | .mulhu cl _ ra rb bk g => [srcOf cl ra] ++ srcB cl rb bk ++ [srcG g]
  | .mulw cl _ ra rb bk g => [srcOf cl ra] ++ srcB cl rb bk ++ [srcG g]
  | .div _ ra rb bk g => [srcOf .y ra] ++ srcB .y rb bk ++ [srcG g]
  | .divu _ ra rb bk g => [srcOf .y ra] ++ srcB .y rb bk ++ [srcG g]
  | .rem _ ra rb bk g => [srcOf .y ra] ++ srcB .y rb bk ++ [srcG g]
  | .remu _ ra rb bk g => [srcOf .y ra] ++ srcB .y rb bk ++ [srcG g]
  | .addi cl _ ra _ g => [srcOf cl ra, srcG g]
  | .andi cl _ ra _ g => [srcOf cl ra, srcG g]
  | .ori cl _ ra _ g => [srcOf cl ra, srcG g]
  | .xori cl _ ra _ g => [srcOf cl ra, srcG g]
  | .slli cl _ ra _ g => [srcOf cl ra, srcG g]
  | .srli cl _ ra _ g => [srcOf cl ra, srcG g]
  | .srai cl _ ra _ g => [srcOf cl ra, srcG g]
  | .slti cl _ ra _ g => [srcOf cl ra, srcG g]
  | .limmh cl rd _ => [srcOf cl rd]
  | .pcmp cl _ ra rb bk _ g => [srcOf cl ra] ++ srcB cl rb bk ++ [srcG g]
  | .pcmpi cl _ _ ra _ g => [srcOf cl ra, srcG g]
  | .pand _ _ pa pb g => [.p pa, .p pb, srcG g]
  | .por _ _ pa pb g => [.p pa, .p pb, srcG g]
  | .pxor _ _ pa pb g => [.p pa, .p pb, srcG g]
  | .pandn _ _ pa pb g => [.p pa, .p pb, srcG g]
  | .sel cl _ ra rb bk pk g => [srcOf cl ra] ++ srcB cl rb bk ++ [.p pk, srcG g]
  | .xmov cl _ ra g => [srcOf (match cl with | .x => .y | .y => .x) ra, srcG g]
  | .cwr cl ra _ => [srcOf cl ra]
  | .acvtGen2loc cl _ ra g => [srcOf cl ra, srcG g]
  | .acvtGen2shr cl _ ra g => [srcOf cl ra, srcG g]
  | .acvtGen2clu cl _ ra g => [srcOf cl ra, srcG g]
  | .acvtLoc2gen cl _ ra g => [srcOf cl ra, srcG g]
  | .acvtShr2gen cl _ ra g => [srcOf cl ra, srcG g]
  | .acvtClu2gen cl _ ra g => [srcOf cl ra, srcG g]
  | .atest cl _ ra _ g => [srcOf cl ra, srcG g]
  | .fadd cl _ ra rb bk _ _ _ _ => [srcOf cl ra] ++ srcB cl rb bk
  | .fsub cl _ ra rb bk _ _ _ _ => [srcOf cl ra] ++ srcB cl rb bk
  | .fmul cl _ ra rb bk _ _ _ _ => [srcOf cl ra] ++ srcB cl rb bk
  | .fmin cl _ ra rb bk _ _ => [srcOf cl ra] ++ srcB cl rb bk
  | .fmax cl _ ra rb bk _ _ => [srcOf cl ra] ++ srcB cl rb bk
  | .fabs cl _ ra _ => [srcOf cl ra]
  | .fneg cl _ ra _ => [srcOf cl ra]
  | .fcvt cl _ ra _ _ _ _ => [srcOf cl ra]
  | .ftoi cl _ ra _ _ _ => [srcOf cl ra]
  | .fito cl _ ra _ _ => [srcOf cl ra]
  | .fdiv _ ra rb bk _ _ _ _ => [srcOf .y ra] ++ srcB .y rb bk
  | .fsqrt _ ra _ _ _ _ => [srcOf .y ra]
  | .fma cl _ ra rb rc _ _ _ _ => [srcOf cl ra, srcOf cl rb, srcOf cl rc]
  | .fnma cl _ ra rb rc _ _ _ _ => [srcOf cl ra, srcOf cl rb, srcOf cl rc]
  | .fcmp cl _ _ ra rb _ => [srcOf cl ra, srcOf cl rb]
  | .fclass cl _ ra _ g => [srcOf cl ra, srcG g]
  | .br _ g => [srcG g]
  | .jr ra _ g => [srcOf .x ra, srcG g]
  | .call _ g => [srcG g]
  | .ret g => [srcG g, .x 31]
  | .loop _ _ xc _ => [.x xc]
  | .loopR _ _ xc _ => [.x xc]
  | .lbrk g => [srcG g]
  | .frame g => [srcG g]
  | .sysc _ g => [srcG g]
  | .brk _ g => [srcG g]
  | .tend g => [srcG g]
  | .est ra g => [srcOf .x ra, srcG g]
  | .esc _ g => [srcG g]
  | .tlaunch _ ra g => [srcOf .x ra, srcG g]
  | .tjoin _ ra g => [srcOf .x ra, srcG g]
  | .tjoinW _ ra g => [srcOf .x ra, srcG g]
  | .admitC _ ra g => [srcOf .x ra, srcG g]
  | .admitX _ ra g => [srcOf .x ra, srcG g]
  | .gsig _ ra _ g => [srcOf .x ra, srcG g]
  | .gwait _ ra _ g => [srcOf .x ra, srcG g]
  | .gpoll _ ra _ g => [srcOf .x ra, srcG g]
  | .barra _ ra _ g => [srcOf .x ra, srcG g]
  | .barraQ _ _ g => [srcG g]
  | .barrw ra _ g => [srcOf .x ra, srcG g]
  | .sstep _ g => [srcG g]
  | .fence _ g => [srcG g]
  | .cut _ ra g => [srcOf .x ra, srcG g]
  | .ldb _ base _ g => [.x base, .p g]
  | .ldh _ base _ g => [.x base, .p g]
  | .ldw _ base _ g => [.x base, .p g]
  | .ldd _ base _ g => [.x base, .p g]
  | .ldbz _ base _ g => [.x base, .p g]
  | .ldhz _ base _ g => [.x base, .p g]
  | .ldwz _ base _ g => [.x base, .p g]
  | .stb reg base _ g => [src6 reg, .x base, .p g]
  | .sth reg base _ g => [src6 reg, .x base, .p g]
  | .stw reg base _ g => [src6 reg, .x base, .p g]
  | .std reg base _ g => [src6 reg, .x base, .p g]
  | .vld _ base _ g => [.x base, .p g]
  | .vst reg base _ g => [.row (c.row reg), .x base, .p g]
  | .aintAddW _ base s _ g => [.x base, src6 s, .p g]
  | .aintAddD _ base s _ g => [.x base, src6 s, .p g]
  | .aintAnd _ base s _ g => [.x base, src6 s, .p g]
  | .aintOr _ base s _ g => [.x base, src6 s, .p g]
  | .aintXor _ base s _ g => [.x base, src6 s, .p g]
  | .aintMin _ base s _ g => [.x base, src6 s, .p g]
  | .aintMax _ base s _ g => [.x base, src6 s, .p g]
  | .aintMinz _ base s _ g => [.x base, src6 s, .p g]
  | .aintMaxz _ base s _ g => [.x base, src6 s, .p g]
  | .aintSwapW _ base s _ g => [.x base, src6 s, .p g]
  | .aintSwapD _ base s _ g => [.x base, src6 s, .p g]
  | .afpFadd _ base s _ _ g => [.x base, src6 s, .p g]
  | .afpFmin _ base s _ _ g => [.x base, src6 s, .p g]
  | .afpFmax _ base s _ _ g => [.x base, src6 s, .p g]
  | .acasW d base s _ g => [src6 d, .x base, src6 s, .p g]
  | .acasD d base s _ g => [src6 d, .x base, src6 s, .p g]
  | .acasQ d base s _ g => srcPair d ++ [.x base] ++ srcPair s ++ [.p g]
  | .vaccOvw v base _ g => [.row (c.row v), .x base, .p g]
  | .vaccAddF32 v base _ g => [.row (c.row v), .x base, .p g]
  | .vaccAddF64 v base _ g => [.row (c.row v), .x base, .p g]
  | .vaccAddBf16 v base _ g => [.row (c.row v), .x base, .p g]
  | .vaccAddF16 v base _ g => [.row (c.row v), .x base, .p g]
  | .vaccAddI32 v base _ g => [.row (c.row v), .x base, .p g]
  | .bpop _ _ _ g => [.p g]
  | .bpush v _ _ g => [.row (c.row v), .p g]
  | .badvC _ _ g => [.p g]
  | .badvP _ _ g => [.p g]
  | .bwaitC _ _ g => [.p g]
  | .bwaitP _ _ g => [.p g]
  | _ => []

/-- Whether a write in flight goes to a source. -/
def Land.hits (l : Land) (k : Src) : Bool :=
  match l, k with
  | .x r _, .x q => r == q && q != 0
  | .y r _, .y q => r == q && q != 0
  | .p n _, .p m => n == m
  | .acc _ off bs, .row r => overlap off bs.length (rowOff r) 512
  | _, _ => false

/-- Whether the destination of an awaited reply is a source. -/
def Dest.hits (d : Dest) (k : Src) : Bool :=
  match d, k with
  | .x r, .x q => r == q && q != 0
  | .y r, .y q => r == q && q != 0
  | .pair false r, .x q => (r == q || r + 1 == q) && q != 0
  | .pair true r, .y q => (r == q || r + 1 == q) && q != 0
  | .row off, .row r => overlap off 512 (rowOff r) 512
  | _, _ => false

/-- Whether a word of a handler bundle waits for the result of an earlier handler word (R315). -/
def State.interlocked (s : State) (i : Instr) : Bool :=
  let c := s.c
  let ks := srcsOf i c
  c.hpipe.any fun p => (p.lands.any fun l => ks.any l.hits) ||
    (match p.await with
     | some id => (match s.msg id with | some m => ks.any m.dest.hits | none => false)
     | none => false)

end Sys2Proof.Machine
end

