-- ==== Sys2Proof/Machine/Check.lean ====
section
/-!
DEFINITION. The checks at a bundle start (R65, R66, R77 to R79, R315) and the bundle that passes them.
-/

namespace Sys2Proof.Machine

/-- A fetched bundle: its start, the address and the fields of its ordinary header, its lock prefix, its words by slot
and its literals (R63, R68, R70). -/
structure Fetched where
  start : Nat
  hdr : Nat
  h : Hdr
  lock : Option Instr
  words : List (Slot × Instr)
  lits : List (BitVec 32)
  deriving DecidableEq, Repr

/-- What a bundle start gives: a freeze, a fault with its slot and TVAL, or a bundle. -/
inductive Start where
  | stall (kinds : List Nat) (s : State)
  | fault (code slot : Nat) (val : Word)
  | ok (f : Fetched)

/-- The words of the bundle that starts at a, as far as they lie in the code. -/
def State.bundleWords (s : State) (n a : Nat) : Nat :=
  let cw := s.codeWords n
  let w := s.codeWord n a
  let len :=
    if !s.headBit n a || 1 < hkOf w then 1
    else if hkOf w = 1 then
      (if s.headBit n (a + 1) && hkOf (s.codeWord n (a + 1)) == 0 then 1 + (hdrOf (s.codeWord n (a + 1))).len else 2)
    else (hdrOf w).len
  min len (cw - a)

/-- The code blocks of the bundle that have not been verified, or that have been pulled since (R22, R66). -/
def State.unverified (s : State) (n a : Nat) : List Nat :=
  match s.segOf n with
  | some g => (tagBlocks a (s.bundleWords n a)).filter fun b => !g.verified.contains b || (s.sp n).recheck.contains b
  | none => []

/-- The presence blocks of the bundle (R66). -/
def State.codeBlocks (s : State) (n a : Nat) : List Nat :=
  let k := s.bundleWords n a
  if k = 0 then [] else ([codeBlock a, codeBlock (a + k - 1)]).eraseDups

/-- The words from `a` on with their addresses. -/
def State.wordsAt (s : State) (n a k : Nat) : List (Nat × BitVec 32) := (rangeFrom a k).map fun x => (x, s.codeWord n x)

/-- Check 4 of R78: the faulting word, if the prefix, the header, the head bits or the length are not legal. R78 gives no order
among these conditions, and R77 names no word for a prefix that is the last word of the code: the order below and that
prefix are the model's choice. Log 50 (DESIGN CHOICE). -/
def State.headerFault (s : State) (n a : Nat) : Option (BitVec 32) :=
  let w := s.codeWord n a
  let run := (s.ctxOf n).lock.isSome
  if 1 < hkOf w then some w
  else if hkOf w = 1 && (run || !prefixOk w) then some w
  else
    let ha := s.hdrAddr n a
    let hw := s.codeWord n ha
    if s.codeWords n ≤ ha then some w
    else if ha != a && !s.headBit n ha then some hw
    else if hkOf hw != 0 || !hdrOk hw then some hw
    else if s.codeWords n < ha + (hdrOf hw).len then some hw
    else
      match (rangeFrom (ha + 1) ((hdrOf hw).len - 1)).find? fun x => s.headBit n x with
      | some x => some (s.codeWord n x)
      | none =>
        if (run || ha != a) && (hdrOf hw).stamp != 0 && !(s.ctxOf n).ctl.hmode then some hw else none

/-- The slot words of a bundle in their slots. -/
def State.slotWords (s : State) (n ha : Nat) (h : Hdr) : List (Slot × BitVec 32) :=
  h.slots.zip ((s.wordsAt n (ha + 1) h.slots.length).map Prod.snd)

/-- The trap code of a word that does not decode (R76, R78). -/
def decodeCode (f : DecodeFault) : Nat :=
  match f with
  | .illegal => tILLEGAL
  | .mroutine => tMROUTINE
  | .fmt => tFMT
  | .illhdr => tILLHDR

/-- Whether a legal word is permitted in its bundle and context (R69, R75, R76, R82, R124, R202, R312, R338): the fault. -/
def State.permitted (s : State) (n : Nat) (h : Hdr) (before : List (Slot × Instr)) (i : Instr) : Option Nat :=
  let c := s.ctxOf n
  let dup := before.any fun p =>
    ((predDest p.2).isSome && predDest p.2 == predDest i) || ((crDest p.2).isSome && crDest p.2 == crDest i)
      || (match crDest p.2, bobbinOf i with
          | some num, some k => decide (0x040 ≤ num.toNat) && decide (num.toNat ≤ 0x07F) && num.toNat / 4 % 16 == k.toNat
          | _, _ => false)
  let short := match endOffset i with | some e => decide (e < h.len) | none => false
  let priv := match i with
    | .cwr _ _ num => crPriv c.ctl.hmode num.toNat
    | .cut .. => !(s.part c.partN).cfg.cutpriv
    | _ => false
  if priv then some tPRIV
  else if decide (h.lit < litNeeds i) || dup || short || (i == .rfe && !c.ctl.hmode) then some tILLEGAL
  else none

/-- Check 6 of R78: the words in slot order, or the first failure. -/
def State.readWords (s : State) (n : Nat) (h : Hdr) :
    List (Slot × BitVec 32) → List (Slot × Instr) → Except (Nat × Nat × Word) (List (Slot × Instr))
  | [], acc => .ok acc
  | (sl, w) :: ws, acc =>
    match decodeAt (.slot sl) w with
    | .error f => .error (decodeCode f, slotNum sl, w.setWidth 64)
    | .ok i =>
      match s.permitted n h acc i with
      | some code => .error (code, slotNum sl, w.setWidth 64)
      | none => s.readWords n h ws (acc ++ [(sl, i)])

/-- The words that a handler bundle may not hold (R315). -/
def handlerSlot (sl : Slot) : Bool := sl == .sx || sl == .sy || sl == .ls

/-- Check 5 of R78: the faulting word of a handler bundle (R77, R79, R315). -/
def State.handlerFault (s : State) (n a : Nat) : Option (BitVec 32) :=
  let ha := s.hdrAddr n a
  let hw := s.codeWord n ha
  if !(s.ctxOf n).ctl.hmode then none
  else if ha != a || decide (2 ≤ (hdrOf hw).slots.length) then some hw
  else ((s.slotWords n ha (hdrOf hw)).find? fun p => !handlerSlot p.1).map Prod.snd

/-- Checks 1 to 6 of R78 on the bundle at spindle n's next start. -/
def State.fetch (s : State) (n : Nat) : Start :=
  let c := s.ctxOf n
  let a := c.pc.toNat
  let from_ := c.cameFrom.getD c.pc
  if s.codeWords n ≤ a then .fault tSEGBOUND 7 from_
  else
    let miss := s.missingOf n (s.codeBlocks n a)
    if !miss.isEmpty then .stall [wBLOCK] (s.askBlocks n miss)
    else if !(s.unverified n a).isEmpty then .stall [wTAG] s
    else if !s.headBit n a then .fault tBALIGN 7 from_
    else
      match s.headerFault n a with
      | some w => .fault tILLHDR 7 (w.setWidth 64)
      | none =>
        match s.handlerFault n a with
        | some w => .fault tHMODE 7 (w.setWidth 64)
        | none =>
          let ha := s.hdrAddr n a
          let h := hdrOf (s.codeWord n ha)
          match s.readWords n h (s.slotWords n ha h) [] with
          | .error (code, slot, val) => .fault code slot val
          | .ok ws =>
            .ok { start := a, hdr := ha, h := h
                  lock := if ha = a then none else
                    match decodeAt .start (s.codeWord n a) with | .ok i => some i | .error _ => none
                  words := ws
                  lits := (s.wordsAt n (ha + 1 + h.slots.length) h.lit).map Prod.snd }

end Sys2Proof.Machine
end

