-- ==== Sys2Proof/Machine/Bundle.lean ====
section
/-!
DEFINITION. A spindle in one cycle of its clock (R72 to R74, R311, R315, R334, R335): what lands, what the next bundle
does, and what a cycle leaves behind, issued, idle or frozen.
-/

namespace Sys2Proof.Machine

/-! ### Landing (R73, R74, R346) -/

/-- The results that count: in handler mode those of handler words alone (R315). -/
def Ctx.active (c : Ctx) : List Pending := if c.ctl.hmode then c.hpipe else c.pipe
def Ctx.setActive (c : Ctx) (l : List Pending) : Ctx := if c.ctl.hmode then { c with hpipe := l } else { c with pipe := l }

/-- The kinds of the results that are due and whose reply has not arrived (R74, R323). -/
def State.lateKinds (s : State) (n : Nat) : List Nat :=
  (s.ctxOf n).active.filterMap fun p =>
    match p.await with
    | some id =>
      if p.left != 0 || p.late then none
      else match s.msg id with
        | some m => some (match m.op with | .gate 1 .. => wSYNC | _ => wREMOTE)
        | none => some wREMOTE
    | none => none

/-- Whether each of those has a declared bound (R294). -/
def Ctx.lateBounded (c : Ctx) : Bool := c.active.all fun p => p.await.isNone || p.left != 0 || p.late || p.bound.isSome

/-- The presence blocks of a write (R344). -/
def Land.blocks : Land → List Nat
  | .x .. => [0]
  | .y .. => [1]
  | .p .. | .flags _ => [2]
  | .acc _ off bs => blocksOf off bs.length
  | .creg k _ => [crBlock k.toNat]

/-- Whether a result lands now. -/
def Pending.due (p : Pending) : Bool := p.left == 0 && p.await.isNone

def Ctx.landBlocks (c : Ctx) : List Nat := (c.active.filter Pending.due).flatMap fun p => p.lands.flatMap Land.blocks

/-- The notices as which results land (R285). -/
def noticesOf (ps : List Pending) (g : Nat) : List Notice := (ps.filterMap Pending.notice).map fun x => { x with at_ := g }

/-- What a result writes as it lands: the flags of a fixed-time access come at the end of its cycle, as those of an answer do. -/
def Pending.now (p : Pending) : List Land := if p.dom.isSome then p.lands.filter fun l => !l.isFlags else p.lands

def Pending.lateFlags (p : Pending) : BitVec 9 :=
  if p.dom.isSome then p.lands.foldl (fun x l => match l with | .flags f => x ||| f | _ => x) 0 else 0

/-- Results land, in the order of their issue, and those that land as notices are pending (R73, R75, R285). -/
def State.landThese (s : State) (n : Nat) (ps : List Pending) : State :=
  let s := s.landAll n (ps.flatMap Pending.now)
  let fl := ps.foldl (fun x p => x ||| p.lateFlags) 0
  let xs := noticesOf ps s.gcyc
  if xs.isEmpty && fl == 0 then s else s.modCtx n fun c => { c.flagLater true fl with notices := c.notices ++ xs }

/-- The results that are due land (R73). -/
def State.landDue (s : State) (n : Nat) : State :=
  let ps := (s.ctxOf n).active.filter Pending.due
  (s.modCtx n fun c => c.setActive (c.active.filter fun p => !p.due)).landThese n ps

/-- The results that are due and go into tiles land in a frozen cycle that the engine counts (R250). -/
def State.landTiles (s : State) (n : Nat) : State :=
  let ts := (s.ctxOf n).lockedTiles
  let f (p : Pending) : Bool := p.due && s.goesInto (s.ctxOf n) ts p
  let ps := (s.ctxOf n).active.filter f
  if ps.isEmpty then s else (s.modCtx n fun c => c.setActive (c.active.filter fun p => !f p)).landThese n ps

/-- The writes that need no later cycle to take effect: of control registers, whose new values the bundles of the next cycle
see, a handler's too (R117), and of flags (R136). The estimate of EST is seen from the next cycle on (R132). -/
def Land.early : Land → Bool
  | .creg k _ => k != 0x00D
  | .flags _ => true
  | _ => false

/-- Lands the results in flight that satisfy a condition, those of handlers and of the interrupted context alike. -/
def State.landIf (s : State) (n : Nat) (f : Pending → Bool) : State :=
  let c := s.ctxOf n
  let ps := (c.pipe ++ c.hpipe).filter f
  if ps.isEmpty then s
  else
    (s.modCtx n fun c => { c with pipe := c.pipe.filter (fun p => !f p), hpipe := c.hpipe.filter fun p => !f p }).landAll n
      (ps.flatMap Pending.lands)

/-- The end of a cycle for the control registers and the flags that its words wrote. -/
def State.landEarly (s : State) (n : Nat) : State := s.landIf n fun p => p.due && !p.lands.isEmpty && p.lands.all Land.early

/-- The end of a cycle, frozen or not, for the flags that it set beside its words. -/
def State.landFlags (s : State) (n : Nat) : State :=
  s.landIf n fun p => p.await.isNone && p.left ≤ 1 && !p.lands.isEmpty && p.lands.all Land.isFlags

/-- The start of the next cycle, frozen or not, for the estimate that an EST wrote (R132). -/
def State.landEstimate (s : State) (n : Nat) : State :=
  s.landIf n fun p => p.due && !p.lands.isEmpty && p.lands.all fun l => match l with | .creg _ _ => true | _ => false

/-- The results in flight without those that are written now in a freeze. Of earlier-issued results that would land in the same
cycle, what goes to the same places is overtaken (R74, R75). -/
def writtenLate (out : Pending → Bool) : List Pending → List Pending × List Land
  | [] => ([], [])
  | p :: ps =>
    let r := writtenLate out ps
    if out p then (r.1, p.lands ++ r.2)
    else if p.left == 0 && !r.2.isEmpty then ({ p with lands := landsPast r.2 p.lands, past := p.past ++ r.2 } :: r.1, r.2)
    else (p :: r.1, r.2)

/-- A freeze for late results (R74): they are marked as waited for, and those of them that have arrived are written. -/
def State.landLate (s : State) (n : Nat) : State :=
  let out (p : Pending) : Bool := p.due && p.frozen
  let ps := (s.ctxOf n).active.filter out
  (s.modCtx n fun c => c.setActive ((writtenLate out c.active).1.map fun p =>
    if p.left == 0 && p.await.isSome && !p.late then { p with frozen := true } else p)).landThese n ps

/-- An unfrozen cycle for a result in flight; no cycle of a handler counts for a declared bound (R294). -/
def Pending.nextIn (counts : Bool) (p : Pending) : Pending :=
  { p with left := p.left - 1, bound := if counts && p.await.isSome then p.bound.map (· - 1) else p.bound }
def Pending.next (p : Pending) : Pending := p.nextIn true

/-- Declared bounds that have run out (R294): the results are late, and each raises OVERRUN once. Log 22 (DESIGN CHOICE). -/
def State.boundsExpire (s : State) (n : Nat) : State :=
  let out (p : Pending) : Bool := p.await.isSome && p.bound == some 0 && !p.late
  let ids := ((s.ctxOf n).active.filter out).flatMap Pending.awaits
  let ns := (ids.filterMap s.msg).map fun m => ({ code := tOVERRUN, slot := m.slot, val := m.val, at_ := s.gcyc } : Notice)
  -- the pieces of one access raise it once
  if ids.isEmpty then s
  else s.modCtx n fun c =>
    { (c.setActive (c.active.map fun p => if out p then { p with late := true } else p)) with notices := c.notices ++ ns.eraseDups }

/-- A trap at a bundle outside handler mode: the bundle is not fused when it issues again (R182). Log 28 (DEDUCED). -/
def State.unfuse (s : State) (n : Nat) : State :=
  s.modCtx n fun c => if c.ctl.hmode then c else { c with unfused := some c.pc }

/-! ### What a spindle does in a cycle -/

/-- What a spindle does in a cycle. -/
inductive Act where
  /-- It holds no running context. -/
  | block
  /-- It freezes (R74): the kinds of the causes and whether each waits for an arrival with a declared bound (R294). -/
  | freeze (kinds : List Nat) (bounded : Bool)
  /-- A trap before any slot of the bundle (R311). -/
  | trap (t : Trap)
  /-- The first pending notice is raised (R311). -/
  | notice (t : Trap)
  /-- FPX (R212). -/
  | fpx (slot : Nat) (word : Word) (fl : BitVec 9)
  /-- A fault found while TEND waits (R377). -/
  | tendFault (t : Trap) (fromNotice : Bool)
  /-- TEND's completion ordering is met (R377). -/
  | retire
  /-- A pending checkpoint is taken (R336). -/
  | capture
  /-- PPBOUND (R335). -/
  | expire
  /-- It idles, for a stamp (R72) or in a wait of R293. -/
  | idle (waits : Bool)
  /-- The bundle issues. -/
  | go (f : Fetched)

/-- A notice as a trap (R311, R314). Log 43 (DEDUCED). -/
def Notice.trap (x : Notice) (pc : BitVec 16) : Trap :=
  { code := x.code, slot := x.slot, val := x.val, epc := x.epc.getD pc, notice := x.code != tOVERRUN }

/-- The first pending notice is raised at the next start (R311). -/
def State.raiseNotice (s : State) (n : Nat) (t : Trap) : State :=
  ((s.unfuse n).modCtx n fun c =>
    { c with notices := ((pickNotice c.notices).map Prod.snd).getD [], bound := 0 }).takeTrap n t

/-- A mark is honoured (R334). -/
def State.honoured (s : State) (n : Nat) : Bool :=
  let c := s.ctxOf n
  !c.ctl.hmode && c.lock.isNone && c.pipe.isEmpty && c.hpipe.isEmpty && c.domOps.isEmpty && c.tx == .idle
    && !(s.msgs.any fun m => m.ctx == c.id) && c.eng.mx.run.isNone && c.eng.mx.queue.isNone
    && (c.eng.chan.toList.all fun ch => ch.state == 0 && !ch.publ) && c.eng.cipher.isNone && c.notices.isEmpty

/-- The notices of results whose failure has come are found by the wait of TEND (R285, R377). -/
def Ctx.findNotices (c : Ctx) (g : Nat) : Ctx :=
  let here (p : Pending) : Bool := p.await.isNone && p.notice.isSome
  let clear (p : Pending) : Pending := if here p then { p with notice := none } else p
  { c with
    notices := c.notices ++ noticesOf ((c.pipe ++ c.hpipe).filter here) g
    pipe := c.pipe.map clear
    hpipe := c.hpipe.map clear }

/-- A fault that TEND's wait finds (R311, R377), with its source; EPC is the TEND bundle. -/
def State.tendFault (s : State) (n : Nat) : Option (Trap × Bool) :=
  let c := s.ctxOf n
  let t (code slot : Nat) (v : Word) (src : TrapSource) : Trap :=
    { code := code, slot := slot, val := v, epc := c.bun.start.setWidth 16, notice := true, source := src }
  match pickNotice c.notices with
  | some (x, _) => some (t x.code x.slot x.val .bundle, true)
  | none =>
    match c.eng.mx.fault with
    | some f => some (t f.1 4 f.2 .matrix, false)
    | none =>
      match (List.range 8).find? fun k => (c.eng.channel k).state == 3 with
      | some k => some (t (c.eng.channel k).cause.toNat 5 (c.eng.channel k).addr (.channel k), false)
      | none => c.eng.cyFault.map fun f => (t f.1 6 f.2 .cipher, false)

/-- TEND's completion ordering (R377), its fixed-time accesses apart. -/
def State.tendOutside (s : State) (n : Nat) : Bool :=
  let c := s.ctxOf n
  !(s.msgs.any fun m => m.ctx == c.id) && (c.pipe ++ c.hpipe).all (fun p => p.await.isNone)
    && (c.eng.chan.toList.all fun ch => ch.state != 1) && c.eng.mx.run.isNone && c.eng.cipher.isNone

/-- TEND's completion ordering (R377). -/
def State.tendDone (s : State) (n : Nat) : Bool :=
  s.tendOutside n && ((s.ctxOf n).pipe ++ (s.ctxOf n).hpipe).all fun p => p.dom.isNone

/-- Whether streams are all that an engine wait can wait for, each with a deadline (R294). -/
def Ctx.streamsBounded (c : Ctx) : Bool :=
  c.ctl.strict && c.eng.cipher.isNone &&
    (c.eng.chan.toList.all fun ch => match ch.stream with | some st => ch.state != 1 || st.dl != 0 | none => true)

/-- Whether a wait of a kind is for an arrival with a declared bound (R294). -/
def Ctx.kindBounded (c : Ctx) (k : Nat) : Bool :=
  c.ctl.strict && (k == wORDER || ((k == wSTREAM || k == wTEND) && c.streamsBounded))

/-- The first trap of the words in slot order: its own, or FPX with the word that TSLOT names (R212, R311). -/
def firstTrap (fen : BitVec 5) (all : BitVec 9) : List (Slot × Issue) → Option Act
  | [] => none
  | (sl, i) :: is =>
    match i with
    | .trap t => some (.trap t)
    | .go fl word fused _ => if !fused && enabled fl fen then some (.fpx (slotNum sl) word all) else firstTrap fen all is
    | _ => firstTrap fen all is

/-- The flags that a word has put in flight beside those that FPX may enable: DETREAD, and those of an atomic on the own
slice (R139, R275). -/
def State.flagsPut (s t : State) : BitVec 9 :=
  (t.c.active.drop s.c.active.length).foldl (fun x p => p.lands.foldl (fun x l => match l with | .flags f => x ||| f | _ => x) x) 0

/-- The flags of every word (R212). -/
def State.allFlags (s : State) (is : List (Slot × Issue)) : BitVec 9 :=
  is.foldl (fun x p => match p.2 with | .go fl _ _ t => x ||| fl ||| s.flagsPut t | _ => x) 0

/-- The kinds for which the words freeze, and the state with their requests made, in the order of the slots (R346). -/
def freezeOf (s : State) (is : List (Slot × Issue)) : List Nat × State :=
  is.foldl (fun x p =>
    match p.2 with
    | .wait ks t => (x.1 ++ ks,
        { x.2.askBlocks s.cur (t.sp s.cur).want with walks := (x.2.walks ++ t.walks).eraseDups })
    | _ => x) ([], s)

/-- The words of a bundle together. Log 25 (DEDUCED). -/
def State.actWords (s : State) (n : Nat) (f : Fetched) (is : List (Slot × Issue)) : Act × State :=
  let c := s.ctxOf n
  let (ks, t) := freezeOf s is
  match firstTrap c.ctl.fen (s.allFlags is) is with
  | some (.trap tr) => (.trap tr, s)
  | some a => if ks.isEmpty then (a, s) else (.freeze ks (ks.all c.kindBounded), t)
  | none =>
    if ks.contains wORDER && !ks.contains wUNBOUND && c.ctl.strict && decide (24 ≤ c.bound) then
      let (v, s) := s.freeWord
      (.trap { code := tOVERRUN, slot := 0, val := v, epc := BitVec.ofNat 16 f.start }, s)
    else if !ks.isEmpty then (.freeze ks (ks.all c.kindBounded), t)
    else if is.any fun p => match p.2 with | .idle _ => true | _ => false then (.idle true, s)
    else (.go f, s)

/-- The bundle as the words see it while they issue. -/
def Fetched.bun (f : Fetched) : Bun :=
  { start := BitVec.ofNat 64 f.start, hdr := BitVec.ofNat 64 f.hdr, len := f.h.len, lits := f.lits }

/-- The words that a limit of R191 counts before the LS word of their bundle: a gate word in SX. -/
def sendsGate : Instr → Bool
  | .gsig .. | .gwait .. | .gpoll .. => true
  | _ => false

/-- The issue of the LS word of a bundle whose SX word is a gate word: the limits count what that word sends (R68, R191). -/
def State.afterGate (s : State) (gate i : Instr) : Issue :=
  match issueOf gate s with
  | .go _ _ _ t =>
    match issueOf i t with
    | .wait ks _ => if ks == [wLIMIT] then .wait ks s else issueOf i s
    | .idle _ => .idle s
    | _ => issueOf i s
  | _ => issueOf i s

/-- The routine that the MX word of a bundle starts in the cycle of the bundle, in an idle engine (R250). -/
def State.startsNow (s : State) (ws : List (Slot × Instr)) : Option MxRun :=
  if s.c.eng.mx.run.isSome then none
  else
    match (ws.find? fun q => q.1 == .mx).map fun q => issueOf q.2 s with
    | some (.go _ _ _ t) =>
      let mx := ((t.mxOpen s.cur).ctxOf s.cur).eng.mx
      if mx.started then mx.run else none
    | _ => none

/-- MBANK of the LS word of a bundle whose MX word starts a routine, which holds its groups from its start (R249). -/
def State.mbankBy (s : State) (r : MxRun) (i : Instr) : Option Trap :=
  match issueOf i (s.modMx s.cur fun mx => { mx with run := some { r with tiles := [] }, started := true }) with
  | .trap t => if t.code = tMBANK then some t else none
  | _ => none

/-- The issue of an LS word beside the other words of its bundle. -/
def State.issueLs (s : State) (ws : List (Slot × Instr)) (i : Instr) : Issue :=
  match (s.startsNow ws).bind fun r => s.mbankBy r i with
  | some t => .trap t
  | none =>
    match ws.find? fun q => q.1 == .sx && sendsGate q.2 with
    | some q => s.afterGate q.2 i
    | none => issueOf i s

/-- The issues of the words of a bundle, each judged on the state that the bundle starts in. -/
def State.issuesOf (s : State) (ws : List (Slot × Instr)) : List (Slot × Issue) :=
  ws.map fun p => (p.1, if p.1 == .ls then s.issueLs ws p.2 else issueOf p.2 s)

/-- The bundle at the next start (R78, R311, R315, R334, R335). An entry bundle whose stamp is not 0 idles for it as every
bundle does. A pending checkpoint is taken in the cycle in which the marked bundle would issue. Log 52 (DEDUCED). -/
def State.actBundle (s : State) (n : Nat) : Act × State :=
  let c := s.ctxOf n
  match s.fetch n with
  | .stall ks s => (.freeze ks false, s)
  | .fault code slot val => (.trap { code := code, slot := slot, val := val, epc := c.pc.setWidth 16 }, s)
  | .ok f =>
    let early := !c.ctl.hmode && f.h.stamp != 0 && decide (c.ctl.sfc.toNat < f.h.stamp.toNat)
    let late := !c.ctl.hmode && f.h.stamp != 0 && decide (f.h.stamp.toNat < c.ctl.sfc.toNat)
    if early then (.idle false, s)
    else if late && c.ctl.strict then
      (.trap { code := tOVERRUN, slot := 7, val := (s.codeWord n f.hdr).setWidth 64, epc := c.pc.setWidth 16 }, s)
    else
      let s1 := s.modCtx n fun c => { c with bun := f.bun }
      if c.ctl.hmode && f.words.any fun p => s1.interlocked p.2 then (.idle false, s1)
      else
        let r := s1.actWords n f (s1.issuesOf f.words)
        match r.1 with
        | .go _ => if f.h.mark && c.ckpt && f.lock.isNone && s.honoured n then (.capture, s) else r
        | _ => r

/-- PPBOUND at a bundle start (R335). -/
def Ctx.ppDue (c : Ctx) : Bool := !c.ctl.hmode && !c.ckpt && decide (c.ctl.ppbound.toNat < c.ppcount.toNat)
def Ctx.ckptDue (c : Ctx) : Bool := !c.ctl.hmode && c.ckpt && decide (c.ctl.ppbound.toNat ≤ c.ppcount.toNat)

/-- Whether a transaction keeps a spindle's capture from its count (R46): all but the wait of TJOIN. -/
def State.txBusy (s : State) (n : Nat) : Bool :=
  let c := s.ctxOf n
  (s.part c.partN).sched.txq.any fun t => t.ctx == c.id &&
    (match t.kind with | .launch _ | .admitC _ | .withdraw _ | .cut _ => true | _ => false)

/-- A pending checkpoint is taken at once at BOUND, as a cut would be (R336): after a transaction that the task waits for (R46). -/
def State.captureDue (s : State) (n : Nat) : Bool := (s.ctxOf n).ckptDue && !s.txBusy n

/-- A wait of a bundle that has issued (log 11, DEDUCED): the freeze, the idle, or none. -/
def State.postWait (s : State) (n : Nat) : Option Act :=
  let c := s.ctxOf n
  let p := c.partN
  match c.tx with
  | .waiting _ => some (.freeze [wSYNC] false)
  | .idle =>
    match c.barw with
    | .frozen .. => some (.freeze [wSYNC] false)
    | .idling .. => if c.ctl.hmode then none else some (.idle true)
    | .idle =>
      match c.step with
      | .idle => none
      | .waiting .. =>
        if !c.domain then some (.freeze [wSYNC] false)
        -- a handler waits for its own step, whose domain stands still with it (R288, R317)
        else if c.ctl.hmode then (if c.stepH then some (.freeze [wSYNC] false) else none)
        else
          let all := (s.gangOn c.gang).all fun m =>
            match (s.ctxOf m).step with
            | .waiting t _ => decide (t + 24 ≤ c.domCycle)
            | .idle => false
          if all && !(s.part p).sched.susp.any fun u => u.sp.ctx.gang == c.gang then some (.freeze [wSYNC] false)
          else some (.idle true)

/-- The absent blocks that a cycle touches before its words (R346): those of the code, then blocks 2 and 4. -/
def State.cycleMiss (s : State) (n : Nat) : List Nat :=
  let c := s.ctxOf n
  let still := c.inTend || (match s.postWait n with | some (.freeze ..) => true | _ => false)
  if (s.sp n).run != .running || still then []
  else
    let code := if (s.postWait n).isSome then [] else s.missingOf n (s.codeBlocks n c.pc.toNat)
    code ++ s.missingOf n [2, 4]

/-- Those that it touches beside its words: the blocks of the routine that runs, and of the results that land (R346). -/
def State.cycleMissAfter (s : State) (n : Nat) : List Nat :=
  if (s.sp n).run != .running then [] else s.mxMissing n ++ s.missingOf n (s.ctxOf n).landBlocks

/-- What spindle n does in this cycle, with the requests that its waits make. A pending notice is raised in the first
cycle in which the bundle is not frozen, before every check of the bundle (R292, R311); PPBOUND comes after the notices and before those
checks. Log 28 (DEDUCED), log 52 (DEDUCED). -/
def State.actOf (s : State) (n : Nat) : Act × State :=
  let s := { s with cur := n }
  let c := s.ctxOf n
  if (s.sp n).run != .running then (.block, s)
  else if s.captureDue n then (.capture, s)
  else if !c.ctl.hmode && s.mxStalls n then (.freeze [wBANK] false, s)
  else if c.inTend then
    match s.tendFault n with
    | some (t, k) => (.tendFault t k, s)
    | none =>
      if s.tendDone n then (.retire, s)
      -- what is left has its end set by domain timing (R293)
      else if s.tendOutside n then (.idle true, s)
      else (.freeze [wTEND] (c.kindBounded wTEND), s)
  else
    match s.postWait n with
    | some (.idle w) => if c.ppDue then (.expire, s) else (.idle w, s)
    | some a => (a, s)
    | none =>
      match (if c.ctl.hmode then none else pickNotice c.notices) with
      | some (x, _) =>
        match s.actBundle n with
        | (.freeze ks b, t) => (.freeze ks b, t)
        | _ => (.notice (x.trap (c.pc.setWidth 16)), s)
      | none =>
        if c.ppDue then (.expire, s)
        else s.actBundle n

/-! ### The effect of a header (R69, R71, R72, R334) -/

/-- A late stamp and an honoured mark, as the bundle issues. Handler mode ignores both. -/
def State.headerEffect (s : State) (mark : Bool) (stamp : BitVec 16) : State :=
  let c := s.c
  if c.ctl.hmode then s
  else
    let s := if mark && s.honoured s.cur then s.modC fun c => { c with ppcount := 0 } else s
    if stamp != 0 && decide (stamp.toNat < c.ctl.sfc.toNat) then s.raiseFlags fOVR else s

/-- EMPTY_BUNDLE (R68): its header alone takes effect. -/
def execEmptyBundle (mark : Bool) (stamp : BitVec 16) (s : State) : Host.Outcome State Fault Refusal :=
  .next (s.headerEffect mark stamp)

/-- BANK_LOCK_PREFIX (R70, R71): the named banks are held over the next N bundles. -/
def execBankLockPrefix (n : BitVec 3) (ga : BitVec 2) (maska : BitVec 8) (gb : BitVec 2) (maskb : BitVec 8) (s : State) :
    Host.Outcome State Fault Refusal :=
  .next (s.modC fun c => { c with lock := some { left := n.toNat, ga := ga, maska := maska, gb := gb, maskb := maskb } })

/-! ### The end of a bundle -/

/-- LBRK (R128). -/
def Regs.limit (r : Regs) : Regs :=
  match r.innermost with
  | some k =>
    let l := r.lc[k]
    let m : BitVec 23 := if l.rot then l.sm1.setWidth 23 else 0
    { r with lc := r.lc.set k { l with remain := if m.toNat < l.remain.toNat then m else l.remain } }
  | none => r

/-- The stage predicates after a rotation (R126): q1 is `enter`. -/
def rotateQ (q : BitVec 16) (enter : Bool) : BitVec 16 :=
  ((q <<< 1) &&& 0xFFFC#16) ||| (if enter then 2#16 else 0#16)

/-- The back edges of a bundle that starts at a (R126): the registers, TWIST and the start taken, innermost first.
Log 28 (DEDUCED). -/
def backEdges (fin : BitVec 16 → Bool) : List (Fin 4) → Regs × BitVec 5 → (Regs × BitVec 5) × Option Word
  | [], x => (x, none)
  | k :: ks, (r, tw) =>
    let l := r.lc[k]
    if !l.active then backEdges fin ks (r, tw)
    else if !fin l.endA then ((r, tw), none)
    else if l.remain = 0 then backEdges fin ks ({ r with lc := r.lc.set k { l with active := false } }, tw)
    else
      let l := { l with remain := l.remain - 1, trip := l.trip + 1 }
      let r := { r with lc := r.lc.set k l }
      ((if l.rot then { r with q := rotateQ r.q (decide (l.sm1.toNat ≤ l.remain.toNat)) } else r,
        if l.rot then tw + 1 else tw), some (l.top.setWidth 64))

/-- Where the bundle ends: the next start (R63, R126), the loop that starts (R125). -/
def State.bundleEnd (s : State) (n : Nat) (f : Fetched) : State :=
  s.modCtx n fun c =>
    let r := if c.bun.lbrk then c.regs.limit else c.regs
    let isEnd (e : BitVec 16) : Bool := e.toNat == f.start || e.toNat == f.hdr || s.prefixAt n f.hdr e.toNat
    let ((r, tw), back) := match c.bun.xfer with
      | some t => ((r, c.ctl.twist), some t)
      | none => backEdges isEnd [3, 2, 1, 0] (r, c.ctl.twist)
    let r := match c.bun.newLoop with
      | some (k, l) => { r with lc := r.lc.set k.toNat l, q := if l.rot then 2 else r.q }
      | none => r
    { c with
      regs := r
      ctl := { c.ctl with twist := tw }
      pc := back.getD (BitVec.ofNat 64 (f.hdr + f.h.len))
      cameFrom := some (BitVec.ofNat 64 f.start)
      bound := 0 }

/-- A bundle of a hold has run: the hold ends with the cycle of its last bundle (R71, R194). -/
def State.lockTick (s : State) (n : Nat) : State :=
  s.modCtx n fun c =>
    { c with lock := match c.lock with
        | some l => if l.left ≤ 1 then none else some { l with left := l.left - 1 }
        | none => none }

/-- What SYSC and ESC raise after their bundle (R130, R318). `hm` says that the bundle was a handler's, and `sfc` is the
SFC of its cycle, which a handler of SYSC reads (R315). Log 11 (DEDUCED), log 28 (DEDUCED). -/
def State.afterBundle (s : State) (n : Nat) (hm : Bool) (sfc : BitVec 32) : State :=
  let c := s.ctxOf n
  match c.bun.sysc, c.bun.esc with
  | some k, _ =>
    (s.takeTrap n { code := tSYSC, slot := 0, val := k.setWidth 64, epc := c.pc.setWidth 16 }).modCtx n fun c =>
      if hm then c else { c with trap := { c.trap with hsfc := sfc } }
  | none, some k =>
    if hm then
      s.escalateWith n { code := c.trap.tcause.toNat, slot := c.trap.tslot.toNat, val := c.trap.tval, epc := c.trap.tepc }
        true true true
    else s.escalateWith n { code := tSYSC, slot := 0, val := k.setWidth 64, epc := c.pc.setWidth 16 } false true false
  | none, none => s

/-! ### The end of a cycle -/

/-- The counters of a context after an unfrozen cycle (R57, R72, R73, R291, R294, R335). While a step waits, `bound` counts its
frozen cycles alone. -/
def Ctx.tick (c : Ctx) : Ctx :=
  { c with
    ctl := { c.ctl with
      sfc := if c.ctl.sfc = 0xFFFFFFFF then c.ctl.sfc else c.ctl.sfc + 1
      estr := BitVec.ofNat 32 (estNext c.ctl.estr.toNat) }
    ppcount := c.ppcount + 1
    bound := if c.step != .idle then c.bound else if 0 < c.bound then c.bound + 1 else 0
    domCycle := c.domCycle + 1
    pipe := c.pipe.map Pending.next
    domOps := c.domOps.map fun d => { d with applyIn := d.applyIn - 1 } }

/-- The end of an unfrozen cycle; `waits` marks an idle of R293. -/
def State.cycleEnd (s : State) (n : Nat) (waits : Bool) : State :=
  let g := s.gcyc
  let s := s.modCtx n fun c =>
    { c.tick with wait := if waits then some ((c.wait.map fun w => { w with kind := wIDLE }).getD ⟨wIDLE, g⟩) else none }
  ((s.landEarly n).mxTick n).streamTick n true

/-- The end of a handler cycle (R315, R323): only what handler words have in flight advances. -/
def State.handlerEnd (s : State) (n : Nat) : State :=
  let g := s.gcyc
  let s := s.modCtx n fun c =>
    if c.ctl.hmode then
      { c with hpipe := c.hpipe.map (Pending.nextIn false)
               wait := some ((c.wait.map fun w => { w with kind := wHANDLER }).getD ⟨wHANDLER, g⟩) }
    else { c with pipe := c.pipe ++ c.hpipe.map (Pending.nextIn false), hpipe := [], wait := none }
  (s.landEarly n).streamTick n false

/-- Whether the engine counts a frozen cycle (R250, R251): the freeze waits for the engine, or for TEND with a routine. -/
def Ctx.engineCounts (c : Ctx) (kinds : List Nat) : Bool :=
  kinds.contains wENGINE || (kinds.contains wTEND && c.eng.mx.run.isSome)

/-- A frozen cycle in which the engine counts: results to its tiles advance, those of fixed-time accesses too, and land as
the next cycle opens (R74, R250). -/
def State.engineTick (s : State) (n : Nat) : State :=
  let ts := (s.ctxOf n).lockedTiles
  let s := s.domReach [] (fun d => d.readsNow && d.dest.intoTiles ts) n
  (s.modCtx n fun c =>
    { (c.setActive (c.active.map fun p => if s.goesInto c ts p then { p with left := p.left - 1 } else p)) with
      domOps := c.domOps.map fun d => if d.dest.intoTiles ts then { d with applyIn := d.applyIn - 1 } else d }).mxTick n

/-- A cycle for the bound of the acknowledgements that a fence or a step waits for (R294): `own` says that its word waits now,
and `counts` that the cycle counts. -/
def Ctx.fenceTick (c : Ctx) (own counts : Bool) : Ctx :=
  { c with bound := if counts && (own || 0 < c.bound || c.step != .idle) then c.bound + 1 else c.bound }

/-- The declared bounds in a frozen cycle whose causes all have one (R294). Log 22 (DESIGN CHOICE). -/
def Ctx.boundTick (c : Ctx) (own : Bool) : Ctx :=
  { c.fenceTick own true with
    pipe := c.pipe.map fun p => if p.await.isSome then { p with bound := p.bound.map (· - 1) } else p }

/-- The end of a frozen cycle of a group for spindle n: the kinds of the causes that it asserts itself, those of the group, whose
freeze line is one (R74, R323), and whether all have a declared bound (R294). -/
def State.frozenEnd (s : State) (n : Nat) (own kinds : List Nat) (bounded : Bool) : State :=
  let g := s.gcyc
  let hm := (s.ctxOf n).ctl.hmode
  let bounded := bounded && !hm
  let k := (if hm then wHANDLER :: kinds else kinds).foldl min 99
  let s := s.modCtx n fun c =>
    let c := if bounded then c.boundTick (own.contains wORDER) else c
    if k = 99 then c else { c with wait := some ((c.wait.map fun w => { w with kind := k }).getD ⟨k, g⟩) }
  let s := if (s.ctxOf n).engineCounts own then s.engineTick n else s
  s.streamTick n bounded

/-- Results that are due land, unless a reply is late (R73). -/
def execExposedResultLanding (n : Nat) (s : State) : Host.Outcome State Fault Refusal :=
  .next (if (s.lateKinds n).isEmpty then s.landDue n else s)

/-- Declared bounds run out (R294). -/
def execDeclaredBoundExpiry (n : Nat) (s : State) : Host.Outcome State Fault Refusal := .next (s.boundsExpire n)

end Sys2Proof.Machine
end

