-- ==== Sys2Proof/Machine/Gates.lean ====
section
/-!
DEFINITION. The gate unit, host parties and the host lease (R33 to R35, R298 to R308), and what a write to a locked
register does (R373).
-/

namespace Sys2Proof.Machine

/-! ### Locked registers (R371 to R374) -/

/-- Whether the RWL fields of a partition are locked. -/
def State.locked (s : State) (p : Nat) : Bool := (s.part p).trust.state != .unlocked

/-- A teardown begins (R374): pending cuts on the partition's spindles are discarded and a cut of KIND 2 is made. -/
def State.startTeardown (s : State) (p : Nat) : State :=
  let ns := s.psns p
  let keep := (s.cuts.map fun k => { k with spins := k.spins.filter fun n => !ns.contains n }).filter fun k => !k.spins.isEmpty
  { (s.modTrust p fun t => { t with scrub := true }) with
    cuts := keep ++ (if ns.isEmpty then [] else [{ c := s.gcyc + 64, kind := 2, spins := ns }]) }

/-- STATE as IFSTATE reads it (R372). -/
def IfState.code : IfState → Nat
  | .unlocked => 0
  | .locked => 1
  | .run => 2
  | .error => 3

/-- An interface changes its state, which the black box records (R372, R384). -/
def State.setIf (s : State) (p : Nat) (st : IfState) : State :=
  let old := (s.part p).trust
  let s := s.modTrust p fun t => { t with state := st }
  s.blackBox 4 8 p (bytesLE old.state.code 1 ++ bytesLE st.code 1 ++ bytesLE old.ecause.toNat 1)

/-- An interface enters ERROR (R371, R374). A START in progress is answered with an error (R373). Log 36 (DEDUCED). -/
def State.enterError (s : State) (p cause : Nat) : State :=
  let t := (s.part p).trust
  if t.state == .locked || t.state == .run then
    -- a START in progress, or a STOP whose scrub runs, is answered with an error while its session stands
    let s := if t.starting || (t.stopping.isSome && cause = 3) then s.emit (.tdispError ((t.bound.getD 0).toNat)) else s
    let s := s.modTrust p fun t => { t with
      ecause := BitVec.ofNat 8 cause, starting := false, stopping := none, bound := if cause = 3 then t.bound else none }
    (s.setIf p .error).startTeardown p
  else s

/-- A write to an RWL field of a locked interface from a port (R373): discarded, Unsupported Request, and ERROR. -/
def State.lockedWrite (s : State) (ps : List Nat) (port : Nat) : State :=
  (ps.foldl (fun s p => s.enterError p 3) s).unsupported port

/-! ### Access lists (R298, R299) -/


def Gate.entry (g : Gate) (i : Nat) : Word := g.acl[i % 8]'(Nat.mod_lt _ (by decide))
def Gate.tokensOf (g : Gate) (i : Nat) : BitVec 8 := g.tokens[i % 8]'(Nat.mod_lt _ (by decide))
def Gate.setTokens (g : Gate) (i : Nat) (v : BitVec 8) : Gate := { g with tokens := g.tokens.set (i % 8) v (Nat.mod_lt _ (by decide)) }

def aclPart (e : Word) : Nat := bitsOf e.toNat 0 6
def aclHost (e : Word) : Bool := bitOf e.toNat 6
def aclV (e : Word) : Bool := bitOf e.toNat 7
def aclS (e : Word) : Bool := bitOf e.toNat 8
def aclW (e : Word) : Bool := bitOf e.toNat 9
def aclBurst (e : Word) : Nat := bitsOf e.toNat 16 8
def aclRefill (e : Word) : Nat := bitsOf e.toNat 24 16
def aclMod (e : Word) : Nat := bitsOf e.toNat 48 6

/-- The writable bits of an entry. -/
def aclMask : Word := 0x003F00FFFFFF03FF#64

/-- The partitions of this module that are out of CONFIG_UNLOCKED and that valid entries of a gate name. -/
def State.gateLockers (s : State) (n : Nat) : List Nat :=
  (((List.range 8).map fun i => (s.gate n).entry i).filter fun e =>
    aclV e && (aclHost e || aclMod e == s.pf.modid.toNat) && s.locked (aclPart e)).map aclPart |>.eraseDups

/-- The first valid entry that agrees with an accessor. -/
def Gate.match_ (g : Gate) (md p : Nat) (host : Bool) : Option Nat :=
  (List.range 8).find? fun i =>
    let e := g.entry i
    aclV e && aclHost e == host && aclPart e == p && (host || aclMod e == md)

/-- What the access list and the bucket say to an operation. -/
inductive Admit where
  | denied
  | rate
  | ok (g : Gate)

/-- The check of an operation (R299, R302): `sig` asks for S, else W; `free` consumes no token. -/
def Gate.check (g : Gate) (md p : Nat) (host sig free : Bool) : Admit :=
  if !g.valid then .denied
  else
    match g.match_ md p host with
    | none => .denied
    | some i =>
      let e := g.entry i
      if !(if sig then aclS e else aclW e) then .denied
      else if free then .ok g
      else if aclBurst e = 0 then .rate
      else if aclRefill e = 0 then .ok g
      else if g.tokensOf i = 0 then .rate
      else .ok (g.setTokens i (g.tokensOf i - 1))

/-! ### Interrupts (R34, R307) -/

/-- An interrupt goes to the lease holder, or waits for one. -/
def State.interrupt (s : State) (p vec : Nat) : State :=
  if s.lease.holder = 0 then { s with lease := { s.lease with pending := s.lease.pending ++ [(p, vec)] } }
  else s.emit (.msix p vec (s.lease.holder.toNat - 1))

/-- The wakes of every binding that names a gate (R307). -/
def State.wake (s : State) (n : Nat) : State :=
  let c := (s.gate n).gcnt
  (s.parts.map Prod.fst).foldl (fun s p => (List.range 256).foldl (fun s b =>
    let h := (s.part p).host.hwake[b % 256]'(Nat.mod_lt _ (by decide))
    let e := s.binding p b
    if h != 0 && bindV e && bindMod e == s.pf.modid.toNat && bindGate e == n && decide (h.toNat ≤ c.toNat) then
      (s.modPHost p fun x => { x with hwake := x.hwake.set (b % 256) 0 (Nat.mod_lt _ (by decide)) }).interrupt p b
    else s) s) s

/-! ### Operations at the home (R302, R304, R305) -/

/-- The number of the gate on this module at which a message waits, with its threshold. -/
def State.waitsAt (s : State) (m : Msg) : Option (Nat × Word) :=
  match m.op, m.st with
  | .gate 1 v b _ _, .waiting _ =>
    let e := s.binding m.part b
    if bindMod e == s.pf.modid.toNat then some (bindGate e, v) else none
  | _, _ => none

/-- NWAIT of a gate (R298). -/
def State.nwait (s : State) (n : Nat) : Nat :=
  (s.msgs.countP fun m => (s.waitsAt m).any fun x => x.1 == n) + (s.gate n).far.length

/-- The registered waits whose threshold the counter has reached are released with DONE, the acquiring side of every signal
applied before (R306); then the wakes. -/
def State.testWaits (s : State) (n : Nat) : State :=
  let g := s.gate n
  let ids := (s.msgs.filter fun m => (s.waitsAt m).any fun x => x.1 == n && decide (x.2.toNat ≤ g.gcnt.toNat)).map Msg.id
  let s := s.modGate n fun g => { g with far := g.far.filter fun v => decide (g.gcnt.toNat < v.toNat) }
  (ids.foldl (fun s id => s.answer id 0 0 [] 0 g.clock) s).wake n

/-- A signal: the counter saturates, and the gate takes the signaller's clock (R306). -/
def State.signal (s : State) (n : Nat) (v : Word) (clock : List Nat) : State :=
  (s.modGate n fun g => { g with
    gcnt := BitVec.ofNat 64 (min (g.gcnt.toNat + v.toNat) (2 ^ 64 - 1))
    clock := if clock.isEmpty then g.clock else clockMax g.clock clock }).testWaits n

/-- Whether a context has been captured, so that its waits leave their gates (R308). -/
def State.parks (s : State) (ctx : Nat) : Bool :=
  match s.whereIs ctx with
  | some n => (match (s.sp n).run with | .captured k .. => k != 3 | _ => false)
  | none => true

/-- A wait is registered; that of a captured context is removed at once, its token taken (R299, R308). -/
def State.registerWait (s : State) (id : Nat) : State :=
  s.modMsg id fun m =>
    match m.op with
    | .gate op v b wlim _ => if s.parks m.ctx then { m with op := .gate op v b wlim true, st := .parked } else { m with st := .waiting s.gcyc }
    | _ => m

/-- What a gate whose home is another module finds of an operation: DONE, RATE, GATE, or below the threshold, where a wait is
registered and DONE or GATE comes later (log 1, DESIGN CHOICE). -/
def State.gateAway (s : State) (id op : Nat) (waiting : Bool) : State :=
  let (k, s) := s.choose 4
  match k with
  | 1 => s.refuse id tGATE
  | 2 => if waiting then s else s.answer id 3 0 [] 0 []
  | 3 => if waiting then s else if op = 2 then s.answer id 1 0 [] 0 [] else if op = 1 then s.registerWait id else s.answer id 0 0 [] 0 []
  | _ => s.answer id 0 0 [] 0 []

/-- The place of an operation in the order of one count at its gate (R305). -/
def gateRank (md p psn : Nat) : Nat := md * 2 ^ 17 + p * 2 ^ 10 + psn

/-- How far the order of this count has come at a gate. -/
def gateKey (n : Nat) : Nat := 2 ^ 80 + n
def State.gateInOrder (s : State) (n rank : Nat) : Bool := decide (tget 0 (gateKey n) s.served ≤ rank)
def State.noteGate (s : State) (n rank : Nat) : State := { s with served := tput (gateKey n) rank s.served }

/-- The other modules whose operations an entry of an access list may admit: that of MOD, or for a host party any by whose port it
may enter (R299, R307). -/
def State.farModules (s : State) (e : Word) : List Nat :=
  if !aclV e then []
  else (if aclHost e then List.range 64 else [aclMod e]).filter fun m => m != s.pf.modid.toNat && Config.linked m

/-- An operation of another module on a gate of this one: whose it is, its kind and its amount are free, as the access list
admits it (R299, R302, R307; log 1, DESIGN CHOICE). A wait of a task may leave again, or be reissued (R308). -/
def State.farOperation (s : State) (n i : Nat) : State :=
  let e := (s.gate n).entry i
  let ms := s.farModules e
  let (j, s) := s.choose ms.length
  let md := ms.getD j 0
  let rank := gateRank md (aclPart e) (if aclHost e then 1023 else 0)
  if ms.isEmpty || !s.gateInOrder n rank then s
  else
    let s := s.noteGate n rank
    let (k, s) := if aclHost e then (0, s) else s.choose 5
    let (v, s) := s.freeWord
    if k = 4 then s.modGate n fun g => { g with far := g.far.eraseIdx (v.toNat % (g.far.length + 1)) }
    else
      match (s.gate n).check md (aclPart e) (aclHost e) (k == 0) (k == 3) with
      | .ok g =>
        let s := s.modGate n fun _ => g
        if k = 0 then s.signal n v []
        else if k = 2 || decide (v.toNat ≤ g.gcnt.toNat) then s
        else s.modGate n fun g => { g with far := g.far ++ [v] }
      | _ => s

/-- A gate operation arrives at the gate unit (R302). -/
def State.gateAtHome (s : State) (id : Nat) : State :=
  match s.msg id with
  | none => s
  | some m =>
    match m.op with
    | .gate op v b _ charged =>
      let e := s.binding m.part b
      let n := bindGate e
      let waiting := match m.st with | .waiting _ => true | _ => false
      if bindMod e != s.pf.modid.toNat && waiting then s.gateAway id op true
      else if !m.isGoing || s.blockedByOrder m then s
      else if bindMod e != s.pf.modid.toNat then (if Config.linked (bindMod e) then s.gateAway id op false else s.refuse id tGATE)
      else
        match (s.gate n).check s.pf.modid.toNat m.part false (op == 0) charged with
        | .denied => s.refuse id tGATE
        | .rate => s.answer id 3 0 [] 0 []
        | .ok g =>
          let s := s.modGate n fun _ => g
          if op = 0 then (s.signal n v m.clock).answer id 0 0 [] 0 []
          else if v.toNat ≤ g.gcnt.toNat then s.answer id 0 0 [] 0 g.clock
          else if op = 2 then s.answer id 1 0 [] 0 []
          else s.registerWait id
    | _ => s

/-- Whether a registered wait has reached its limit (R302). -/
def State.waitOver (s : State) (m : Msg) : Bool :=
  match m.op, m.st with
  | .gate 1 _ _ wlim _, .waiting t => wlim != 0 && decide (wlim ≤ s.gcyc - t)
  | _, _ => false

def State.gateTimeout (s : State) (id : Nat) : State :=
  match s.msg id with
  | some m => if s.waitOver m then s.answer id 2 0 [] 0 [] else s
  | none => s

/-- Whether an entry gains a token in this GCYC count (R299). -/
def State.refillDue (s : State) (n i : Nat) : Bool :=
  let g := s.gate n
  let e := g.entry i
  aclV e && aclRefill e != 0 && s.gcyc % aclRefill e == 0 && decide ((g.tokensOf i).toNat < aclBurst e)

def State.refill (s : State) (n i : Nat) : State :=
  if s.refillDue n i then s.modGate n fun g => g.setTokens i (g.tokensOf i + 1) else s

/-! ### The hypervisor's writes (R298, R299, R304) -/

def State.writeGcnt (s : State) (n : Nat) (v : Word) : State :=
  if 4096 ≤ n then s else (s.modGate n fun g => { g with gcnt := v }).testWaits n

/-- VALID; clearing it fails every registered wait with GATE. -/
def State.writeValid (s : State) (port n : Nat) (v : Bool) : State :=
  if 4096 ≤ n then s
  else if !(s.gateLockers n).isEmpty then s.lockedWrite (s.gateLockers n) port
  else
    let s := s.modGate n fun g => { g with valid := v }
    if v then s
    else
      let s := s.modGate n fun g => { g with far := [] }
      ((s.msgs.filter fun m => (s.waitsAt m).any fun x => x.1 == n).map Msg.id).foldl (fun s id => s.refuse id tGATE) s

/-- An access-list entry; its bucket is filled. -/
def State.writeAcl (s : State) (port n i : Nat) (v : Word) : State :=
  if 4096 ≤ n || 8 ≤ i then s
  else if !(s.gateLockers n).isEmpty then s.lockedWrite (s.gateLockers n) port
  else s.modGate n fun g =>
    { g with acl := g.acl.set (i % 8) (v &&& aclMask) (Nat.mod_lt _ (by decide)) }.setTokens i (BitVec.ofNat 8 (aclBurst v))

/-! ### Host parties (R307) -/

/-- A host operation is refused: DENIED or RATE, and BIND. -/
def State.hostRefused (s : State) (p b : Nat) (rate : Bool) : State :=
  s.modPHost p fun h => { h with denied := h.denied || !rate, rate := h.rate || rate, bind := BitVec.ofNat 8 b }

/-- Whether a port may use the host side of a partition's bindings (R34, R363, R374, R383). -/
def State.hostParty (s : State) (port p b : Nat) : Bool :=
  decide (p < 64) && decide (b < 256) && decide (s.lease.holder.toNat = port + 1) && !(s.part p).trust.scrub && !s.errors.fatal
    && s.sec.stage != 0xF

/-- The rank of the host party of a partition, that entered by this module, at a gate (R305, R307). -/
def State.hostRank (s : State) (p : Nat) : Nat := gateRank s.pf.modid.toNat p 1023

/-- DENIED and RATE are cleared by writing 1, by the port that holds the lease. -/
def State.clearGateStatus (s : State) (port p : Nat) (v : Word) : State :=
  if !s.hostParty port p 0 then s.unsupported port
  else s.modPHost p fun h => { h with denied := h.denied && !v.getLsbD 0, rate := h.rate && !v.getLsbD 1 }

/-- HGSIG. -/
def State.hostSignal (s : State) (port p b : Nat) (v : Word) : State :=
  if !s.hostParty port p b then s.unsupported port
  else
    let e := s.binding p b
    if !bindV e then s.hostRefused p b false
    else if bindMod e != s.pf.modid.toNat then
      let (k, s) := s.choose 3
      if k = 2 || !Config.linked (bindMod e) then s.hostRefused p b false else if k = 1 then s.hostRefused p b true else s
    else
      match (s.gate (bindGate e)).check s.pf.modid.toNat p true true false with
      | .denied => s.hostRefused p b false
      | .rate => s.hostRefused p b true
      | .ok g => ((s.modGate (bindGate e) fun _ => g).noteGate (bindGate e) (s.hostRank p)).signal (bindGate e) v []

/-- Whether an operation of a host party may be applied in this count, by the order of R305. -/
def State.hostInOrder (s : State) (p b : Nat) : Bool :=
  let e := s.binding p b
  bindMod e != s.pf.modid.toNat || s.gateInOrder (bindGate e) (s.hostRank p)

/-- HGCNT. -/
def State.hostCount (s : State) (port p b : Nat) : State :=
  if !s.hostParty port p b then s.unsupported port
  else
    let e := s.binding p b
    if !bindV e then (s.hostRefused p b false).emit (.value port 0xFFFFFFFFFFFFFFFF)
    else if bindMod e != s.pf.modid.toNat then
      let (k, s) := s.choose 2
      if k = 1 || !Config.linked (bindMod e) then (s.hostRefused p b false).emit (.value port 0xFFFFFFFFFFFFFFFF)
      else let (v, s) := s.freeWord; s.emit (.value port v)
    else
      match (s.gate (bindGate e)).check s.pf.modid.toNat p true false true with
      | .ok g => (s.noteGate (bindGate e) (s.hostRank p)).emit (.value port g.gcnt)
      | _ => (s.hostRefused p b false).emit (.value port 0xFFFFFFFFFFFFFFFF)

/-- HWAKE. Log 29 (DEDUCED). -/
def State.hostWake (s : State) (port p b : Nat) (v : Word) : State :=
  if !s.hostParty port p b then s.unsupported port
  else
    let e := s.binding p b
    let arm (s : State) : State := s.modPHost p fun h => { h with hwake := h.hwake.set (b % 256) v (Nat.mod_lt _ (by decide)) }
    if !bindV e then s.hostRefused p b false
    else if bindMod e != s.pf.modid.toNat then
      let (k, s) := s.choose 2
      if k = 1 || !Config.linked (bindMod e) then s.hostRefused p b false else arm s
    else
      match (s.gate (bindGate e)).check s.pf.modid.toNat p true false true with
      | .ok _ => ((arm s).noteGate (bindGate e) (s.hostRank p)).wake (bindGate e)
      | _ => s.hostRefused p b false

/-- The bindings of a partition whose armed wakes watch a gate of another module. -/
def State.farWakes (s : State) (p : Nat) : List Nat :=
  (List.range 256).filter fun b =>
    let e := s.binding p b
    (s.part p).host.hwake[b % 256]'(Nat.mod_lt _ (by decide)) != 0 && bindV e && bindMod e != s.pf.modid.toNat && Config.linked (bindMod e)

/-- A gate of another module reaches the value that an armed wake watches for (log 1, DESIGN CHOICE). -/
def State.farWake (s : State) (p b : Nat) : State :=
  if (s.farWakes p).contains b then
    (s.modPHost p fun h => { h with hwake := h.hwake.set (b % 256) 0 (Nat.mod_lt _ (by decide)) }).interrupt p b
  else s

/-- What a port reads of the host side of a partition's bindings by its offset in BAR0; a read of HGCNT is `hostCount`. -/
def State.hostRegister (s : State) (p off : Nat) : Word :=
  let h := (s.part p).host
  if off = 0x0010 then BitVec.ofNat 64 (h.denied.toNat + 2 * h.rate.toNat + 256 * h.bind.toNat)
  else if 0x1400 ≤ off && off < 0x1C00 then h.hwake[(off - 0x1400) / 8 % 256]'(Nat.mod_lt _ (by decide))
  else 0

/-- A read of those registers from a port. -/
def State.hostRegRead (s : State) (port p off : Nat) : State :=
  if 0x0C00 ≤ off && off < 0x1400 then s.hostCount port p ((off - 0x0C00) / 8)
  else if !s.hostParty port p 0 then s.unsupported port
  else s.emit (.value port (s.hostRegister p off))

/-! ### The lease (R33 to R35) -/

/-- The counts of GCYC in 1 ms. -/
def msCounts : Nat := 800000

/-- The holder changes: the window starts and pending interrupts go out. -/
def State.setHolder (s : State) (h : BitVec 2) : State :=
  let l := s.lease
  let s := { s with lease := { l with holder := h, since := s.gcyc, epoch := if h = l.holder then l.epoch else l.epoch + 1
                                      pending := if h = 0 then l.pending else []
                                      writes := if h = 0 then l.writes else [] } }
  let s := if h = l.holder then s else s.blackBox 5 8 0xFF (bytesLE h.toNat 1 ++ bytesLE s.lease.epoch.toNat 4)
  if h = 0 then s
  else
    let s := l.writes.foldl (fun s x => s.emit (.memWrite (h.toNat - 1) x.1 x.2)) s
    l.pending.foldl (fun s x => s.emit (.msix x.1 x.2 (h.toNat - 1))) s

/-- A write of CLAIM from a port (R34). One that comes after an expiry that left no holder makes its port the holder, as the first
row of R34 has it; R35 calls a late renewal a standby. Log 48 (DESIGN CHOICE). -/
def State.claimLease (s : State) (port : Nat) (claim : BitVec 2) : State :=
  if 2 ≤ port then s
  else
    let me := BitVec.ofNat 2 (port + 1)
    let s := { s with lease := { s.lease with claim := claim } }
    if claim != me then s
    else if s.lease.holder = 0 then s.setHolder me
    else if s.lease.holder = me then { s with lease := { s.lease with since := s.gcyc } }
    else { s with lease := { s.lease with standby := me } }

/-- Whether the window has passed. -/
def State.leaseOver (s : State) : Bool := s.lease.holder != 0 && decide (msCounts ≤ s.gcyc - s.lease.since)

/-- The lease expires (R34). -/
def State.expireLease (s : State) : State :=
  if s.leaseOver then
    let next := s.lease.standby
    ({ s with lease := { s.lease with expired := true, standby := 0 } }).setHolder next
  else s

/-! ### The events -/

/-- R302. -/
def execGateOperationAtHome (id : Nat) (s : State) : Host.Outcome State Fault Refusal := .next (s.gateAtHome id)

/-- R302. -/
def execGateWaitTimeout (id : Nat) (s : State) : Host.Outcome State Fault Refusal := .next (s.gateTimeout id)

/-- R299. -/
def execGateTokenRefill (gate entry : Nat) (s : State) : Host.Outcome State Fault Refusal := .next (s.refill gate entry)

/-- R298. -/
def execGcntWrite (gate : Nat) (val : BitVec 64) (s : State) : Host.Outcome State Fault Refusal := .next (s.writeGcnt gate val)

/-- R304. -/
def execGateValidWrite (port gate : Nat) (val : Bool) (s : State) : Host.Outcome State Fault Refusal :=
  .next (s.writeValid port gate val)

/-- R299. -/
def execAclEntryWrite (port gate entry : Nat) (val : BitVec 64) (s : State) : Host.Outcome State Fault Refusal :=
  .next (s.writeAcl port gate entry val)

/-- R307. -/
def execHgsig (port part bnd : Nat) (val : BitVec 64) (s : State) : Host.Outcome State Fault Refusal :=
  .next (s.hostSignal port part bnd val)

/-- R307. -/
def execHgcnt (port part bnd : Nat) (s : State) : Host.Outcome State Fault Refusal :=
  .next (if bnd < 256 then s.hostRegRead port part (0x0C00 + 8 * bnd) else s.hostCount port part bnd)

/-- R307. -/
def execHwakeWrite (port part bnd : Nat) (val : BitVec 64) (s : State) : Host.Outcome State Fault Refusal :=
  .next (s.hostWake port part bnd val)

/-- R34. -/
def execLeaseClaim (port : Nat) (claim : BitVec 2) (s : State) : Host.Outcome State Fault Refusal := .next (s.claimLease port claim)

/-- R34. -/
def execLeaseExpiry (s : State) : Host.Outcome State Fault Refusal := .next s.expireLease

end Sys2Proof.Machine
end

