-- ==== Sys2Proof/Machine/Images.lean ====
section
/-!
DEFINITION. Presence blocks and context images (R344 to R351): the bytes of a block, what a captured context leaves
behind, what a newcomer finds, and the pull of a block.
-/

namespace Sys2Proof.Machine

/-! ### The bytes of a block -/

/-- The key of a memory block 6 to 293 of a context on spindle n (R187, R344). -/
def blockKey (bmap : Vector (BitVec 9) 256) (n b : Nat) : Nat :=
  if b < 38 then sliceKey n (0x1200000 + (b - 6) * 65536)
  else sliceKey n ((bmap[(b - 38) % 256]'(Nat.mod_lt _ (by decide))).toNat * 65536)

/-- Whether a block is a tile or a scratchpad block. -/
def isMemBlock (b : Nat) : Bool := decide (6 ≤ b) && decide (b < 294)

/-- The 64 KiB at a key with their form, poison and tags. -/
def Memory.takeBlock (m : Memory) (key : Nat) : SavedBlock :=
  let l := key / 64
  { bytes := (m.cells.filter fun c => decide (key ≤ c.1) && decide (c.1 < key + 65536)).map fun c => (c.1 - key, c.2)
    form := (m.form.filter fun x => decide (l ≤ x) && decide (x < l + 1024)).map (· - l)
    poison := (m.poison.filter fun x => decide (l ≤ x) && decide (x < l + 1024)).map (· - l)
    tags := (m.tags.filter fun x => decide (l ≤ x.1) && decide (x.1 < l + 1024)).map fun x => (x.1 - l, x.2) }

/-- Clears bytes with their form, poison and tags. -/
def Memory.scrub (m : Memory) (key len : Nat) : Memory :=
  let l := key / 64
  let k := len / 64
  { m with
    cells := m.cells.filter fun c => !(decide (key ≤ c.1) && decide (c.1 < key + len))
    form := m.form.filter fun x => !(decide (l ≤ x) && decide (x < l + k))
    poison := m.poison.filter fun x => !(decide (l ≤ x) && decide (x < l + k))
    tags := m.tags.filter fun x => !(decide (l ≤ x.1) && decide (x.1 < l + k)) }

/-- Puts a saved block at a key. -/
def Memory.putBlock (m : Memory) (key : Nat) (b : SavedBlock) : Memory :=
  let l := key / 64
  let m := m.scrub key 65536
  { m with
    cells := b.bytes.foldl (fun c x => cellSet c (key + x.1) x.2) m.cells
    form := b.form.foldl (fun c x => insN (l + x) c) m.form
    poison := b.poison.foldl (fun c x => insN (l + x) c) m.poison
    tags := b.tags.foldl (fun c x => tput (l + x.1) x.2 c) m.tags }

/-- All-zero bytes with every form bit 0 and no poison (R345). -/
def SavedBlock.isZero (b : SavedBlock) : Bool := b.bytes.isEmpty && b.form.isEmpty && b.poison.isEmpty

/-- The physical blocks of spindle n that a context holds as unpublished shadows of its own slice (R345). -/
def Eng.ownPool (e : Eng) (n : Nat) : List Nat :=
  e.chan.toList.flatMap fun ch => ch.shadows.filterMap fun x =>
    match x.of with
    | .block m _ pb => if m = n then some pb else none
    | .page .. => none

/-- The key in a table of saved blocks of a shadow-pool block. -/
def poolEntry (pb : Nat) : Nat := 310 + pb

/-- Saves blocks of a context on spindle n, the shadow pool with block 3. -/
def State.saveBlocks (s : State) (n : Nat) (e : Eng) (bs : List Nat) (t : Tbl SavedBlock) : Tbl SavedBlock :=
  bs.foldl (fun t b =>
    if isMemBlock b then tput b (s.mem.takeBlock (blockKey e.bmap n b)) t
    else if b = 3 then
      (e.ownPool n).foldl (fun t pb => tput (poolEntry pb) (s.mem.takeBlock (sliceKey n (65536 * pb))) t) t
    else t) t

/-- Whether a block of a context is all zero (R345); of blocks 2 to 4, whose bytes the spec does not lay out, none is taken
to be. Log 27 (DESIGN CHOICE). -/
def Ctx.blockZero (c : Ctx) (t : Tbl SavedBlock) (b : Nat) : Bool :=
  if isMemBlock b then (tget {} b t).isZero
  else if b = 0 then c.regs.x.all (· == 0)
  else if b = 1 then c.regs.y.all (· == 0)
  else b == 5 && c.regs.k.all (· == 0)

/-- The directory entry of a block of a context that has been written out (R345, R351). -/
def savedSrc (c : Ctx) (t : Tbl SavedBlock) (b : Nat) : BlockSrc :=
  if 294 ≤ b then .segment else if c.blockZero t b then .zero else .image

/-! ### The bytes of an image (R345, R370) -/

/-- The address of an image slot. -/
def State.slotAddr (s : State) (p slot : Nat) : Nat := (s.part p).cfg.imgbase.toNat * 0x200000 + slot * 0x1800000

/-- A source as a directory entry has it. -/
def BlockSrc.word : BlockSrc → Nat
  | .zero => 0
  | .image => 1
  | .segment => 2
  | .owed n => 3 + n * 0x10000

/-- Directory entry b. -/
def Image.entry (i : Image) (b : Nat) : Nat :=
  (match i.dir.find? fun x => x.1 == b with | some x => x.2.word | none => 0) + (if (tget {} b i.blocks).poison.isEmpty then 0 else 4)

/-- The header and the directory. -/
def Image.head (i : Image) (p : Nat) : List Byte :=
  let owes := i.dir.countP fun x => match x.2 with | .owed _ => true | _ => false
  bytesLE (0x474D4943 + i.state * 2 ^ 32 + i.kind * 2 ^ 40 + p * 2 ^ 48) 8 ++ bytesLE i.c 8
    ++ bytesLE i.ctx.ident.word.toNat 8 ++ bytesLE owes 4 ++ bytesLE i.rev.toNat 4 ++ List.replicate 32 0
    ++ (List.range 310).flatMap fun b => bytesLE (i.entry b) 8

/-- 128 bytes with a bit for each of the lines listed. -/
def lineBits (ls : List Nat) : List Byte := bytesLE (ls.foldl (fun v l => v + 2 ^ (l % 1024)) 0) 128

/-- Where a block stands in its slot, and its length. -/
def blockSpan (b : Nat) : Nat × Nat :=
  match b with
  | 0 => (0x1000, 256)
  | 1 => (0x1100, 256)
  | 2 => (0x2000, 4096)
  | 3 => (0x3000, 8192)
  | 4 => (0x5000, 16384)
  | 5 => (0x9000, 1024)
  | b => (0x20000 + 0x10000 * (b - 6), 65536)

/-- The places in a slot of the tag of a block, and of the form and poison bits of memory block i (R345, R370). -/
def tagPlace (b : Nat) : Nat := 0x14000 + 16 * b
def formPlace (i : Nat) : Nat := 0xA000 + 128 * i
def poisonPlace (i : Nat) : Nat := 0x16000 + 128 * i

/-- The same of shadow-pool block k, with the place of its bytes. -/
def poolPlace (k : Nat) : Nat := 0x1220000 + 0x10000 * k
def poolTagPlace (k : Nat) : Nat := 0x1422000 + 16 * k
def poolFormPlace (k : Nat) : Nat := 0x1420000 + 128 * k
def poolPoisonPlace (k : Nat) : Nat := 0x1421000 + 128 * k

/-- The number of a storage block among those that a map does not name: its place in the shadow pool. -/
def poolIndex (bmap : Vector (BitVec 9) 256) (pb : Nat) : Nat :=
  ((List.range 288).filter fun k => !bmap.toList.any fun m => m.toNat == k).countP fun k => decide (k < pb)

/-- An image of a partition by its slot. -/
def State.imageAt (s : State) (p slot : Nat) : Option Image := tfind slot (s.part p).sched.images

/-- Bytes of an image are written; a number is the length of bytes that the image key hides (R370), which are free
(log 1, DESIGN CHOICE) and noted, so that a pull finds whether they have been altered. -/
def State.writeSlot (s : State) (p slot off : Nat) (bs : Nat ⊕ List Byte) : State :=
  let a := s.slotAddr p slot + off
  match bs with
  | .inr bs => s.modMem fun m => m.write a bs
  | .inl n =>
    let (bs, s) := s.freeBytes n
    (s.modSched p fun d => { d with images := d.images.map fun x =>
      if x.1 == slot then (x.1, { x.2 with written := tput off bs x.2.written }) else x }).modMem fun m => m.write a bs

/-- The header and the directory as they stand go to the slot. -/
def State.writeHead (s : State) (p slot : Nat) : State :=
  match s.imageAt p slot with
  | some i => s.writeSlot p slot 0 (.inr (i.head p))
  | none => s

/-- A block of an image goes to its slot, with its tag, its form bits and its poison bits, the shadow pool with block 3. -/
def State.writeBlock (s : State) (p slot b : Nat) : State :=
  match s.imageAt p slot with
  | none => s
  | some i =>
    if !i.dir.any (fun x => x.1 == b && x.2 == .image) then s
    else
      let sp := blockSpan b
      let bits (s : State) (f q : Nat) (t : SavedBlock) : State :=
        (s.writeSlot p slot f (.inr (lineBits t.form))).writeSlot p slot q (.inr (lineBits t.poison))
      let s := (s.writeSlot p slot sp.1 (.inl sp.2)).writeSlot p slot (tagPlace b) (.inl 16)
      let s := if isMemBlock b then bits s (formPlace (b - 6)) (poisonPlace (b - 6)) (tget {} b i.blocks) else s
      if b = 3 then
        (i.ctx.eng.ownPool i.spin).foldl (fun s pb =>
          let k := poolIndex i.ctx.eng.bmap pb
          bits ((s.writeSlot p slot (poolPlace k) (.inl 65536)).writeSlot p slot (poolTagPlace k) (.inl 16)) (poolFormPlace k)
            (poolPoisonPlace k) (tget {} (poolEntry pb) i.blocks)) s
      else s

/-- The places in a slot that a pull of a block reads: what the image key hides with its tags, and the form and poison bits
(R345, R347, R370). `pools` are the shadow-pool blocks that come with block 3. -/
def pullPlaces (b : Nat) (pools : List Nat) : List (Nat × Nat) × List (Nat × Nat) :=
  let sp := blockSpan b
  ([sp, (tagPlace b, 16)] ++ (if b = 3 then pools.flatMap fun k => [(poolPlace k, 65536), (poolTagPlace k, 16)] else []),
    (if isMemBlock b then [(formPlace (b - 6), 128), (poisonPlace (b - 6), 128)] else [])
      ++ (if b = 3 then pools.flatMap fun k => [(poolFormPlace k, 128), (poolPoisonPlace k, 128)] else []))

/-- The lines of a block that the bits at a place of an image name. -/
def Memory.lineBitsAt (m : Memory) (a : Nat) : List Nat :=
  let v := ofBytesLE (m.read a 128)
  (List.range 1024).filter fun l => v.testBit l

/-- A saved block with the form and poison bits that its image holds (R347). -/
def Memory.bitsFrom (m : Memory) (b : SavedBlock) (f q : Nat) : SavedBlock := { b with form := m.lineBitsAt f, poison := m.lineBitsAt q }

/-- The slots in which images of a context are being written. -/
def State.slotsOf (s : State) (p id : Nat) : List Nat :=
  ((s.part p).sched.images.filter fun x => x.2.ctx.id == id && x.2.state == 0).map Prod.fst

/-! ### Contexts that left -/

/-- Changes what is saved of a context that is suspended or in an image of partition p, with its block sources. -/
def State.modSaved (s : State) (p id : Nat) (f : Tbl SavedBlock → Tbl SavedBlock)
    (g : Ctx → Tbl SavedBlock → List (Nat × BlockSrc) → List (Nat × BlockSrc)) : State :=
  s.modSched p fun d => { d with
    susp := d.susp.map fun u =>
      if u.sp.ctx.id == id then
        let t := f u.sp.saved
        { u with sp := { u.sp with saved := t, absent := g u.sp.ctx t u.sp.absent } }
      else u
    images := d.images.map fun x =>
      if x.2.ctx.id == id && x.2.state == 0 then
        let t := f x.2.blocks
        (x.1, { x.2 with blocks := t, dir := g x.2.ctx t x.2.dir })
      else x }

/-- The engine state of a context that is suspended or in an image of partition p. -/
def State.savedEng (s : State) (p id : Nat) : Eng :=
  match (s.part p).sched.susp.find? fun u => u.sp.ctx.id == id with
  | some u => u.sp.ctx.eng
  | none =>
    match (s.part p).sched.images.find? fun x => x.2.ctx.id == id with
    | some x => x.2.ctx.eng
    | none => {}

/-- Before a newcomer is placed, the bytes that the last context left in place are kept for it. They stay owed. -/
def State.stash (s : State) (n : Nat) : State :=
  let sp := s.sp n
  let id := sp.ctx.id
  let bs := (sp.owed.filter fun x => x.2 == id).map Prod.fst
  match sp.lastPart with
  | some p => if bs.isEmpty then s else s.modSaved p id (s.saveBlocks n (s.savedEng p id) bs) fun _ _ l => l
  | none => s

/-- An owed block is written out (R350, R351): its owner's entry names the image, and the debt is gone. -/
def State.writeOut (s : State) (n b : Nat) : State :=
  let sp := s.sp n
  match sp.owed.find? fun x => x.1 == b with
  | none => s
  | some (_, id) =>
    let s := s.setSp n { sp with
      owed := sp.owed.filter fun x => !(x.1 == b && x.2 == id)
      want := if sp.absent.any (fun x => x.1 == b) then sp.want else delN b sp.want }
    let inPlace := sp.ctx.id = id && sp.run == .empty
    (s.parts.map Prod.fst).foldl (fun s p =>
      let s := s.modSaved p id (if inPlace then s.saveBlocks n (s.savedEng p id) [b] else fun t => t) fun c t l =>
        l.filter (fun x => x.1 != b) ++ [(b, savedSrc c t b)]
      (s.slotsOf p id).foldl (fun s k => (s.writeBlock p k b).writeHead p k) s) s

/-- The blocks that a context on spindle n has present, and what else it leaves: its sources and what is saved of them.
A block that it never touched and that an earlier context still owes is saved as it stands (R350). -/
def State.leaveBlocks (s : State) (n : Nat) : List Nat × List (Nat × BlockSrc) × Tbl SavedBlock :=
  let sp := s.sp n
  let away := sp.absent.map Prod.fst
  let others := (sp.owed.filter fun x => x.2 != sp.ctx.id).map Prod.fst
  let here := (List.range 310).filter fun b => !away.contains b && !others.contains b
  let odd := others.filter fun b => !away.contains b
  let t := s.saveBlocks n sp.ctx.eng odd sp.saved
  (here, sp.absent ++ odd.map fun b => (b, savedSrc sp.ctx t b), t)

/-- The spindle that a context leaves: its bytes and its map stay, and the blocks listed are owed. -/
def Spindle.leave (sp : Spindle) (owes : List Nat) : Spindle :=
  { sp with
    run := .empty
    ctx := { id := sp.ctx.id, eng := { bmap := sp.ctx.eng.bmap } }
    absent := [], saved := [], image := none, want := [], recheck := [], written := []
    owed := sp.owed ++ owes.map fun b => (b, sp.ctx.id)
    firstIssue := none, charged := 0 }

/-! ### Newcomers -/

/-- Free choices between bytes last written and zero, lines with form or poison with them (R18, R350).
Log 30 (DESIGN CHOICE). -/
def State.freshSlice (s : State) (n : Nat) : State :=
  let k := sliceKey n 0
  let inside (x : Nat) : Bool := decide (k ≤ x) && decide (x < k + 0x2000000)
  let keep (x : Nat) : Bool := !inside x || (Config.freeByte (s.free + (x - k))).toNat % 2 == 0
  let line (l : Nat) : Bool := !inside (64 * l) || (Config.freeByte (s.free + 0x2000000 + (64 * l - k))).toNat % 2 == 0
  { s with
    mem := { s.mem with
      cells := s.mem.cells.filter fun c => keep c.1
      form := s.mem.form.filter line
      poison := s.mem.poison.filter line }
    free := s.free + 0x4000000 }

/-- The block map of a task that starts names each block itself (R188), and each byte of a LOCAL address stays what it
was (R18). Log 30 (DESIGN CHOICE). -/
def State.settleMap (s : State) (n : Nat) : State :=
  let at_ (b : Nat) : Nat := mapOff (s.ctxOf n).eng.bmap (65536 * b)
  let old := s.mem
  ((List.range 256).filter fun b => at_ b != 65536 * b).foldl (fun s b =>
    s.modMem fun m => m.putBlock (sliceKey n (65536 * b)) (old.takeBlock (sliceKey n (at_ b)))) s

/-- The slice as a newcomer of partition p finds it; `fresh` marks a task that starts. -/
def State.enterSlice (s : State) (n p : Nat) (fresh : Bool) : State :=
  let s := s.stash n
  let s := if (s.sp n).lastPart != some p then s.modMem fun m => m.scrub (sliceKey n 0) 0x2000000
    else if fresh then (s.settleMap n).freshSlice n else s
  s.modSp n fun sp => { sp with lastPart := some p }

/-- A context's shadows named for the spindle that it is restored on. -/
def Eng.moveShadows (e : Eng) (a b : Nat) : Eng :=
  { e with chan := e.chan.map fun ch => { ch with shadows := ch.shadows.map fun x =>
      match x.of with
      | .block m lb pb => if m = a then { x with of := .block b lb pb } else x
      | .page .. => x } }

/-! ### Image slots (R339, R345) -/

/-- Slots that hold an image: those of the table that are not discarded, and those of contexts that resumed lazily. -/
def State.slotsUsed (s : State) (p : Nat) : List Nat :=
  let d := (s.part p).sched
  ((d.images.filter fun x => x.2.state != 2).map Prod.fst)
    ++ (s.spindles.filter fun x => x.2.lastPart == some p).filterMap (fun x => x.2.image)
    ++ d.susp.filterMap fun u => u.sp.image

/-- IMGFREE (R339). -/
def State.imgFree (s : State) (p : Nat) : Nat := (s.part p).cfg.imgcnt.toNat - (s.slotsUsed p).eraseDups.length

/-- Slots that checkpoints under way will take. -/
def State.slotsDue (s : State) (p : Nat) : Nat :=
  let ns := s.psns p
  (s.cuts.filter fun k => k.kind == 1).foldl (fun a k => a + k.spins.countP ns.contains) 0
    + ns.countP fun n => (s.ctxOf n).ckpt || (match (s.sp n).run with | .captured 1 .. => true | _ => false)

/-- The lowest free slot. -/
def State.freeSlot (s : State) (p : Nat) : Option Nat :=
  let used := s.slotsUsed p
  (List.range (s.part p).cfg.imgcnt.toNat).find? fun i => !used.contains i

/-- Marks the images of contexts as discarded, with the blocks that they owe (R16, R351). -/
def State.discardImages (s : State) (p : Nat) (slots : List Nat) : State :=
  let ids := ((s.part p).sched.images.filter fun x => slots.contains x.1).map fun x => x.2.ctx.id
  let drop (x : Nat × Image) : Nat × Image :=
    if slots.contains x.1 then (x.1, { x.2 with state := 2, blocks := [], dir := [], written := [] }) else x
  let s := s.modSched p fun d => { d with images := d.images.map drop }
  let s := (slots.filter fun k => (s.imageAt p k).isSome).foldl (fun s k => s.writeHead p k) s
  { s with spindles := s.spindles.map fun x => (x.1, { x.2 with owed := x.2.owed.filter fun o => !ids.contains o.2 }) }

end Sys2Proof.Machine
end

