-- ==== Sys2Proof/Machine/Records.lean ====
section
/-!
DEFINITION. How the device reads and writes records in memory (R8, R14, R28, R37), and segments (R19 to R24).
-/

namespace Sys2Proof.Machine

/-! ### Reading records -/

/-- What a read of a record gives: its bytes, an untranslatable page, an uncorrectable error with the address of its
line and the key of the line, if it is one of the module, or a wait. -/
inductive Rec where
  | ok (bs : List Byte)
  | unmapped
  | err (a : Word) (key : Option Nat)
  | wait

/-- A LOCAL address as the same byte's SHARED address, under which the scheduler keeps it. -/
def Ctx.shared (c : Ctx) (a : Word) : Word :=
  if inLocal a.toNat then BitVec.ofNat 64 (sharedBase + c.ident.psn.toNat * sharedStride + a.toNat) else a

/-- The LOCAL address of a byte of the spindle's own slice that the scheduler names by its SHARED address. -/
def Ctx.unshared (c : Ctx) (a : Word) : Word :=
  let b := sharedBase + c.ident.psn.toNat * sharedStride
  if b ≤ a.toNat ∧ inLocal (a.toNat - b) then BitVec.ofNat 64 (a.toNat - b) else a

/-- Where a byte at a SHARED or GLOBAL address of a partition stands, by the table as it is. -/
def State.recLoc (s : State) (p a : Nat) : Option Loc :=
  if inGlobal a then
    match s.walk p (a - globalBase) with
    | some l => if leafSHP l.entry then none else some (leafLoc l.entry l.base (a - globalBase))
    | none => none
  else
    match asShared (s.npOf p) a with
    | some (psn, off) => (s.physOf p psn).map fun n => .slice n off
    | none => none

/-- The blocks of a slice that a record needs. -/
def State.locMiss (s : State) (l : Loc) (len : Nat) : List (Nat × Nat) :=
  match l with
  | .slice n off => (s.missingOf n (blocksOf off len)).map fun b => (n, b)
  | _ => []

/-- Whether a hold keeps the scheduler from bytes (R194, R249), or a locked tile from a write of them (R252). -/
def State.locBusy (s : State) (l : Loc) (len : Nat) (write : Bool) : Bool :=
  match l with
  | .slice n off => s.sliceBusy n off len write
  | _ => false

/-- At most 64 bytes in one line. Log 34 (DESIGN CHOICE). -/
def State.readPiece (s : State) (p a len : Nat) : Rec × State :=
  match s.recLoc p a with
  | none => (.unmapped, s)
  | some l =>
    let miss := s.locMiss l len
    if !miss.isEmpty then (.wait, miss.foldl (fun (s : State) (x : Nat × Nat) => s.askBlock x.1 x.2) s)
    else if s.locBusy l len false then (.wait, s)
    else
      match l with
      | .host _ =>
        if s.lease.holder = 0 then (.wait, s)
        else
          let (k, s) := s.choose 2
          if k = 1 then (.err (BitVec.ofNat 64 (a / 64 * 64)) none, s)
          else let r := s.readLoc l len; (.ok r.1, r.2)
      | _ =>
        match s.mem.poisonIn (s.keyOf l) len with
        | some k => (.err (BitVec.ofNat 64 (a / 64 * 64)) (some k), s)
        | none => let r := s.homeRead l len; (.ok r.1, r.2.2)

/-- A record of any length from a 64-byte boundary, line by line. -/
def State.readRecord (s : State) (p : Nat) (a : Nat) (len : Nat) : Rec × State :=
  (List.range (ceilDiv len 64)).foldl (fun x i =>
    match x.1 with
    | .ok bs =>
      match x.2.readPiece p (a + 64 * i) (min 64 (len - 64 * i)) with
      | (.ok cs, s) => (.ok (bs ++ cs), s)
      | r => r
    | _ => x) (.ok [], s)

/-- A field of a record. -/
def fieldAt (bs : List Byte) (off len : Nat) : Nat := ofBytesLE ((bs.drop off).take len)

/-- Whether bytes are all zero. -/
def zeroAt (bs : List Byte) (off len : Nat) : Bool := ((bs.drop off).take len).all (· == 0)

/-- R8: on a 64-byte boundary, in LOCAL, SHARED or GLOBAL (as the scheduler keeps addresses: SHARED or GLOBAL). -/
def State.recordAddr (s : State) (p : Nat) (a : Word) : Bool :=
  a.toNat % 64 == 0 && (inShared (s.npOf p) a.toNat || inGlobal a.toNat)

/-- Whether a partition has writes to records that wait. -/
def State.recWaits (s : State) (p : Nat) : Bool := s.recWrites.any fun w => w.part == p

/-- A write of a record is done at its home, if the home takes it in this count: none of its blocks is absent, nothing holds
its lines, and its place in the order of the count has not passed (R194, R259, R347). It is done whatever W of its leaf holds.
Log 48 (DESIGN CHOICE). -/
def State.recordDone (s : State) (w : RecWrite) : Option State :=
  match s.recLoc w.part w.addr.toNat with
  | some l =>
    if !(s.locMiss l w.bytes.length).isEmpty || s.locBusy l w.bytes.length true || !s.inOrder 320 l w.bytes.length true then none
    else some (s.homeWrite 320 l w.bytes (List.replicate 8 0))
  | none => some s

/-- The write of a record takes its place behind those that wait, and asks for the blocks that it misses. -/
def State.recordLater (s : State) (w : RecWrite) : State :=
  let s := match s.recLoc w.part w.addr.toNat with
    | some l => (s.locMiss l w.bytes.length).foldl (fun (s : State) (x : Nat × Nat) => s.askBlock x.1 x.2) s
    | none => s
  { s with recWrites := s.recWrites ++ [w] }

/-- A device-written field (R9, R25). -/
def State.writeRecord (s : State) (p : Nat) (a : Word) (off : Nat) (bs : List Byte) : State :=
  let w : RecWrite := { part := p, addr := a + BitVec.ofNat 64 off, bytes := bs }
  match (if s.recWaits p then none else s.recordDone w) with
  | some s => s
  | none => s.recordLater w

/-- The first waiting write of a partition. -/
def State.recNext (s : State) (p : Nat) : Option RecWrite := s.recWrites.find? fun w => w.part == p

/-- Whether it can be done now. -/
def State.recReady (s : State) (p : Nat) : Bool := match s.recNext p with | some w => (s.recordDone w).isSome | none => false

/-- It is done. -/
def State.recordStep (s : State) (p : Nat) : State :=
  match s.recNext p with
  | none => s
  | some w =>
    match s.recordDone w with
    | some s => { s with recWrites := s.recWrites.eraseP fun x => x.part == p }
    | none => s

/-! ### Segments -/

/-- The fields of a segment header (R19). -/
structure SegHead where
  words : Nat
  lo : Nat
  hi : Nat
  cbWords : Nat
  keySlot : Nat
  keyId : Word
  nonce : Word
  size : Nat
  mapOff : Nat
  tagOff : Nat
  cbOff : Nat
  codeOff : Nat
  sig : List Byte

def segHead (b : List Byte) : SegHead where
  words := fieldAt b 0x008 4
  lo := fieldAt b 0x00C 4
  hi := fieldAt b 0x010 4
  cbWords := fieldAt b 0x014 2
  keySlot := fieldAt b 0x016 2
  keyId := BitVec.ofNat 64 (fieldAt b 0x018 8)
  nonce := BitVec.ofNat 64 (fieldAt b 0x020 8)
  size := fieldAt b 0x02C 4
  mapOff := fieldAt b 0x030 4
  tagOff := fieldAt b 0x034 4
  cbOff := fieldAt b 0x038 4
  codeOff := fieldAt b 0x03C 4
  sig := (b.drop 0x040).take 384

/-- NB, the code blocks of 1 KiB (R19). -/
def SegHead.blocks (h : SegHead) : Nat := ceilDiv h.words 256

/-- The sections: offset and length. -/
def SegHead.sections (h : SegHead) : List (Nat × Nat) :=
  [(h.mapOff, 32 * h.blocks), (h.tagOff, 16 * h.blocks), (h.cbOff, 4 * h.cbWords), (h.codeOff, 1024 * h.blocks)]

/-- Whether no two sections share a byte. -/
def apart : List (Nat × Nat) → Bool
  | [] => true
  | x :: xs => (xs.all fun y => x.2 == 0 || y.2 == 0 || !overlap x.1 x.2 y.1 y.2) && apart xs

/-- The range and layout rules of R19. Log 32 (DEDUCED). -/
def segHeadOk (b : List Byte) : Bool :=
  let h := segHead b
  fieldAt b 0 4 == 0x534C4753 && fieldAt b 4 2 == 1 && zeroAt b 6 2 && zeroAt b 0x028 4 && zeroAt b 0x1C0 64
    && decide (1 ≤ h.words) && decide (h.words ≤ 65536) && decide (h.lo ≤ h.hi) && decide (h.hi ≤ 0x1000000)
    && h.lo % 64 == 0 && h.hi % 64 == 0 && decide (h.cbWords ≤ 256)
    && (h.sections.all fun x => x.1 % 64 == 0 && decide (0x200 ≤ x.1) && decide (x.1 + x.2 ≤ h.size)) && apart h.sections

/-- Bit w of a bundle-start map (R20). -/
def mapBit (m : List Byte) (w : Nat) : Bool := (m.getD (w / 8) 0).getLsbD (w % 8)

/-- 32-bit words of bytes. -/
def wordsOf (bs : List Byte) : List (BitVec 32) := (chunksOf 4 bs.length bs).map fun c => BitVec.ofNat 32 (ofBytesLE c)

/-- What reading the bytes of a segment gives. -/
inductive SegRead where
  | ok (g : Segment)
  | refused
  | wait

/-- A section by its offset. -/
def State.readSections (s : State) (p a : Nat) : List (Nat × Nat) → Rec × List (List Byte) × State
  | [] => (.ok [], [], s)
  | (o, n) :: xs =>
    match s.readRecord p (a + o) n with
    | (.ok bs, s) =>
      match s.readSections p a xs with
      | (r, ys, s) => (r, bs :: ys, s)
    | (r, s) => (r, [], s)

/-- Counts and logs an uncorrectable error at a key (R382): a line of a slice has no physical address that the spec
states, and a free one is logged (log 1, DESIGN CHOICE). A failed read of host memory has no row in R380 and is not counted.
Log 48 (DESIGN CHOICE). -/
def State.logLine (s : State) (k : Nat) : State :=
  if isHbm k then s.logUE k 2 (k / 2 ^ 38)
  else if k < 2 ^ 60 then s.logUE k 3 (if k / 2 ^ 40 % 16 < 8 then 8 else 9)
  else let (v, s) := s.freeWord; s.logUE v.toNat 1 (dieOf ((k - sliceKey 0 0) / 0x2000000))

/-- An uncorrectable error that the device meets with no task to take a trap (R21, R31). -/
def State.logRead (s : State) (r : Rec) : State :=
  match r with
  | .err _ (some k) => s.logLine k
  | _ => s

/-- Whether every byte of a range of GLOBAL addresses lies on a page that the partition's translation maps: pages are of 64 KiB or
more (R325). -/
def State.mapped (s : State) (p a len : Nat) : Bool :=
  (List.range (ceilDiv len 65536)).all (fun k => (s.recLoc p (a + 65536 * k)).isSome)
    && (len == 0 || (s.recLoc p (a + len - 1)).isSome)

/-- Reads and checks a segment (R20, R21). Bytes between its sections must lie on mapped pages, and are not read.
Log 48 (DESIGN CHOICE). -/
def State.readSegment (s : State) (p : Nat) (a : Word) : SegRead × State :=
  match s.readRecord p a.toNat 512 with
  | (.wait, s) => (.wait, s)
  | (.ok b, s) =>
    if !segHeadOk b || !s.mapped p a.toNat (segHead b).size then (.refused, s)
    else
      let h := segHead b
      match s.readSections p a.toNat h.sections with
      | (.wait, _, s) => (.wait, s)
      | (.ok _, [m, t, c, code], s) =>
        let ws := wordsOf code
        let clean := ((ws.drop h.words).all (· == 0)) && (rangeFrom h.words (256 * h.blocks - h.words)).all fun w => !mapBit m w
        match (s.part p).trust.signers.find? fun x => x.1 == h.keyId with
        | none => (.refused, s)
        | some (_, n) =>
          if !clean || !mapBit m 0 || !pssVerify n (b.take 0x40 ++ m ++ t ++ c) h.sig then (.refused, s)
          else
            (.ok { id := 0, part := p, addr := a, code := ws.take h.words, heads := (List.range h.words).map (mapBit m)
                   cbank := wordsOf c, seglo := BitVec.ofNat 25 h.lo, seghi := BitVec.ofNat 25 h.hi, keyslot := h.keySlot
                   nonce := h.nonce, tags := chunksOf 16 h.blocks t, codeOff := h.codeOff, mapOff := h.mapOff }, s)
      | (r, _, s) => (.refused, s.logRead r)
  | (r, s) => (.refused, s.logRead r)

/-- The blocks of the store that a segment takes. -/
def Segment.blocks (g : Segment) : Nat := ceilDiv g.code.length 256

/-- Whether the node of a task that is being placed names a segment. -/
def State.placedNames (s : State) (n : Nat) (g : Segment) : Bool :=
  let c := s.ctxOf n
  (s.sp n).run == .loading && c.partN == g.part
    && (((tfind c.ident.handle.toNat (s.part g.part).sched.graphs).bind fun x => x.nodes[c.ident.node.toNat]?).any fun nd => nd.seg == g.addr)

/-- Whether a segment of a stand is in use (R24): a task on the stand names it, one that is being placed included. -/
def State.segInUse (s : State) (k : Nat) (g : Segment) : Bool :=
  let id := g.id
  let onStand (n : Nat) : Bool := standOf n == k
  (s.spindles.any fun x => onStand x.1 && ((x.2.run != .empty && x.2.seg == id) || s.placedNames x.1 g))
    || s.parts.any fun p =>
      (p.2.sched.susp.any fun u => onStand u.spin && u.sp.seg == id)
        || p.2.sched.images.any fun x => onStand x.2.spin && x.2.seg == id && x.2.state == 0
            && (s.sp x.2.spin).owed.any fun o => o.2 == x.2.ctx.id

/-- The bases at which so many blocks fit (R62). Log 32 (DEDUCED). -/
def freeBases (segs : List Segment) (k : Nat) : List Nat :=
  (List.range (257 - k)).filter fun b => segs.all fun g => !overlap b k g.base g.blocks

/-- Unloads segments that are not in use, the earliest left first, until so many blocks fit (R24); of two that
left in one count, the one loaded earlier. Log 32 (DEDUCED), log 48 (DESIGN CHOICE). -/
def State.makeRoom (s : State) (k need : Nat) : Nat → State
  | 0 => s
  | fuel + 1 =>
    let segs := (s.stand k).segs
    if !(freeBases segs need).isEmpty then s
    else
      let idle := segs.filter fun g => !s.segInUse k g
      match idle.find? fun g => idle.all fun h => decide (g.lastUse ≤ h.lastUse) with
      | none => s
      | some g => (s.modStand k fun st => { st with segs := st.segs.filter fun h => h.id != g.id }).makeRoom k need fuel

/-- The segment of a stand that a partition's address names, loaded if it is not there (R21): its number, or a refusal, or a
wait. Log 32 (DEDUCED). -/
def State.segmentFor (s : State) (k p : Nat) (a : Word) : Option (Option Nat) × State :=
  match (s.stand k).segs.find? fun g => g.part == p && g.addr == a with
  | some g => (some (some g.id), s)
  | none =>
    match s.readSegment p a with
    | (.wait, s) => (none, s)
    | (.refused, s) => (some none, s)
    | (.ok g, s) =>
      let s := s.makeRoom k g.blocks (s.stand k).segs.length
      let bases := freeBases (s.stand k).segs g.blocks
      if bases.isEmpty then (some none, s)
      else
        let (i, s) := s.choose bases.length
        let (id, s) := s.fresh
        (some (some id), s.modStand k fun st => { st with segs := st.segs ++ [{ g with id := id, base := bases.getD i 0 }] })

/-- The tag of code block b as it should be (R20). -/
def Segment.tagOf (g : Segment) (key : List Byte) (b : Nat) : List Byte :=
  let ws := (g.code.drop (256 * b)).take 256
  let ws := ws ++ List.replicate (256 - ws.length) 0
  (gcmSeal key (bytesLE g.nonce.toNat 8 ++ (bytesLE b 4).reverse) (ws.flatMap fun w => bytesLE w.toNat 4) []).2

/-- Whether the stored tag of a block is right (R20, R22); an empty slot has no key. -/
def State.tagRight (s : State) (g : Segment) (b : Nat) : Bool :=
  match (tget {} g.keyslot (s.part g.part).trust.keys).key with
  | some key => g.tagOf key b == g.tags.getD b []
  | none => false

end Sys2Proof.Machine
end

