-- ==== Sys2Proof/Machine/Graphs.lean ====
section
/-!
DEFINITION. Task graphs and contracts as the scheduler keeps them (R8 to R17, R25 to R28, R31, R37, R45): what makes them
malformed, opening, failure and completion of nodes, and how a task leaves its spindle (R16, R321, R378).
-/

namespace Sys2Proof.Machine

/-! ### Records of a graph -/

/-- The tile tasks of a node (R11). -/
def Node.tasks (n : Node) : Nat := n.icount * n.jcount

/-- A node record (R10) with its dependence entries. -/
def nodeOf (share : Word → Word) (b : List Byte) (deps : List Nat) : Node :=
  let f := fieldAt b 0x0C 2
  let k := fieldAt b 0x30 8
  { seg := BitVec.ofNat 64 (fieldAt b 0 8), entry := fieldAt b 8 4
    gang := bitOf f 0, sync := bitOf f 1, fixed := bitOf f 2, strict := bitOf f 3, det := bitOf f 4
    level := fieldAt b 0x0E 1, i0 := fieldAt b 0x10 2, icount := fieldAt b 0x12 2
    j0 := fieldAt b 0x14 2, jcount := fieldAt b 0x16 2, tokens := fieldAt b 0x18 2, deps := deps
    policy := BitVec.ofNat 32 (fieldAt b 0x20 4), estimate := BitVec.ofNat 32 (fieldAt b 0x24 4)
    param := BitVec.ofNat 64 (fieldAt b 0x28 8)
    contract := if k = 0 then 0 else share (BitVec.ofNat 64 k) }

/-- The rules of R10 to R13 and R17 on node k of a graph for a partition with np spindles. -/
def nodeOk (np k : Nat) (b : List Byte) (ndeps : Nat) (n : Node) : Bool :=
  n.seg.toNat % 512 == 0 && inGlobal n.seg.toNat
    && decide (fieldAt b 0x0C 2 < 32) && decide (n.level < 8) && zeroAt b 0x0F 1 && zeroAt b 0x38 8
    && decide (1 ≤ n.icount) && decide (1 ≤ n.jcount) && decide (n.i0 + n.icount ≤ 65536) && decide (n.j0 + n.jcount ≤ 65536)
    && decide (fieldAt b 0x1A 2 ≤ 255) && decide (fieldAt b 0x1C 4 + fieldAt b 0x1A 2 ≤ ndeps)
    && (n.deps.all fun d => decide (d < k)) && n.policy.extractLsb' 4 12 == 0
    && (n.gang || !(n.sync || n.fixed || n.strict)) && (n.fixed || !n.strict) && (!n.gang || decide (n.tasks ≤ np))

/-- What reading a graph gives. -/
inductive GraphRead where
  | ok (g : Graph)
  | malformed
  | err (r : Rec)
  | wait

/-- The reserved bytes of a contract record (R8, R25). -/
def reservedZero (b : List Byte) : Bool := zeroAt b 0x16 2 && zeroAt b 0x1C 4 && zeroAt b 0x30 16

/-- The contract rules of R26 on the nodes, by the record as it stands in memory at the launch; the flag of each contract node
says that JOBS is 0. Log 48 (DESIGN CHOICE). -/
def State.contractRules (s : State) (p : Nat) : List Node → List Bool → GraphRead × State
  | [], _ => (.malformed, s)
  | n :: ns, acc =>
    let go (forever : Bool) (s : State) : GraphRead × State :=
      if n.deps.any fun d => acc.getD d false then (.malformed, s)
      else if ns.isEmpty then (.ok { addr := 0, nodes := [], runs := [] }, s)
      else s.contractRules p ns (acc ++ [forever])
    if n.contract = 0 then go false s
    else if !s.recordAddr p n.contract then (.malformed, s)
    else
      match s.readRecord p n.contract.toNat 64 with
      | (.ok b, s) =>
        if !reservedZero b || fieldAt b 0x20 4 != 1 || !n.gang || n.tasks != fieldAt b 0x14 2 then (.malformed, s)
        else go (fieldAt b 0x18 4 == 0) s
      | (.unmapped, s) => (.malformed, s)
      | (.wait, s) => (.wait, s)
      | (r, s) => (.err r, s)

/-- Reads a graph (R8, R9, R17). `share` turns LOCAL addresses of the launcher into SHARED ones; a graph at a LOCAL address
lies in LOCAL whole, where a dependence array without entries lies nowhere. Log 48 (DESIGN CHOICE). -/
def State.readGraph (s : State) (p : Nat) (share : Word → Word) (at_ : Word) : GraphRead × State :=
  let a := share at_
  if !s.recordAddr p a then (.malformed, s)
  else
    match s.readRecord p a.toNat 64 with
    | (.wait, s) => (.wait, s)
    | (.unmapped, s) => (.malformed, s)
    | (.err x k, s) => (.err (.err x k), s)
    | (.ok h, s) =>
      let nn := fieldAt h 6 2
      let off := fieldAt h 8 4
      let nd := fieldAt h 0x0C 4
      if fieldAt h 0 4 != 0x48524750 || fieldAt h 4 2 != 1 || decide (nn < 1) || decide (1024 < nn) || off % 64 != 0
          || decide (off < 64 + 64 * nn) || decide (65535 < nd) || !zeroAt h 0x10 16 || !zeroAt h 0x2C 20
          || (inLocal at_.toNat && !inLocal (at_.toNat + max (63 + 64 * nn) (if nd = 0 then 0 else off + 2 * nd - 1))) then (.malformed, s)
      else
        match s.readSections p a.toNat [(64, 64 * nn), (off, 2 * nd)] with
        | (.ok _, [nb, db], s) =>
          let deps := (chunksOf 2 db.length db).map ofBytesLE
          let recs := chunksOf 64 nn nb
          let nodes := recs.map fun b => nodeOf share b ((deps.drop (fieldAt b 0x1C 4)).take (fieldAt b 0x1A 2))
          if !((List.range nn).zip (recs.zip nodes)).all fun x => nodeOk (s.npOf p) x.1 x.2.1 nd x.2.2 then (.malformed, s)
          else
            match s.contractRules p nodes [] with
            | (.ok _, s) => (.ok { addr := a, nodes := nodes, runs := nodes.map fun _ => {} }, s)
            | r => r
        | (.wait, _, s) => (.wait, s)
        | (.unmapped, _, s) => (.malformed, s)
        | (r, _, s) => (.err r, s)

/-! ### Graphs as they run -/

def State.graph (s : State) (p h : Nat) : Option Graph := tfind h (s.part p).sched.graphs
def State.modGraph (s : State) (p h : Nat) (f : Graph → Graph) : State :=
  match s.graph p h with
  | some g => s.modSched p fun d => { d with graphs := tput h (f g) d.graphs }
  | none => s
def Graph.modRun (g : Graph) (k : Nat) (f : NodeRun → NodeRun) : Graph :=
  { g with runs := (List.range g.runs.length).map fun i => if i = k then f (g.runs.getD i {}) else g.runs.getD i {} }

def State.schedDue (s : State) (p : Nat) : State := s.modSched p fun d => { d with stepDue := true }

/-- The node of a live graph. -/
def State.nodeAt (s : State) (p h k : Nat) : Option Node := (s.graph p h).bind fun g => g.nodes[k]?

/-- The units of work of a node (R11, R51). -/
def Node.works (n : Node) (h k now : Nat) : List Work :=
  let w (t : Nat) : Work := { handle := h, node := k, t := t, gang := n.gang, level := n.level, tokens := n.tokens, readyAt := now }
  if n.gang then [w 0] else (List.range n.tasks).map w

/-- An admitted contract by its record's address. -/
def State.contract (s : State) (p a : Nat) : Option Contract := (s.part p).sched.contracts.find? fun k => k.addr.toNat == a

/-- Every task of a contract node counts as retired: JOBSDONE has reached JOBS (R26). -/
def State.retireNode (s : State) (p h k : Nat) : State :=
  s.modGraph p h fun g => g.modRun k fun r => { r with retired := (match g.nodes[k]? with | some n => n.tasks | none => 0) }

/-- A node whose dependences have retired: its tasks become ready, or its contract may release (R13, R26, R51). The node of a
contract that has ended by then retires at once; one that was revoked is cancelled already (R27). -/
def State.openNode (s : State) (p h k : Nat) : State :=
  match s.nodeAt p h k with
  | none => s
  | some n =>
    let s := s.modGraph p h fun g => g.modRun k fun r => { r with opened := true }
    if n.contract != 0 then (if (s.contract p n.contract.toNat).isNone then (s.retireNode p h k).schedDue p else s)
    else (s.modSched p fun d => { d with ready := d.ready ++ n.works h k s.gcyc }).schedDue p

/-- Whether every task of a node has retired (R13). -/
def Graph.nodeDone (g : Graph) (k : Nat) : Bool :=
  match g.nodes[k]?, g.runs[k]? with
  | some n, some r => !r.failed && !r.cancelled && decide (n.tasks ≤ r.retired)
  | _, _ => false

/-- Whether a node is to open: its dependences have retired. -/
def Graph.opens (g : Graph) (k : Nat) : Bool :=
  match g.nodes[k]?, g.runs[k]? with
  | some n, some r => !r.opened && !r.failed && !r.cancelled && n.deps.all g.nodeDone
  | _, _ => false

/-- Opens every node whose dependences have retired, in increasing index, which is after those that it depends on (R17). -/
def State.openReady (s : State) (p h : Nat) : State :=
  match s.graph p h with
  | none => s
  | some g =>
    (List.range g.nodes.length).foldl (fun s k =>
      match s.graph p h with
      | some g => if g.opens k then s.openNode p h k else s
      | none => s) s

/-- A graph is accepted (R31, R37), with the clock that its launch releases (R265). -/
def State.acceptGraph (s : State) (p h : Nat) (g : Graph) (clock : List Nat) : State :=
  let s := s.writeRecord p g.addr 0x20 (bytesLE 0 4 ++ bytesLE 0 4 ++ bytesLE 0xFFFFFFFF 4)
  (s.modSched p fun d => { d with graphs := tput h { g with clock := clock } d.graphs }).openReady p h

/-- Whether work of a graph is placed, ready, at rest or suspended. -/
def State.graphBusy (s : State) (p h : Nat) : Bool :=
  let d := (s.part p).sched
  d.placed.any (fun x => x.work.handle == h) || d.ready.any (fun w => w.handle == h) || d.resting.any (fun w => w.handle == h)

/-- The final status of a graph (R15, R16, R31). -/
def State.finishGraph (s : State) (p h : Nat) : State :=
  match s.graph p h with
  | none => s
  | some g =>
    let ended := (List.range g.nodes.length).all fun k =>
      g.nodeDone k || (match g.runs[k]? with | some r => r.failed || r.cancelled | none => true)
    if g.status != 0 || !ended || s.graphBusy p h then s
    else
      let st := if g.failnode = 0xFFFFFFFF then 1 else g.failStatus
      let s := s.writeRecord p g.addr 0x20 (bytesLE st.toNat 4)
      let s := s.modGraph p h fun g => { g with status := st }
      if h = 0 then s.modSched p fun d => { d with rootstat := 2, graphs := tdel 0 d.graphs } else s

/-! ### Failure of a node (R16) -/

/-- Nodes that depend on a failed one are cancelled. -/
def Graph.cancel (g : Graph) : Graph :=
  (List.range g.nodes.length).foldl (fun g k =>
    match g.nodes[k]?, g.runs[k]? with
    | some n, some r =>
      let bad (d : Nat) : Bool := match g.runs[d]? with | some x => x.failed || x.cancelled | none => false
      if !r.failed && n.deps.any bad then g.modRun k fun r => { r with cancelled := true } else g
    | _, _ => g) g

/-! ### Contracts (R25 to R27) -/

def State.modContract (s : State) (p a : Nat) (f : Contract → Contract) : State :=
  s.modSched p fun d => { d with contracts := d.contracts.map fun k => if k.addr.toNat == a then f k else k }

/-- The device-written fields of a record. -/
def State.writeContract (s : State) (p : Nat) (k : Contract) (state : Nat) : State :=
  s.writeRecord p k.addr 0x20 (bytesLE state 4 ++ bytesLE k.misses 4 ++ bytesLE k.overruns 4 ++ bytesLE k.jobsDone 4)

/-- D_c (R43). -/
def Contract.due (k : Contract) : Nat := if k.deadline = 0 then k.period else k.deadline

/-- The release count of job n (R26). -/
def Contract.releaseOf (k : Contract) (n : Nat) : Nat := k.first + n * k.period

/-- The open nodes of live graphs that name a contract. -/
def State.contractNodes (s : State) (p a : Nat) : List (Nat × Nat) :=
  (s.part p).sched.graphs.flatMap fun x =>
    ((List.range x.2.nodes.length).filter fun k =>
      match x.2.nodes[k]?, x.2.runs[k]? with
      | some n, some r => n.contract.toNat == a && r.opened && !r.failed && !r.cancelled && !x.2.nodeDone k
      | _, _ => false).map fun k => (x.1, k)

/-- The open node of a live graph that runs a contract's jobs: its handle and index. Where several open nodes name one contract,
the lowest handle and index. Log 48 (DESIGN CHOICE). -/
def State.contractNode (s : State) (p a : Nat) : Option (Nat × Nat) :=
  (s.contractNodes p a).head?

/-- A contract leaves STATE 1 (R45): its utilisation goes with it. -/
def State.endContract (s : State) (p a state : Nat) : State :=
  match s.contract p a with
  | none => s
  | some k =>
    (s.writeContract p k state).modSched p fun d => { d with contracts := d.contracts.filter fun x => x.addr.toNat != a }

/-- A job counts as done or skipped; the last one ends the contract and retires the nodes that name it (R26, R27). -/
def State.countJob (s : State) (p a : Nat) (missed : Bool) : State :=
  let s := s.modContract p a fun k => { k with jobsDone := k.jobsDone + 1, misses := if missed then k.misses + 1 else k.misses }
  match s.contract p a with
  | none => s
  | some k =>
    if k.jobs != 0 && decide (k.jobs ≤ k.jobsDone) then
      let ns := s.contractNodes p a
      let s := ns.foldl (fun s x => s.retireNode p x.1 x.2) (s.endContract p a 2)
      (((ns.map Prod.fst).eraseDups).foldl (fun s h => (s.openReady p h).finishGraph p h) s).schedDue p
    else s.writeContract p k 1

/-- The last task of a job has left (R27). -/
def State.jobEnds (s : State) (p a : Nat) : State :=
  match s.contract p a with
  | none => s
  | some k =>
    match k.running with
    | none => s
    | some (n, _) =>
      (s.modContract p a fun k => { k with running := none }).countJob p a (decide (k.releaseOf n + k.due < s.gcyc))

/-! ### A task leaves -/

/-- Whether a placed unit is that of a context. A task of a gang that was placed again alone is a unit of its own. -/
def Placed.holds (x : Placed) (c : Ctx) : Bool :=
  x.gid == c.gang && x.work.handle == c.ident.handle.toNat && x.work.node == c.ident.node.toNat
    && (x.work.gang || x.work.t == c.ident.t.toNat)

/-- The placed unit of a context. -/
def State.unitOf (s : State) (c : Ctx) : Option Placed :=
  let ps := (s.part c.partN).sched.placed.filter fun x => x.holds c
  match ps.find? fun x => !x.work.gang with
  | some x => some x
  | none => ps.head?

/-- A spindle of a unit has lost its task: the unit goes with its last one. -/
def State.leaveUnit (s : State) (p n : Nat) (u : Placed) : State :=
  let left := delN n u.left
  let same (x : Placed) : Bool := x.gid == u.gid && x.work.gang == u.work.gang && x.work.t == u.work.t
  let s := s.modSched p fun d => { d with
    placed := if left.isEmpty then d.placed.filter fun x => !same x
      else d.placed.map fun x => if same x then { x with left := left } else x }
  match u.work.job with
  | some a =>
    let d := (s.part p).sched
    let mine (w : Work) : Bool := w.job == some a
    if d.placed.any (fun x => mine x.work) || (d.ready ++ d.resting).any mine then s else s.jobEnds p a
  | none => s

/-- The tasks of released jobs that still wait for their spindles are dropped with their units. -/
def State.dropQueued (s : State) (p : Nat) (mine : Work → Bool) : State :=
  let d := (s.part p).sched
  let unit (q : Nat × Nat) : Option Placed := d.placed.find? fun u => u.gid == q.2 && mine u.work
  let s := s.modSched p fun d => { d with queue := d.queue.filter fun q => (unit q).isNone }
  d.queue.foldl (fun s q =>
    match (s.part p).sched.placed.find? fun u => u.gid == q.2 && mine u.work with
    | some u => s.leaveUnit p q.1 u
    | none => s) s

/-- A node fails with a status (R15, R16): its tasks that are not yet placed are dropped. -/
def State.failNode (s : State) (p h k : Nat) (status : BitVec 32) : State :=
  match s.graph p h with
  | none => s
  | some g =>
    let already := match g.runs[k]? with | some r => r.failed | none => true
    if already || g.status != 0 then s
    else
      let first := g.failnode = 0xFFFFFFFF || (g.failAt = s.gcyc && decide (k < g.failnode.toNat))
      let g := (g.modRun k fun r => { r with failed := true }).cancel
      let g := if first then { g with failnode := BitVec.ofNat 32 k, failStatus := status, failAt := s.gcyc } else g
      let s := if first then s.writeRecord p g.addr 0x28 (bytesLE k 4) else s
      let mine (w : Work) : Bool := w.handle == h && w.node == k
      let d := (s.part p).sched
      let slots := ((d.ready ++ d.resting ++ d.placed.map Placed.work).filter mine).flatMap Work.images
      let s := s.discardImages p slots
      let s := s.modSched p fun d => { d with
        graphs := tput h g d.graphs
        ready := d.ready.filter fun w => !mine w
        resting := d.resting.filter fun w => !mine w
        stepDue := true }
      (s.dropQueued p mine).finishGraph p h

/-- The nodes of live graphs that name a contract and have not ended. -/
def State.namesContract (s : State) (p a : Nat) : List (Nat × Nat) :=
  ((s.part p).sched.graphs.filter fun x => x.2.status == 0).flatMap fun x =>
    ((List.range x.2.nodes.length).filter fun k =>
      match x.2.nodes[k]?, x.2.runs[k]? with
      | some n, some r => n.contract.toNat == a && !r.failed && !r.cancelled && !x.2.nodeDone k
      | _, _ => false).map fun k => (x.1, k)

/-- A withdrawal or a revocation (R27, R45): every node that names it is cancelled with status 3. -/
def State.revoke (s : State) (p a : Nat) : State :=
  let s := s.endContract p a 3
  (s.namesContract p a).foldl (fun s x => s.failNode p x.1 x.2 3) s

/-- A task of gang `gid` leaves a stand: the last use of its segment (R24), and the internal cuts made for that gang, which
end with it. -/
def State.leaveStand (s : State) (n seg gid : Nat) : State :=
  let s := s.modStand (standOf n) fun st => { st with segs := st.segs.map fun g => if g.id == seg then { g with lastUse := s.gcyc } else g }
  { s with cuts := (s.cuts.map fun k => if k.gid == gid && gid != 0 then { k with spins := delN n k.spins } else k).filter
                      fun k => !k.spins.isEmpty }

/-- The segment of the task on a spindle; of one that is being placed, the loaded segment that its node names (R24). -/
def State.segNamed (s : State) (n : Nat) : Nat :=
  if (s.sp n).run != .loading then (s.sp n).seg
  else
    match (s.stand (standOf n)).segs.find? fun g => s.placedNames n g with
    | some g => g.id
    | none => 0

/-- What a context leaves behind when it is ended: its waits at gates and its transactions end, messages under way go on
(R308). -/
def State.endWaits (s : State) (p id : Nat) : State :=
  let waits (m : Msg) : Bool := m.ctx == id && (match m.st, m.op with | .waiting _, .gate .. => true | .parked, _ => true | _, _ => false)
  ({ s with msgs := s.msgs.filter fun m => !waits m }).modSched p fun d => { d with txq := d.txq.filter fun t => t.ctx != id }

/-- The last task of a timed domain has left, with `cyc` domain cycles behind it: a phase that its arrivals had filled completes in
the count in which the cycle of R287 would have come. Log 25 (DEDUCED). -/
def State.domainGone (s : State) (c : Ctx) : State :=
  if !c.domain || !(s.gangCtxs c.partN c.gang).isEmpty then s
  else s.modPart c.partN fun x => { x with bars := x.bars.map fun b => match b.due with
    | some (g, t) => if g == c.gang then { b with due := some (0, s.gcyc + (t - c.domCycle)) } else b
    | none => b }

/-- The phases that complete in a count after their domains have gone (R287). -/
def State.goneTick (s : State) : State := s.parts.foldl (fun s x => s.barrierTick x.1 0 s.gcyc) s

/-- The spindle is freed. -/
def State.vacate (s : State) (n : Nat) : State :=
  let c := s.ctxOf n
  let u := s.unitOf c
  let s := (s.endWaits c.partN c.id).leaveStand n (s.segNamed n) c.gang
  let s := (s.modSp n fun sp => sp.leave []).domainGone c
  (match u with | some u => s.leaveUnit c.partN n u | none => s).schedDue c.partN

/-- The task on a spindle is ended as a kill: its node fails (R15, R16, R321, R341). -/
def State.killTask (s : State) (n : Nat) : State :=
  if (s.sp n).run == .empty then s
  else
    let c := s.ctxOf n
    let h := c.ident.handle.toNat
    let slots := (s.sp n).image.toList
    let s := if (s.sp n).run == .loading then s.discardImages c.partN slots else s
    -- the failure is recorded before the task leaves, so that no job or node of it counts as done
    ((s.failNode c.partN h c.ident.node.toNat 3).vacate n).finishGraph c.partN h

/-- A suspended task is ended as a kill (R351). -/
def State.killSusp (s : State) (p : Nat) (u : Susp) : State :=
  let c := u.sp.ctx
  let h := c.ident.handle.toNat
  let s := (s.failNode p h c.ident.node.toNat 3).endWaits p c.id
  let s := (s.modSched p fun d => { d with susp := d.susp.filter fun x => x.sp.ctx.id != c.id }).domainGone c
  let s := s.modSp u.spin fun sp => { sp with owed := sp.owed.filter fun o => o.2 != c.id }
  let s := s.leaveStand u.spin u.sp.seg c.gang
  let s := match s.unitOf c with | some x => s.leaveUnit p u.spin x | none => s
  (s.finishGraph p h).schedDue p

/-- A task retires (R378): DONE counts it, the spindle is free, dependants may become ready.
Log 26 (DEDUCED), log 35 (DEDUCED). -/
def State.retire (s : State) (n : Nat) : State :=
  let c := s.ctxOf n
  let p := c.partN
  let h := c.ident.handle.toNat
  let k := c.ident.node.toNat
  let s := s.landAll n ((c.pipe ++ c.hpipe).flatMap Pending.lands)
  let job := match s.unitOf c with | some u => u.work.job.isSome | none => false
  let s := s.modGraph p h fun g =>
    let g := { g with done := g.done + 1 }
    g.modRun k fun r => { r with
      retired := if job then r.retired else r.retired + 1
      clock := clockMax r.clock (s.clockOf (dieOf n)) }
  let s := match s.graph p h with
    | some g => s.writeRecord p g.addr 0x24 (bytesLE g.done.toNat 4)
    | none => s
  (((s.vacate n).openReady p h).finishGraph p h).schedDue p

/-- Whether a task may retire: TEND's completion ordering is met (R377, R378), and no switch of an update holds its transaction
(R385). -/
def State.mayRetire (s : State) (n : Nat) : Bool :=
  (s.ctxOf n).inTend && s.tendDone n && (s.sp n).run == .running && !s.update.switching

/-- TEND's completion ordering is met (R378). -/
def execTaskRetirement (n : Nat) (s : State) : Host.Outcome State Fault Refusal :=
  .next (if s.mayRetire n then s.retire n else s)

end Sys2Proof.Machine
end

