-- ==== Sys2Proof/Machine/Capture.lean ====
section
/-!
DEFINITION. Cuts and captures (R336, R340 to R343), images (R345, R351), and the return of a captured context (R341, R348 to
R350).
-/

namespace Sys2Proof.Machine

/-! ### Pulls (R347) -/

/-- The instruction words of a presence block come from the load of the segment, which is not read again (R23, R24); the spindle
checks its tags again at the next first fetch (R66). Log 53 (DEDUCED). -/
def State.reload (s : State) (n b : Nat) : State :=
  s.modSp n fun sp => { sp with recheck := (rangeFrom (16 * (b - 294)) 16).foldl (fun l k => insN k l) sp.recheck }

/-- A saved block as a pull finds it: with the form and poison bits that the image slot holds, if there is one (R347). -/
def State.pulled (s : State) (n b : Nat) : SavedBlock :=
  let sp := s.sp n
  let t := tget {} b sp.saved
  match sp.image with
  | some k => let a := s.slotAddr sp.ctx.partN k; s.mem.bitsFrom t (a + formPlace (b - 6)) (a + poisonPlace (b - 6))
  | none => t

/-- The same of a shadow-pool block, which comes with block 3. -/
def State.pulledPool (s : State) (n pb : Nat) : SavedBlock :=
  let sp := s.sp n
  let t := tget {} (poolEntry pb) sp.saved
  match sp.image with
  | some k =>
    let a := s.slotAddr sp.ctx.partN k
    let i := poolIndex sp.ctx.eng.bmap pb
    s.mem.bitsFrom t (a + poolFormPlace i) (a + poolPoisonPlace i)
  | none => t

/-- The content of a block from its source. A block that another spindle owes comes over the mesh and clears the debt. -/
def State.fillBlock (s : State) (n b : Nat) (src : BlockSrc) : State :=
  let sp := s.sp n
  let e := sp.ctx.eng
  let put (s : State) (t : SavedBlock) : State := s.modMem fun m => m.putBlock (blockKey e.bmap n b) t
  match src with
  | .segment =>
    if 294 ≤ b then s.reload n b
    else
      -- the constant bank, as at entry (R18, R380)
      match s.segOf n with
      | some g => s.modCtx n fun c => { c with regs := { c.regs with k := Vector.ofFn fun i => g.cbank.getD i.val 0 } }
      | none => s
  | .zero => if isMemBlock b then put s {} else s
  | .image =>
    if isMemBlock b then put s (s.pulled n b)
    else if b = 3 then
      (e.ownPool n).foldl (fun s pb => let t := s.pulledPool n pb; s.modMem fun m => m.putBlock (sliceKey n (65536 * pb)) t) s
    else s
  | .owed m =>
    let s := if isMemBlock b then put s (s.mem.takeBlock (blockKey (s.ctxOf m).eng.bmap m b)) else s
    s.modSp m fun x => { x with owed := x.owed.filter fun o => !(o.1 == b && o.2 == sp.ctx.id) }

/-- A pull of a block is done: a block that another context owes is written out first (R350). -/
def State.pullBlock (s : State) (n b : Nat) : State :=
  let sp := s.sp n
  let s := if sp.owed.any (fun x => x.1 == b && x.2 != sp.ctx.id) then s.writeOut n b else s
  let s := match sp.absent.find? fun x => x.1 == b with
    | some x => s.fillBlock n b x.2
    | none => s
  s.modSp n fun sp => { sp with absent := sp.absent.filter fun x => x.1 != b, want := delN b sp.want }

/-- The address of an uncorrectable error that a pull of a block from an image slot meets: of a poisoned line of what it reads, or of
bytes whose tag fails, because they are not those that were written (R347, R370). -/
def State.slotError (s : State) (n b slot : Nat) : Option Word :=
  let sp := s.sp n
  let a := s.slotAddr sp.ctx.partN slot
  let r := pullPlaces b ((sp.ctx.eng.ownPool n).map (poolIndex sp.ctx.eng.bmap))
  match (r.1 ++ r.2).findSome? fun x => s.mem.poisonIn (a + x.1) x.2 with
  | some k => some (BitVec.ofNat 64 k)
  | none =>
    (r.1.find? fun x => match tfind x.1 sp.written with | some bs => s.mem.read (a + x.1) x.2 != bs | none => false).map fun x =>
      BitVec.ofNat 64 (a + x.1)

/-- The address of an uncorrectable error that a pull of a block meets: of a line of the segment in memory, or of the image slot.
Log 53 (DEDUCED). -/
def State.pullError (s : State) (n b : Nat) : Option Word :=
  let sp := s.sp n
  match sp.absent.find? fun x => x.1 == b with
  | some (_, .segment) =>
    (s.segOf n).bind fun g =>
      let len := 1024 * ceilDiv g.code.length 256
      let lo := 16384 * (b - 294)
      if b < 294 || len ≤ lo then none
      else match (s.readRecord g.part (g.addr.toNat + g.codeOff + lo) (min 16384 (len - lo))).1 with | .err a _ => some a | _ => none
  | some (_, .image) => sp.image.bind (s.slotError n b)
  | _ => none

/-- A pull is done, or meets an uncorrectable error, which escalates MEMERR and kills the task. -/
def State.pullDone (s : State) (n b : Nat) : State :=
  match s.pullError n b with
  | some a => (s.escalate n { code := tMEMERR, slot := 7, val := a, epc := (s.ctxOf n).pc.setWidth 16 }).killTask n
  | none => s.pullBlock n b

/-- The blocks that a STRICT or EAGER context has before its first bundle (R349), in increasing number: of an image, those whose
entry is not ZERO; of a suspended context, `every` one that was forced out. -/
def State.pullAll (s : State) (n : Nat) (every : Bool := false) : State :=
  let bs := ((s.sp n).absent.filter fun x => every || x.2 != .zero).map Prod.fst
  ((List.range 310).filter bs.contains).foldl (fun s b => if (s.sp n).run == .empty then s else s.pullDone n b) s

/-! ### Cuts (R340) -/

/-- Whether a cut is for the context on a spindle: one that the scheduler makes is for one unit alone (R55, R58). -/
def State.cutFits (s : State) (k : Cut) (n : Nat) : Bool := k.gid == 0 || ((s.sp n).run != .empty && (s.ctxOf n).gang == k.gid)

/-- A cut stops the spindle in this count (R340). -/
def State.cutDue (s : State) (n : Nat) : Bool :=
  s.cuts.any fun k => k.spins.contains n && decide (k.c ≤ s.gcyc) && s.cutFits k n

/-! ### The stop (R340 to R342) -/

/-- How a spindle is held, by an escalation or by a cut of KIND 3: whether by ESC outside handler mode (R318, R341). -/
def RunState.heldBy : RunState → Option Bool
  | .held vol => some vol
  | .captured 3 _ _ was => some (was.getD false)
  | _ => none

/-- A registered wait leaves its gate with the counts that it has waited (R308). -/
def State.parkWaits (s : State) (id : Nat) : State :=
  let park (m : Msg) : Msg :=
    if m.ctx != id then m
    else
      match m.op, m.st with
      | .gate 1 v b wlim _, .waiting t =>
        let left := wlim - (s.gcyc - t)
        if wlim != 0 && left == 0 then { m with st := .replied 2 0 [] 0 [] }
        else { m with op := .gate 1 v b left true, st := .parked }
      | _, _ => m
  { s with msgs := s.msgs.map park }

/-- Fixed-time accesses name their homes by task while they are withdrawn (R291). -/
def State.withdrawn (s : State) (ds : List DomOp) : List DomOp :=
  ds.map fun d => { d with home := (s.ctxOf d.home).ident.t.toNat }

/-- A spindle stops, by a cut of a kind, for a reason, at a count. -/
def State.stopAs (s : State) (n kind why c : Nat) : State :=
  let sp := s.sp n
  if kind = 3 then
    match sp.run.heldBy with
    | some v => s.setSp n { sp with run := .captured 3 why c (some v) }
    | none =>
      let s := s.escalate n { code := tCUT, slot := 7, val := BitVec.ofNat 64 c, epc := sp.ctx.pc.setWidth 16 }
      s.modSp n fun x => { x with
        run := .captured 3 why c none
        ctx := { x.ctx with fusion := sp.ctx.fusion, cameFrom := sp.ctx.cameFrom } }
  else
    -- results due by the captured SFC are written, and the cipher engine stops at the end of its line
    let s := (if (s.missingOf n sp.ctx.landBlocks).isEmpty then s.landDue n else s).cipherCut n
    let sp := s.sp n
    let ds := s.withdrawn sp.ctx.domOps
    (s.parkWaits sp.ctx.id).setSp n { sp with
      run := .captured kind why c sp.run.heldBy
      ctx := { sp.ctx with lock := none, wait := none, domOps := ds, ckpt := kind == 0 && sp.ctx.ckpt, clock := s.clockOf (dieOf n) } }

/-- Whether a spindle can be stopped now: nothing that it loads or waits for in a transaction is unfinished. -/
def State.mayStop (s : State) (n : Nat) : Bool :=
  !s.txBusy n &&
    match (s.sp n).run with
    | .running | .held _ => true
    | .captured k .. => k == 3
    | _ => false

/-! ### Quiescence (R343) -/

/-- A captured spindle whose streams stand at a boundary (R227). -/
def State.quiet (s : State) (n : Nat) : Bool :=
  (s.ctxOf n).eng.chan.toList.all fun ch =>
    match ch.stream with
    | some st => ch.state != 1 || ch.done.toNat % 4096 == 0 || decide (st.total ≤ st.done)
    | none => true

/-- The directory that an image begins with (R345, R350). -/
def dirOf (n : Nat) (owes : List Nat) (rest : List (Nat × BlockSrc)) : Tbl BlockSrc := rest ++ owes.map fun b => (b, .owed n)

/-- Whether the node of a context has failed, so that its checkpoint is dropped (R16). -/
def State.nodeFailed (s : State) (c : Ctx) : Bool :=
  match s.graph c.partN c.ident.handle.toNat with
  | some g => (match g.runs[c.ident.node.toNat]? with | some r => r.failed | none => true)
  | none => true

/-- The task index of an image. -/
def State.imageTask (s : State) (p slot : Nat) : Nat :=
  match tfind slot (s.part p).sched.images with
  | some i => i.ctx.ident.t.toNat
  | none => 0

/-- Adds an image slot to those of a unit, by task index. -/
def insBy (f : Nat → Nat) (k : Nat) : List Nat → List Nat
  | [] => [k]
  | j :: t => if f k < f j then k :: j :: t else j :: insBy f k t

/-- A checkpointed context rests until its image is complete (R51, R351). A gang that is saved whole is one unit. A job's task then
becomes ready work like another, and R54 places it. Log 48 (DESIGN CHOICE). -/
def State.restImage (s : State) (p n slot : Nat) (c : Ctx) (whole : Bool) : State :=
  match s.unitOf c with
  | none => s.discardImages p [slot]
  | some u =>
    if s.nodeFailed c then ((s.discardImages p [slot]).leaveUnit p n u).finishGraph p c.ident.handle.toNat
    else if whole && u.work.gang then
      let same (x : Placed) : Bool := x.gid == u.gid && x.work.gang
      let imgs := insBy (s.imageTask p) slot u.work.images
      let w : Work := { u.work with images := imgs, gid := c.gang }
      let s := s.modSched p fun d => { d with placed := d.placed.map fun x => if same x then { x with work := w } else x }
      let s := if (delN n u.left).isEmpty then s.modSched p fun d => { d with resting := d.resting ++ [w] } else s
      s.leaveUnit p n u
    else
      let w : Work := { u.work with t := c.ident.t.toNat, gang := false, images := [slot], gid := c.gang }
      (s.modSched p fun d => { d with resting := d.resting ++ [w] }).leaveUnit p n u

/-- An image begins in a slot (R345). -/
def State.newImage (s : State) (p n slot kind c : Nat) (was : Option Bool) (ctx : Ctx) (seg : Nat) (dir : Tbl BlockSrc)
    (blocks : Tbl SavedBlock) (charge : Option Nat × Nat) : State :=
  let i : Image := { state := 0, kind := kind, c := c, was := was, ctx := ctx, rev := s.sec.rev, spin := n, seg := seg
                     dir := dir, blocks := blocks, charged := charge.2, firstIssue := charge.1 }
  let s := s.modSched p fun d => { d with images := tput slot i d.images }
  dir.foldl (fun s x => s.writeBlock p slot x.1) (s.writeHead p slot)

/-- Whether messages of a context are still on their way to their homes: a task that is ended waits for them (R278, R343). -/
def State.underWay (s : State) (f : Msg → Bool) : Bool :=
  s.msgs.any fun m => f m && m.isGoing && (match m.op with | .join _ => false | _ => true)

/-- Quiescence is reached on a captured spindle (R341, R343). -/
def State.quiesce (s : State) (n : Nat) : State :=
  let sp := s.sp n
  let p := sp.ctx.partN
  match sp.run with
  | .captured kind why c was =>
    if kind = 3 || !s.quiet n || (kind = 2 && s.underWay fun m => m.ctx == sp.ctx.id) then s
    else if kind = 2 then s.killTask n
    else
      let (owes, rest, t) := s.leaveBlocks n
      if kind = 0 then
        let run : RunState := match was with | some v => .held v | none => .running
        let u : Susp := { spin := n, why := why, sp := { sp with run := run, absent := rest, saved := t, owed := [], want := [] } }
        ((s.modSched p fun d => { d with susp := d.susp ++ [u] }).setSp n (sp.leave owes)).schedDue p
      else
        match s.freeSlot p with
        | none => s
        | some slot =>
          let s := s.newImage p n slot kind c was sp.ctx sp.seg (dirOf n owes rest) t (sp.firstIssue, sp.charged)
          let s := s.setSp n (sp.leave owes)
          ((s.restImage p n slot sp.ctx (sp.ctx.domain || why == 4)).leaveStand n sp.seg sp.ctx.gang).schedDue p
  | _ => s

/-- A suspended context becomes an image: of an evicted partition (R358), or of a gang that is a victim (R56), and then
`whole`. -/
def State.suspToImage (s : State) (p : Nat) (u : Susp) (whole : Bool := false) : State :=
  match s.freeSlot p with
  | none => s
  | some slot =>
    let owes := ((s.sp u.spin).owed.filter fun o => o.2 == u.sp.ctx.id).map Prod.fst
    let s := s.modSched p fun d => { d with susp := d.susp.filter fun x => x.sp.ctx.id != u.sp.ctx.id }
    let s := s.newImage p u.spin slot 1 s.gcyc u.sp.run.heldBy u.sp.ctx u.sp.seg (dirOf u.spin owes u.sp.absent) u.sp.saved
      (u.sp.firstIssue, u.sp.charged)
    (s.restImage p u.spin slot u.sp.ctx (u.sp.ctx.domain || whole)).leaveStand u.spin u.sp.seg u.sp.ctx.gang

/-! ### The cut count (R340) -/

/-- A cut has reached spindles. -/
def State.cutReached (s : State) (k : Cut) (g : List Nat) : State :=
  { s with cuts := (s.cuts.map fun x => if x == k then { x with spins := x.spins.filter fun m => !g.contains m } else x).filter
                      fun x => !x.spins.isEmpty }

/-- A victim's cut finds its task suspended on the spindle, or being suspended (R58): the task is ended or saved where it
is. -/
def State.cutSusp (s : State) (k : Cut) (n : Nat) : State :=
  let mine (u : Susp) : Bool := k.why == 4 && u.spin == n && u.sp.ctx.gang == k.gid
  match s.parts.find? fun x => x.2.sched.susp.any mine with
  | none => s.cutReached k [n]
  | some (p, x) =>
    match x.sched.susp.find? mine with
    | none => s
    | some u =>
      if k.kind != 1 then (s.cutReached k [n]).killSusp p u
      else if (s.freeSlot p).isSome then (s.cutReached k [n]).suspToImage p u true
      else s

/-- The cut count has come for spindle n (R340): a timed domain stops whole. -/
def State.cutStop (s : State) (n : Nat) : State :=
  match s.cuts.find? fun k => k.spins.contains n && decide (k.c ≤ s.gcyc) with
  | none => s
  | some k =>
    if !s.cutFits k n then s.cutSusp k n
    else
    let g := if (s.sp n).run == .empty then [n] else s.groupOf n
    if g.any fun m => (s.sp m).run == .loading || s.txBusy m then s
    else
      let s := s.cutReached k g
      let again (m : Nat) : Bool := k.why == 4 && (match (s.sp m).run with | .captured 0 .. => true | _ => false)
      -- a victim's task that is being suspended is saved or ended instead
      let s := (g.filter again).foldl (fun s m => s.modSp m fun sp =>
        { sp with run := match sp.run with | .captured _ _ c was => .captured k.kind k.why c was | r => r }) s
      -- fixed-time accesses of the whole domain are named by task before its spindles stop
      (g.filter s.mayStop).foldl (fun s m => s.stopAs m k.kind k.why k.c) s

/-! ### The drain (R351) -/

/-- The messages of a context that are still under way. -/
def State.inFlight (s : State) (id : Nat) : Bool := s.msgs.any fun m => m.ctx == id && m.st != .parked

/-- Whether the image of a context is complete. -/
def State.imageWhole (s : State) (i : Image) : Bool :=
  i.state == 0 && i.dir.all (fun x => match x.2 with | .owed _ => false | _ => true) && !s.inFlight i.ctx.id

/-- The lowest block that an image's context owes on spindle n. -/
def State.drainNext (s : State) (n : Nat) : Option Nat :=
  let ids := s.parts.flatMap fun p => (p.2.sched.images.filter fun x => x.2.state == 0).map fun x => x.2.ctx.id
  let bs := ((s.sp n).owed.filter fun o => ids.contains o.2).map Prod.fst
  bs.find? fun b => bs.all fun k => decide (b ≤ k)

/-- An image is complete: its unit becomes ready when all of its images are (R51, R351, R352). -/
def State.completeImage (s : State) (p slot : Nat) : State :=
  let s := (s.modSched p fun d => { d with
    images := d.images.map fun x => if x.1 == slot then (x.1, { x.2 with state := 1 }) else x }).writeHead p slot
  let d := (s.part p).sched
  let done (k : Nat) : Bool := match tfind k d.images with | some i => i.state == 1 | none => true
  match d.resting.find? fun w => w.images.contains slot with
  | none => s
  | some w =>
    if w.images.all done then
      (s.modSched p fun d => { d with resting := d.resting.filter fun x => x != w, ready := d.ready ++ [{ w with readyAt := s.gcyc }] }).schedDue p
    else s

/-- The images of contexts that were saved on spindle n and are complete. -/
def State.wholeOn (s : State) (n : Nat) : List (Nat × Nat) :=
  s.parts.flatMap fun p => (p.2.sched.images.filter fun x => x.2.spin == n && s.imageWhole x.2).map fun x => (p.1, x.1)

/-- One owed block is drained, and what is complete by then becomes ready. Log 27 (DESIGN CHOICE). -/
def State.drain (s : State) (n : Nat) : State :=
  let s := match s.drainNext n with | some b => s.writeOut n b | none => s
  (s.wholeOn n).foldl (fun s x => s.completeImage x.1 x.2) s

/-! ### The return (R341, R348, R349) -/

/-- A context as it goes on: its waits are asked for again and its clock is merged (R260, R308). Its next start is reached from
no bundle (R65). -/
def State.rejoin (s : State) (n : Nat) : State :=
  let c := s.ctxOf n
  let back (m : Msg) : Msg :=
    if m.ctx != c.id then m else { m with spin := n, st := if m.st = .parked then .going else m.st }
  let s := { s with msgs := s.msgs.map back }.mergeClock (dieOf n) c.clock
  s.modCtx n fun c => { c with wait := none, clock := [], cameFrom := none }

/-- Fixed-time accesses name the spindles again on which the tasks of a gang run. One whose home task has left has no home: it is
not performed. Log 25 (DEDUCED). -/
def State.rehome (s : State) (g : List Nat) : State :=
  let at_ (t : Nat) : Option Nat := g.find? fun m => (s.ctxOf m).ident.t.toNat == t
  g.foldl (fun s m => s.modCtx m fun c =>
    { c with domOps := c.domOps.filterMap fun d => (at_ d.home).map fun k => { d with home := k } }) s

/-- Whether a policy or a mode asks for an eager restore (R12, R349). -/
def State.isEager (s : State) (c : Ctx) : Bool :=
  c.ctl.strict || (match s.nodeAt c.partN c.ident.handle.toNat c.ident.node.toNat with | some n => n.policy.getLsbD 3 | none => false)

/-- A suspended context takes its spindle again: the blocks that were not written out are there (R349), and a cycle begins
(R355). -/
def State.resumeSusp (s : State) (p : Nat) (u : Susp) : State :=
  let n := u.spin
  let c := u.sp.ctx
  let here := (s.sp n).ctx.id == c.id
  let s := if here then s else s.stash n
  let back := ((s.sp n).owed.filter fun o => o.2 == c.id).map Prod.fst
  let saved := match (s.part p).sched.susp.find? fun x => x.sp.ctx.id == c.id with | some x => x.sp.saved | none => u.sp.saved
  let absent := match (s.part p).sched.susp.find? fun x => x.sp.ctx.id == c.id with | some x => x.sp.absent | none => u.sp.absent
  let s := s.modSched p fun d => { d with susp := d.susp.filter fun x => x.sp.ctx.id != c.id }
  let old := s.sp n
  let s := s.setSp n { u.sp with
    saved := saved, absent := absent, owed := old.owed.filter fun o => o.2 != c.id
    lastPart := old.lastPart, credit := 0, need := 0, moved := old.moved, want := [] }
  let s := if here then s else (back.filter fun b => isMemBlock b || b == 3).foldl (fun s b => s.fillBlock n b .image) s
  let s := s.rejoin n
  if s.isEager c then s.pullAll n true else s

/-- Suspended contexts that resume together: a timed domain, or one context. -/
def State.suspGroup (s : State) (p : Nat) (u : Susp) : List Susp :=
  if u.sp.ctx.domain then (s.part p).sched.susp.filter fun x => x.sp.ctx.domain && x.sp.ctx.gang == u.sp.ctx.gang else [u]

/-- Whether they may resume: `free` says which spindles may hold them, and nothing of them is under way (R343). -/
def State.mayResume (s : State) (p : Nat) (free : Nat → Bool) (u : Susp) : Bool :=
  (s.suspGroup p u).all fun x => free x.spin && (s.sp x.spin).run == .empty && !s.inFlight x.sp.ctx.id

def State.resumeGroup (s : State) (p : Nat) (u : Susp) : State :=
  let us := s.suspGroup p u
  let s := us.foldl (fun s x => s.resumeSusp p x) s
  s.rehome (us.map Susp.spin)

/-! ### PPBOUND and checkpoints (R335, R336) -/

/-- A pending checkpoint is taken, or PPBOUND is raised. -/
def State.ppStop (s : State) (n : Nat) : State :=
  match (s.actOf n).1 with
  | .capture =>
    -- at a mark, TEPC of the image is the start of the marked bundle
    (if (s.ctxOf n).ckptDue then s
      else s.modCtx n fun c => { c with trap := { c.trap with tepc := c.pc.setWidth 16 } }).stopAs n 1 4 s.gcyc
  | .expire =>
    let c := s.ctxOf n
    -- the bundle is not fused when it issues again (R182)
    let s := s.modCtx n fun c => { c with ppcount := 0, unfused := some c.pc }
    s.takeTrap n { code := tPPBOUND, slot := 7, val := c.ppcount.setWidth 64, epc := c.pc.setWidth 16 }
  | _ => s

/-! ### The events -/

/-- R347. -/
def execBlockPullComplete (n b : Nat) (s : State) : Host.Outcome State Fault Refusal := .next (s.pullDone n b)

/-- R340. -/
def execCutStop (n : Nat) (s : State) : Host.Outcome State Fault Refusal := .next (s.cutStop n)

/-- R343. -/
def execQuiescence (n : Nat) (s : State) : Host.Outcome State Fault Refusal := .next (s.quiesce n)

/-- R351. -/
def execImageDrainBlock (n : Nat) (s : State) : Host.Outcome State Fault Refusal := .next (s.drain n)

/-- R350. -/
def execOwedBlockWriteout (n : Nat) (b : Nat) (s : State) : Host.Outcome State Fault Refusal := .next (s.writeOut n b)

/-- R335, R336. -/
def execPpboundCountExpiry (n : Nat) (s : State) : Host.Outcome State Fault Refusal := .next (s.ppStop n)

end Sys2Proof.Machine
end

