-- ==== Sys2Proof/Machine/Sched.lean ====
section
/-!
DEFINITION. The task scheduler (R18, R21, R22, R48 to R61): placement and task entry, tokens, contract releases, selection
and displacement.
-/

namespace Sys2Proof.Machine

/-! ### Placement -/

/-- The index of a spindle among its partition's, its PSN (R48). -/
def State.psnOf (s : State) (p n : Nat) : Nat := (s.psns p).countP fun m => decide (m < n)

/-- A task is bound to a spindle, on which it is still to be loaded. Its pulses are counted from here (R356). -/
def State.bindTask (s : State) (p n t gid : Nat) (w : Work) (slot : Option Nat) : State :=
  let s := s.stash n
  let image := slot.bind fun k => s.imageAt p k
  let (id, s) := match image with
    | some i => (i.ctx.id, s)
    | none => s.fresh
  -- the estimate of a task that is still to be loaded (R57)
  let est := match image with
    | some i => i.ctx.ctl.estr
    | none => match s.nodeAt p w.handle w.node with | some nd => nd.estimate | none => 0
  let ident : Ident := { psn := BitVec.ofNat 9 (s.psnOf p n), part := BitVec.ofNat 6 p, t := BitVec.ofNat 32 t
                         node := BitVec.ofNat 10 w.node, handle := BitVec.ofNat 8 w.handle }
  s.modSp n fun sp => { sp with
    run := .loading
    ctx := { id := id, ident := ident, gang := gid, ctl := { estr := est }, eng := { bmap := sp.ctx.eng.bmap } }
    seg := 0, image := slot, absent := [], saved := [], want := [], firstIssue := none, charged := 0
    recheck := [], written := [], credit := 0, need := 0, pulse := 0 }

/-- A unit is placed on spindles in increasing t (R54, R60). Of a unit that was saved, the images name the tasks. -/
def State.placeUnit (s : State) (p : Nat) (w : Work) (ns : List Nat) : State :=
  let (gid, s) := if w.images.isEmpty then s.fresh else (w.gid, s)
  let u : Placed := { work := { w with images := [], gid := gid }, gid := gid, spins := ns, at_ := s.gcyc, left := ns }
  let s := s.modSched p fun d => { d with ready := d.ready.filter fun x => x != w, placed := d.placed ++ [u] }
  (ns.zip (List.range ns.length)).foldl (fun s x =>
    let slot := w.images[x.2]?
    let t := match slot with | some k => s.imageTask p k | none => if w.gang then x.2 else w.t
    s.bindTask p x.1 t gid w slot) s

/-! ### Task entry (R18, R21, R347, R348) -/

/-- The context with which task t of a node begins (R18). -/
def entryCtx (c : Ctx) (n : Node) (k : Nat) (g : Segment) (frz : BitVec 32) : Ctx :=
  let t := c.ident.t.toNat
  let r : Regs := {}
  let x := r.x.set 1 (BitVec.ofNat 64 (n.i0 + t / n.jcount)) |>.set 2 (BitVec.ofNat 64 (n.j0 + t % n.jcount))
    |>.set 3 n.param |>.set 4 (BitVec.ofNat 64 k) |>.set 5 (BitVec.ofNat 64 t)
  { id := c.id, ident := c.ident, gang := c.gang
    domain := n.fixed, gangSize := if n.gang then n.tasks else 1, sync := n.sync
    regs := { r with x := x, k := Vector.ofFn fun i => g.cbank.getD i.val 0 }
    ctl := { fixed := n.fixed, strict := n.strict, det := n.det, estr := n.estimate, seglo := g.seglo, seghi := g.seghi }
    trap := { frzlim := frz }
    pc := BitVec.ofNat 64 n.entry }

/-- The stand's FRZLIM for a spindle (R320, R323). -/
def State.frzlimOf (s : State) (n : Nat) : BitVec 32 :=
  (s.stand (standOf n)).frzlim[n % 8]'(Nat.mod_lt _ (by decide))

/-- A placement is refused (R16, R21). -/
def State.refuseTask (s : State) (n : Nat) : State :=
  let c := s.ctxOf n
  let h := c.ident.handle.toNat
  let s := s.discardImages c.partN (s.sp n).image.toList
  ((s.failNode c.partN h c.ident.node.toNat 2).vacate n).finishGraph c.partN h

/-- A fresh task enters (R18). A checkpoint that was asked for while it was loaded stays pending (R58). -/
def State.enterTask (s : State) (n : Nat) (k : Nat) (nd : Node) (g : Segment) : State :=
  let s := s.enterSlice n (s.ctxOf n).partN true
  s.modSp n fun sp => { sp with
    run := .running, seg := g.id
    ctx := { entryCtx sp.ctx nd k g (s.frzlimOf n) with ckpt := sp.ctx.ckpt } }

/-- A checkpointed task enters with every block absent (R346, R348), its charge with it (R27). -/
def State.enterImage (s : State) (n : Nat) (g : Segment) (slot : Nat) (i : Image) : State :=
  let p := (s.ctxOf n).partN
  let s := s.enterSlice n p false
  let s := s.modSched p fun d => { d with images := tdel slot d.images }
  s.modSp n fun sp => { sp with
    run := (match i.was with | some v => .held v | none => .running)
    seg := g.id, absent := i.dir, saved := i.blocks, written := i.written
    firstIssue := i.firstIssue, charged := i.charged
    ctx := { i.ctx with
      ident := { i.ctx.ident with psn := sp.ctx.ident.psn }, eng := i.ctx.eng.moveShadows i.spin n, ckpt := sp.ctx.ckpt } }

/-- What the supervisor finds of a placed task: it waits, is refused, is killed because its image is another revision's
(R345), or enters with its segment. -/
inductive Load where
  | wait
  | refuse
  | kill
  | enter (nd : Node) (g : Segment) (image : Option (Nat × Image))

/-- The writes that a task acquires as it starts: those of its launch and of the tasks that it depends on (R265). -/
def Graph.startClock (g : Graph) (k : Nat) : List Nat :=
  ((match g.nodes[k]? with | some nd => nd.deps | none => []).filterMap fun d => (g.runs[d]?).map NodeRun.clock).foldl clockMax g.clock

/-- The supervisor loads the segment of a placed task and checks its entry (R21). -/
def State.loadCheck (s : State) (n : Nat) : Load × State :=
  let c := s.ctxOf n
  let p := c.partN
  let h := c.ident.handle.toNat
  let k := c.ident.node.toNat
  match s.graph p h, s.nodeAt p h k with
  | some gr, some nd =>
    if !s.mayAcquire n (gr.startClock k) then (.wait, s)
    else
      match s.segmentFor (standOf n) p nd.seg with
      | (none, s) => (.wait, s)
      | (some none, s) => (.refuse, s)
      | (some (some id), s) =>
        match (s.stand (standOf n)).segs.find? fun g => g.id == id with
        | none => (.refuse, s)
        | some g =>
          if decide (g.code.length ≤ nd.entry) || !g.heads.getD nd.entry false then (.refuse, s)
          else
            match (s.sp n).image.bind fun k => (s.imageAt p k).map fun i => (k, i) with
            | some (k, i) => (if i.rev != s.sec.rev then .kill else .enter nd g (some (k, i)), s)
            | none => (.enter nd g none, s)
  | _, _ => (.refuse, s)

/-- The tasks that are loaded together: those of a FIXED gang, which issue their entry bundles, or resume, in one cycle (R290). -/
def State.loadSet (s : State) (n : Nat) : List Nat :=
  let c := s.ctxOf n
  match s.nodeAt c.partN c.ident.handle.toNat c.ident.node.toNat with
  | some nd =>
    if nd.fixed then (s.psns c.partN).filter fun m => (s.sp m).run == .loading && (s.ctxOf m).gang == c.gang && (s.ctxOf m).partN == c.partN
    else [n]
  | none => [n]

/-- What the supervisor finds of several placed tasks. -/
def State.loadChecks (s : State) (ns : List Nat) : List (Nat × Load) × State :=
  ns.foldl (fun x n => let r := x.2.loadCheck n; (x.1 ++ [(n, r.1)], r.2)) ([], s)

/-- The placed tasks begin that are loaded together (R18, R21, R290): none while one of them waits, or is still to be bound.
A fixed-time access that was saved is applied once all have entered (R291). -/
def State.loadTask (s : State) (n : Nat) : State :=
  if (s.sp n).run != .loading then s
  else
    let c := s.ctxOf n
    let p := c.partN
    let r := s.loadChecks (s.loadSet n)
    if r.1.any (fun x => match x.2 with | .wait => true | _ => false) || (s.part p).sched.queue.any fun q => q.2 == c.gang then r.2
    else
      let s := r.1.foldl (fun s x => match x.2 with | .refuse => s.refuseTask x.1 | .kill => s.killTask x.1 | _ => s) r.2
      let clock := match s.graph p c.ident.handle.toNat with | some g => g.startClock c.ident.node.toNat | none => []
      -- a task whose gang has ended with a refused or a killed one enters no more
      let left := r.1.filter fun x => (s.sp x.1).run == .loading
      let s := left.foldl (fun s x => match x.2 with
        | .enter nd g none => (s.enterTask x.1 c.ident.node.toNat nd g).mergeClock (dieOf x.1) clock
        | .enter _ g (some (k, i)) => s.enterImage x.1 g k i
        | _ => s) s
      let back := left.filterMap fun x => match x.2 with | .enter _ _ (some _) => some x.1 | _ => none
      let s := if back.isEmpty then s
        else s.rehome ((s.psns p).filter fun m => (s.sp m).run != .empty && (s.ctxOf m).gang == c.gang)
      back.foldl (fun s m =>
        let s := s.rejoin m
        if s.isEager (s.ctxOf m) then s.pullAll m else s) s

/-! ### Tokens (R52) -/

/-- Whether every task that a placed unit has left is suspended, is being suspended or saved, or waits behind an earlier job
(R55): a task counts so from its stop, and keeps what it held at its capture; of a gang that is suspended in part the count changes.
Log 48 (DESIGN CHOICE). -/
def State.unitAway (s : State) (p : Nat) (u : Placed) : Bool :=
  let d := (s.part p).sched
  let stopped (n : Nat) : Bool := u.holds (s.ctxOf n) && (match (s.sp n).run with | .captured k .. => decide (k ≤ 1) | _ => false)
  u.left.all fun n => d.susp.any (fun x => x.spin == n && u.holds x.sp.ctx) || stopped n || d.queue.any fun q => q.1 == n && q.2 == u.gid

def State.tickTokens (s : State) (p : Nat) : State :=
  s.modSched p fun d => { d with
    ready := d.ready.map fun w => { w with tokens := min 65535 (w.tokens + 1) }
    placed := d.placed.map fun u => if s.unitAway p u then u else { u with work := { u.work with tokens := u.work.tokens - 1 } } }

/-! ### Contract work (R27, R55) -/

/-- The job of a placed unit with its contract: deadline, release and handle, while it has deadline precedence. -/
def State.jobRank (s : State) (p : Nat) (u : Placed) : Option (Nat × Nat × Nat) :=
  match u.work.job.bind fun a => s.contract p a with
  | some k =>
    match k.running with
    | some (i, _) => some (k.releaseOf i + k.due, k.releaseOf i, u.work.handle)
    | none => none
  | none => none

/-- Whether a task of a job has used its budget (R27). -/
def State.usedUp (s : State) (p : Nat) (u : Placed) (sp : Spindle) : Bool :=
  match u.work.job.bind fun a => s.contract p a with
  | some k => decide (k.budget ≤ sp.charged)
  | none => false

/-- The earlier of two jobs (R55). Of two with equal deadline, release and handle neither is earlier: the running one stays, and of
waiting ones the first listed starts. Log 48 (DESIGN CHOICE). -/
def earlierJob (a b : Nat × Nat × Nat) : Bool :=
  decide (a.1 < b.1) || (a.1 == b.1 && (decide (a.2.1 < b.2.1) || (a.2.1 == b.2.1 && decide (a.2.2 < b.2.2))))

/-- The jobs that wait for spindle n: queued (no context) or suspended, with their rank. Log 35 (DEDUCED). -/
def State.jobsFor (s : State) (p n : Nat) : List ((Nat × Nat × Nat) × Option Susp × Placed) :=
  let d := (s.part p).sched
  (d.queue.filter fun q => q.1 == n).filterMap (fun q =>
      match d.placed.find? fun u => u.gid == q.2 with
      | some u => (s.jobRank p u).map fun r => (r, none, u)
      | none => none)
    ++ d.susp.filterMap fun x =>
      if x.spin != n || x.why != 0 then none
      else match s.unitOf x.sp.ctx with
        | some u => if s.usedUp p u x.sp then none else (s.jobRank p u).map fun r => (r, some x, u)
        | none => none

/-- A queued task of a job starts on its spindle. -/
def State.startJob (s : State) (p n : Nat) (u : Placed) : State :=
  let t := u.spins.countP fun m => decide (m < n)
  let s := s.modSched p fun d => { d with queue := d.queue.filter fun q => !(q.1 == n && q.2 == u.gid) }
  s.bindTask p n t u.gid u.work none

/-- Whether no task of a partition may start or resume: its partition is paused or evicted, or a fatal error is in force
(R358, R383). -/
def State.stilled (s : State) (p : Nat) : Bool :=
  let d := (s.part p).sched
  d.paused || d.evicted || s.errors.fatal

/-- Contract work and tasks that a release suspended take the spindles that hold none (R53, step 3; R55). -/
def State.resumeReleased (s : State) (p : Nat) : State :=
  if s.stilled p then s
  else
  (s.psns p).foldl (fun s n =>
    if (s.sp n).run != .empty then s
    else
      let js := s.jobsFor p n
      match js.find? fun x => js.all fun y => !earlierJob y.1 x.1 with
      | some (_, none, u) => s.startJob p n u
      | some (_, some x, _) => if s.mayResume p (fun _ => true) x then s.resumeGroup p x else s
      | none =>
        let free (m : Nat) : Bool := (s.jobsFor p m).isEmpty
        match (s.part p).sched.susp.find? fun x => x.spin == n && x.why == 0 with
        | some x => if s.mayResume p free x then s.resumeGroup p x else s
        | none => s) s

/-- An internal cut of KIND 0 takes a spindle for a job (R55): it is for the task that is there, and ends with it. -/
def State.cutFor (s : State) (n : Nat) : State :=
  { s with cuts := s.cuts ++ [{ c := s.gcyc, kind := 0, spins := [n], why := 0, gid := (s.ctxOf n).gang }] }

/-- Whether the task on a spindle gives way to a job of rank r. -/
def State.givesWay (s : State) (p n : Nat) (r : Nat × Nat × Nat) : Bool :=
  let sp := s.sp n
  sp.run != .empty && !(s.cuts.any fun k => k.why == 0 && k.spins.contains n) &&
    match s.unitOf sp.ctx with
    | some u => if s.usedUp p u sp then true else match s.jobRank p u with | some q => earlierJob r q | none => true
    | none => true

/-- Whether a job of a contract is due: a release with no open node counts nothing, towards JOBS either (log 12, DEDUCED). -/
def Contract.jobDue (k : Contract) (now : Nat) : Bool :=
  decide (k.releaseOf k.released ≤ now) && (k.jobs == 0 || decide (k.released < k.jobs + k.idle))

/-- A job of a contract is released (R26, R27, R55); the switch of an update holds it back (R385). Log 35 (DEDUCED). -/
def State.releaseJob (s : State) (p a : Nat) : State :=
  match s.contract p a with
  | none => s
  | some k =>
    if !k.jobDue s.gcyc || s.update.switching then s
    else
      let d := (s.part p).sched
      let s := s.modContract p a fun k => { k with released := k.released + 1 }
      if k.running.isSome || d.paused || d.evicted || (s.part p).trust.scrub then (s.countJob p a true).schedDue p
      else
        match s.contractNode p a with
        | none => s.modContract p a fun k => { k with idle := k.idle + 1 }
        | some (h, i) =>
          match s.nodeAt p h i with
          | none => s
          | some nd =>
            let (gid, s) := s.fresh
            let w : Work := { handle := h, node := i, t := 0, gang := true, level := nd.level, tokens := nd.tokens
                              readyAt := s.gcyc, gid := gid, job := some a }
            let u : Placed := { work := w, gid := gid, spins := k.bound, at_ := s.gcyc, left := k.bound }
            let s := s.modContract p a fun k => { k with running := some (k.released - 1, false) }
            let s := s.modSched p fun d => { d with placed := d.placed ++ [u], queue := d.queue ++ k.bound.map fun n => (n, gid) }
            let r := (k.releaseOf k.released + k.due, k.releaseOf k.released, h)
            ((k.bound.filter fun n => s.givesWay p n r).foldl (fun s n => s.cutFor n) s).schedDue p

/-- Whether a task of the contract's running job has used its budget and the job does not say so yet. -/
def State.exhausted (s : State) (p : Nat) (k : Contract) : Bool :=
  (match k.running with | some (_, f) => !f | none => false) &&
    k.bound.any fun n =>
      let sp := s.sp n
      sp.run != .empty && (match s.unitOf sp.ctx with
        | some u => u.work.job == some k.addr.toNat && decide (k.budget ≤ sp.charged)
        | none => false) && sp.ctx.partN == p

/-- A task of a job has used its budget: the job counts once in OVERRUNS (R27), and a job that waits for its spindle takes
it. Log 35 (DEDUCED). -/
def State.exhaust (s : State) (p a : Nat) : State :=
  match s.contract p a with
  | none => s
  | some k =>
    match k.running with
    | some (i, false) =>
      if !s.exhausted p k then s
      else
      let s := s.modContract p a fun k => { k with running := some (i, true), overruns := k.overruns + 1 }
      let s := match s.contract p a with | some k => s.writeContract p k 1 | none => s
      (k.bound.filter fun n => (s.jobsFor p n).any fun j => s.givesWay p n j.1).foldl (fun s n => s.cutFor n) s
    | _ => s

/-- The metering of R27 in one GCYC count: a task that a cut of KIND 0 has stopped is suspended. -/
def Spindle.charge (sp : Spindle) : Spindle :=
  match sp.run with
  | .empty | .captured 0 .. => sp
  | _ => if sp.firstIssue.isSome then { sp with charged := sp.charged + 1 } else sp

/-! ### Selection (R54) -/

/-- The order of R54. -/
def Work.before (a b : Work) : Bool :=
  if a.level != b.level then decide (b.level < a.level)
  else if a.tokens != b.tokens then decide (b.tokens < a.tokens)
  else if a.readyAt != b.readyAt then decide (a.readyAt < b.readyAt)
  else if a.handle != b.handle then decide (a.handle < b.handle)
  else if a.node != b.node then decide (a.node < b.node)
  else decide (a.t < b.t)

/-- Insertion in an order. -/
def insOrd {α : Type} (lt : α → α → Bool) (x : α) : List α → List α
  | [] => [x]
  | y :: ys => if lt x y then x :: y :: ys else y :: insOrd lt x ys

def sortOrd {α : Type} (lt : α → α → Bool) (l : List α) : List α := l.foldr (insOrd lt) []

/-- The spindles that a unit needs. -/
def State.needOf (s : State) (p : Nat) (w : Work) : Nat :=
  if !w.images.isEmpty then w.images.length
  else if w.gang then (match s.nodeAt p w.handle w.node with | some n => n.tasks | none => 1) else 1

/-- Whether a unit is a FIXED gang. -/
def State.isFixed (s : State) (p : Nat) (w : Work) : Bool :=
  w.gang && (match s.nodeAt p w.handle w.node with | some n => n.fixed | none => false)

/-- Whether a spindle is free to selection (R53, R54, R358). -/
def State.selectable (s : State) (p n : Nat) : Bool :=
  let d := (s.part p).sched
  (s.sp n).run == .empty && !s.stilled p && !(d.queue.any fun q => q.1 == n)
    && !(d.susp.any fun x => x.spin == n && x.why == 0)

/-- The spindles that a unit could use (R54). -/
def State.couldUse (s : State) (p : Nat) (w : Work) : List Nat :=
  if s.isFixed p w then
    (s.psns p).filter fun n => decide (s.needOf p w ≤ (s.psns p).countP fun m => dieOf m == dieOf n)
  else s.psns p

/-- Whether a spindle's stand holds a segment of the partition (R21, R54). -/
def State.holdsSegment (s : State) (p n : Nat) (a : Word) : Bool :=
  (s.stand (standOf n)).segs.any fun g => g.part == p && g.addr == a

/-- The spindles on which a unit is placed, among free ones in increasing PSN (R54). -/
def State.spotFor (s : State) (p : Nat) (w : Work) (free : List Nat) : Option (List Nat) :=
  let need := s.needOf p w
  if s.isFixed p w then
    ((List.range 8).find? fun d => decide (need ≤ free.countP fun n => dieOf n == d)).map fun d => (free.filter fun n => dieOf n == d).take need
  else if w.gang then (if need ≤ free.length then some (free.take need) else none)
  else
    let seg := match s.nodeAt p w.handle w.node with | some n => n.seg | none => 0
    match free.find? fun n => s.holdsSegment p n seg with
    | some n => some [n]
    | none => free.head?.map fun n => [n]

/-! ### Displacement (R56 to R58) -/

/-- A unit's current estimate (R57): none when it is not known. -/
def State.estimateOf (s : State) (p : Nat) (u : Placed) : Option Nat :=
  let cs := (s.ctxsOf p).filter fun c => u.holds c
  if cs.any fun c => c.ctl.estr == 0xFFFFFFFF then none else some (cs.foldl (fun m c => max m c.ctl.estr.toNat) 0)

/-- The policy of a unit's node (R12). -/
def State.policyOf (s : State) (p : Nat) (w : Work) : BitVec 32 :=
  match s.nodeAt p w.handle w.node with | some n => n.policy | none => 0

/-- The spindles that a placed unit would give up. -/
def State.spindlesOf (s : State) (u : Placed) : List Nat := u.left.filter fun n => (s.sp n).run != .empty && u.holds (s.ctxOf n)

/-- Whether a victim choice already frees a unit's spindles. -/
def Placed.going (u : Placed) : Bool := match u.victim with | .none | .drained => false | _ => true

/-- Whether every task that a job's unit has left has used its budget, suspended ones with the others (R55). -/
def State.overBudget (s : State) (p : Nat) (u : Placed) : Bool :=
  let d := (s.part p).sched
  u.left.all fun n =>
    let sp := match d.susp.find? fun x => x.spin == n && u.holds x.sp.ctx with | some x => x.sp | none => s.sp n
    u.holds sp.ctx && s.usedUp p u sp

/-- Whether a placed unit is eligible as a victim of w (R55, R56): one that is still loaded is placed, and eligible too.
Log 48 (DESIGN CHOICE). -/
def State.eligible (s : State) (p : Nat) (w : Work) (u : Placed) : Bool :=
  !u.going && !(s.spindlesOf u).isEmpty
    && (u.work.job.isNone || s.overBudget p u)
    && (decide (u.work.level < w.level)
        || (u.work.level == w.level && decide (u.work.tokens + s.pf.premargin.toNat ≤ w.tokens)))

/-- The order of R56; the PSN of a gang is the highest among those that it was placed on. Log 48 (DESIGN CHOICE). -/
def Placed.victimBefore (a b : Placed) : Bool :=
  if a.work.level != b.work.level then decide (a.work.level < b.work.level)
  else if a.work.tokens != b.work.tokens then decide (a.work.tokens < b.work.tokens)
  else if a.at_ != b.at_ then decide (b.at_ < a.at_)
  else decide (b.spins.foldl max 0 < a.spins.foldl max 0)

/-- The resolution of a victim by the table of R56, with so many image slots free (R339): none when it is not displaceable. A
gang with more tasks than there are free slots is still checkpointed, and waits for slots. Log 48 (DESIGN CHOICE). -/
def State.resolution (s : State) (p : Nat) (u : Placed) (slots : Nat) : Option Victim :=
  let pol := s.policyOf p u.work
  let lim := pol.toNat / 65536 * 256
  let drain := pol.getLsbD 0 && u.victim != .drained && (match s.estimateOf p u with | some e => decide (e ≤ lim) | none => false)
  if drain then some (.drain (s.gcyc + lim))
  else if pol.getLsbD 1 && decide (0 < slots) then some .ckpt
  else if pol.getLsbD 2 then some .kill
  else none

/-- Victims in their order until a need is met: the choice with what is still needed. -/
def State.choose_ (s : State) (p : Nat) (counts : Nat → Bool) : List Placed → Nat → Nat → List (Placed × Victim) × Nat
  | [], need, _ => ([], need)
  | u :: us, need, slots =>
    if need = 0 then ([], 0)
    else
      let gain := (s.spindlesOf u).countP counts
      match (if gain = 0 then none else s.resolution p u slots) with
      | none => s.choose_ p counts us need slots
      | some v =>
        let r := s.choose_ p counts us (need - gain) slots
        ((u, v) :: r.1, r.2)

/-- A victim is resolved (R58): a gang with those of its tasks that are suspended. -/
def State.resolve (s : State) (p : Nat) (u : Placed) (v : Victim) : State :=
  let same (x : Placed) : Bool := x.gid == u.gid && x.work.gang == u.work.gang && x.work.t == u.work.t
  let ns := if u.work.gang then u.left else s.spindlesOf u
  let s := s.modSched p fun d => { d with placed := d.placed.map fun x => if same x then { x with victim := v } else x }
  let cut (kind : Nat) : State := { s with cuts := s.cuts ++ [{ c := s.gcyc + 64, kind := kind, spins := ns, why := 4, gid := u.gid }] }
  match v with
  | .ckpt => if u.work.gang then cut 1 else ns.foldl (fun s n => s.modCtx n fun c => { c with ckpt := true }) s
  | .kill => cut 2
  | _ => s

/-- The first-ranked unit looks for victims (R56). -/
def State.displace (s : State) (p : Nat) (w : Work) : State :=
  let d := (s.part p).sched
  let need := s.needOf p w
  let free := (s.psns p).filter (s.selectable p)
  let coming := (d.placed.filter Placed.going).flatMap s.spindlesOf
  let vs := sortOrd Placed.victimBefore (d.placed.filter (s.eligible p w))
  let slots := s.imgFree p
  let go (counts : Nat → Bool) : State :=
    let have_ := (free ++ coming).countP counts
    if need ≤ have_ then s
    else
      let r := s.choose_ p counts vs (need - have_) slots
      if r.2 = 0 then r.1.foldl (fun s x => s.resolve p x.1 x.2) s else s
  if s.isFixed p w then
    match (List.range 8).find? fun k => decide (need ≤ (free ++ coming ++ vs.flatMap s.spindlesOf).countP fun n => dieOf n == k) with
    | some k => go fun n => dieOf n == k
    | none => s
  else go fun _ => true

/-! ### The step (R53, R54) -/

/-- Lower-ranked units on free spindles that are not held. -/
def State.placeRest (s : State) (p : Nat) (held : List Nat) (ws : List Work) : State :=
  ws.foldl (fun s w =>
    match s.spotFor p w ((s.psns p).filter fun n => s.selectable p n && !held.contains n) with
    | some ns => s.placeUnit p w ns
    | none => s) s

/-- Selection and displacement, and the spindles held for the first-ranked unit: for the one that is first in this step.
Log 48 (DESIGN CHOICE). -/
def State.selectUnits (s : State) (p : Nat) : Nat → State × List Nat
  | 0 => (s, [])
  | fuel + 1 =>
    match sortOrd Work.before (s.part p).sched.ready with
    | [] => (s, [])
    | w :: ws =>
      match s.spotFor p w ((s.psns p).filter (s.selectable p)) with
      | some ns => (s.placeUnit p w ns).selectUnits p fuel
      | none =>
        let held := s.couldUse p w
        ((s.displace p w).placeRest p held ws, held)

/-- Tasks suspended by a cut of KIND 0 resume (R53, step 7). -/
def State.resumeCut (s : State) (p : Nat) (held : List Nat) : State :=
  (s.part p).sched.susp.foldl (fun s x =>
    let d := (s.part p).sched
    let free (n : Nat) : Bool := s.selectable p n && !held.contains n
    if (x.why == 1 || x.why == 3) && (d.susp.any fun y => y.sp.ctx.id == x.sp.ctx.id) && s.mayResume p free x then s.resumeGroup p x else s) s

/-- Whether a hypervisor cut stands over a partition (R60). -/
def State.hyperCut (s : State) (p : Nat) : Bool :=
  (s.psns p).any fun n =>
    (match (s.sp n).run with | .captured k why _ _ => why == 3 && k != 3 | _ => false)
      || s.cuts.any fun k => k.why == 3 && k.spins.contains n && decide (k.c ≤ s.gcyc)

/-- Whether a step of a partition may begin (R60, R383, R385). Log 36 (DEDUCED). -/
def State.mayStep (s : State) (p : Nat) : Bool :=
  (s.part p).sched.stepDue && !s.hyperCut p && !s.update.switching && !(s.part p).trust.scrub && !s.errors.fatal

/-- One step of the scheduler for a partition. Log 41 (DEDUCED). -/
def State.schedStep (s : State) (p : Nat) : State :=
  if !s.mayStep p then s
  else
    let s := s.modSched p fun d => { d with stepDue := false }
    let s := s.resumeReleased p
    let r := s.selectUnits p ((s.part p).sched.ready.length + 1)
    r.1.resumeCut p r.2

/-- Whether TICK counts end with this one (R49, R52). -/
def State.atTick (s : State) : Bool := s.gcyc % s.pf.tick.toNat == 0

/-- The ticks that a partition has still to take: those that came in the switch of an update, and that of this count (R52, R385). -/
def State.ticksDue (s : State) (p : Nat) : Nat := (s.part p).sched.ticks + (if s.atTick then 1 else 0)

/-- A token tick (R52, R53): tasks that a release suspended resume before it. Tokens change while a hypervisor cut keeps the
partition's steps, too; a tick that comes in the switch of an update waits for its end (R385). Log 35 (DEDUCED),
log 48 (DESIGN CHOICE). -/
def State.tokenTick (s : State) (p : Nat) : State :=
  let k := s.ticksDue p
  if k = 0 then s
  else if s.update.switching then s.modSched p fun d => { d with ticks := k }
  else
    let s := s.modSched p fun d => { d with ticks := 0 }
    let s := if s.hyperCut p || (s.part p).trust.scrub then s else s.resumeReleased p
    ((List.range k).foldl (fun s _ => s.tickTokens p) s).schedDue p

/-- A drained victim has not retired in time (R58): it has no drain row any more, for later units either. Log 48 (DESIGN CHOICE). -/
def State.drainOver (s : State) (n : Nat) : State :=
  let p := (s.ctxOf n).partN
  match s.unitOf (s.ctxOf n) with
  | some u =>
    match u.victim with
    | .drain t =>
      if s.gcyc < t then s
      else
        let same (x : Placed) : Bool := x.gid == u.gid && x.work.gang == u.work.gang && x.work.t == u.work.t
        (s.modSched p fun d => { d with placed := d.placed.map fun x => if same x then { x with victim := .drained } else x }).schedDue p
    | _ => s
  | none => s

/-! ### Code tags (R22) -/

/-- Whether a spindle fetches in its next cycle, and from which unverified blocks (R22): a block that is never fetched is never
checked, and a pending notice or a mark's checkpoint comes before the bundle (R78, R311). -/
def State.fetching (s : State) (n : Nat) : List Nat :=
  let c := s.ctxOf n
  let g := s.groupOf n
  if (s.sp n).run != .running || c.inTend || c.ckptDue || c.ppDue || (s.postWait n).isSome
      || (g.any fun m => (s.sp m).run != .running) || (!c.ctl.hmode && g.any fun m => (s.ctxOf m).ctl.hmode) then []
  else
    match s.fetch n with
    | .stall ks _ => if ks.contains wTAG then s.unverified n c.pc.toNat else []
    | _ => []

/-- The first fetch from a code block: its tag is right, or FETCHAUTH is raised, after the notices that are pending (R311). -/
def State.checkTag (s : State) (n b : Nat) : State :=
  match s.segOf n with
  | none => s
  | some g =>
    let c := s.ctxOf n
    if !(s.fetching n).contains b then s
    else if s.tagRight g b then
      (s.modStand (standOf n) fun st => { st with
        segs := st.segs.map fun x => if x.id == g.id then { x with verified := insN b x.verified } else x }).modSp n fun sp =>
          { sp with recheck := sp.recheck.filter (· != b) }
    else
      match (if c.ctl.hmode then none else pickNotice c.notices) with
      | some (x, _) => s.raiseNotice n (x.trap (c.pc.setWidth 16))
      | none =>
      let a := max c.pc.toNat (256 * b)
      (s.unfuse n).takeTrap n { code := tFETCHAUTH, slot := 7, val := (s.codeWord n a).setWidth 64, epc := c.pc.setWidth 16 }

/-! ### The events -/

/-- R22. -/
def execCodeTagCheck (n block : Nat) (s : State) : Host.Outcome State Fault Refusal := .next (s.checkTag n block)

/-- R21. -/
def execSegmentLoad (n : Nat) (s : State) : Host.Outcome State Fault Refusal := .next (s.loadTask n)

/-- R52. -/
def execTokenTick (part : Nat) (s : State) : Host.Outcome State Fault Refusal := .next (s.tokenTick part)

/-- R55. -/
def execContractRelease (part c : Nat) (s : State) : Host.Outcome State Fault Refusal := .next (s.releaseJob part c)

/-- R27. -/
def execBudgetExhausted (part c : Nat) (s : State) : Host.Outcome State Fault Refusal := .next (s.exhaust part c)

/-- R58. -/
def execDrainLimitExpiry (n : Nat) (s : State) : Host.Outcome State Fault Refusal := .next (s.drainOver n)

end Sys2Proof.Machine
end

