-- ==== Sys2Proof/Machine/Trans.lean ====
section
/-!
DEFINITION. Scheduler transactions (R37 to R46, R337, R338), hypervisor cuts (R339, R60), the launch of the root graph (R31),
and the registers of the scheduler (R49, R295, R405).
-/

namespace Sys2Proof.Machine

/-! ### The results of transactions -/

/-- A transaction ends with a value for its register (R37, R46). -/
def State.txValue (s : State) (p ctx : Nat) (v : Word) : State :=
  s.modCtxId p ctx fun c =>
    match c.tx with
    | .waiting rd => { c with regs := c.regs.wx rd v, tx := .idle }
    | .idle => c

/-- It ends with an uncorrectable error: a notice with the start that follows (R37). -/
def State.txError (s : State) (p ctx : Nat) (a : Word) : State :=
  s.modCtxId p ctx fun c =>
    { c with
      tx := .idle
      notices := c.notices ++ [{ code := tMEMERR, slot := 0, val := c.unshared a, epc := some (c.pc.setWidth 16), at_ := s.gcyc }] }

/-- How a transaction that has read records ends. -/
def State.txRec (s : State) (p ctx : Nat) (r : Rec) : State :=
  match r with
  | .err a _ => s.txError p ctx a
  | _ => s

/-- The transaction has left the queue. -/
def State.dropTx (s : State) (p : Nat) (t : Tx) : State := s.modSched p fun d => { d with txq := d.txq.filter fun x => x != t }

/-- The context that waits. -/
def State.txCtx (s : State) (t : Tx) : Option Ctx := (s.whereIs t.ctx).map s.ctxOf

/-! ### TLAUNCH (R37, R38) -/

/-- The lowest free handle (R28). -/
def State.freeHandle (s : State) (p : Nat) : Option Nat := (rangeFrom 1 255).find? fun h => (s.graph p h).isNone

def State.txLaunch (s : State) (p : Nat) (t : Tx) (c : Ctx) (a : Word) : State :=
  match s.readGraph p c.shared a with
  | (.wait, s) => s
  | (.malformed, s) => (s.dropTx p t).txValue p t.ctx 0x8000000000000001
  | (.err r, s) => (s.dropTx p t).txRec p t.ctx r
  | (.ok g, s) =>
    match s.freeHandle p with
    | none => (s.dropTx p t).txValue p t.ctx 0x8000000000000002
    | some h => ((s.dropTx p t).acceptGraph p h g t.clock).txValue p t.ctx (BitVec.ofNat 64 h)

/-- The root graph is launched as handle 0 (R31). While its records wait, for a holder of the lease, the launch waits. A ROOTGRAPH
outside the GLOBAL aperture, which R30 does not admit, is refused as malformed. Log 48 (DESIGN CHOICE). -/
def State.launchRoot (s : State) (p : Nat) : State :=
  let a := (s.part p).cfg.rootgraph
  let s := s.modSched p fun d => { d with rootstat := 0, rootDue := false }
  if a = 0 then s
  else if !inGlobal a.toNat then s.modSched p fun d => { d with rootstat := 3 }
  else
    match s.readGraph p (fun a => a) a with
    | (.ok g, s) => (s.modSched p fun d => { d with rootstat := 1 }).acceptGraph p 0 g []
    | (.err r, s) => (s.logRead r).modSched p fun d => { d with rootstat := 3 }
    | (.wait, s) => s.modSched p fun d => { d with rootDue := true }
    | (.malformed, s) => s.modSched p fun d => { d with rootstat := 3 }

/-! ### TJOIN (R40, R41) -/

/-- Whether a handle can be joined. -/
def State.liveHandle (s : State) (p h : Nat) : Option Graph := if h = 0 then none else s.graph p h

/-- What a transaction gives for a handle, with the clock that the join acquires (R265): a poll's reply carries it, and the die
of a task that waited takes it. -/
def State.txReply (s : State) (p : Nat) (t : Tx) (v : Word) (clock : List Nat := []) : State :=
  let s := s.dropTx p t
  match t.kind with
  | .poll _ m => s.answer m v 0 [] 0 clock
  | _ =>
    let s := match s.whereIs t.ctx with | some n => if clock.isEmpty then s else s.mergeClock (dieOf n) clock | none => s
    s.txValue p t.ctx v

/-- What a join acquires (R265): the writes of the graph's tasks. -/
def Graph.endClock (g : Graph) : List Nat := (g.runs.map NodeRun.clock).foldl clockMax []

/-- The handle of a join. -/
def TxKind.handle : TxKind → Option Nat
  | .join h | .poll h _ => some h.toNat
  | _ => none

/-- A join or a poll commits: a final status goes to every task that joins the handle, and the handle is freed once. -/
def State.txJoin (s : State) (p : Nat) (t : Tx) (h : Nat) : State :=
  match s.liveHandle p h with
  | none => s.txReply p t 0xFFFFFFFFFFFFFFFF
  | some g =>
    if g.status = 0 then (match t.kind with | .poll .. => s.txReply p t 0 | _ => s)
    else
      let all := (s.part p).sched.txq.filter fun x => x.kind.handle == some h &&
        (match x.kind with | .poll .. => true | _ => (s.txCtx x).isSome)
      (all.foldl (fun s x => s.txReply p x (g.status.setWidth 64) g.endClock) s).modSched p fun d => { d with graphs := tdel h d.graphs }

/-! ### ADMIT (R42 to R45) -/

/-- A contract record (R25). -/
def contractOf (a : Word) (b : List Byte) : Contract where
  addr := a
  first := fieldAt b 0 8
  period := fieldAt b 8 4
  budget := fieldAt b 0x0C 4
  deadline := fieldAt b 0x10 4
  spindles := fieldAt b 0x14 2
  jobs := fieldAt b 0x18 4
  bound := []

def contractOk (b : List Byte) : Bool :=
  let k := contractOf 0 b
  decide (1024 ≤ k.period) && decide (1 ≤ k.budget)
    && (k.deadline == 0 || (decide (k.budget ≤ k.deadline) && decide (k.deadline ≤ k.period)))
    && reservedZero b

/-- The test of R43 on a spindle. -/
def State.passes (s : State) (p : Nat) (k : Contract) (n : Nat) : Bool :=
  let ks := k :: (s.part p).sched.contracts.filter fun x => x.bound.contains n
  let f := fracSum (ks.map fun x => (x.budget, x.due))
  let d := ks.foldl (fun m x => min m x.due) k.due
  -- f + 2400 / d ≤ 9 / 10
  decide (10 * (f.1 * d + 2400 * f.2) ≤ 9 * f.2 * d)

/-- ADMIT (R42 to R44). A record on a page that cannot be translated is malformed: 3. Log 48 (DESIGN CHOICE). -/
def State.txAdmit (s : State) (p : Nat) (t : Tx) (c : Ctx) (a : Word) : State :=
  let a := c.shared a
  let done (s : State) (v : Word) : State := (s.dropTx p t).txValue p t.ctx v
  if !s.recordAddr p a then done s 3
  else
    match s.readRecord p a.toNat 64 with
    | (.wait, s) => s
    | (.unmapped, s) => done s 3
    | (.err x _, s) => (s.dropTx p t).txError p t.ctx x
    | (.ok b, s) =>
      let k := contractOf a b
      if !contractOk b || fieldAt b 0x20 4 != 0 || decide (k.first < s.gcyc) then done s 3
      else if (s.psns p).length < k.spindles then done s 2
      else
        let ns := (s.psns p).filter (s.passes p k)
        if ns.length < k.spindles then done s 1
        else
          let k := { k with bound := ns.take k.spindles }
          done ((s.modSched p fun d => { d with contracts := d.contracts ++ [k] }).writeContract p k 1) 0

/-- ADMIT with X = 1 (R45). A record that is malformed, or on a page that cannot be translated, is not in STATE 1: 3.
Log 48 (DESIGN CHOICE). -/
def State.txWithdraw (s : State) (p : Nat) (t : Tx) (c : Ctx) (a : Word) : State :=
  let a := c.shared a
  let done (s : State) (v : Word) : State := (s.dropTx p t).txValue p t.ctx v
  if !s.recordAddr p a then done s 3
  else
    match s.readRecord p a.toNat 64 with
    | (.wait, s) => s
    | (.unmapped, s) => done s 3
    | (.err x _, s) => (s.dropTx p t).txError p t.ctx x
    | (.ok b, s) =>
      if !reservedZero b || fieldAt b 0x20 4 != 1 then done s 3
      else done ((s.writeRecord p a 0x20 (bytesLE 3 4)).revoke p a.toNat) 0

/-! ### CUT and HCUT (R337 to R340) -/

/-- The bits of a cut descriptor's MASK. -/
def maskBits (b : List Byte) : List Nat := (List.range 320).filter fun i => (b.getD (0x10 + i / 8) 0).getLsbD (i % 8)

/-- What a descriptor must hold besides its MASK. -/
def cutOk (b : List Byte) : Bool := zeroAt b 0x09 7 && zeroAt b 0x38 8 && decide (fieldAt b 8 1 ≤ 3)

/-- The spindles that a cut of the named ones takes: timed domains whole (R340). -/
def State.cutSet (s : State) (ns : List Nat) : List Nat :=
  ((List.range 320).filter fun m => ns.any fun n => m == n || ((s.sp n).run != .empty && (s.groupOf n).contains m))

/-- Whether a spindle has a cut pending or a capture in progress. -/
def State.cutPending (s : State) (n : Nat) : Bool :=
  (s.cuts.any fun k => k.spins.contains n) ||
    (match (s.sp n).run with | .captured k .. => k != 3 || !s.quiet n | _ => false)

/-- The tasks of partition p among spindles. -/
def State.tasksOn (s : State) (p : Nat) (ns : List Nat) : Nat := ns.countP fun n => (s.sp n).run != .empty && (s.ctxOf n).partN == p

/-- Whether the free image slots of a partition (R339) are fewer than the tasks that a checkpoint of spindles would take. -/
def State.slotsShort (s : State) (p : Nat) (ns : List Nat) : Bool := decide (s.imgFree p < s.tasksOn p ns)

/-- The status of a cut of well-formed descriptor: 1 too late, 3 busy, 0 accepted (R338). -/
def State.cutStatus (s : State) (ps : List Nat) (c kind : Nat) (ns : List Nat) : Nat :=
  let all := s.cutSet ns
  if c < s.gcyc + 64 then 1
  else if all.any s.cutPending || (kind == 1 && ps.any fun p => s.slotsShort p all) then 3
  else 0

def State.txCut (s : State) (p : Nat) (t : Tx) (c : Ctx) (a : Word) : State :=
  let a := c.shared a
  let done (s : State) (v : Word) : State := (s.dropTx p t).txValue p t.ctx v
  if !s.recordAddr p a then done s 2
  else
    match s.readRecord p a.toNat 64 with
    | (.wait, s) => s
    | (.unmapped, s) => done s 2
    | (.err x _, s) => (s.dropTx p t).txError p t.ctx x
    | (.ok b, s) =>
      let m := maskBits b
      if !cutOk b || m.isEmpty || m.any fun i => decide ((s.psns p).length ≤ i) then done s 2
      else
        let ns := m.filterMap (s.physOf p)
        let st := s.cutStatus [p] (fieldAt b 0 8) (fieldAt b 8 1) ns
        let s := done s (BitVec.ofNat 64 st)
        if st = 0 then { s with cuts := s.cuts ++ [{ c := fieldAt b 0 8, kind := fieldAt b 8 1, spins := ns, why := 1 }] } else s

/-! ### The commit (R46) -/

/-- Whether every task that waits to join a handle may acquire the writes of its graph (R41, R265): they all receive the final status
in one transaction. -/
def State.joinersMay (s : State) (p h : Nat) (g : Graph) : Bool :=
  (s.part p).sched.txq.all fun x =>
    match x.kind, s.whereIs x.ctx with
    | .join k, some n => k.toNat != h || s.mayAcquire n g.endClock
    | _, _ => true

/-- Whether a queued transaction can commit: the task that waits for it is on a spindle, and a waiting join waits for a final
status; a final status is given, and a record read, once the writes to the partition's records are done. -/
def State.txReady (s : State) (p : Nat) (t : Tx) : Bool :=
  match t.kind with
  | .poll h _ => (match s.liveHandle p h.toNat with | some g => g.status == 0 || !s.recWaits p | none => true)
  | .join h =>
    match s.whereIs t.ctx, s.liveHandle p h.toNat with
    | some _, some g => g.status != 0 && !s.recWaits p && s.joinersMay p h.toNat g
    | w, _ => w.isSome
  | _ => !s.recWaits p && (s.txCtx t).isSome

/-- The transaction of a partition that commits next, in the order in which they reached the scheduler. None begins in the
switch of an update (R385). -/
def State.nextTx (s : State) (p : Nat) : Option Tx :=
  if s.update.switching then none else (s.part p).sched.txq.find? (s.txReady p)

def State.commitTx (s : State) (p : Nat) : State :=
  match s.nextTx p with
  | none => s
  | some t =>
    let c := (s.txCtx t).getD {}
    match t.kind with
    | .launch a => s.txLaunch p t c a
    | .join h | .poll h _ => s.txJoin p t h.toNat
    | .admitC a => s.txAdmit p t c a
    | .withdraw a => s.txWithdraw p t c a
    | .cut a => s.txCut p t c a

/-! ### HCUT (R339) -/

/-- A write of HCUT. -/
def State.startHcut (s : State) (v : Word) : State := { s with pf := { s.pf with hcut := v, hcutBusy := true } }

/-- The partition that a spindle belongs to. -/
def State.ownerOf (s : State) (n : Nat) : Option Nat := (s.parts.find? fun p => p.2.cfg.pspin.getLsbD n).map Prod.fst

/-- The status of an HCUT with its descriptor; an unreadable one has a free status and cuts nothing (log 1, DESIGN CHOICE).
Log 39 (DESIGN CHOICE). -/
def State.hcutJudge (s : State) : Nat × List Nat × List Byte × State :=
  let a := s.pf.hcut.toNat
  if a % 64 != 0 || !isHbm a then (2, [], [], s)
  else if (s.mem.poisonIn a 64).isSome then
    let (k, s) := (s.logUE a 2 (a / 2 ^ 38)).choose 3
    (k + 1, [], [], s)
  else
    let b := s.mem.read a 64
    let ns := (maskBits b).filter fun n => (s.ownerOf n).isSome
    if !cutOk b || ns.isEmpty then (2, [], b, s)
    else (s.cutStatus ((ns.filterMap s.ownerOf).eraseDups) (fieldAt b 0 8) (fieldAt b 8 1) ns, ns, b, s)

/-- The partitions that an HCUT names. -/
def State.hcutParts (s : State) : List Nat :=
  let a := s.pf.hcut.toNat
  if a % 64 != 0 || !isHbm a then [] else ((maskBits (s.mem.read a 64)).filterMap s.ownerOf).eraseDups

/-- Whether the waits of an HCUT have ended (R60, R385). -/
def State.hcutReady (s : State) : Bool :=
  s.pf.hcutBusy && !s.update.switching && s.hcutParts.all fun p => (s.nextTx p).isNone

/-- An HCUT is accepted or refused. -/
def State.acceptHcut (s : State) : State :=
  if !s.hcutReady then s
  else
    let (st, ns, b, s) := s.hcutJudge
    let s := { s with pf := { s.pf with hcutBusy := false, hcutStatus := BitVec.ofNat 2 st } }
    if st = 0 then { s with cuts := s.cuts ++ [{ c := fieldAt b 0 8, kind := fieldAt b 8 1, spins := ns, why := 3 }] } else s

/-! ### Registers of the scheduler -/

/-- A word of PSPIN (R49): bits that another partition has are ignored; a spindle that leaves kills its task. -/
def State.writePspin (s : State) (port p w : Nat) (v : Word) : State :=
  if 64 ≤ p || 5 ≤ w then s
  else if s.locked p then s.lockedWrite [p] port
  else
    let others : BitVec 320 := (s.parts.filter fun x => x.1 != p).foldl (fun m x => m ||| x.2.cfg.pspin) 0
    let field : BitVec 320 := BitVec.ofNat 320 (0xFFFFFFFFFFFFFFFF * 2 ^ (64 * w))
    let old := (s.part p).cfg.pspin
    let new := (old &&& ~~~field) ||| (BitVec.ofNat 320 (v.toNat * 2 ^ (64 * w)) &&& ~~~others)
    let gone := (List.range 320).filter fun n => old.getLsbD n && !new.getLsbD n
    let s := s.modCfg p fun c => { c with pspin := new }
    gone.foldl (fun s n => if (s.ctxOf n).partN = p then s.killTask n else s) s

/-- The spindles that PSPIN gives, in increasing number: PSN 0 on (R48, R50). -/
def pspinList (m : BitVec 320) : List Nat := (List.range 320).filter fun n => m.getLsbD n

/-- A partition's reservation (R295). -/
def State.writeReservation (s : State) (port p : Nat) (v : Word) : State :=
  if 64 ≤ p then s
  else if s.locked p then s.lockedWrite [p] port
  else
    let sum (f : PartCfg → BitVec 16) : Nat := (s.parts.filter fun x => x.1 != p).foldl (fun a x => a + (f x.2.cfg).toNat) 0
    let h := v.extractLsb' 0 16
    let x := v.extractLsb' 16 16
    let c := v.extractLsb' 32 16
    if 64000 < sum PartCfg.rhbm + h.toNat || 2500 < sum PartCfg.rcxl + x.toNat || 4000 < sum PartCfg.rclu + c.toNat then s.unsupported port
    else s.modCfg p fun k => { k with rhbm := h, rcxl := x, rclu := c }

/-- LSDOM (R405). -/
def State.writeLsdom (s : State) (port : Nat) (v : Word) : State :=
  let md := v.extractLsb' 0 6
  let nm := v.extractLsb' 8 7
  if s.parts.any (fun p => p.2.trust.state != .unlocked) || nm.toNat < 1 || 64 < nm.toNat || nm.toNat ≤ md.toNat then s.unsupported port
  else { s with pf := { s.pf with modid := md, nmod := nm } }

/-! ### The events -/

/-- R46. -/
def execSchedulerTransactionCommit (part : Nat) (s : State) : Host.Outcome State Fault Refusal := .next (s.commitTx part)

/-- R339. -/
def execHcut (val : BitVec 64) (s : State) : Host.Outcome State Fault Refusal := .next (s.startHcut val)

/-- R339. -/
def execHcutAccept (s : State) : Host.Outcome State Fault Refusal := .next s.acceptHcut

/-- R49. -/
def execPspinWrite (port part word : Nat) (val : BitVec 64) (s : State) : Host.Outcome State Fault Refusal :=
  .next (s.writePspin port part word val)

/-- R295. -/
def execReservationWrite (port part : Nat) (val : BitVec 64) (s : State) : Host.Outcome State Fault Refusal :=
  .next (s.writeReservation port part val)

/-- R405. -/
def execLsdomWrite (port : Nat) (val : BitVec 64) (s : State) : Host.Outcome State Fault Refusal :=
  .next (s.writeLsdom port val)

end Sys2Proof.Machine
end

