-- ==== Sys2Proof/Machine/Traps.lean ====
section
/-!
DEFINITION. The watchdog (R323) and the supervisor's block of a stand: dispositions and the trap ring (R320, R321).
-/

namespace Sys2Proof.Machine

/-! ### The watchdog -/

/-- The watchdog of a spindle has run out (R323). -/
def State.watchdogDue (s : State) (n : Nat) : Bool :=
  let c := s.ctxOf n
  match c.wait with
  | some w => (s.sp n).run == .running && c.trap.frzlim != 0 && decide (c.trap.frzlim.toNat < s.gcyc - w.since)
  | none => false

/-- WATCHDOG is raised and escalated. A bundle that has issued and waits, for a transaction, a barrier, a step or TEND, is the
bundle that waits, and its wait goes on after a RESUME (log 11, DEDUCED). -/
def State.watchdogFires (s : State) (n : Nat) : State :=
  let c := s.ctxOf n
  match (if s.watchdogDue n then c.wait else none) with
  | none => s
  | some w =>
    let after := c.inTend || (s.postWait n).isSome
    let s := if after then s else s.unfuse n
    let s := s.escalate n { code := tWATCHDOG, slot := 7, val := BitVec.ofNat 64 w.kind
                            epc := (if after then c.bun.start else c.pc).setWidth 16 }
    if after then s.modCtx n fun x => { x with pc := c.pc, cameFrom := c.cameFrom } else s

/-! ### Dispositions -/

/-- The spindle with an index on a stand. -/
def spindleOf (stand k : Nat) : Nat := 8 * stand + k

/-- The register that holds the last disposition for a spindle (R320). -/
def State.noteDisp (s : State) (stand k : Nat) (v : BitVec 32) : State :=
  s.modStand stand fun st => { st with disp := st.disp.set (k % 8) v (Nat.mod_lt _ (by decide)) }

/-- A context that a disposition sends to another start waits for nothing more. Log 11 (DEDUCED), log 28 (DEDUCED). -/
def Ctx.redirected (c : Ctx) (a : BitVec 16) : Ctx :=
  { c with pc := a.setWidth 64, cameFrom := none, inTend := false, barw := .idle, step := .idle }

/-- A context that leaves handler mode on the RESUME of its ESC, as by RFE (R316, R318): results of handler words still in
flight go on as its own. -/
def Ctx.leavesHandler (c : Ctx) : Ctx :=
  if c.ctl.hmode then { c with ctl := { c.ctl with hmode := false }, pipe := c.pipe ++ c.hpipe, hpipe := [] } else c

/-- How a disposition finds spindle k of a stand: held, by ESC or not, unless its record still waits for a slot (R320). -/
def State.heldNow (s : State) (stand k : Nat) : Option Bool :=
  if 40 ≤ stand || 8 ≤ k || (s.stand stand).recWait.any (fun r => r.1 == spindleOf stand k) then none
  else (s.sp (spindleOf stand k)).run.heldBy

/-- RESUME (R318, R321, R341). A resumed start is reached from no bundle (R65). Log 47 (DESIGN CHOICE). -/
def State.resumeHeld (s : State) (stand k : Nat) (newpc setx : Bool) (xreg : BitVec 5) (addr : BitVec 16) : State :=
  match s.heldNow stand k with
  | none => s
  | some vol =>
    let x := (s.stand stand).sret[k % 8]'(Nat.mod_lt _ (by decide))
    s.modSp (spindleOf stand k) fun sp =>
      let c := sp.ctx
      let c := if setx then { c with regs := c.regs.wx xreg x } else c
      let c := if vol then c.leavesHandler else c
      { sp with run := .running, ctx := { (if newpc then c.redirected addr else c) with wait := none, cameFrom := none } }

/-- KILL (R321). Log 47 (DESIGN CHOICE). -/
def State.killHeld (s : State) (stand k : Nat) : State :=
  match s.heldNow stand k with
  | none => s
  | some _ => s.killTask (spindleOf stand k)

/-- A write of the disposition register of a spindle (R320): the register, then what ACTION asks for. -/
def State.writeDisposition (s : State) (stand k : Nat) (v : BitVec 32) : State :=
  if 40 ≤ stand || 8 ≤ k then s
  else
    let s := s.noteDisp stand k (v &&& 0xFFFF01FF#32)
    match (v.extractLsb' 0 2).toNat with
    | 1 => s.resumeHeld stand k (v.getLsbD 2) (v.getLsbD 3) (v.extractLsb' 4 5) (v.extractLsb' 16 16)
    | 2 => s.killHeld stand k
    | _ => s

/-- The register as RESUME writes it. -/
def resumeWord (newpc setx : Bool) (xreg : BitVec 5) (addr : BitVec 16) : BitVec 32 :=
  addr ++ (0#7 ++ xreg ++ BitVec.ofBool setx ++ BitVec.ofBool newpc ++ 1#2)

/-! ### The trap ring (R320) -/

/-- Records that waited for a slot are written while the ring has room. -/
def State.flushRing (s : State) (k : Nat) : Nat → State
  | 0 => s
  | fuel + 1 =>
    let st := s.stand k
    match st.recWait with
    | [] => s
    | r :: rs => if st.ringFull then s else ((s.modStand k fun st => { st with recWait := rs }).putRecord k r.2).flushRing k fuel

/-- A write of TRQTAIL. -/
def State.writeTail (s : State) (k : Nat) (v : BitVec 32) : State :=
  if 40 ≤ k then s
  else
    let s := s.modStand k fun st => { st with trqtail := v }
    s.flushRing k (s.stand k).recWait.length

/-! ### The events -/

/-- R323. -/
def execWatchdog (n : Nat) (s : State) : Host.Outcome State Fault Refusal := .next (s.watchdogFires n)

/-- R321. -/
def execDispositionResume (stand k : Nat) (newpc setx : Bool) (xreg : BitVec 5) (addr : BitVec 16) (s : State) :
    Host.Outcome State Fault Refusal := .next (s.writeDisposition stand k (resumeWord newpc setx xreg addr))

/-- R321. -/
def execDispositionKill (stand k : Nat) (s : State) : Host.Outcome State Fault Refusal := .next (s.writeDisposition stand k 2)

/-- R320. -/
def execTrapRingTailWrite (stand : Nat) (val : BitVec 32) (s : State) : Host.Outcome State Fault Refusal :=
  .next (s.writeTail stand val)

end Sys2Proof.Machine
end

