-- ==== Sys2Proof/Machine/Power.lean ====
section
/-!
DEFINITION. Power, shedding and droop (R355 to R359), soft errors (R380, R382) and fatal errors (R383, R384).
-/

namespace Sys2Proof.Machine

/-! ### Shedding (R357, R358) -/

/-- The fields of a shedding entry. -/
def shedPart (e : BitVec 13) : Nat := (e.extractLsb' 0 6).toNat
def shedV (e : BitVec 13) : Bool := e.getLsbD 6
def shedSlow (e : BitVec 13) : Nat := (e.extractLsb' 8 3).toNat
def shedNoPause (e : BitVec 13) : Bool := e.getLsbD 11
def shedNoEvict (e : BitVec 13) : Bool := e.getLsbD 12

/-- Entry n. -/
def Power.entry (w : Power) (n : Nat) : BitVec 13 := w.shed[n % 64]'(Nat.mod_lt _ (by decide))

/-- The entries that count: valid, and the lowest of their partition. -/
def Power.entries (w : Power) : List Nat :=
  (List.range 64).filter fun n => shedV (w.entry n) &&
    !(List.range n).any fun m => shedV (w.entry m) && shedPart (w.entry m) == shedPart (w.entry n)

/-- The sequence of actions: 0 slow, 1 pause, 2 evict, with the entry. -/
def Power.sequence (w : Power) : List (Nat × Nat) :=
  let es := w.entries
  ((es.filter fun n => shedSlow (w.entry n) != 0).map fun n => (0, n))
    ++ ((es.filter fun n => !shedNoPause (w.entry n)).map fun n => (1, n))
    ++ ((es.filter fun n => !shedNoEvict (w.entry n)).map fun n => (2, n))

/-- The spindles of a partition that hold a context. -/
def State.busyOf (s : State) (p : Nat) : List Nat := (s.psns p).filter fun n => (s.sp n).run != .empty

/-- An action is taken; none when its cut is not accepted. -/
def State.shedTake (s : State) (kind n : Nat) : Option State :=
  let e := s.power.entry n
  let p := shedPart e
  let ns := s.busyOf p
  let cut (s : State) (k : Nat) : State :=
    if ns.isEmpty then s else { s with cuts := s.cuts ++ [{ c := s.gcyc + 4096, kind := k, spins := ns, why := 2 }] }
  match kind with
  | 0 => some (s.modSched p fun d => { d with slow := shedSlow e })
  | 1 => if (s.psns p).any s.cutPending then none else some (cut (s.modSched p fun d => { d with paused := true }) 0)
  | _ =>
    let us := (s.part p).sched.susp
    if (s.psns p).any s.cutPending || decide (s.imgFree p - s.slotsDue p < ns.length + us.length) then none
    else
      let s := cut (s.modSched p fun d => { d with evicted := true }) 1
      some (us.foldl (fun s u => s.suspToImage p u) s)

/-- An action is undone. What a pause suspended resumes in place, before anything else is placed there. -/
def State.shedUndo (s : State) (kind n : Nat) : State :=
  let p := shedPart (s.power.entry n)
  match kind with
  | 0 => s.modSched p fun d => { d with slow := 0 }
  | 1 =>
    (s.modSched p fun d => { d with
      paused := false
      susp := d.susp.map fun u => if u.why == 2 then { u with why := 0 } else u }).schedDue p
  | _ => (s.modSched p fun d => { d with evicted := false }).schedDue p

/-- A change of STEP or FLOOR, which the black box records (R384). -/
def State.setShed (s : State) (acts : List (Nat × Nat)) (floor : Bool) : State :=
  let s := { s with power := { s.power with acts := acts, step := BitVec.ofNat 8 acts.length, floor := floor } }
  s.blackBox 6 8 0xFF (bytesLE acts.length 1 ++ bytesLE floor.toNat 1)

/-- The evaluation of each millisecond (R358). -/
def State.evaluate (s : State) (watts : BitVec 16) : State :=
  if s.gcyc % 800000 != 0 then s
  else
    let s := { s with power := { s.power with pwr := watts } }
    let w := s.power
    if w.cap.toNat < watts.toNat then
      match w.sequence[w.acts.length]? with
      | none => if w.floor then s else s.setShed w.acts true
      | some a =>
        match s.shedTake a.1 a.2 with
        | some s => s.setShed (w.acts ++ [a]) w.floor
        | none => s
    else if watts.toNat + w.hyst.toNat < w.cap.toNat then
      if w.floor then s.setShed w.acts false
      else
        match w.acts.getLast? with
        | some a => (s.shedUndo a.1 a.2).setShed w.acts.dropLast false
        | none => s
    else s

/-- CAP and HYST (R357). -/
def State.writeCap (s : State) (v : Word) : State :=
  let c := v.toNat % 65536
  let c := if 4800 < c then 4800 else if c < 1200 then 1200 else c
  { s with power := { s.power with cap := BitVec.ofNat 16 c, hyst := v.extractLsb' 16 16 } }

/-- A droop detector (R355): from 1 to 8 while it trips, 0 otherwise; and the droop count (R356), 0 unless the supply droop exceeds
the guard band. -/
def State.setDroop (s : State) (stand level count : Nat) : State :=
  if 40 ≤ stand then s else s.modStand stand fun st => { st with droop := min 8 level, count := min 8 count }

/-! ### Soft errors (R380) -/

/-- A correctable error (R380). -/
def State.countCE (s : State) : State :=
  { s with errors := { s.errors with ce := if s.errors.ce = 0xFFFFFFFF then s.errors.ce else s.errors.ce + 1 } }

/-- An uncorrectable error (R380): a line is poisoned, a block of the instruction store or the constant bank is absent until it is
pulled, and an error in registers, PIPE, engine or control state ends the task. -/
def State.uncorrectable (s : State) (at_ : StoreAt) : State :=
  match at_ with
  | .line l => (s.modMem fun m => m.poisonLine l).logLine (64 * l)
  | .code n b =>
    let (v, s) := s.freeWord
    let s := s.logUE v.toNat 4 (dieOf n)
    if (s.sp n).run == .empty || !(b == 5 || decide (294 ≤ b)) then s
    else s.modSp n fun sp => { sp with absent := (sp.absent.filter fun x => x.1 != b) ++ [(b, .segment)] }
  | .control n =>
    let (v, s) := s.freeWord
    let s := s.logUE v.toNat 5 (dieOf n)
    if (s.sp n).run == .empty then s
    else
      let (a, s) := s.freeWord
      (s.escalate n { code := tMEMERR, slot := 7, val := a, epc := (s.ctxOf n).pc.setWidth 16 }).killTask n

/-- The scrubber reads a store: it is sound, has a correctable error, or an uncorrectable one (log 1, DESIGN CHOICE).
Log 33 (DESIGN CHOICE). -/
def State.scrub (s : State) (at_ : StoreAt) : State :=
  let (k, s) := s.choose 3
  match k with
  | 0 => s
  | 1 => s.countCE
  | _ => s.uncorrectable at_

/-! ### Fatal errors (R383) -/

/-- A fatal error at this count, for a cause row. -/
def State.fatalNow (s : State) (row : Nat) : State :=
  if s.errors.fatal then s
  else
    let s := { s with errors := { s.errors with fatal := true, fatalAt := some (s.gcyc + 64) } }
    s.blackBox 8 8 0xFF (bytesLE s.gcyc 8 ++ bytesLE row 1)

/-- The 64 MiB of the dump. -/
def dumpSize : Nat := 0x4000000

/-- The registers of R382, from ERRCE on. -/
def Errors.bytes (e : Errors) : List Byte :=
  bytesLE (e.ce.toNat + e.ue.toNat * 2 ^ 32) 8 ++ bytesLE (e.lastue.toNat + e.kind.toNat * 2 ^ 60) 8
    ++ bytesLE (e.fatal.toNat + e.dumpbase.toNat * 2 ^ 21) 8 ++ bytesLE e.bbhead.toNat 8

/-- What a spindle gives to the dump: its last trap record, and blocks 0 to 4 unless its partition's interface is out of
CONFIG_UNLOCKED. The bytes of blocks 2 to 4 are free (log 1, DESIGN CHOICE). -/
def State.dumpOf (s : State) (n : Nat) : List Byte × State :=
  let sp := s.sp n
  let r := (sp.lastTrap ++ List.replicate 32 0).take 32
  if s.locked sp.ctx.partN then (r, s)
  else
    let (bs, s) := s.freeBytes 28672
    (r ++ (sp.ctx.regs.x.toList ++ sp.ctx.regs.y.toList).flatMap (fun v => bytesLE v.toNat 8) ++ bs, s)

/-- The dump (R383): the black box, the error registers and what each spindle gives, one after the other; the rest is free
(log 1, DESIGN CHOICE). Log 33 (DESIGN CHOICE). -/
def State.dumpBytes (s : State) : List Byte × State :=
  let head := (List.range 4096).flatMap (fun i => (tget [] i s.errors.bb ++ List.replicate 32 0).take 32) ++ s.errors.bytes
  let r := (List.range 320).foldl (fun (x : List Byte × State) n => let d := x.2.dumpOf n; (x.1 ++ d.1, d.2)) (head, s)
  let (bs, s) := r.2.freeBytes (dumpSize - r.1.length)
  (r.1 ++ bs, s)

/-- Every spindle stops, and the dump is written and sent. Log 33 (DESIGN CHOICE). -/
def State.stopAll (s : State) : State :=
  match s.errors.fatalAt with
  | some t =>
    if s.gcyc < t then s
    else
      let s : State := { s with
        errors := { s.errors with fatalAt := none }
        spindles := s.spindles.map fun x => (x.1, { x.2 with run := if x.2.run == .empty then .empty else .stopped }) }
      let (bs, s) := s.dumpBytes
      (s.modMem fun m => m.write (s.errors.dumpbase.toNat * 0x200000) bs).emit (.dump bs)
  | none => s

/-! ### The events -/

/-- R358. -/
def execPowerEvaluation (watts : BitVec 16) (s : State) : Host.Outcome State Fault Refusal := .next (s.evaluate watts)

/-- R357. -/
def execPowerCapWrite (val : BitVec 64) (s : State) : Host.Outcome State Fault Refusal := .next (s.writeCap val)

/-- R355. -/
def execDroopTrip (stand level count : Nat) (s : State) : Host.Outcome State Fault Refusal := .next (s.setDroop stand level count)

/-- R355. -/
def execDroopRecovery (stand : Nat) (s : State) : Host.Outcome State Fault Refusal := .next (s.setDroop stand 0 0)

/-- R380. -/
def execPatrolScrub (at_ : StoreAt) (s : State) : Host.Outcome State Fault Refusal := .next (s.scrub at_)

/-- R383. -/
def execFatalError (row : Nat) (s : State) : Host.Outcome State Fault Refusal := .next (s.fatalNow row)

/-- R383. -/
def execFatalStop (s : State) : Host.Outcome State Fault Refusal := .next s.stopAll

end Sys2Proof.Machine
end

