-- ==== Sys2Proof/Machine/Boot.lean ====
section
/-!
DEFINITION. Reset, boot and measurements (R361 to R364, R367), the loss of power (R232, R379), the live update of the
scheduler firmware (R385), and the plain registers of BAR0 (R7, R30, R33, R49, R300, R307, R320, R327, R339, R357, R382).
-/

namespace Sys2Proof.Machine

/-! ### Reset (R361, R383) -/

/-- Whether a key is a byte of second-tier memory. -/
def isSecondTier (k : Nat) : Bool := decide (0x100000000000 ≤ k) && decide (k < 0x200000000000)

/-- The memory whose bytes pass a test, with nothing else of its lines. Log 40 (DEDUCED). -/
def Memory.keep (m : Memory) (f : Nat → Bool) : Memory :=
  { cells := m.cells.filter fun c => f c.1, form := m.form.filter fun l => f (64 * l)
    poison := m.poison.filter fun l => f (64 * l), soft := m.soft.filter fun x => f x.1 }

/-- The module as a reset leaves it, with what is outside the module or of the model itself. Log 40 (DEDUCED). -/
def State.restart (s : State) (m : Memory) : State :=
  { State.reset with mem := m, inputs := s.inputs, out := s.out, free := s.free, nextId := s.nextId }

/-- A cold reset: the security engine begins at stage 1 (R361), the black box is cleared (R384). Log 40 (DEDUCED). -/
def State.coldReset (s : State) : State :=
  { s.restart (s.mem.keep isSecondTier) with sec := { stage := 1 } }

/-- A warm reset: boot from stage 1, the black box stays (R383, R384). A halted module does not leave its halt by it (R363).
Log 40 (DEDUCED). -/
def State.warmReset (s : State) : State :=
  if s.sec.stage = 0xF then s
  else
  { s.restart (s.mem.keep fun k => isHbm k || isSecondTier k) with
    sec := { stage := 1 }
    errors := { bb := s.errors.bb, bbhead := s.errors.bbhead } }

/-- Power is lost: each byte keeps the value that a PERSIST made durable or that a later write gave it (R232, R379). -/
def State.losePower (s : State) : State :=
  let left (x : Nat × List (Nat × Byte)) : Byte :=
    (x.2.getD (Config.freeNat (s.free + x.1) % x.2.length) (320, cellGet s.mem.cells x.1)).2
  let m := s.mem.keep isSecondTier
  let m := { m with cells := m.soft.foldl (fun c x => cellSet c x.1 (left x)) m.cells, soft := [] }
  { s.restart m with free := s.free + 0x200000000000 }

/-! ### Boot (R361 to R364, R367) -/

/-- A stage fails (R363): one retry on the other port, then the module halts. -/
def State.bootFail (s : State) (stage code : Nat) : State :=
  let s := s.blackBox 3 8 0xFF (bytesLE stage 1 ++ bytesLE code 1)
  let k := s.sec
  if k.retried then { s with sec := { k with stage := 0xF, failcode := BitVec.ofNat 8 code } }
  else { s with sec := { k with stage := 1, failcode := BitVec.ofNat 8 code, retried := true, port := !k.port, began := s.gcyc } }

/-- The sections of an image by its header (R362): type, length, offset, digest. -/
def imageSections (b : List Byte) (n : Nat) : List (Nat × Nat × Nat × List Byte) :=
  (List.range n).map fun i =>
    let o := 0x190 + 48 * i
    (fieldAt b o 4, fieldAt b (o + 4) 4, fieldAt b (o + 8) 8, (b.drop (o + 16)).take 32)

/-- Stage 3 (R361, R362) for the section types listed. -/
def headerGood (b : List Byte) (types : List Nat) : Bool :=
  let xs := imageSections b types.length
  let key := (b.drop 0x010).take 384
  decide (1024 ≤ b.length) && fieldAt b 0 4 == 0x4E474D49 && fieldAt b 0x0A 2 == types.length && zeroAt b 0x0C 4
    && sha256 key == Config.rootHash && pssVerify key (b.take 0x280) ((b.drop 0x280).take 384)
    && (types.all fun t => (xs.countP fun x => x.1 == t) == 1)
    && (xs.all fun x => x.2.2.1 % 64 == 0 && decide (0x400 ≤ x.2.2.1)) && apart (xs.map fun x => (x.2.2.1, x.2.1))

/-- The bytes of a section. -/
def sectionOf (b : List Byte) (n t : Nat) : List Byte :=
  match (imageSections b n).find? fun x => x.1 == t with
  | some x => (b.drop x.2.2.1).take x.2.1
  | none => []

/-- Stage 5: each section's digest. -/
def digestsGood (b : List Byte) (n : Nat) : Bool :=
  (imageSections b n).all fun x => decide (x.2.2.1 + x.2.1 ≤ b.length) && sha256 ((b.drop x.2.2.1).take x.2.1) == x.2.2.2

/-- The types of a boot image's sections. -/
def bootTypes : List Nat := [1, 2, 3, 4, 5]

/-- The measurements (R367). -/
def measure (b : List Byte) : Vector (List Byte) 6 :=
  #v[sha256 (Config.rootHash ++ bytesLE Config.svnMin.toNat 2), sha256 (b.take 0x280),
     sha256 (sectionOf b 5 1), sha256 (sectionOf b 5 2), sha256 (sectionOf b 5 3),
     sha256 (sectionOf b 5 4)]

/-- The fetched image goes to HBM stack 0 (R361), where is a free choice (log 1, DESIGN CHOICE). -/
def State.storeImage (s : State) (b : List Byte) : State :=
  let (k, s) := s.choose (2 ^ 36 - b.length + 1)
  s.modMem fun m => m.write k b

/-- A fetched image is checked and the module starts (stages 3 to 7), with its device key pair (R365). -/
def State.checkImage (s : State) (b : List Byte) : State :=
  if !headerGood b bootTypes then s.bootFail 3 0x03
  else if fieldAt b 8 2 < Config.svnMin.toNat then s.bootFail 4 0x04
  else if !digestsGood b 5 then s.bootFail 5 0x05
  else if !Config.chainEndsIn (sectionOf b 5 5) (Config.deviceKey Config.uds).1 then s.bootFail 6 0x06
  else
    let svn := BitVec.ofNat 16 (fieldAt b 8 2)
    { s with sec := { s.sec with
        stage := 7, svn := svn, running := svn, rev := BitVec.ofNat 32 (fieldAt b 4 4), image := b
        device := Config.deviceKey Config.uds, meas := measure b } }

/-- The fetch of an image ends (R361). -/
def State.bootImage (s : State) (b : List Byte) : State :=
  if s.sec.stage != 2 then s
  else if b.isEmpty then s.bootFail 2 0x02
  else (s.storeImage b).checkImage b

/-- A locator arrives on the port that stage 1 waits at. -/
def State.locator (s : State) (port : Bool) : State :=
  if s.sec.stage = 1 && port == s.sec.port then { s with sec := { s.sec with stage := 2 } } else s

/-- Two seconds of GCYC. -/
def linkWait : Nat := 1600000000

/-- Port 0 has no link within 2 s (R361); with port 1 already in use, stage 1 fails. -/
def State.noLink (s : State) : State :=
  if s.sec.stage != 1 then s
  else if s.sec.port then s.bootFail 1 0x01
  else { s with sec := { s.sec with port := true } }

/-! ### The live update (R385) -/

/-- A write of UPDIMG. -/
def State.startUpdate (s : State) (v : Word) : State :=
  if s.update.phase != 0 then s
  else { s with update := { s.update with updimg := v, phase := 1, failcode := 0 } }

/-- The update image at UPDIMG: its header, and its one section of TYPE 2. -/
def State.updateBytes (s : State) : List Byte :=
  let a := s.update.updimg.toNat
  let h := s.mem.read a 1024
  let e := match (imageSections h 1).head? with | some x => x.2.2.1 + x.2.1 | none => 0
  s.mem.read a (max 1024 e)

/-- A record of a switch, a commit or a roll-back (R384). -/
def State.noteFirmware (s : State) : State := s.blackBox 7 8 0xFF (bytesLE s.update.active.toNat 1 ++ bytesLE s.update.rev.toNat 4)

/-- The image is verified, and the switch waits for the transactions in flight; then the new slot is active. -/
def State.switchUpdate (s : State) : State :=
  let u := s.update
  if u.phase != 1 then s
  else if u.switching then
    let s := { s with update := { u with
      active := !u.active, phase := 2, switching := false, switchedAt := s.gcyc, lastBeat := s.gcyc, beating := false, was := u.beating } }
    s.noteFirmware
  else
    let b := s.updateBytes
    let fail (c : Nat) : State := { s with update := { u with phase := 0, failcode := BitVec.ofNat 8 c } }
    if !headerGood b [2] then fail 0x03
    else if fieldAt b 8 2 < s.sec.running.toNat then fail 0x04
    else if !digestsGood b 1 then fail 0x05
    else { s with update := { u with
      switching := true, rev := BitVec.ofNat 32 (fieldAt b 4 4), digest := sha256 (sectionOf b 1 2), svn := BitVec.ofNat 16 (fieldAt b 8 2) } }

/-- A heartbeat of the new firmware. -/
def State.beat (s : State) : State :=
  let u := s.update
  { s with update := { u with lastBeat := s.gcyc, beating := true, since := if u.beating then u.since else s.gcyc } }

/-- Whether 100 ms of heartbeats have passed. -/
def State.commitDue (s : State) : Bool :=
  s.update.phase == 2 && s.update.beating && decide (100 * msCounts ≤ s.gcyc - s.update.since)

/-- An update is committed: section 2 counts as booted from here, and its version as the running one. Log 38 (DEDUCED). -/
def State.commitUpdate (s : State) : State :=
  if !s.commitDue then s
  else
    let s := { s with
      update := { s.update with phase := 0 }
      sec := { s.sec with meas := s.sec.meas.set 3 s.update.digest, running := s.update.svn } }
    s.noteFirmware

/-- Whether a heartbeat is missed: within 10 ms of the switch, then every 1 ms. -/
def State.beatMissed (s : State) : Bool :=
  let u := s.update
  if u.beating then decide (msCounts < s.gcyc - u.lastBeat)
  else u.phase == 2 && decide (10 * msCounts < s.gcyc - u.switchedAt)

/-- A missed heartbeat rolls back to the firmware of the old slot, whose heartbeats count again if a commit asked for them; or is
fatal after the commit: row 6 of R380 holds the scheduler. -/
def State.missBeat (s : State) : State :=
  if !s.beatMissed then s
  else if s.update.phase = 2 then
    let u := s.update
    let s := { s with update := { u with active := !u.active, phase := 0, rollback := true, beating := u.was, lastBeat := s.gcyc } }
    s.noteFirmware
  else s.fatalNow 6

/-! ### Plain registers (R7) -/

/-- A write to a locked register of partition p, or its effect. -/
def State.rwl (s : State) (port p : Nat) (f : PartCfg → PartCfg) : State :=
  if 64 ≤ p then s else if s.locked p then s.lockedWrite [p] port else s.modCfg p f

/-- A binding is written (R300): a wake that is armed there watches its gate from now on (R307). -/
def State.writeBinding (s : State) (port p b : Nat) (v : Word) : State :=
  let s := s.rwl port p fun c => { c with binds := c.binds.set (b % 256) (v &&& 0xFFFFFFFF0007FFFF#64) (Nat.mod_lt _ (by decide)) }
  let e := s.binding p b
  if bindV e && bindMod e == s.pf.modid.toNat && (s.part p).host.hwake[b % 256]'(Nat.mod_lt _ (by decide)) != 0 then s.wake (bindGate e)
  else s

/-- A write of a register from a port (R7). A halted module presents no virtual function (R363). -/
def State.writeRegister (s : State) (port : Nat) (r : RegName) (v : Word) : State :=
  match r with
  | .rootgraph p => if s.sec.stage = 0xF then s.unsupported port else s.rwl port p fun c => { c with rootgraph := v }
  | .leaseExpired => if v.getLsbD 6 then { s with lease := { s.lease with expired := false } } else s
  | .premargin => { s with pf := { s.pf with premargin := v.setWidth 16 } }
  | .binding p b => s.writeBinding port p b v
  | .vfGateStatus p => s.clearGateStatus port p v
  | .disposition k i => s.writeDisposition k i (v.setWidth 32)
  | .trqbase k => if 40 ≤ k then s else s.modStand k fun st => { st with trqbase := v.extractLsb' 12 36 }
  | .sret k i => if 40 ≤ k then s else s.modStand k fun st => { st with sret := st.sret.set (i % 8) v (Nat.mod_lt _ (by decide)) }
  | .frzlim k i =>
    if 40 ≤ k then s else s.modStand k fun st => { st with frzlim := st.frzlim.set (i % 8) (v.setWidth 32) (Nat.mod_lt _ (by decide)) }
  | .xlateRoot p => s.rwl port p fun c => { c with en := v.getLsbD 0, root := v.extractLsb' 13 47 }
  | .clusterMap p m => s.rwl port p fun c => { c with cluster := c.cluster.set (m % 64) (v.setWidth 7) (Nat.mod_lt _ (by decide)) }
  | .imgbase p => s.rwl port p fun c => { c with imgbase := v.extractLsb' 21 27 }
  | .imgcnt p => s.rwl port p fun c => { c with imgcnt := v.setWidth 16, cutpriv := v.getLsbD 16 }
  | .shedEntry n =>
    if s.power.step != 0 then s
    else { s with power := { s.power with shed := s.power.shed.set (n % 64) (v.setWidth 13 &&& 0x1F7F#13) (Nat.mod_lt _ (by decide)) } }
  | .errCounts => { s with errors := { s.errors with ce := v.setWidth 32, ue := v.extractLsb' 32 32 } }
  | .dumpbase => { s with errors := { s.errors with dumpbase := v.extractLsb' 21 27 } }
  | .updStatus => if v.getLsbD 3 then { s with update := { s.update with rollback := false } } else s

/-! ### The events -/

/-- R361. -/
def execColdReset (s : State) : Host.Outcome State Fault Refusal := .next s.coldReset

/-- R361. -/
def execImageLocatorReceived (port : Bool) (s : State) : Host.Outcome State Fault Refusal := .next (s.locator port)

/-- R361. -/
def execLinkWaitTimeout (s : State) : Host.Outcome State Fault Refusal := .next s.noLink

/-- R361 to R363. -/
def execImageFetchComplete (image : List Byte) (s : State) : Host.Outcome State Fault Refusal := .next (s.bootImage image)

/-- R383. -/
def execWarmReset (s : State) : Host.Outcome State Fault Refusal := .next s.warmReset

/-- R379. -/
def execPowerLoss (s : State) : Host.Outcome State Fault Refusal := .next s.losePower

/-- R385. -/
def execUpdateStart (val : BitVec 64) (s : State) : Host.Outcome State Fault Refusal := .next (s.startUpdate val)

/-- R385. -/
def execUpdateSwitch (s : State) : Host.Outcome State Fault Refusal := .next s.switchUpdate

/-- R385. -/
def execFirmwareHeartbeat (s : State) : Host.Outcome State Fault Refusal := .next s.beat

/-- R385. -/
def execUpdateCommit (s : State) : Host.Outcome State Fault Refusal := .next s.commitUpdate

/-- R385. -/
def execHeartbeatMissed (s : State) : Host.Outcome State Fault Refusal := .next s.missBeat

/-- R7. -/
def execRegisterWrite (port : Nat) (reg : RegName) (val : BitVec 64) (s : State) : Host.Outcome State Fault Refusal :=
  .next (s.writeRegister port reg val)

end Sys2Proof.Machine
end

