-- ==== Sys2Proof/Machine/Trust.lean ====
section
/-!
DEFINITION. SPDM sessions (R365, R366), measurements and keys (R367 to R369), and the states of interfaces (R371 to R375).
-/

namespace Sys2Proof.Machine

/-! ### SPDM (R365) -/

/-- Whether the responder answers: the module has started (R361, R363). -/
def State.answers (s : State) (port : Nat) : Bool := s.sec.stage == 7 && decide (port < 2)

/-- The answer of the responder on a port. Log 31 (PRESUMED). -/
def State.spdm (s : State) (port code : Nat) (data : List Byte) : State := s.emit (.spdm port code data)
def State.spdmError (s : State) (port : Nat) : State := s.emit (.spdmError port)

/-- How far a port's negotiation has come: 1 after GET_VERSION, 2 after GET_CAPABILITIES, 3 after NEGOTIATE_ALGORITHMS. -/
def State.level (s : State) (port : Nat) : Nat :=
  (s.sec.negotiated.filter fun k => k / 4 == port).foldl (fun m k => max m (k % 4)) 0

def State.setLevel (s : State) (port k : Nat) : State :=
  { s with sec := { s.sec with negotiated := s.sec.negotiated.filter (fun x => x / 4 != port) ++ [4 * port + k] } }

/-- The content of VERSION: one entry, 1.3 (R365). Log 31 (PRESUMED). -/
def versionBytes : List Byte := [0, 1] ++ bytesLE 0x1300 2

/-- The flags of CAPABILITIES that the requests of R365 stand for: certificates, challenge, signed measurements, encryption and MAC,
key exchange, heartbeat, key update; neither mutual authentication, PSK nor chunking. Log 31 (PRESUMED). -/
def capabilityBytes : List Byte := bytesLE 0x62D6 4

/-- The selections of ALGORITHMS (R365): measurement hash SHA-256, signing RSASSA-3072, hash SHA-256; exchange secp384r1, cipher
AES-256-GCM, no algorithm of the requester, the key schedule of SPDM. Log 31 (PRESUMED). -/
def algorithmBytes : List Byte := bytesLE 2 4 ++ bytesLE 4 4 ++ bytesLE 1 4 ++ bytesLE 0x10 2 ++ bytesLE 2 2 ++ bytesLE 0 2 ++ bytesLE 1 2

/-- A request of the negotiation, in its order, with its fixed answer. Log 31 (PRESUMED). -/
def State.negotiate (s : State) (port k code : Nat) (data : List Byte) : State :=
  if !s.answers port then s
  else if k = 1 then (s.setLevel port 1).spdm port code data
  else if s.level port + 1 != k then s.spdmError port
  else (s.setLevel port k).spdm port code data

/-- A request that needs a finished negotiation. -/
def State.ask (s : State) (port code : Nat) (data : List Byte) : State :=
  if !s.answers port then s else if s.level port < 3 then s.spdmError port else s.spdm port code data

/-- The certificate chain section. -/
def State.chain (s : State) : List Byte := sectionOf s.sec.image 5 5

/-- GET_CERTIFICATE (R365): slot 0 alone, and not in chunks. -/
def State.certificate (s : State) (port slot off len : Nat) (chunked : Bool) : State :=
  if !s.answers port then s
  else if s.level port < 3 || slot != 0 || chunked || s.chain.length ≤ off then s.spdmError port
  else s.spdm port 0x02 ((s.chain.drop off).take len)

/-- CHALLENGE (R365): slot 0 alone; the answer is signed with the device key. Log 31 (PRESUMED). -/
def State.challenge (s : State) (port slot : Nat) (nonce : List Byte) : State :=
  if s.answers port && slot != 0 then s.spdmError port else s.ask port 0x03 (Config.response 0x03 (s.sec.device.2 ++ nonce))

/-- GET_MEASUREMENTS (R367): one index, their number, or all. -/
def State.measurements (s : State) (port index : Nat) : State :=
  if index = 0 then s.ask port 0x60 [6]
  else if index = 0xFF then s.ask port 0x60 (s.sec.meas.toList.flatMap id)
  else if h : index - 1 < 6 then s.ask port 0x60 s.sec.meas[index - 1]
  else if s.answers port then s.spdmError port else s

/-! ### Sessions (R366) -/

/-- A session to which a message still belongs: one that has not run out. -/
def State.session (s : State) (n : Nat) : Option Session :=
  match tfind n s.sec.sessions with
  | some x => if x.period != 0 && decide (2 * x.period * 800000000 ≤ s.gcyc - x.last) then none else some x
  | none => none

def State.setSession (s : State) (n : Nat) (x : Session) : State := { s with sec := { s.sec with sessions := tput n x s.sec.sessions } }

/-- KEY_EXCHANGE opens the lowest free of the 8 sessions with a period of 0 to 60 seconds: with slot 0, and neither by PSK nor with
mutual authentication (R365, R366). Log 38 (DEDUCED). -/
def State.openSession (s : State) (port slot period : Nat) (psk mutAuth : Bool) : State :=
  if !s.answers port then s
  else if slot != 0 || psk || mutAuth then s.spdmError port
  else
    match (List.range 8).find? fun n => (tfind n s.sec.sessions).isNone with
    | some n =>
      if s.level port < 3 || 60 < period then s.spdmError port
      else (s.setSession n { port := port, period := period, last := s.gcyc }).spdm port 0x64 (Config.response 0x64 [BitVec.ofNat 8 n])
    | none => s.spdmError port

/-- A secured message of a session: it restarts the period. -/
def State.secured (s : State) (n : Nat) (k : Session → State → State) : State :=
  if s.sec.stage != 7 then s
  else
    match s.session n with
    | none => s
    | some x =>
      if !x.finished then s.spdmError x.port
      else let x := { x with last := s.gcyc }; k x (s.setSession n x)

/-- FINISH completes a session. -/
def State.finishSession (s : State) (n : Nat) : State :=
  match s.session n with
  | none => s
  | some x =>
    if x.finished then s.spdmError x.port
    else (s.setSession n { x with finished := true, last := s.gcyc }).spdm x.port 0x65 (Config.response 0x65 [BitVec.ofNat 8 n])

/-- A session ends: a trust event for every interface bound to it (R366, R371, R374), with its cause. -/
def State.dropSession (s : State) (n cause : Nat) : State :=
  let ps := (s.parts.filter fun p => p.2.trust.bound == some (BitVec.ofNat 3 n)).map Prod.fst
  let s := { s with sec := { s.sec with sessions := tdel n s.sec.sessions } }
  ps.foldl (fun s p =>
    if (s.part p).trust.state == .error then s.modTrust p fun t => { t with bound := none, stopping := none }
    else s.enterError p cause) s

def State.endSession (s : State) (n : Nat) : State :=
  s.secured n fun x s => (s.dropSession n 2).spdm x.port 0x6C []

/-- A session has run out. -/
def State.expireSession (s : State) (n : Nat) : State :=
  match tfind n s.sec.sessions with
  | some _ => if (s.session n).isNone then s.dropSession n 1 else s
  | none => s

/-! ### Keys and signers (R368, R369) -/

/-- A vendor request to a partition: in its bound session, while the interface is locked or runs. -/
def State.vendor (s : State) (n p : Nat) (ok : Bool) (f : PartTrust → PartTrust) : State :=
  s.secured n fun x s =>
    let t := (s.part p).trust
    if ok && decide (p < 64) && t.bound == some (BitVec.ofNat 3 n) && (t.state == .locked || t.state == .run) then
      (s.modTrust p f).spdm x.port 0x7E []
    else s.spdmError x.port

/-- A key slot is emptied; commands that hold its key go on with its counter (R234, R369). -/
def PartTrust.dropKey (t : PartTrust) (slot : Nat) : PartTrust :=
  let k := tget {} slot t.keys
  { t with keys := tdel slot t.keys, olds := if k.key.isSome then tput k.gen k.iv t.olds else t.olds }

def State.setKey (s : State) (n p slot : Nat) (key : List Byte) : State :=
  s.vendor n p (decide (slot < 256) && key.length == 32) fun t =>
    let t := t.dropKey slot
    { t with gens := t.gens + 1, keys := tput slot { key := some key, gen := t.gens + 1 } t.keys }

def State.clearKey (s : State) (n p slot : Nat) : State :=
  s.vendor n p (decide (slot < 256)) fun t => t.dropKey slot

def State.register (s : State) (n p : Nat) (id : Word) (m : List Byte) : State :=
  let t := (s.part p).trust
  s.vendor n p (m.length == 384 && decide (t.signers.length < 16) && !(t.signers.any fun x => x.1 == id)) fun t =>
    { t with signers := t.signers ++ [(id, m)] }

def State.unregister (s : State) (n p : Nat) (id : Word) : State :=
  s.vendor n p true fun t => { t with signers := t.signers.filter fun x => x.1 != id }

/-! ### Interfaces (R371 to R375) -/

/-- The answers to TDISP messages. Log 31 (PRESUMED). -/
def State.tdisp (s : State) (n code : Nat) (data : List Byte) : State := s.emit (.tdisp n code data)
def State.tdispError (s : State) (n : Nat) : State := s.emit (.tdispError n)

/-- A TDISP message of a secured session with P ≠ 0 for partition p. -/
def State.onInterface (s : State) (n p : Nat) (k : State → State) : State :=
  s.secured n fun x s => if x.period = 0 || 64 ≤ p then s.tdispError n else k s

/-- Whether a session may act on an interface: the bound one, or any when none is bound. -/
def PartTrust.allows (t : PartTrust) (n : Nat) : Bool := match t.bound with | some b => b.toNat == n | none => true

/-- The interface report (R371), fixed at the lock: the locked configuration of the partition. An entry of an access list names the
partition if it is of this module or of a host party. Log 31 (PRESUMED). -/
def State.reportBytes (s : State) (p : Nat) : List Byte :=
  let c := (s.part p).cfg
  let acls := (List.range 4096).flatMap fun g => (List.range 8).flatMap fun i =>
    let e := (s.gate g).entry i
    if aclV e && aclPart e == p && (aclHost e || aclMod e == s.pf.modid.toNat) then bytesLE e.toNat 8 else []
  Config.response 0x104 (bytesLE c.pspin.toNat 40 ++ (pspinList c.pspin).flatMap (fun n => bytesLE n 2) ++ bytesLE (c.root.toNat * 8192 + c.en.toNat) 8
    ++ c.cluster.toList.map (fun b => b.setWidth 8) ++ bytesLE c.imgbase.toNat 4 ++ bytesLE c.imgcnt.toNat 2
    ++ bytesLE c.cutpriv.toNat 1 ++ sha256 (c.binds.toList.flatMap fun b => bytesLE b.toNat 8) ++ sha256 acls
    ++ bytesLE c.rootgraph.toNat 8 ++ bytesLE s.pf.modid.toNat 1 ++ bytesLE s.pf.nmod.toNat 1)

/-- LOCK_INTERFACE_REQUEST: the configuration is fixed, PSNs with it (R50), barriers are reset (R283), and the image key is
generated (R370). -/
def State.lockInterface (s : State) (n p : Nat) : State :=
  s.onInterface n p fun s =>
    let t := (s.part p).trust
    if t.state != .unlocked || t.bound.isSome then s.tdispError n
    else
      let (v, s) := s.fresh
      let s := s.modPart p fun x => { x with
        bars := Vector.replicate 64 {}
        sched := { x.sched with psns := pspinList x.cfg.pspin }
        trust := { x.trust with bound := some (BitVec.ofNat 3 n), imgkey := some v, report := s.reportBytes p } }
      (s.setIf p .locked).tdisp n 0x03 (Config.response 0x103 [BitVec.ofNat 8 p])

/-- GET_DEVICE_INTERFACE_REPORT. -/
def State.interfaceReport (s : State) (n p : Nat) : State :=
  s.onInterface n p fun s =>
    let t := (s.part p).trust
    if (t.state == .locked || t.state == .run) && t.allows n then s.tdisp n 0x04 t.report else s.tdispError n

/-- GET_DEVICE_INTERFACE_STATE: in CONFIG_LOCKED and RUN, and in ERROR once the interface is unbound (R371). -/
def State.interfaceState (s : State) (n p : Nat) : State :=
  s.onInterface n p fun s =>
    let t := (s.part p).trust
    let open_ := match t.state with | .unlocked => false | .error => t.bound.isNone | _ => t.allows n
    if open_ then s.tdisp n 0x05 [BitVec.ofNat 8 t.state.code] else s.tdispError n

/-- START_INTERFACE_REQUEST: its window begins (R373). -/
def State.startInterface (s : State) (n p : Nat) : State :=
  s.onInterface n p fun s =>
    let t := (s.part p).trust
    if t.state == .locked && !t.starting && t.stopping.isNone && t.allows n then
      (s.modTrust p fun t => { t with starting := true }).schedDue p
    else s.tdispError n

/-- The interface enters RUN as one transaction of the partition (R375): PIN leaves are loaded (R329), the root graph is
launched (R31), and the response is sent. Log 41 (DEDUCED). -/
def State.enterRun (s : State) (p : Nat) : State :=
  let t := (s.part p).trust
  if !t.starting then s
  else
    let s := (s.loadPins p).launchRoot p
    -- the response is sent once the root graph is launched (R371)
    if (s.part p).sched.rootDue then s
    else
    ((s.modTrust p fun t => { t with starting := false }).setIf p .run).tdisp ((t.bound.getD 0).toNat) 0x06 []

/-- STOP_INTERFACE_REQUEST: a teardown, or its end is waited for. Log 36 (DEDUCED). -/
def State.stopInterface (s : State) (n p : Nat) : State :=
  s.onInterface n p fun s =>
    let t := (s.part p).trust
    if !t.allows n || t.stopping.isSome then s.tdispError n
    else
      match t.state with
      | .unlocked => s.tdispError n
      | .error =>
        if t.scrub then s.modTrust p fun t => { t with stopping := some n }
        else ((s.modTrust p fun t => { t with bound := none }).setIf p .unlocked).tdisp n 0x07 []
      | _ =>
        let s := if t.starting then s.tdispError n else s
        (s.modTrust p fun t => { t with starting := false, stopping := some n }).startTeardown p

/-! ### The end of a teardown (R374) -/

/-- Whether every task of a partition has been killed and nothing of them is on its way (R343). -/
def State.scrubReady (s : State) (p : Nat) : Bool :=
  (s.part p).trust.scrub && ((s.psns p).all fun n => (s.sp n).run == .empty && !(s.cuts.any fun k => k.spins.contains n))
    && !s.underWay fun m => m.part == p

/-- What the scheduler still holds of the partition ends: suspended tasks, images, graphs with status 3, contracts.
Log 36 (DEDUCED). -/
def State.endWork (s : State) (p : Nat) : State :=
  let d := (s.part p).sched
  let s := d.susp.foldl (fun s u => s.killSusp p u) s
  let s := s.discardImages p (d.images.map Prod.fst)
  let s := s.modSched p fun d => { d with ready := [], resting := [], queue := [], placed := [] }
  let s := d.graphs.foldl (fun s x => (List.range x.2.nodes.length).foldl (fun s k =>
    match s.graph p x.1 with
    | some g => if g.nodeDone k then s else s.failNode p x.1 k 3
    | none => s) s |>.finishGraph p x.1) s
  d.contracts.foldl (fun s k => s.revoke p k.addr.toNat) s

/-- The lines of form 0 of a page are zeroised. -/
def Memory.scrubPlain (m : Memory) (a n : Nat) : Memory :=
  let inside (k : Nat) : Bool := decide (a ≤ k) && decide (k < a + n)
  let plain (l : Nat) : Bool := inside (64 * l) && !m.form.contains l
  { m with
    cells := m.cells.filter fun c => !plain (c.1 / 64)
    poison := m.poison.filter fun l => !plain l
    tags := m.tags.filter fun x => !plain x.1
    soft := m.soft.filter fun x => !plain (x.1 / 64) }

/-- Slices, trusted pages, keys, signers, the image key and segments are zeroised. -/
def State.zeroise (s : State) (p : Nat) : State :=
  let ns := s.psns p
  let pages := (s.leaves p).filter fun l => leafTR l.entry
  let s := ns.foldl (fun s n => s.modMem fun m => m.scrub (sliceKey n 0) 0x2000000) s
  let s := pages.foldl (fun s l => s.modMem fun m => m.scrubPlain (leafAddr l.entry) l.size) s
  let s := s.modTrust p fun t => { t with keys := [], olds := [], signers := [], imgkey := none }
  { s with
    stands := s.stands.map fun k => (k.1, { k.2 with segs := k.2.segs.filter fun g => g.part != p })
    spindles := s.spindles.map fun x => if ns.contains x.1 then (x.1, { x.2 with owed := [], lastPart := none, ctx := {} }) else x }

/-- The scrub is complete, once the status of the ended graphs is written: the STOP that waits is answered. Log 36 (DEDUCED). -/
def State.scrubDone (s : State) (p : Nat) : State :=
  if !s.scrubReady p then s
  else
    let s := s.endWork p
    if s.recWaits p then s
    else
    let s := s.zeroise p
    let t := (s.part p).trust
    let s := s.modTrust p fun t => { t with scrub := false }
    match t.stopping with
    | none => s
    | some n => ((s.modTrust p fun t => { t with stopping := none, bound := none }).setIf p .unlocked).tdisp n 0x07 []

/-! ### The events -/

/-- R365. -/
def execGetVersion (port : Nat) (s : State) : Host.Outcome State Fault Refusal := .next (s.negotiate port 1 0x04 versionBytes)

/-- R365. -/
def execGetCapabilities (port : Nat) (s : State) : Host.Outcome State Fault Refusal := .next (s.negotiate port 2 0x61 capabilityBytes)

/-- R365. -/
def execNegotiateAlgorithms (port : Nat) (s : State) : Host.Outcome State Fault Refusal :=
  .next (s.negotiate port 3 0x63 algorithmBytes)

/-- R365. -/
def execGetDigests (port : Nat) (s : State) : Host.Outcome State Fault Refusal := .next (s.ask port 0x01 (sha256 s.chain))

/-- R365. -/
def execGetCertificate (port slot off len : Nat) (chunked : Bool) (s : State) : Host.Outcome State Fault Refusal :=
  .next (s.certificate port slot off len chunked)

/-- R365. -/
def execChallenge (port slot : Nat) (nonce : List Byte) (s : State) : Host.Outcome State Fault Refusal :=
  .next (s.challenge port slot nonce)

/-- R367. -/
def execGetMeasurements (port index : Nat) (s : State) : Host.Outcome State Fault Refusal := .next (s.measurements port index)

/-- R366. -/
def execKeyExchange (port slot period : Nat) (psk mutAuth : Bool) (s : State) : Host.Outcome State Fault Refusal :=
  .next (s.openSession port slot period psk mutAuth)

/-- R365. -/
def execFinish (sess : Nat) (s : State) : Host.Outcome State Fault Refusal := .next (s.finishSession sess)

/-- R366. -/
def execHeartbeat (sess : Nat) (s : State) : Host.Outcome State Fault Refusal := .next (s.secured sess fun x s => s.spdm x.port 0x68 [])

/-- R365. -/
def execKeyUpdate (sess : Nat) (s : State) : Host.Outcome State Fault Refusal :=
  .next (s.secured sess fun x s => (s.setSession sess { x with generation := x.generation + 1 }).spdm x.port 0x69 [])

/-- R366. -/
def execEndSession (sess : Nat) (s : State) : Host.Outcome State Fault Refusal := .next (s.endSession sess)

/-- R366. -/
def execSessionExpiry (sess : Nat) (s : State) : Host.Outcome State Fault Refusal := .next (s.expireSession sess)

/-- R368. -/
def execKeyset (sess part slot : Nat) (key : List Byte) (s : State) : Host.Outcome State Fault Refusal :=
  .next (s.setKey sess part slot key)

/-- R368. -/
def execKeyclr (sess part slot : Nat) (s : State) : Host.Outcome State Fault Refusal := .next (s.clearKey sess part slot)

/-- R368. -/
def execSignreg (sess part : Nat) (keyid : BitVec 64) (modulus : List Byte) (s : State) : Host.Outcome State Fault Refusal :=
  .next (s.register sess part keyid modulus)

/-- R368. -/
def execSignclr (sess part : Nat) (keyid : BitVec 64) (s : State) : Host.Outcome State Fault Refusal :=
  .next (s.unregister sess part keyid)

/-- R371. -/
def execLockInterfaceRequest (sess part : Nat) (s : State) : Host.Outcome State Fault Refusal := .next (s.lockInterface sess part)

/-- R371. -/
def execGetDeviceInterfaceReport (sess part : Nat) (s : State) : Host.Outcome State Fault Refusal :=
  .next (s.interfaceReport sess part)

/-- R371. -/
def execGetDeviceInterfaceState (sess part : Nat) (s : State) : Host.Outcome State Fault Refusal :=
  .next (s.interfaceState sess part)

/-- R371. -/
def execStartInterfaceRequest (sess part : Nat) (s : State) : Host.Outcome State Fault Refusal := .next (s.startInterface sess part)

/-- R371. -/
def execStopInterfaceRequest (sess part : Nat) (s : State) : Host.Outcome State Fault Refusal := .next (s.stopInterface sess part)

/-- R374. -/
def execTeardownScrubComplete (part : Nat) (s : State) : Host.Outcome State Fault Refusal := .next (s.scrubDone part)

end Sys2Proof.Machine
end

