-- ==== Sys2Proof/Machine/Dispatch.lean ====
section
/-!
DEFINITION. The dispatch: one arm for each constructor of `Instr`, each a direct call of its meaning.
-/

namespace Sys2Proof.Machine

/-- The meaning of an instruction or event: a slot word acts on the spindle `State.cur`. -/
def exec (i : Instr) (s : State) : Host.Outcome State Fault Refusal :=
  match i with
  | .nop sl => Sys2Proof.Machine.execNop sl s
  | .emptyBundle mark stamp => Sys2Proof.Machine.execEmptyBundle mark stamp s
  | .bankLockPrefix n ga maska gb maskb => Sys2Proof.Machine.execBankLockPrefix n ga maska gb maskb s
  | .add cl rd ra rb bk g => Sys2Proof.Machine.execAdd cl rd ra rb bk g s
  | .sub cl rd ra rb bk g => Sys2Proof.Machine.execSub cl rd ra rb bk g s
  | .and cl rd ra rb bk g => Sys2Proof.Machine.execAnd cl rd ra rb bk g s
  | .or cl rd ra rb bk g => Sys2Proof.Machine.execOr cl rd ra rb bk g s
  | .xor cl rd ra rb bk g => Sys2Proof.Machine.execXor cl rd ra rb bk g s
  | .andn cl rd ra rb bk g => Sys2Proof.Machine.execAndn cl rd ra rb bk g s
  | .sll cl rd ra rb bk g => Sys2Proof.Machine.execSll cl rd ra rb bk g s
  | .srl cl rd ra rb bk g => Sys2Proof.Machine.execSrl cl rd ra rb bk g s
  | .sra cl rd ra rb bk g => Sys2Proof.Machine.execSra cl rd ra rb bk g s
  | .slt cl rd ra rb bk g => Sys2Proof.Machine.execSlt cl rd ra rb bk g s
  | .sltu cl rd ra rb bk g => Sys2Proof.Machine.execSltu cl rd ra rb bk g s
  | .min cl rd ra rb bk g => Sys2Proof.Machine.execMin cl rd ra rb bk g s
  | .max cl rd ra rb bk g => Sys2Proof.Machine.execMax cl rd ra rb bk g s
  | .minu cl rd ra rb bk g => Sys2Proof.Machine.execMinu cl rd ra rb bk g s
  | .maxu cl rd ra rb bk g => Sys2Proof.Machine.execMaxu cl rd ra rb bk g s
  | .clz cl rd ra g => Sys2Proof.Machine.execClz cl rd ra g s
  | .popc cl rd ra g => Sys2Proof.Machine.execPopc cl rd ra g s
  | .addw cl rd ra rb bk g => Sys2Proof.Machine.execAddw cl rd ra rb bk g s
  | .subw cl rd ra rb bk g => Sys2Proof.Machine.execSubw cl rd ra rb bk g s
  | .sllw cl rd ra rb bk g => Sys2Proof.Machine.execSllw cl rd ra rb bk g s
  | .srlw cl rd ra rb bk g => Sys2Proof.Machine.execSrlw cl rd ra rb bk g s
  | .sraw cl rd ra rb bk g => Sys2Proof.Machine.execSraw cl rd ra rb bk g s
  | .hash cl rd ra rb bk g => Sys2Proof.Machine.execHash cl rd ra rb bk g s
  | .mul cl rd ra rb bk g => Sys2Proof.Machine.execMul cl rd ra rb bk g s
  | .mulh cl rd ra rb bk g => Sys2Proof.Machine.execMulh cl rd ra rb bk g s
  | .mulhu cl rd ra rb bk g => Sys2Proof.Machine.execMulhu cl rd ra rb bk g s
  | .mulw cl rd ra rb bk g => Sys2Proof.Machine.execMulw cl rd ra rb bk g s
  | .div rd ra rb bk g => Sys2Proof.Machine.execDiv rd ra rb bk g s
  | .divu rd ra rb bk g => Sys2Proof.Machine.execDivu rd ra rb bk g s
  | .rem rd ra rb bk g => Sys2Proof.Machine.execRem rd ra rb bk g s
  | .remu rd ra rb bk g => Sys2Proof.Machine.execRemu rd ra rb bk g s
  | .addi cl rd ra imm g => Sys2Proof.Machine.execAddi cl rd ra imm g s
  | .andi cl rd ra imm g => Sys2Proof.Machine.execAndi cl rd ra imm g s
  | .ori cl rd ra imm g => Sys2Proof.Machine.execOri cl rd ra imm g s
  | .xori cl rd ra imm g => Sys2Proof.Machine.execXori cl rd ra imm g s
  | .slli cl rd ra sh g => Sys2Proof.Machine.execSlli cl rd ra sh g s
  | .srli cl rd ra sh g => Sys2Proof.Machine.execSrli cl rd ra sh g s
  | .srai cl rd ra sh g => Sys2Proof.Machine.execSrai cl rd ra sh g s
  | .slti cl rd ra imm g => Sys2Proof.Machine.execSlti cl rd ra imm g s
  | .limm cl rd imm => Sys2Proof.Machine.execLimm cl rd imm s
  | .limmh cl rd imm => Sys2Proof.Machine.execLimmh cl rd imm s
  | .fimm cl rd imm => Sys2Proof.Machine.execFimm cl rd imm s
  | .lit cl rd num => Sys2Proof.Machine.execLit cl rd num s
  | .litS cl rd num => Sys2Proof.Machine.execLitS cl rd num s
  | .litD cl rd num => Sys2Proof.Machine.execLitD cl rd num s
  | .kld cl rd idx => Sys2Proof.Machine.execKld cl rd idx s
  | .pcmp cl pd ra rb bk cond g => Sys2Proof.Machine.execPcmp cl pd ra rb bk cond g s
  | .pcmpi cl pd cond ra imm g => Sys2Proof.Machine.execPcmpi cl pd cond ra imm g s
  | .pand cl pd pa pb g => Sys2Proof.Machine.execPand cl pd pa pb g s
  | .por cl pd pa pb g => Sys2Proof.Machine.execPor cl pd pa pb g s
  | .pxor cl pd pa pb g => Sys2Proof.Machine.execPxor cl pd pa pb g s
  | .pandn cl pd pa pb g => Sys2Proof.Machine.execPandn cl pd pa pb g s
  | .sel cl rd ra rb bk pk g => Sys2Proof.Machine.execSel cl rd ra rb bk pk g s
  | .xmov cl rd ra g => Sys2Proof.Machine.execXmov cl rd ra g s
  | .crd cl rd num => Sys2Proof.Machine.execCrd cl rd num s
  | .cwr cl ra num => Sys2Proof.Machine.execCwr cl ra num s
  | .acvtGen2loc cl rd ra g => Sys2Proof.Machine.execAcvtGen2loc cl rd ra g s
  | .acvtGen2shr cl rd ra g => Sys2Proof.Machine.execAcvtGen2shr cl rd ra g s
  | .acvtGen2clu cl rd ra g => Sys2Proof.Machine.execAcvtGen2clu cl rd ra g s
  | .acvtLoc2gen cl rd ra g => Sys2Proof.Machine.execAcvtLoc2gen cl rd ra g s
  | .acvtShr2gen cl rd ra g => Sys2Proof.Machine.execAcvtShr2gen cl rd ra g s
  | .acvtClu2gen cl rd ra g => Sys2Proof.Machine.execAcvtClu2gen cl rd ra g s
  | .atest cl pd ra ap g => Sys2Proof.Machine.execAtest cl pd ra ap g s
  | .fadd cl rd ra rb bk dbl zi zo rm => Sys2Proof.Machine.execFadd cl rd ra rb bk dbl zi zo rm s
  | .fsub cl rd ra rb bk dbl zi zo rm => Sys2Proof.Machine.execFsub cl rd ra rb bk dbl zi zo rm s
  | .fmul cl rd ra rb bk dbl zi zo rm => Sys2Proof.Machine.execFmul cl rd ra rb bk dbl zi zo rm s
  | .fmin cl rd ra rb bk dbl zi => Sys2Proof.Machine.execFmin cl rd ra rb bk dbl zi s
  | .fmax cl rd ra rb bk dbl zi => Sys2Proof.Machine.execFmax cl rd ra rb bk dbl zi s
  | .fabs cl rd ra dbl => Sys2Proof.Machine.execFabs cl rd ra dbl s
  | .fneg cl rd ra dbl => Sys2Proof.Machine.execFneg cl rd ra dbl s
  | .fcvt cl rd ra dbl zi zo rm => Sys2Proof.Machine.execFcvt cl rd ra dbl zi zo rm s
  | .ftoi cl rd ra dbl zi rm => Sys2Proof.Machine.execFtoi cl rd ra dbl zi rm s
  | .fito cl rd ra dbl rm => Sys2Proof.Machine.execFito cl rd ra dbl rm s
  | .fdiv rd ra rb bk dbl zi zo rm => Sys2Proof.Machine.execFdiv rd ra rb bk dbl zi zo rm s
  | .fsqrt rd ra dbl zi zo rm => Sys2Proof.Machine.execFsqrt rd ra dbl zi zo rm s
  | .fma cl rd ra rb rc dbl zi zo rm => Sys2Proof.Machine.execFma cl rd ra rb rc dbl zi zo rm s
  | .fnma cl rd ra rb rc dbl zi zo rm => Sys2Proof.Machine.execFnma cl rd ra rb rc dbl zi zo rm s
  | .fcmp cl pd cond ra rb dbl => Sys2Proof.Machine.execFcmp cl pd cond ra rb dbl s
  | .fclass cl rd ra dbl g => Sys2Proof.Machine.execFclass cl rd ra dbl g s
  | .br off g => Sys2Proof.Machine.execBr off g s
  | .jr ra off g => Sys2Proof.Machine.execJr ra off g s
  | .call off g => Sys2Proof.Machine.execCall off g s
  | .ret g => Sys2Proof.Machine.execRet g s
  | .loop lc sm1 xc endOff => Sys2Proof.Machine.execLoop lc sm1 xc endOff s
  | .loopR lc sm1 xc endOff => Sys2Proof.Machine.execLoopR lc sm1 xc endOff s
  | .loopi lc sm1 count endOff => Sys2Proof.Machine.execLoopi lc sm1 count endOff s
  | .loopiR lc sm1 count endOff => Sys2Proof.Machine.execLoopiR lc sm1 count endOff s
  | .lbrk g => Sys2Proof.Machine.execLbrk g s
  | .frame g => Sys2Proof.Machine.execFrame g s
  | .sysc code g => Sys2Proof.Machine.execSysc code g s
  | .brk code g => Sys2Proof.Machine.execBrk code g s
  | .tend g => Sys2Proof.Machine.execTend g s
  | .est ra g => Sys2Proof.Machine.execEst ra g s
  | .rfe => Sys2Proof.Machine.execRfe s
  | .esc code g => Sys2Proof.Machine.execEsc code g s
  | .tlaunch rd ra g => Sys2Proof.Machine.execTlaunch rd ra g s
  | .tjoin rd ra g => Sys2Proof.Machine.execTjoin rd ra g s
  | .tjoinW rd ra g => Sys2Proof.Machine.execTjoinW rd ra g s
  | .admitC rd ra g => Sys2Proof.Machine.execAdmitC rd ra g s
  | .admitX rd ra g => Sys2Proof.Machine.execAdmitX rd ra g s
  | .gsig rd ra bnd g => Sys2Proof.Machine.execGsig rd ra bnd g s
  | .gwait rd ra bnd g => Sys2Proof.Machine.execGwait rd ra bnd g s
  | .gpoll rd ra bnd g => Sys2Proof.Machine.execGpoll rd ra bnd g s
  | .barra rd ra bar g => Sys2Proof.Machine.execBarra rd ra bar g s
  | .barraQ rd bar g => Sys2Proof.Machine.execBarraQ rd bar g s
  | .barrw ra bar g => Sys2Proof.Machine.execBarrw ra bar g s
  | .sstep rd g => Sys2Proof.Machine.execSstep rd g s
  | .fence scope g => Sys2Proof.Machine.execFence scope g s
  | .cut rd ra g => Sys2Proof.Machine.execCut rd ra g s
  | .ldb reg base off g => Sys2Proof.Machine.execLdb reg base off g s
  | .ldh reg base off g => Sys2Proof.Machine.execLdh reg base off g s
  | .ldw reg base off g => Sys2Proof.Machine.execLdw reg base off g s
  | .ldd reg base off g => Sys2Proof.Machine.execLdd reg base off g s
  | .ldbz reg base off g => Sys2Proof.Machine.execLdbz reg base off g s
  | .ldhz reg base off g => Sys2Proof.Machine.execLdhz reg base off g s
  | .ldwz reg base off g => Sys2Proof.Machine.execLdwz reg base off g s
  | .stb reg base off g => Sys2Proof.Machine.execStb reg base off g s
  | .sth reg base off g => Sys2Proof.Machine.execSth reg base off g s
  | .stw reg base off g => Sys2Proof.Machine.execStw reg base off g s
  | .std reg base off g => Sys2Proof.Machine.execStd reg base off g s
  | .vld reg base off g => Sys2Proof.Machine.execVld reg base off g s
  | .vst reg base off g => Sys2Proof.Machine.execVst reg base off g s
  | .aintAddW d base r ord g => Sys2Proof.Machine.execAintAddW d base r ord g s
  | .aintAddD d base r ord g => Sys2Proof.Machine.execAintAddD d base r ord g s
  | .aintAnd d base r ord g => Sys2Proof.Machine.execAintAnd d base r ord g s
  | .aintOr d base r ord g => Sys2Proof.Machine.execAintOr d base r ord g s
  | .aintXor d base r ord g => Sys2Proof.Machine.execAintXor d base r ord g s
  | .aintMin d base r ord g => Sys2Proof.Machine.execAintMin d base r ord g s
  | .aintMax d base r ord g => Sys2Proof.Machine.execAintMax d base r ord g s
  | .aintMinz d base r ord g => Sys2Proof.Machine.execAintMinz d base r ord g s
  | .aintMaxz d base r ord g => Sys2Proof.Machine.execAintMaxz d base r ord g s
  | .aintSwapW d base r ord g => Sys2Proof.Machine.execAintSwapW d base r ord g s
  | .aintSwapD d base r ord g => Sys2Proof.Machine.execAintSwapD d base r ord g s
  | .afpFadd d base r fmt ord g => Sys2Proof.Machine.execAfpFadd d base r fmt ord g s
  | .afpFmin d base r fmt ord g => Sys2Proof.Machine.execAfpFmin d base r fmt ord g s
  | .afpFmax d base r fmt ord g => Sys2Proof.Machine.execAfpFmax d base r fmt ord g s
  | .acasW d base r ord g => Sys2Proof.Machine.execAcasW d base r ord g s
  | .acasD d base r ord g => Sys2Proof.Machine.execAcasD d base r ord g s
  | .acasQ d base r ord g => Sys2Proof.Machine.execAcasQ d base r ord g s
  | .vaccOvw v base ord g => Sys2Proof.Machine.execVaccOvw v base ord g s
  | .vaccAddF32 v base ord g => Sys2Proof.Machine.execVaccAddF32 v base ord g s
  | .vaccAddF64 v base ord g => Sys2Proof.Machine.execVaccAddF64 v base ord g s
  | .vaccAddBf16 v base ord g => Sys2Proof.Machine.execVaccAddBf16 v base ord g s
  | .vaccAddF16 v base ord g => Sys2Proof.Machine.execVaccAddF16 v base ord g s
  | .vaccAddI32 v base ord g => Sys2Proof.Machine.execVaccAddI32 v base ord g s
  | .bpop v bob n g => Sys2Proof.Machine.execBpop v bob n g s
  | .bpush v bob n g => Sys2Proof.Machine.execBpush v bob n g s
  | .badvC bob n g => Sys2Proof.Machine.execBadvC bob n g s
  | .badvP bob n g => Sys2Proof.Machine.execBadvP bob n g s
  | .bwaitC bob n g => Sys2Proof.Machine.execBwaitC bob n g s
  | .bwaitP bob n g => Sys2Proof.Machine.execBwaitP bob n g s
  | .vadd vd va vb ty zi zo r q => Sys2Proof.Machine.execVadd vd va vb ty zi zo r q s
  | .vsub vd va vb ty zi zo r q => Sys2Proof.Machine.execVsub vd va vb ty zi zo r q s
  | .vmul vd va vb ty zi zo r q => Sys2Proof.Machine.execVmul vd va vb ty zi zo r q s
  | .vfma vd va vb ty zi zo r q => Sys2Proof.Machine.execVfma vd va vb ty zi zo r q s
  | .vfmac vd va vb ty zi zo r q => Sys2Proof.Machine.execVfmac vd va vb ty zi zo r q s
  | .vmin vd va vb ty zi r q => Sys2Proof.Machine.execVmin vd va vb ty zi r q s
  | .vmax vd va vb ty zi r q => Sys2Proof.Machine.execVmax vd va vb ty zi r q s
  | .vabs vd va ty q => Sys2Proof.Machine.execVabs vd va ty q s
  | .vneg vd va ty q => Sys2Proof.Machine.execVneg vd va ty q s
  | .vdiv vd va vb ty zi zo r q => Sys2Proof.Machine.execVdiv vd va vb ty zi zo r q s
  | .vexp vd va ty zi zo q => Sys2Proof.Machine.execVexp vd va ty zi zo q s
  | .vexp2 vd va ty zi zo q => Sys2Proof.Machine.execVexp2 vd va ty zi zo q s
  | .vlog2 vd va ty zi zo q => Sys2Proof.Machine.execVlog2 vd va ty zi zo q s
  | .vrcp vd va ty zi zo q => Sys2Proof.Machine.execVrcp vd va ty zi zo q s
  | .vrsqrt vd va ty zi zo q => Sys2Proof.Machine.execVrsqrt vd va ty zi zo q s
  | .vsqrt vd va ty zi zo q => Sys2Proof.Machine.execVsqrt vd va ty zi zo q s
  | .vrmax vd va ty zi q => Sys2Proof.Machine.execVrmax vd va ty zi q s
  | .vrmin vd va ty zi q => Sys2Proof.Machine.execVrmin vd va ty zi q s
  | .vrsum vd va ty zi zo q => Sys2Proof.Machine.execVrsum vd va ty zi zo q s
  | .vcmplt vd va vb ty zi r q => Sys2Proof.Machine.execVcmplt vd va vb ty zi r q s
  | .vcmpeq vd va vb ty zi r q => Sys2Proof.Machine.execVcmpeq vd va vb ty zi r q s
  | .vsel vd va vb ty r q => Sys2Proof.Machine.execVsel vd va vb ty r q s
  | .vcvt vd va code ty zi zo q => Sys2Proof.Machine.execVcvt vd va code ty zi zo q s
  | .vmov vd va q => Sys2Proof.Machine.execVmov vd va q s
  | .vbcast vd va vb ty q => Sys2Proof.Machine.execVbcast vd va vb ty q s
  | .vbcastY vd vb ty q => Sys2Proof.Machine.execVbcastY vd vb ty q s
  | .vlsh vd va n ty q => Sys2Proof.Machine.execVlsh vd va n ty q s
  | .vlshY vd va vb ty q => Sys2Proof.Machine.execVlshY vd va vb ty q s
  | .vget vd va vb ty q => Sys2Proof.Machine.execVget vd va vb ty q s
  | .vput vd va vb ty q => Sys2Proof.Machine.execVput vd va vb ty q s
  | .viadd vd va vb r q => Sys2Proof.Machine.execViadd vd va vb r q s
  | .visub vd va vb r q => Sys2Proof.Machine.execVisub vd va vb r q s
  | .vimul vd va vb r q => Sys2Proof.Machine.execVimul vd va vb r q s
  | .vand vd va vb r q => Sys2Proof.Machine.execVand vd va vb r q s
  | .vor vd va vb r q => Sys2Proof.Machine.execVor vd va vb r q s
  | .vxor vd va vb r q => Sys2Proof.Machine.execVxor vd va vb r q s
  | .vsll vd va vb r q => Sys2Proof.Machine.execVsll vd va vb r q s
  | .vsrl vd va vb r q => Sys2Proof.Machine.execVsrl vd va vb r q s
  | .vsra vd va vb r q => Sys2Proof.Machine.execVsra vd va vb r q s
  | .vimin vd va vb r q => Sys2Proof.Machine.execVimin vd va vb r q s
  | .vimax vd va vb r q => Sys2Proof.Machine.execVimax vd va vb r q s
  | .vadd8 vd va vb ty zi zo r q => Sys2Proof.Machine.execVadd8 vd va vb ty zi zo r q s
  | .vmul8 vd va vb ty zi zo r q => Sys2Proof.Machine.execVmul8 vd va vb ty zi zo r q s
  | .viota vd ty q => Sys2Proof.Machine.execViota vd ty q s
  | .vrng vd va vb r q => Sys2Proof.Machine.execVrng vd va vb r q s
  | .mcallGemm sa sb f0 neg => Sys2Proof.Machine.execMcallGemm sa sb f0 neg s
  | .mcallGemmt sa sb f0 neg => Sys2Proof.Machine.execMcallGemmt sa sb f0 neg s
  | .mcallGemmz sa sb f0 neg => Sys2Proof.Machine.execMcallGemmz sa sb f0 neg s
  | .mcallGemv sa sb f0 neg => Sys2Proof.Machine.execMcallGemv sa sb f0 neg s
  | .mcallOuter sa sb f0 neg => Sys2Proof.Machine.execMcallOuter sa sb f0 neg s
  | .mcallTrans => Sys2Proof.Machine.execMcallTrans s
  | .mcallDgemm sa sb f0 neg => Sys2Proof.Machine.execMcallDgemm sa sb f0 neg s
  | .mcallRowsc sa f0 => Sys2Proof.Machine.execMcallRowsc sa f0 s
  | .mcallColred f0 => Sys2Proof.Machine.execMcallColred f0 s
  | .mcallCvtout sb f0 => Sys2Proof.Machine.execMcallCvtout sb f0 s
  | .mcallLoadc sb f0 => Sys2Proof.Machine.execMcallLoadc sb f0 s
  | .mzero tile => Sys2Proof.Machine.execMzero tile s
  | .mwait => Sys2Proof.Machine.execMwait s
  | .mwaitTile tile => Sys2Proof.Machine.execMwaitTile tile s
  | .matrixRoutineComplete n => Sys2Proof.Machine.execMatrixRoutineComplete n s
  | .matrixRoutineStop n => Sys2Proof.Machine.execMatrixRoutineStop n s
  | .cpy sa sb ct sh ch => Sys2Proof.Machine.execCpy sa sb ct sh ch s
  | .publ ch => Sys2Proof.Machine.execPubl ch s
  | .gath sa sb ct sh ch => Sys2Proof.Machine.execGath sa sb ct sh ch s
  | .scat sa sb ct ch => Sys2Proof.Machine.execScat sa sb ct ch s
  | .coll sa sb ch => Sys2Proof.Machine.execColl sa sb ch s
  | .sbar after before => Sys2Proof.Machine.execSbar after before s
  | .cwait ch => Sys2Proof.Machine.execCwait ch s
  | .persist sa sb => Sys2Proof.Machine.execPersist sa sb s
  | .cpyb sa n bob ch => Sys2Proof.Machine.execCpyb sa n bob ch s
  | .bdrain sb n bob ch => Sys2Proof.Machine.execBdrain sb n bob ch s
  | .streamLineMove n => Sys2Proof.Machine.execStreamLineMove n s
  | .streamComplete n c => Sys2Proof.Machine.execStreamComplete n c s
  | .streamDeadlineExpiry n c => Sys2Proof.Machine.execStreamDeadlineExpiry n c s
  | .publishSwap n c => Sys2Proof.Machine.execPublishSwap n c s
  | .seal sa sb ks n => Sys2Proof.Machine.execSeal sa sb ks n s
  | .openCt sa sb ks n => Sys2Proof.Machine.execOpenCt sa sb ks n s
  | .ywait => Sys2Proof.Machine.execYwait s
  | .cipherCommandComplete n => Sys2Proof.Machine.execCipherCommandComplete n s
  | .remoteReplyArrival id => Sys2Proof.Machine.execRemoteReplyArrival id s
  | .writeAckArrival id => Sys2Proof.Machine.execWriteAckArrival id s
  | .failureNoticeArrival id => Sys2Proof.Machine.execFailureNoticeArrival id s
  | .remoteReadAtHome id => Sys2Proof.Machine.execRemoteReadAtHome id s
  | .remoteWriteAtHome id => Sys2Proof.Machine.execRemoteWriteAtHome id s
  | .remoteAtomicAtHome id => Sys2Proof.Machine.execRemoteAtomicAtHome id s
  | .translationWalkComplete die part off => Sys2Proof.Machine.execTranslationWalkComplete die part off s
  | .codeTagCheck n block => Sys2Proof.Machine.execCodeTagCheck n block s
  | .blockPullComplete n b => Sys2Proof.Machine.execBlockPullComplete n b s
  | .owedBlockWriteout n b => Sys2Proof.Machine.execOwedBlockWriteout n b s
  | .imageDrainBlock n => Sys2Proof.Machine.execImageDrainBlock n s
  | .segmentLoad n => Sys2Proof.Machine.execSegmentLoad n s
  | .tokenTick part => Sys2Proof.Machine.execTokenTick part s
  | .contractRelease part c => Sys2Proof.Machine.execContractRelease part c s
  | .budgetExhausted part c => Sys2Proof.Machine.execBudgetExhausted part c s
  | .drainLimitExpiry n => Sys2Proof.Machine.execDrainLimitExpiry n s
  | .schedulerTransactionCommit part => Sys2Proof.Machine.execSchedulerTransactionCommit part s
  | .taskRetirement n => Sys2Proof.Machine.execTaskRetirement n s
  | .cutStop n => Sys2Proof.Machine.execCutStop n s
  | .quiescence n => Sys2Proof.Machine.execQuiescence n s
  | .ppboundCountExpiry n => Sys2Proof.Machine.execPpboundCountExpiry n s
  | .watchdog n => Sys2Proof.Machine.execWatchdog n s
  | .dispositionResume stand k newpc setx xreg addr => Sys2Proof.Machine.execDispositionResume stand k newpc setx xreg addr s
  | .dispositionKill stand k => Sys2Proof.Machine.execDispositionKill stand k s
  | .trapRingTailWrite stand val => Sys2Proof.Machine.execTrapRingTailWrite stand val s
  | .barrierArrival id => Sys2Proof.Machine.execBarrierArrival id s
  | .barrierCompletionNotice n => Sys2Proof.Machine.execBarrierCompletionNotice n s
  | .stepCompletion part handle node => Sys2Proof.Machine.execStepCompletion part handle node s
  | .gateOperationAtHome id => Sys2Proof.Machine.execGateOperationAtHome id s
  | .gateWaitTimeout id => Sys2Proof.Machine.execGateWaitTimeout id s
  | .gateTokenRefill gate entry => Sys2Proof.Machine.execGateTokenRefill gate entry s
  | .gcntWrite gate val => Sys2Proof.Machine.execGcntWrite gate val s
  | .gateValidWrite port gate val => Sys2Proof.Machine.execGateValidWrite port gate val s
  | .aclEntryWrite port gate entry val => Sys2Proof.Machine.execAclEntryWrite port gate entry val s
  | .hgsig port part bnd val => Sys2Proof.Machine.execHgsig port part bnd val s
  | .hgcnt port part bnd => Sys2Proof.Machine.execHgcnt port part bnd s
  | .hwakeWrite port part bnd val => Sys2Proof.Machine.execHwakeWrite port part bnd val s
  | .leaseClaim port claim => Sys2Proof.Machine.execLeaseClaim port claim s
  | .leaseExpiry => Sys2Proof.Machine.execLeaseExpiry s
  | .hostMemoryWrite port part off data => Sys2Proof.Machine.execHostMemoryWrite port part off data s
  | .hostMemoryRead port part off len => Sys2Proof.Machine.execHostMemoryRead port part off len s
  | .pspinWrite port part word val => Sys2Proof.Machine.execPspinWrite port part word val s
  | .reservationWrite port part val => Sys2Proof.Machine.execReservationWrite port part val s
  | .lsdomWrite port val => Sys2Proof.Machine.execLsdomWrite port val s
  | .xinvWrite part val => Sys2Proof.Machine.execXinvWrite part val s
  | .invalidationComplete part => Sys2Proof.Machine.execInvalidationComplete part s
  | .hcut val => Sys2Proof.Machine.execHcut val s
  | .hcutAccept => Sys2Proof.Machine.execHcutAccept s
  | .powerEvaluation watts => Sys2Proof.Machine.execPowerEvaluation watts s
  | .powerCapWrite val => Sys2Proof.Machine.execPowerCapWrite val s
  | .droopTrip stand level count => Sys2Proof.Machine.execDroopTrip stand level count s
  | .patrolScrub at_ => Sys2Proof.Machine.execPatrolScrub at_ s
  | .coldReset => Sys2Proof.Machine.execColdReset s
  | .imageLocatorReceived port => Sys2Proof.Machine.execImageLocatorReceived port s
  | .linkWaitTimeout => Sys2Proof.Machine.execLinkWaitTimeout s
  | .imageFetchComplete image => Sys2Proof.Machine.execImageFetchComplete image s
  | .warmReset => Sys2Proof.Machine.execWarmReset s
  | .fatalError row => Sys2Proof.Machine.execFatalError row s
  | .fatalStop => Sys2Proof.Machine.execFatalStop s
  | .getVersion port => Sys2Proof.Machine.execGetVersion port s
  | .getCapabilities port => Sys2Proof.Machine.execGetCapabilities port s
  | .negotiateAlgorithms port => Sys2Proof.Machine.execNegotiateAlgorithms port s
  | .getDigests port => Sys2Proof.Machine.execGetDigests port s
  | .getCertificate port slot off len chunked => Sys2Proof.Machine.execGetCertificate port slot off len chunked s
  | .challenge port slot nonce => Sys2Proof.Machine.execChallenge port slot nonce s
  | .getMeasurements port index => Sys2Proof.Machine.execGetMeasurements port index s
  | .keyExchange port slot period psk mutAuth => Sys2Proof.Machine.execKeyExchange port slot period psk mutAuth s
  | .finish sess => Sys2Proof.Machine.execFinish sess s
  | .heartbeat sess => Sys2Proof.Machine.execHeartbeat sess s
  | .keyUpdate sess => Sys2Proof.Machine.execKeyUpdate sess s
  | .endSession sess => Sys2Proof.Machine.execEndSession sess s
  | .sessionExpiry sess => Sys2Proof.Machine.execSessionExpiry sess s
  | .keyset sess part slot key => Sys2Proof.Machine.execKeyset sess part slot key s
  | .keyclr sess part slot => Sys2Proof.Machine.execKeyclr sess part slot s
  | .signreg sess part keyid modulus => Sys2Proof.Machine.execSignreg sess part keyid modulus s
  | .signclr sess part keyid => Sys2Proof.Machine.execSignclr sess part keyid s
  | .lockInterfaceRequest sess part => Sys2Proof.Machine.execLockInterfaceRequest sess part s
  | .getDeviceInterfaceReport sess part => Sys2Proof.Machine.execGetDeviceInterfaceReport sess part s
  | .getDeviceInterfaceState sess part => Sys2Proof.Machine.execGetDeviceInterfaceState sess part s
  | .startInterfaceRequest sess part => Sys2Proof.Machine.execStartInterfaceRequest sess part s
  | .stopInterfaceRequest sess part => Sys2Proof.Machine.execStopInterfaceRequest sess part s
  | .teardownScrubComplete part => Sys2Proof.Machine.execTeardownScrubComplete part s
  | .registerWrite port reg val => Sys2Proof.Machine.execRegisterWrite port reg val s
  | .updateStart val => Sys2Proof.Machine.execUpdateStart val s
  | .updateSwitch => Sys2Proof.Machine.execUpdateSwitch s
  | .firmwareHeartbeat => Sys2Proof.Machine.execFirmwareHeartbeat s
  | .updateCommit => Sys2Proof.Machine.execUpdateCommit s
  | .heartbeatMissed => Sys2Proof.Machine.execHeartbeatMissed s
  | .exposedResultLanding n => Sys2Proof.Machine.execExposedResultLanding n s
  | .declaredBoundExpiry n => Sys2Proof.Machine.execDeclaredBoundExpiry n s
  | .persistenceReached n => Sys2Proof.Machine.execPersistenceReached n s
  | .droopRecovery stand => Sys2Proof.Machine.execDroopRecovery stand s
  | .powerLoss => Sys2Proof.Machine.execPowerLoss s

end Sys2Proof.Machine
end

