-- ==== Sys2Proof/Machine/Cycle.lean ====
section
/-!
DEFINITION. A cycle of one spindle, or of a timed domain whose spindles share one freeze line (R74, R290 to R294,
R317), and the bundle that issues in it: every word is one `exec`.
-/

namespace Sys2Proof.Machine

/-- One outcome after another. -/
def thenDo (o : Host.Outcome State Fault Refusal) (f : State → Host.Outcome State Fault Refusal) :
    Host.Outcome State Fault Refusal :=
  match o with
  | .next s => f s
  | .fault r => .fault r
  | .refused r => .refused r

/-- Words one after another (R68). -/
def execWords : List Instr → State → Host.Outcome State Fault Refusal
  | [], s => .next s
  | i :: is, s => thenDo (exec i s) (execWords is)

/-- The end of a bundle and of its cycle; `hm` says that it was a handler's. -/
def State.bundleDone (s : State) (n : Nat) (f : Fetched) (hm : Bool) : State :=
  let sfc := (s.ctxOf n).ctl.sfc
  let s := s.bundleEnd n f
  let s := s.modSp n fun sp => { sp with
    firstIssue := some (sp.firstIssue.getD s.gcyc)
    ctx := if hm then sp.ctx else { sp.ctx with unfused := none } }
  (((if hm then s.handlerEnd n else s.cycleEnd n false).lockTick n).afterBundle n hm sfc)

/-- The header of a bundle takes effect. -/
def execHeader (f : Fetched) (s : State) : Host.Outcome State Fault Refusal :=
  if f.words.isEmpty then exec (.emptyBundle f.h.mark f.h.stamp) s else .next (s.headerEffect f.h.mark f.h.stamp)

/-- A bundle issues (R68, R71). -/
def issueBundle (n : Nat) (f : Fetched) (s : State) : Host.Outcome State Fault Refusal :=
  let hm := (s.ctxOf n).ctl.hmode
  let s := { s with cur := n }.modCtx n fun c => { c with bun := f.bun }
  thenDo (execWords f.lock.toList s) fun s =>
    thenDo (execHeader f s) fun s =>
      thenDo (execWords (f.words.map Prod.snd) s) fun s => .next (s.bundleDone n f hm)

/-- What a spindle does in a cycle, done. -/
def applyAct (n : Nat) (a : Act) (s : State) : Host.Outcome State Fault Refusal :=
  let s := { s with cur := n }
  match a with
  | .block => .next (s.streamTick n false)
  | .freeze ks b => .next (s.frozenEnd n ks ks b)
  | .trap t => .next (((s.unfuse n).takeTrap n t).streamTick n false)
  | .notice t => .next ((s.raiseNotice n t).streamTick n false)
  | .fpx slot word fl =>
    let s := (s.unfuse n).modCtx n fun c => { c with bun := { c.bun with start := c.pc } }
    .next ((s.takeFpx slot word fl).streamTick n false)
  | .tendFault t k =>
    let s := s.modCtx n fun c => { c with notices := if k then ((pickNotice c.notices).map Prod.snd).getD [] else c.notices, eng := c.eng.clear t.source }
    .next ((s.escalate n t).streamTick n false)
  | .retire => .next ((s.frozenEnd n [wTEND] [wTEND] false).push [.taskRetirement n])
  | .capture => .next ((s.streamTick n false).push [.ppboundCountExpiry n])
  | .expire => .next ((s.streamTick n false).push [.ppboundCountExpiry n])
  | .idle w => .next (if (s.ctxOf n).ctl.hmode then s.handlerEnd n else s.cycleEnd n w)
  | .go f => issueBundle n f s

/-- Whether an act is a trap or ends the context's run. -/
def Act.breaks : Act → Bool
  | .block | .freeze .. | .idle _ | .go _ => false
  | _ => true

/-- Each of several spindles. -/
def eachOf (f : Nat → State → Host.Outcome State Fault Refusal) : List Nat → State → Host.Outcome State Fault Refusal
  | [], s => .next s
  | n :: ns, s => thenDo (f n s) (eachOf f ns)

/-- The kinds of the freezes among acts, and whether all are bounded. -/
def freezesOf (as : List (Nat × Act)) : List Nat × Bool :=
  as.foldl (fun x p => match p.2 with | .freeze ks b => (x.1 ++ ks, x.2 && b) | _ => x) ([], true)

/-- The kinds for which a spindle freezes, among acts. -/
def ownKinds (as : List (Nat × Act)) (n : Nat) : List Nat :=
  match as.find? fun p => p.1 == n with | some (_, .freeze ks _) => ks | _ => []

/-- Several spindles freeze together, each with the causes that it asserts itself. -/
def State.freezeBy (s : State) (g : List Nat) (own : Nat → List Nat) (bounded : Bool) : State :=
  g.foldl (fun s n => s.frozenEnd n (own n) (g.flatMap own) bounded) s

/-- What each spindle does, with the requests that their waits make. -/
def State.actsOf (s : State) (g : List Nat) : List (Nat × Act) × State :=
  g.foldl (fun x n => let r := x.2.actOf n; (x.1 ++ [(n, r.1)], r.2)) ([], s)

/-- All of several spindles freeze for causes beside those of their words, which count as well (R74, R251, R294). Results to the
tiles of an engine that counts land (R250). -/
def State.freezeAll (s : State) (g : List Nat) (more : Nat → List Nat) (bounded : Bool) : State :=
  let as := (s.actsOf g).1
  let own (n : Nat) : List Nat := more n ++ ownKinds as n
  (g.foldl (fun s n => if (s.ctxOf n).engineCounts (own n) then s.landTiles n else s) s).freezeBy g own (bounded && (freezesOf as).2)

/-! ### What opens a cycle -/

/-- The blocks that fixed-time accesses reaching their homes miss (R291), asked for. -/
def State.domMisses (s : State) (g : List Nat) : Bool × State :=
  g.foldl (fun x n => ((s.ctxOf n).domOps).foldl (fun x d =>
    let m := s.domMiss d
    (x.1 || !m.isEmpty, x.2.askBlocks d.home m)) x) (false, s)


/-- A BARRW that idles ends when its phases have completed for the domain (R287). -/
def State.barrierWake (s : State) (n : Nat) : State :=
  let c := s.ctxOf n
  match c.barw with
  | .idling b w =>
    let o := s.barrier c.partN b
    if o.reached w && s.mayAcquire n o.clock then (s.modCtx n fun c => { c with barw := .idle }).mergeClock (dieOf n) o.clock
    else s
  | _ => s

/-- The step of a timed domain completes (R289). -/
def State.stepWake (s : State) (g : List Nat) : State :=
  match g with
  | [] => s
  | n :: _ =>
    let c := s.ctxOf n
    if c.domain && s.stepReady c.partN c.gang then s.stepFinish c.partN c.gang else s

/-- Whether the step of a strict gang has met its bound (R294): 24 cycles after its last arrival, of the domain cycles and of
the frozen cycles that count. -/
def State.stepOver (s : State) (p gang : Nat) : Bool :=
  let ms := s.gangOn gang
  let frozen := ms.foldl (fun x m => min x (s.ctxOf m).bound) ((s.ctxOf (ms.headD 0)).bound)
  (ms.all fun m => match (s.ctxOf m).step with
      | .waiting t _ => decide (t + 24 ≤ (s.ctxOf m).domCycle + frozen)
      | .idle => false)
    && !(s.part p).sched.susp.any fun u => u.sp.ctx.gang == gang

/-- A strict step that meets its bound: OVERRUN where acknowledgements are missing, and the step ends (R294). Log 18 (DEDUCED). -/
def State.stepExpire (s : State) (g : List Nat) : State :=
  match g with
  | [] => s
  | n :: _ =>
    let c := s.ctxOf n
    if c.domain && c.ctl.strict && c.step != .idle && s.stepOver c.partN c.gang && !s.stepReady c.partN c.gang then
      let late := (s.gangOn c.gang).filter fun m => !s.stepApplied (s.ctxOf m)
      let (v, s) := s.freeWord
      late.foldl (fun s m => s.modCtx m fun c =>
        { c with notices := c.notices ++ [{ code := tOVERRUN, slot := 0, val := v, at_ := s.gcyc }] }) (s.stepFinish c.partN c.gang)
    else s

/-- The phases that complete in this cycle of a domain (R287). -/
def State.phasesEnd (s : State) (g : List Nat) : State :=
  match g with
  | n :: _ =>
    let c := s.ctxOf n
    if c.domain then s.barrierTick c.partN c.gang c.domCycle else s
  | [] => s

/-- What opens an unfrozen cycle: the results that land, the phases and the waits that end. -/
def State.openCycle (s : State) (g : List Nat) : State :=
  let land (s : State) (n : Nat) : State :=
    let s := s.landDue n
    (if (s.ctxOf n).inTend then s.modCtx n fun c => c.findNotices s.gcyc else s).mxOpen n
  let s := (g.foldl land s).phasesEnd g
  (g.foldl (fun s n => s.barrierWake n) s).stepWake g

/-! ### The cycle -/

/-- The absent blocks that the cycle touches, asked for in the order of R346: the words are looked at as they would be once
the cycle has opened. -/
def State.cycleMisses (s : State) (g : List Nat) : Bool × State :=
  let first := g.map fun n => (n, s.cycleMiss n)
  let last := g.map fun n => (n, s.cycleMissAfter n)
  if (first ++ last).all fun x => x.2.isEmpty then (false, s)
  else
    let t := first.foldl (fun s x => s.askBlocks x.1 x.2) s
    let seen := ((s.openCycle g).actsOf g).2
    let t := g.foldl (fun t n => t.askBlocks n (seen.sp n).want) t
    (true, last.foldl (fun s x => s.askBlocks x.1 x.2) t)

/-- The contexts of the spindles in a cycle in which no one freezes, with the holds and the routines that its bundles begin
(R71, R250). -/
def newHolds (s : State) (as : List (Nat × Act)) : List (Nat × Ctx) :=
  as.map fun p => match p.2 with
    | .go f =>
      let c := s.ctxOf p.1
      let lock := match f.lock with
        | some (.bankLockPrefix n ga maska gb maskb) => some { left := n.toNat, ga := ga, maska := maska, gb := gb, maskb := maskb }
        | _ => c.lock
      let s := { s with cur := p.1 }.modCtx p.1 fun c => { c with bun := f.bun }
      let mx := match (f.words.find? fun w => w.1 == .mx).map fun w => issueOf w.2 s with
        | some (.go _ _ _ t) => ((t.mxOpen p.1).ctxOf p.1).eng.mx
        | _ => c.eng.mx
      (p.1, { c with lock := lock, eng := { c.eng with mx := mx } })
    | _ => (p.1, s.ctxOf p.1)

/-- Whether an act ends the cycle whatever the others wait for; a notice, FPX and PPBOUND come in the cycle in which the bundle
would issue (R311). -/
def Act.urgent : Act → Bool
  | .notice _ | .fpx .. | .expire => false
  | a => a.breaks

/-- The acts of a group, done on the state that they were judged on. -/
def applyActs (g : List Nat) (as : List (Nat × Act)) (s : State) : Host.Outcome State Fault Refusal :=
  eachOf (fun n s => match as.find? fun p => p.1 == n with | some (_, a) => applyAct n a s | none => .next s) g s

/-- Those of a group whose acts satisfy a condition act, and the others stand. -/
def applyOnly (g : List Nat) (as : List (Nat × Act)) (f : Act → Bool) (s : State) : Host.Outcome State Fault Refusal :=
  eachOf (fun n s => match as.find? fun p => p.1 == n with
    | some (_, a) => if f a then applyAct n a s else .next (s.streamTick n false)
    | none => .next s) g s

/-- A cycle in which no spindle of the group freezes: `s` before it opens, `as` and `t` what the spindles do and the state once
it has opened. Of the fixed-time accesses, writes come before the local writes of the cycle, and what is read is read after
all of them (R180, R259, R292). -/
def runActs (g : List Nat) (s : State) (as : List (Nat × Act)) (t : State) : Host.Outcome State Fault Refusal :=
  if g.all fun n => (s.ctxOf n).domOps.all fun d => d.applyIn != 0 then applyActs g as t
  else
    let holds := newHolds t as
    let ids := s.domDue g
    let r := ((s.domWrites holds g).openCycle g).actsOf g
    thenDo (applyActs g r.1 r.2) fun s => .next (s.domLoads holds ids g)

/-- The acts of a group in one cycle: a trap holds the others, a freeze freezes all (R290, R317). Log 25 (DEDUCED). -/
def decideCycle (g : List Nat) (s : State) : Host.Outcome State Fault Refusal :=
  let r := (s.openCycle g).actsOf g
  let as := r.1
  let (ks, b) := freezesOf as
  if as.any fun p => p.2.urgent then applyOnly g as (if ks.isEmpty then Act.breaks else Act.urgent) (s.openCycle g)
  else if !ks.isEmpty then .next (r.2.freezeBy g (ownKinds as) b)
  else if as.any fun p => p.2.breaks then applyOnly g as Act.breaks (s.openCycle g)
  else runActs g s as r.2

/-- A cycle of spindles that all run outside handler mode, or of one that runs a handler. Log 25 (DEDUCED). -/
def runCycle (g : List Nat) (s : State) : Host.Outcome State Fault Refusal :=
  let s := (g.foldl (fun s n => s.boundsExpire n) s).stepExpire g
  let late := g.flatMap fun n => s.lateKinds n
  if g.any s.captureDue then applyOnly g (s.actsOf g).1 (fun a => match a with | .capture => true | _ => false) s
  else if !late.isEmpty then
    let s := g.foldl (fun s n => s.landLate n) s
    .next (s.freezeAll g s.lateKinds (g.all fun n => (s.ctxOf n).lateBounded))
  else
    let (m1, s1) := s.domMisses g
    let (m2, s2) := s1.cycleMisses g
    if m1 || m2 then .next (s2.freezeAll g (fun _ => [wBLOCK]) false)
    else decideCycle g s

/-- Whether a spindle runs a handler. -/
def State.handles (s : State) (n : Nat) : Bool :=
  (s.sp n).run == .running && (s.ctxOf n).ctl.hmode && !(s.ctxOf n).inTend

/-- A cycle of a group (R74, R290, R315, R317): while some of its spindles run handlers only these go on, and while one
is held the group stands still. So it does while a cut that is due waits for a transaction (R46, R340). -/
def groupCycle (g : List Nat) (s : State) : Host.Outcome State Fault Refusal :=
  let s := g.foldl (fun s n => s.landEstimate n) s
  let hs := g.filter s.handles
  let stand (ks : List Nat) (s : State) (n : Nat) : State :=
    if (s.sp n).run == .running then s.frozenEnd n [] ks false else s.streamTick n false
  thenDo (if (g.any s.cutDue) && g.any s.txBusy then .next (g.foldl (stand [wSYNC]) s)
  else if !hs.isEmpty then
    eachOf (fun n s => runCycle [n] s) hs ((g.filter fun n => !hs.contains n).foldl (stand [wHANDLER]) s)
  else if g.any fun n => (s.sp n).run != .running then .next (g.foldl (fun s n => s.streamTick n false) s)
  else runCycle g s) fun s => .next (g.foldl (fun s n => s.landFlags n) s)

end Sys2Proof.Machine
end

