-- ==== Sys2Proof/Machine/Clock.lean ====
section
/-!
DEFINITION. The clocks (R1, R354 to R356, R359) and the order in which spindles take their turns in one GCYC count.
-/

namespace Sys2Proof.Machine

/-- Whether a spindle is bound to an admitted contract (R55, R358). -/
def State.contractSpindle (s : State) (p n : Nat) : Bool := (s.part p).sched.contracts.any fun k => k.bound.contains n

/-- The slow level of a spindle (R357 to R359). -/
def State.slowLevel (s : State) (n : Nat) : Nat :=
  let p := (s.ctxOf n).partN
  if s.power.floor then 7 else if s.contractSpindle p n then 0 else (s.part p).sched.slow

/-- The slow level of a timed domain: the largest of its spindles, but none while one of them is bound to a contract, which only
FLOOR slows (R356 to R360). -/
def State.domainSlow (s : State) (g : List Nat) : Nat :=
  if !s.power.floor && g.any (fun n => s.contractSpindle (s.ctxOf n).partN n) then 0 else g.foldl (fun m n => max m (s.slowLevel n)) 0

/-- The droop count of a timed domain: the largest among its stands (R356). -/
def State.droopOf (s : State) (g : List Nat) : Nat := g.foldl (fun m n => max m (s.stand (standOf n)).count) 0

/-- Whether the pinned clock of a timed domain has a pulse in this reference period: nine in ten periods have one, of which
the first k of sixteen are swallowed (R356, R359). -/
def State.pinnedPulse (s : State) (g : List Nat) (sp : Spindle) : Bool :=
  let k := min 8 (max (s.domainSlow g) (s.droopOf g))
  decide (10 ≤ sp.credit + 9) && decide (k ≤ sp.pulse.toNat)

/-- The length in eighths of a cycle of the elastic clock that begins now (R355, R359). -/
def State.cycleNeed (s : State) (n : Nat) : Nat := 8 + min 8 (max (s.slowLevel n) (s.stand (standOf n)).droop)

/-- The clock of a group in one reference period: whether a cycle ends in it. An elastic cycle lasts 8 + max(s, droop)
eighths, as they stand when it begins. -/
def State.clockTick (s : State) (n : Nat) (g : List Nat) : Bool × State :=
  let sp := s.sp n
  if sp.ctx.domain then
    let all (c : Nat) (q : BitVec 4) : State := g.foldl (fun s m => s.modSp m fun x => { x with credit := c, pulse := q }) s
    if sp.credit + 9 < 10 then (false, all (sp.credit + 9) sp.pulse)
    else (s.pinnedPulse g sp, all (sp.credit + 9 - 10) (sp.pulse + 1))
  else
    let need := if sp.need = 0 then s.cycleNeed n else sp.need
    if sp.credit + 8 < need then (false, s.setSp n { sp with credit := sp.credit + 8, need := need })
    else
      -- the next cycle begins, with its own length
      (true, s.setSp n { sp with credit := sp.credit + 8 - need, need := s.cycleNeed n })

/-- The next spindle of the count after one. -/
def nextKey (k : Nat) : Tbl Spindle → Option Nat
  | [] => none
  | (j, _) :: t => if k < j then some j else nextKey k t

/-- Whether a fatal error has stopped every spindle (R383). -/
def State.stopped (s : State) : Bool := s.errors.fatal && s.errors.fatalAt.isNone

/-- The cycle of the spindle whose turn it is: none once a fatal error has stopped all. Of a timed domain the first spindle takes
the turn for all. -/
def turnCycle (s : State) : Host.Outcome State Fault Refusal :=
  let n := s.turn
  let g := s.groupOf n
  if (s.sp n).run == .empty || g.head? != some n || s.stopped then .next s
  else
    let r := s.clockTick n g
    if r.1 then groupCycle g r.2 else .next r.2

end Sys2Proof.Machine
end

