-- ==== Sys2Proof/Machine/Run.lean ====
section
/-!
DEFINITION. What the module brings about of itself: the events that may happen next in an order that the spec leaves open
(log 2, DESIGN CHOICE), those that a GCYC count brings, and the turns of the spindles in a count.
-/

namespace Sys2Proof.Machine

/-! ### The order of one count (R259, R285, R305) -/

/-- The place of a message at its barrier or gate, and its rank in the order of one count: at a barrier by PSN, at a gate of
this module by module, partition and PSN. -/
def State.rankOf (s : State) (m : Msg) : Option (Nat × Nat) :=
  let psn := s.psnOf m.part m.spin
  match m.op with
  | .barrier n .. | .query n _ => some (barrierKey m.part n, psn)
  | .gate _ _ b .. =>
    let e := s.binding m.part b
    if bindMod e == s.pf.modid.toNat then some (gateKey (bindGate e), gateRank (bindMod e) m.part psn) else none
  | _ => none

/-- The operations of timed domains on barriers that are under way: all of them are counted in the count of their issue (R287). -/
def State.domArrivals (s : State) : List Msg := s.msgs.filter fun m => m.isGoing && m.op.fromDomain

/-- Whether a message may reach its home in this count. The arrivals of a count at a barrier come once the timed domains have
had their turns, and after those of the domains that come before them by PSN (R285). Log 2 (DESIGN CHOICE). -/
def State.mayArrive (s : State) (m : Msg) : Bool :=
  s.accessInOrder m &&
    (match s.rankOf m with | some k => decide (tget 0 k.1 s.served ≤ k.2) | none => true)
    && (match m.op with
      | .barrier .. | .query .. => s.phase == .turns && decide (320 ≤ s.turn) && !m.op.fromDomain
          && s.domArrivals.all fun e => match s.rankOf e, s.rankOf m with
            | some x, some y => x.1 != y.1 || decide (y.2 < x.2)
            | _, _ => true
      | _ => true)

/-- The first by PSN of the operations of timed domains on barriers, which come before the count ends. -/
def State.nextDomArrival (s : State) : Option Nat :=
  let rank (m : Msg) : Nat := ((s.rankOf m).map Prod.snd).getD 0
  (s.domArrivals.foldl (fun (x : Option Msg) m => match x with
    | some e => if rank m < rank e then some m else x
    | none => some m) none).map Msg.id

/-- A message has reached its barrier or gate in this count. -/
def State.noteMsg (s : State) (id : Nat) : State :=
  match (s.msg id).bind s.rankOf with
  | some k => { s with served := tput k.1 k.2 s.served }
  | none => s

/-- An event of the module happens. A pending START enters RUN before a step of the scheduler (R373, R375). -/
def Ev.run (e : Ev) (s : State) : Host.Outcome State Fault Refusal :=
  match e with
  | .matrixRoutineComplete n => execMatrixRoutineComplete n s
  | .matrixRoutineStop n => execMatrixRoutineStop n s
  | .streamLineMove n => execStreamLineMove n s
  | .streamComplete n c => execStreamComplete n c s
  | .streamDeadlineExpiry n c => execStreamDeadlineExpiry n c s
  | .publishSwap n c => execPublishSwap n c s
  | .cipherCommandComplete n => execCipherCommandComplete n s
  | .remoteReplyArrival id => execRemoteReplyArrival id s
  | .writeAckArrival id => execWriteAckArrival id s
  | .failureNoticeArrival id => execFailureNoticeArrival id s
  | .remoteReadAtHome id => execRemoteReadAtHome id s
  | .remoteWriteAtHome id => execRemoteWriteAtHome id s
  | .remoteAtomicAtHome id => execRemoteAtomicAtHome id s
  | .translationWalkComplete die part off => execTranslationWalkComplete die part off s
  | .codeTagCheck n block => execCodeTagCheck n block s
  | .blockPullComplete n b => execBlockPullComplete n b s
  | .owedBlockWriteout n b => execOwedBlockWriteout n b s
  | .imageDrainBlock n => execImageDrainBlock n s
  | .segmentLoad n => execSegmentLoad n s
  | .tokenTick part => execTokenTick part s
  | .contractRelease part c => execContractRelease part c s
  | .budgetExhausted part c => execBudgetExhausted part c s
  | .drainLimitExpiry n => execDrainLimitExpiry n s
  | .schedulerTransactionCommit part => execSchedulerTransactionCommit part s
  | .taskRetirement n => execTaskRetirement n s
  | .cutStop n => execCutStop n s
  | .quiescence n => execQuiescence n s
  | .ppboundCountExpiry n => execPpboundCountExpiry n s
  | .watchdog n => execWatchdog n s
  | .barrierArrival id => execBarrierArrival id (s.noteMsg id)
  | .barrierCompletionNotice n => execBarrierCompletionNotice n s
  | .stepCompletion part handle node => execStepCompletion part handle node s
  | .gateOperationAtHome id => execGateOperationAtHome id (s.noteMsg id)
  | .gateWaitTimeout id => execGateWaitTimeout id s
  | .gateTokenRefill gate entry => execGateTokenRefill gate entry s
  | .leaseExpiry => execLeaseExpiry s
  | .invalidationComplete part => execInvalidationComplete part s
  | .hcutAccept => execHcutAccept s
  | .powerEvaluation watts => execPowerEvaluation watts s
  | .linkWaitTimeout => execLinkWaitTimeout s
  | .fatalError row => execFatalError row s
  | .fatalStop => execFatalStop s
  | .sessionExpiry sess => execSessionExpiry sess s
  | .teardownScrubComplete part => execTeardownScrubComplete part s
  | .updateSwitch => execUpdateSwitch s
  | .updateCommit => execUpdateCommit s
  | .heartbeatMissed => execHeartbeatMissed s
  | .persistenceReached n => execPersistenceReached n s
  | .schedulerStep p => .next ((s.enterRun p).schedStep p)
  | .recordWrite p => .next (s.recordStep p)
  | .farGate n i => .next (s.farOperation n i)
  | .farWake p b => .next (s.farWake p b)
  | .farAccess p => .next (s.farAccess p)

/-! ### What may happen next (log 2, DESIGN CHOICE) -/

/-- A list with one element, if a condition holds. -/
def oneIf {α : Type} (b : Bool) (a : α) : List α := if b then [a] else []

/-- A message reaches its home, or its answer arrives (R191, R257); a wait at a gate of another module may end there. -/
def State.msgOffers (s : State) (m : Msg) : List Ev :=
  match m.st with
  | .going =>
    if !s.mayArrive m then [] else
    match m.op with
    | .load .. => [.remoteReadAtHome m.id]
    | .store _ => [.remoteWriteAtHome m.id]
    | .atomic _ => [.remoteAtomicAtHome m.id]
    | .barrier .. | .query .. => [.barrierArrival m.id]
    | .gate .. => [.gateOperationAtHome m.id]
    | .join _ => []
  | .replied .. => [if m.waits then .remoteReplyArrival m.id else .writeAckArrival m.id]
  | .failed _ => [.failureNoticeArrival m.id]
  | .waiting _ =>
    match m.op with
    | .gate _ _ b .. => oneIf (bindMod (s.binding m.part b) != s.pf.modid.toNat) (.gateOperationAtHome m.id)
    | _ => []
  | _ => []

/-- Operations of other modules on the gates of this one, as their access lists admit them (R302). -/
def State.farGates (s : State) (n : Nat) : List Ev :=
  ((List.range 8).filter fun i => !(s.farModules ((s.gate n).entry i)).isEmpty).map (.farGate n ·)

/-- Whether messages of another partition are under way to a slice, which a load waits for (R21). -/
def State.sliceAwaited (s : State) (n p : Nat) : Bool :=
  s.msgs.any fun m => m.isGoing && m.part != p && (match m.loc with | .slice k _ => k == n | _ => false)

/-- Whether the clock of a spindle is one on which its streams may move lines in this count: a timed domain moves none where
its pulse is swallowed (R223, R356). -/
def State.pulsed (s : State) (n : Nat) : Bool :=
  let g := s.groupOf n
  !(s.ctxOf n).domain || (!s.turnOver n && s.pinnedPulse g (s.sp (g.head?.getD n)))

/-- The streams of a spindle: a move of lines, completions and publishes (R222, R223, R225). -/
def State.streamOffers (s : State) (n : Nat) : List Ev :=
  let sp := s.sp n
  let chan (c : Nat) : Channel := sp.ctx.eng.channel c
  let goes (c : Nat) : Bool := match (chan c).stream with
    | some st => (chan c).state == 1 && decide (st.done < st.total) && s.streamGoes n (chan c)
    | none => false
  let ends (c : Nat) : Bool := match (chan c).stream with
    | some st => decide (st.total ≤ st.done) && !((chan c).publ && !(chan c).shadows.isEmpty)
    | none => false
  oneIf (!sp.moved && s.pulsed n && (List.range 8).any goes) (.streamLineMove n)
    ++ ((List.range 8).filter ends).map (.streamComplete n ·)
    ++ ((List.range 8).filter (s.mayPublish n)).map (.publishSwap n ·)

/-- What may happen on one spindle. What may end a task or place one is offered in the opening of a count (R53, R60). -/
def State.spindleOffers (s : State) (n : Nat) : List Ev :=
  let sp := s.sp n
  let c := sp.ctx
  let early := s.phase == .opening
  let owedBy (b : Nat) : Bool := sp.owed.any fun x => x.1 == b && x.2 != c.id
  (s.fetching n).map (.codeTagCheck n ·)
    ++ ((sp.want.take 1).filter fun b => early || owedBy b || (s.pullError n b).isNone).map
        (fun b => if owedBy b then .owedBlockWriteout n b else .blockPullComplete n b)
    ++ oneIf (early && sp.run == .loading && (s.loadSet n).all fun m => !s.sliceAwaited m c.partN) (.segmentLoad n)
    ++ s.streamOffers n
    ++ oneIf (c.eng.cipher.isSome && s.cipherGoes n) (.cipherCommandComplete n)
    ++ oneIf (match c.barw with | .frozen b w => (s.barrier c.partN b).reached w | _ => false) (.barrierCompletionNotice n)
    ++ oneIf (match c.persist with | .asked .. => true | _ => false) (.persistenceReached n)
    ++ oneIf ((s.drainNext n).isSome || !(s.wholeOn n).isEmpty) (.imageDrainBlock n)
    ++ oneIf (early && match sp.run with | .captured k .. => k != 3 && s.quiet n | _ => false) (.quiescence n)

/-- What may happen in one partition. -/
def State.partOffers (s : State) (p : Nat) : List Ev :=
  let d := (s.part p).sched
  let ready (x : Placed) : Bool := s.stepReady p x.gid && (s.gangOn x.gid).all fun n => !(s.ctxOf n).domain
  ((d.placed.filter ready).map fun x => .stepCompletion p x.work.handle x.work.node)
    ++ oneIf (s.phase == .opening && (s.nextTx p).isSome) (.schedulerTransactionCommit p)
    ++ oneIf (s.recReady p) (.recordWrite p)
    ++ oneIf (s.part p).host.xinv (.invalidationComplete p)
    ++ oneIf (s.scrubReady p) (.teardownScrubComplete p)

/-- Every event that may happen next. Log 45 (DESIGN CHOICE), log 46 (DESIGN CHOICE). Log 2 (DESIGN CHOICE). -/
def State.offers (s : State) : List Ev :=
  s.msgs.flatMap s.msgOffers
    ++ s.gates.flatMap (fun x => s.farGates x.1)
    ++ s.parts.flatMap (fun x => (s.farWakes x.1).map (.farWake x.1 ·))
    ++ (if s.pf.nmod.toNat ≤ 1 then [] else s.parts.map fun x => .farAccess x.1)
    ++ ((s.walks.filter fun w => !w.failed).map fun w => .translationWalkComplete w.die w.part w.off)
    ++ ((s.held.filter fun h => !h.pinned).map fun h => .translationWalkComplete h.die h.part h.base)
    ++ s.spindles.flatMap (fun x => s.spindleOffers x.1)
    ++ s.parts.flatMap (fun x => s.partOffers x.1)
    ++ oneIf s.hcutReady .hcutAccept
    ++ oneIf (s.update.phase == 1) .updateSwitch

/-! ### What a count brings -/

/-- The releases that come before the first turn of a count, after the kills and the transactions of its opening (R53, R60): those
of contracts whose job still runs come at its end, after the retirements of the count. Log 35 (DEDUCED). -/
def State.releaseEvents (s : State) : List Ev :=
  if s.update.switching then []
  else s.parts.flatMap fun p =>
    (p.2.sched.contracts.filter fun k => k.jobDue s.gcyc && k.running.isNone).map fun k => .contractRelease p.1 k.addr.toNat

/-- The events with which a count begins. Log 2 (DESIGN CHOICE), log 41 (DEDUCED), log 46 (DESIGN CHOICE). -/
def State.startEvents (s : State) : List Ev :=
  let idle (k : Cut) : List Nat := if k.c ≤ s.gcyc then k.spins.filter fun n => (s.sp n).run == .empty || !s.cutFits k n else []
  (s.cuts.flatMap idle).map (.cutStop ·)
    ++ oneIf s.leaseOver .leaseExpiry
    ++ s.gates.flatMap (fun g => ((List.range 8).filter (s.refillDue g.1)).map (.gateTokenRefill g.1 ·))
    ++ (s.msgs.filter s.waitOver).map (fun m => .gateWaitTimeout m.id)
    ++ oneIf (match s.errors.fatalAt with | some t => decide (t ≤ s.gcyc) | none => false) .fatalStop
    ++ (s.sec.sessions.filter fun x => (s.session x.1).isNone).map (fun x => .sessionExpiry x.1)
    ++ oneIf s.commitDue .updateCommit
    ++ oneIf s.beatMissed .heartbeatMissed

/-- Whether a spindle of a timed domain waits while another of its domain is held by an escalation, which does not count
towards its limit (R323). -/
def State.standsHeld (s : State) (n : Nat) : Bool :=
  (s.ctxOf n).domain && (s.sp n).run == .running && !s.handles n && (s.groupOf n).any fun m => (s.sp m).run.heldBy.isSome

/-- A count that does not count towards FRZLIM. -/
def Spindle.waitOn (sp : Spindle) : Spindle :=
  { sp with ctx := { sp.ctx with wait := sp.ctx.wait.map fun w => { w with since := w.since + 1 } } }

/-- A count begins: contract tasks are metered (R27), and the power is measured once in a millisecond (R358). -/
def State.nextCount (s : State) : State :=
  let first := match s.spindles with | [] => 0 | (n, _) :: _ => n
  let s := { s with
    gcyc := s.gcyc + 1
    turn := first
    phase := .opening
    served := []
    spindles := s.spindles.map fun (x : Nat × Spindle) => (x.1, (if s.standsHeld x.1 then x.2.waitOn else x.2).charge) }
  let s := s.goneTick
  let s := s.push s.startEvents
  -- whether port 0 has a link within two seconds of the start of stage 1 (R361) is free
  let s := if s.sec.stage = 1 && !s.sec.port && s.gcyc = s.sec.began + linkWait then
      (let (k, s) := s.choose 2; if k = 1 then s.push [.linkWaitTimeout] else s)
    else s
  if s.gcyc % msCounts = 0 then (let (k, s) := s.choose 65536; s.push [.powerEvaluation (BitVec.ofNat 16 k)]) else s

/-- The events with which a count ends, in the order of R53: releases, budgets, drain limits, tokens and then the step of the
scheduler, which sees them all (R52, R54, R60). -/
def State.endEvents (s : State) : List Ev :=
  s.parts.flatMap fun (x : Nat × Part) =>
    let p := x.1
    let d := x.2.sched
    let late (u : Placed) : Bool := match u.victim with | .drain t => decide (t ≤ s.gcyc) | _ => false
    let es := ((d.contracts.filter fun k => k.jobDue s.gcyc && !s.update.switching).map fun k => Ev.contractRelease p k.addr.toNat)
      ++ ((d.contracts.filter (s.exhausted p)).map fun k => Ev.budgetExhausted p k.addr.toNat)
      ++ (d.placed.filter late).flatMap (fun u => (s.spindlesOf u).take 1 |>.map (.drainLimitExpiry ·))
      ++ oneIf (s.atTick || (d.ticks != 0 && !s.update.switching)) (.tokenTick p)
    es ++ oneIf (d.stepDue || x.2.trust.starting || !es.isEmpty) (.schedulerStep p)

/-- The turn passes to the next spindle; after the last one it is 320. -/
def State.nextTurn (s : State) : State :=
  match nextKey s.turn s.spindles with
  | some n => { s with turn := n }
  | none => { s with turn := 320 }

/-- The count in which the present cycle of a spindle began: the cycles of the elastic clock need not begin with a count (R355). A cut
compares this count with its own; a word or a trap record of the cycle shows the count in which it ends. Log 52 (DEDUCED). -/
def State.cycleFrom (s : State) (n : Nat) : Nat :=
  if (s.ctxOf n).domain then s.gcyc else s.gcyc - ceilDiv (s.sp n).credit 8

/-- A spindle that a due cut stops before its cycle (R340), one that begins in the count of the cut or later: a cut waits for a
load and for a transaction (R46). -/
def State.cutNow (s : State) (n : Nat) : Option Nat :=
  let g := s.groupOf n
  let due (m : Nat) : Bool := s.cuts.any fun k => k.spins.contains m && decide (k.c ≤ s.cycleFrom m) && s.cutFits k m
  if (s.sp n).run == .empty || g.any (fun m => (s.sp m).run == .loading || s.txBusy m) then none else g.find? due

/-- The count goes on: the releases that end its opening, the next turn, before which come a watchdog that is due and a cut, the
scheduler's step at its close, and the next count. Log 2 (DESIGN CHOICE). -/
def turnStep (s : State) : Host.Outcome State Fault Refusal :=
  if s.phase = .opening then .next ({ s with phase := .turns }.push s.releaseEvents)
  else if s.phase = .closed then .next s.nextCount
  else if 320 ≤ s.turn then
    match s.nextDomArrival with
    | some id => .next (s.push [.barrierArrival id])
    | none => .next ({ s with phase := .closed }.push s.endEvents)
  else if s.watchdogDue s.turn then .next (s.push [.watchdog s.turn])
  else
    match s.cutNow s.turn with
    | some m => .next (s.push [.cutStop m])
    | none => thenDo (turnCycle s) fun s => .next s.nextTurn

/-! ### The step -/

/-- The first element with a property, and the list without it. -/
def takeFirst {α : Type} (f : α → Bool) : List α → Option (α × List α)
  | [] => none
  | x :: xs => if f x then some (x, xs) else (takeFirst f xs).map fun r => (r.1, x :: r.2)

/-- The messages of TDISP, and the writes of registers of an interface (R371, R373). -/
def isMessage : Instr → Bool
  | .lockInterfaceRequest .. | .getDeviceInterfaceReport .. | .getDeviceInterfaceState .. | .startInterfaceRequest ..
  | .stopInterfaceRequest .. => true
  | _ => false
def isRegWrite : Instr → Bool
  | .registerWrite .. | .pspinWrite .. | .reservationWrite .. | .lsdomWrite .. | .gateValidWrite .. | .aclEntryWrite .. => true
  | _ => false

/-- The first input whose count has come, and the inputs without it; a register write of the count of a message comes before it
(R375). -/
def takeDue (now : Nat) (l : List (Nat × Instr)) : Option (Instr × List (Nat × Instr)) :=
  match takeFirst (fun x => decide (x.1 ≤ now)) l with
  | none => none
  | some (x, rest) =>
    match (if isMessage x.2 then takeFirst (fun y => y.1 == x.1 && isRegWrite y.2) l else none) with
    | some (y, rest) => some (y.2, rest)
    | none => some (x.2, rest)

/-- The events that may happen next in this part of the count: none once the scheduler's step of the count is done (R53). -/
def State.offersNow (s : State) : List Ev := if s.phase = .closed then [] else s.offers

/-- One of the events that may happen next, or the next turn, by free choice (log 2, DESIGN CHOICE). -/
def offerStep (s : State) : Host.Outcome State Fault Refusal :=
  let es := s.offersNow
  if es.isEmpty then turnStep s
  else
    let (k, s) := s.choose (es.length + 1)
    match es[k]? with
    | some e => e.run s
    | none => turnStep s

/-- The binding whose gate an operation of a host party concerns (R307). -/
def hostOp : Instr → Option (Nat × Nat)
  | .hgsig _ p b _ | .hgcnt _ p b | .hwakeWrite _ p b _ => some (p, b)
  | _ => none

/-- An operation of a host party whose count has come reaches its gate (R307) beside what else may happen in this count, in the order
of R305: operations of tasks may come before it. -/
def signalStep (i : Instr) (p b : Nat) (s t : State) : Host.Outcome State Fault Refusal :=
  if !s.hostInOrder p b then offerStep s
  else
    let es := s.offers
    if es.isEmpty then exec i t
    else
      let (k, u) := s.choose (es.length + 1)
      match es[k]? with
      | some e => e.run u
      | none => exec i { t with free := u.free }

/-- Whether an input whose count has come waits for the accesses that come before it in this count (R259). -/
def State.inputWaits (s : State) : Instr → Bool
  | .hostMemoryWrite _ p off data => !s.hostInTurn p off data.length true
  | .hostMemoryRead _ p off len => !s.hostInTurn p off len false
  | _ => false

/-- What happens next: an event of the agenda, an input whose count has come, or an event or turn of the module.
Log 2 (DESIGN CHOICE). -/
def nextStep (s : State) : Host.Outcome State Fault Refusal :=
  match s.agenda with
  | e :: es => e.run { s with agenda := es }
  | [] =>
    match takeDue s.gcyc s.inputs with
    | some (i, rest) =>
      match hostOp i with
      | some (p, b) => signalStep i p b s { s with inputs := rest }
      | none => if s.inputWaits i then offerStep s else exec i { s with inputs := rest }
    | none => offerStep s

/-! ### A word at the next start (log 13, DESIGN CHOICE) -/

/-- The code of a segment that holds one instruction: a bundle with the word in the slot of its place, an empty bundle, or
a prefix and an empty bundle. -/
def codeFor (w : BitVec 32) : List (BitVec 32 × Bool) :=
  let inSlot (sl : Slot) (lits : Nat) : List (BitVec 32 × Bool) :=
    let m := Slot.maskBit sl
    (BitVec.ofNat 32 (lits * 2 ^ 26 + m * 2 ^ 19), true) :: (w, false) :: List.replicate lits (0, false)
  match decodeTableWord 32 w.toNat with
  | some i =>
    match i.place with
    | some .start => if hkOf w = 1 then [(w, true), (0, true)] else [(w, true)]
    | some (.slot sl) => inSlot sl (litNeeds i)
    | none => inSlot .sx 0
  | none => inSlot .sx 0

/-- The state with an instruction at the next start of spindle 0, whose task alone is on the module. Log 13 (DESIGN CHOICE). -/
def State.placeWord (s : State) (w : BitVec 32) : State :=
  let code := codeFor w
  let g : Segment := { id := 0, part := 0, addr := 0, code := code.map Prod.fst, heads := code.map Prod.snd, cbank := []
                       seglo := 0, seghi := 0, keyslot := 0, nonce := 0, tags := [], codeOff := 0, verified := [0] }
  let sp : Spindle := { run := .running, ctx := { id := s.nextId } }
  let s := { s with
    spindles := [(0, sp)]
    parts := [(0, { sched := { psns := [0] } })]
    msgs := [], held := [], walks := [], cuts := [], agenda := [], inputs := []
    pf := { s.pf with hcutBusy := false }
    update := { s.update with phase := 0 }
    nextId := s.nextId + 1, cur := 0, turn := 0, phase := .turns, recWrites := [] }
  s.modStand 0 fun st => { st with segs := [g] }

end Sys2Proof.Machine
end

