-- ==== Sys2Proof/Laws/Decode.lean ====
section
/-!
SUPPORT. Laws of packed words: what a field of `pack` reads as, the range of a packed word, and how the decoder answers
on an encoded word.
-/

namespace Sys2Proof

/-- The values of a list of fields lie within their widths. -/
def InRange (fs : List (Nat × Nat)) : Prop := ∀ f ∈ fs, f.2 < 2 ^ f.1

@[simp] theorem inRange_nil : InRange [] := by simp [InRange]

@[simp] theorem inRange_cons (f : Nat × Nat) (fs : List (Nat × Nat)) : InRange (f :: fs) ↔ f.2 < 2 ^ f.1 ∧ InRange fs := by
  simp [InRange]

@[simp] theorem fv_fst {n : Nat} (v : BitVec n) : (fv v).1 = n := rfl
@[simp] theorem fv_snd {n : Nat} (v : BitVec n) : (fv v).2 = v.toNat := rfl
@[simp] theorem fb_fst (b : Bool) : (fb b).1 = 1 := rfl
@[simp] theorem fb_snd (b : Bool) : (fb b).2 = bit b := rfl

theorem fv_lt {n : Nat} (v : BitVec n) : (fv v).2 < 2 ^ (fv v).1 := v.isLt
theorem fb_lt (b : Bool) : (fb b).2 < 2 ^ (fb b).1 := by cases b <;> decide

/-- A pushed field lies below what was packed before. -/
theorem fld_push (a n v lo k : Nat) (h : v < 2 ^ n) : fld (a * 2 ^ n + v) (n + lo) k = fld a lo k := by
  unfold fld
  rw [Nat.pow_add, ← Nat.div_div_eq_div_mul, Nat.mul_comm a, Nat.mul_add_div (Nat.two_pow_pos n), Nat.div_eq_of_lt h,
    Nat.add_zero]

/-- The field pushed last. -/
theorem fld_last (a n v : Nat) (h : v < 2 ^ n) : fld (a * 2 ^ n + v) 0 n = v := by
  unfold fld
  rw [Nat.pow_zero, Nat.div_one, Nat.mul_comm, Nat.mul_add_mod, Nat.mod_eq_of_lt h]

/-- A field of what was packed before keeps its value above the fields packed after it. -/
theorem fld_above : ∀ (fs : List (Nat × Nat)) (a lo k : Nat), InRange fs →
    fld (pack fs a) ((fs.map Prod.fst).sum + lo) k = fld a lo k
  | [], a, lo, k, _ => by simp [pack]
  | (n, v) :: fs, a, lo, k, h => by
    rw [inRange_cons] at h
    have := fld_above fs (a * 2 ^ n + v) (n + lo) k h.2
    rw [fld_push _ _ _ _ _ h.1] at this
    simpa [pack, Nat.add_assoc, Nat.add_left_comm] using this

/-- Field k of a packed word reads as its value. -/
theorem fld_field (fs : List (Nat × Nat)) (k : Nat) (hk : k < fs.length) (h : InRange fs) :
    fld (pack fs 0) ((fs.drop (k + 1)).map Prod.fst).sum fs[k].1 = fs[k].2 := by
  suffices H : ∀ (fs : List (Nat × Nat)) (k a : Nat) (hk : k < fs.length), InRange fs →
      fld (pack fs a) ((fs.drop (k + 1)).map Prod.fst).sum fs[k].1 = fs[k].2 from H fs k 0 hk h
  intro fs
  induction fs with
  | nil => intro k a hk; exact absurd hk (by simp)
  | cons f fs ih =>
    intro k a hk h
    rw [inRange_cons] at h
    cases k with
    | zero =>
      have := fld_above fs (a * 2 ^ f.1 + f.2) 0 f.1 h.2
      simpa [pack, fld_last _ _ _ h.1] using this
    | succ k => simpa [pack] using ih k (a * 2 ^ f.1 + f.2) (by simpa using hk) h.2

/-- The field of a packed word at a position and of a width, told by its place in the list. -/
theorem fld_get {fs : List (Nat × Nat)} {W : Nat} (hW : pack fs 0 = W) (hr : InRange fs) (k : Nat) {lo n v : Nat}
    (h : fs[k]? = some (n, v)) (hl : ((fs.drop (k + 1)).map Prod.fst).sum = lo) : fld W lo n = v := by
  obtain ⟨hk, h⟩ := List.getElem?_eq_some_iff.mp h
  have := fld_field fs k hk hr
  rwa [h, hl, hW] at this

/-- A part of a field. -/
theorem fld_part {W a b v : Nat} (h : fld W a b = v) (lo n : Nat) {u : Nat} (c : a ≤ lo ∧ lo + n ≤ a + b)
    (hu : fld v (lo - a) n = u) : fld W lo n = u := by
  subst h hu
  obtain ⟨k, rfl⟩ := Nat.exists_eq_add_of_le c.1
  obtain ⟨m, hm⟩ := Nat.exists_eq_add_of_le (show k + n ≤ b by omega)
  subst hm
  unfold fld
  rw [Nat.add_sub_cancel_left, Nat.pow_add 2 a k, ← Nat.div_div_eq_div_mul, Nat.add_assoc k n m, Nat.pow_add 2 k,
    Nat.mod_mul_right_div_self, Nat.pow_add 2 n m, Nat.mod_mul_right_mod]

/-- Two fields side by side are one field. -/
theorem fld_join {W a b c v u : Nat} (h : fld W a b = v) (h2 : fld W (a + b) c = u) : fld W a (b + c) = u * 2 ^ b + v := by
  subst h h2
  unfold fld
  rw [Nat.pow_add 2 a b, ← Nat.div_div_eq_div_mul, Nat.pow_add 2 b c, Nat.mod_mul, Nat.add_comm, Nat.mul_comm]

/-- A field is not k where k differs from the word in some bits. -/
theorem fld_ne {W a b v : Nat} (h : fld W a b = v) (off m : Nat) {lo n k : Nat}
    (c : (a ≤ off ∧ off + m ≤ a + b) ∧ (lo ≤ off ∧ off + m ≤ lo + n) ∧ fld k (off - lo) m ≠ fld v (off - a) m) :
    ¬ fld W lo n = k := fun e =>
  c.2.2 ((fld_part e off m c.2.1 rfl).symm.trans (fld_part h off m c.1 rfl))

/-- A packed word has no bit above its fields. -/
theorem pack_lt : ∀ (fs : List (Nat × Nat)) (a b : Nat), a < 2 ^ b → InRange fs →
    pack fs a < 2 ^ (b + (fs.map Prod.fst).sum)
  | [], a, b, h, _ => by simpa [pack] using h
  | (n, v) :: fs, a, b, h, hr => by
    rw [inRange_cons] at hr
    have h2 : a * 2 ^ n + v < 2 ^ (b + n) := by
      have := Nat.mul_le_mul_right (2 ^ n) (Nat.succ_le_of_lt h)
      rw [Nat.pow_add]
      have h3 : v < 2 ^ n := hr.1
      nlinarith
    simpa [pack, Nat.add_assoc] using pack_lt fs _ _ h2 hr.2

theorem bits_of {w lo n : Nat} {v : BitVec n} (h : fld w lo n = v.toNat) : bits w lo n = v := by
  simp [bits, h]

theorem flag_of {w lo : Nat} {b : Bool} (h : fld w lo 1 = bit b) : flag w lo = b := by
  cases b <;> simp [flag, h, bit]

/-- The decoder answers with the row that the raw table gives a well-formed instruction's word. -/
theorem decodeAt_encode {pl : Place} {i : Instr} {W : Nat} (hW : i.wordVal = W) (hb : W < 2 ^ 32)
    (h : rawAt pl W = some i) (hw : i.wf = true) : decodeAt pl (encode i) = .ok i := by
  have : (encode i).toNat = W := by
    simp only [encode, BitVec.toNat_ofNat, hW]
    exact Nat.mod_eq_of_lt hb
  simp [decodeAt, this, h, hw]

end Sys2Proof
end

