-- ==== Sys2Proof/Laws/PerInstr.lean ====
section
/-!
SUPPORT. What is said of every instruction, one lemma per constructor: family RoundTrip, that the decoder reads an encoded
well-formed instruction back (R67, R70, R80 to R90). An event has no word, so it has no place and nothing is asked of it.
-/

namespace Sys2Proof.Laws

set_option Elab.async false
set_option linter.unusedSimpArgs false
set_option linter.unusedTactic false

open Sys2Proof

/-- At its place, the decoder reads the word that the encoder gives a well-formed instruction as that instruction. -/
def RoundTrip.Statement (i : Instr) : Prop :=
  ∀ pl, i.place = some pl → i.wf = true → decodeAt pl (encode i) = .ok i

theorem RoundTrip.nop (sl : Slot) : RoundTrip.Statement (.nop sl) := fun pl h _ => by cases h; cases sl <;> decide

theorem RoundTrip.emptyBundle (mark : Bool) (stamp : BitVec 16) : RoundTrip.Statement (.emptyBundle mark stamp) := by
  intro pl hp hw
  obtain rfl : _ = pl := Option.some.inj hp
  have hr : InRange [(3, 0), fb mark, (12, 0), fv stamp] := by
    simp only [inRange_cons, inRange_nil, fv_lt, fb_lt, and_true, true_and]
    decide
  have hb := pack_lt _ 0 0 (by decide) hr
  generalize hW : pack [(3, 0), fb mark, (12, 0), fv stamp] 0 = W at hb
  have x2 : fld W 16 12 = 0 := fld_get hW hr 2 rfl rfl
  have x0 : fld W 29 3 = 0 := fld_get hW hr 0 rfl rfl
  have x1 : fld W 28 1 = bit mark := fld_get hW hr 1 rfl rfl
  have b1 : flag W 28 = mark := flag_of x1
  have x3 : fld W 0 16 = stamp.toNat := fld_get hW hr 3 rfl rfl
  have b3 : bits W 0 16 = stamp := bits_of x3
  refine decodeAt_encode hW hb ?_ hw
  simp [rawAt, rawStart, x2, x0, b1, b3]

theorem RoundTrip.bankLockPrefix (n : BitVec 3) (ga : BitVec 2) (maska : BitVec 8) (gb : BitVec 2) (maskb : BitVec 8) : RoundTrip.Statement (.bankLockPrefix n ga maska gb maskb) := by
  intro pl hp hw
  obtain rfl : _ = pl := Option.some.inj hp
  have hr : InRange [(3, 1), fv n, fv ga, fv maska, fv gb, fv maskb, (6, 0)] := by
    simp only [inRange_cons, inRange_nil, fv_lt, and_true, true_and]
    decide
  have hb := pack_lt _ 0 0 (by decide) hr
  generalize hW : pack [(3, 1), fv n, fv ga, fv maska, fv gb, fv maskb, (6, 0)] 0 = W at hb
  have x6 : fld W 0 6 = 0 := fld_get hW hr 6 rfl rfl
  have x0 : fld W 29 3 = 1 := fld_get hW hr 0 rfl rfl
  have x1 : fld W 26 3 = n.toNat := fld_get hW hr 1 rfl rfl
  have b1 : bits W 26 3 = n := bits_of x1
  have x2 : fld W 24 2 = ga.toNat := fld_get hW hr 2 rfl rfl
  have b2 : bits W 24 2 = ga := bits_of x2
  have x3 : fld W 16 8 = maska.toNat := fld_get hW hr 3 rfl rfl
  have b3 : bits W 16 8 = maska := bits_of x3
  have x4 : fld W 14 2 = gb.toNat := fld_get hW hr 4 rfl rfl
  have b4 : bits W 14 2 = gb := bits_of x4
  have x5 : fld W 6 8 = maskb.toNat := fld_get hW hr 5 rfl rfl
  have b5 : bits W 6 8 = maskb := bits_of x5
  refine decodeAt_encode hW hb ?_ hw
  simp [rawAt, rawStart, x6, x0, b1, b2, b3, b4, b5]

theorem RoundTrip.add (cl : Cluster) (rd : BitVec 5) (ra : BitVec 5) (rb : BitVec 5) (bk : BitVec 2) (g : BitVec 4) : RoundTrip.Statement (.add cl rd ra rb bk g) := by
  intro pl hp hw
  obtain rfl : _ = pl := Option.some.inj hp
  have hr : InRange [(6, 1), fv rd, fv ra, fv rb, fv bk, (5, 0), fv g] := by
    simp only [inRange_cons, inRange_nil, fv_lt, and_true, true_and]
    decide
  have hb := pack_lt _ 0 0 (by decide) hr
  generalize hW : pack [(6, 1), fv rd, fv ra, fv rb, fv bk, (5, 0), fv g] 0 = W at hb
  have x5 : fld W 4 5 = 0 := fld_get hW hr 5 rfl rfl
  have x0 : fld W 26 6 = 1 := fld_get hW hr 0 rfl rfl
  have x1 : fld W 21 5 = rd.toNat := fld_get hW hr 1 rfl rfl
  have b1 : bits W 21 5 = rd := bits_of x1
  have x2 : fld W 16 5 = ra.toNat := fld_get hW hr 2 rfl rfl
  have b2 : bits W 16 5 = ra := bits_of x2
  have x3 : fld W 11 5 = rb.toNat := fld_get hW hr 3 rfl rfl
  have b3 : bits W 11 5 = rb := bits_of x3
  have x4 : fld W 9 2 = bk.toNat := fld_get hW hr 4 rfl rfl
  have b4 : bits W 9 2 = bk := bits_of x4
  have x6 : fld W 0 4 = g.toNat := fld_get hW hr 6 rfl rfl
  have b6 : bits W 0 4 = g := bits_of x6
  have n4_12_15 : ¬ fld W 4 12 = 15 := fld_ne x5 4 5 (by decide)
  have n4_12_16 : ¬ fld W 4 12 = 16 := fld_ne x5 4 5 (by decide)
  refine decodeAt_encode hW hb ?_ hw
  cases cl <;>
    simp [rawAt, rawBoth, rawBoth01, Cluster.slot, x5, x0, b1, b2, b3, b4, b6, n4_12_15, n4_12_16]

theorem RoundTrip.sub (cl : Cluster) (rd : BitVec 5) (ra : BitVec 5) (rb : BitVec 5) (bk : BitVec 2) (g : BitVec 4) : RoundTrip.Statement (.sub cl rd ra rb bk g) := by
  intro pl hp hw
  obtain rfl : _ = pl := Option.some.inj hp
  have hr : InRange [(6, 1), fv rd, fv ra, fv rb, fv bk, (5, 1), fv g] := by
    simp only [inRange_cons, inRange_nil, fv_lt, and_true, true_and]
    decide
  have hb := pack_lt _ 0 0 (by decide) hr
  generalize hW : pack [(6, 1), fv rd, fv ra, fv rb, fv bk, (5, 1), fv g] 0 = W at hb
  have x5 : fld W 4 5 = 1 := fld_get hW hr 5 rfl rfl
  have x0 : fld W 26 6 = 1 := fld_get hW hr 0 rfl rfl
  have x1 : fld W 21 5 = rd.toNat := fld_get hW hr 1 rfl rfl
  have b1 : bits W 21 5 = rd := bits_of x1
  have x2 : fld W 16 5 = ra.toNat := fld_get hW hr 2 rfl rfl
  have b2 : bits W 16 5 = ra := bits_of x2
  have x3 : fld W 11 5 = rb.toNat := fld_get hW hr 3 rfl rfl
  have b3 : bits W 11 5 = rb := bits_of x3
  have x4 : fld W 9 2 = bk.toNat := fld_get hW hr 4 rfl rfl
  have b4 : bits W 9 2 = bk := bits_of x4
  have x6 : fld W 0 4 = g.toNat := fld_get hW hr 6 rfl rfl
  have b6 : bits W 0 4 = g := bits_of x6
  have n4_12_15 : ¬ fld W 4 12 = 15 := fld_ne x5 4 5 (by decide)
  have n4_12_16 : ¬ fld W 4 12 = 16 := fld_ne x5 4 5 (by decide)
  refine decodeAt_encode hW hb ?_ hw
  cases cl <;>
    simp [rawAt, rawBoth, rawBoth01, Cluster.slot, x5, x0, b1, b2, b3, b4, b6, n4_12_15, n4_12_16]

theorem RoundTrip.and (cl : Cluster) (rd : BitVec 5) (ra : BitVec 5) (rb : BitVec 5) (bk : BitVec 2) (g : BitVec 4) : RoundTrip.Statement (.and cl rd ra rb bk g) := by
  intro pl hp hw
  obtain rfl : _ = pl := Option.some.inj hp
  have hr : InRange [(6, 1), fv rd, fv ra, fv rb, fv bk, (5, 2), fv g] := by
    simp only [inRange_cons, inRange_nil, fv_lt, and_true, true_and]
    decide
  have hb := pack_lt _ 0 0 (by decide) hr
  generalize hW : pack [(6, 1), fv rd, fv ra, fv rb, fv bk, (5, 2), fv g] 0 = W at hb
  have x5 : fld W 4 5 = 2 := fld_get hW hr 5 rfl rfl
  have x0 : fld W 26 6 = 1 := fld_get hW hr 0 rfl rfl
  have x1 : fld W 21 5 = rd.toNat := fld_get hW hr 1 rfl rfl
  have b1 : bits W 21 5 = rd := bits_of x1
  have x2 : fld W 16 5 = ra.toNat := fld_get hW hr 2 rfl rfl
  have b2 : bits W 16 5 = ra := bits_of x2
  have x3 : fld W 11 5 = rb.toNat := fld_get hW hr 3 rfl rfl
  have b3 : bits W 11 5 = rb := bits_of x3
  have x4 : fld W 9 2 = bk.toNat := fld_get hW hr 4 rfl rfl
  have b4 : bits W 9 2 = bk := bits_of x4
  have x6 : fld W 0 4 = g.toNat := fld_get hW hr 6 rfl rfl
  have b6 : bits W 0 4 = g := bits_of x6
  have n4_12_15 : ¬ fld W 4 12 = 15 := fld_ne x5 4 5 (by decide)
  have n4_12_16 : ¬ fld W 4 12 = 16 := fld_ne x5 4 5 (by decide)
  refine decodeAt_encode hW hb ?_ hw
  cases cl <;>
    simp [rawAt, rawBoth, rawBoth01, Cluster.slot, x5, x0, b1, b2, b3, b4, b6, n4_12_15, n4_12_16]

theorem RoundTrip.or (cl : Cluster) (rd : BitVec 5) (ra : BitVec 5) (rb : BitVec 5) (bk : BitVec 2) (g : BitVec 4) : RoundTrip.Statement (.or cl rd ra rb bk g) := by
  intro pl hp hw
  obtain rfl : _ = pl := Option.some.inj hp
  have hr : InRange [(6, 1), fv rd, fv ra, fv rb, fv bk, (5, 3), fv g] := by
    simp only [inRange_cons, inRange_nil, fv_lt, and_true, true_and]
    decide
  have hb := pack_lt _ 0 0 (by decide) hr
  generalize hW : pack [(6, 1), fv rd, fv ra, fv rb, fv bk, (5, 3), fv g] 0 = W at hb
  have x5 : fld W 4 5 = 3 := fld_get hW hr 5 rfl rfl
  have x0 : fld W 26 6 = 1 := fld_get hW hr 0 rfl rfl
  have x1 : fld W 21 5 = rd.toNat := fld_get hW hr 1 rfl rfl
  have b1 : bits W 21 5 = rd := bits_of x1
  have x2 : fld W 16 5 = ra.toNat := fld_get hW hr 2 rfl rfl
  have b2 : bits W 16 5 = ra := bits_of x2
  have x3 : fld W 11 5 = rb.toNat := fld_get hW hr 3 rfl rfl
  have b3 : bits W 11 5 = rb := bits_of x3
  have x4 : fld W 9 2 = bk.toNat := fld_get hW hr 4 rfl rfl
  have b4 : bits W 9 2 = bk := bits_of x4
  have x6 : fld W 0 4 = g.toNat := fld_get hW hr 6 rfl rfl
  have b6 : bits W 0 4 = g := bits_of x6
  have n4_12_15 : ¬ fld W 4 12 = 15 := fld_ne x5 4 5 (by decide)
  have n4_12_16 : ¬ fld W 4 12 = 16 := fld_ne x5 4 5 (by decide)
  refine decodeAt_encode hW hb ?_ hw
  cases cl <;>
    simp [rawAt, rawBoth, rawBoth01, Cluster.slot, x5, x0, b1, b2, b3, b4, b6, n4_12_15, n4_12_16]

theorem RoundTrip.xor (cl : Cluster) (rd : BitVec 5) (ra : BitVec 5) (rb : BitVec 5) (bk : BitVec 2) (g : BitVec 4) : RoundTrip.Statement (.xor cl rd ra rb bk g) := by
  intro pl hp hw
  obtain rfl : _ = pl := Option.some.inj hp
  have hr : InRange [(6, 1), fv rd, fv ra, fv rb, fv bk, (5, 4), fv g] := by
    simp only [inRange_cons, inRange_nil, fv_lt, and_true, true_and]
    decide
  have hb := pack_lt _ 0 0 (by decide) hr
  generalize hW : pack [(6, 1), fv rd, fv ra, fv rb, fv bk, (5, 4), fv g] 0 = W at hb
  have x5 : fld W 4 5 = 4 := fld_get hW hr 5 rfl rfl
  have x0 : fld W 26 6 = 1 := fld_get hW hr 0 rfl rfl
  have x1 : fld W 21 5 = rd.toNat := fld_get hW hr 1 rfl rfl
  have b1 : bits W 21 5 = rd := bits_of x1
  have x2 : fld W 16 5 = ra.toNat := fld_get hW hr 2 rfl rfl
  have b2 : bits W 16 5 = ra := bits_of x2
  have x3 : fld W 11 5 = rb.toNat := fld_get hW hr 3 rfl rfl
  have b3 : bits W 11 5 = rb := bits_of x3
  have x4 : fld W 9 2 = bk.toNat := fld_get hW hr 4 rfl rfl
  have b4 : bits W 9 2 = bk := bits_of x4
  have x6 : fld W 0 4 = g.toNat := fld_get hW hr 6 rfl rfl
  have b6 : bits W 0 4 = g := bits_of x6
  have n4_12_15 : ¬ fld W 4 12 = 15 := fld_ne x5 4 5 (by decide)
  have n4_12_16 : ¬ fld W 4 12 = 16 := fld_ne x5 4 5 (by decide)
  refine decodeAt_encode hW hb ?_ hw
  cases cl <;>
    simp [rawAt, rawBoth, rawBoth01, Cluster.slot, x5, x0, b1, b2, b3, b4, b6, n4_12_15, n4_12_16]

theorem RoundTrip.andn (cl : Cluster) (rd : BitVec 5) (ra : BitVec 5) (rb : BitVec 5) (bk : BitVec 2) (g : BitVec 4) : RoundTrip.Statement (.andn cl rd ra rb bk g) := by
  intro pl hp hw
  obtain rfl : _ = pl := Option.some.inj hp
  have hr : InRange [(6, 1), fv rd, fv ra, fv rb, fv bk, (5, 5), fv g] := by
    simp only [inRange_cons, inRange_nil, fv_lt, and_true, true_and]
    decide
  have hb := pack_lt _ 0 0 (by decide) hr
  generalize hW : pack [(6, 1), fv rd, fv ra, fv rb, fv bk, (5, 5), fv g] 0 = W at hb
  have x5 : fld W 4 5 = 5 := fld_get hW hr 5 rfl rfl
  have x0 : fld W 26 6 = 1 := fld_get hW hr 0 rfl rfl
  have x1 : fld W 21 5 = rd.toNat := fld_get hW hr 1 rfl rfl
  have b1 : bits W 21 5 = rd := bits_of x1
  have x2 : fld W 16 5 = ra.toNat := fld_get hW hr 2 rfl rfl
  have b2 : bits W 16 5 = ra := bits_of x2
  have x3 : fld W 11 5 = rb.toNat := fld_get hW hr 3 rfl rfl
  have b3 : bits W 11 5 = rb := bits_of x3
  have x4 : fld W 9 2 = bk.toNat := fld_get hW hr 4 rfl rfl
  have b4 : bits W 9 2 = bk := bits_of x4
  have x6 : fld W 0 4 = g.toNat := fld_get hW hr 6 rfl rfl
  have b6 : bits W 0 4 = g := bits_of x6
  have n4_12_15 : ¬ fld W 4 12 = 15 := fld_ne x5 4 5 (by decide)
  have n4_12_16 : ¬ fld W 4 12 = 16 := fld_ne x5 4 5 (by decide)
  refine decodeAt_encode hW hb ?_ hw
  cases cl <;>
    simp [rawAt, rawBoth, rawBoth01, Cluster.slot, x5, x0, b1, b2, b3, b4, b6, n4_12_15, n4_12_16]

theorem RoundTrip.sll (cl : Cluster) (rd : BitVec 5) (ra : BitVec 5) (rb : BitVec 5) (bk : BitVec 2) (g : BitVec 4) : RoundTrip.Statement (.sll cl rd ra rb bk g) := by
  intro pl hp hw
  obtain rfl : _ = pl := Option.some.inj hp
  have hr : InRange [(6, 1), fv rd, fv ra, fv rb, fv bk, (5, 6), fv g] := by
    simp only [inRange_cons, inRange_nil, fv_lt, and_true, true_and]
    decide
  have hb := pack_lt _ 0 0 (by decide) hr
  generalize hW : pack [(6, 1), fv rd, fv ra, fv rb, fv bk, (5, 6), fv g] 0 = W at hb
  have x5 : fld W 4 5 = 6 := fld_get hW hr 5 rfl rfl
  have x0 : fld W 26 6 = 1 := fld_get hW hr 0 rfl rfl
  have x1 : fld W 21 5 = rd.toNat := fld_get hW hr 1 rfl rfl
  have b1 : bits W 21 5 = rd := bits_of x1
  have x2 : fld W 16 5 = ra.toNat := fld_get hW hr 2 rfl rfl
  have b2 : bits W 16 5 = ra := bits_of x2
  have x3 : fld W 11 5 = rb.toNat := fld_get hW hr 3 rfl rfl
  have b3 : bits W 11 5 = rb := bits_of x3
  have x4 : fld W 9 2 = bk.toNat := fld_get hW hr 4 rfl rfl
  have b4 : bits W 9 2 = bk := bits_of x4
  have x6 : fld W 0 4 = g.toNat := fld_get hW hr 6 rfl rfl
  have b6 : bits W 0 4 = g := bits_of x6
  have n4_12_15 : ¬ fld W 4 12 = 15 := fld_ne x5 4 5 (by decide)
  have n4_12_16 : ¬ fld W 4 12 = 16 := fld_ne x5 4 5 (by decide)
  refine decodeAt_encode hW hb ?_ hw
  cases cl <;>
    simp [rawAt, rawBoth, rawBoth01, Cluster.slot, x5, x0, b1, b2, b3, b4, b6, n4_12_15, n4_12_16]

theorem RoundTrip.srl (cl : Cluster) (rd : BitVec 5) (ra : BitVec 5) (rb : BitVec 5) (bk : BitVec 2) (g : BitVec 4) : RoundTrip.Statement (.srl cl rd ra rb bk g) := by
  intro pl hp hw
  obtain rfl : _ = pl := Option.some.inj hp
  have hr : InRange [(6, 1), fv rd, fv ra, fv rb, fv bk, (5, 7), fv g] := by
    simp only [inRange_cons, inRange_nil, fv_lt, and_true, true_and]
    decide
  have hb := pack_lt _ 0 0 (by decide) hr
  generalize hW : pack [(6, 1), fv rd, fv ra, fv rb, fv bk, (5, 7), fv g] 0 = W at hb
  have x5 : fld W 4 5 = 7 := fld_get hW hr 5 rfl rfl
  have x0 : fld W 26 6 = 1 := fld_get hW hr 0 rfl rfl
  have x1 : fld W 21 5 = rd.toNat := fld_get hW hr 1 rfl rfl
  have b1 : bits W 21 5 = rd := bits_of x1
  have x2 : fld W 16 5 = ra.toNat := fld_get hW hr 2 rfl rfl
  have b2 : bits W 16 5 = ra := bits_of x2
  have x3 : fld W 11 5 = rb.toNat := fld_get hW hr 3 rfl rfl
  have b3 : bits W 11 5 = rb := bits_of x3
  have x4 : fld W 9 2 = bk.toNat := fld_get hW hr 4 rfl rfl
  have b4 : bits W 9 2 = bk := bits_of x4
  have x6 : fld W 0 4 = g.toNat := fld_get hW hr 6 rfl rfl
  have b6 : bits W 0 4 = g := bits_of x6
  have n4_12_15 : ¬ fld W 4 12 = 15 := fld_ne x5 4 5 (by decide)
  have n4_12_16 : ¬ fld W 4 12 = 16 := fld_ne x5 4 5 (by decide)
  refine decodeAt_encode hW hb ?_ hw
  cases cl <;>
    simp [rawAt, rawBoth, rawBoth01, Cluster.slot, x5, x0, b1, b2, b3, b4, b6, n4_12_15, n4_12_16]

theorem RoundTrip.sra (cl : Cluster) (rd : BitVec 5) (ra : BitVec 5) (rb : BitVec 5) (bk : BitVec 2) (g : BitVec 4) : RoundTrip.Statement (.sra cl rd ra rb bk g) := by
  intro pl hp hw
  obtain rfl : _ = pl := Option.some.inj hp
  have hr : InRange [(6, 1), fv rd, fv ra, fv rb, fv bk, (5, 8), fv g] := by
    simp only [inRange_cons, inRange_nil, fv_lt, and_true, true_and]
    decide
  have hb := pack_lt _ 0 0 (by decide) hr
  generalize hW : pack [(6, 1), fv rd, fv ra, fv rb, fv bk, (5, 8), fv g] 0 = W at hb
  have x5 : fld W 4 5 = 8 := fld_get hW hr 5 rfl rfl
  have x0 : fld W 26 6 = 1 := fld_get hW hr 0 rfl rfl
  have x1 : fld W 21 5 = rd.toNat := fld_get hW hr 1 rfl rfl
  have b1 : bits W 21 5 = rd := bits_of x1
  have x2 : fld W 16 5 = ra.toNat := fld_get hW hr 2 rfl rfl
  have b2 : bits W 16 5 = ra := bits_of x2
  have x3 : fld W 11 5 = rb.toNat := fld_get hW hr 3 rfl rfl
  have b3 : bits W 11 5 = rb := bits_of x3
  have x4 : fld W 9 2 = bk.toNat := fld_get hW hr 4 rfl rfl
  have b4 : bits W 9 2 = bk := bits_of x4
  have x6 : fld W 0 4 = g.toNat := fld_get hW hr 6 rfl rfl
  have b6 : bits W 0 4 = g := bits_of x6
  have n4_12_15 : ¬ fld W 4 12 = 15 := fld_ne x5 4 5 (by decide)
  have n4_12_16 : ¬ fld W 4 12 = 16 := fld_ne x5 4 5 (by decide)
  refine decodeAt_encode hW hb ?_ hw
  cases cl <;>
    simp [rawAt, rawBoth, rawBoth01, Cluster.slot, x5, x0, b1, b2, b3, b4, b6, n4_12_15, n4_12_16]

theorem RoundTrip.slt (cl : Cluster) (rd : BitVec 5) (ra : BitVec 5) (rb : BitVec 5) (bk : BitVec 2) (g : BitVec 4) : RoundTrip.Statement (.slt cl rd ra rb bk g) := by
  intro pl hp hw
  obtain rfl : _ = pl := Option.some.inj hp
  have hr : InRange [(6, 1), fv rd, fv ra, fv rb, fv bk, (5, 9), fv g] := by
    simp only [inRange_cons, inRange_nil, fv_lt, and_true, true_and]
    decide
  have hb := pack_lt _ 0 0 (by decide) hr
  generalize hW : pack [(6, 1), fv rd, fv ra, fv rb, fv bk, (5, 9), fv g] 0 = W at hb
  have x5 : fld W 4 5 = 9 := fld_get hW hr 5 rfl rfl
  have x0 : fld W 26 6 = 1 := fld_get hW hr 0 rfl rfl
  have x1 : fld W 21 5 = rd.toNat := fld_get hW hr 1 rfl rfl
  have b1 : bits W 21 5 = rd := bits_of x1
  have x2 : fld W 16 5 = ra.toNat := fld_get hW hr 2 rfl rfl
  have b2 : bits W 16 5 = ra := bits_of x2
  have x3 : fld W 11 5 = rb.toNat := fld_get hW hr 3 rfl rfl
  have b3 : bits W 11 5 = rb := bits_of x3
  have x4 : fld W 9 2 = bk.toNat := fld_get hW hr 4 rfl rfl
  have b4 : bits W 9 2 = bk := bits_of x4
  have x6 : fld W 0 4 = g.toNat := fld_get hW hr 6 rfl rfl
  have b6 : bits W 0 4 = g := bits_of x6
  have n4_12_15 : ¬ fld W 4 12 = 15 := fld_ne x5 4 5 (by decide)
  have n4_12_16 : ¬ fld W 4 12 = 16 := fld_ne x5 4 5 (by decide)
  refine decodeAt_encode hW hb ?_ hw
  cases cl <;>
    simp [rawAt, rawBoth, rawBoth01, Cluster.slot, x5, x0, b1, b2, b3, b4, b6, n4_12_15, n4_12_16]

theorem RoundTrip.sltu (cl : Cluster) (rd : BitVec 5) (ra : BitVec 5) (rb : BitVec 5) (bk : BitVec 2) (g : BitVec 4) : RoundTrip.Statement (.sltu cl rd ra rb bk g) := by
  intro pl hp hw
  obtain rfl : _ = pl := Option.some.inj hp
  have hr : InRange [(6, 1), fv rd, fv ra, fv rb, fv bk, (5, 10), fv g] := by
    simp only [inRange_cons, inRange_nil, fv_lt, and_true, true_and]
    decide
  have hb := pack_lt _ 0 0 (by decide) hr
  generalize hW : pack [(6, 1), fv rd, fv ra, fv rb, fv bk, (5, 10), fv g] 0 = W at hb
  have x5 : fld W 4 5 = 10 := fld_get hW hr 5 rfl rfl
  have x0 : fld W 26 6 = 1 := fld_get hW hr 0 rfl rfl
  have x1 : fld W 21 5 = rd.toNat := fld_get hW hr 1 rfl rfl
  have b1 : bits W 21 5 = rd := bits_of x1
  have x2 : fld W 16 5 = ra.toNat := fld_get hW hr 2 rfl rfl
  have b2 : bits W 16 5 = ra := bits_of x2
  have x3 : fld W 11 5 = rb.toNat := fld_get hW hr 3 rfl rfl
  have b3 : bits W 11 5 = rb := bits_of x3
  have x4 : fld W 9 2 = bk.toNat := fld_get hW hr 4 rfl rfl
  have b4 : bits W 9 2 = bk := bits_of x4
  have x6 : fld W 0 4 = g.toNat := fld_get hW hr 6 rfl rfl
  have b6 : bits W 0 4 = g := bits_of x6
  have n4_12_15 : ¬ fld W 4 12 = 15 := fld_ne x5 4 5 (by decide)
  have n4_12_16 : ¬ fld W 4 12 = 16 := fld_ne x5 4 5 (by decide)
  refine decodeAt_encode hW hb ?_ hw
  cases cl <;>
    simp [rawAt, rawBoth, rawBoth01, Cluster.slot, x5, x0, b1, b2, b3, b4, b6, n4_12_15, n4_12_16]

theorem RoundTrip.min (cl : Cluster) (rd : BitVec 5) (ra : BitVec 5) (rb : BitVec 5) (bk : BitVec 2) (g : BitVec 4) : RoundTrip.Statement (.min cl rd ra rb bk g) := by
  intro pl hp hw
  obtain rfl : _ = pl := Option.some.inj hp
  have hr : InRange [(6, 1), fv rd, fv ra, fv rb, fv bk, (5, 11), fv g] := by
    simp only [inRange_cons, inRange_nil, fv_lt, and_true, true_and]
    decide
  have hb := pack_lt _ 0 0 (by decide) hr
  generalize hW : pack [(6, 1), fv rd, fv ra, fv rb, fv bk, (5, 11), fv g] 0 = W at hb
  have x5 : fld W 4 5 = 11 := fld_get hW hr 5 rfl rfl
  have x0 : fld W 26 6 = 1 := fld_get hW hr 0 rfl rfl
  have x1 : fld W 21 5 = rd.toNat := fld_get hW hr 1 rfl rfl
  have b1 : bits W 21 5 = rd := bits_of x1
  have x2 : fld W 16 5 = ra.toNat := fld_get hW hr 2 rfl rfl
  have b2 : bits W 16 5 = ra := bits_of x2
  have x3 : fld W 11 5 = rb.toNat := fld_get hW hr 3 rfl rfl
  have b3 : bits W 11 5 = rb := bits_of x3
  have x4 : fld W 9 2 = bk.toNat := fld_get hW hr 4 rfl rfl
  have b4 : bits W 9 2 = bk := bits_of x4
  have x6 : fld W 0 4 = g.toNat := fld_get hW hr 6 rfl rfl
  have b6 : bits W 0 4 = g := bits_of x6
  have n4_12_15 : ¬ fld W 4 12 = 15 := fld_ne x5 4 5 (by decide)
  have n4_12_16 : ¬ fld W 4 12 = 16 := fld_ne x5 4 5 (by decide)
  refine decodeAt_encode hW hb ?_ hw
  cases cl <;>
    simp [rawAt, rawBoth, rawBoth01, Cluster.slot, x5, x0, b1, b2, b3, b4, b6, n4_12_15, n4_12_16]

theorem RoundTrip.max (cl : Cluster) (rd : BitVec 5) (ra : BitVec 5) (rb : BitVec 5) (bk : BitVec 2) (g : BitVec 4) : RoundTrip.Statement (.max cl rd ra rb bk g) := by
  intro pl hp hw
  obtain rfl : _ = pl := Option.some.inj hp
  have hr : InRange [(6, 1), fv rd, fv ra, fv rb, fv bk, (5, 12), fv g] := by
    simp only [inRange_cons, inRange_nil, fv_lt, and_true, true_and]
    decide
  have hb := pack_lt _ 0 0 (by decide) hr
  generalize hW : pack [(6, 1), fv rd, fv ra, fv rb, fv bk, (5, 12), fv g] 0 = W at hb
  have x5 : fld W 4 5 = 12 := fld_get hW hr 5 rfl rfl
  have x0 : fld W 26 6 = 1 := fld_get hW hr 0 rfl rfl
  have x1 : fld W 21 5 = rd.toNat := fld_get hW hr 1 rfl rfl
  have b1 : bits W 21 5 = rd := bits_of x1
  have x2 : fld W 16 5 = ra.toNat := fld_get hW hr 2 rfl rfl
  have b2 : bits W 16 5 = ra := bits_of x2
  have x3 : fld W 11 5 = rb.toNat := fld_get hW hr 3 rfl rfl
  have b3 : bits W 11 5 = rb := bits_of x3
  have x4 : fld W 9 2 = bk.toNat := fld_get hW hr 4 rfl rfl
  have b4 : bits W 9 2 = bk := bits_of x4
  have x6 : fld W 0 4 = g.toNat := fld_get hW hr 6 rfl rfl
  have b6 : bits W 0 4 = g := bits_of x6
  have n4_12_15 : ¬ fld W 4 12 = 15 := fld_ne x5 4 5 (by decide)
  have n4_12_16 : ¬ fld W 4 12 = 16 := fld_ne x5 4 5 (by decide)
  refine decodeAt_encode hW hb ?_ hw
  cases cl <;>
    simp [rawAt, rawBoth, rawBoth01, Cluster.slot, x5, x0, b1, b2, b3, b4, b6, n4_12_15, n4_12_16]

theorem RoundTrip.minu (cl : Cluster) (rd : BitVec 5) (ra : BitVec 5) (rb : BitVec 5) (bk : BitVec 2) (g : BitVec 4) : RoundTrip.Statement (.minu cl rd ra rb bk g) := by
  intro pl hp hw
  obtain rfl : _ = pl := Option.some.inj hp
  have hr : InRange [(6, 1), fv rd, fv ra, fv rb, fv bk, (5, 13), fv g] := by
    simp only [inRange_cons, inRange_nil, fv_lt, and_true, true_and]
    decide
  have hb := pack_lt _ 0 0 (by decide) hr
  generalize hW : pack [(6, 1), fv rd, fv ra, fv rb, fv bk, (5, 13), fv g] 0 = W at hb
  have x5 : fld W 4 5 = 13 := fld_get hW hr 5 rfl rfl
  have x0 : fld W 26 6 = 1 := fld_get hW hr 0 rfl rfl
  have x1 : fld W 21 5 = rd.toNat := fld_get hW hr 1 rfl rfl
  have b1 : bits W 21 5 = rd := bits_of x1
  have x2 : fld W 16 5 = ra.toNat := fld_get hW hr 2 rfl rfl
  have b2 : bits W 16 5 = ra := bits_of x2
  have x3 : fld W 11 5 = rb.toNat := fld_get hW hr 3 rfl rfl
  have b3 : bits W 11 5 = rb := bits_of x3
  have x4 : fld W 9 2 = bk.toNat := fld_get hW hr 4 rfl rfl
  have b4 : bits W 9 2 = bk := bits_of x4
  have x6 : fld W 0 4 = g.toNat := fld_get hW hr 6 rfl rfl
  have b6 : bits W 0 4 = g := bits_of x6
  have n4_12_15 : ¬ fld W 4 12 = 15 := fld_ne x5 4 5 (by decide)
  have n4_12_16 : ¬ fld W 4 12 = 16 := fld_ne x5 4 5 (by decide)
  refine decodeAt_encode hW hb ?_ hw
  cases cl <;>
    simp [rawAt, rawBoth, rawBoth01, Cluster.slot, x5, x0, b1, b2, b3, b4, b6, n4_12_15, n4_12_16]

theorem RoundTrip.maxu (cl : Cluster) (rd : BitVec 5) (ra : BitVec 5) (rb : BitVec 5) (bk : BitVec 2) (g : BitVec 4) : RoundTrip.Statement (.maxu cl rd ra rb bk g) := by
  intro pl hp hw
  obtain rfl : _ = pl := Option.some.inj hp
  have hr : InRange [(6, 1), fv rd, fv ra, fv rb, fv bk, (5, 14), fv g] := by
    simp only [inRange_cons, inRange_nil, fv_lt, and_true, true_and]
    decide
  have hb := pack_lt _ 0 0 (by decide) hr
  generalize hW : pack [(6, 1), fv rd, fv ra, fv rb, fv bk, (5, 14), fv g] 0 = W at hb
  have x5 : fld W 4 5 = 14 := fld_get hW hr 5 rfl rfl
  have x0 : fld W 26 6 = 1 := fld_get hW hr 0 rfl rfl
  have x1 : fld W 21 5 = rd.toNat := fld_get hW hr 1 rfl rfl
  have b1 : bits W 21 5 = rd := bits_of x1
  have x2 : fld W 16 5 = ra.toNat := fld_get hW hr 2 rfl rfl
  have b2 : bits W 16 5 = ra := bits_of x2
  have x3 : fld W 11 5 = rb.toNat := fld_get hW hr 3 rfl rfl
  have b3 : bits W 11 5 = rb := bits_of x3
  have x4 : fld W 9 2 = bk.toNat := fld_get hW hr 4 rfl rfl
  have b4 : bits W 9 2 = bk := bits_of x4
  have x6 : fld W 0 4 = g.toNat := fld_get hW hr 6 rfl rfl
  have b6 : bits W 0 4 = g := bits_of x6
  have n4_12_15 : ¬ fld W 4 12 = 15 := fld_ne x5 4 5 (by decide)
  have n4_12_16 : ¬ fld W 4 12 = 16 := fld_ne x5 4 5 (by decide)
  refine decodeAt_encode hW hb ?_ hw
  cases cl <;>
    simp [rawAt, rawBoth, rawBoth01, Cluster.slot, x5, x0, b1, b2, b3, b4, b6, n4_12_15, n4_12_16]

theorem RoundTrip.clz (cl : Cluster) (rd : BitVec 5) (ra : BitVec 5) (g : BitVec 4) : RoundTrip.Statement (.clz cl rd ra g) := by
  intro pl hp hw
  obtain rfl : _ = pl := Option.some.inj hp
  have hr : InRange [(6, 1), fv rd, fv ra, (12, 15), fv g] := by
    simp only [inRange_cons, inRange_nil, fv_lt, and_true, true_and]
    decide
  have hb := pack_lt _ 0 0 (by decide) hr
  generalize hW : pack [(6, 1), fv rd, fv ra, (12, 15), fv g] 0 = W at hb
  have x3 : fld W 4 12 = 15 := fld_get hW hr 3 rfl rfl
  have g4_5 : fld W 4 5 = 15 := fld_part x3 4 5 (by decide) rfl
  have x0 : fld W 26 6 = 1 := fld_get hW hr 0 rfl rfl
  have x1 : fld W 21 5 = rd.toNat := fld_get hW hr 1 rfl rfl
  have b1 : bits W 21 5 = rd := bits_of x1
  have x2 : fld W 16 5 = ra.toNat := fld_get hW hr 2 rfl rfl
  have b2 : bits W 16 5 = ra := bits_of x2
  have x4 : fld W 0 4 = g.toNat := fld_get hW hr 4 rfl rfl
  have b4 : bits W 0 4 = g := bits_of x4
  refine decodeAt_encode hW hb ?_ hw
  cases cl <;>
    simp [rawAt, rawBoth, rawBoth01, Cluster.slot, g4_5, x3, x0, b1, b2, b4]

theorem RoundTrip.popc (cl : Cluster) (rd : BitVec 5) (ra : BitVec 5) (g : BitVec 4) : RoundTrip.Statement (.popc cl rd ra g) := by
  intro pl hp hw
  obtain rfl : _ = pl := Option.some.inj hp
  have hr : InRange [(6, 1), fv rd, fv ra, (12, 16), fv g] := by
    simp only [inRange_cons, inRange_nil, fv_lt, and_true, true_and]
    decide
  have hb := pack_lt _ 0 0 (by decide) hr
  generalize hW : pack [(6, 1), fv rd, fv ra, (12, 16), fv g] 0 = W at hb
  have x3 : fld W 4 12 = 16 := fld_get hW hr 3 rfl rfl
  have g4_5 : fld W 4 5 = 16 := fld_part x3 4 5 (by decide) rfl
  have x0 : fld W 26 6 = 1 := fld_get hW hr 0 rfl rfl
  have x1 : fld W 21 5 = rd.toNat := fld_get hW hr 1 rfl rfl
  have b1 : bits W 21 5 = rd := bits_of x1
  have x2 : fld W 16 5 = ra.toNat := fld_get hW hr 2 rfl rfl
  have b2 : bits W 16 5 = ra := bits_of x2
  have x4 : fld W 0 4 = g.toNat := fld_get hW hr 4 rfl rfl
  have b4 : bits W 0 4 = g := bits_of x4
  refine decodeAt_encode hW hb ?_ hw
  cases cl <;>
    simp [rawAt, rawBoth, rawBoth01, Cluster.slot, g4_5, x3, x0, b1, b2, b4]

theorem RoundTrip.addw (cl : Cluster) (rd : BitVec 5) (ra : BitVec 5) (rb : BitVec 5) (bk : BitVec 2) (g : BitVec 4) : RoundTrip.Statement (.addw cl rd ra rb bk g) := by
  intro pl hp hw
  obtain rfl : _ = pl := Option.some.inj hp
  have hr : InRange [(6, 1), fv rd, fv ra, fv rb, fv bk, (5, 17), fv g] := by
    simp only [inRange_cons, inRange_nil, fv_lt, and_true, true_and]
    decide
  have hb := pack_lt _ 0 0 (by decide) hr
  generalize hW : pack [(6, 1), fv rd, fv ra, fv rb, fv bk, (5, 17), fv g] 0 = W at hb
  have x5 : fld W 4 5 = 17 := fld_get hW hr 5 rfl rfl
  have x0 : fld W 26 6 = 1 := fld_get hW hr 0 rfl rfl
  have x1 : fld W 21 5 = rd.toNat := fld_get hW hr 1 rfl rfl
  have b1 : bits W 21 5 = rd := bits_of x1
  have x2 : fld W 16 5 = ra.toNat := fld_get hW hr 2 rfl rfl
  have b2 : bits W 16 5 = ra := bits_of x2
  have x3 : fld W 11 5 = rb.toNat := fld_get hW hr 3 rfl rfl
  have b3 : bits W 11 5 = rb := bits_of x3
  have x4 : fld W 9 2 = bk.toNat := fld_get hW hr 4 rfl rfl
  have b4 : bits W 9 2 = bk := bits_of x4
  have x6 : fld W 0 4 = g.toNat := fld_get hW hr 6 rfl rfl
  have b6 : bits W 0 4 = g := bits_of x6
  have n4_12_15 : ¬ fld W 4 12 = 15 := fld_ne x5 4 5 (by decide)
  have n4_12_16 : ¬ fld W 4 12 = 16 := fld_ne x5 4 5 (by decide)
  refine decodeAt_encode hW hb ?_ hw
  cases cl <;>
    simp [rawAt, rawBoth, rawBoth01, Cluster.slot, x5, x0, b1, b2, b3, b4, b6, n4_12_15, n4_12_16]

theorem RoundTrip.subw (cl : Cluster) (rd : BitVec 5) (ra : BitVec 5) (rb : BitVec 5) (bk : BitVec 2) (g : BitVec 4) : RoundTrip.Statement (.subw cl rd ra rb bk g) := by
  intro pl hp hw
  obtain rfl : _ = pl := Option.some.inj hp
  have hr : InRange [(6, 1), fv rd, fv ra, fv rb, fv bk, (5, 18), fv g] := by
    simp only [inRange_cons, inRange_nil, fv_lt, and_true, true_and]
    decide
  have hb := pack_lt _ 0 0 (by decide) hr
  generalize hW : pack [(6, 1), fv rd, fv ra, fv rb, fv bk, (5, 18), fv g] 0 = W at hb
  have x5 : fld W 4 5 = 18 := fld_get hW hr 5 rfl rfl
  have x0 : fld W 26 6 = 1 := fld_get hW hr 0 rfl rfl
  have x1 : fld W 21 5 = rd.toNat := fld_get hW hr 1 rfl rfl
  have b1 : bits W 21 5 = rd := bits_of x1
  have x2 : fld W 16 5 = ra.toNat := fld_get hW hr 2 rfl rfl
  have b2 : bits W 16 5 = ra := bits_of x2
  have x3 : fld W 11 5 = rb.toNat := fld_get hW hr 3 rfl rfl
  have b3 : bits W 11 5 = rb := bits_of x3
  have x4 : fld W 9 2 = bk.toNat := fld_get hW hr 4 rfl rfl
  have b4 : bits W 9 2 = bk := bits_of x4
  have x6 : fld W 0 4 = g.toNat := fld_get hW hr 6 rfl rfl
  have b6 : bits W 0 4 = g := bits_of x6
  have n4_12_15 : ¬ fld W 4 12 = 15 := fld_ne x5 4 5 (by decide)
  have n4_12_16 : ¬ fld W 4 12 = 16 := fld_ne x5 4 5 (by decide)
  refine decodeAt_encode hW hb ?_ hw
  cases cl <;>
    simp [rawAt, rawBoth, rawBoth01, Cluster.slot, x5, x0, b1, b2, b3, b4, b6, n4_12_15, n4_12_16]

theorem RoundTrip.sllw (cl : Cluster) (rd : BitVec 5) (ra : BitVec 5) (rb : BitVec 5) (bk : BitVec 2) (g : BitVec 4) : RoundTrip.Statement (.sllw cl rd ra rb bk g) := by
  intro pl hp hw
  obtain rfl : _ = pl := Option.some.inj hp
  have hr : InRange [(6, 1), fv rd, fv ra, fv rb, fv bk, (5, 19), fv g] := by
    simp only [inRange_cons, inRange_nil, fv_lt, and_true, true_and]
    decide
  have hb := pack_lt _ 0 0 (by decide) hr
  generalize hW : pack [(6, 1), fv rd, fv ra, fv rb, fv bk, (5, 19), fv g] 0 = W at hb
  have x5 : fld W 4 5 = 19 := fld_get hW hr 5 rfl rfl
  have x0 : fld W 26 6 = 1 := fld_get hW hr 0 rfl rfl
  have x1 : fld W 21 5 = rd.toNat := fld_get hW hr 1 rfl rfl
  have b1 : bits W 21 5 = rd := bits_of x1
  have x2 : fld W 16 5 = ra.toNat := fld_get hW hr 2 rfl rfl
  have b2 : bits W 16 5 = ra := bits_of x2
  have x3 : fld W 11 5 = rb.toNat := fld_get hW hr 3 rfl rfl
  have b3 : bits W 11 5 = rb := bits_of x3
  have x4 : fld W 9 2 = bk.toNat := fld_get hW hr 4 rfl rfl
  have b4 : bits W 9 2 = bk := bits_of x4
  have x6 : fld W 0 4 = g.toNat := fld_get hW hr 6 rfl rfl
  have b6 : bits W 0 4 = g := bits_of x6
  have n4_12_15 : ¬ fld W 4 12 = 15 := fld_ne x5 4 5 (by decide)
  have n4_12_16 : ¬ fld W 4 12 = 16 := fld_ne x5 4 5 (by decide)
  refine decodeAt_encode hW hb ?_ hw
  cases cl <;>
    simp [rawAt, rawBoth, rawBoth01, Cluster.slot, x5, x0, b1, b2, b3, b4, b6, n4_12_15, n4_12_16]

theorem RoundTrip.srlw (cl : Cluster) (rd : BitVec 5) (ra : BitVec 5) (rb : BitVec 5) (bk : BitVec 2) (g : BitVec 4) : RoundTrip.Statement (.srlw cl rd ra rb bk g) := by
  intro pl hp hw
  obtain rfl : _ = pl := Option.some.inj hp
  have hr : InRange [(6, 1), fv rd, fv ra, fv rb, fv bk, (5, 20), fv g] := by
    simp only [inRange_cons, inRange_nil, fv_lt, and_true, true_and]
    decide
  have hb := pack_lt _ 0 0 (by decide) hr
  generalize hW : pack [(6, 1), fv rd, fv ra, fv rb, fv bk, (5, 20), fv g] 0 = W at hb
  have x5 : fld W 4 5 = 20 := fld_get hW hr 5 rfl rfl
  have x0 : fld W 26 6 = 1 := fld_get hW hr 0 rfl rfl
  have x1 : fld W 21 5 = rd.toNat := fld_get hW hr 1 rfl rfl
  have b1 : bits W 21 5 = rd := bits_of x1
  have x2 : fld W 16 5 = ra.toNat := fld_get hW hr 2 rfl rfl
  have b2 : bits W 16 5 = ra := bits_of x2
  have x3 : fld W 11 5 = rb.toNat := fld_get hW hr 3 rfl rfl
  have b3 : bits W 11 5 = rb := bits_of x3
  have x4 : fld W 9 2 = bk.toNat := fld_get hW hr 4 rfl rfl
  have b4 : bits W 9 2 = bk := bits_of x4
  have x6 : fld W 0 4 = g.toNat := fld_get hW hr 6 rfl rfl
  have b6 : bits W 0 4 = g := bits_of x6
  have n4_12_15 : ¬ fld W 4 12 = 15 := fld_ne x5 4 5 (by decide)
  have n4_12_16 : ¬ fld W 4 12 = 16 := fld_ne x5 4 5 (by decide)
  refine decodeAt_encode hW hb ?_ hw
  cases cl <;>
    simp [rawAt, rawBoth, rawBoth01, Cluster.slot, x5, x0, b1, b2, b3, b4, b6, n4_12_15, n4_12_16]

theorem RoundTrip.sraw (cl : Cluster) (rd : BitVec 5) (ra : BitVec 5) (rb : BitVec 5) (bk : BitVec 2) (g : BitVec 4) : RoundTrip.Statement (.sraw cl rd ra rb bk g) := by
  intro pl hp hw
  obtain rfl : _ = pl := Option.some.inj hp
  have hr : InRange [(6, 1), fv rd, fv ra, fv rb, fv bk, (5, 21), fv g] := by
    simp only [inRange_cons, inRange_nil, fv_lt, and_true, true_and]
    decide
  have hb := pack_lt _ 0 0 (by decide) hr
  generalize hW : pack [(6, 1), fv rd, fv ra, fv rb, fv bk, (5, 21), fv g] 0 = W at hb
  have x5 : fld W 4 5 = 21 := fld_get hW hr 5 rfl rfl
  have x0 : fld W 26 6 = 1 := fld_get hW hr 0 rfl rfl
  have x1 : fld W 21 5 = rd.toNat := fld_get hW hr 1 rfl rfl
  have b1 : bits W 21 5 = rd := bits_of x1
  have x2 : fld W 16 5 = ra.toNat := fld_get hW hr 2 rfl rfl
  have b2 : bits W 16 5 = ra := bits_of x2
  have x3 : fld W 11 5 = rb.toNat := fld_get hW hr 3 rfl rfl
  have b3 : bits W 11 5 = rb := bits_of x3
  have x4 : fld W 9 2 = bk.toNat := fld_get hW hr 4 rfl rfl
  have b4 : bits W 9 2 = bk := bits_of x4
  have x6 : fld W 0 4 = g.toNat := fld_get hW hr 6 rfl rfl
  have b6 : bits W 0 4 = g := bits_of x6
  have n4_12_15 : ¬ fld W 4 12 = 15 := fld_ne x5 4 5 (by decide)
  have n4_12_16 : ¬ fld W 4 12 = 16 := fld_ne x5 4 5 (by decide)
  refine decodeAt_encode hW hb ?_ hw
  cases cl <;>
    simp [rawAt, rawBoth, rawBoth01, Cluster.slot, x5, x0, b1, b2, b3, b4, b6, n4_12_15, n4_12_16]

theorem RoundTrip.hash (cl : Cluster) (rd : BitVec 5) (ra : BitVec 5) (rb : BitVec 5) (bk : BitVec 2) (g : BitVec 4) : RoundTrip.Statement (.hash cl rd ra rb bk g) := by
  intro pl hp hw
  obtain rfl : _ = pl := Option.some.inj hp
  have hr : InRange [(6, 1), fv rd, fv ra, fv rb, fv bk, (5, 22), fv g] := by
    simp only [inRange_cons, inRange_nil, fv_lt, and_true, true_and]
    decide
  have hb := pack_lt _ 0 0 (by decide) hr
  generalize hW : pack [(6, 1), fv rd, fv ra, fv rb, fv bk, (5, 22), fv g] 0 = W at hb
  have x5 : fld W 4 5 = 22 := fld_get hW hr 5 rfl rfl
  have x0 : fld W 26 6 = 1 := fld_get hW hr 0 rfl rfl
  have x1 : fld W 21 5 = rd.toNat := fld_get hW hr 1 rfl rfl
  have b1 : bits W 21 5 = rd := bits_of x1
  have x2 : fld W 16 5 = ra.toNat := fld_get hW hr 2 rfl rfl
  have b2 : bits W 16 5 = ra := bits_of x2
  have x3 : fld W 11 5 = rb.toNat := fld_get hW hr 3 rfl rfl
  have b3 : bits W 11 5 = rb := bits_of x3
  have x4 : fld W 9 2 = bk.toNat := fld_get hW hr 4 rfl rfl
  have b4 : bits W 9 2 = bk := bits_of x4
  have x6 : fld W 0 4 = g.toNat := fld_get hW hr 6 rfl rfl
  have b6 : bits W 0 4 = g := bits_of x6
  have n4_12_15 : ¬ fld W 4 12 = 15 := fld_ne x5 4 5 (by decide)
  have n4_12_16 : ¬ fld W 4 12 = 16 := fld_ne x5 4 5 (by decide)
  refine decodeAt_encode hW hb ?_ hw
  cases cl <;>
    simp [rawAt, rawBoth, rawBoth01, Cluster.slot, x5, x0, b1, b2, b3, b4, b6, n4_12_15, n4_12_16]

theorem RoundTrip.mul (cl : Cluster) (rd : BitVec 5) (ra : BitVec 5) (rb : BitVec 5) (bk : BitVec 2) (g : BitVec 4) : RoundTrip.Statement (.mul cl rd ra rb bk g) := by
  intro pl hp hw
  obtain rfl : _ = pl := Option.some.inj hp
  have hr : InRange [(6, 2), fv rd, fv ra, fv rb, fv bk, (5, 0), fv g] := by
    simp only [inRange_cons, inRange_nil, fv_lt, and_true, true_and]
    decide
  have hb := pack_lt _ 0 0 (by decide) hr
  generalize hW : pack [(6, 2), fv rd, fv ra, fv rb, fv bk, (5, 0), fv g] 0 = W at hb
  have x5 : fld W 4 5 = 0 := fld_get hW hr 5 rfl rfl
  have x0 : fld W 26 6 = 2 := fld_get hW hr 0 rfl rfl
  have x1 : fld W 21 5 = rd.toNat := fld_get hW hr 1 rfl rfl
  have b1 : bits W 21 5 = rd := bits_of x1
  have x2 : fld W 16 5 = ra.toNat := fld_get hW hr 2 rfl rfl
  have b2 : bits W 16 5 = ra := bits_of x2
  have x3 : fld W 11 5 = rb.toNat := fld_get hW hr 3 rfl rfl
  have b3 : bits W 11 5 = rb := bits_of x3
  have x4 : fld W 9 2 = bk.toNat := fld_get hW hr 4 rfl rfl
  have b4 : bits W 9 2 = bk := bits_of x4
  have x6 : fld W 0 4 = g.toNat := fld_get hW hr 6 rfl rfl
  have b6 : bits W 0 4 = g := bits_of x6
  refine decodeAt_encode hW hb ?_ hw
  cases cl <;>
    simp [rawAt, rawBoth, rawBoth02, Cluster.slot, x5, x0, b1, b2, b3, b4, b6]

theorem RoundTrip.mulh (cl : Cluster) (rd : BitVec 5) (ra : BitVec 5) (rb : BitVec 5) (bk : BitVec 2) (g : BitVec 4) : RoundTrip.Statement (.mulh cl rd ra rb bk g) := by
  intro pl hp hw
  obtain rfl : _ = pl := Option.some.inj hp
  have hr : InRange [(6, 2), fv rd, fv ra, fv rb, fv bk, (5, 1), fv g] := by
    simp only [inRange_cons, inRange_nil, fv_lt, and_true, true_and]
    decide
  have hb := pack_lt _ 0 0 (by decide) hr
  generalize hW : pack [(6, 2), fv rd, fv ra, fv rb, fv bk, (5, 1), fv g] 0 = W at hb
  have x5 : fld W 4 5 = 1 := fld_get hW hr 5 rfl rfl
  have x0 : fld W 26 6 = 2 := fld_get hW hr 0 rfl rfl
  have x1 : fld W 21 5 = rd.toNat := fld_get hW hr 1 rfl rfl
  have b1 : bits W 21 5 = rd := bits_of x1
  have x2 : fld W 16 5 = ra.toNat := fld_get hW hr 2 rfl rfl
  have b2 : bits W 16 5 = ra := bits_of x2
  have x3 : fld W 11 5 = rb.toNat := fld_get hW hr 3 rfl rfl
  have b3 : bits W 11 5 = rb := bits_of x3
  have x4 : fld W 9 2 = bk.toNat := fld_get hW hr 4 rfl rfl
  have b4 : bits W 9 2 = bk := bits_of x4
  have x6 : fld W 0 4 = g.toNat := fld_get hW hr 6 rfl rfl
  have b6 : bits W 0 4 = g := bits_of x6
  refine decodeAt_encode hW hb ?_ hw
  cases cl <;>
    simp [rawAt, rawBoth, rawBoth02, Cluster.slot, x5, x0, b1, b2, b3, b4, b6]

theorem RoundTrip.mulhu (cl : Cluster) (rd : BitVec 5) (ra : BitVec 5) (rb : BitVec 5) (bk : BitVec 2) (g : BitVec 4) : RoundTrip.Statement (.mulhu cl rd ra rb bk g) := by
  intro pl hp hw
  obtain rfl : _ = pl := Option.some.inj hp
  have hr : InRange [(6, 2), fv rd, fv ra, fv rb, fv bk, (5, 2), fv g] := by
    simp only [inRange_cons, inRange_nil, fv_lt, and_true, true_and]
    decide
  have hb := pack_lt _ 0 0 (by decide) hr
  generalize hW : pack [(6, 2), fv rd, fv ra, fv rb, fv bk, (5, 2), fv g] 0 = W at hb
  have x5 : fld W 4 5 = 2 := fld_get hW hr 5 rfl rfl
  have x0 : fld W 26 6 = 2 := fld_get hW hr 0 rfl rfl
  have x1 : fld W 21 5 = rd.toNat := fld_get hW hr 1 rfl rfl
  have b1 : bits W 21 5 = rd := bits_of x1
  have x2 : fld W 16 5 = ra.toNat := fld_get hW hr 2 rfl rfl
  have b2 : bits W 16 5 = ra := bits_of x2
  have x3 : fld W 11 5 = rb.toNat := fld_get hW hr 3 rfl rfl
  have b3 : bits W 11 5 = rb := bits_of x3
  have x4 : fld W 9 2 = bk.toNat := fld_get hW hr 4 rfl rfl
  have b4 : bits W 9 2 = bk := bits_of x4
  have x6 : fld W 0 4 = g.toNat := fld_get hW hr 6 rfl rfl
  have b6 : bits W 0 4 = g := bits_of x6
  refine decodeAt_encode hW hb ?_ hw
  cases cl <;>
    simp [rawAt, rawBoth, rawBoth02, Cluster.slot, x5, x0, b1, b2, b3, b4, b6]

theorem RoundTrip.mulw (cl : Cluster) (rd : BitVec 5) (ra : BitVec 5) (rb : BitVec 5) (bk : BitVec 2) (g : BitVec 4) : RoundTrip.Statement (.mulw cl rd ra rb bk g) := by
  intro pl hp hw
  obtain rfl : _ = pl := Option.some.inj hp
  have hr : InRange [(6, 2), fv rd, fv ra, fv rb, fv bk, (5, 3), fv g] := by
    simp only [inRange_cons, inRange_nil, fv_lt, and_true, true_and]
    decide
  have hb := pack_lt _ 0 0 (by decide) hr
  generalize hW : pack [(6, 2), fv rd, fv ra, fv rb, fv bk, (5, 3), fv g] 0 = W at hb
  have x5 : fld W 4 5 = 3 := fld_get hW hr 5 rfl rfl
  have x0 : fld W 26 6 = 2 := fld_get hW hr 0 rfl rfl
  have x1 : fld W 21 5 = rd.toNat := fld_get hW hr 1 rfl rfl
  have b1 : bits W 21 5 = rd := bits_of x1
  have x2 : fld W 16 5 = ra.toNat := fld_get hW hr 2 rfl rfl
  have b2 : bits W 16 5 = ra := bits_of x2
  have x3 : fld W 11 5 = rb.toNat := fld_get hW hr 3 rfl rfl
  have b3 : bits W 11 5 = rb := bits_of x3
  have x4 : fld W 9 2 = bk.toNat := fld_get hW hr 4 rfl rfl
  have b4 : bits W 9 2 = bk := bits_of x4
  have x6 : fld W 0 4 = g.toNat := fld_get hW hr 6 rfl rfl
  have b6 : bits W 0 4 = g := bits_of x6
  refine decodeAt_encode hW hb ?_ hw
  cases cl <;>
    simp [rawAt, rawBoth, rawBoth02, Cluster.slot, x5, x0, b1, b2, b3, b4, b6]

theorem RoundTrip.div (rd : BitVec 5) (ra : BitVec 5) (rb : BitVec 5) (bk : BitVec 2) (g : BitVec 4) : RoundTrip.Statement (.div rd ra rb bk g) := by
  intro pl hp hw
  obtain rfl : _ = pl := Option.some.inj hp
  have hr : InRange [(6, 2), fv rd, fv ra, fv rb, fv bk, (5, 4), fv g] := by
    simp only [inRange_cons, inRange_nil, fv_lt, and_true, true_and]
    decide
  have hb := pack_lt _ 0 0 (by decide) hr
  generalize hW : pack [(6, 2), fv rd, fv ra, fv rb, fv bk, (5, 4), fv g] 0 = W at hb
  have x5 : fld W 4 5 = 4 := fld_get hW hr 5 rfl rfl
  have x0 : fld W 26 6 = 2 := fld_get hW hr 0 rfl rfl
  have x1 : fld W 21 5 = rd.toNat := fld_get hW hr 1 rfl rfl
  have b1 : bits W 21 5 = rd := bits_of x1
  have x2 : fld W 16 5 = ra.toNat := fld_get hW hr 2 rfl rfl
  have b2 : bits W 16 5 = ra := bits_of x2
  have x3 : fld W 11 5 = rb.toNat := fld_get hW hr 3 rfl rfl
  have b3 : bits W 11 5 = rb := bits_of x3
  have x4 : fld W 9 2 = bk.toNat := fld_get hW hr 4 rfl rfl
  have b4 : bits W 9 2 = bk := bits_of x4
  have x6 : fld W 0 4 = g.toNat := fld_get hW hr 6 rfl rfl
  have b6 : bits W 0 4 = g := bits_of x6
  refine decodeAt_encode hW hb ?_ hw
  simp [rawAt, rawBoth, rawSyOnly, rawSyOnly02, rawBoth02, x5, x0, b1, b2, b3, b4, b6]

theorem RoundTrip.divu (rd : BitVec 5) (ra : BitVec 5) (rb : BitVec 5) (bk : BitVec 2) (g : BitVec 4) : RoundTrip.Statement (.divu rd ra rb bk g) := by
  intro pl hp hw
  obtain rfl : _ = pl := Option.some.inj hp
  have hr : InRange [(6, 2), fv rd, fv ra, fv rb, fv bk, (5, 5), fv g] := by
    simp only [inRange_cons, inRange_nil, fv_lt, and_true, true_and]
    decide
  have hb := pack_lt _ 0 0 (by decide) hr
  generalize hW : pack [(6, 2), fv rd, fv ra, fv rb, fv bk, (5, 5), fv g] 0 = W at hb
  have x5 : fld W 4 5 = 5 := fld_get hW hr 5 rfl rfl
  have x0 : fld W 26 6 = 2 := fld_get hW hr 0 rfl rfl
  have x1 : fld W 21 5 = rd.toNat := fld_get hW hr 1 rfl rfl
  have b1 : bits W 21 5 = rd := bits_of x1
  have x2 : fld W 16 5 = ra.toNat := fld_get hW hr 2 rfl rfl
  have b2 : bits W 16 5 = ra := bits_of x2
  have x3 : fld W 11 5 = rb.toNat := fld_get hW hr 3 rfl rfl
  have b3 : bits W 11 5 = rb := bits_of x3
  have x4 : fld W 9 2 = bk.toNat := fld_get hW hr 4 rfl rfl
  have b4 : bits W 9 2 = bk := bits_of x4
  have x6 : fld W 0 4 = g.toNat := fld_get hW hr 6 rfl rfl
  have b6 : bits W 0 4 = g := bits_of x6
  refine decodeAt_encode hW hb ?_ hw
  simp [rawAt, rawBoth, rawSyOnly, rawSyOnly02, rawBoth02, x5, x0, b1, b2, b3, b4, b6]

theorem RoundTrip.rem (rd : BitVec 5) (ra : BitVec 5) (rb : BitVec 5) (bk : BitVec 2) (g : BitVec 4) : RoundTrip.Statement (.rem rd ra rb bk g) := by
  intro pl hp hw
  obtain rfl : _ = pl := Option.some.inj hp
  have hr : InRange [(6, 2), fv rd, fv ra, fv rb, fv bk, (5, 6), fv g] := by
    simp only [inRange_cons, inRange_nil, fv_lt, and_true, true_and]
    decide
  have hb := pack_lt _ 0 0 (by decide) hr
  generalize hW : pack [(6, 2), fv rd, fv ra, fv rb, fv bk, (5, 6), fv g] 0 = W at hb
  have x5 : fld W 4 5 = 6 := fld_get hW hr 5 rfl rfl
  have x0 : fld W 26 6 = 2 := fld_get hW hr 0 rfl rfl
  have x1 : fld W 21 5 = rd.toNat := fld_get hW hr 1 rfl rfl
  have b1 : bits W 21 5 = rd := bits_of x1
  have x2 : fld W 16 5 = ra.toNat := fld_get hW hr 2 rfl rfl
  have b2 : bits W 16 5 = ra := bits_of x2
  have x3 : fld W 11 5 = rb.toNat := fld_get hW hr 3 rfl rfl
  have b3 : bits W 11 5 = rb := bits_of x3
  have x4 : fld W 9 2 = bk.toNat := fld_get hW hr 4 rfl rfl
  have b4 : bits W 9 2 = bk := bits_of x4
  have x6 : fld W 0 4 = g.toNat := fld_get hW hr 6 rfl rfl
  have b6 : bits W 0 4 = g := bits_of x6
  refine decodeAt_encode hW hb ?_ hw
  simp [rawAt, rawBoth, rawSyOnly, rawSyOnly02, rawBoth02, x5, x0, b1, b2, b3, b4, b6]

theorem RoundTrip.remu (rd : BitVec 5) (ra : BitVec 5) (rb : BitVec 5) (bk : BitVec 2) (g : BitVec 4) : RoundTrip.Statement (.remu rd ra rb bk g) := by
  intro pl hp hw
  obtain rfl : _ = pl := Option.some.inj hp
  have hr : InRange [(6, 2), fv rd, fv ra, fv rb, fv bk, (5, 7), fv g] := by
    simp only [inRange_cons, inRange_nil, fv_lt, and_true, true_and]
    decide
  have hb := pack_lt _ 0 0 (by decide) hr
  generalize hW : pack [(6, 2), fv rd, fv ra, fv rb, fv bk, (5, 7), fv g] 0 = W at hb
  have x5 : fld W 4 5 = 7 := fld_get hW hr 5 rfl rfl
  have x0 : fld W 26 6 = 2 := fld_get hW hr 0 rfl rfl
  have x1 : fld W 21 5 = rd.toNat := fld_get hW hr 1 rfl rfl
  have b1 : bits W 21 5 = rd := bits_of x1
  have x2 : fld W 16 5 = ra.toNat := fld_get hW hr 2 rfl rfl
  have b2 : bits W 16 5 = ra := bits_of x2
  have x3 : fld W 11 5 = rb.toNat := fld_get hW hr 3 rfl rfl
  have b3 : bits W 11 5 = rb := bits_of x3
  have x4 : fld W 9 2 = bk.toNat := fld_get hW hr 4 rfl rfl
  have b4 : bits W 9 2 = bk := bits_of x4
  have x6 : fld W 0 4 = g.toNat := fld_get hW hr 6 rfl rfl
  have b6 : bits W 0 4 = g := bits_of x6
  refine decodeAt_encode hW hb ?_ hw
  simp [rawAt, rawBoth, rawSyOnly, rawSyOnly02, rawBoth02, x5, x0, b1, b2, b3, b4, b6]

theorem RoundTrip.addi (cl : Cluster) (rd : BitVec 5) (ra : BitVec 5) (imm : BitVec 12) (g : BitVec 4) : RoundTrip.Statement (.addi cl rd ra imm g) := by
  intro pl hp hw
  obtain rfl : _ = pl := Option.some.inj hp
  have hr : InRange [(6, 3), fv rd, fv ra, fv imm, fv g] := by
    simp only [inRange_cons, inRange_nil, fv_lt, and_true, true_and]
    decide
  have hb := pack_lt _ 0 0 (by decide) hr
  generalize hW : pack [(6, 3), fv rd, fv ra, fv imm, fv g] 0 = W at hb
  have x0 : fld W 26 6 = 3 := fld_get hW hr 0 rfl rfl
  have x1 : fld W 21 5 = rd.toNat := fld_get hW hr 1 rfl rfl
  have b1 : bits W 21 5 = rd := bits_of x1
  have x2 : fld W 16 5 = ra.toNat := fld_get hW hr 2 rfl rfl
  have b2 : bits W 16 5 = ra := bits_of x2
  have x3 : fld W 4 12 = imm.toNat := fld_get hW hr 3 rfl rfl
  have b3 : bits W 4 12 = imm := bits_of x3
  have x4 : fld W 0 4 = g.toNat := fld_get hW hr 4 rfl rfl
  have b4 : bits W 0 4 = g := bits_of x4
  refine decodeAt_encode hW hb ?_ hw
  cases cl <;>
    simp [rawAt, rawBoth, rawBoth03, Cluster.slot, x0, b1, b2, b3, b4]

theorem RoundTrip.andi (cl : Cluster) (rd : BitVec 5) (ra : BitVec 5) (imm : BitVec 12) (g : BitVec 4) : RoundTrip.Statement (.andi cl rd ra imm g) := by
  intro pl hp hw
  obtain rfl : _ = pl := Option.some.inj hp
  have hr : InRange [(6, 4), fv rd, fv ra, fv imm, fv g] := by
    simp only [inRange_cons, inRange_nil, fv_lt, and_true, true_and]
    decide
  have hb := pack_lt _ 0 0 (by decide) hr
  generalize hW : pack [(6, 4), fv rd, fv ra, fv imm, fv g] 0 = W at hb
  have x0 : fld W 26 6 = 4 := fld_get hW hr 0 rfl rfl
  have x1 : fld W 21 5 = rd.toNat := fld_get hW hr 1 rfl rfl
  have b1 : bits W 21 5 = rd := bits_of x1
  have x2 : fld W 16 5 = ra.toNat := fld_get hW hr 2 rfl rfl
  have b2 : bits W 16 5 = ra := bits_of x2
  have x3 : fld W 4 12 = imm.toNat := fld_get hW hr 3 rfl rfl
  have b3 : bits W 4 12 = imm := bits_of x3
  have x4 : fld W 0 4 = g.toNat := fld_get hW hr 4 rfl rfl
  have b4 : bits W 0 4 = g := bits_of x4
  refine decodeAt_encode hW hb ?_ hw
  cases cl <;>
    simp [rawAt, rawBoth, rawBoth04, Cluster.slot, x0, b1, b2, b3, b4]

theorem RoundTrip.ori (cl : Cluster) (rd : BitVec 5) (ra : BitVec 5) (imm : BitVec 12) (g : BitVec 4) : RoundTrip.Statement (.ori cl rd ra imm g) := by
  intro pl hp hw
  obtain rfl : _ = pl := Option.some.inj hp
  have hr : InRange [(6, 5), fv rd, fv ra, fv imm, fv g] := by
    simp only [inRange_cons, inRange_nil, fv_lt, and_true, true_and]
    decide
  have hb := pack_lt _ 0 0 (by decide) hr
  generalize hW : pack [(6, 5), fv rd, fv ra, fv imm, fv g] 0 = W at hb
  have x0 : fld W 26 6 = 5 := fld_get hW hr 0 rfl rfl
  have x1 : fld W 21 5 = rd.toNat := fld_get hW hr 1 rfl rfl
  have b1 : bits W 21 5 = rd := bits_of x1
  have x2 : fld W 16 5 = ra.toNat := fld_get hW hr 2 rfl rfl
  have b2 : bits W 16 5 = ra := bits_of x2
  have x3 : fld W 4 12 = imm.toNat := fld_get hW hr 3 rfl rfl
  have b3 : bits W 4 12 = imm := bits_of x3
  have x4 : fld W 0 4 = g.toNat := fld_get hW hr 4 rfl rfl
  have b4 : bits W 0 4 = g := bits_of x4
  refine decodeAt_encode hW hb ?_ hw
  cases cl <;>
    simp [rawAt, rawBoth, rawBoth05, Cluster.slot, x0, b1, b2, b3, b4]

theorem RoundTrip.xori (cl : Cluster) (rd : BitVec 5) (ra : BitVec 5) (imm : BitVec 12) (g : BitVec 4) : RoundTrip.Statement (.xori cl rd ra imm g) := by
  intro pl hp hw
  obtain rfl : _ = pl := Option.some.inj hp
  have hr : InRange [(6, 6), fv rd, fv ra, fv imm, fv g] := by
    simp only [inRange_cons, inRange_nil, fv_lt, and_true, true_and]
    decide
  have hb := pack_lt _ 0 0 (by decide) hr
  generalize hW : pack [(6, 6), fv rd, fv ra, fv imm, fv g] 0 = W at hb
  have x0 : fld W 26 6 = 6 := fld_get hW hr 0 rfl rfl
  have x1 : fld W 21 5 = rd.toNat := fld_get hW hr 1 rfl rfl
  have b1 : bits W 21 5 = rd := bits_of x1
  have x2 : fld W 16 5 = ra.toNat := fld_get hW hr 2 rfl rfl
  have b2 : bits W 16 5 = ra := bits_of x2
  have x3 : fld W 4 12 = imm.toNat := fld_get hW hr 3 rfl rfl
  have b3 : bits W 4 12 = imm := bits_of x3
  have x4 : fld W 0 4 = g.toNat := fld_get hW hr 4 rfl rfl
  have b4 : bits W 0 4 = g := bits_of x4
  refine decodeAt_encode hW hb ?_ hw
  cases cl <;>
    simp [rawAt, rawBoth, rawBoth06, Cluster.slot, x0, b1, b2, b3, b4]

theorem RoundTrip.slli (cl : Cluster) (rd : BitVec 5) (ra : BitVec 5) (sh : BitVec 6) (g : BitVec 4) : RoundTrip.Statement (.slli cl rd ra sh g) := by
  intro pl hp hw
  obtain rfl : _ = pl := Option.some.inj hp
  have hr : InRange [(6, 7), fv rd, fv ra, (6, 0), fv sh, fv g] := by
    simp only [inRange_cons, inRange_nil, fv_lt, and_true, true_and]
    decide
  have hb := pack_lt _ 0 0 (by decide) hr
  generalize hW : pack [(6, 7), fv rd, fv ra, (6, 0), fv sh, fv g] 0 = W at hb
  have x3 : fld W 10 6 = 0 := fld_get hW hr 3 rfl rfl
  have x0 : fld W 26 6 = 7 := fld_get hW hr 0 rfl rfl
  have x1 : fld W 21 5 = rd.toNat := fld_get hW hr 1 rfl rfl
  have b1 : bits W 21 5 = rd := bits_of x1
  have x2 : fld W 16 5 = ra.toNat := fld_get hW hr 2 rfl rfl
  have b2 : bits W 16 5 = ra := bits_of x2
  have x4 : fld W 4 6 = sh.toNat := fld_get hW hr 4 rfl rfl
  have b4 : bits W 4 6 = sh := bits_of x4
  have x5 : fld W 0 4 = g.toNat := fld_get hW hr 5 rfl rfl
  have b5 : bits W 0 4 = g := bits_of x5
  refine decodeAt_encode hW hb ?_ hw
  cases cl <;>
    simp [rawAt, rawBoth, rawBoth07, Cluster.slot, x3, x0, b1, b2, b4, b5]

theorem RoundTrip.srli (cl : Cluster) (rd : BitVec 5) (ra : BitVec 5) (sh : BitVec 6) (g : BitVec 4) : RoundTrip.Statement (.srli cl rd ra sh g) := by
  intro pl hp hw
  obtain rfl : _ = pl := Option.some.inj hp
  have hr : InRange [(6, 7), fv rd, fv ra, (6, 16), fv sh, fv g] := by
    simp only [inRange_cons, inRange_nil, fv_lt, and_true, true_and]
    decide
  have hb := pack_lt _ 0 0 (by decide) hr
  generalize hW : pack [(6, 7), fv rd, fv ra, (6, 16), fv sh, fv g] 0 = W at hb
  have x3 : fld W 10 6 = 16 := fld_get hW hr 3 rfl rfl
  have x0 : fld W 26 6 = 7 := fld_get hW hr 0 rfl rfl
  have x1 : fld W 21 5 = rd.toNat := fld_get hW hr 1 rfl rfl
  have b1 : bits W 21 5 = rd := bits_of x1
  have x2 : fld W 16 5 = ra.toNat := fld_get hW hr 2 rfl rfl
  have b2 : bits W 16 5 = ra := bits_of x2
  have x4 : fld W 4 6 = sh.toNat := fld_get hW hr 4 rfl rfl
  have b4 : bits W 4 6 = sh := bits_of x4
  have x5 : fld W 0 4 = g.toNat := fld_get hW hr 5 rfl rfl
  have b5 : bits W 0 4 = g := bits_of x5
  refine decodeAt_encode hW hb ?_ hw
  cases cl <;>
    simp [rawAt, rawBoth, rawBoth07, Cluster.slot, x3, x0, b1, b2, b4, b5]

theorem RoundTrip.srai (cl : Cluster) (rd : BitVec 5) (ra : BitVec 5) (sh : BitVec 6) (g : BitVec 4) : RoundTrip.Statement (.srai cl rd ra sh g) := by
  intro pl hp hw
  obtain rfl : _ = pl := Option.some.inj hp
  have hr : InRange [(6, 7), fv rd, fv ra, (6, 32), fv sh, fv g] := by
    simp only [inRange_cons, inRange_nil, fv_lt, and_true, true_and]
    decide
  have hb := pack_lt _ 0 0 (by decide) hr
  generalize hW : pack [(6, 7), fv rd, fv ra, (6, 32), fv sh, fv g] 0 = W at hb
  have x3 : fld W 10 6 = 32 := fld_get hW hr 3 rfl rfl
  have x0 : fld W 26 6 = 7 := fld_get hW hr 0 rfl rfl
  have x1 : fld W 21 5 = rd.toNat := fld_get hW hr 1 rfl rfl
  have b1 : bits W 21 5 = rd := bits_of x1
  have x2 : fld W 16 5 = ra.toNat := fld_get hW hr 2 rfl rfl
  have b2 : bits W 16 5 = ra := bits_of x2
  have x4 : fld W 4 6 = sh.toNat := fld_get hW hr 4 rfl rfl
  have b4 : bits W 4 6 = sh := bits_of x4
  have x5 : fld W 0 4 = g.toNat := fld_get hW hr 5 rfl rfl
  have b5 : bits W 0 4 = g := bits_of x5
  refine decodeAt_encode hW hb ?_ hw
  cases cl <;>
    simp [rawAt, rawBoth, rawBoth07, Cluster.slot, x3, x0, b1, b2, b4, b5]

theorem RoundTrip.slti (cl : Cluster) (rd : BitVec 5) (ra : BitVec 5) (imm : BitVec 12) (g : BitVec 4) : RoundTrip.Statement (.slti cl rd ra imm g) := by
  intro pl hp hw
  obtain rfl : _ = pl := Option.some.inj hp
  have hr : InRange [(6, 8), fv rd, fv ra, fv imm, fv g] := by
    simp only [inRange_cons, inRange_nil, fv_lt, and_true, true_and]
    decide
  have hb := pack_lt _ 0 0 (by decide) hr
  generalize hW : pack [(6, 8), fv rd, fv ra, fv imm, fv g] 0 = W at hb
  have x0 : fld W 26 6 = 8 := fld_get hW hr 0 rfl rfl
  have x1 : fld W 21 5 = rd.toNat := fld_get hW hr 1 rfl rfl
  have b1 : bits W 21 5 = rd := bits_of x1
  have x2 : fld W 16 5 = ra.toNat := fld_get hW hr 2 rfl rfl
  have b2 : bits W 16 5 = ra := bits_of x2
  have x3 : fld W 4 12 = imm.toNat := fld_get hW hr 3 rfl rfl
  have b3 : bits W 4 12 = imm := bits_of x3
  have x4 : fld W 0 4 = g.toNat := fld_get hW hr 4 rfl rfl
  have b4 : bits W 0 4 = g := bits_of x4
  refine decodeAt_encode hW hb ?_ hw
  cases cl <;>
    simp [rawAt, rawBoth, rawBoth08, Cluster.slot, x0, b1, b2, b3, b4]

theorem RoundTrip.limm (cl : Cluster) (rd : BitVec 5) (imm : BitVec 20) : RoundTrip.Statement (.limm cl rd imm) := by
  intro pl hp hw
  obtain rfl : _ = pl := Option.some.inj hp
  have hr : InRange [(6, 9), fv rd, fv imm, (1, 0)] := by
    simp only [inRange_cons, inRange_nil, fv_lt, and_true, true_and]
    decide
  have hb := pack_lt _ 0 0 (by decide) hr
  generalize hW : pack [(6, 9), fv rd, fv imm, (1, 0)] 0 = W at hb
  have x3 : fld W 0 1 = 0 := fld_get hW hr 3 rfl rfl
  have x0 : fld W 26 6 = 9 := fld_get hW hr 0 rfl rfl
  have x1 : fld W 21 5 = rd.toNat := fld_get hW hr 1 rfl rfl
  have b1 : bits W 21 5 = rd := bits_of x1
  have x2 : fld W 1 20 = imm.toNat := fld_get hW hr 2 rfl rfl
  have b2 : bits W 1 20 = imm := bits_of x2
  refine decodeAt_encode hW hb ?_ hw
  cases cl <;>
    simp [rawAt, rawBoth, rawBoth09, Cluster.slot, x3, x0, b1, b2]

theorem RoundTrip.limmh (cl : Cluster) (rd : BitVec 5) (imm : BitVec 20) : RoundTrip.Statement (.limmh cl rd imm) := by
  intro pl hp hw
  obtain rfl : _ = pl := Option.some.inj hp
  have hr : InRange [(6, 10), fv rd, fv imm, (1, 0)] := by
    simp only [inRange_cons, inRange_nil, fv_lt, and_true, true_and]
    decide
  have hb := pack_lt _ 0 0 (by decide) hr
  generalize hW : pack [(6, 10), fv rd, fv imm, (1, 0)] 0 = W at hb
  have x3 : fld W 0 1 = 0 := fld_get hW hr 3 rfl rfl
  have x0 : fld W 26 6 = 10 := fld_get hW hr 0 rfl rfl
  have x1 : fld W 21 5 = rd.toNat := fld_get hW hr 1 rfl rfl
  have b1 : bits W 21 5 = rd := bits_of x1
  have x2 : fld W 1 20 = imm.toNat := fld_get hW hr 2 rfl rfl
  have b2 : bits W 1 20 = imm := bits_of x2
  refine decodeAt_encode hW hb ?_ hw
  cases cl <;>
    simp [rawAt, rawBoth, rawBoth0A, Cluster.slot, x3, x0, b1, b2]

theorem RoundTrip.fimm (cl : Cluster) (rd : BitVec 5) (imm : BitVec 20) : RoundTrip.Statement (.fimm cl rd imm) := by
  intro pl hp hw
  obtain rfl : _ = pl := Option.some.inj hp
  have hr : InRange [(6, 11), fv rd, fv imm, (1, 0)] := by
    simp only [inRange_cons, inRange_nil, fv_lt, and_true, true_and]
    decide
  have hb := pack_lt _ 0 0 (by decide) hr
  generalize hW : pack [(6, 11), fv rd, fv imm, (1, 0)] 0 = W at hb
  have x3 : fld W 0 1 = 0 := fld_get hW hr 3 rfl rfl
  have x0 : fld W 26 6 = 11 := fld_get hW hr 0 rfl rfl
  have x1 : fld W 21 5 = rd.toNat := fld_get hW hr 1 rfl rfl
  have b1 : bits W 21 5 = rd := bits_of x1
  have x2 : fld W 1 20 = imm.toNat := fld_get hW hr 2 rfl rfl
  have b2 : bits W 1 20 = imm := bits_of x2
  refine decodeAt_encode hW hb ?_ hw
  cases cl <;>
    simp [rawAt, rawBoth, rawBoth0B, Cluster.slot, x3, x0, b1, b2]

theorem RoundTrip.lit (cl : Cluster) (rd : BitVec 5) (num : BitVec 2) : RoundTrip.Statement (.lit cl rd num) := by
  intro pl hp hw
  obtain rfl : _ = pl := Option.some.inj hp
  have hr : InRange [(6, 12), fv rd, (19, 0), fv num] := by
    simp only [inRange_cons, inRange_nil, fv_lt, and_true, true_and]
    decide
  have hb := pack_lt _ 0 0 (by decide) hr
  generalize hW : pack [(6, 12), fv rd, (19, 0), fv num] 0 = W at hb
  have x2 : fld W 2 19 = 0 := fld_get hW hr 2 rfl rfl
  have x0 : fld W 26 6 = 12 := fld_get hW hr 0 rfl rfl
  have x1 : fld W 21 5 = rd.toNat := fld_get hW hr 1 rfl rfl
  have b1 : bits W 21 5 = rd := bits_of x1
  have x3 : fld W 0 2 = num.toNat := fld_get hW hr 3 rfl rfl
  have b3 : bits W 0 2 = num := bits_of x3
  refine decodeAt_encode hW hb ?_ hw
  cases cl <;>
    simp [rawAt, rawBoth, rawBoth0C, Cluster.slot, x2, x0, b1, b3]

theorem RoundTrip.litS (cl : Cluster) (rd : BitVec 5) (num : BitVec 2) : RoundTrip.Statement (.litS cl rd num) := by
  intro pl hp hw
  obtain rfl : _ = pl := Option.some.inj hp
  have hr : InRange [(6, 12), fv rd, (19, 1), fv num] := by
    simp only [inRange_cons, inRange_nil, fv_lt, and_true, true_and]
    decide
  have hb := pack_lt _ 0 0 (by decide) hr
  generalize hW : pack [(6, 12), fv rd, (19, 1), fv num] 0 = W at hb
  have x2 : fld W 2 19 = 1 := fld_get hW hr 2 rfl rfl
  have x0 : fld W 26 6 = 12 := fld_get hW hr 0 rfl rfl
  have x1 : fld W 21 5 = rd.toNat := fld_get hW hr 1 rfl rfl
  have b1 : bits W 21 5 = rd := bits_of x1
  have x3 : fld W 0 2 = num.toNat := fld_get hW hr 3 rfl rfl
  have b3 : bits W 0 2 = num := bits_of x3
  refine decodeAt_encode hW hb ?_ hw
  cases cl <;>
    simp [rawAt, rawBoth, rawBoth0C, Cluster.slot, x2, x0, b1, b3]

theorem RoundTrip.litD (cl : Cluster) (rd : BitVec 5) (num : BitVec 2) : RoundTrip.Statement (.litD cl rd num) := by
  intro pl hp hw
  obtain rfl : _ = pl := Option.some.inj hp
  have hr : InRange [(6, 12), fv rd, (19, 2), fv num] := by
    simp only [inRange_cons, inRange_nil, fv_lt, and_true, true_and]
    decide
  have hb := pack_lt _ 0 0 (by decide) hr
  generalize hW : pack [(6, 12), fv rd, (19, 2), fv num] 0 = W at hb
  have x2 : fld W 2 19 = 2 := fld_get hW hr 2 rfl rfl
  have x0 : fld W 26 6 = 12 := fld_get hW hr 0 rfl rfl
  have x1 : fld W 21 5 = rd.toNat := fld_get hW hr 1 rfl rfl
  have b1 : bits W 21 5 = rd := bits_of x1
  have x3 : fld W 0 2 = num.toNat := fld_get hW hr 3 rfl rfl
  have b3 : bits W 0 2 = num := bits_of x3
  refine decodeAt_encode hW hb ?_ hw
  cases cl <;>
    simp [rawAt, rawBoth, rawBoth0C, Cluster.slot, x2, x0, b1, b3]

theorem RoundTrip.kld (cl : Cluster) (rd : BitVec 5) (idx : BitVec 8) : RoundTrip.Statement (.kld cl rd idx) := by
  intro pl hp hw
  obtain rfl : _ = pl := Option.some.inj hp
  have hr : InRange [(6, 13), fv rd, (13, 0), fv idx] := by
    simp only [inRange_cons, inRange_nil, fv_lt, and_true, true_and]
    decide
  have hb := pack_lt _ 0 0 (by decide) hr
  generalize hW : pack [(6, 13), fv rd, (13, 0), fv idx] 0 = W at hb
  have x2 : fld W 8 13 = 0 := fld_get hW hr 2 rfl rfl
  have x0 : fld W 26 6 = 13 := fld_get hW hr 0 rfl rfl
  have x1 : fld W 21 5 = rd.toNat := fld_get hW hr 1 rfl rfl
  have b1 : bits W 21 5 = rd := bits_of x1
  have x3 : fld W 0 8 = idx.toNat := fld_get hW hr 3 rfl rfl
  have b3 : bits W 0 8 = idx := bits_of x3
  refine decodeAt_encode hW hb ?_ hw
  cases cl <;>
    simp [rawAt, rawBoth, rawBoth0D, Cluster.slot, x2, x0, b1, b3]

theorem RoundTrip.pcmp (cl : Cluster) (pd : BitVec 3) (ra : BitVec 5) (rb : BitVec 5) (bk : BitVec 2) (cond : BitVec 5) (g : BitVec 4) : RoundTrip.Statement (.pcmp cl pd ra rb bk cond g) := by
  intro pl hp hw
  obtain rfl : _ = pl := Option.some.inj hp
  have hr : InRange [(8, 56), fv pd, fv ra, fv rb, fv bk, fv cond, fv g] := by
    simp only [inRange_cons, inRange_nil, fv_lt, and_true, true_and]
    decide
  have hb := pack_lt _ 0 0 (by decide) hr
  generalize hW : pack [(8, 56), fv pd, fv ra, fv rb, fv bk, fv cond, fv g] 0 = W at hb
  have x0 : fld W 24 8 = 56 := fld_get hW hr 0 rfl rfl
  have g24_2 : fld W 24 2 = 0 := fld_part x0 24 2 (by decide) rfl
  have g26_6 : fld W 26 6 = 14 := fld_part x0 26 6 (by decide) rfl
  have x1 : fld W 21 3 = pd.toNat := fld_get hW hr 1 rfl rfl
  have b1 : bits W 21 3 = pd := bits_of x1
  have x2 : fld W 16 5 = ra.toNat := fld_get hW hr 2 rfl rfl
  have b2 : bits W 16 5 = ra := bits_of x2
  have x3 : fld W 11 5 = rb.toNat := fld_get hW hr 3 rfl rfl
  have b3 : bits W 11 5 = rb := bits_of x3
  have x4 : fld W 9 2 = bk.toNat := fld_get hW hr 4 rfl rfl
  have b4 : bits W 9 2 = bk := bits_of x4
  have x5 : fld W 4 5 = cond.toNat := fld_get hW hr 5 rfl rfl
  have b5 : bits W 4 5 = cond := bits_of x5
  have x6 : fld W 0 4 = g.toNat := fld_get hW hr 6 rfl rfl
  have b6 : bits W 0 4 = g := bits_of x6
  refine decodeAt_encode hW hb ?_ hw
  cases cl <;>
    simp [rawAt, rawBoth, rawBoth0E, Cluster.slot, g24_2, g26_6, b1, b2, b3, b4, b5, b6]

theorem RoundTrip.pcmpi (cl : Cluster) (pd : BitVec 3) (cond : BitVec 3) (ra : BitVec 5) (imm : BitVec 11) (g : BitVec 4) : RoundTrip.Statement (.pcmpi cl pd cond ra imm g) := by
  intro pl hp hw
  obtain rfl : _ = pl := Option.some.inj hp
  have hr : InRange [(6, 15), fv pd, fv cond, fv ra, fv imm, fv g] := by
    simp only [inRange_cons, inRange_nil, fv_lt, and_true, true_and]
    decide
  have hb := pack_lt _ 0 0 (by decide) hr
  generalize hW : pack [(6, 15), fv pd, fv cond, fv ra, fv imm, fv g] 0 = W at hb
  have x0 : fld W 26 6 = 15 := fld_get hW hr 0 rfl rfl
  have x1 : fld W 23 3 = pd.toNat := fld_get hW hr 1 rfl rfl
  have b1 : bits W 23 3 = pd := bits_of x1
  have x2 : fld W 20 3 = cond.toNat := fld_get hW hr 2 rfl rfl
  have b2 : bits W 20 3 = cond := bits_of x2
  have x3 : fld W 15 5 = ra.toNat := fld_get hW hr 3 rfl rfl
  have b3 : bits W 15 5 = ra := bits_of x3
  have x4 : fld W 4 11 = imm.toNat := fld_get hW hr 4 rfl rfl
  have b4 : bits W 4 11 = imm := bits_of x4
  have x5 : fld W 0 4 = g.toNat := fld_get hW hr 5 rfl rfl
  have b5 : bits W 0 4 = g := bits_of x5
  refine decodeAt_encode hW hb ?_ hw
  cases cl <;>
    simp [rawAt, rawBoth, rawBoth0F, Cluster.slot, x0, b1, b2, b3, b4, b5]

theorem RoundTrip.pand (cl : Cluster) (pd : BitVec 3) (pa : BitVec 3) (pb : BitVec 3) (g : BitVec 4) : RoundTrip.Statement (.pand cl pd pa pb g) := by
  intro pl hp hw
  obtain rfl : _ = pl := Option.some.inj hp
  have hr : InRange [(8, 64), fv pd, (2, 0), fv pa, (2, 0), fv pb, (7, 0), fv g] := by
    simp only [inRange_cons, inRange_nil, fv_lt, and_true, true_and]
    decide
  have hb := pack_lt _ 0 0 (by decide) hr
  generalize hW : pack [(8, 64), fv pd, (2, 0), fv pa, (2, 0), fv pb, (7, 0), fv g] 0 = W at hb
  have x6 : fld W 4 7 = 0 := fld_get hW hr 6 rfl rfl
  have x4 : fld W 14 2 = 0 := fld_get hW hr 4 rfl rfl
  have x2 : fld W 19 2 = 0 := fld_get hW hr 2 rfl rfl
  have x0 : fld W 24 8 = 64 := fld_get hW hr 0 rfl rfl
  have g24_2 : fld W 24 2 = 0 := fld_part x0 24 2 (by decide) rfl
  have g26_6 : fld W 26 6 = 16 := fld_part x0 26 6 (by decide) rfl
  have x1 : fld W 21 3 = pd.toNat := fld_get hW hr 1 rfl rfl
  have b1 : bits W 21 3 = pd := bits_of x1
  have x3 : fld W 16 3 = pa.toNat := fld_get hW hr 3 rfl rfl
  have b3 : bits W 16 3 = pa := bits_of x3
  have x5 : fld W 11 3 = pb.toNat := fld_get hW hr 5 rfl rfl
  have b5 : bits W 11 3 = pb := bits_of x5
  have x7 : fld W 0 4 = g.toNat := fld_get hW hr 7 rfl rfl
  have b7 : bits W 0 4 = g := bits_of x7
  refine decodeAt_encode hW hb ?_ hw
  cases cl <;>
    simp [rawAt, rawBoth, rawBoth10, Cluster.slot, x6, x4, x2, g24_2, g26_6, b1, b3, b5, b7]

theorem RoundTrip.por (cl : Cluster) (pd : BitVec 3) (pa : BitVec 3) (pb : BitVec 3) (g : BitVec 4) : RoundTrip.Statement (.por cl pd pa pb g) := by
  intro pl hp hw
  obtain rfl : _ = pl := Option.some.inj hp
  have hr : InRange [(8, 64), fv pd, (2, 0), fv pa, (2, 0), fv pb, (7, 1), fv g] := by
    simp only [inRange_cons, inRange_nil, fv_lt, and_true, true_and]
    decide
  have hb := pack_lt _ 0 0 (by decide) hr
  generalize hW : pack [(8, 64), fv pd, (2, 0), fv pa, (2, 0), fv pb, (7, 1), fv g] 0 = W at hb
  have x6 : fld W 4 7 = 1 := fld_get hW hr 6 rfl rfl
  have x4 : fld W 14 2 = 0 := fld_get hW hr 4 rfl rfl
  have x2 : fld W 19 2 = 0 := fld_get hW hr 2 rfl rfl
  have x0 : fld W 24 8 = 64 := fld_get hW hr 0 rfl rfl
  have g24_2 : fld W 24 2 = 0 := fld_part x0 24 2 (by decide) rfl
  have g26_6 : fld W 26 6 = 16 := fld_part x0 26 6 (by decide) rfl
  have x1 : fld W 21 3 = pd.toNat := fld_get hW hr 1 rfl rfl
  have b1 : bits W 21 3 = pd := bits_of x1
  have x3 : fld W 16 3 = pa.toNat := fld_get hW hr 3 rfl rfl
  have b3 : bits W 16 3 = pa := bits_of x3
  have x5 : fld W 11 3 = pb.toNat := fld_get hW hr 5 rfl rfl
  have b5 : bits W 11 3 = pb := bits_of x5
  have x7 : fld W 0 4 = g.toNat := fld_get hW hr 7 rfl rfl
  have b7 : bits W 0 4 = g := bits_of x7
  refine decodeAt_encode hW hb ?_ hw
  cases cl <;>
    simp [rawAt, rawBoth, rawBoth10, Cluster.slot, x6, x4, x2, g24_2, g26_6, b1, b3, b5, b7]

theorem RoundTrip.pxor (cl : Cluster) (pd : BitVec 3) (pa : BitVec 3) (pb : BitVec 3) (g : BitVec 4) : RoundTrip.Statement (.pxor cl pd pa pb g) := by
  intro pl hp hw
  obtain rfl : _ = pl := Option.some.inj hp
  have hr : InRange [(8, 64), fv pd, (2, 0), fv pa, (2, 0), fv pb, (7, 2), fv g] := by
    simp only [inRange_cons, inRange_nil, fv_lt, and_true, true_and]
    decide
  have hb := pack_lt _ 0 0 (by decide) hr
  generalize hW : pack [(8, 64), fv pd, (2, 0), fv pa, (2, 0), fv pb, (7, 2), fv g] 0 = W at hb
  have x6 : fld W 4 7 = 2 := fld_get hW hr 6 rfl rfl
  have x4 : fld W 14 2 = 0 := fld_get hW hr 4 rfl rfl
  have x2 : fld W 19 2 = 0 := fld_get hW hr 2 rfl rfl
  have x0 : fld W 24 8 = 64 := fld_get hW hr 0 rfl rfl
  have g24_2 : fld W 24 2 = 0 := fld_part x0 24 2 (by decide) rfl
  have g26_6 : fld W 26 6 = 16 := fld_part x0 26 6 (by decide) rfl
  have x1 : fld W 21 3 = pd.toNat := fld_get hW hr 1 rfl rfl
  have b1 : bits W 21 3 = pd := bits_of x1
  have x3 : fld W 16 3 = pa.toNat := fld_get hW hr 3 rfl rfl
  have b3 : bits W 16 3 = pa := bits_of x3
  have x5 : fld W 11 3 = pb.toNat := fld_get hW hr 5 rfl rfl
  have b5 : bits W 11 3 = pb := bits_of x5
  have x7 : fld W 0 4 = g.toNat := fld_get hW hr 7 rfl rfl
  have b7 : bits W 0 4 = g := bits_of x7
  refine decodeAt_encode hW hb ?_ hw
  cases cl <;>
    simp [rawAt, rawBoth, rawBoth10, Cluster.slot, x6, x4, x2, g24_2, g26_6, b1, b3, b5, b7]

theorem RoundTrip.pandn (cl : Cluster) (pd : BitVec 3) (pa : BitVec 3) (pb : BitVec 3) (g : BitVec 4) : RoundTrip.Statement (.pandn cl pd pa pb g) := by
  intro pl hp hw
  obtain rfl : _ = pl := Option.some.inj hp
  have hr : InRange [(8, 64), fv pd, (2, 0), fv pa, (2, 0), fv pb, (7, 3), fv g] := by
    simp only [inRange_cons, inRange_nil, fv_lt, and_true, true_and]
    decide
  have hb := pack_lt _ 0 0 (by decide) hr
  generalize hW : pack [(8, 64), fv pd, (2, 0), fv pa, (2, 0), fv pb, (7, 3), fv g] 0 = W at hb
  have x6 : fld W 4 7 = 3 := fld_get hW hr 6 rfl rfl
  have x4 : fld W 14 2 = 0 := fld_get hW hr 4 rfl rfl
  have x2 : fld W 19 2 = 0 := fld_get hW hr 2 rfl rfl
  have x0 : fld W 24 8 = 64 := fld_get hW hr 0 rfl rfl
  have g24_2 : fld W 24 2 = 0 := fld_part x0 24 2 (by decide) rfl
  have g26_6 : fld W 26 6 = 16 := fld_part x0 26 6 (by decide) rfl
  have x1 : fld W 21 3 = pd.toNat := fld_get hW hr 1 rfl rfl
  have b1 : bits W 21 3 = pd := bits_of x1
  have x3 : fld W 16 3 = pa.toNat := fld_get hW hr 3 rfl rfl
  have b3 : bits W 16 3 = pa := bits_of x3
  have x5 : fld W 11 3 = pb.toNat := fld_get hW hr 5 rfl rfl
  have b5 : bits W 11 3 = pb := bits_of x5
  have x7 : fld W 0 4 = g.toNat := fld_get hW hr 7 rfl rfl
  have b7 : bits W 0 4 = g := bits_of x7
  refine decodeAt_encode hW hb ?_ hw
  cases cl <;>
    simp [rawAt, rawBoth, rawBoth10, Cluster.slot, x6, x4, x2, g24_2, g26_6, b1, b3, b5, b7]

theorem RoundTrip.sel (cl : Cluster) (rd : BitVec 5) (ra : BitVec 5) (rb : BitVec 5) (bk : BitVec 2) (pk : BitVec 3) (g : BitVec 4) : RoundTrip.Statement (.sel cl rd ra rb bk pk g) := by
  intro pl hp hw
  obtain rfl : _ = pl := Option.some.inj hp
  have hr : InRange [(6, 17), fv rd, fv ra, fv rb, fv bk, (2, 0), fv pk, fv g] := by
    simp only [inRange_cons, inRange_nil, fv_lt, and_true, true_and]
    decide
  have hb := pack_lt _ 0 0 (by decide) hr
  generalize hW : pack [(6, 17), fv rd, fv ra, fv rb, fv bk, (2, 0), fv pk, fv g] 0 = W at hb
  have x5 : fld W 7 2 = 0 := fld_get hW hr 5 rfl rfl
  have x0 : fld W 26 6 = 17 := fld_get hW hr 0 rfl rfl
  have x1 : fld W 21 5 = rd.toNat := fld_get hW hr 1 rfl rfl
  have b1 : bits W 21 5 = rd := bits_of x1
  have x2 : fld W 16 5 = ra.toNat := fld_get hW hr 2 rfl rfl
  have b2 : bits W 16 5 = ra := bits_of x2
  have x3 : fld W 11 5 = rb.toNat := fld_get hW hr 3 rfl rfl
  have b3 : bits W 11 5 = rb := bits_of x3
  have x4 : fld W 9 2 = bk.toNat := fld_get hW hr 4 rfl rfl
  have b4 : bits W 9 2 = bk := bits_of x4
  have x6 : fld W 4 3 = pk.toNat := fld_get hW hr 6 rfl rfl
  have b6 : bits W 4 3 = pk := bits_of x6
  have x7 : fld W 0 4 = g.toNat := fld_get hW hr 7 rfl rfl
  have b7 : bits W 0 4 = g := bits_of x7
  refine decodeAt_encode hW hb ?_ hw
  cases cl <;>
    simp [rawAt, rawBoth, rawBoth11, Cluster.slot, x5, x0, b1, b2, b3, b4, b6, b7]

theorem RoundTrip.xmov (cl : Cluster) (rd : BitVec 5) (ra : BitVec 5) (g : BitVec 4) : RoundTrip.Statement (.xmov cl rd ra g) := by
  intro pl hp hw
  obtain rfl : _ = pl := Option.some.inj hp
  have hr : InRange [(6, 18), fv rd, fv ra, (12, 0), fv g] := by
    simp only [inRange_cons, inRange_nil, fv_lt, and_true, true_and]
    decide
  have hb := pack_lt _ 0 0 (by decide) hr
  generalize hW : pack [(6, 18), fv rd, fv ra, (12, 0), fv g] 0 = W at hb
  have x3 : fld W 4 12 = 0 := fld_get hW hr 3 rfl rfl
  have x0 : fld W 26 6 = 18 := fld_get hW hr 0 rfl rfl
  have x1 : fld W 21 5 = rd.toNat := fld_get hW hr 1 rfl rfl
  have b1 : bits W 21 5 = rd := bits_of x1
  have x2 : fld W 16 5 = ra.toNat := fld_get hW hr 2 rfl rfl
  have b2 : bits W 16 5 = ra := bits_of x2
  have x4 : fld W 0 4 = g.toNat := fld_get hW hr 4 rfl rfl
  have b4 : bits W 0 4 = g := bits_of x4
  refine decodeAt_encode hW hb ?_ hw
  cases cl <;>
    simp [rawAt, rawBoth, rawBoth12, Cluster.slot, x3, x0, b1, b2, b4]

theorem RoundTrip.crd (cl : Cluster) (rd : BitVec 5) (num : BitVec 16) : RoundTrip.Statement (.crd cl rd num) := by
  intro pl hp hw
  obtain rfl : _ = pl := Option.some.inj hp
  have hr : InRange [(6, 19), fv rd, (5, 0), fv num] := by
    simp only [inRange_cons, inRange_nil, fv_lt, and_true, true_and]
    decide
  have hb := pack_lt _ 0 0 (by decide) hr
  generalize hW : pack [(6, 19), fv rd, (5, 0), fv num] 0 = W at hb
  have x2 : fld W 16 5 = 0 := fld_get hW hr 2 rfl rfl
  have x0 : fld W 26 6 = 19 := fld_get hW hr 0 rfl rfl
  have x1 : fld W 21 5 = rd.toNat := fld_get hW hr 1 rfl rfl
  have b1 : bits W 21 5 = rd := bits_of x1
  have x3 : fld W 0 16 = num.toNat := fld_get hW hr 3 rfl rfl
  have b3 : bits W 0 16 = num := bits_of x3
  refine decodeAt_encode hW hb ?_ hw
  cases cl <;>
    simp [rawAt, rawBoth, rawBoth13, Cluster.slot, x2, x0, b1, b3]

theorem RoundTrip.cwr (cl : Cluster) (ra : BitVec 5) (num : BitVec 16) : RoundTrip.Statement (.cwr cl ra num) := by
  intro pl hp hw
  obtain rfl : _ = pl := Option.some.inj hp
  have hr : InRange [(11, 640), fv ra, fv num] := by
    simp only [inRange_cons, inRange_nil, fv_lt, and_true, true_and]
    decide
  have hb := pack_lt _ 0 0 (by decide) hr
  generalize hW : pack [(11, 640), fv ra, fv num] 0 = W at hb
  have x0 : fld W 21 11 = 640 := fld_get hW hr 0 rfl rfl
  have g21_5 : fld W 21 5 = 0 := fld_part x0 21 5 (by decide) rfl
  have g26_6 : fld W 26 6 = 20 := fld_part x0 26 6 (by decide) rfl
  have x1 : fld W 16 5 = ra.toNat := fld_get hW hr 1 rfl rfl
  have b1 : bits W 16 5 = ra := bits_of x1
  have x2 : fld W 0 16 = num.toNat := fld_get hW hr 2 rfl rfl
  have b2 : bits W 0 16 = num := bits_of x2
  refine decodeAt_encode hW hb ?_ hw
  cases cl <;>
    simp [rawAt, rawBoth, rawBoth14, Cluster.slot, g21_5, g26_6, b1, b2]

theorem RoundTrip.acvtGen2loc (cl : Cluster) (rd : BitVec 5) (ra : BitVec 5) (g : BitVec 4) : RoundTrip.Statement (.acvtGen2loc cl rd ra g) := by
  intro pl hp hw
  obtain rfl : _ = pl := Option.some.inj hp
  have hr : InRange [(6, 21), fv rd, fv ra, (12, 0), fv g] := by
    simp only [inRange_cons, inRange_nil, fv_lt, and_true, true_and]
    decide
  have hb := pack_lt _ 0 0 (by decide) hr
  generalize hW : pack [(6, 21), fv rd, fv ra, (12, 0), fv g] 0 = W at hb
  have x3 : fld W 4 12 = 0 := fld_get hW hr 3 rfl rfl
  have x0 : fld W 26 6 = 21 := fld_get hW hr 0 rfl rfl
  have x1 : fld W 21 5 = rd.toNat := fld_get hW hr 1 rfl rfl
  have b1 : bits W 21 5 = rd := bits_of x1
  have x2 : fld W 16 5 = ra.toNat := fld_get hW hr 2 rfl rfl
  have b2 : bits W 16 5 = ra := bits_of x2
  have x4 : fld W 0 4 = g.toNat := fld_get hW hr 4 rfl rfl
  have b4 : bits W 0 4 = g := bits_of x4
  refine decodeAt_encode hW hb ?_ hw
  cases cl <;>
    simp [rawAt, rawBoth, rawBoth15, Cluster.slot, x3, x0, b1, b2, b4]

theorem RoundTrip.acvtGen2shr (cl : Cluster) (rd : BitVec 5) (ra : BitVec 5) (g : BitVec 4) : RoundTrip.Statement (.acvtGen2shr cl rd ra g) := by
  intro pl hp hw
  obtain rfl : _ = pl := Option.some.inj hp
  have hr : InRange [(6, 21), fv rd, fv ra, (12, 1), fv g] := by
    simp only [inRange_cons, inRange_nil, fv_lt, and_true, true_and]
    decide
  have hb := pack_lt _ 0 0 (by decide) hr
  generalize hW : pack [(6, 21), fv rd, fv ra, (12, 1), fv g] 0 = W at hb
  have x3 : fld W 4 12 = 1 := fld_get hW hr 3 rfl rfl
  have x0 : fld W 26 6 = 21 := fld_get hW hr 0 rfl rfl
  have x1 : fld W 21 5 = rd.toNat := fld_get hW hr 1 rfl rfl
  have b1 : bits W 21 5 = rd := bits_of x1
  have x2 : fld W 16 5 = ra.toNat := fld_get hW hr 2 rfl rfl
  have b2 : bits W 16 5 = ra := bits_of x2
  have x4 : fld W 0 4 = g.toNat := fld_get hW hr 4 rfl rfl
  have b4 : bits W 0 4 = g := bits_of x4
  refine decodeAt_encode hW hb ?_ hw
  cases cl <;>
    simp [rawAt, rawBoth, rawBoth15, Cluster.slot, x3, x0, b1, b2, b4]

theorem RoundTrip.acvtGen2clu (cl : Cluster) (rd : BitVec 5) (ra : BitVec 5) (g : BitVec 4) : RoundTrip.Statement (.acvtGen2clu cl rd ra g) := by
  intro pl hp hw
  obtain rfl : _ = pl := Option.some.inj hp
  have hr : InRange [(6, 21), fv rd, fv ra, (12, 2), fv g] := by
    simp only [inRange_cons, inRange_nil, fv_lt, and_true, true_and]
    decide
  have hb := pack_lt _ 0 0 (by decide) hr
  generalize hW : pack [(6, 21), fv rd, fv ra, (12, 2), fv g] 0 = W at hb
  have x3 : fld W 4 12 = 2 := fld_get hW hr 3 rfl rfl
  have x0 : fld W 26 6 = 21 := fld_get hW hr 0 rfl rfl
  have x1 : fld W 21 5 = rd.toNat := fld_get hW hr 1 rfl rfl
  have b1 : bits W 21 5 = rd := bits_of x1
  have x2 : fld W 16 5 = ra.toNat := fld_get hW hr 2 rfl rfl
  have b2 : bits W 16 5 = ra := bits_of x2
  have x4 : fld W 0 4 = g.toNat := fld_get hW hr 4 rfl rfl
  have b4 : bits W 0 4 = g := bits_of x4
  refine decodeAt_encode hW hb ?_ hw
  cases cl <;>
    simp [rawAt, rawBoth, rawBoth15, Cluster.slot, x3, x0, b1, b2, b4]

theorem RoundTrip.acvtLoc2gen (cl : Cluster) (rd : BitVec 5) (ra : BitVec 5) (g : BitVec 4) : RoundTrip.Statement (.acvtLoc2gen cl rd ra g) := by
  intro pl hp hw
  obtain rfl : _ = pl := Option.some.inj hp
  have hr : InRange [(6, 21), fv rd, fv ra, (12, 3), fv g] := by
    simp only [inRange_cons, inRange_nil, fv_lt, and_true, true_and]
    decide
  have hb := pack_lt _ 0 0 (by decide) hr
  generalize hW : pack [(6, 21), fv rd, fv ra, (12, 3), fv g] 0 = W at hb
  have x3 : fld W 4 12 = 3 := fld_get hW hr 3 rfl rfl
  have x0 : fld W 26 6 = 21 := fld_get hW hr 0 rfl rfl
  have x1 : fld W 21 5 = rd.toNat := fld_get hW hr 1 rfl rfl
  have b1 : bits W 21 5 = rd := bits_of x1
  have x2 : fld W 16 5 = ra.toNat := fld_get hW hr 2 rfl rfl
  have b2 : bits W 16 5 = ra := bits_of x2
  have x4 : fld W 0 4 = g.toNat := fld_get hW hr 4 rfl rfl
  have b4 : bits W 0 4 = g := bits_of x4
  refine decodeAt_encode hW hb ?_ hw
  cases cl <;>
    simp [rawAt, rawBoth, rawBoth15, Cluster.slot, x3, x0, b1, b2, b4]

theorem RoundTrip.acvtShr2gen (cl : Cluster) (rd : BitVec 5) (ra : BitVec 5) (g : BitVec 4) : RoundTrip.Statement (.acvtShr2gen cl rd ra g) := by
  intro pl hp hw
  obtain rfl : _ = pl := Option.some.inj hp
  have hr : InRange [(6, 21), fv rd, fv ra, (12, 4), fv g] := by
    simp only [inRange_cons, inRange_nil, fv_lt, and_true, true_and]
    decide
  have hb := pack_lt _ 0 0 (by decide) hr
  generalize hW : pack [(6, 21), fv rd, fv ra, (12, 4), fv g] 0 = W at hb
  have x3 : fld W 4 12 = 4 := fld_get hW hr 3 rfl rfl
  have x0 : fld W 26 6 = 21 := fld_get hW hr 0 rfl rfl
  have x1 : fld W 21 5 = rd.toNat := fld_get hW hr 1 rfl rfl
  have b1 : bits W 21 5 = rd := bits_of x1
  have x2 : fld W 16 5 = ra.toNat := fld_get hW hr 2 rfl rfl
  have b2 : bits W 16 5 = ra := bits_of x2
  have x4 : fld W 0 4 = g.toNat := fld_get hW hr 4 rfl rfl
  have b4 : bits W 0 4 = g := bits_of x4
  refine decodeAt_encode hW hb ?_ hw
  cases cl <;>
    simp [rawAt, rawBoth, rawBoth15, Cluster.slot, x3, x0, b1, b2, b4]

theorem RoundTrip.acvtClu2gen (cl : Cluster) (rd : BitVec 5) (ra : BitVec 5) (g : BitVec 4) : RoundTrip.Statement (.acvtClu2gen cl rd ra g) := by
  intro pl hp hw
  obtain rfl : _ = pl := Option.some.inj hp
  have hr : InRange [(6, 21), fv rd, fv ra, (12, 5), fv g] := by
    simp only [inRange_cons, inRange_nil, fv_lt, and_true, true_and]
    decide
  have hb := pack_lt _ 0 0 (by decide) hr
  generalize hW : pack [(6, 21), fv rd, fv ra, (12, 5), fv g] 0 = W at hb
  have x3 : fld W 4 12 = 5 := fld_get hW hr 3 rfl rfl
  have x0 : fld W 26 6 = 21 := fld_get hW hr 0 rfl rfl
  have x1 : fld W 21 5 = rd.toNat := fld_get hW hr 1 rfl rfl
  have b1 : bits W 21 5 = rd := bits_of x1
  have x2 : fld W 16 5 = ra.toNat := fld_get hW hr 2 rfl rfl
  have b2 : bits W 16 5 = ra := bits_of x2
  have x4 : fld W 0 4 = g.toNat := fld_get hW hr 4 rfl rfl
  have b4 : bits W 0 4 = g := bits_of x4
  refine decodeAt_encode hW hb ?_ hw
  cases cl <;>
    simp [rawAt, rawBoth, rawBoth15, Cluster.slot, x3, x0, b1, b2, b4]

theorem RoundTrip.atest (cl : Cluster) (pd : BitVec 3) (ra : BitVec 5) (ap : BitVec 5) (g : BitVec 4) : RoundTrip.Statement (.atest cl pd ra ap g) := by
  intro pl hp hw
  obtain rfl : _ = pl := Option.some.inj hp
  have hr : InRange [(8, 88), fv pd, fv ra, (7, 0), fv ap, fv g] := by
    simp only [inRange_cons, inRange_nil, fv_lt, and_true, true_and]
    decide
  have hb := pack_lt _ 0 0 (by decide) hr
  generalize hW : pack [(8, 88), fv pd, fv ra, (7, 0), fv ap, fv g] 0 = W at hb
  have x3 : fld W 9 7 = 0 := fld_get hW hr 3 rfl rfl
  have x0 : fld W 24 8 = 88 := fld_get hW hr 0 rfl rfl
  have g24_2 : fld W 24 2 = 0 := fld_part x0 24 2 (by decide) rfl
  have g26_6 : fld W 26 6 = 22 := fld_part x0 26 6 (by decide) rfl
  have x1 : fld W 21 3 = pd.toNat := fld_get hW hr 1 rfl rfl
  have b1 : bits W 21 3 = pd := bits_of x1
  have x2 : fld W 16 5 = ra.toNat := fld_get hW hr 2 rfl rfl
  have b2 : bits W 16 5 = ra := bits_of x2
  have x4 : fld W 4 5 = ap.toNat := fld_get hW hr 4 rfl rfl
  have b4 : bits W 4 5 = ap := bits_of x4
  have x5 : fld W 0 4 = g.toNat := fld_get hW hr 5 rfl rfl
  have b5 : bits W 0 4 = g := bits_of x5
  refine decodeAt_encode hW hb ?_ hw
  cases cl <;>
    simp [rawAt, rawBoth, rawBoth16, Cluster.slot, x3, g24_2, g26_6, b1, b2, b4, b5]

theorem RoundTrip.fadd (cl : Cluster) (rd : BitVec 5) (ra : BitVec 5) (rb : BitVec 5) (bk : BitVec 2) (dbl : Bool) (zi : Bool) (zo : Bool) (rm : BitVec 2) : RoundTrip.Statement (.fadd cl rd ra rb bk dbl zi zo rm) := by
  intro pl hp hw
  obtain rfl : _ = pl := Option.some.inj hp
  have hr : InRange [(6, 24), fv rd, fv ra, fv rb, fv bk, fb dbl, fb zi, fb zo, fv rm, (4, 0)] := by
    simp only [inRange_cons, inRange_nil, fv_lt, fb_lt, and_true, true_and]
    decide
  have hb := pack_lt _ 0 0 (by decide) hr
  generalize hW : pack [(6, 24), fv rd, fv ra, fv rb, fv bk, fb dbl, fb zi, fb zo, fv rm, (4, 0)] 0 = W at hb
  have x9 : fld W 0 4 = 0 := fld_get hW hr 9 rfl rfl
  have x7 : fld W 6 1 = bit zo := fld_get hW hr 7 rfl rfl
  have x0 : fld W 26 6 = 24 := fld_get hW hr 0 rfl rfl
  have x1 : fld W 21 5 = rd.toNat := fld_get hW hr 1 rfl rfl
  have b1 : bits W 21 5 = rd := bits_of x1
  have x2 : fld W 16 5 = ra.toNat := fld_get hW hr 2 rfl rfl
  have b2 : bits W 16 5 = ra := bits_of x2
  have x3 : fld W 11 5 = rb.toNat := fld_get hW hr 3 rfl rfl
  have b3 : bits W 11 5 = rb := bits_of x3
  have x4 : fld W 9 2 = bk.toNat := fld_get hW hr 4 rfl rfl
  have b4 : bits W 9 2 = bk := bits_of x4
  have x5 : fld W 8 1 = bit dbl := fld_get hW hr 5 rfl rfl
  have b5 : flag W 8 = dbl := flag_of x5
  have x6 : fld W 7 1 = bit zi := fld_get hW hr 6 rfl rfl
  have b6 : flag W 7 = zi := flag_of x6
  have b7 : flag W 6 = zo := flag_of x7
  have x8 : fld W 4 2 = rm.toNat := fld_get hW hr 8 rfl rfl
  have b8 : bits W 4 2 = rm := bits_of x8
  have n0_7_3 : ¬ fld W 0 7 = 3 := fld_ne x9 0 4 (by decide)
  have n0_7_4 : ¬ fld W 0 7 = 4 := fld_ne x9 0 4 (by decide)
  have n0_8_5 : ¬ fld W 0 8 = 5 := fld_ne x9 0 4 (by decide)
  have n0_8_6 : ¬ fld W 0 8 = 6 := fld_ne x9 0 4 (by decide)
  refine decodeAt_encode hW hb ?_ hw
  cases cl <;>
    simp [rawAt, rawBoth, rawBoth18, Cluster.slot, x9, x0, b1, b2, b3, b4, b5, b6, b7, b8, n0_7_3, n0_7_4, n0_8_5, n0_8_6]

theorem RoundTrip.fsub (cl : Cluster) (rd : BitVec 5) (ra : BitVec 5) (rb : BitVec 5) (bk : BitVec 2) (dbl : Bool) (zi : Bool) (zo : Bool) (rm : BitVec 2) : RoundTrip.Statement (.fsub cl rd ra rb bk dbl zi zo rm) := by
  intro pl hp hw
  obtain rfl : _ = pl := Option.some.inj hp
  have hr : InRange [(6, 24), fv rd, fv ra, fv rb, fv bk, fb dbl, fb zi, fb zo, fv rm, (4, 1)] := by
    simp only [inRange_cons, inRange_nil, fv_lt, fb_lt, and_true, true_and]
    decide
  have hb := pack_lt _ 0 0 (by decide) hr
  generalize hW : pack [(6, 24), fv rd, fv ra, fv rb, fv bk, fb dbl, fb zi, fb zo, fv rm, (4, 1)] 0 = W at hb
  have x9 : fld W 0 4 = 1 := fld_get hW hr 9 rfl rfl
  have x7 : fld W 6 1 = bit zo := fld_get hW hr 7 rfl rfl
  have x0 : fld W 26 6 = 24 := fld_get hW hr 0 rfl rfl
  have x1 : fld W 21 5 = rd.toNat := fld_get hW hr 1 rfl rfl
  have b1 : bits W 21 5 = rd := bits_of x1
  have x2 : fld W 16 5 = ra.toNat := fld_get hW hr 2 rfl rfl
  have b2 : bits W 16 5 = ra := bits_of x2
  have x3 : fld W 11 5 = rb.toNat := fld_get hW hr 3 rfl rfl
  have b3 : bits W 11 5 = rb := bits_of x3
  have x4 : fld W 9 2 = bk.toNat := fld_get hW hr 4 rfl rfl
  have b4 : bits W 9 2 = bk := bits_of x4
  have x5 : fld W 8 1 = bit dbl := fld_get hW hr 5 rfl rfl
  have b5 : flag W 8 = dbl := flag_of x5
  have x6 : fld W 7 1 = bit zi := fld_get hW hr 6 rfl rfl
  have b6 : flag W 7 = zi := flag_of x6
  have b7 : flag W 6 = zo := flag_of x7
  have x8 : fld W 4 2 = rm.toNat := fld_get hW hr 8 rfl rfl
  have b8 : bits W 4 2 = rm := bits_of x8
  have n0_7_3 : ¬ fld W 0 7 = 3 := fld_ne x9 0 4 (by decide)
  have n0_7_4 : ¬ fld W 0 7 = 4 := fld_ne x9 0 4 (by decide)
  have n0_8_5 : ¬ fld W 0 8 = 5 := fld_ne x9 0 4 (by decide)
  have n0_8_6 : ¬ fld W 0 8 = 6 := fld_ne x9 0 4 (by decide)
  refine decodeAt_encode hW hb ?_ hw
  cases cl <;>
    simp [rawAt, rawBoth, rawBoth18, Cluster.slot, x9, x0, b1, b2, b3, b4, b5, b6, b7, b8, n0_7_3, n0_7_4, n0_8_5, n0_8_6]

theorem RoundTrip.fmul (cl : Cluster) (rd : BitVec 5) (ra : BitVec 5) (rb : BitVec 5) (bk : BitVec 2) (dbl : Bool) (zi : Bool) (zo : Bool) (rm : BitVec 2) : RoundTrip.Statement (.fmul cl rd ra rb bk dbl zi zo rm) := by
  intro pl hp hw
  obtain rfl : _ = pl := Option.some.inj hp
  have hr : InRange [(6, 24), fv rd, fv ra, fv rb, fv bk, fb dbl, fb zi, fb zo, fv rm, (4, 2)] := by
    simp only [inRange_cons, inRange_nil, fv_lt, fb_lt, and_true, true_and]
    decide
  have hb := pack_lt _ 0 0 (by decide) hr
  generalize hW : pack [(6, 24), fv rd, fv ra, fv rb, fv bk, fb dbl, fb zi, fb zo, fv rm, (4, 2)] 0 = W at hb
  have x9 : fld W 0 4 = 2 := fld_get hW hr 9 rfl rfl
  have x7 : fld W 6 1 = bit zo := fld_get hW hr 7 rfl rfl
  have x0 : fld W 26 6 = 24 := fld_get hW hr 0 rfl rfl
  have x1 : fld W 21 5 = rd.toNat := fld_get hW hr 1 rfl rfl
  have b1 : bits W 21 5 = rd := bits_of x1
  have x2 : fld W 16 5 = ra.toNat := fld_get hW hr 2 rfl rfl
  have b2 : bits W 16 5 = ra := bits_of x2
  have x3 : fld W 11 5 = rb.toNat := fld_get hW hr 3 rfl rfl
  have b3 : bits W 11 5 = rb := bits_of x3
  have x4 : fld W 9 2 = bk.toNat := fld_get hW hr 4 rfl rfl
  have b4 : bits W 9 2 = bk := bits_of x4
  have x5 : fld W 8 1 = bit dbl := fld_get hW hr 5 rfl rfl
  have b5 : flag W 8 = dbl := flag_of x5
  have x6 : fld W 7 1 = bit zi := fld_get hW hr 6 rfl rfl
  have b6 : flag W 7 = zi := flag_of x6
  have b7 : flag W 6 = zo := flag_of x7
  have x8 : fld W 4 2 = rm.toNat := fld_get hW hr 8 rfl rfl
  have b8 : bits W 4 2 = rm := bits_of x8
  have n0_7_3 : ¬ fld W 0 7 = 3 := fld_ne x9 0 4 (by decide)
  have n0_7_4 : ¬ fld W 0 7 = 4 := fld_ne x9 0 4 (by decide)
  have n0_8_5 : ¬ fld W 0 8 = 5 := fld_ne x9 0 4 (by decide)
  have n0_8_6 : ¬ fld W 0 8 = 6 := fld_ne x9 0 4 (by decide)
  refine decodeAt_encode hW hb ?_ hw
  cases cl <;>
    simp [rawAt, rawBoth, rawBoth18, Cluster.slot, x9, x0, b1, b2, b3, b4, b5, b6, b7, b8, n0_7_3, n0_7_4, n0_8_5, n0_8_6]

theorem RoundTrip.fmin (cl : Cluster) (rd : BitVec 5) (ra : BitVec 5) (rb : BitVec 5) (bk : BitVec 2) (dbl : Bool) (zi : Bool) : RoundTrip.Statement (.fmin cl rd ra rb bk dbl zi) := by
  intro pl hp hw
  obtain rfl : _ = pl := Option.some.inj hp
  have hr : InRange [(6, 24), fv rd, fv ra, fv rb, fv bk, fb dbl, fb zi, (7, 3)] := by
    simp only [inRange_cons, inRange_nil, fv_lt, fb_lt, and_true, true_and]
    decide
  have hb := pack_lt _ 0 0 (by decide) hr
  generalize hW : pack [(6, 24), fv rd, fv ra, fv rb, fv bk, fb dbl, fb zi, (7, 3)] 0 = W at hb
  have x7 : fld W 0 7 = 3 := fld_get hW hr 7 rfl rfl
  have g0_4 : fld W 0 4 = 3 := fld_part x7 0 4 (by decide) rfl
  have g6_1 : fld W 6 1 = 0 := fld_part x7 6 1 (by decide) rfl
  have x0 : fld W 26 6 = 24 := fld_get hW hr 0 rfl rfl
  have x1 : fld W 21 5 = rd.toNat := fld_get hW hr 1 rfl rfl
  have b1 : bits W 21 5 = rd := bits_of x1
  have x2 : fld W 16 5 = ra.toNat := fld_get hW hr 2 rfl rfl
  have b2 : bits W 16 5 = ra := bits_of x2
  have x3 : fld W 11 5 = rb.toNat := fld_get hW hr 3 rfl rfl
  have b3 : bits W 11 5 = rb := bits_of x3
  have x4 : fld W 9 2 = bk.toNat := fld_get hW hr 4 rfl rfl
  have b4 : bits W 9 2 = bk := bits_of x4
  have x5 : fld W 8 1 = bit dbl := fld_get hW hr 5 rfl rfl
  have b5 : flag W 8 = dbl := flag_of x5
  have x6 : fld W 7 1 = bit zi := fld_get hW hr 6 rfl rfl
  have b6 : flag W 7 = zi := flag_of x6
  have n0_8_5 : ¬ fld W 0 8 = 5 := fld_ne x7 0 7 (by decide)
  have n0_8_6 : ¬ fld W 0 8 = 6 := fld_ne x7 0 7 (by decide)
  refine decodeAt_encode hW hb ?_ hw
  cases cl <;>
    simp [rawAt, rawBoth, rawBoth18, Cluster.slot, g0_4, x7, g6_1, x0, b1, b2, b3, b4, b5, b6, n0_8_5, n0_8_6]

theorem RoundTrip.fmax (cl : Cluster) (rd : BitVec 5) (ra : BitVec 5) (rb : BitVec 5) (bk : BitVec 2) (dbl : Bool) (zi : Bool) : RoundTrip.Statement (.fmax cl rd ra rb bk dbl zi) := by
  intro pl hp hw
  obtain rfl : _ = pl := Option.some.inj hp
  have hr : InRange [(6, 24), fv rd, fv ra, fv rb, fv bk, fb dbl, fb zi, (7, 4)] := by
    simp only [inRange_cons, inRange_nil, fv_lt, fb_lt, and_true, true_and]
    decide
  have hb := pack_lt _ 0 0 (by decide) hr
  generalize hW : pack [(6, 24), fv rd, fv ra, fv rb, fv bk, fb dbl, fb zi, (7, 4)] 0 = W at hb
  have x7 : fld W 0 7 = 4 := fld_get hW hr 7 rfl rfl
  have g0_4 : fld W 0 4 = 4 := fld_part x7 0 4 (by decide) rfl
  have g6_1 : fld W 6 1 = 0 := fld_part x7 6 1 (by decide) rfl
  have x0 : fld W 26 6 = 24 := fld_get hW hr 0 rfl rfl
  have x1 : fld W 21 5 = rd.toNat := fld_get hW hr 1 rfl rfl
  have b1 : bits W 21 5 = rd := bits_of x1
  have x2 : fld W 16 5 = ra.toNat := fld_get hW hr 2 rfl rfl
  have b2 : bits W 16 5 = ra := bits_of x2
  have x3 : fld W 11 5 = rb.toNat := fld_get hW hr 3 rfl rfl
  have b3 : bits W 11 5 = rb := bits_of x3
  have x4 : fld W 9 2 = bk.toNat := fld_get hW hr 4 rfl rfl
  have b4 : bits W 9 2 = bk := bits_of x4
  have x5 : fld W 8 1 = bit dbl := fld_get hW hr 5 rfl rfl
  have b5 : flag W 8 = dbl := flag_of x5
  have x6 : fld W 7 1 = bit zi := fld_get hW hr 6 rfl rfl
  have b6 : flag W 7 = zi := flag_of x6
  have n0_8_5 : ¬ fld W 0 8 = 5 := fld_ne x7 0 7 (by decide)
  have n0_8_6 : ¬ fld W 0 8 = 6 := fld_ne x7 0 7 (by decide)
  refine decodeAt_encode hW hb ?_ hw
  cases cl <;>
    simp [rawAt, rawBoth, rawBoth18, Cluster.slot, g0_4, x7, g6_1, x0, b1, b2, b3, b4, b5, b6, n0_8_5, n0_8_6]

theorem RoundTrip.fabs (cl : Cluster) (rd : BitVec 5) (ra : BitVec 5) (dbl : Bool) : RoundTrip.Statement (.fabs cl rd ra dbl) := by
  intro pl hp hw
  obtain rfl : _ = pl := Option.some.inj hp
  have hr : InRange [(6, 24), fv rd, fv ra, (7, 0), fb dbl, (8, 5)] := by
    simp only [inRange_cons, inRange_nil, fv_lt, fb_lt, and_true, true_and]
    decide
  have hb := pack_lt _ 0 0 (by decide) hr
  generalize hW : pack [(6, 24), fv rd, fv ra, (7, 0), fb dbl, (8, 5)] 0 = W at hb
  have x5 : fld W 0 8 = 5 := fld_get hW hr 5 rfl rfl
  have g0_4 : fld W 0 4 = 5 := fld_part x5 0 4 (by decide) rfl
  have g0_7 : fld W 0 7 = 5 := fld_part x5 0 7 (by decide) rfl
  have g6_1 : fld W 6 1 = 0 := fld_part x5 6 1 (by decide) rfl
  have g6_2 : fld W 6 2 = 0 := fld_part x5 6 2 (by decide) rfl
  have x3 : fld W 9 7 = 0 := fld_get hW hr 3 rfl rfl
  have x0 : fld W 26 6 = 24 := fld_get hW hr 0 rfl rfl
  have x1 : fld W 21 5 = rd.toNat := fld_get hW hr 1 rfl rfl
  have b1 : bits W 21 5 = rd := bits_of x1
  have x2 : fld W 16 5 = ra.toNat := fld_get hW hr 2 rfl rfl
  have b2 : bits W 16 5 = ra := bits_of x2
  have x4 : fld W 8 1 = bit dbl := fld_get hW hr 4 rfl rfl
  have b4 : flag W 8 = dbl := flag_of x4
  refine decodeAt_encode hW hb ?_ hw
  cases cl <;>
    simp [rawAt, rawBoth, rawBoth18, Cluster.slot, g0_4, g0_7, x5, g6_1, g6_2, x3, x0, b1, b2, b4]

theorem RoundTrip.fneg (cl : Cluster) (rd : BitVec 5) (ra : BitVec 5) (dbl : Bool) : RoundTrip.Statement (.fneg cl rd ra dbl) := by
  intro pl hp hw
  obtain rfl : _ = pl := Option.some.inj hp
  have hr : InRange [(6, 24), fv rd, fv ra, (7, 0), fb dbl, (8, 6)] := by
    simp only [inRange_cons, inRange_nil, fv_lt, fb_lt, and_true, true_and]
    decide
  have hb := pack_lt _ 0 0 (by decide) hr
  generalize hW : pack [(6, 24), fv rd, fv ra, (7, 0), fb dbl, (8, 6)] 0 = W at hb
  have x5 : fld W 0 8 = 6 := fld_get hW hr 5 rfl rfl
  have g0_4 : fld W 0 4 = 6 := fld_part x5 0 4 (by decide) rfl
  have g0_7 : fld W 0 7 = 6 := fld_part x5 0 7 (by decide) rfl
  have g6_1 : fld W 6 1 = 0 := fld_part x5 6 1 (by decide) rfl
  have g6_2 : fld W 6 2 = 0 := fld_part x5 6 2 (by decide) rfl
  have x3 : fld W 9 7 = 0 := fld_get hW hr 3 rfl rfl
  have x0 : fld W 26 6 = 24 := fld_get hW hr 0 rfl rfl
  have x1 : fld W 21 5 = rd.toNat := fld_get hW hr 1 rfl rfl
  have b1 : bits W 21 5 = rd := bits_of x1
  have x2 : fld W 16 5 = ra.toNat := fld_get hW hr 2 rfl rfl
  have b2 : bits W 16 5 = ra := bits_of x2
  have x4 : fld W 8 1 = bit dbl := fld_get hW hr 4 rfl rfl
  have b4 : flag W 8 = dbl := flag_of x4
  refine decodeAt_encode hW hb ?_ hw
  cases cl <;>
    simp [rawAt, rawBoth, rawBoth18, Cluster.slot, g0_4, g0_7, x5, g6_1, g6_2, x3, x0, b1, b2, b4]

theorem RoundTrip.fcvt (cl : Cluster) (rd : BitVec 5) (ra : BitVec 5) (dbl : Bool) (zi : Bool) (zo : Bool) (rm : BitVec 2) : RoundTrip.Statement (.fcvt cl rd ra dbl zi zo rm) := by
  intro pl hp hw
  obtain rfl : _ = pl := Option.some.inj hp
  have hr : InRange [(6, 24), fv rd, fv ra, (7, 0), fb dbl, fb zi, fb zo, fv rm, (4, 7)] := by
    simp only [inRange_cons, inRange_nil, fv_lt, fb_lt, and_true, true_and]
    decide
  have hb := pack_lt _ 0 0 (by decide) hr
  generalize hW : pack [(6, 24), fv rd, fv ra, (7, 0), fb dbl, fb zi, fb zo, fv rm, (4, 7)] 0 = W at hb
  have x8 : fld W 0 4 = 7 := fld_get hW hr 8 rfl rfl
  have x6 : fld W 6 1 = bit zo := fld_get hW hr 6 rfl rfl
  have x3 : fld W 9 7 = 0 := fld_get hW hr 3 rfl rfl
  have x0 : fld W 26 6 = 24 := fld_get hW hr 0 rfl rfl
  have x1 : fld W 21 5 = rd.toNat := fld_get hW hr 1 rfl rfl
  have b1 : bits W 21 5 = rd := bits_of x1
  have x2 : fld W 16 5 = ra.toNat := fld_get hW hr 2 rfl rfl
  have b2 : bits W 16 5 = ra := bits_of x2
  have x4 : fld W 8 1 = bit dbl := fld_get hW hr 4 rfl rfl
  have b4 : flag W 8 = dbl := flag_of x4
  have x5 : fld W 7 1 = bit zi := fld_get hW hr 5 rfl rfl
  have b5 : flag W 7 = zi := flag_of x5
  have b6 : flag W 6 = zo := flag_of x6
  have x7 : fld W 4 2 = rm.toNat := fld_get hW hr 7 rfl rfl
  have b7 : bits W 4 2 = rm := bits_of x7
  have n0_7_3 : ¬ fld W 0 7 = 3 := fld_ne x8 0 4 (by decide)
  have n0_7_4 : ¬ fld W 0 7 = 4 := fld_ne x8 0 4 (by decide)
  have n0_8_5 : ¬ fld W 0 8 = 5 := fld_ne x8 0 4 (by decide)
  have n0_8_6 : ¬ fld W 0 8 = 6 := fld_ne x8 0 4 (by decide)
  refine decodeAt_encode hW hb ?_ hw
  cases cl <;>
    simp [rawAt, rawBoth, rawBoth18, Cluster.slot, x8, x3, x0, b1, b2, b4, b5, b6, b7, n0_7_3, n0_7_4, n0_8_5, n0_8_6]

theorem RoundTrip.ftoi (cl : Cluster) (rd : BitVec 5) (ra : BitVec 5) (dbl : Bool) (zi : Bool) (rm : BitVec 2) : RoundTrip.Statement (.ftoi cl rd ra dbl zi rm) := by
  intro pl hp hw
  obtain rfl : _ = pl := Option.some.inj hp
  have hr : InRange [(6, 24), fv rd, fv ra, (7, 0), fb dbl, fb zi, (1, 0), fv rm, (4, 8)] := by
    simp only [inRange_cons, inRange_nil, fv_lt, fb_lt, and_true, true_and]
    decide
  have hb := pack_lt _ 0 0 (by decide) hr
  generalize hW : pack [(6, 24), fv rd, fv ra, (7, 0), fb dbl, fb zi, (1, 0), fv rm, (4, 8)] 0 = W at hb
  have x8 : fld W 0 4 = 8 := fld_get hW hr 8 rfl rfl
  have x6 : fld W 6 1 = 0 := fld_get hW hr 6 rfl rfl
  have x3 : fld W 9 7 = 0 := fld_get hW hr 3 rfl rfl
  have x0 : fld W 26 6 = 24 := fld_get hW hr 0 rfl rfl
  have x1 : fld W 21 5 = rd.toNat := fld_get hW hr 1 rfl rfl
  have b1 : bits W 21 5 = rd := bits_of x1
  have x2 : fld W 16 5 = ra.toNat := fld_get hW hr 2 rfl rfl
  have b2 : bits W 16 5 = ra := bits_of x2
  have x4 : fld W 8 1 = bit dbl := fld_get hW hr 4 rfl rfl
  have b4 : flag W 8 = dbl := flag_of x4
  have x5 : fld W 7 1 = bit zi := fld_get hW hr 5 rfl rfl
  have b5 : flag W 7 = zi := flag_of x5
  have x7 : fld W 4 2 = rm.toNat := fld_get hW hr 7 rfl rfl
  have b7 : bits W 4 2 = rm := bits_of x7
  have n0_7_3 : ¬ fld W 0 7 = 3 := fld_ne x8 0 4 (by decide)
  have n0_7_4 : ¬ fld W 0 7 = 4 := fld_ne x8 0 4 (by decide)
  have n0_8_5 : ¬ fld W 0 8 = 5 := fld_ne x8 0 4 (by decide)
  have n0_8_6 : ¬ fld W 0 8 = 6 := fld_ne x8 0 4 (by decide)
  refine decodeAt_encode hW hb ?_ hw
  cases cl <;>
    simp [rawAt, rawBoth, rawBoth18, Cluster.slot, x8, x6, x3, x0, b1, b2, b4, b5, b7, n0_7_3, n0_7_4, n0_8_5, n0_8_6]

theorem RoundTrip.fito (cl : Cluster) (rd : BitVec 5) (ra : BitVec 5) (dbl : Bool) (rm : BitVec 2) : RoundTrip.Statement (.fito cl rd ra dbl rm) := by
  intro pl hp hw
  obtain rfl : _ = pl := Option.some.inj hp
  have hr : InRange [(6, 24), fv rd, fv ra, (7, 0), fb dbl, (2, 0), fv rm, (4, 9)] := by
    simp only [inRange_cons, inRange_nil, fv_lt, fb_lt, and_true, true_and]
    decide
  have hb := pack_lt _ 0 0 (by decide) hr
  generalize hW : pack [(6, 24), fv rd, fv ra, (7, 0), fb dbl, (2, 0), fv rm, (4, 9)] 0 = W at hb
  have x7 : fld W 0 4 = 9 := fld_get hW hr 7 rfl rfl
  have x5 : fld W 6 2 = 0 := fld_get hW hr 5 rfl rfl
  have g6_1 : fld W 6 1 = 0 := fld_part x5 6 1 (by decide) rfl
  have x3 : fld W 9 7 = 0 := fld_get hW hr 3 rfl rfl
  have x0 : fld W 26 6 = 24 := fld_get hW hr 0 rfl rfl
  have x1 : fld W 21 5 = rd.toNat := fld_get hW hr 1 rfl rfl
  have b1 : bits W 21 5 = rd := bits_of x1
  have x2 : fld W 16 5 = ra.toNat := fld_get hW hr 2 rfl rfl
  have b2 : bits W 16 5 = ra := bits_of x2
  have x4 : fld W 8 1 = bit dbl := fld_get hW hr 4 rfl rfl
  have b4 : flag W 8 = dbl := flag_of x4
  have x6 : fld W 4 2 = rm.toNat := fld_get hW hr 6 rfl rfl
  have b6 : bits W 4 2 = rm := bits_of x6
  have n0_7_3 : ¬ fld W 0 7 = 3 := fld_ne x7 0 4 (by decide)
  have n0_7_4 : ¬ fld W 0 7 = 4 := fld_ne x7 0 4 (by decide)
  have n0_8_5 : ¬ fld W 0 8 = 5 := fld_ne x7 0 4 (by decide)
  have n0_8_6 : ¬ fld W 0 8 = 6 := fld_ne x7 0 4 (by decide)
  refine decodeAt_encode hW hb ?_ hw
  cases cl <;>
    simp [rawAt, rawBoth, rawBoth18, Cluster.slot, x7, g6_1, x5, x3, x0, b1, b2, b4, b6, n0_7_3, n0_7_4, n0_8_5, n0_8_6]

theorem RoundTrip.fdiv (rd : BitVec 5) (ra : BitVec 5) (rb : BitVec 5) (bk : BitVec 2) (dbl : Bool) (zi : Bool) (zo : Bool) (rm : BitVec 2) : RoundTrip.Statement (.fdiv rd ra rb bk dbl zi zo rm) := by
  intro pl hp hw
  obtain rfl : _ = pl := Option.some.inj hp
  have hr : InRange [(6, 24), fv rd, fv ra, fv rb, fv bk, fb dbl, fb zi, fb zo, fv rm, (4, 10)] := by
    simp only [inRange_cons, inRange_nil, fv_lt, fb_lt, and_true, true_and]
    decide
  have hb := pack_lt _ 0 0 (by decide) hr
  generalize hW : pack [(6, 24), fv rd, fv ra, fv rb, fv bk, fb dbl, fb zi, fb zo, fv rm, (4, 10)] 0 = W at hb
  have x9 : fld W 0 4 = 10 := fld_get hW hr 9 rfl rfl
  have x7 : fld W 6 1 = bit zo := fld_get hW hr 7 rfl rfl
  have x0 : fld W 26 6 = 24 := fld_get hW hr 0 rfl rfl
  have x1 : fld W 21 5 = rd.toNat := fld_get hW hr 1 rfl rfl
  have b1 : bits W 21 5 = rd := bits_of x1
  have x2 : fld W 16 5 = ra.toNat := fld_get hW hr 2 rfl rfl
  have b2 : bits W 16 5 = ra := bits_of x2
  have x3 : fld W 11 5 = rb.toNat := fld_get hW hr 3 rfl rfl
  have b3 : bits W 11 5 = rb := bits_of x3
  have x4 : fld W 9 2 = bk.toNat := fld_get hW hr 4 rfl rfl
  have b4 : bits W 9 2 = bk := bits_of x4
  have x5 : fld W 8 1 = bit dbl := fld_get hW hr 5 rfl rfl
  have b5 : flag W 8 = dbl := flag_of x5
  have x6 : fld W 7 1 = bit zi := fld_get hW hr 6 rfl rfl
  have b6 : flag W 7 = zi := flag_of x6
  have b7 : flag W 6 = zo := flag_of x7
  have x8 : fld W 4 2 = rm.toNat := fld_get hW hr 8 rfl rfl
  have b8 : bits W 4 2 = rm := bits_of x8
  have n0_7_3 : ¬ fld W 0 7 = 3 := fld_ne x9 0 4 (by decide)
  have n0_7_4 : ¬ fld W 0 7 = 4 := fld_ne x9 0 4 (by decide)
  have n0_8_5 : ¬ fld W 0 8 = 5 := fld_ne x9 0 4 (by decide)
  have n0_8_6 : ¬ fld W 0 8 = 6 := fld_ne x9 0 4 (by decide)
  refine decodeAt_encode hW hb ?_ hw
  simp [rawAt, rawBoth, rawSyOnly, rawSyOnly18, rawBoth18, x9, x0, b1, b2, b3, b4, b5, b6, b7, b8, n0_7_3, n0_7_4, n0_8_5, n0_8_6]

theorem RoundTrip.fsqrt (rd : BitVec 5) (ra : BitVec 5) (dbl : Bool) (zi : Bool) (zo : Bool) (rm : BitVec 2) : RoundTrip.Statement (.fsqrt rd ra dbl zi zo rm) := by
  intro pl hp hw
  obtain rfl : _ = pl := Option.some.inj hp
  have hr : InRange [(6, 24), fv rd, fv ra, (7, 0), fb dbl, fb zi, fb zo, fv rm, (4, 11)] := by
    simp only [inRange_cons, inRange_nil, fv_lt, fb_lt, and_true, true_and]
    decide
  have hb := pack_lt _ 0 0 (by decide) hr
  generalize hW : pack [(6, 24), fv rd, fv ra, (7, 0), fb dbl, fb zi, fb zo, fv rm, (4, 11)] 0 = W at hb
  have x8 : fld W 0 4 = 11 := fld_get hW hr 8 rfl rfl
  have x6 : fld W 6 1 = bit zo := fld_get hW hr 6 rfl rfl
  have x3 : fld W 9 7 = 0 := fld_get hW hr 3 rfl rfl
  have x0 : fld W 26 6 = 24 := fld_get hW hr 0 rfl rfl
  have x1 : fld W 21 5 = rd.toNat := fld_get hW hr 1 rfl rfl
  have b1 : bits W 21 5 = rd := bits_of x1
  have x2 : fld W 16 5 = ra.toNat := fld_get hW hr 2 rfl rfl
  have b2 : bits W 16 5 = ra := bits_of x2
  have x4 : fld W 8 1 = bit dbl := fld_get hW hr 4 rfl rfl
  have b4 : flag W 8 = dbl := flag_of x4
  have x5 : fld W 7 1 = bit zi := fld_get hW hr 5 rfl rfl
  have b5 : flag W 7 = zi := flag_of x5
  have b6 : flag W 6 = zo := flag_of x6
  have x7 : fld W 4 2 = rm.toNat := fld_get hW hr 7 rfl rfl
  have b7 : bits W 4 2 = rm := bits_of x7
  have n0_7_3 : ¬ fld W 0 7 = 3 := fld_ne x8 0 4 (by decide)
  have n0_7_4 : ¬ fld W 0 7 = 4 := fld_ne x8 0 4 (by decide)
  have n0_8_5 : ¬ fld W 0 8 = 5 := fld_ne x8 0 4 (by decide)
  have n0_8_6 : ¬ fld W 0 8 = 6 := fld_ne x8 0 4 (by decide)
  refine decodeAt_encode hW hb ?_ hw
  simp [rawAt, rawBoth, rawSyOnly, rawSyOnly18, rawBoth18, x8, x3, x0, b1, b2, b4, b5, b6, b7, n0_7_3, n0_7_4, n0_8_5, n0_8_6]

theorem RoundTrip.fma (cl : Cluster) (rd : BitVec 5) (ra : BitVec 5) (rb : BitVec 5) (rc : BitVec 5) (dbl : Bool) (zi : Bool) (zo : Bool) (rm : BitVec 2) : RoundTrip.Statement (.fma cl rd ra rb rc dbl zi zo rm) := by
  intro pl hp hw
  obtain rfl : _ = pl := Option.some.inj hp
  have hr : InRange [(6, 25), fv rd, fv ra, fv rb, fv rc, fb dbl, fb zi, fb zo, fv rm, (1, 0)] := by
    simp only [inRange_cons, inRange_nil, fv_lt, fb_lt, and_true, true_and]
    decide
  have hb := pack_lt _ 0 0 (by decide) hr
  generalize hW : pack [(6, 25), fv rd, fv ra, fv rb, fv rc, fb dbl, fb zi, fb zo, fv rm, (1, 0)] 0 = W at hb
  have x9 : fld W 0 1 = 0 := fld_get hW hr 9 rfl rfl
  have x0 : fld W 26 6 = 25 := fld_get hW hr 0 rfl rfl
  have x1 : fld W 21 5 = rd.toNat := fld_get hW hr 1 rfl rfl
  have b1 : bits W 21 5 = rd := bits_of x1
  have x2 : fld W 16 5 = ra.toNat := fld_get hW hr 2 rfl rfl
  have b2 : bits W 16 5 = ra := bits_of x2
  have x3 : fld W 11 5 = rb.toNat := fld_get hW hr 3 rfl rfl
  have b3 : bits W 11 5 = rb := bits_of x3
  have x4 : fld W 6 5 = rc.toNat := fld_get hW hr 4 rfl rfl
  have b4 : bits W 6 5 = rc := bits_of x4
  have x5 : fld W 5 1 = bit dbl := fld_get hW hr 5 rfl rfl
  have b5 : flag W 5 = dbl := flag_of x5
  have x6 : fld W 4 1 = bit zi := fld_get hW hr 6 rfl rfl
  have b6 : flag W 4 = zi := flag_of x6
  have x7 : fld W 3 1 = bit zo := fld_get hW hr 7 rfl rfl
  have b7 : flag W 3 = zo := flag_of x7
  have x8 : fld W 1 2 = rm.toNat := fld_get hW hr 8 rfl rfl
  have b8 : bits W 1 2 = rm := bits_of x8
  refine decodeAt_encode hW hb ?_ hw
  cases cl <;>
    simp [rawAt, rawBoth, rawBoth19, Cluster.slot, x9, x0, b1, b2, b3, b4, b5, b6, b7, b8]

theorem RoundTrip.fnma (cl : Cluster) (rd : BitVec 5) (ra : BitVec 5) (rb : BitVec 5) (rc : BitVec 5) (dbl : Bool) (zi : Bool) (zo : Bool) (rm : BitVec 2) : RoundTrip.Statement (.fnma cl rd ra rb rc dbl zi zo rm) := by
  intro pl hp hw
  obtain rfl : _ = pl := Option.some.inj hp
  have hr : InRange [(6, 25), fv rd, fv ra, fv rb, fv rc, fb dbl, fb zi, fb zo, fv rm, (1, 1)] := by
    simp only [inRange_cons, inRange_nil, fv_lt, fb_lt, and_true, true_and]
    decide
  have hb := pack_lt _ 0 0 (by decide) hr
  generalize hW : pack [(6, 25), fv rd, fv ra, fv rb, fv rc, fb dbl, fb zi, fb zo, fv rm, (1, 1)] 0 = W at hb
  have x9 : fld W 0 1 = 1 := fld_get hW hr 9 rfl rfl
  have x0 : fld W 26 6 = 25 := fld_get hW hr 0 rfl rfl
  have x1 : fld W 21 5 = rd.toNat := fld_get hW hr 1 rfl rfl
  have b1 : bits W 21 5 = rd := bits_of x1
  have x2 : fld W 16 5 = ra.toNat := fld_get hW hr 2 rfl rfl
  have b2 : bits W 16 5 = ra := bits_of x2
  have x3 : fld W 11 5 = rb.toNat := fld_get hW hr 3 rfl rfl
  have b3 : bits W 11 5 = rb := bits_of x3
  have x4 : fld W 6 5 = rc.toNat := fld_get hW hr 4 rfl rfl
  have b4 : bits W 6 5 = rc := bits_of x4
  have x5 : fld W 5 1 = bit dbl := fld_get hW hr 5 rfl rfl
  have b5 : flag W 5 = dbl := flag_of x5
  have x6 : fld W 4 1 = bit zi := fld_get hW hr 6 rfl rfl
  have b6 : flag W 4 = zi := flag_of x6
  have x7 : fld W 3 1 = bit zo := fld_get hW hr 7 rfl rfl
  have b7 : flag W 3 = zo := flag_of x7
  have x8 : fld W 1 2 = rm.toNat := fld_get hW hr 8 rfl rfl
  have b8 : bits W 1 2 = rm := bits_of x8
  refine decodeAt_encode hW hb ?_ hw
  cases cl <;>
    simp [rawAt, rawBoth, rawBoth19, Cluster.slot, x9, x0, b1, b2, b3, b4, b5, b6, b7, b8]

theorem RoundTrip.fcmp (cl : Cluster) (pd : BitVec 3) (cond : BitVec 2) (ra : BitVec 5) (rb : BitVec 5) (dbl : Bool) : RoundTrip.Statement (.fcmp cl pd cond ra rb dbl) := by
  intro pl hp hw
  obtain rfl : _ = pl := Option.some.inj hp
  have hr : InRange [(6, 26), fv pd, fv cond, fv ra, fv rb, fb dbl, (10, 0)] := by
    simp only [inRange_cons, inRange_nil, fv_lt, fb_lt, and_true, true_and]
    decide
  have hb := pack_lt _ 0 0 (by decide) hr
  generalize hW : pack [(6, 26), fv pd, fv cond, fv ra, fv rb, fb dbl, (10, 0)] 0 = W at hb
  have x6 : fld W 0 10 = 0 := fld_get hW hr 6 rfl rfl
  have x0 : fld W 26 6 = 26 := fld_get hW hr 0 rfl rfl
  have x1 : fld W 23 3 = pd.toNat := fld_get hW hr 1 rfl rfl
  have b1 : bits W 23 3 = pd := bits_of x1
  have x2 : fld W 21 2 = cond.toNat := fld_get hW hr 2 rfl rfl
  have b2 : bits W 21 2 = cond := bits_of x2
  have x3 : fld W 16 5 = ra.toNat := fld_get hW hr 3 rfl rfl
  have b3 : bits W 16 5 = ra := bits_of x3
  have x4 : fld W 11 5 = rb.toNat := fld_get hW hr 4 rfl rfl
  have b4 : bits W 11 5 = rb := bits_of x4
  have x5 : fld W 10 1 = bit dbl := fld_get hW hr 5 rfl rfl
  have b5 : flag W 10 = dbl := flag_of x5
  refine decodeAt_encode hW hb ?_ hw
  cases cl <;>
    simp [rawAt, rawBoth, rawBoth1A, Cluster.slot, x6, x0, b1, b2, b3, b4, b5]

theorem RoundTrip.fclass (cl : Cluster) (rd : BitVec 5) (ra : BitVec 5) (dbl : Bool) (g : BitVec 4) : RoundTrip.Statement (.fclass cl rd ra dbl g) := by
  intro pl hp hw
  obtain rfl : _ = pl := Option.some.inj hp
  have hr : InRange [(6, 27), fv rd, fv ra, (11, 0), fb dbl, fv g] := by
    simp only [inRange_cons, inRange_nil, fv_lt, fb_lt, and_true, true_and]
    decide
  have hb := pack_lt _ 0 0 (by decide) hr
  generalize hW : pack [(6, 27), fv rd, fv ra, (11, 0), fb dbl, fv g] 0 = W at hb
  have x3 : fld W 5 11 = 0 := fld_get hW hr 3 rfl rfl
  have x0 : fld W 26 6 = 27 := fld_get hW hr 0 rfl rfl
  have x1 : fld W 21 5 = rd.toNat := fld_get hW hr 1 rfl rfl
  have b1 : bits W 21 5 = rd := bits_of x1
  have x2 : fld W 16 5 = ra.toNat := fld_get hW hr 2 rfl rfl
  have b2 : bits W 16 5 = ra := bits_of x2
  have x4 : fld W 4 1 = bit dbl := fld_get hW hr 4 rfl rfl
  have b4 : flag W 4 = dbl := flag_of x4
  have x5 : fld W 0 4 = g.toNat := fld_get hW hr 5 rfl rfl
  have b5 : bits W 0 4 = g := bits_of x5
  refine decodeAt_encode hW hb ?_ hw
  cases cl <;>
    simp [rawAt, rawBoth, rawBoth1B, Cluster.slot, x3, x0, b1, b2, b4, b5]

theorem RoundTrip.br (off : BitVec 22) (g : BitVec 4) : RoundTrip.Statement (.br off g) := by
  intro pl hp hw
  obtain rfl : _ = pl := Option.some.inj hp
  have hr : InRange [(6, 32), fv off, fv g] := by
    simp only [inRange_cons, inRange_nil, fv_lt, and_true, true_and]
    decide
  have hb := pack_lt _ 0 0 (by decide) hr
  generalize hW : pack [(6, 32), fv off, fv g] 0 = W at hb
  have x0 : fld W 26 6 = 32 := fld_get hW hr 0 rfl rfl
  have x1 : fld W 4 22 = off.toNat := fld_get hW hr 1 rfl rfl
  have b1 : bits W 4 22 = off := bits_of x1
  have x2 : fld W 0 4 = g.toNat := fld_get hW hr 2 rfl rfl
  have b2 : bits W 0 4 = g := bits_of x2
  refine decodeAt_encode hW hb ?_ hw
  simp [rawAt, rawBoth, rawSxOnly, rawSxOnly20, x0, b1, b2]

theorem RoundTrip.jr (ra : BitVec 5) (off : BitVec 12) (g : BitVec 4) : RoundTrip.Statement (.jr ra off g) := by
  intro pl hp hw
  obtain rfl : _ = pl := Option.some.inj hp
  have hr : InRange [(11, 1056), fv ra, fv off, fv g] := by
    simp only [inRange_cons, inRange_nil, fv_lt, and_true, true_and]
    decide
  have hb := pack_lt _ 0 0 (by decide) hr
  generalize hW : pack [(11, 1056), fv ra, fv off, fv g] 0 = W at hb
  have x0 : fld W 21 11 = 1056 := fld_get hW hr 0 rfl rfl
  have g21_5 : fld W 21 5 = 0 := fld_part x0 21 5 (by decide) rfl
  have g26_6 : fld W 26 6 = 33 := fld_part x0 26 6 (by decide) rfl
  have x1 : fld W 16 5 = ra.toNat := fld_get hW hr 1 rfl rfl
  have b1 : bits W 16 5 = ra := bits_of x1
  have x2 : fld W 4 12 = off.toNat := fld_get hW hr 2 rfl rfl
  have b2 : bits W 4 12 = off := bits_of x2
  have x3 : fld W 0 4 = g.toNat := fld_get hW hr 3 rfl rfl
  have b3 : bits W 0 4 = g := bits_of x3
  refine decodeAt_encode hW hb ?_ hw
  simp [rawAt, rawBoth, rawSxOnly, rawSxOnly21, g21_5, g26_6, b1, b2, b3]

theorem RoundTrip.call (off : BitVec 22) (g : BitVec 4) : RoundTrip.Statement (.call off g) := by
  intro pl hp hw
  obtain rfl : _ = pl := Option.some.inj hp
  have hr : InRange [(6, 34), fv off, fv g] := by
    simp only [inRange_cons, inRange_nil, fv_lt, and_true, true_and]
    decide
  have hb := pack_lt _ 0 0 (by decide) hr
  generalize hW : pack [(6, 34), fv off, fv g] 0 = W at hb
  have x0 : fld W 26 6 = 34 := fld_get hW hr 0 rfl rfl
  have x1 : fld W 4 22 = off.toNat := fld_get hW hr 1 rfl rfl
  have b1 : bits W 4 22 = off := bits_of x1
  have x2 : fld W 0 4 = g.toNat := fld_get hW hr 2 rfl rfl
  have b2 : bits W 0 4 = g := bits_of x2
  refine decodeAt_encode hW hb ?_ hw
  simp [rawAt, rawBoth, rawSxOnly, rawSxOnly22, x0, b1, b2]

theorem RoundTrip.ret (g : BitVec 4) : RoundTrip.Statement (.ret g) := by
  intro pl hp hw
  obtain rfl : _ = pl := Option.some.inj hp
  have hr : InRange [(28, 146800640), fv g] := by
    simp only [inRange_cons, inRange_nil, fv_lt, and_true, true_and]
    decide
  have hb := pack_lt _ 0 0 (by decide) hr
  generalize hW : pack [(28, 146800640), fv g] 0 = W at hb
  have x0 : fld W 4 28 = 146800640 := fld_get hW hr 0 rfl rfl
  have g4_22 : fld W 4 22 = 0 := fld_part x0 4 22 (by decide) rfl
  have g26_6 : fld W 26 6 = 35 := fld_part x0 26 6 (by decide) rfl
  have x1 : fld W 0 4 = g.toNat := fld_get hW hr 1 rfl rfl
  have b1 : bits W 0 4 = g := bits_of x1
  refine decodeAt_encode hW hb ?_ hw
  simp [rawAt, rawBoth, rawSxOnly, rawSxOnly23, g4_22, g26_6, b1]

theorem RoundTrip.loop (lc : BitVec 2) (sm1 : BitVec 3) (xc : BitVec 5) (endOff : BitVec 15) : RoundTrip.Statement (.loop lc sm1 xc endOff) := by
  intro pl hp hw
  obtain rfl : _ = pl := Option.some.inj hp
  have hr : InRange [(6, 36), fv lc, (1, 0), fv sm1, fv xc, fv endOff] := by
    simp only [inRange_cons, inRange_nil, fv_lt, and_true, true_and]
    decide
  have hb := pack_lt _ 0 0 (by decide) hr
  generalize hW : pack [(6, 36), fv lc, (1, 0), fv sm1, fv xc, fv endOff] 0 = W at hb
  have x2 : fld W 23 1 = 0 := fld_get hW hr 2 rfl rfl
  have x0 : fld W 26 6 = 36 := fld_get hW hr 0 rfl rfl
  have x1 : fld W 24 2 = lc.toNat := fld_get hW hr 1 rfl rfl
  have b1 : bits W 24 2 = lc := bits_of x1
  have x3 : fld W 20 3 = sm1.toNat := fld_get hW hr 3 rfl rfl
  have b3 : bits W 20 3 = sm1 := bits_of x3
  have x4 : fld W 15 5 = xc.toNat := fld_get hW hr 4 rfl rfl
  have b4 : bits W 15 5 = xc := bits_of x4
  have x5 : fld W 0 15 = endOff.toNat := fld_get hW hr 5 rfl rfl
  have b5 : bits W 0 15 = endOff := bits_of x5
  refine decodeAt_encode hW hb ?_ hw
  simp [rawAt, rawBoth, rawSxOnly, rawSxOnly24, x2, x0, b1, b3, b4, b5]

theorem RoundTrip.loopR (lc : BitVec 2) (sm1 : BitVec 3) (xc : BitVec 5) (endOff : BitVec 15) : RoundTrip.Statement (.loopR lc sm1 xc endOff) := by
  intro pl hp hw
  obtain rfl : _ = pl := Option.some.inj hp
  have hr : InRange [(6, 36), fv lc, (1, 1), fv sm1, fv xc, fv endOff] := by
    simp only [inRange_cons, inRange_nil, fv_lt, and_true, true_and]
    decide
  have hb := pack_lt _ 0 0 (by decide) hr
  generalize hW : pack [(6, 36), fv lc, (1, 1), fv sm1, fv xc, fv endOff] 0 = W at hb
  have x2 : fld W 23 1 = 1 := fld_get hW hr 2 rfl rfl
  have x0 : fld W 26 6 = 36 := fld_get hW hr 0 rfl rfl
  have x1 : fld W 24 2 = lc.toNat := fld_get hW hr 1 rfl rfl
  have b1 : bits W 24 2 = lc := bits_of x1
  have x3 : fld W 20 3 = sm1.toNat := fld_get hW hr 3 rfl rfl
  have b3 : bits W 20 3 = sm1 := bits_of x3
  have x4 : fld W 15 5 = xc.toNat := fld_get hW hr 4 rfl rfl
  have b4 : bits W 15 5 = xc := bits_of x4
  have x5 : fld W 0 15 = endOff.toNat := fld_get hW hr 5 rfl rfl
  have b5 : bits W 0 15 = endOff := bits_of x5
  refine decodeAt_encode hW hb ?_ hw
  simp [rawAt, rawBoth, rawSxOnly, rawSxOnly24, x2, x0, b1, b3, b4, b5]

theorem RoundTrip.loopi (lc : BitVec 2) (sm1 : BitVec 3) (count : BitVec 10) (endOff : BitVec 10) : RoundTrip.Statement (.loopi lc sm1 count endOff) := by
  intro pl hp hw
  obtain rfl : _ = pl := Option.some.inj hp
  have hr : InRange [(6, 37), fv lc, (1, 0), fv sm1, fv count, fv endOff] := by
    simp only [inRange_cons, inRange_nil, fv_lt, and_true, true_and]
    decide
  have hb := pack_lt _ 0 0 (by decide) hr
  generalize hW : pack [(6, 37), fv lc, (1, 0), fv sm1, fv count, fv endOff] 0 = W at hb
  have x2 : fld W 23 1 = 0 := fld_get hW hr 2 rfl rfl
  have x0 : fld W 26 6 = 37 := fld_get hW hr 0 rfl rfl
  have x1 : fld W 24 2 = lc.toNat := fld_get hW hr 1 rfl rfl
  have b1 : bits W 24 2 = lc := bits_of x1
  have x3 : fld W 20 3 = sm1.toNat := fld_get hW hr 3 rfl rfl
  have b3 : bits W 20 3 = sm1 := bits_of x3
  have x4 : fld W 10 10 = count.toNat := fld_get hW hr 4 rfl rfl
  have b4 : bits W 10 10 = count := bits_of x4
  have x5 : fld W 0 10 = endOff.toNat := fld_get hW hr 5 rfl rfl
  have b5 : bits W 0 10 = endOff := bits_of x5
  refine decodeAt_encode hW hb ?_ hw
  simp [rawAt, rawBoth, rawSxOnly, rawSxOnly25, x2, x0, b1, b3, b4, b5]

theorem RoundTrip.loopiR (lc : BitVec 2) (sm1 : BitVec 3) (count : BitVec 10) (endOff : BitVec 10) : RoundTrip.Statement (.loopiR lc sm1 count endOff) := by
  intro pl hp hw
  obtain rfl : _ = pl := Option.some.inj hp
  have hr : InRange [(6, 37), fv lc, (1, 1), fv sm1, fv count, fv endOff] := by
    simp only [inRange_cons, inRange_nil, fv_lt, and_true, true_and]
    decide
  have hb := pack_lt _ 0 0 (by decide) hr
  generalize hW : pack [(6, 37), fv lc, (1, 1), fv sm1, fv count, fv endOff] 0 = W at hb
  have x2 : fld W 23 1 = 1 := fld_get hW hr 2 rfl rfl
  have x0 : fld W 26 6 = 37 := fld_get hW hr 0 rfl rfl
  have x1 : fld W 24 2 = lc.toNat := fld_get hW hr 1 rfl rfl
  have b1 : bits W 24 2 = lc := bits_of x1
  have x3 : fld W 20 3 = sm1.toNat := fld_get hW hr 3 rfl rfl
  have b3 : bits W 20 3 = sm1 := bits_of x3
  have x4 : fld W 10 10 = count.toNat := fld_get hW hr 4 rfl rfl
  have b4 : bits W 10 10 = count := bits_of x4
  have x5 : fld W 0 10 = endOff.toNat := fld_get hW hr 5 rfl rfl
  have b5 : bits W 0 10 = endOff := bits_of x5
  refine decodeAt_encode hW hb ?_ hw
  simp [rawAt, rawBoth, rawSxOnly, rawSxOnly25, x2, x0, b1, b3, b4, b5]

theorem RoundTrip.lbrk (g : BitVec 4) : RoundTrip.Statement (.lbrk g) := by
  intro pl hp hw
  obtain rfl : _ = pl := Option.some.inj hp
  have hr : InRange [(28, 159383552), fv g] := by
    simp only [inRange_cons, inRange_nil, fv_lt, and_true, true_and]
    decide
  have hb := pack_lt _ 0 0 (by decide) hr
  generalize hW : pack [(28, 159383552), fv g] 0 = W at hb
  have x0 : fld W 4 28 = 159383552 := fld_get hW hr 0 rfl rfl
  have g4_22 : fld W 4 22 = 0 := fld_part x0 4 22 (by decide) rfl
  have g26_6 : fld W 26 6 = 38 := fld_part x0 26 6 (by decide) rfl
  have x1 : fld W 0 4 = g.toNat := fld_get hW hr 1 rfl rfl
  have b1 : bits W 0 4 = g := bits_of x1
  refine decodeAt_encode hW hb ?_ hw
  simp [rawAt, rawBoth, rawSxOnly, rawSxOnly26, g4_22, g26_6, b1]

theorem RoundTrip.frame (g : BitVec 4) : RoundTrip.Statement (.frame g) := by
  intro pl hp hw
  obtain rfl : _ = pl := Option.some.inj hp
  have hr : InRange [(28, 167772160), fv g] := by
    simp only [inRange_cons, inRange_nil, fv_lt, and_true, true_and]
    decide
  have hb := pack_lt _ 0 0 (by decide) hr
  generalize hW : pack [(28, 167772160), fv g] 0 = W at hb
  have x0 : fld W 4 28 = 167772160 := fld_get hW hr 0 rfl rfl
  have g4_22 : fld W 4 22 = 0 := fld_part x0 4 22 (by decide) rfl
  have g26_6 : fld W 26 6 = 40 := fld_part x0 26 6 (by decide) rfl
  have x1 : fld W 0 4 = g.toNat := fld_get hW hr 1 rfl rfl
  have b1 : bits W 0 4 = g := bits_of x1
  refine decodeAt_encode hW hb ?_ hw
  simp [rawAt, rawBoth, rawSxOnly, rawSxOnly28, g4_22, g26_6, b1]

theorem RoundTrip.sysc (code : BitVec 12) (g : BitVec 4) : RoundTrip.Statement (.sysc code g) := by
  intro pl hp hw
  obtain rfl : _ = pl := Option.some.inj hp
  have hr : InRange [(16, 41984), fv code, fv g] := by
    simp only [inRange_cons, inRange_nil, fv_lt, and_true, true_and]
    decide
  have hb := pack_lt _ 0 0 (by decide) hr
  generalize hW : pack [(16, 41984), fv code, fv g] 0 = W at hb
  have x0 : fld W 16 16 = 41984 := fld_get hW hr 0 rfl rfl
  have g16_10 : fld W 16 10 = 0 := fld_part x0 16 10 (by decide) rfl
  have g26_6 : fld W 26 6 = 41 := fld_part x0 26 6 (by decide) rfl
  have x1 : fld W 4 12 = code.toNat := fld_get hW hr 1 rfl rfl
  have b1 : bits W 4 12 = code := bits_of x1
  have x2 : fld W 0 4 = g.toNat := fld_get hW hr 2 rfl rfl
  have b2 : bits W 0 4 = g := bits_of x2
  refine decodeAt_encode hW hb ?_ hw
  simp [rawAt, rawBoth, rawSxOnly, rawSxOnly29, g16_10, g26_6, b1, b2]

theorem RoundTrip.brk (code : BitVec 12) (g : BitVec 4) : RoundTrip.Statement (.brk code g) := by
  intro pl hp hw
  obtain rfl : _ = pl := Option.some.inj hp
  have hr : InRange [(16, 43008), fv code, fv g] := by
    simp only [inRange_cons, inRange_nil, fv_lt, and_true, true_and]
    decide
  have hb := pack_lt _ 0 0 (by decide) hr
  generalize hW : pack [(16, 43008), fv code, fv g] 0 = W at hb
  have x0 : fld W 16 16 = 43008 := fld_get hW hr 0 rfl rfl
  have g16_10 : fld W 16 10 = 0 := fld_part x0 16 10 (by decide) rfl
  have g26_6 : fld W 26 6 = 42 := fld_part x0 26 6 (by decide) rfl
  have x1 : fld W 4 12 = code.toNat := fld_get hW hr 1 rfl rfl
  have b1 : bits W 4 12 = code := bits_of x1
  have x2 : fld W 0 4 = g.toNat := fld_get hW hr 2 rfl rfl
  have b2 : bits W 0 4 = g := bits_of x2
  refine decodeAt_encode hW hb ?_ hw
  simp [rawAt, rawBoth, rawSxOnly, rawSxOnly2A, g16_10, g26_6, b1, b2]

theorem RoundTrip.tend (g : BitVec 4) : RoundTrip.Statement (.tend g) := by
  intro pl hp hw
  obtain rfl : _ = pl := Option.some.inj hp
  have hr : InRange [(28, 180355072), fv g] := by
    simp only [inRange_cons, inRange_nil, fv_lt, and_true, true_and]
    decide
  have hb := pack_lt _ 0 0 (by decide) hr
  generalize hW : pack [(28, 180355072), fv g] 0 = W at hb
  have x0 : fld W 4 28 = 180355072 := fld_get hW hr 0 rfl rfl
  have g4_22 : fld W 4 22 = 0 := fld_part x0 4 22 (by decide) rfl
  have g26_6 : fld W 26 6 = 43 := fld_part x0 26 6 (by decide) rfl
  have x1 : fld W 0 4 = g.toNat := fld_get hW hr 1 rfl rfl
  have b1 : bits W 0 4 = g := bits_of x1
  refine decodeAt_encode hW hb ?_ hw
  simp [rawAt, rawBoth, rawSxOnly, rawSxOnly2B, g4_22, g26_6, b1]

theorem RoundTrip.est (ra : BitVec 5) (g : BitVec 4) : RoundTrip.Statement (.est ra g) := by
  intro pl hp hw
  obtain rfl : _ = pl := Option.some.inj hp
  have hr : InRange [(11, 1408), fv ra, (12, 0), fv g] := by
    simp only [inRange_cons, inRange_nil, fv_lt, and_true, true_and]
    decide
  have hb := pack_lt _ 0 0 (by decide) hr
  generalize hW : pack [(11, 1408), fv ra, (12, 0), fv g] 0 = W at hb
  have x2 : fld W 4 12 = 0 := fld_get hW hr 2 rfl rfl
  have x0 : fld W 21 11 = 1408 := fld_get hW hr 0 rfl rfl
  have g21_5 : fld W 21 5 = 0 := fld_part x0 21 5 (by decide) rfl
  have g26_6 : fld W 26 6 = 44 := fld_part x0 26 6 (by decide) rfl
  have x1 : fld W 16 5 = ra.toNat := fld_get hW hr 1 rfl rfl
  have b1 : bits W 16 5 = ra := bits_of x1
  have x3 : fld W 0 4 = g.toNat := fld_get hW hr 3 rfl rfl
  have b3 : bits W 0 4 = g := bits_of x3
  refine decodeAt_encode hW hb ?_ hw
  simp [rawAt, rawBoth, rawSxOnly, rawSxOnly2C, x2, g21_5, g26_6, b1, b3]

theorem RoundTrip.rfe : RoundTrip.Statement (.rfe) := fun pl h _ => by cases h; decide

theorem RoundTrip.esc (code : BitVec 12) (g : BitVec 4) : RoundTrip.Statement (.esc code g) := by
  intro pl hp hw
  obtain rfl : _ = pl := Option.some.inj hp
  have hr : InRange [(16, 47104), fv code, fv g] := by
    simp only [inRange_cons, inRange_nil, fv_lt, and_true, true_and]
    decide
  have hb := pack_lt _ 0 0 (by decide) hr
  generalize hW : pack [(16, 47104), fv code, fv g] 0 = W at hb
  have x0 : fld W 16 16 = 47104 := fld_get hW hr 0 rfl rfl
  have g16_10 : fld W 16 10 = 0 := fld_part x0 16 10 (by decide) rfl
  have g26_6 : fld W 26 6 = 46 := fld_part x0 26 6 (by decide) rfl
  have x1 : fld W 4 12 = code.toNat := fld_get hW hr 1 rfl rfl
  have b1 : bits W 4 12 = code := bits_of x1
  have x2 : fld W 0 4 = g.toNat := fld_get hW hr 2 rfl rfl
  have b2 : bits W 0 4 = g := bits_of x2
  refine decodeAt_encode hW hb ?_ hw
  simp [rawAt, rawBoth, rawSxOnly, rawSxOnly2E, g16_10, g26_6, b1, b2]

theorem RoundTrip.tlaunch (rd : BitVec 5) (ra : BitVec 5) (g : BitVec 4) : RoundTrip.Statement (.tlaunch rd ra g) := by
  intro pl hp hw
  obtain rfl : _ = pl := Option.some.inj hp
  have hr : InRange [(6, 48), fv rd, fv ra, (12, 0), fv g] := by
    simp only [inRange_cons, inRange_nil, fv_lt, and_true, true_and]
    decide
  have hb := pack_lt _ 0 0 (by decide) hr
  generalize hW : pack [(6, 48), fv rd, fv ra, (12, 0), fv g] 0 = W at hb
  have x3 : fld W 4 12 = 0 := fld_get hW hr 3 rfl rfl
  have x0 : fld W 26 6 = 48 := fld_get hW hr 0 rfl rfl
  have x1 : fld W 21 5 = rd.toNat := fld_get hW hr 1 rfl rfl
  have b1 : bits W 21 5 = rd := bits_of x1
  have x2 : fld W 16 5 = ra.toNat := fld_get hW hr 2 rfl rfl
  have b2 : bits W 16 5 = ra := bits_of x2
  have x4 : fld W 0 4 = g.toNat := fld_get hW hr 4 rfl rfl
  have b4 : bits W 0 4 = g := bits_of x4
  refine decodeAt_encode hW hb ?_ hw
  simp [rawAt, rawBoth, rawSxOnly, rawSxOnly30, x3, x0, b1, b2, b4]

theorem RoundTrip.tjoin (rd : BitVec 5) (ra : BitVec 5) (g : BitVec 4) : RoundTrip.Statement (.tjoin rd ra g) := by
  intro pl hp hw
  obtain rfl : _ = pl := Option.some.inj hp
  have hr : InRange [(6, 49), fv rd, fv ra, (12, 0), fv g] := by
    simp only [inRange_cons, inRange_nil, fv_lt, and_true, true_and]
    decide
  have hb := pack_lt _ 0 0 (by decide) hr
  generalize hW : pack [(6, 49), fv rd, fv ra, (12, 0), fv g] 0 = W at hb
  have x3 : fld W 4 12 = 0 := fld_get hW hr 3 rfl rfl
  have x0 : fld W 26 6 = 49 := fld_get hW hr 0 rfl rfl
  have x1 : fld W 21 5 = rd.toNat := fld_get hW hr 1 rfl rfl
  have b1 : bits W 21 5 = rd := bits_of x1
  have x2 : fld W 16 5 = ra.toNat := fld_get hW hr 2 rfl rfl
  have b2 : bits W 16 5 = ra := bits_of x2
  have x4 : fld W 0 4 = g.toNat := fld_get hW hr 4 rfl rfl
  have b4 : bits W 0 4 = g := bits_of x4
  refine decodeAt_encode hW hb ?_ hw
  simp [rawAt, rawBoth, rawSxOnly, rawSxOnly31, x3, x0, b1, b2, b4]

theorem RoundTrip.tjoinW (rd : BitVec 5) (ra : BitVec 5) (g : BitVec 4) : RoundTrip.Statement (.tjoinW rd ra g) := by
  intro pl hp hw
  obtain rfl : _ = pl := Option.some.inj hp
  have hr : InRange [(6, 49), fv rd, fv ra, (12, 2048), fv g] := by
    simp only [inRange_cons, inRange_nil, fv_lt, and_true, true_and]
    decide
  have hb := pack_lt _ 0 0 (by decide) hr
  generalize hW : pack [(6, 49), fv rd, fv ra, (12, 2048), fv g] 0 = W at hb
  have x3 : fld W 4 12 = 2048 := fld_get hW hr 3 rfl rfl
  have x0 : fld W 26 6 = 49 := fld_get hW hr 0 rfl rfl
  have x1 : fld W 21 5 = rd.toNat := fld_get hW hr 1 rfl rfl
  have b1 : bits W 21 5 = rd := bits_of x1
  have x2 : fld W 16 5 = ra.toNat := fld_get hW hr 2 rfl rfl
  have b2 : bits W 16 5 = ra := bits_of x2
  have x4 : fld W 0 4 = g.toNat := fld_get hW hr 4 rfl rfl
  have b4 : bits W 0 4 = g := bits_of x4
  refine decodeAt_encode hW hb ?_ hw
  simp [rawAt, rawBoth, rawSxOnly, rawSxOnly31, x3, x0, b1, b2, b4]

theorem RoundTrip.admitC (rd : BitVec 5) (ra : BitVec 5) (g : BitVec 4) : RoundTrip.Statement (.admitC rd ra g) := by
  intro pl hp hw
  obtain rfl : _ = pl := Option.some.inj hp
  have hr : InRange [(6, 50), fv rd, fv ra, (12, 0), fv g] := by
    simp only [inRange_cons, inRange_nil, fv_lt, and_true, true_and]
    decide
  have hb := pack_lt _ 0 0 (by decide) hr
  generalize hW : pack [(6, 50), fv rd, fv ra, (12, 0), fv g] 0 = W at hb
  have x3 : fld W 4 12 = 0 := fld_get hW hr 3 rfl rfl
  have x0 : fld W 26 6 = 50 := fld_get hW hr 0 rfl rfl
  have x1 : fld W 21 5 = rd.toNat := fld_get hW hr 1 rfl rfl
  have b1 : bits W 21 5 = rd := bits_of x1
  have x2 : fld W 16 5 = ra.toNat := fld_get hW hr 2 rfl rfl
  have b2 : bits W 16 5 = ra := bits_of x2
  have x4 : fld W 0 4 = g.toNat := fld_get hW hr 4 rfl rfl
  have b4 : bits W 0 4 = g := bits_of x4
  refine decodeAt_encode hW hb ?_ hw
  simp [rawAt, rawBoth, rawSxOnly, rawSxOnly32, x3, x0, b1, b2, b4]

theorem RoundTrip.admitX (rd : BitVec 5) (ra : BitVec 5) (g : BitVec 4) : RoundTrip.Statement (.admitX rd ra g) := by
  intro pl hp hw
  obtain rfl : _ = pl := Option.some.inj hp
  have hr : InRange [(6, 50), fv rd, fv ra, (12, 2048), fv g] := by
    simp only [inRange_cons, inRange_nil, fv_lt, and_true, true_and]
    decide
  have hb := pack_lt _ 0 0 (by decide) hr
  generalize hW : pack [(6, 50), fv rd, fv ra, (12, 2048), fv g] 0 = W at hb
  have x3 : fld W 4 12 = 2048 := fld_get hW hr 3 rfl rfl
  have x0 : fld W 26 6 = 50 := fld_get hW hr 0 rfl rfl
  have x1 : fld W 21 5 = rd.toNat := fld_get hW hr 1 rfl rfl
  have b1 : bits W 21 5 = rd := bits_of x1
  have x2 : fld W 16 5 = ra.toNat := fld_get hW hr 2 rfl rfl
  have b2 : bits W 16 5 = ra := bits_of x2
  have x4 : fld W 0 4 = g.toNat := fld_get hW hr 4 rfl rfl
  have b4 : bits W 0 4 = g := bits_of x4
  refine decodeAt_encode hW hb ?_ hw
  simp [rawAt, rawBoth, rawSxOnly, rawSxOnly32, x3, x0, b1, b2, b4]

theorem RoundTrip.gsig (rd : BitVec 5) (ra : BitVec 5) (bnd : BitVec 8) (g : BitVec 4) : RoundTrip.Statement (.gsig rd ra bnd g) := by
  intro pl hp hw
  obtain rfl : _ = pl := Option.some.inj hp
  have hr : InRange [(6, 52), fv rd, fv ra, (4, 0), fv bnd, fv g] := by
    simp only [inRange_cons, inRange_nil, fv_lt, and_true, true_and]
    decide
  have hb := pack_lt _ 0 0 (by decide) hr
  generalize hW : pack [(6, 52), fv rd, fv ra, (4, 0), fv bnd, fv g] 0 = W at hb
  have x3 : fld W 12 4 = 0 := fld_get hW hr 3 rfl rfl
  have x0 : fld W 26 6 = 52 := fld_get hW hr 0 rfl rfl
  have x1 : fld W 21 5 = rd.toNat := fld_get hW hr 1 rfl rfl
  have b1 : bits W 21 5 = rd := bits_of x1
  have x2 : fld W 16 5 = ra.toNat := fld_get hW hr 2 rfl rfl
  have b2 : bits W 16 5 = ra := bits_of x2
  have x4 : fld W 4 8 = bnd.toNat := fld_get hW hr 4 rfl rfl
  have b4 : bits W 4 8 = bnd := bits_of x4
  have x5 : fld W 0 4 = g.toNat := fld_get hW hr 5 rfl rfl
  have b5 : bits W 0 4 = g := bits_of x5
  refine decodeAt_encode hW hb ?_ hw
  simp [rawAt, rawBoth, rawSxOnly, rawSxOnly34, x3, x0, b1, b2, b4, b5]

theorem RoundTrip.gwait (rd : BitVec 5) (ra : BitVec 5) (bnd : BitVec 8) (g : BitVec 4) : RoundTrip.Statement (.gwait rd ra bnd g) := by
  intro pl hp hw
  obtain rfl : _ = pl := Option.some.inj hp
  have hr : InRange [(6, 53), fv rd, fv ra, (4, 0), fv bnd, fv g] := by
    simp only [inRange_cons, inRange_nil, fv_lt, and_true, true_and]
    decide
  have hb := pack_lt _ 0 0 (by decide) hr
  generalize hW : pack [(6, 53), fv rd, fv ra, (4, 0), fv bnd, fv g] 0 = W at hb
  have x3 : fld W 12 4 = 0 := fld_get hW hr 3 rfl rfl
  have x0 : fld W 26 6 = 53 := fld_get hW hr 0 rfl rfl
  have x1 : fld W 21 5 = rd.toNat := fld_get hW hr 1 rfl rfl
  have b1 : bits W 21 5 = rd := bits_of x1
  have x2 : fld W 16 5 = ra.toNat := fld_get hW hr 2 rfl rfl
  have b2 : bits W 16 5 = ra := bits_of x2
  have x4 : fld W 4 8 = bnd.toNat := fld_get hW hr 4 rfl rfl
  have b4 : bits W 4 8 = bnd := bits_of x4
  have x5 : fld W 0 4 = g.toNat := fld_get hW hr 5 rfl rfl
  have b5 : bits W 0 4 = g := bits_of x5
  refine decodeAt_encode hW hb ?_ hw
  simp [rawAt, rawBoth, rawSxOnly, rawSxOnly35, x3, x0, b1, b2, b4, b5]

theorem RoundTrip.gpoll (rd : BitVec 5) (ra : BitVec 5) (bnd : BitVec 8) (g : BitVec 4) : RoundTrip.Statement (.gpoll rd ra bnd g) := by
  intro pl hp hw
  obtain rfl : _ = pl := Option.some.inj hp
  have hr : InRange [(6, 54), fv rd, fv ra, (4, 0), fv bnd, fv g] := by
    simp only [inRange_cons, inRange_nil, fv_lt, and_true, true_and]
    decide
  have hb := pack_lt _ 0 0 (by decide) hr
  generalize hW : pack [(6, 54), fv rd, fv ra, (4, 0), fv bnd, fv g] 0 = W at hb
  have x3 : fld W 12 4 = 0 := fld_get hW hr 3 rfl rfl
  have x0 : fld W 26 6 = 54 := fld_get hW hr 0 rfl rfl
  have x1 : fld W 21 5 = rd.toNat := fld_get hW hr 1 rfl rfl
  have b1 : bits W 21 5 = rd := bits_of x1
  have x2 : fld W 16 5 = ra.toNat := fld_get hW hr 2 rfl rfl
  have b2 : bits W 16 5 = ra := bits_of x2
  have x4 : fld W 4 8 = bnd.toNat := fld_get hW hr 4 rfl rfl
  have b4 : bits W 4 8 = bnd := bits_of x4
  have x5 : fld W 0 4 = g.toNat := fld_get hW hr 5 rfl rfl
  have b5 : bits W 0 4 = g := bits_of x5
  refine decodeAt_encode hW hb ?_ hw
  simp [rawAt, rawBoth, rawSxOnly, rawSxOnly36, x3, x0, b1, b2, b4, b5]

theorem RoundTrip.barra (rd : BitVec 5) (ra : BitVec 5) (bar : BitVec 6) (g : BitVec 4) : RoundTrip.Statement (.barra rd ra bar g) := by
  intro pl hp hw
  obtain rfl : _ = pl := Option.some.inj hp
  have hr : InRange [(6, 56), fv rd, fv ra, (6, 0), fv bar, fv g] := by
    simp only [inRange_cons, inRange_nil, fv_lt, and_true, true_and]
    decide
  have hb := pack_lt _ 0 0 (by decide) hr
  generalize hW : pack [(6, 56), fv rd, fv ra, (6, 0), fv bar, fv g] 0 = W at hb
  have x3 : fld W 10 6 = 0 := fld_get hW hr 3 rfl rfl
  have x0 : fld W 26 6 = 56 := fld_get hW hr 0 rfl rfl
  have x1 : fld W 21 5 = rd.toNat := fld_get hW hr 1 rfl rfl
  have b1 : bits W 21 5 = rd := bits_of x1
  have x2 : fld W 16 5 = ra.toNat := fld_get hW hr 2 rfl rfl
  have b2 : bits W 16 5 = ra := bits_of x2
  have x4 : fld W 4 6 = bar.toNat := fld_get hW hr 4 rfl rfl
  have b4 : bits W 4 6 = bar := bits_of x4
  have x5 : fld W 0 4 = g.toNat := fld_get hW hr 5 rfl rfl
  have b5 : bits W 0 4 = g := bits_of x5
  have n10_11_1 : ¬ fld W 10 11 = 1 := fld_ne x3 10 6 (by decide)
  refine decodeAt_encode hW hb ?_ hw
  simp [rawAt, rawBoth, rawSxOnly, rawSxOnly38, x3, x0, b1, b2, b4, b5, n10_11_1]

theorem RoundTrip.barraQ (rd : BitVec 5) (bar : BitVec 6) (g : BitVec 4) : RoundTrip.Statement (.barraQ rd bar g) := by
  intro pl hp hw
  obtain rfl : _ = pl := Option.some.inj hp
  have hr : InRange [(6, 56), fv rd, (11, 1), fv bar, fv g] := by
    simp only [inRange_cons, inRange_nil, fv_lt, and_true, true_and]
    decide
  have hb := pack_lt _ 0 0 (by decide) hr
  generalize hW : pack [(6, 56), fv rd, (11, 1), fv bar, fv g] 0 = W at hb
  have x2 : fld W 10 11 = 1 := fld_get hW hr 2 rfl rfl
  have g10_6 : fld W 10 6 = 1 := fld_part x2 10 6 (by decide) rfl
  have x0 : fld W 26 6 = 56 := fld_get hW hr 0 rfl rfl
  have x1 : fld W 21 5 = rd.toNat := fld_get hW hr 1 rfl rfl
  have b1 : bits W 21 5 = rd := bits_of x1
  have x3 : fld W 4 6 = bar.toNat := fld_get hW hr 3 rfl rfl
  have b3 : bits W 4 6 = bar := bits_of x3
  have x4 : fld W 0 4 = g.toNat := fld_get hW hr 4 rfl rfl
  have b4 : bits W 0 4 = g := bits_of x4
  refine decodeAt_encode hW hb ?_ hw
  simp [rawAt, rawBoth, rawSxOnly, rawSxOnly38, g10_6, x2, x0, b1, b3, b4]

theorem RoundTrip.barrw (ra : BitVec 5) (bar : BitVec 6) (g : BitVec 4) : RoundTrip.Statement (.barrw ra bar g) := by
  intro pl hp hw
  obtain rfl : _ = pl := Option.some.inj hp
  have hr : InRange [(11, 1824), fv ra, (6, 0), fv bar, fv g] := by
    simp only [inRange_cons, inRange_nil, fv_lt, and_true, true_and]
    decide
  have hb := pack_lt _ 0 0 (by decide) hr
  generalize hW : pack [(11, 1824), fv ra, (6, 0), fv bar, fv g] 0 = W at hb
  have x2 : fld W 10 6 = 0 := fld_get hW hr 2 rfl rfl
  have x0 : fld W 21 11 = 1824 := fld_get hW hr 0 rfl rfl
  have g21_5 : fld W 21 5 = 0 := fld_part x0 21 5 (by decide) rfl
  have g26_6 : fld W 26 6 = 57 := fld_part x0 26 6 (by decide) rfl
  have x1 : fld W 16 5 = ra.toNat := fld_get hW hr 1 rfl rfl
  have b1 : bits W 16 5 = ra := bits_of x1
  have x3 : fld W 4 6 = bar.toNat := fld_get hW hr 3 rfl rfl
  have b3 : bits W 4 6 = bar := bits_of x3
  have x4 : fld W 0 4 = g.toNat := fld_get hW hr 4 rfl rfl
  have b4 : bits W 0 4 = g := bits_of x4
  refine decodeAt_encode hW hb ?_ hw
  simp [rawAt, rawBoth, rawSxOnly, rawSxOnly39, x2, g21_5, g26_6, b1, b3, b4]

theorem RoundTrip.sstep (rd : BitVec 5) (g : BitVec 4) : RoundTrip.Statement (.sstep rd g) := by
  intro pl hp hw
  obtain rfl : _ = pl := Option.some.inj hp
  have hr : InRange [(6, 58), fv rd, (17, 0), fv g] := by
    simp only [inRange_cons, inRange_nil, fv_lt, and_true, true_and]
    decide
  have hb := pack_lt _ 0 0 (by decide) hr
  generalize hW : pack [(6, 58), fv rd, (17, 0), fv g] 0 = W at hb
  have x2 : fld W 4 17 = 0 := fld_get hW hr 2 rfl rfl
  have x0 : fld W 26 6 = 58 := fld_get hW hr 0 rfl rfl
  have x1 : fld W 21 5 = rd.toNat := fld_get hW hr 1 rfl rfl
  have b1 : bits W 21 5 = rd := bits_of x1
  have x3 : fld W 0 4 = g.toNat := fld_get hW hr 3 rfl rfl
  have b3 : bits W 0 4 = g := bits_of x3
  refine decodeAt_encode hW hb ?_ hw
  simp [rawAt, rawBoth, rawSxOnly, rawSxOnly3A, x2, x0, b1, b3]

theorem RoundTrip.fence (scope : BitVec 3) (g : BitVec 4) : RoundTrip.Statement (.fence scope g) := by
  intro pl hp hw
  obtain rfl : _ = pl := Option.some.inj hp
  have hr : InRange [(25, 30932992), fv scope, fv g] := by
    simp only [inRange_cons, inRange_nil, fv_lt, and_true, true_and]
    decide
  have hb := pack_lt _ 0 0 (by decide) hr
  generalize hW : pack [(25, 30932992), fv scope, fv g] 0 = W at hb
  have x0 : fld W 7 25 = 30932992 := fld_get hW hr 0 rfl rfl
  have g7_19 : fld W 7 19 = 0 := fld_part x0 7 19 (by decide) rfl
  have g26_6 : fld W 26 6 = 59 := fld_part x0 26 6 (by decide) rfl
  have x1 : fld W 4 3 = scope.toNat := fld_get hW hr 1 rfl rfl
  have b1 : bits W 4 3 = scope := bits_of x1
  have x2 : fld W 0 4 = g.toNat := fld_get hW hr 2 rfl rfl
  have b2 : bits W 0 4 = g := bits_of x2
  refine decodeAt_encode hW hb ?_ hw
  simp [rawAt, rawBoth, rawSxOnly, rawSxOnly3B, g7_19, g26_6, b1, b2]

theorem RoundTrip.cut (rd : BitVec 5) (ra : BitVec 5) (g : BitVec 4) : RoundTrip.Statement (.cut rd ra g) := by
  intro pl hp hw
  obtain rfl : _ = pl := Option.some.inj hp
  have hr : InRange [(6, 60), fv rd, fv ra, (12, 0), fv g] := by
    simp only [inRange_cons, inRange_nil, fv_lt, and_true, true_and]
    decide
  have hb := pack_lt _ 0 0 (by decide) hr
  generalize hW : pack [(6, 60), fv rd, fv ra, (12, 0), fv g] 0 = W at hb
  have x3 : fld W 4 12 = 0 := fld_get hW hr 3 rfl rfl
  have x0 : fld W 26 6 = 60 := fld_get hW hr 0 rfl rfl
  have x1 : fld W 21 5 = rd.toNat := fld_get hW hr 1 rfl rfl
  have b1 : bits W 21 5 = rd := bits_of x1
  have x2 : fld W 16 5 = ra.toNat := fld_get hW hr 2 rfl rfl
  have b2 : bits W 16 5 = ra := bits_of x2
  have x4 : fld W 0 4 = g.toNat := fld_get hW hr 4 rfl rfl
  have b4 : bits W 0 4 = g := bits_of x4
  refine decodeAt_encode hW hb ?_ hw
  simp [rawAt, rawBoth, rawSxOnly, rawSxOnly3C, x3, x0, b1, b2, b4]

theorem RoundTrip.ldb (reg : BitVec 6) (base : BitVec 5) (off : BitVec 10) (g : BitVec 3) : RoundTrip.Statement (.ldb reg base off g) := by
  intro pl hp hw
  obtain rfl : _ = pl := Option.some.inj hp
  have hr : InRange [(6, 1), fv reg, fv base, fv off, (2, 0), fv g] := by
    simp only [inRange_cons, inRange_nil, fv_lt, and_true, true_and]
    decide
  have hb := pack_lt _ 0 0 (by decide) hr
  generalize hW : pack [(6, 1), fv reg, fv base, fv off, (2, 0), fv g] 0 = W at hb
  have x4 : fld W 3 2 = 0 := fld_get hW hr 4 rfl rfl
  have x0 : fld W 26 6 = 1 := fld_get hW hr 0 rfl rfl
  have x1 : fld W 20 6 = reg.toNat := fld_get hW hr 1 rfl rfl
  have b1 : bits W 20 6 = reg := bits_of x1
  have x2 : fld W 15 5 = base.toNat := fld_get hW hr 2 rfl rfl
  have b2 : bits W 15 5 = base := bits_of x2
  have x3 : fld W 5 10 = off.toNat := fld_get hW hr 3 rfl rfl
  have b3 : bits W 5 10 = off := bits_of x3
  have x5 : fld W 0 3 = g.toNat := fld_get hW hr 5 rfl rfl
  have b5 : bits W 0 3 = g := bits_of x5
  refine decodeAt_encode hW hb ?_ hw
  simp [rawAt, rawLs, rawLs01, x4, x0, b1, b2, b3, b5]

theorem RoundTrip.ldh (reg : BitVec 6) (base : BitVec 5) (off : BitVec 10) (g : BitVec 3) : RoundTrip.Statement (.ldh reg base off g) := by
  intro pl hp hw
  obtain rfl : _ = pl := Option.some.inj hp
  have hr : InRange [(6, 2), fv reg, fv base, fv off, (2, 0), fv g] := by
    simp only [inRange_cons, inRange_nil, fv_lt, and_true, true_and]
    decide
  have hb := pack_lt _ 0 0 (by decide) hr
  generalize hW : pack [(6, 2), fv reg, fv base, fv off, (2, 0), fv g] 0 = W at hb
  have x4 : fld W 3 2 = 0 := fld_get hW hr 4 rfl rfl
  have x0 : fld W 26 6 = 2 := fld_get hW hr 0 rfl rfl
  have x1 : fld W 20 6 = reg.toNat := fld_get hW hr 1 rfl rfl
  have b1 : bits W 20 6 = reg := bits_of x1
  have x2 : fld W 15 5 = base.toNat := fld_get hW hr 2 rfl rfl
  have b2 : bits W 15 5 = base := bits_of x2
  have x3 : fld W 5 10 = off.toNat := fld_get hW hr 3 rfl rfl
  have b3 : bits W 5 10 = off := bits_of x3
  have x5 : fld W 0 3 = g.toNat := fld_get hW hr 5 rfl rfl
  have b5 : bits W 0 3 = g := bits_of x5
  refine decodeAt_encode hW hb ?_ hw
  simp [rawAt, rawLs, rawLs02, x4, x0, b1, b2, b3, b5]

theorem RoundTrip.ldw (reg : BitVec 6) (base : BitVec 5) (off : BitVec 10) (g : BitVec 3) : RoundTrip.Statement (.ldw reg base off g) := by
  intro pl hp hw
  obtain rfl : _ = pl := Option.some.inj hp
  have hr : InRange [(6, 3), fv reg, fv base, fv off, (2, 0), fv g] := by
    simp only [inRange_cons, inRange_nil, fv_lt, and_true, true_and]
    decide
  have hb := pack_lt _ 0 0 (by decide) hr
  generalize hW : pack [(6, 3), fv reg, fv base, fv off, (2, 0), fv g] 0 = W at hb
  have x4 : fld W 3 2 = 0 := fld_get hW hr 4 rfl rfl
  have x0 : fld W 26 6 = 3 := fld_get hW hr 0 rfl rfl
  have x1 : fld W 20 6 = reg.toNat := fld_get hW hr 1 rfl rfl
  have b1 : bits W 20 6 = reg := bits_of x1
  have x2 : fld W 15 5 = base.toNat := fld_get hW hr 2 rfl rfl
  have b2 : bits W 15 5 = base := bits_of x2
  have x3 : fld W 5 10 = off.toNat := fld_get hW hr 3 rfl rfl
  have b3 : bits W 5 10 = off := bits_of x3
  have x5 : fld W 0 3 = g.toNat := fld_get hW hr 5 rfl rfl
  have b5 : bits W 0 3 = g := bits_of x5
  refine decodeAt_encode hW hb ?_ hw
  simp [rawAt, rawLs, rawLs03, x4, x0, b1, b2, b3, b5]

theorem RoundTrip.ldd (reg : BitVec 6) (base : BitVec 5) (off : BitVec 10) (g : BitVec 3) : RoundTrip.Statement (.ldd reg base off g) := by
  intro pl hp hw
  obtain rfl : _ = pl := Option.some.inj hp
  have hr : InRange [(6, 4), fv reg, fv base, fv off, (2, 0), fv g] := by
    simp only [inRange_cons, inRange_nil, fv_lt, and_true, true_and]
    decide
  have hb := pack_lt _ 0 0 (by decide) hr
  generalize hW : pack [(6, 4), fv reg, fv base, fv off, (2, 0), fv g] 0 = W at hb
  have x4 : fld W 3 2 = 0 := fld_get hW hr 4 rfl rfl
  have x0 : fld W 26 6 = 4 := fld_get hW hr 0 rfl rfl
  have x1 : fld W 20 6 = reg.toNat := fld_get hW hr 1 rfl rfl
  have b1 : bits W 20 6 = reg := bits_of x1
  have x2 : fld W 15 5 = base.toNat := fld_get hW hr 2 rfl rfl
  have b2 : bits W 15 5 = base := bits_of x2
  have x3 : fld W 5 10 = off.toNat := fld_get hW hr 3 rfl rfl
  have b3 : bits W 5 10 = off := bits_of x3
  have x5 : fld W 0 3 = g.toNat := fld_get hW hr 5 rfl rfl
  have b5 : bits W 0 3 = g := bits_of x5
  refine decodeAt_encode hW hb ?_ hw
  simp [rawAt, rawLs, rawLs04, x4, x0, b1, b2, b3, b5]

theorem RoundTrip.ldbz (reg : BitVec 6) (base : BitVec 5) (off : BitVec 10) (g : BitVec 3) : RoundTrip.Statement (.ldbz reg base off g) := by
  intro pl hp hw
  obtain rfl : _ = pl := Option.some.inj hp
  have hr : InRange [(6, 5), fv reg, fv base, fv off, (2, 0), fv g] := by
    simp only [inRange_cons, inRange_nil, fv_lt, and_true, true_and]
    decide
  have hb := pack_lt _ 0 0 (by decide) hr
  generalize hW : pack [(6, 5), fv reg, fv base, fv off, (2, 0), fv g] 0 = W at hb
  have x4 : fld W 3 2 = 0 := fld_get hW hr 4 rfl rfl
  have x0 : fld W 26 6 = 5 := fld_get hW hr 0 rfl rfl
  have x1 : fld W 20 6 = reg.toNat := fld_get hW hr 1 rfl rfl
  have b1 : bits W 20 6 = reg := bits_of x1
  have x2 : fld W 15 5 = base.toNat := fld_get hW hr 2 rfl rfl
  have b2 : bits W 15 5 = base := bits_of x2
  have x3 : fld W 5 10 = off.toNat := fld_get hW hr 3 rfl rfl
  have b3 : bits W 5 10 = off := bits_of x3
  have x5 : fld W 0 3 = g.toNat := fld_get hW hr 5 rfl rfl
  have b5 : bits W 0 3 = g := bits_of x5
  refine decodeAt_encode hW hb ?_ hw
  simp [rawAt, rawLs, rawLs05, x4, x0, b1, b2, b3, b5]

theorem RoundTrip.ldhz (reg : BitVec 6) (base : BitVec 5) (off : BitVec 10) (g : BitVec 3) : RoundTrip.Statement (.ldhz reg base off g) := by
  intro pl hp hw
  obtain rfl : _ = pl := Option.some.inj hp
  have hr : InRange [(6, 6), fv reg, fv base, fv off, (2, 0), fv g] := by
    simp only [inRange_cons, inRange_nil, fv_lt, and_true, true_and]
    decide
  have hb := pack_lt _ 0 0 (by decide) hr
  generalize hW : pack [(6, 6), fv reg, fv base, fv off, (2, 0), fv g] 0 = W at hb
  have x4 : fld W 3 2 = 0 := fld_get hW hr 4 rfl rfl
  have x0 : fld W 26 6 = 6 := fld_get hW hr 0 rfl rfl
  have x1 : fld W 20 6 = reg.toNat := fld_get hW hr 1 rfl rfl
  have b1 : bits W 20 6 = reg := bits_of x1
  have x2 : fld W 15 5 = base.toNat := fld_get hW hr 2 rfl rfl
  have b2 : bits W 15 5 = base := bits_of x2
  have x3 : fld W 5 10 = off.toNat := fld_get hW hr 3 rfl rfl
  have b3 : bits W 5 10 = off := bits_of x3
  have x5 : fld W 0 3 = g.toNat := fld_get hW hr 5 rfl rfl
  have b5 : bits W 0 3 = g := bits_of x5
  refine decodeAt_encode hW hb ?_ hw
  simp [rawAt, rawLs, rawLs06, x4, x0, b1, b2, b3, b5]

theorem RoundTrip.ldwz (reg : BitVec 6) (base : BitVec 5) (off : BitVec 10) (g : BitVec 3) : RoundTrip.Statement (.ldwz reg base off g) := by
  intro pl hp hw
  obtain rfl : _ = pl := Option.some.inj hp
  have hr : InRange [(6, 7), fv reg, fv base, fv off, (2, 0), fv g] := by
    simp only [inRange_cons, inRange_nil, fv_lt, and_true, true_and]
    decide
  have hb := pack_lt _ 0 0 (by decide) hr
  generalize hW : pack [(6, 7), fv reg, fv base, fv off, (2, 0), fv g] 0 = W at hb
  have x4 : fld W 3 2 = 0 := fld_get hW hr 4 rfl rfl
  have x0 : fld W 26 6 = 7 := fld_get hW hr 0 rfl rfl
  have x1 : fld W 20 6 = reg.toNat := fld_get hW hr 1 rfl rfl
  have b1 : bits W 20 6 = reg := bits_of x1
  have x2 : fld W 15 5 = base.toNat := fld_get hW hr 2 rfl rfl
  have b2 : bits W 15 5 = base := bits_of x2
  have x3 : fld W 5 10 = off.toNat := fld_get hW hr 3 rfl rfl
  have b3 : bits W 5 10 = off := bits_of x3
  have x5 : fld W 0 3 = g.toNat := fld_get hW hr 5 rfl rfl
  have b5 : bits W 0 3 = g := bits_of x5
  refine decodeAt_encode hW hb ?_ hw
  simp [rawAt, rawLs, rawLs07, x4, x0, b1, b2, b3, b5]

theorem RoundTrip.stb (reg : BitVec 6) (base : BitVec 5) (off : BitVec 10) (g : BitVec 3) : RoundTrip.Statement (.stb reg base off g) := by
  intro pl hp hw
  obtain rfl : _ = pl := Option.some.inj hp
  have hr : InRange [(6, 8), fv reg, fv base, fv off, (2, 0), fv g] := by
    simp only [inRange_cons, inRange_nil, fv_lt, and_true, true_and]
    decide
  have hb := pack_lt _ 0 0 (by decide) hr
  generalize hW : pack [(6, 8), fv reg, fv base, fv off, (2, 0), fv g] 0 = W at hb
  have x4 : fld W 3 2 = 0 := fld_get hW hr 4 rfl rfl
  have x0 : fld W 26 6 = 8 := fld_get hW hr 0 rfl rfl
  have x1 : fld W 20 6 = reg.toNat := fld_get hW hr 1 rfl rfl
  have b1 : bits W 20 6 = reg := bits_of x1
  have x2 : fld W 15 5 = base.toNat := fld_get hW hr 2 rfl rfl
  have b2 : bits W 15 5 = base := bits_of x2
  have x3 : fld W 5 10 = off.toNat := fld_get hW hr 3 rfl rfl
  have b3 : bits W 5 10 = off := bits_of x3
  have x5 : fld W 0 3 = g.toNat := fld_get hW hr 5 rfl rfl
  have b5 : bits W 0 3 = g := bits_of x5
  refine decodeAt_encode hW hb ?_ hw
  simp [rawAt, rawLs, rawLs08, x4, x0, b1, b2, b3, b5]

theorem RoundTrip.sth (reg : BitVec 6) (base : BitVec 5) (off : BitVec 10) (g : BitVec 3) : RoundTrip.Statement (.sth reg base off g) := by
  intro pl hp hw
  obtain rfl : _ = pl := Option.some.inj hp
  have hr : InRange [(6, 9), fv reg, fv base, fv off, (2, 0), fv g] := by
    simp only [inRange_cons, inRange_nil, fv_lt, and_true, true_and]
    decide
  have hb := pack_lt _ 0 0 (by decide) hr
  generalize hW : pack [(6, 9), fv reg, fv base, fv off, (2, 0), fv g] 0 = W at hb
  have x4 : fld W 3 2 = 0 := fld_get hW hr 4 rfl rfl
  have x0 : fld W 26 6 = 9 := fld_get hW hr 0 rfl rfl
  have x1 : fld W 20 6 = reg.toNat := fld_get hW hr 1 rfl rfl
  have b1 : bits W 20 6 = reg := bits_of x1
  have x2 : fld W 15 5 = base.toNat := fld_get hW hr 2 rfl rfl
  have b2 : bits W 15 5 = base := bits_of x2
  have x3 : fld W 5 10 = off.toNat := fld_get hW hr 3 rfl rfl
  have b3 : bits W 5 10 = off := bits_of x3
  have x5 : fld W 0 3 = g.toNat := fld_get hW hr 5 rfl rfl
  have b5 : bits W 0 3 = g := bits_of x5
  refine decodeAt_encode hW hb ?_ hw
  simp [rawAt, rawLs, rawLs09, x4, x0, b1, b2, b3, b5]

theorem RoundTrip.stw (reg : BitVec 6) (base : BitVec 5) (off : BitVec 10) (g : BitVec 3) : RoundTrip.Statement (.stw reg base off g) := by
  intro pl hp hw
  obtain rfl : _ = pl := Option.some.inj hp
  have hr : InRange [(6, 10), fv reg, fv base, fv off, (2, 0), fv g] := by
    simp only [inRange_cons, inRange_nil, fv_lt, and_true, true_and]
    decide
  have hb := pack_lt _ 0 0 (by decide) hr
  generalize hW : pack [(6, 10), fv reg, fv base, fv off, (2, 0), fv g] 0 = W at hb
  have x4 : fld W 3 2 = 0 := fld_get hW hr 4 rfl rfl
  have x0 : fld W 26 6 = 10 := fld_get hW hr 0 rfl rfl
  have x1 : fld W 20 6 = reg.toNat := fld_get hW hr 1 rfl rfl
  have b1 : bits W 20 6 = reg := bits_of x1
  have x2 : fld W 15 5 = base.toNat := fld_get hW hr 2 rfl rfl
  have b2 : bits W 15 5 = base := bits_of x2
  have x3 : fld W 5 10 = off.toNat := fld_get hW hr 3 rfl rfl
  have b3 : bits W 5 10 = off := bits_of x3
  have x5 : fld W 0 3 = g.toNat := fld_get hW hr 5 rfl rfl
  have b5 : bits W 0 3 = g := bits_of x5
  refine decodeAt_encode hW hb ?_ hw
  simp [rawAt, rawLs, rawLs0A, x4, x0, b1, b2, b3, b5]

theorem RoundTrip.std (reg : BitVec 6) (base : BitVec 5) (off : BitVec 10) (g : BitVec 3) : RoundTrip.Statement (.std reg base off g) := by
  intro pl hp hw
  obtain rfl : _ = pl := Option.some.inj hp
  have hr : InRange [(6, 11), fv reg, fv base, fv off, (2, 0), fv g] := by
    simp only [inRange_cons, inRange_nil, fv_lt, and_true, true_and]
    decide
  have hb := pack_lt _ 0 0 (by decide) hr
  generalize hW : pack [(6, 11), fv reg, fv base, fv off, (2, 0), fv g] 0 = W at hb
  have x4 : fld W 3 2 = 0 := fld_get hW hr 4 rfl rfl
  have x0 : fld W 26 6 = 11 := fld_get hW hr 0 rfl rfl
  have x1 : fld W 20 6 = reg.toNat := fld_get hW hr 1 rfl rfl
  have b1 : bits W 20 6 = reg := bits_of x1
  have x2 : fld W 15 5 = base.toNat := fld_get hW hr 2 rfl rfl
  have b2 : bits W 15 5 = base := bits_of x2
  have x3 : fld W 5 10 = off.toNat := fld_get hW hr 3 rfl rfl
  have b3 : bits W 5 10 = off := bits_of x3
  have x5 : fld W 0 3 = g.toNat := fld_get hW hr 5 rfl rfl
  have b5 : bits W 0 3 = g := bits_of x5
  refine decodeAt_encode hW hb ?_ hw
  simp [rawAt, rawLs, rawLs0B, x4, x0, b1, b2, b3, b5]

theorem RoundTrip.vld (reg : BitVec 6) (base : BitVec 5) (off : BitVec 10) (g : BitVec 3) : RoundTrip.Statement (.vld reg base off g) := by
  intro pl hp hw
  obtain rfl : _ = pl := Option.some.inj hp
  have hr : InRange [(6, 12), fv reg, fv base, fv off, (2, 0), fv g] := by
    simp only [inRange_cons, inRange_nil, fv_lt, and_true, true_and]
    decide
  have hb := pack_lt _ 0 0 (by decide) hr
  generalize hW : pack [(6, 12), fv reg, fv base, fv off, (2, 0), fv g] 0 = W at hb
  have x4 : fld W 3 2 = 0 := fld_get hW hr 4 rfl rfl
  have x0 : fld W 26 6 = 12 := fld_get hW hr 0 rfl rfl
  have x1 : fld W 20 6 = reg.toNat := fld_get hW hr 1 rfl rfl
  have b1 : bits W 20 6 = reg := bits_of x1
  have x2 : fld W 15 5 = base.toNat := fld_get hW hr 2 rfl rfl
  have b2 : bits W 15 5 = base := bits_of x2
  have x3 : fld W 5 10 = off.toNat := fld_get hW hr 3 rfl rfl
  have b3 : bits W 5 10 = off := bits_of x3
  have x5 : fld W 0 3 = g.toNat := fld_get hW hr 5 rfl rfl
  have b5 : bits W 0 3 = g := bits_of x5
  refine decodeAt_encode hW hb ?_ hw
  simp [rawAt, rawLs, rawLs0C, x4, x0, b1, b2, b3, b5]

theorem RoundTrip.vst (reg : BitVec 6) (base : BitVec 5) (off : BitVec 10) (g : BitVec 3) : RoundTrip.Statement (.vst reg base off g) := by
  intro pl hp hw
  obtain rfl : _ = pl := Option.some.inj hp
  have hr : InRange [(6, 13), fv reg, fv base, fv off, (2, 0), fv g] := by
    simp only [inRange_cons, inRange_nil, fv_lt, and_true, true_and]
    decide
  have hb := pack_lt _ 0 0 (by decide) hr
  generalize hW : pack [(6, 13), fv reg, fv base, fv off, (2, 0), fv g] 0 = W at hb
  have x4 : fld W 3 2 = 0 := fld_get hW hr 4 rfl rfl
  have x0 : fld W 26 6 = 13 := fld_get hW hr 0 rfl rfl
  have x1 : fld W 20 6 = reg.toNat := fld_get hW hr 1 rfl rfl
  have b1 : bits W 20 6 = reg := bits_of x1
  have x2 : fld W 15 5 = base.toNat := fld_get hW hr 2 rfl rfl
  have b2 : bits W 15 5 = base := bits_of x2
  have x3 : fld W 5 10 = off.toNat := fld_get hW hr 3 rfl rfl
  have b3 : bits W 5 10 = off := bits_of x3
  have x5 : fld W 0 3 = g.toNat := fld_get hW hr 5 rfl rfl
  have b5 : bits W 0 3 = g := bits_of x5
  refine decodeAt_encode hW hb ?_ hw
  simp [rawAt, rawLs, rawLs0D, x4, x0, b1, b2, b3, b5]

theorem RoundTrip.aintAddW (d : BitVec 6) (base : BitVec 5) (s : BitVec 6) (ord : Bool) (g : BitVec 3) : RoundTrip.Statement (.aintAddW d base s ord g) := by
  intro pl hp hw
  obtain rfl : _ = pl := Option.some.inj hp
  have hr : InRange [(6, 16), fv d, fv base, fv s, (5, 0), fb ord, fv g] := by
    simp only [inRange_cons, inRange_nil, fv_lt, fb_lt, and_true, true_and]
    decide
  have hb := pack_lt _ 0 0 (by decide) hr
  generalize hW : pack [(6, 16), fv d, fv base, fv s, (5, 0), fb ord, fv g] 0 = W at hb
  have x4 : fld W 4 5 = 0 := fld_get hW hr 4 rfl rfl
  have x0 : fld W 26 6 = 16 := fld_get hW hr 0 rfl rfl
  have x1 : fld W 20 6 = d.toNat := fld_get hW hr 1 rfl rfl
  have b1 : bits W 20 6 = d := bits_of x1
  have x2 : fld W 15 5 = base.toNat := fld_get hW hr 2 rfl rfl
  have b2 : bits W 15 5 = base := bits_of x2
  have x3 : fld W 9 6 = s.toNat := fld_get hW hr 3 rfl rfl
  have b3 : bits W 9 6 = s := bits_of x3
  have x5 : fld W 3 1 = bit ord := fld_get hW hr 5 rfl rfl
  have b5 : flag W 3 = ord := flag_of x5
  have x6 : fld W 0 3 = g.toNat := fld_get hW hr 6 rfl rfl
  have b6 : bits W 0 3 = g := bits_of x6
  refine decodeAt_encode hW hb ?_ hw
  simp [rawAt, rawLs, rawLs10, x4, x0, b1, b2, b3, b5, b6]

theorem RoundTrip.aintAddD (d : BitVec 6) (base : BitVec 5) (s : BitVec 6) (ord : Bool) (g : BitVec 3) : RoundTrip.Statement (.aintAddD d base s ord g) := by
  intro pl hp hw
  obtain rfl : _ = pl := Option.some.inj hp
  have hr : InRange [(6, 16), fv d, fv base, fv s, (5, 1), fb ord, fv g] := by
    simp only [inRange_cons, inRange_nil, fv_lt, fb_lt, and_true, true_and]
    decide
  have hb := pack_lt _ 0 0 (by decide) hr
  generalize hW : pack [(6, 16), fv d, fv base, fv s, (5, 1), fb ord, fv g] 0 = W at hb
  have x4 : fld W 4 5 = 1 := fld_get hW hr 4 rfl rfl
  have x0 : fld W 26 6 = 16 := fld_get hW hr 0 rfl rfl
  have x1 : fld W 20 6 = d.toNat := fld_get hW hr 1 rfl rfl
  have b1 : bits W 20 6 = d := bits_of x1
  have x2 : fld W 15 5 = base.toNat := fld_get hW hr 2 rfl rfl
  have b2 : bits W 15 5 = base := bits_of x2
  have x3 : fld W 9 6 = s.toNat := fld_get hW hr 3 rfl rfl
  have b3 : bits W 9 6 = s := bits_of x3
  have x5 : fld W 3 1 = bit ord := fld_get hW hr 5 rfl rfl
  have b5 : flag W 3 = ord := flag_of x5
  have x6 : fld W 0 3 = g.toNat := fld_get hW hr 6 rfl rfl
  have b6 : bits W 0 3 = g := bits_of x6
  refine decodeAt_encode hW hb ?_ hw
  simp [rawAt, rawLs, rawLs10, x4, x0, b1, b2, b3, b5, b6]

theorem RoundTrip.aintAnd (d : BitVec 6) (base : BitVec 5) (s : BitVec 6) (ord : Bool) (g : BitVec 3) : RoundTrip.Statement (.aintAnd d base s ord g) := by
  intro pl hp hw
  obtain rfl : _ = pl := Option.some.inj hp
  have hr : InRange [(6, 16), fv d, fv base, fv s, (5, 2), fb ord, fv g] := by
    simp only [inRange_cons, inRange_nil, fv_lt, fb_lt, and_true, true_and]
    decide
  have hb := pack_lt _ 0 0 (by decide) hr
  generalize hW : pack [(6, 16), fv d, fv base, fv s, (5, 2), fb ord, fv g] 0 = W at hb
  have x4 : fld W 4 5 = 2 := fld_get hW hr 4 rfl rfl
  have x0 : fld W 26 6 = 16 := fld_get hW hr 0 rfl rfl
  have x1 : fld W 20 6 = d.toNat := fld_get hW hr 1 rfl rfl
  have b1 : bits W 20 6 = d := bits_of x1
  have x2 : fld W 15 5 = base.toNat := fld_get hW hr 2 rfl rfl
  have b2 : bits W 15 5 = base := bits_of x2
  have x3 : fld W 9 6 = s.toNat := fld_get hW hr 3 rfl rfl
  have b3 : bits W 9 6 = s := bits_of x3
  have x5 : fld W 3 1 = bit ord := fld_get hW hr 5 rfl rfl
  have b5 : flag W 3 = ord := flag_of x5
  have x6 : fld W 0 3 = g.toNat := fld_get hW hr 6 rfl rfl
  have b6 : bits W 0 3 = g := bits_of x6
  refine decodeAt_encode hW hb ?_ hw
  simp [rawAt, rawLs, rawLs10, x4, x0, b1, b2, b3, b5, b6]

theorem RoundTrip.aintOr (d : BitVec 6) (base : BitVec 5) (s : BitVec 6) (ord : Bool) (g : BitVec 3) : RoundTrip.Statement (.aintOr d base s ord g) := by
  intro pl hp hw
  obtain rfl : _ = pl := Option.some.inj hp
  have hr : InRange [(6, 16), fv d, fv base, fv s, (5, 3), fb ord, fv g] := by
    simp only [inRange_cons, inRange_nil, fv_lt, fb_lt, and_true, true_and]
    decide
  have hb := pack_lt _ 0 0 (by decide) hr
  generalize hW : pack [(6, 16), fv d, fv base, fv s, (5, 3), fb ord, fv g] 0 = W at hb
  have x4 : fld W 4 5 = 3 := fld_get hW hr 4 rfl rfl
  have x0 : fld W 26 6 = 16 := fld_get hW hr 0 rfl rfl
  have x1 : fld W 20 6 = d.toNat := fld_get hW hr 1 rfl rfl
  have b1 : bits W 20 6 = d := bits_of x1
  have x2 : fld W 15 5 = base.toNat := fld_get hW hr 2 rfl rfl
  have b2 : bits W 15 5 = base := bits_of x2
  have x3 : fld W 9 6 = s.toNat := fld_get hW hr 3 rfl rfl
  have b3 : bits W 9 6 = s := bits_of x3
  have x5 : fld W 3 1 = bit ord := fld_get hW hr 5 rfl rfl
  have b5 : flag W 3 = ord := flag_of x5
  have x6 : fld W 0 3 = g.toNat := fld_get hW hr 6 rfl rfl
  have b6 : bits W 0 3 = g := bits_of x6
  refine decodeAt_encode hW hb ?_ hw
  simp [rawAt, rawLs, rawLs10, x4, x0, b1, b2, b3, b5, b6]

theorem RoundTrip.aintXor (d : BitVec 6) (base : BitVec 5) (s : BitVec 6) (ord : Bool) (g : BitVec 3) : RoundTrip.Statement (.aintXor d base s ord g) := by
  intro pl hp hw
  obtain rfl : _ = pl := Option.some.inj hp
  have hr : InRange [(6, 16), fv d, fv base, fv s, (5, 4), fb ord, fv g] := by
    simp only [inRange_cons, inRange_nil, fv_lt, fb_lt, and_true, true_and]
    decide
  have hb := pack_lt _ 0 0 (by decide) hr
  generalize hW : pack [(6, 16), fv d, fv base, fv s, (5, 4), fb ord, fv g] 0 = W at hb
  have x4 : fld W 4 5 = 4 := fld_get hW hr 4 rfl rfl
  have x0 : fld W 26 6 = 16 := fld_get hW hr 0 rfl rfl
  have x1 : fld W 20 6 = d.toNat := fld_get hW hr 1 rfl rfl
  have b1 : bits W 20 6 = d := bits_of x1
  have x2 : fld W 15 5 = base.toNat := fld_get hW hr 2 rfl rfl
  have b2 : bits W 15 5 = base := bits_of x2
  have x3 : fld W 9 6 = s.toNat := fld_get hW hr 3 rfl rfl
  have b3 : bits W 9 6 = s := bits_of x3
  have x5 : fld W 3 1 = bit ord := fld_get hW hr 5 rfl rfl
  have b5 : flag W 3 = ord := flag_of x5
  have x6 : fld W 0 3 = g.toNat := fld_get hW hr 6 rfl rfl
  have b6 : bits W 0 3 = g := bits_of x6
  refine decodeAt_encode hW hb ?_ hw
  simp [rawAt, rawLs, rawLs10, x4, x0, b1, b2, b3, b5, b6]

theorem RoundTrip.aintMin (d : BitVec 6) (base : BitVec 5) (s : BitVec 6) (ord : Bool) (g : BitVec 3) : RoundTrip.Statement (.aintMin d base s ord g) := by
  intro pl hp hw
  obtain rfl : _ = pl := Option.some.inj hp
  have hr : InRange [(6, 16), fv d, fv base, fv s, (5, 5), fb ord, fv g] := by
    simp only [inRange_cons, inRange_nil, fv_lt, fb_lt, and_true, true_and]
    decide
  have hb := pack_lt _ 0 0 (by decide) hr
  generalize hW : pack [(6, 16), fv d, fv base, fv s, (5, 5), fb ord, fv g] 0 = W at hb
  have x4 : fld W 4 5 = 5 := fld_get hW hr 4 rfl rfl
  have x0 : fld W 26 6 = 16 := fld_get hW hr 0 rfl rfl
  have x1 : fld W 20 6 = d.toNat := fld_get hW hr 1 rfl rfl
  have b1 : bits W 20 6 = d := bits_of x1
  have x2 : fld W 15 5 = base.toNat := fld_get hW hr 2 rfl rfl
  have b2 : bits W 15 5 = base := bits_of x2
  have x3 : fld W 9 6 = s.toNat := fld_get hW hr 3 rfl rfl
  have b3 : bits W 9 6 = s := bits_of x3
  have x5 : fld W 3 1 = bit ord := fld_get hW hr 5 rfl rfl
  have b5 : flag W 3 = ord := flag_of x5
  have x6 : fld W 0 3 = g.toNat := fld_get hW hr 6 rfl rfl
  have b6 : bits W 0 3 = g := bits_of x6
  refine decodeAt_encode hW hb ?_ hw
  simp [rawAt, rawLs, rawLs10, x4, x0, b1, b2, b3, b5, b6]

theorem RoundTrip.aintMax (d : BitVec 6) (base : BitVec 5) (s : BitVec 6) (ord : Bool) (g : BitVec 3) : RoundTrip.Statement (.aintMax d base s ord g) := by
  intro pl hp hw
  obtain rfl : _ = pl := Option.some.inj hp
  have hr : InRange [(6, 16), fv d, fv base, fv s, (5, 6), fb ord, fv g] := by
    simp only [inRange_cons, inRange_nil, fv_lt, fb_lt, and_true, true_and]
    decide
  have hb := pack_lt _ 0 0 (by decide) hr
  generalize hW : pack [(6, 16), fv d, fv base, fv s, (5, 6), fb ord, fv g] 0 = W at hb
  have x4 : fld W 4 5 = 6 := fld_get hW hr 4 rfl rfl
  have x0 : fld W 26 6 = 16 := fld_get hW hr 0 rfl rfl
  have x1 : fld W 20 6 = d.toNat := fld_get hW hr 1 rfl rfl
  have b1 : bits W 20 6 = d := bits_of x1
  have x2 : fld W 15 5 = base.toNat := fld_get hW hr 2 rfl rfl
  have b2 : bits W 15 5 = base := bits_of x2
  have x3 : fld W 9 6 = s.toNat := fld_get hW hr 3 rfl rfl
  have b3 : bits W 9 6 = s := bits_of x3
  have x5 : fld W 3 1 = bit ord := fld_get hW hr 5 rfl rfl
  have b5 : flag W 3 = ord := flag_of x5
  have x6 : fld W 0 3 = g.toNat := fld_get hW hr 6 rfl rfl
  have b6 : bits W 0 3 = g := bits_of x6
  refine decodeAt_encode hW hb ?_ hw
  simp [rawAt, rawLs, rawLs10, x4, x0, b1, b2, b3, b5, b6]

theorem RoundTrip.aintMinz (d : BitVec 6) (base : BitVec 5) (s : BitVec 6) (ord : Bool) (g : BitVec 3) : RoundTrip.Statement (.aintMinz d base s ord g) := by
  intro pl hp hw
  obtain rfl : _ = pl := Option.some.inj hp
  have hr : InRange [(6, 16), fv d, fv base, fv s, (5, 7), fb ord, fv g] := by
    simp only [inRange_cons, inRange_nil, fv_lt, fb_lt, and_true, true_and]
    decide
  have hb := pack_lt _ 0 0 (by decide) hr
  generalize hW : pack [(6, 16), fv d, fv base, fv s, (5, 7), fb ord, fv g] 0 = W at hb
  have x4 : fld W 4 5 = 7 := fld_get hW hr 4 rfl rfl
  have x0 : fld W 26 6 = 16 := fld_get hW hr 0 rfl rfl
  have x1 : fld W 20 6 = d.toNat := fld_get hW hr 1 rfl rfl
  have b1 : bits W 20 6 = d := bits_of x1
  have x2 : fld W 15 5 = base.toNat := fld_get hW hr 2 rfl rfl
  have b2 : bits W 15 5 = base := bits_of x2
  have x3 : fld W 9 6 = s.toNat := fld_get hW hr 3 rfl rfl
  have b3 : bits W 9 6 = s := bits_of x3
  have x5 : fld W 3 1 = bit ord := fld_get hW hr 5 rfl rfl
  have b5 : flag W 3 = ord := flag_of x5
  have x6 : fld W 0 3 = g.toNat := fld_get hW hr 6 rfl rfl
  have b6 : bits W 0 3 = g := bits_of x6
  refine decodeAt_encode hW hb ?_ hw
  simp [rawAt, rawLs, rawLs10, x4, x0, b1, b2, b3, b5, b6]

theorem RoundTrip.aintMaxz (d : BitVec 6) (base : BitVec 5) (s : BitVec 6) (ord : Bool) (g : BitVec 3) : RoundTrip.Statement (.aintMaxz d base s ord g) := by
  intro pl hp hw
  obtain rfl : _ = pl := Option.some.inj hp
  have hr : InRange [(6, 16), fv d, fv base, fv s, (5, 8), fb ord, fv g] := by
    simp only [inRange_cons, inRange_nil, fv_lt, fb_lt, and_true, true_and]
    decide
  have hb := pack_lt _ 0 0 (by decide) hr
  generalize hW : pack [(6, 16), fv d, fv base, fv s, (5, 8), fb ord, fv g] 0 = W at hb
  have x4 : fld W 4 5 = 8 := fld_get hW hr 4 rfl rfl
  have x0 : fld W 26 6 = 16 := fld_get hW hr 0 rfl rfl
  have x1 : fld W 20 6 = d.toNat := fld_get hW hr 1 rfl rfl
  have b1 : bits W 20 6 = d := bits_of x1
  have x2 : fld W 15 5 = base.toNat := fld_get hW hr 2 rfl rfl
  have b2 : bits W 15 5 = base := bits_of x2
  have x3 : fld W 9 6 = s.toNat := fld_get hW hr 3 rfl rfl
  have b3 : bits W 9 6 = s := bits_of x3
  have x5 : fld W 3 1 = bit ord := fld_get hW hr 5 rfl rfl
  have b5 : flag W 3 = ord := flag_of x5
  have x6 : fld W 0 3 = g.toNat := fld_get hW hr 6 rfl rfl
  have b6 : bits W 0 3 = g := bits_of x6
  refine decodeAt_encode hW hb ?_ hw
  simp [rawAt, rawLs, rawLs10, x4, x0, b1, b2, b3, b5, b6]

theorem RoundTrip.aintSwapW (d : BitVec 6) (base : BitVec 5) (s : BitVec 6) (ord : Bool) (g : BitVec 3) : RoundTrip.Statement (.aintSwapW d base s ord g) := by
  intro pl hp hw
  obtain rfl : _ = pl := Option.some.inj hp
  have hr : InRange [(6, 16), fv d, fv base, fv s, (5, 9), fb ord, fv g] := by
    simp only [inRange_cons, inRange_nil, fv_lt, fb_lt, and_true, true_and]
    decide
  have hb := pack_lt _ 0 0 (by decide) hr
  generalize hW : pack [(6, 16), fv d, fv base, fv s, (5, 9), fb ord, fv g] 0 = W at hb
  have x4 : fld W 4 5 = 9 := fld_get hW hr 4 rfl rfl
  have x0 : fld W 26 6 = 16 := fld_get hW hr 0 rfl rfl
  have x1 : fld W 20 6 = d.toNat := fld_get hW hr 1 rfl rfl
  have b1 : bits W 20 6 = d := bits_of x1
  have x2 : fld W 15 5 = base.toNat := fld_get hW hr 2 rfl rfl
  have b2 : bits W 15 5 = base := bits_of x2
  have x3 : fld W 9 6 = s.toNat := fld_get hW hr 3 rfl rfl
  have b3 : bits W 9 6 = s := bits_of x3
  have x5 : fld W 3 1 = bit ord := fld_get hW hr 5 rfl rfl
  have b5 : flag W 3 = ord := flag_of x5
  have x6 : fld W 0 3 = g.toNat := fld_get hW hr 6 rfl rfl
  have b6 : bits W 0 3 = g := bits_of x6
  refine decodeAt_encode hW hb ?_ hw
  simp [rawAt, rawLs, rawLs10, x4, x0, b1, b2, b3, b5, b6]

theorem RoundTrip.aintSwapD (d : BitVec 6) (base : BitVec 5) (s : BitVec 6) (ord : Bool) (g : BitVec 3) : RoundTrip.Statement (.aintSwapD d base s ord g) := by
  intro pl hp hw
  obtain rfl : _ = pl := Option.some.inj hp
  have hr : InRange [(6, 16), fv d, fv base, fv s, (5, 10), fb ord, fv g] := by
    simp only [inRange_cons, inRange_nil, fv_lt, fb_lt, and_true, true_and]
    decide
  have hb := pack_lt _ 0 0 (by decide) hr
  generalize hW : pack [(6, 16), fv d, fv base, fv s, (5, 10), fb ord, fv g] 0 = W at hb
  have x4 : fld W 4 5 = 10 := fld_get hW hr 4 rfl rfl
  have x0 : fld W 26 6 = 16 := fld_get hW hr 0 rfl rfl
  have x1 : fld W 20 6 = d.toNat := fld_get hW hr 1 rfl rfl
  have b1 : bits W 20 6 = d := bits_of x1
  have x2 : fld W 15 5 = base.toNat := fld_get hW hr 2 rfl rfl
  have b2 : bits W 15 5 = base := bits_of x2
  have x3 : fld W 9 6 = s.toNat := fld_get hW hr 3 rfl rfl
  have b3 : bits W 9 6 = s := bits_of x3
  have x5 : fld W 3 1 = bit ord := fld_get hW hr 5 rfl rfl
  have b5 : flag W 3 = ord := flag_of x5
  have x6 : fld W 0 3 = g.toNat := fld_get hW hr 6 rfl rfl
  have b6 : bits W 0 3 = g := bits_of x6
  refine decodeAt_encode hW hb ?_ hw
  simp [rawAt, rawLs, rawLs10, x4, x0, b1, b2, b3, b5, b6]

theorem RoundTrip.afpFadd (d : BitVec 6) (base : BitVec 5) (s : BitVec 6) (fmt : BitVec 2) (ord : Bool) (g : BitVec 3) : RoundTrip.Statement (.afpFadd d base s fmt ord g) := by
  intro pl hp hw
  obtain rfl : _ = pl := Option.some.inj hp
  have hr : InRange [(6, 17), fv d, fv base, fv s, (1, 0), fv fmt, (2, 0), fb ord, fv g] := by
    simp only [inRange_cons, inRange_nil, fv_lt, fb_lt, and_true, true_and]
    decide
  have hb := pack_lt _ 0 0 (by decide) hr
  generalize hW : pack [(6, 17), fv d, fv base, fv s, (1, 0), fv fmt, (2, 0), fb ord, fv g] 0 = W at hb
  have x6 : fld W 4 2 = 0 := fld_get hW hr 6 rfl rfl
  have x4 : fld W 8 1 = 0 := fld_get hW hr 4 rfl rfl
  have x0 : fld W 26 6 = 17 := fld_get hW hr 0 rfl rfl
  have x1 : fld W 20 6 = d.toNat := fld_get hW hr 1 rfl rfl
  have b1 : bits W 20 6 = d := bits_of x1
  have x2 : fld W 15 5 = base.toNat := fld_get hW hr 2 rfl rfl
  have b2 : bits W 15 5 = base := bits_of x2
  have x3 : fld W 9 6 = s.toNat := fld_get hW hr 3 rfl rfl
  have b3 : bits W 9 6 = s := bits_of x3
  have x5 : fld W 6 2 = fmt.toNat := fld_get hW hr 5 rfl rfl
  have b5 : bits W 6 2 = fmt := bits_of x5
  have x7 : fld W 3 1 = bit ord := fld_get hW hr 7 rfl rfl
  have b7 : flag W 3 = ord := flag_of x7
  have x8 : fld W 0 3 = g.toNat := fld_get hW hr 8 rfl rfl
  have b8 : bits W 0 3 = g := bits_of x8
  refine decodeAt_encode hW hb ?_ hw
  simp [rawAt, rawLs, rawLs11, x6, x4, x0, b1, b2, b3, b5, b7, b8]

theorem RoundTrip.afpFmin (d : BitVec 6) (base : BitVec 5) (s : BitVec 6) (fmt : BitVec 2) (ord : Bool) (g : BitVec 3) : RoundTrip.Statement (.afpFmin d base s fmt ord g) := by
  intro pl hp hw
  obtain rfl : _ = pl := Option.some.inj hp
  have hr : InRange [(6, 17), fv d, fv base, fv s, (1, 0), fv fmt, (2, 1), fb ord, fv g] := by
    simp only [inRange_cons, inRange_nil, fv_lt, fb_lt, and_true, true_and]
    decide
  have hb := pack_lt _ 0 0 (by decide) hr
  generalize hW : pack [(6, 17), fv d, fv base, fv s, (1, 0), fv fmt, (2, 1), fb ord, fv g] 0 = W at hb
  have x6 : fld W 4 2 = 1 := fld_get hW hr 6 rfl rfl
  have x4 : fld W 8 1 = 0 := fld_get hW hr 4 rfl rfl
  have x0 : fld W 26 6 = 17 := fld_get hW hr 0 rfl rfl
  have x1 : fld W 20 6 = d.toNat := fld_get hW hr 1 rfl rfl
  have b1 : bits W 20 6 = d := bits_of x1
  have x2 : fld W 15 5 = base.toNat := fld_get hW hr 2 rfl rfl
  have b2 : bits W 15 5 = base := bits_of x2
  have x3 : fld W 9 6 = s.toNat := fld_get hW hr 3 rfl rfl
  have b3 : bits W 9 6 = s := bits_of x3
  have x5 : fld W 6 2 = fmt.toNat := fld_get hW hr 5 rfl rfl
  have b5 : bits W 6 2 = fmt := bits_of x5
  have x7 : fld W 3 1 = bit ord := fld_get hW hr 7 rfl rfl
  have b7 : flag W 3 = ord := flag_of x7
  have x8 : fld W 0 3 = g.toNat := fld_get hW hr 8 rfl rfl
  have b8 : bits W 0 3 = g := bits_of x8
  refine decodeAt_encode hW hb ?_ hw
  simp [rawAt, rawLs, rawLs11, x6, x4, x0, b1, b2, b3, b5, b7, b8]

theorem RoundTrip.afpFmax (d : BitVec 6) (base : BitVec 5) (s : BitVec 6) (fmt : BitVec 2) (ord : Bool) (g : BitVec 3) : RoundTrip.Statement (.afpFmax d base s fmt ord g) := by
  intro pl hp hw
  obtain rfl : _ = pl := Option.some.inj hp
  have hr : InRange [(6, 17), fv d, fv base, fv s, (1, 0), fv fmt, (2, 2), fb ord, fv g] := by
    simp only [inRange_cons, inRange_nil, fv_lt, fb_lt, and_true, true_and]
    decide
  have hb := pack_lt _ 0 0 (by decide) hr
  generalize hW : pack [(6, 17), fv d, fv base, fv s, (1, 0), fv fmt, (2, 2), fb ord, fv g] 0 = W at hb
  have x6 : fld W 4 2 = 2 := fld_get hW hr 6 rfl rfl
  have x4 : fld W 8 1 = 0 := fld_get hW hr 4 rfl rfl
  have x0 : fld W 26 6 = 17 := fld_get hW hr 0 rfl rfl
  have x1 : fld W 20 6 = d.toNat := fld_get hW hr 1 rfl rfl
  have b1 : bits W 20 6 = d := bits_of x1
  have x2 : fld W 15 5 = base.toNat := fld_get hW hr 2 rfl rfl
  have b2 : bits W 15 5 = base := bits_of x2
  have x3 : fld W 9 6 = s.toNat := fld_get hW hr 3 rfl rfl
  have b3 : bits W 9 6 = s := bits_of x3
  have x5 : fld W 6 2 = fmt.toNat := fld_get hW hr 5 rfl rfl
  have b5 : bits W 6 2 = fmt := bits_of x5
  have x7 : fld W 3 1 = bit ord := fld_get hW hr 7 rfl rfl
  have b7 : flag W 3 = ord := flag_of x7
  have x8 : fld W 0 3 = g.toNat := fld_get hW hr 8 rfl rfl
  have b8 : bits W 0 3 = g := bits_of x8
  refine decodeAt_encode hW hb ?_ hw
  simp [rawAt, rawLs, rawLs11, x6, x4, x0, b1, b2, b3, b5, b7, b8]

theorem RoundTrip.acasW (d : BitVec 6) (base : BitVec 5) (s : BitVec 6) (ord : Bool) (g : BitVec 3) : RoundTrip.Statement (.acasW d base s ord g) := by
  intro pl hp hw
  obtain rfl : _ = pl := Option.some.inj hp
  have hr : InRange [(6, 18), fv d, fv base, fv s, (5, 0), fb ord, fv g] := by
    simp only [inRange_cons, inRange_nil, fv_lt, fb_lt, and_true, true_and]
    decide
  have hb := pack_lt _ 0 0 (by decide) hr
  generalize hW : pack [(6, 18), fv d, fv base, fv s, (5, 0), fb ord, fv g] 0 = W at hb
  have x4 : fld W 4 5 = 0 := fld_get hW hr 4 rfl rfl
  have x0 : fld W 26 6 = 18 := fld_get hW hr 0 rfl rfl
  have x1 : fld W 20 6 = d.toNat := fld_get hW hr 1 rfl rfl
  have b1 : bits W 20 6 = d := bits_of x1
  have x2 : fld W 15 5 = base.toNat := fld_get hW hr 2 rfl rfl
  have b2 : bits W 15 5 = base := bits_of x2
  have x3 : fld W 9 6 = s.toNat := fld_get hW hr 3 rfl rfl
  have b3 : bits W 9 6 = s := bits_of x3
  have x5 : fld W 3 1 = bit ord := fld_get hW hr 5 rfl rfl
  have b5 : flag W 3 = ord := flag_of x5
  have x6 : fld W 0 3 = g.toNat := fld_get hW hr 6 rfl rfl
  have b6 : bits W 0 3 = g := bits_of x6
  have n4_6_2 : ¬ fld W 4 6 = 2 := fld_ne x4 4 5 (by decide)
  refine decodeAt_encode hW hb ?_ hw
  simp [rawAt, rawLs, rawLs12, x4, x0, b1, b2, b3, b5, b6, n4_6_2]

theorem RoundTrip.acasD (d : BitVec 6) (base : BitVec 5) (s : BitVec 6) (ord : Bool) (g : BitVec 3) : RoundTrip.Statement (.acasD d base s ord g) := by
  intro pl hp hw
  obtain rfl : _ = pl := Option.some.inj hp
  have hr : InRange [(6, 18), fv d, fv base, fv s, (5, 1), fb ord, fv g] := by
    simp only [inRange_cons, inRange_nil, fv_lt, fb_lt, and_true, true_and]
    decide
  have hb := pack_lt _ 0 0 (by decide) hr
  generalize hW : pack [(6, 18), fv d, fv base, fv s, (5, 1), fb ord, fv g] 0 = W at hb
  have x4 : fld W 4 5 = 1 := fld_get hW hr 4 rfl rfl
  have x0 : fld W 26 6 = 18 := fld_get hW hr 0 rfl rfl
  have x1 : fld W 20 6 = d.toNat := fld_get hW hr 1 rfl rfl
  have b1 : bits W 20 6 = d := bits_of x1
  have x2 : fld W 15 5 = base.toNat := fld_get hW hr 2 rfl rfl
  have b2 : bits W 15 5 = base := bits_of x2
  have x3 : fld W 9 6 = s.toNat := fld_get hW hr 3 rfl rfl
  have b3 : bits W 9 6 = s := bits_of x3
  have x5 : fld W 3 1 = bit ord := fld_get hW hr 5 rfl rfl
  have b5 : flag W 3 = ord := flag_of x5
  have x6 : fld W 0 3 = g.toNat := fld_get hW hr 6 rfl rfl
  have b6 : bits W 0 3 = g := bits_of x6
  have n4_6_2 : ¬ fld W 4 6 = 2 := fld_ne x4 4 5 (by decide)
  refine decodeAt_encode hW hb ?_ hw
  simp [rawAt, rawLs, rawLs12, x4, x0, b1, b2, b3, b5, b6, n4_6_2]

theorem RoundTrip.acasQ (d : BitVec 5) (base : BitVec 5) (s : BitVec 5) (ord : Bool) (g : BitVec 3) : RoundTrip.Statement (.acasQ d base s ord g) := by
  intro pl hp hw
  obtain rfl : _ = pl := Option.some.inj hp
  have hr : InRange [(6, 18), fv d, (1, 0), fv base, fv s, (6, 2), fb ord, fv g] := by
    simp only [inRange_cons, inRange_nil, fv_lt, fb_lt, and_true, true_and]
    decide
  have hb := pack_lt _ 0 0 (by decide) hr
  generalize hW : pack [(6, 18), fv d, (1, 0), fv base, fv s, (6, 2), fb ord, fv g] 0 = W at hb
  have x5 : fld W 4 6 = 2 := fld_get hW hr 5 rfl rfl
  have g4_5 : fld W 4 5 = 2 := fld_part x5 4 5 (by decide) rfl
  have x2 : fld W 20 1 = 0 := fld_get hW hr 2 rfl rfl
  have x0 : fld W 26 6 = 18 := fld_get hW hr 0 rfl rfl
  have x1 : fld W 21 5 = d.toNat := fld_get hW hr 1 rfl rfl
  have b1 : bits W 21 5 = d := bits_of x1
  have x3 : fld W 15 5 = base.toNat := fld_get hW hr 3 rfl rfl
  have b3 : bits W 15 5 = base := bits_of x3
  have x4 : fld W 10 5 = s.toNat := fld_get hW hr 4 rfl rfl
  have b4 : bits W 10 5 = s := bits_of x4
  have x6 : fld W 3 1 = bit ord := fld_get hW hr 6 rfl rfl
  have b6 : flag W 3 = ord := flag_of x6
  have x7 : fld W 0 3 = g.toNat := fld_get hW hr 7 rfl rfl
  have b7 : bits W 0 3 = g := bits_of x7
  refine decodeAt_encode hW hb ?_ hw
  simp [rawAt, rawLs, rawLs12, g4_5, x5, x2, x0, b1, b3, b4, b6, b7]

theorem RoundTrip.vaccOvw (v : BitVec 6) (base : BitVec 5) (ord : Bool) (g : BitVec 3) : RoundTrip.Statement (.vaccOvw v base ord g) := by
  intro pl hp hw
  obtain rfl : _ = pl := Option.some.inj hp
  have hr : InRange [(6, 19), fv v, fv base, (11, 0), fb ord, fv g] := by
    simp only [inRange_cons, inRange_nil, fv_lt, fb_lt, and_true, true_and]
    decide
  have hb := pack_lt _ 0 0 (by decide) hr
  generalize hW : pack [(6, 19), fv v, fv base, (11, 0), fb ord, fv g] 0 = W at hb
  have x3 : fld W 4 11 = 0 := fld_get hW hr 3 rfl rfl
  have x0 : fld W 26 6 = 19 := fld_get hW hr 0 rfl rfl
  have x1 : fld W 20 6 = v.toNat := fld_get hW hr 1 rfl rfl
  have b1 : bits W 20 6 = v := bits_of x1
  have x2 : fld W 15 5 = base.toNat := fld_get hW hr 2 rfl rfl
  have b2 : bits W 15 5 = base := bits_of x2
  have x4 : fld W 3 1 = bit ord := fld_get hW hr 4 rfl rfl
  have b4 : flag W 3 = ord := flag_of x4
  have x5 : fld W 0 3 = g.toNat := fld_get hW hr 5 rfl rfl
  have b5 : bits W 0 3 = g := bits_of x5
  refine decodeAt_encode hW hb ?_ hw
  simp [rawAt, rawLs, rawLs13, x3, x0, b1, b2, b4, b5]

theorem RoundTrip.vaccAddF32 (v : BitVec 6) (base : BitVec 5) (ord : Bool) (g : BitVec 3) : RoundTrip.Statement (.vaccAddF32 v base ord g) := by
  intro pl hp hw
  obtain rfl : _ = pl := Option.some.inj hp
  have hr : InRange [(6, 19), fv v, fv base, (11, 1), fb ord, fv g] := by
    simp only [inRange_cons, inRange_nil, fv_lt, fb_lt, and_true, true_and]
    decide
  have hb := pack_lt _ 0 0 (by decide) hr
  generalize hW : pack [(6, 19), fv v, fv base, (11, 1), fb ord, fv g] 0 = W at hb
  have x3 : fld W 4 11 = 1 := fld_get hW hr 3 rfl rfl
  have x0 : fld W 26 6 = 19 := fld_get hW hr 0 rfl rfl
  have x1 : fld W 20 6 = v.toNat := fld_get hW hr 1 rfl rfl
  have b1 : bits W 20 6 = v := bits_of x1
  have x2 : fld W 15 5 = base.toNat := fld_get hW hr 2 rfl rfl
  have b2 : bits W 15 5 = base := bits_of x2
  have x4 : fld W 3 1 = bit ord := fld_get hW hr 4 rfl rfl
  have b4 : flag W 3 = ord := flag_of x4
  have x5 : fld W 0 3 = g.toNat := fld_get hW hr 5 rfl rfl
  have b5 : bits W 0 3 = g := bits_of x5
  refine decodeAt_encode hW hb ?_ hw
  simp [rawAt, rawLs, rawLs13, x3, x0, b1, b2, b4, b5]

theorem RoundTrip.vaccAddF64 (v : BitVec 6) (base : BitVec 5) (ord : Bool) (g : BitVec 3) : RoundTrip.Statement (.vaccAddF64 v base ord g) := by
  intro pl hp hw
  obtain rfl : _ = pl := Option.some.inj hp
  have hr : InRange [(6, 19), fv v, fv base, (11, 2), fb ord, fv g] := by
    simp only [inRange_cons, inRange_nil, fv_lt, fb_lt, and_true, true_and]
    decide
  have hb := pack_lt _ 0 0 (by decide) hr
  generalize hW : pack [(6, 19), fv v, fv base, (11, 2), fb ord, fv g] 0 = W at hb
  have x3 : fld W 4 11 = 2 := fld_get hW hr 3 rfl rfl
  have x0 : fld W 26 6 = 19 := fld_get hW hr 0 rfl rfl
  have x1 : fld W 20 6 = v.toNat := fld_get hW hr 1 rfl rfl
  have b1 : bits W 20 6 = v := bits_of x1
  have x2 : fld W 15 5 = base.toNat := fld_get hW hr 2 rfl rfl
  have b2 : bits W 15 5 = base := bits_of x2
  have x4 : fld W 3 1 = bit ord := fld_get hW hr 4 rfl rfl
  have b4 : flag W 3 = ord := flag_of x4
  have x5 : fld W 0 3 = g.toNat := fld_get hW hr 5 rfl rfl
  have b5 : bits W 0 3 = g := bits_of x5
  refine decodeAt_encode hW hb ?_ hw
  simp [rawAt, rawLs, rawLs13, x3, x0, b1, b2, b4, b5]

theorem RoundTrip.vaccAddBf16 (v : BitVec 6) (base : BitVec 5) (ord : Bool) (g : BitVec 3) : RoundTrip.Statement (.vaccAddBf16 v base ord g) := by
  intro pl hp hw
  obtain rfl : _ = pl := Option.some.inj hp
  have hr : InRange [(6, 19), fv v, fv base, (11, 3), fb ord, fv g] := by
    simp only [inRange_cons, inRange_nil, fv_lt, fb_lt, and_true, true_and]
    decide
  have hb := pack_lt _ 0 0 (by decide) hr
  generalize hW : pack [(6, 19), fv v, fv base, (11, 3), fb ord, fv g] 0 = W at hb
  have x3 : fld W 4 11 = 3 := fld_get hW hr 3 rfl rfl
  have x0 : fld W 26 6 = 19 := fld_get hW hr 0 rfl rfl
  have x1 : fld W 20 6 = v.toNat := fld_get hW hr 1 rfl rfl
  have b1 : bits W 20 6 = v := bits_of x1
  have x2 : fld W 15 5 = base.toNat := fld_get hW hr 2 rfl rfl
  have b2 : bits W 15 5 = base := bits_of x2
  have x4 : fld W 3 1 = bit ord := fld_get hW hr 4 rfl rfl
  have b4 : flag W 3 = ord := flag_of x4
  have x5 : fld W 0 3 = g.toNat := fld_get hW hr 5 rfl rfl
  have b5 : bits W 0 3 = g := bits_of x5
  refine decodeAt_encode hW hb ?_ hw
  simp [rawAt, rawLs, rawLs13, x3, x0, b1, b2, b4, b5]

theorem RoundTrip.vaccAddF16 (v : BitVec 6) (base : BitVec 5) (ord : Bool) (g : BitVec 3) : RoundTrip.Statement (.vaccAddF16 v base ord g) := by
  intro pl hp hw
  obtain rfl : _ = pl := Option.some.inj hp
  have hr : InRange [(6, 19), fv v, fv base, (11, 4), fb ord, fv g] := by
    simp only [inRange_cons, inRange_nil, fv_lt, fb_lt, and_true, true_and]
    decide
  have hb := pack_lt _ 0 0 (by decide) hr
  generalize hW : pack [(6, 19), fv v, fv base, (11, 4), fb ord, fv g] 0 = W at hb
  have x3 : fld W 4 11 = 4 := fld_get hW hr 3 rfl rfl
  have x0 : fld W 26 6 = 19 := fld_get hW hr 0 rfl rfl
  have x1 : fld W 20 6 = v.toNat := fld_get hW hr 1 rfl rfl
  have b1 : bits W 20 6 = v := bits_of x1
  have x2 : fld W 15 5 = base.toNat := fld_get hW hr 2 rfl rfl
  have b2 : bits W 15 5 = base := bits_of x2
  have x4 : fld W 3 1 = bit ord := fld_get hW hr 4 rfl rfl
  have b4 : flag W 3 = ord := flag_of x4
  have x5 : fld W 0 3 = g.toNat := fld_get hW hr 5 rfl rfl
  have b5 : bits W 0 3 = g := bits_of x5
  refine decodeAt_encode hW hb ?_ hw
  simp [rawAt, rawLs, rawLs13, x3, x0, b1, b2, b4, b5]

theorem RoundTrip.vaccAddI32 (v : BitVec 6) (base : BitVec 5) (ord : Bool) (g : BitVec 3) : RoundTrip.Statement (.vaccAddI32 v base ord g) := by
  intro pl hp hw
  obtain rfl : _ = pl := Option.some.inj hp
  have hr : InRange [(6, 19), fv v, fv base, (11, 5), fb ord, fv g] := by
    simp only [inRange_cons, inRange_nil, fv_lt, fb_lt, and_true, true_and]
    decide
  have hb := pack_lt _ 0 0 (by decide) hr
  generalize hW : pack [(6, 19), fv v, fv base, (11, 5), fb ord, fv g] 0 = W at hb
  have x3 : fld W 4 11 = 5 := fld_get hW hr 3 rfl rfl
  have x0 : fld W 26 6 = 19 := fld_get hW hr 0 rfl rfl
  have x1 : fld W 20 6 = v.toNat := fld_get hW hr 1 rfl rfl
  have b1 : bits W 20 6 = v := bits_of x1
  have x2 : fld W 15 5 = base.toNat := fld_get hW hr 2 rfl rfl
  have b2 : bits W 15 5 = base := bits_of x2
  have x4 : fld W 3 1 = bit ord := fld_get hW hr 4 rfl rfl
  have b4 : flag W 3 = ord := flag_of x4
  have x5 : fld W 0 3 = g.toNat := fld_get hW hr 5 rfl rfl
  have b5 : bits W 0 3 = g := bits_of x5
  refine decodeAt_encode hW hb ?_ hw
  simp [rawAt, rawLs, rawLs13, x3, x0, b1, b2, b4, b5]

theorem RoundTrip.bpop (v : BitVec 6) (bob : BitVec 4) (n : BitVec 8) (g : BitVec 3) : RoundTrip.Statement (.bpop v bob n g) := by
  intro pl hp hw
  obtain rfl : _ = pl := Option.some.inj hp
  have hr : InRange [(6, 24), fv v, fv bob, fv n, (5, 0), fv g] := by
    simp only [inRange_cons, inRange_nil, fv_lt, and_true, true_and]
    decide
  have hb := pack_lt _ 0 0 (by decide) hr
  generalize hW : pack [(6, 24), fv v, fv bob, fv n, (5, 0), fv g] 0 = W at hb
  have x4 : fld W 3 5 = 0 := fld_get hW hr 4 rfl rfl
  have x0 : fld W 26 6 = 24 := fld_get hW hr 0 rfl rfl
  have x1 : fld W 20 6 = v.toNat := fld_get hW hr 1 rfl rfl
  have b1 : bits W 20 6 = v := bits_of x1
  have x2 : fld W 16 4 = bob.toNat := fld_get hW hr 2 rfl rfl
  have b2 : bits W 16 4 = bob := bits_of x2
  have x3 : fld W 8 8 = n.toNat := fld_get hW hr 3 rfl rfl
  have b3 : bits W 8 8 = n := bits_of x3
  have x5 : fld W 0 3 = g.toNat := fld_get hW hr 5 rfl rfl
  have b5 : bits W 0 3 = g := bits_of x5
  refine decodeAt_encode hW hb ?_ hw
  simp [rawAt, rawLs, rawLs18, x4, x0, b1, b2, b3, b5]

theorem RoundTrip.bpush (v : BitVec 6) (bob : BitVec 4) (n : BitVec 8) (g : BitVec 3) : RoundTrip.Statement (.bpush v bob n g) := by
  intro pl hp hw
  obtain rfl : _ = pl := Option.some.inj hp
  have hr : InRange [(6, 25), fv v, fv bob, fv n, (5, 0), fv g] := by
    simp only [inRange_cons, inRange_nil, fv_lt, and_true, true_and]
    decide
  have hb := pack_lt _ 0 0 (by decide) hr
  generalize hW : pack [(6, 25), fv v, fv bob, fv n, (5, 0), fv g] 0 = W at hb
  have x4 : fld W 3 5 = 0 := fld_get hW hr 4 rfl rfl
  have x0 : fld W 26 6 = 25 := fld_get hW hr 0 rfl rfl
  have x1 : fld W 20 6 = v.toNat := fld_get hW hr 1 rfl rfl
  have b1 : bits W 20 6 = v := bits_of x1
  have x2 : fld W 16 4 = bob.toNat := fld_get hW hr 2 rfl rfl
  have b2 : bits W 16 4 = bob := bits_of x2
  have x3 : fld W 8 8 = n.toNat := fld_get hW hr 3 rfl rfl
  have b3 : bits W 8 8 = n := bits_of x3
  have x5 : fld W 0 3 = g.toNat := fld_get hW hr 5 rfl rfl
  have b5 : bits W 0 3 = g := bits_of x5
  refine decodeAt_encode hW hb ?_ hw
  simp [rawAt, rawLs, rawLs19, x4, x0, b1, b2, b3, b5]

theorem RoundTrip.badvC (bob : BitVec 4) (n : BitVec 8) (g : BitVec 3) : RoundTrip.Statement (.badvC bob n g) := by
  intro pl hp hw
  obtain rfl : _ = pl := Option.some.inj hp
  have hr : InRange [(12, 1664), fv bob, fv n, (5, 0), fv g] := by
    simp only [inRange_cons, inRange_nil, fv_lt, and_true, true_and]
    decide
  have hb := pack_lt _ 0 0 (by decide) hr
  generalize hW : pack [(12, 1664), fv bob, fv n, (5, 0), fv g] 0 = W at hb
  have x3 : fld W 3 5 = 0 := fld_get hW hr 3 rfl rfl
  have x0 : fld W 20 12 = 1664 := fld_get hW hr 0 rfl rfl
  have g20_6 : fld W 20 6 = 0 := fld_part x0 20 6 (by decide) rfl
  have g26_6 : fld W 26 6 = 26 := fld_part x0 26 6 (by decide) rfl
  have x1 : fld W 16 4 = bob.toNat := fld_get hW hr 1 rfl rfl
  have b1 : bits W 16 4 = bob := bits_of x1
  have x2 : fld W 8 8 = n.toNat := fld_get hW hr 2 rfl rfl
  have b2 : bits W 8 8 = n := bits_of x2
  have x4 : fld W 0 3 = g.toNat := fld_get hW hr 4 rfl rfl
  have b4 : bits W 0 3 = g := bits_of x4
  refine decodeAt_encode hW hb ?_ hw
  simp [rawAt, rawLs, rawLs1A, x3, g20_6, g26_6, b1, b2, b4]

theorem RoundTrip.badvP (bob : BitVec 4) (n : BitVec 8) (g : BitVec 3) : RoundTrip.Statement (.badvP bob n g) := by
  intro pl hp hw
  obtain rfl : _ = pl := Option.some.inj hp
  have hr : InRange [(12, 1664), fv bob, fv n, (5, 1), fv g] := by
    simp only [inRange_cons, inRange_nil, fv_lt, and_true, true_and]
    decide
  have hb := pack_lt _ 0 0 (by decide) hr
  generalize hW : pack [(12, 1664), fv bob, fv n, (5, 1), fv g] 0 = W at hb
  have x3 : fld W 3 5 = 1 := fld_get hW hr 3 rfl rfl
  have x0 : fld W 20 12 = 1664 := fld_get hW hr 0 rfl rfl
  have g20_6 : fld W 20 6 = 0 := fld_part x0 20 6 (by decide) rfl
  have g26_6 : fld W 26 6 = 26 := fld_part x0 26 6 (by decide) rfl
  have x1 : fld W 16 4 = bob.toNat := fld_get hW hr 1 rfl rfl
  have b1 : bits W 16 4 = bob := bits_of x1
  have x2 : fld W 8 8 = n.toNat := fld_get hW hr 2 rfl rfl
  have b2 : bits W 8 8 = n := bits_of x2
  have x4 : fld W 0 3 = g.toNat := fld_get hW hr 4 rfl rfl
  have b4 : bits W 0 3 = g := bits_of x4
  refine decodeAt_encode hW hb ?_ hw
  simp [rawAt, rawLs, rawLs1A, x3, g20_6, g26_6, b1, b2, b4]

theorem RoundTrip.bwaitC (bob : BitVec 4) (n : BitVec 8) (g : BitVec 3) : RoundTrip.Statement (.bwaitC bob n g) := by
  intro pl hp hw
  obtain rfl : _ = pl := Option.some.inj hp
  have hr : InRange [(12, 1728), fv bob, fv n, (5, 0), fv g] := by
    simp only [inRange_cons, inRange_nil, fv_lt, and_true, true_and]
    decide
  have hb := pack_lt _ 0 0 (by decide) hr
  generalize hW : pack [(12, 1728), fv bob, fv n, (5, 0), fv g] 0 = W at hb
  have x3 : fld W 3 5 = 0 := fld_get hW hr 3 rfl rfl
  have x0 : fld W 20 12 = 1728 := fld_get hW hr 0 rfl rfl
  have g20_6 : fld W 20 6 = 0 := fld_part x0 20 6 (by decide) rfl
  have g26_6 : fld W 26 6 = 27 := fld_part x0 26 6 (by decide) rfl
  have x1 : fld W 16 4 = bob.toNat := fld_get hW hr 1 rfl rfl
  have b1 : bits W 16 4 = bob := bits_of x1
  have x2 : fld W 8 8 = n.toNat := fld_get hW hr 2 rfl rfl
  have b2 : bits W 8 8 = n := bits_of x2
  have x4 : fld W 0 3 = g.toNat := fld_get hW hr 4 rfl rfl
  have b4 : bits W 0 3 = g := bits_of x4
  refine decodeAt_encode hW hb ?_ hw
  simp [rawAt, rawLs, rawLs1B, x3, g20_6, g26_6, b1, b2, b4]

theorem RoundTrip.bwaitP (bob : BitVec 4) (n : BitVec 8) (g : BitVec 3) : RoundTrip.Statement (.bwaitP bob n g) := by
  intro pl hp hw
  obtain rfl : _ = pl := Option.some.inj hp
  have hr : InRange [(12, 1728), fv bob, fv n, (5, 1), fv g] := by
    simp only [inRange_cons, inRange_nil, fv_lt, and_true, true_and]
    decide
  have hb := pack_lt _ 0 0 (by decide) hr
  generalize hW : pack [(12, 1728), fv bob, fv n, (5, 1), fv g] 0 = W at hb
  have x3 : fld W 3 5 = 1 := fld_get hW hr 3 rfl rfl
  have x0 : fld W 20 12 = 1728 := fld_get hW hr 0 rfl rfl
  have g20_6 : fld W 20 6 = 0 := fld_part x0 20 6 (by decide) rfl
  have g26_6 : fld W 26 6 = 27 := fld_part x0 26 6 (by decide) rfl
  have x1 : fld W 16 4 = bob.toNat := fld_get hW hr 1 rfl rfl
  have b1 : bits W 16 4 = bob := bits_of x1
  have x2 : fld W 8 8 = n.toNat := fld_get hW hr 2 rfl rfl
  have b2 : bits W 8 8 = n := bits_of x2
  have x4 : fld W 0 3 = g.toNat := fld_get hW hr 4 rfl rfl
  have b4 : bits W 0 3 = g := bits_of x4
  refine decodeAt_encode hW hb ?_ hw
  simp [rawAt, rawLs, rawLs1B, x3, g20_6, g26_6, b1, b2, b4]

theorem RoundTrip.vadd (vd : BitVec 6) (va : BitVec 6) (vb : BitVec 6) (ty : BitVec 2) (zi : Bool) (zo : Bool) (s : Bool) (q : BitVec 3) : RoundTrip.Statement (.vadd vd va vb ty zi zo s q) := by
  intro pl hp hw
  obtain rfl : _ = pl := Option.some.inj hp
  have hr : InRange [(6, 1), fv vd, fv va, fv vb, fv ty, fb zi, fb zo, fb s, fv q] := by
    simp only [inRange_cons, inRange_nil, fv_lt, fb_lt, and_true, true_and]
    decide
  have hb := pack_lt _ 0 0 (by decide) hr
  generalize hW : pack [(6, 1), fv vd, fv va, fv vb, fv ty, fb zi, fb zo, fb s, fv q] 0 = W at hb
  have x0 : fld W 26 6 = 1 := fld_get hW hr 0 rfl rfl
  have x1 : fld W 20 6 = vd.toNat := fld_get hW hr 1 rfl rfl
  have b1 : bits W 20 6 = vd := bits_of x1
  have x2 : fld W 14 6 = va.toNat := fld_get hW hr 2 rfl rfl
  have b2 : bits W 14 6 = va := bits_of x2
  have x3 : fld W 8 6 = vb.toNat := fld_get hW hr 3 rfl rfl
  have b3 : bits W 8 6 = vb := bits_of x3
  have x4 : fld W 6 2 = ty.toNat := fld_get hW hr 4 rfl rfl
  have b4 : bits W 6 2 = ty := bits_of x4
  have x5 : fld W 5 1 = bit zi := fld_get hW hr 5 rfl rfl
  have b5 : flag W 5 = zi := flag_of x5
  have x6 : fld W 4 1 = bit zo := fld_get hW hr 6 rfl rfl
  have b6 : flag W 4 = zo := flag_of x6
  have x7 : fld W 3 1 = bit s := fld_get hW hr 7 rfl rfl
  have b7 : flag W 3 = s := flag_of x7
  have x8 : fld W 0 3 = q.toNat := fld_get hW hr 8 rfl rfl
  have b8 : bits W 0 3 = q := bits_of x8
  refine decodeAt_encode hW hb ?_ hw
  simp [rawAt, rawVx, rawVx01, x0, b1, b2, b3, b4, b5, b6, b7, b8]

theorem RoundTrip.vsub (vd : BitVec 6) (va : BitVec 6) (vb : BitVec 6) (ty : BitVec 2) (zi : Bool) (zo : Bool) (s : Bool) (q : BitVec 3) : RoundTrip.Statement (.vsub vd va vb ty zi zo s q) := by
  intro pl hp hw
  obtain rfl : _ = pl := Option.some.inj hp
  have hr : InRange [(6, 2), fv vd, fv va, fv vb, fv ty, fb zi, fb zo, fb s, fv q] := by
    simp only [inRange_cons, inRange_nil, fv_lt, fb_lt, and_true, true_and]
    decide
  have hb := pack_lt _ 0 0 (by decide) hr
  generalize hW : pack [(6, 2), fv vd, fv va, fv vb, fv ty, fb zi, fb zo, fb s, fv q] 0 = W at hb
  have x0 : fld W 26 6 = 2 := fld_get hW hr 0 rfl rfl
  have x1 : fld W 20 6 = vd.toNat := fld_get hW hr 1 rfl rfl
  have b1 : bits W 20 6 = vd := bits_of x1
  have x2 : fld W 14 6 = va.toNat := fld_get hW hr 2 rfl rfl
  have b2 : bits W 14 6 = va := bits_of x2
  have x3 : fld W 8 6 = vb.toNat := fld_get hW hr 3 rfl rfl
  have b3 : bits W 8 6 = vb := bits_of x3
  have x4 : fld W 6 2 = ty.toNat := fld_get hW hr 4 rfl rfl
  have b4 : bits W 6 2 = ty := bits_of x4
  have x5 : fld W 5 1 = bit zi := fld_get hW hr 5 rfl rfl
  have b5 : flag W 5 = zi := flag_of x5
  have x6 : fld W 4 1 = bit zo := fld_get hW hr 6 rfl rfl
  have b6 : flag W 4 = zo := flag_of x6
  have x7 : fld W 3 1 = bit s := fld_get hW hr 7 rfl rfl
  have b7 : flag W 3 = s := flag_of x7
  have x8 : fld W 0 3 = q.toNat := fld_get hW hr 8 rfl rfl
  have b8 : bits W 0 3 = q := bits_of x8
  refine decodeAt_encode hW hb ?_ hw
  simp [rawAt, rawVx, rawVx02, x0, b1, b2, b3, b4, b5, b6, b7, b8]

theorem RoundTrip.vmul (vd : BitVec 6) (va : BitVec 6) (vb : BitVec 6) (ty : BitVec 2) (zi : Bool) (zo : Bool) (s : Bool) (q : BitVec 3) : RoundTrip.Statement (.vmul vd va vb ty zi zo s q) := by
  intro pl hp hw
  obtain rfl : _ = pl := Option.some.inj hp
  have hr : InRange [(6, 3), fv vd, fv va, fv vb, fv ty, fb zi, fb zo, fb s, fv q] := by
    simp only [inRange_cons, inRange_nil, fv_lt, fb_lt, and_true, true_and]
    decide
  have hb := pack_lt _ 0 0 (by decide) hr
  generalize hW : pack [(6, 3), fv vd, fv va, fv vb, fv ty, fb zi, fb zo, fb s, fv q] 0 = W at hb
  have x0 : fld W 26 6 = 3 := fld_get hW hr 0 rfl rfl
  have x1 : fld W 20 6 = vd.toNat := fld_get hW hr 1 rfl rfl
  have b1 : bits W 20 6 = vd := bits_of x1
  have x2 : fld W 14 6 = va.toNat := fld_get hW hr 2 rfl rfl
  have b2 : bits W 14 6 = va := bits_of x2
  have x3 : fld W 8 6 = vb.toNat := fld_get hW hr 3 rfl rfl
  have b3 : bits W 8 6 = vb := bits_of x3
  have x4 : fld W 6 2 = ty.toNat := fld_get hW hr 4 rfl rfl
  have b4 : bits W 6 2 = ty := bits_of x4
  have x5 : fld W 5 1 = bit zi := fld_get hW hr 5 rfl rfl
  have b5 : flag W 5 = zi := flag_of x5
  have x6 : fld W 4 1 = bit zo := fld_get hW hr 6 rfl rfl
  have b6 : flag W 4 = zo := flag_of x6
  have x7 : fld W 3 1 = bit s := fld_get hW hr 7 rfl rfl
  have b7 : flag W 3 = s := flag_of x7
  have x8 : fld W 0 3 = q.toNat := fld_get hW hr 8 rfl rfl
  have b8 : bits W 0 3 = q := bits_of x8
  refine decodeAt_encode hW hb ?_ hw
  simp [rawAt, rawVx, rawVx03, x0, b1, b2, b3, b4, b5, b6, b7, b8]

theorem RoundTrip.vfma (vd : BitVec 6) (va : BitVec 6) (vb : BitVec 6) (ty : BitVec 2) (zi : Bool) (zo : Bool) (s : Bool) (q : BitVec 3) : RoundTrip.Statement (.vfma vd va vb ty zi zo s q) := by
  intro pl hp hw
  obtain rfl : _ = pl := Option.some.inj hp
  have hr : InRange [(6, 4), fv vd, fv va, fv vb, fv ty, fb zi, fb zo, fb s, fv q] := by
    simp only [inRange_cons, inRange_nil, fv_lt, fb_lt, and_true, true_and]
    decide
  have hb := pack_lt _ 0 0 (by decide) hr
  generalize hW : pack [(6, 4), fv vd, fv va, fv vb, fv ty, fb zi, fb zo, fb s, fv q] 0 = W at hb
  have x0 : fld W 26 6 = 4 := fld_get hW hr 0 rfl rfl
  have x1 : fld W 20 6 = vd.toNat := fld_get hW hr 1 rfl rfl
  have b1 : bits W 20 6 = vd := bits_of x1
  have x2 : fld W 14 6 = va.toNat := fld_get hW hr 2 rfl rfl
  have b2 : bits W 14 6 = va := bits_of x2
  have x3 : fld W 8 6 = vb.toNat := fld_get hW hr 3 rfl rfl
  have b3 : bits W 8 6 = vb := bits_of x3
  have x4 : fld W 6 2 = ty.toNat := fld_get hW hr 4 rfl rfl
  have b4 : bits W 6 2 = ty := bits_of x4
  have x5 : fld W 5 1 = bit zi := fld_get hW hr 5 rfl rfl
  have b5 : flag W 5 = zi := flag_of x5
  have x6 : fld W 4 1 = bit zo := fld_get hW hr 6 rfl rfl
  have b6 : flag W 4 = zo := flag_of x6
  have x7 : fld W 3 1 = bit s := fld_get hW hr 7 rfl rfl
  have b7 : flag W 3 = s := flag_of x7
  have x8 : fld W 0 3 = q.toNat := fld_get hW hr 8 rfl rfl
  have b8 : bits W 0 3 = q := bits_of x8
  refine decodeAt_encode hW hb ?_ hw
  simp [rawAt, rawVx, rawVx04, x0, b1, b2, b3, b4, b5, b6, b7, b8]

theorem RoundTrip.vfmac (vd : BitVec 6) (va : BitVec 6) (vb : BitVec 6) (ty : BitVec 2) (zi : Bool) (zo : Bool) (s : Bool) (q : BitVec 3) : RoundTrip.Statement (.vfmac vd va vb ty zi zo s q) := by
  intro pl hp hw
  obtain rfl : _ = pl := Option.some.inj hp
  have hr : InRange [(6, 5), fv vd, fv va, fv vb, fv ty, fb zi, fb zo, fb s, fv q] := by
    simp only [inRange_cons, inRange_nil, fv_lt, fb_lt, and_true, true_and]
    decide
  have hb := pack_lt _ 0 0 (by decide) hr
  generalize hW : pack [(6, 5), fv vd, fv va, fv vb, fv ty, fb zi, fb zo, fb s, fv q] 0 = W at hb
  have x0 : fld W 26 6 = 5 := fld_get hW hr 0 rfl rfl
  have x1 : fld W 20 6 = vd.toNat := fld_get hW hr 1 rfl rfl
  have b1 : bits W 20 6 = vd := bits_of x1
  have x2 : fld W 14 6 = va.toNat := fld_get hW hr 2 rfl rfl
  have b2 : bits W 14 6 = va := bits_of x2
  have x3 : fld W 8 6 = vb.toNat := fld_get hW hr 3 rfl rfl
  have b3 : bits W 8 6 = vb := bits_of x3
  have x4 : fld W 6 2 = ty.toNat := fld_get hW hr 4 rfl rfl
  have b4 : bits W 6 2 = ty := bits_of x4
  have x5 : fld W 5 1 = bit zi := fld_get hW hr 5 rfl rfl
  have b5 : flag W 5 = zi := flag_of x5
  have x6 : fld W 4 1 = bit zo := fld_get hW hr 6 rfl rfl
  have b6 : flag W 4 = zo := flag_of x6
  have x7 : fld W 3 1 = bit s := fld_get hW hr 7 rfl rfl
  have b7 : flag W 3 = s := flag_of x7
  have x8 : fld W 0 3 = q.toNat := fld_get hW hr 8 rfl rfl
  have b8 : bits W 0 3 = q := bits_of x8
  refine decodeAt_encode hW hb ?_ hw
  simp [rawAt, rawVx, rawVx05, x0, b1, b2, b3, b4, b5, b6, b7, b8]

theorem RoundTrip.vmin (vd : BitVec 6) (va : BitVec 6) (vb : BitVec 6) (ty : BitVec 2) (zi : Bool) (s : Bool) (q : BitVec 3) : RoundTrip.Statement (.vmin vd va vb ty zi s q) := by
  intro pl hp hw
  obtain rfl : _ = pl := Option.some.inj hp
  have hr : InRange [(6, 6), fv vd, fv va, fv vb, fv ty, fb zi, (1, 0), fb s, fv q] := by
    simp only [inRange_cons, inRange_nil, fv_lt, fb_lt, and_true, true_and]
    decide
  have hb := pack_lt _ 0 0 (by decide) hr
  generalize hW : pack [(6, 6), fv vd, fv va, fv vb, fv ty, fb zi, (1, 0), fb s, fv q] 0 = W at hb
  have x6 : fld W 4 1 = 0 := fld_get hW hr 6 rfl rfl
  have x0 : fld W 26 6 = 6 := fld_get hW hr 0 rfl rfl
  have x1 : fld W 20 6 = vd.toNat := fld_get hW hr 1 rfl rfl
  have b1 : bits W 20 6 = vd := bits_of x1
  have x2 : fld W 14 6 = va.toNat := fld_get hW hr 2 rfl rfl
  have b2 : bits W 14 6 = va := bits_of x2
  have x3 : fld W 8 6 = vb.toNat := fld_get hW hr 3 rfl rfl
  have b3 : bits W 8 6 = vb := bits_of x3
  have x4 : fld W 6 2 = ty.toNat := fld_get hW hr 4 rfl rfl
  have b4 : bits W 6 2 = ty := bits_of x4
  have x5 : fld W 5 1 = bit zi := fld_get hW hr 5 rfl rfl
  have b5 : flag W 5 = zi := flag_of x5
  have x7 : fld W 3 1 = bit s := fld_get hW hr 7 rfl rfl
  have b7 : flag W 3 = s := flag_of x7
  have x8 : fld W 0 3 = q.toNat := fld_get hW hr 8 rfl rfl
  have b8 : bits W 0 3 = q := bits_of x8
  refine decodeAt_encode hW hb ?_ hw
  simp [rawAt, rawVx, rawVx06, x6, x0, b1, b2, b3, b4, b5, b7, b8]

theorem RoundTrip.vmax (vd : BitVec 6) (va : BitVec 6) (vb : BitVec 6) (ty : BitVec 2) (zi : Bool) (s : Bool) (q : BitVec 3) : RoundTrip.Statement (.vmax vd va vb ty zi s q) := by
  intro pl hp hw
  obtain rfl : _ = pl := Option.some.inj hp
  have hr : InRange [(6, 7), fv vd, fv va, fv vb, fv ty, fb zi, (1, 0), fb s, fv q] := by
    simp only [inRange_cons, inRange_nil, fv_lt, fb_lt, and_true, true_and]
    decide
  have hb := pack_lt _ 0 0 (by decide) hr
  generalize hW : pack [(6, 7), fv vd, fv va, fv vb, fv ty, fb zi, (1, 0), fb s, fv q] 0 = W at hb
  have x6 : fld W 4 1 = 0 := fld_get hW hr 6 rfl rfl
  have x0 : fld W 26 6 = 7 := fld_get hW hr 0 rfl rfl
  have x1 : fld W 20 6 = vd.toNat := fld_get hW hr 1 rfl rfl
  have b1 : bits W 20 6 = vd := bits_of x1
  have x2 : fld W 14 6 = va.toNat := fld_get hW hr 2 rfl rfl
  have b2 : bits W 14 6 = va := bits_of x2
  have x3 : fld W 8 6 = vb.toNat := fld_get hW hr 3 rfl rfl
  have b3 : bits W 8 6 = vb := bits_of x3
  have x4 : fld W 6 2 = ty.toNat := fld_get hW hr 4 rfl rfl
  have b4 : bits W 6 2 = ty := bits_of x4
  have x5 : fld W 5 1 = bit zi := fld_get hW hr 5 rfl rfl
  have b5 : flag W 5 = zi := flag_of x5
  have x7 : fld W 3 1 = bit s := fld_get hW hr 7 rfl rfl
  have b7 : flag W 3 = s := flag_of x7
  have x8 : fld W 0 3 = q.toNat := fld_get hW hr 8 rfl rfl
  have b8 : bits W 0 3 = q := bits_of x8
  refine decodeAt_encode hW hb ?_ hw
  simp [rawAt, rawVx, rawVx07, x6, x0, b1, b2, b3, b4, b5, b7, b8]

theorem RoundTrip.vabs (vd : BitVec 6) (va : BitVec 6) (ty : BitVec 2) (q : BitVec 3) : RoundTrip.Statement (.vabs vd va ty q) := by
  intro pl hp hw
  obtain rfl : _ = pl := Option.some.inj hp
  have hr : InRange [(6, 8), fv vd, fv va, (6, 0), fv ty, (3, 0), fv q] := by
    simp only [inRange_cons, inRange_nil, fv_lt, and_true, true_and]
    decide
  have hb := pack_lt _ 0 0 (by decide) hr
  generalize hW : pack [(6, 8), fv vd, fv va, (6, 0), fv ty, (3, 0), fv q] 0 = W at hb
  have x5 : fld W 3 3 = 0 := fld_get hW hr 5 rfl rfl
  have x3 : fld W 8 6 = 0 := fld_get hW hr 3 rfl rfl
  have x0 : fld W 26 6 = 8 := fld_get hW hr 0 rfl rfl
  have x1 : fld W 20 6 = vd.toNat := fld_get hW hr 1 rfl rfl
  have b1 : bits W 20 6 = vd := bits_of x1
  have x2 : fld W 14 6 = va.toNat := fld_get hW hr 2 rfl rfl
  have b2 : bits W 14 6 = va := bits_of x2
  have x4 : fld W 6 2 = ty.toNat := fld_get hW hr 4 rfl rfl
  have b4 : bits W 6 2 = ty := bits_of x4
  have x6 : fld W 0 3 = q.toNat := fld_get hW hr 6 rfl rfl
  have b6 : bits W 0 3 = q := bits_of x6
  refine decodeAt_encode hW hb ?_ hw
  simp [rawAt, rawVx, rawVx08, x5, x3, x0, b1, b2, b4, b6]

theorem RoundTrip.vneg (vd : BitVec 6) (va : BitVec 6) (ty : BitVec 2) (q : BitVec 3) : RoundTrip.Statement (.vneg vd va ty q) := by
  intro pl hp hw
  obtain rfl : _ = pl := Option.some.inj hp
  have hr : InRange [(6, 9), fv vd, fv va, (6, 0), fv ty, (3, 0), fv q] := by
    simp only [inRange_cons, inRange_nil, fv_lt, and_true, true_and]
    decide
  have hb := pack_lt _ 0 0 (by decide) hr
  generalize hW : pack [(6, 9), fv vd, fv va, (6, 0), fv ty, (3, 0), fv q] 0 = W at hb
  have x5 : fld W 3 3 = 0 := fld_get hW hr 5 rfl rfl
  have x3 : fld W 8 6 = 0 := fld_get hW hr 3 rfl rfl
  have x0 : fld W 26 6 = 9 := fld_get hW hr 0 rfl rfl
  have x1 : fld W 20 6 = vd.toNat := fld_get hW hr 1 rfl rfl
  have b1 : bits W 20 6 = vd := bits_of x1
  have x2 : fld W 14 6 = va.toNat := fld_get hW hr 2 rfl rfl
  have b2 : bits W 14 6 = va := bits_of x2
  have x4 : fld W 6 2 = ty.toNat := fld_get hW hr 4 rfl rfl
  have b4 : bits W 6 2 = ty := bits_of x4
  have x6 : fld W 0 3 = q.toNat := fld_get hW hr 6 rfl rfl
  have b6 : bits W 0 3 = q := bits_of x6
  refine decodeAt_encode hW hb ?_ hw
  simp [rawAt, rawVx, rawVx09, x5, x3, x0, b1, b2, b4, b6]

theorem RoundTrip.vdiv (vd : BitVec 6) (va : BitVec 6) (vb : BitVec 6) (ty : BitVec 2) (zi : Bool) (zo : Bool) (s : Bool) (q : BitVec 3) : RoundTrip.Statement (.vdiv vd va vb ty zi zo s q) := by
  intro pl hp hw
  obtain rfl : _ = pl := Option.some.inj hp
  have hr : InRange [(6, 10), fv vd, fv va, fv vb, fv ty, fb zi, fb zo, fb s, fv q] := by
    simp only [inRange_cons, inRange_nil, fv_lt, fb_lt, and_true, true_and]
    decide
  have hb := pack_lt _ 0 0 (by decide) hr
  generalize hW : pack [(6, 10), fv vd, fv va, fv vb, fv ty, fb zi, fb zo, fb s, fv q] 0 = W at hb
  have x0 : fld W 26 6 = 10 := fld_get hW hr 0 rfl rfl
  have x1 : fld W 20 6 = vd.toNat := fld_get hW hr 1 rfl rfl
  have b1 : bits W 20 6 = vd := bits_of x1
  have x2 : fld W 14 6 = va.toNat := fld_get hW hr 2 rfl rfl
  have b2 : bits W 14 6 = va := bits_of x2
  have x3 : fld W 8 6 = vb.toNat := fld_get hW hr 3 rfl rfl
  have b3 : bits W 8 6 = vb := bits_of x3
  have x4 : fld W 6 2 = ty.toNat := fld_get hW hr 4 rfl rfl
  have b4 : bits W 6 2 = ty := bits_of x4
  have x5 : fld W 5 1 = bit zi := fld_get hW hr 5 rfl rfl
  have b5 : flag W 5 = zi := flag_of x5
  have x6 : fld W 4 1 = bit zo := fld_get hW hr 6 rfl rfl
  have b6 : flag W 4 = zo := flag_of x6
  have x7 : fld W 3 1 = bit s := fld_get hW hr 7 rfl rfl
  have b7 : flag W 3 = s := flag_of x7
  have x8 : fld W 0 3 = q.toNat := fld_get hW hr 8 rfl rfl
  have b8 : bits W 0 3 = q := bits_of x8
  refine decodeAt_encode hW hb ?_ hw
  simp [rawAt, rawVx, rawVx0A, x0, b1, b2, b3, b4, b5, b6, b7, b8]

theorem RoundTrip.vexp (vd : BitVec 6) (va : BitVec 6) (ty : BitVec 2) (zi : Bool) (zo : Bool) (q : BitVec 3) : RoundTrip.Statement (.vexp vd va ty zi zo q) := by
  intro pl hp hw
  obtain rfl : _ = pl := Option.some.inj hp
  have hr : InRange [(6, 12), fv vd, fv va, (6, 0), fv ty, fb zi, fb zo, (1, 0), fv q] := by
    simp only [inRange_cons, inRange_nil, fv_lt, fb_lt, and_true, true_and]
    decide
  have hb := pack_lt _ 0 0 (by decide) hr
  generalize hW : pack [(6, 12), fv vd, fv va, (6, 0), fv ty, fb zi, fb zo, (1, 0), fv q] 0 = W at hb
  have x7 : fld W 3 1 = 0 := fld_get hW hr 7 rfl rfl
  have x3 : fld W 8 6 = 0 := fld_get hW hr 3 rfl rfl
  have x0 : fld W 26 6 = 12 := fld_get hW hr 0 rfl rfl
  have x1 : fld W 20 6 = vd.toNat := fld_get hW hr 1 rfl rfl
  have b1 : bits W 20 6 = vd := bits_of x1
  have x2 : fld W 14 6 = va.toNat := fld_get hW hr 2 rfl rfl
  have b2 : bits W 14 6 = va := bits_of x2
  have x4 : fld W 6 2 = ty.toNat := fld_get hW hr 4 rfl rfl
  have b4 : bits W 6 2 = ty := bits_of x4
  have x5 : fld W 5 1 = bit zi := fld_get hW hr 5 rfl rfl
  have b5 : flag W 5 = zi := flag_of x5
  have x6 : fld W 4 1 = bit zo := fld_get hW hr 6 rfl rfl
  have b6 : flag W 4 = zo := flag_of x6
  have x8 : fld W 0 3 = q.toNat := fld_get hW hr 8 rfl rfl
  have b8 : bits W 0 3 = q := bits_of x8
  refine decodeAt_encode hW hb ?_ hw
  simp [rawAt, rawVx, rawVx0C, x7, x3, x0, b1, b2, b4, b5, b6, b8]

theorem RoundTrip.vexp2 (vd : BitVec 6) (va : BitVec 6) (ty : BitVec 2) (zi : Bool) (zo : Bool) (q : BitVec 3) : RoundTrip.Statement (.vexp2 vd va ty zi zo q) := by
  intro pl hp hw
  obtain rfl : _ = pl := Option.some.inj hp
  have hr : InRange [(6, 13), fv vd, fv va, (6, 0), fv ty, fb zi, fb zo, (1, 0), fv q] := by
    simp only [inRange_cons, inRange_nil, fv_lt, fb_lt, and_true, true_and]
    decide
  have hb := pack_lt _ 0 0 (by decide) hr
  generalize hW : pack [(6, 13), fv vd, fv va, (6, 0), fv ty, fb zi, fb zo, (1, 0), fv q] 0 = W at hb
  have x7 : fld W 3 1 = 0 := fld_get hW hr 7 rfl rfl
  have x3 : fld W 8 6 = 0 := fld_get hW hr 3 rfl rfl
  have x0 : fld W 26 6 = 13 := fld_get hW hr 0 rfl rfl
  have x1 : fld W 20 6 = vd.toNat := fld_get hW hr 1 rfl rfl
  have b1 : bits W 20 6 = vd := bits_of x1
  have x2 : fld W 14 6 = va.toNat := fld_get hW hr 2 rfl rfl
  have b2 : bits W 14 6 = va := bits_of x2
  have x4 : fld W 6 2 = ty.toNat := fld_get hW hr 4 rfl rfl
  have b4 : bits W 6 2 = ty := bits_of x4
  have x5 : fld W 5 1 = bit zi := fld_get hW hr 5 rfl rfl
  have b5 : flag W 5 = zi := flag_of x5
  have x6 : fld W 4 1 = bit zo := fld_get hW hr 6 rfl rfl
  have b6 : flag W 4 = zo := flag_of x6
  have x8 : fld W 0 3 = q.toNat := fld_get hW hr 8 rfl rfl
  have b8 : bits W 0 3 = q := bits_of x8
  refine decodeAt_encode hW hb ?_ hw
  simp [rawAt, rawVx, rawVx0D, x7, x3, x0, b1, b2, b4, b5, b6, b8]

theorem RoundTrip.vlog2 (vd : BitVec 6) (va : BitVec 6) (ty : BitVec 2) (zi : Bool) (zo : Bool) (q : BitVec 3) : RoundTrip.Statement (.vlog2 vd va ty zi zo q) := by
  intro pl hp hw
  obtain rfl : _ = pl := Option.some.inj hp
  have hr : InRange [(6, 14), fv vd, fv va, (6, 0), fv ty, fb zi, fb zo, (1, 0), fv q] := by
    simp only [inRange_cons, inRange_nil, fv_lt, fb_lt, and_true, true_and]
    decide
  have hb := pack_lt _ 0 0 (by decide) hr
  generalize hW : pack [(6, 14), fv vd, fv va, (6, 0), fv ty, fb zi, fb zo, (1, 0), fv q] 0 = W at hb
  have x7 : fld W 3 1 = 0 := fld_get hW hr 7 rfl rfl
  have x3 : fld W 8 6 = 0 := fld_get hW hr 3 rfl rfl
  have x0 : fld W 26 6 = 14 := fld_get hW hr 0 rfl rfl
  have x1 : fld W 20 6 = vd.toNat := fld_get hW hr 1 rfl rfl
  have b1 : bits W 20 6 = vd := bits_of x1
  have x2 : fld W 14 6 = va.toNat := fld_get hW hr 2 rfl rfl
  have b2 : bits W 14 6 = va := bits_of x2
  have x4 : fld W 6 2 = ty.toNat := fld_get hW hr 4 rfl rfl
  have b4 : bits W 6 2 = ty := bits_of x4
  have x5 : fld W 5 1 = bit zi := fld_get hW hr 5 rfl rfl
  have b5 : flag W 5 = zi := flag_of x5
  have x6 : fld W 4 1 = bit zo := fld_get hW hr 6 rfl rfl
  have b6 : flag W 4 = zo := flag_of x6
  have x8 : fld W 0 3 = q.toNat := fld_get hW hr 8 rfl rfl
  have b8 : bits W 0 3 = q := bits_of x8
  refine decodeAt_encode hW hb ?_ hw
  simp [rawAt, rawVx, rawVx0E, x7, x3, x0, b1, b2, b4, b5, b6, b8]

theorem RoundTrip.vrcp (vd : BitVec 6) (va : BitVec 6) (ty : BitVec 2) (zi : Bool) (zo : Bool) (q : BitVec 3) : RoundTrip.Statement (.vrcp vd va ty zi zo q) := by
  intro pl hp hw
  obtain rfl : _ = pl := Option.some.inj hp
  have hr : InRange [(6, 15), fv vd, fv va, (6, 0), fv ty, fb zi, fb zo, (1, 0), fv q] := by
    simp only [inRange_cons, inRange_nil, fv_lt, fb_lt, and_true, true_and]
    decide
  have hb := pack_lt _ 0 0 (by decide) hr
  generalize hW : pack [(6, 15), fv vd, fv va, (6, 0), fv ty, fb zi, fb zo, (1, 0), fv q] 0 = W at hb
  have x7 : fld W 3 1 = 0 := fld_get hW hr 7 rfl rfl
  have x3 : fld W 8 6 = 0 := fld_get hW hr 3 rfl rfl
  have x0 : fld W 26 6 = 15 := fld_get hW hr 0 rfl rfl
  have x1 : fld W 20 6 = vd.toNat := fld_get hW hr 1 rfl rfl
  have b1 : bits W 20 6 = vd := bits_of x1
  have x2 : fld W 14 6 = va.toNat := fld_get hW hr 2 rfl rfl
  have b2 : bits W 14 6 = va := bits_of x2
  have x4 : fld W 6 2 = ty.toNat := fld_get hW hr 4 rfl rfl
  have b4 : bits W 6 2 = ty := bits_of x4
  have x5 : fld W 5 1 = bit zi := fld_get hW hr 5 rfl rfl
  have b5 : flag W 5 = zi := flag_of x5
  have x6 : fld W 4 1 = bit zo := fld_get hW hr 6 rfl rfl
  have b6 : flag W 4 = zo := flag_of x6
  have x8 : fld W 0 3 = q.toNat := fld_get hW hr 8 rfl rfl
  have b8 : bits W 0 3 = q := bits_of x8
  refine decodeAt_encode hW hb ?_ hw
  simp [rawAt, rawVx, rawVx0F, x7, x3, x0, b1, b2, b4, b5, b6, b8]

theorem RoundTrip.vrsqrt (vd : BitVec 6) (va : BitVec 6) (ty : BitVec 2) (zi : Bool) (zo : Bool) (q : BitVec 3) : RoundTrip.Statement (.vrsqrt vd va ty zi zo q) := by
  intro pl hp hw
  obtain rfl : _ = pl := Option.some.inj hp
  have hr : InRange [(6, 16), fv vd, fv va, (6, 0), fv ty, fb zi, fb zo, (1, 0), fv q] := by
    simp only [inRange_cons, inRange_nil, fv_lt, fb_lt, and_true, true_and]
    decide
  have hb := pack_lt _ 0 0 (by decide) hr
  generalize hW : pack [(6, 16), fv vd, fv va, (6, 0), fv ty, fb zi, fb zo, (1, 0), fv q] 0 = W at hb
  have x7 : fld W 3 1 = 0 := fld_get hW hr 7 rfl rfl
  have x3 : fld W 8 6 = 0 := fld_get hW hr 3 rfl rfl
  have x0 : fld W 26 6 = 16 := fld_get hW hr 0 rfl rfl
  have x1 : fld W 20 6 = vd.toNat := fld_get hW hr 1 rfl rfl
  have b1 : bits W 20 6 = vd := bits_of x1
  have x2 : fld W 14 6 = va.toNat := fld_get hW hr 2 rfl rfl
  have b2 : bits W 14 6 = va := bits_of x2
  have x4 : fld W 6 2 = ty.toNat := fld_get hW hr 4 rfl rfl
  have b4 : bits W 6 2 = ty := bits_of x4
  have x5 : fld W 5 1 = bit zi := fld_get hW hr 5 rfl rfl
  have b5 : flag W 5 = zi := flag_of x5
  have x6 : fld W 4 1 = bit zo := fld_get hW hr 6 rfl rfl
  have b6 : flag W 4 = zo := flag_of x6
  have x8 : fld W 0 3 = q.toNat := fld_get hW hr 8 rfl rfl
  have b8 : bits W 0 3 = q := bits_of x8
  refine decodeAt_encode hW hb ?_ hw
  simp [rawAt, rawVx, rawVx10, x7, x3, x0, b1, b2, b4, b5, b6, b8]

theorem RoundTrip.vsqrt (vd : BitVec 6) (va : BitVec 6) (ty : BitVec 2) (zi : Bool) (zo : Bool) (q : BitVec 3) : RoundTrip.Statement (.vsqrt vd va ty zi zo q) := by
  intro pl hp hw
  obtain rfl : _ = pl := Option.some.inj hp
  have hr : InRange [(6, 17), fv vd, fv va, (6, 0), fv ty, fb zi, fb zo, (1, 0), fv q] := by
    simp only [inRange_cons, inRange_nil, fv_lt, fb_lt, and_true, true_and]
    decide
  have hb := pack_lt _ 0 0 (by decide) hr
  generalize hW : pack [(6, 17), fv vd, fv va, (6, 0), fv ty, fb zi, fb zo, (1, 0), fv q] 0 = W at hb
  have x7 : fld W 3 1 = 0 := fld_get hW hr 7 rfl rfl
  have x3 : fld W 8 6 = 0 := fld_get hW hr 3 rfl rfl
  have x0 : fld W 26 6 = 17 := fld_get hW hr 0 rfl rfl
  have x1 : fld W 20 6 = vd.toNat := fld_get hW hr 1 rfl rfl
  have b1 : bits W 20 6 = vd := bits_of x1
  have x2 : fld W 14 6 = va.toNat := fld_get hW hr 2 rfl rfl
  have b2 : bits W 14 6 = va := bits_of x2
  have x4 : fld W 6 2 = ty.toNat := fld_get hW hr 4 rfl rfl
  have b4 : bits W 6 2 = ty := bits_of x4
  have x5 : fld W 5 1 = bit zi := fld_get hW hr 5 rfl rfl
  have b5 : flag W 5 = zi := flag_of x5
  have x6 : fld W 4 1 = bit zo := fld_get hW hr 6 rfl rfl
  have b6 : flag W 4 = zo := flag_of x6
  have x8 : fld W 0 3 = q.toNat := fld_get hW hr 8 rfl rfl
  have b8 : bits W 0 3 = q := bits_of x8
  refine decodeAt_encode hW hb ?_ hw
  simp [rawAt, rawVx, rawVx11, x7, x3, x0, b1, b2, b4, b5, b6, b8]

theorem RoundTrip.vrmax (vd : BitVec 6) (va : BitVec 6) (ty : BitVec 2) (zi : Bool) (q : BitVec 3) : RoundTrip.Statement (.vrmax vd va ty zi q) := by
  intro pl hp hw
  obtain rfl : _ = pl := Option.some.inj hp
  have hr : InRange [(6, 18), fv vd, fv va, (6, 0), fv ty, fb zi, (2, 0), fv q] := by
    simp only [inRange_cons, inRange_nil, fv_lt, fb_lt, and_true, true_and]
    decide
  have hb := pack_lt _ 0 0 (by decide) hr
  generalize hW : pack [(6, 18), fv vd, fv va, (6, 0), fv ty, fb zi, (2, 0), fv q] 0 = W at hb
  have x6 : fld W 3 2 = 0 := fld_get hW hr 6 rfl rfl
  have x3 : fld W 8 6 = 0 := fld_get hW hr 3 rfl rfl
  have x0 : fld W 26 6 = 18 := fld_get hW hr 0 rfl rfl
  have x1 : fld W 20 6 = vd.toNat := fld_get hW hr 1 rfl rfl
  have b1 : bits W 20 6 = vd := bits_of x1
  have x2 : fld W 14 6 = va.toNat := fld_get hW hr 2 rfl rfl
  have b2 : bits W 14 6 = va := bits_of x2
  have x4 : fld W 6 2 = ty.toNat := fld_get hW hr 4 rfl rfl
  have b4 : bits W 6 2 = ty := bits_of x4
  have x5 : fld W 5 1 = bit zi := fld_get hW hr 5 rfl rfl
  have b5 : flag W 5 = zi := flag_of x5
  have x7 : fld W 0 3 = q.toNat := fld_get hW hr 7 rfl rfl
  have b7 : bits W 0 3 = q := bits_of x7
  refine decodeAt_encode hW hb ?_ hw
  simp [rawAt, rawVx, rawVx12, x6, x3, x0, b1, b2, b4, b5, b7]

theorem RoundTrip.vrmin (vd : BitVec 6) (va : BitVec 6) (ty : BitVec 2) (zi : Bool) (q : BitVec 3) : RoundTrip.Statement (.vrmin vd va ty zi q) := by
  intro pl hp hw
  obtain rfl : _ = pl := Option.some.inj hp
  have hr : InRange [(6, 19), fv vd, fv va, (6, 0), fv ty, fb zi, (2, 0), fv q] := by
    simp only [inRange_cons, inRange_nil, fv_lt, fb_lt, and_true, true_and]
    decide
  have hb := pack_lt _ 0 0 (by decide) hr
  generalize hW : pack [(6, 19), fv vd, fv va, (6, 0), fv ty, fb zi, (2, 0), fv q] 0 = W at hb
  have x6 : fld W 3 2 = 0 := fld_get hW hr 6 rfl rfl
  have x3 : fld W 8 6 = 0 := fld_get hW hr 3 rfl rfl
  have x0 : fld W 26 6 = 19 := fld_get hW hr 0 rfl rfl
  have x1 : fld W 20 6 = vd.toNat := fld_get hW hr 1 rfl rfl
  have b1 : bits W 20 6 = vd := bits_of x1
  have x2 : fld W 14 6 = va.toNat := fld_get hW hr 2 rfl rfl
  have b2 : bits W 14 6 = va := bits_of x2
  have x4 : fld W 6 2 = ty.toNat := fld_get hW hr 4 rfl rfl
  have b4 : bits W 6 2 = ty := bits_of x4
  have x5 : fld W 5 1 = bit zi := fld_get hW hr 5 rfl rfl
  have b5 : flag W 5 = zi := flag_of x5
  have x7 : fld W 0 3 = q.toNat := fld_get hW hr 7 rfl rfl
  have b7 : bits W 0 3 = q := bits_of x7
  refine decodeAt_encode hW hb ?_ hw
  simp [rawAt, rawVx, rawVx13, x6, x3, x0, b1, b2, b4, b5, b7]

theorem RoundTrip.vrsum (vd : BitVec 6) (va : BitVec 6) (ty : BitVec 2) (zi : Bool) (zo : Bool) (q : BitVec 3) : RoundTrip.Statement (.vrsum vd va ty zi zo q) := by
  intro pl hp hw
  obtain rfl : _ = pl := Option.some.inj hp
  have hr : InRange [(6, 20), fv vd, fv va, (6, 0), fv ty, fb zi, fb zo, (1, 0), fv q] := by
    simp only [inRange_cons, inRange_nil, fv_lt, fb_lt, and_true, true_and]
    decide
  have hb := pack_lt _ 0 0 (by decide) hr
  generalize hW : pack [(6, 20), fv vd, fv va, (6, 0), fv ty, fb zi, fb zo, (1, 0), fv q] 0 = W at hb
  have x7 : fld W 3 1 = 0 := fld_get hW hr 7 rfl rfl
  have x3 : fld W 8 6 = 0 := fld_get hW hr 3 rfl rfl
  have x0 : fld W 26 6 = 20 := fld_get hW hr 0 rfl rfl
  have x1 : fld W 20 6 = vd.toNat := fld_get hW hr 1 rfl rfl
  have b1 : bits W 20 6 = vd := bits_of x1
  have x2 : fld W 14 6 = va.toNat := fld_get hW hr 2 rfl rfl
  have b2 : bits W 14 6 = va := bits_of x2
  have x4 : fld W 6 2 = ty.toNat := fld_get hW hr 4 rfl rfl
  have b4 : bits W 6 2 = ty := bits_of x4
  have x5 : fld W 5 1 = bit zi := fld_get hW hr 5 rfl rfl
  have b5 : flag W 5 = zi := flag_of x5
  have x6 : fld W 4 1 = bit zo := fld_get hW hr 6 rfl rfl
  have b6 : flag W 4 = zo := flag_of x6
  have x8 : fld W 0 3 = q.toNat := fld_get hW hr 8 rfl rfl
  have b8 : bits W 0 3 = q := bits_of x8
  refine decodeAt_encode hW hb ?_ hw
  simp [rawAt, rawVx, rawVx14, x7, x3, x0, b1, b2, b4, b5, b6, b8]

theorem RoundTrip.vcmplt (vd : BitVec 6) (va : BitVec 6) (vb : BitVec 6) (ty : BitVec 2) (zi : Bool) (s : Bool) (q : BitVec 3) : RoundTrip.Statement (.vcmplt vd va vb ty zi s q) := by
  intro pl hp hw
  obtain rfl : _ = pl := Option.some.inj hp
  have hr : InRange [(6, 21), fv vd, fv va, fv vb, fv ty, fb zi, (1, 0), fb s, fv q] := by
    simp only [inRange_cons, inRange_nil, fv_lt, fb_lt, and_true, true_and]
    decide
  have hb := pack_lt _ 0 0 (by decide) hr
  generalize hW : pack [(6, 21), fv vd, fv va, fv vb, fv ty, fb zi, (1, 0), fb s, fv q] 0 = W at hb
  have x6 : fld W 4 1 = 0 := fld_get hW hr 6 rfl rfl
  have x0 : fld W 26 6 = 21 := fld_get hW hr 0 rfl rfl
  have x1 : fld W 20 6 = vd.toNat := fld_get hW hr 1 rfl rfl
  have b1 : bits W 20 6 = vd := bits_of x1
  have x2 : fld W 14 6 = va.toNat := fld_get hW hr 2 rfl rfl
  have b2 : bits W 14 6 = va := bits_of x2
  have x3 : fld W 8 6 = vb.toNat := fld_get hW hr 3 rfl rfl
  have b3 : bits W 8 6 = vb := bits_of x3
  have x4 : fld W 6 2 = ty.toNat := fld_get hW hr 4 rfl rfl
  have b4 : bits W 6 2 = ty := bits_of x4
  have x5 : fld W 5 1 = bit zi := fld_get hW hr 5 rfl rfl
  have b5 : flag W 5 = zi := flag_of x5
  have x7 : fld W 3 1 = bit s := fld_get hW hr 7 rfl rfl
  have b7 : flag W 3 = s := flag_of x7
  have x8 : fld W 0 3 = q.toNat := fld_get hW hr 8 rfl rfl
  have b8 : bits W 0 3 = q := bits_of x8
  refine decodeAt_encode hW hb ?_ hw
  simp [rawAt, rawVx, rawVx15, x6, x0, b1, b2, b3, b4, b5, b7, b8]

theorem RoundTrip.vcmpeq (vd : BitVec 6) (va : BitVec 6) (vb : BitVec 6) (ty : BitVec 2) (zi : Bool) (s : Bool) (q : BitVec 3) : RoundTrip.Statement (.vcmpeq vd va vb ty zi s q) := by
  intro pl hp hw
  obtain rfl : _ = pl := Option.some.inj hp
  have hr : InRange [(6, 22), fv vd, fv va, fv vb, fv ty, fb zi, (1, 0), fb s, fv q] := by
    simp only [inRange_cons, inRange_nil, fv_lt, fb_lt, and_true, true_and]
    decide
  have hb := pack_lt _ 0 0 (by decide) hr
  generalize hW : pack [(6, 22), fv vd, fv va, fv vb, fv ty, fb zi, (1, 0), fb s, fv q] 0 = W at hb
  have x6 : fld W 4 1 = 0 := fld_get hW hr 6 rfl rfl
  have x0 : fld W 26 6 = 22 := fld_get hW hr 0 rfl rfl
  have x1 : fld W 20 6 = vd.toNat := fld_get hW hr 1 rfl rfl
  have b1 : bits W 20 6 = vd := bits_of x1
  have x2 : fld W 14 6 = va.toNat := fld_get hW hr 2 rfl rfl
  have b2 : bits W 14 6 = va := bits_of x2
  have x3 : fld W 8 6 = vb.toNat := fld_get hW hr 3 rfl rfl
  have b3 : bits W 8 6 = vb := bits_of x3
  have x4 : fld W 6 2 = ty.toNat := fld_get hW hr 4 rfl rfl
  have b4 : bits W 6 2 = ty := bits_of x4
  have x5 : fld W 5 1 = bit zi := fld_get hW hr 5 rfl rfl
  have b5 : flag W 5 = zi := flag_of x5
  have x7 : fld W 3 1 = bit s := fld_get hW hr 7 rfl rfl
  have b7 : flag W 3 = s := flag_of x7
  have x8 : fld W 0 3 = q.toNat := fld_get hW hr 8 rfl rfl
  have b8 : bits W 0 3 = q := bits_of x8
  refine decodeAt_encode hW hb ?_ hw
  simp [rawAt, rawVx, rawVx16, x6, x0, b1, b2, b3, b4, b5, b7, b8]

theorem RoundTrip.vsel (vd : BitVec 6) (va : BitVec 6) (vb : BitVec 6) (ty : BitVec 2) (s : Bool) (q : BitVec 3) : RoundTrip.Statement (.vsel vd va vb ty s q) := by
  intro pl hp hw
  obtain rfl : _ = pl := Option.some.inj hp
  have hr : InRange [(6, 23), fv vd, fv va, fv vb, fv ty, (2, 0), fb s, fv q] := by
    simp only [inRange_cons, inRange_nil, fv_lt, fb_lt, and_true, true_and]
    decide
  have hb := pack_lt _ 0 0 (by decide) hr
  generalize hW : pack [(6, 23), fv vd, fv va, fv vb, fv ty, (2, 0), fb s, fv q] 0 = W at hb
  have x5 : fld W 4 2 = 0 := fld_get hW hr 5 rfl rfl
  have x0 : fld W 26 6 = 23 := fld_get hW hr 0 rfl rfl
  have x1 : fld W 20 6 = vd.toNat := fld_get hW hr 1 rfl rfl
  have b1 : bits W 20 6 = vd := bits_of x1
  have x2 : fld W 14 6 = va.toNat := fld_get hW hr 2 rfl rfl
  have b2 : bits W 14 6 = va := bits_of x2
  have x3 : fld W 8 6 = vb.toNat := fld_get hW hr 3 rfl rfl
  have b3 : bits W 8 6 = vb := bits_of x3
  have x4 : fld W 6 2 = ty.toNat := fld_get hW hr 4 rfl rfl
  have b4 : bits W 6 2 = ty := bits_of x4
  have x6 : fld W 3 1 = bit s := fld_get hW hr 6 rfl rfl
  have b6 : flag W 3 = s := flag_of x6
  have x7 : fld W 0 3 = q.toNat := fld_get hW hr 7 rfl rfl
  have b7 : bits W 0 3 = q := bits_of x7
  refine decodeAt_encode hW hb ?_ hw
  simp [rawAt, rawVx, rawVx17, x5, x0, b1, b2, b3, b4, b6, b7]

theorem RoundTrip.vcvt (vd : BitVec 6) (va : BitVec 6) (code : BitVec 4) (ty : BitVec 2) (zi : Bool) (zo : Bool) (q : BitVec 3) : RoundTrip.Statement (.vcvt vd va code ty zi zo q) := by
  intro pl hp hw
  obtain rfl : _ = pl := Option.some.inj hp
  have hr : InRange [(6, 24), fv vd, fv va, (2, 0), fv code, fv ty, fb zi, fb zo, (1, 0), fv q] := by
    simp only [inRange_cons, inRange_nil, fv_lt, fb_lt, and_true, true_and]
    decide
  have hb := pack_lt _ 0 0 (by decide) hr
  generalize hW : pack [(6, 24), fv vd, fv va, (2, 0), fv code, fv ty, fb zi, fb zo, (1, 0), fv q] 0 = W at hb
  have x8 : fld W 3 1 = 0 := fld_get hW hr 8 rfl rfl
  have x3 : fld W 12 2 = 0 := fld_get hW hr 3 rfl rfl
  have x0 : fld W 26 6 = 24 := fld_get hW hr 0 rfl rfl
  have x1 : fld W 20 6 = vd.toNat := fld_get hW hr 1 rfl rfl
  have b1 : bits W 20 6 = vd := bits_of x1
  have x2 : fld W 14 6 = va.toNat := fld_get hW hr 2 rfl rfl
  have b2 : bits W 14 6 = va := bits_of x2
  have x4 : fld W 8 4 = code.toNat := fld_get hW hr 4 rfl rfl
  have b4 : bits W 8 4 = code := bits_of x4
  have x5 : fld W 6 2 = ty.toNat := fld_get hW hr 5 rfl rfl
  have b5 : bits W 6 2 = ty := bits_of x5
  have x6 : fld W 5 1 = bit zi := fld_get hW hr 6 rfl rfl
  have b6 : flag W 5 = zi := flag_of x6
  have x7 : fld W 4 1 = bit zo := fld_get hW hr 7 rfl rfl
  have b7 : flag W 4 = zo := flag_of x7
  have x9 : fld W 0 3 = q.toNat := fld_get hW hr 9 rfl rfl
  have b9 : bits W 0 3 = q := bits_of x9
  refine decodeAt_encode hW hb ?_ hw
  simp [rawAt, rawVx, rawVx18, x8, x3, x0, b1, b2, b4, b5, b6, b7, b9]

theorem RoundTrip.vmov (vd : BitVec 6) (va : BitVec 6) (q : BitVec 3) : RoundTrip.Statement (.vmov vd va q) := by
  intro pl hp hw
  obtain rfl : _ = pl := Option.some.inj hp
  have hr : InRange [(6, 25), fv vd, fv va, (11, 0), fv q] := by
    simp only [inRange_cons, inRange_nil, fv_lt, and_true, true_and]
    decide
  have hb := pack_lt _ 0 0 (by decide) hr
  generalize hW : pack [(6, 25), fv vd, fv va, (11, 0), fv q] 0 = W at hb
  have x3 : fld W 3 11 = 0 := fld_get hW hr 3 rfl rfl
  have x0 : fld W 26 6 = 25 := fld_get hW hr 0 rfl rfl
  have x1 : fld W 20 6 = vd.toNat := fld_get hW hr 1 rfl rfl
  have b1 : bits W 20 6 = vd := bits_of x1
  have x2 : fld W 14 6 = va.toNat := fld_get hW hr 2 rfl rfl
  have b2 : bits W 14 6 = va := bits_of x2
  have x4 : fld W 0 3 = q.toNat := fld_get hW hr 4 rfl rfl
  have b4 : bits W 0 3 = q := bits_of x4
  refine decodeAt_encode hW hb ?_ hw
  simp [rawAt, rawVx, rawVx19, x3, x0, b1, b2, b4]

theorem RoundTrip.vbcast (vd : BitVec 6) (va : BitVec 6) (vb : BitVec 6) (ty : BitVec 2) (q : BitVec 3) : RoundTrip.Statement (.vbcast vd va vb ty q) := by
  intro pl hp hw
  obtain rfl : _ = pl := Option.some.inj hp
  have hr : InRange [(6, 26), fv vd, fv va, fv vb, fv ty, (3, 0), fv q] := by
    simp only [inRange_cons, inRange_nil, fv_lt, and_true, true_and]
    decide
  have hb := pack_lt _ 0 0 (by decide) hr
  generalize hW : pack [(6, 26), fv vd, fv va, fv vb, fv ty, (3, 0), fv q] 0 = W at hb
  have x5 : fld W 3 3 = 0 := fld_get hW hr 5 rfl rfl
  have x0 : fld W 26 6 = 26 := fld_get hW hr 0 rfl rfl
  have x1 : fld W 20 6 = vd.toNat := fld_get hW hr 1 rfl rfl
  have b1 : bits W 20 6 = vd := bits_of x1
  have x2 : fld W 14 6 = va.toNat := fld_get hW hr 2 rfl rfl
  have b2 : bits W 14 6 = va := bits_of x2
  have x3 : fld W 8 6 = vb.toNat := fld_get hW hr 3 rfl rfl
  have b3 : bits W 8 6 = vb := bits_of x3
  have x4 : fld W 6 2 = ty.toNat := fld_get hW hr 4 rfl rfl
  have b4 : bits W 6 2 = ty := bits_of x4
  have x6 : fld W 0 3 = q.toNat := fld_get hW hr 6 rfl rfl
  have b6 : bits W 0 3 = q := bits_of x6
  refine decodeAt_encode hW hb ?_ hw
  simp [rawAt, rawVx, rawVx1A, x5, x0, b1, b2, b3, b4, b6]

theorem RoundTrip.vbcastY (vd : BitVec 6) (vb : BitVec 5) (ty : BitVec 2) (q : BitVec 3) : RoundTrip.Statement (.vbcastY vd vb ty q) := by
  intro pl hp hw
  obtain rfl : _ = pl := Option.some.inj hp
  have hr : InRange [(6, 26), fv vd, (7, 0), fv vb, fv ty, (3, 1), fv q] := by
    simp only [inRange_cons, inRange_nil, fv_lt, and_true, true_and]
    decide
  have hb := pack_lt _ 0 0 (by decide) hr
  generalize hW : pack [(6, 26), fv vd, (7, 0), fv vb, fv ty, (3, 1), fv q] 0 = W at hb
  have x5 : fld W 3 3 = 1 := fld_get hW hr 5 rfl rfl
  have x2 : fld W 13 7 = 0 := fld_get hW hr 2 rfl rfl
  have x0 : fld W 26 6 = 26 := fld_get hW hr 0 rfl rfl
  have x1 : fld W 20 6 = vd.toNat := fld_get hW hr 1 rfl rfl
  have b1 : bits W 20 6 = vd := bits_of x1
  have x3 : fld W 8 5 = vb.toNat := fld_get hW hr 3 rfl rfl
  have b3 : bits W 8 5 = vb := bits_of x3
  have x4 : fld W 6 2 = ty.toNat := fld_get hW hr 4 rfl rfl
  have b4 : bits W 6 2 = ty := bits_of x4
  have x6 : fld W 0 3 = q.toNat := fld_get hW hr 6 rfl rfl
  have b6 : bits W 0 3 = q := bits_of x6
  refine decodeAt_encode hW hb ?_ hw
  simp [rawAt, rawVx, rawVx1A, x5, x2, x0, b1, b3, b4, b6]

theorem RoundTrip.vlsh (vd : BitVec 6) (va : BitVec 6) (n : BitVec 6) (ty : BitVec 2) (q : BitVec 3) : RoundTrip.Statement (.vlsh vd va n ty q) := by
  intro pl hp hw
  obtain rfl : _ = pl := Option.some.inj hp
  have hr : InRange [(6, 27), fv vd, fv va, fv n, fv ty, (3, 0), fv q] := by
    simp only [inRange_cons, inRange_nil, fv_lt, and_true, true_and]
    decide
  have hb := pack_lt _ 0 0 (by decide) hr
  generalize hW : pack [(6, 27), fv vd, fv va, fv n, fv ty, (3, 0), fv q] 0 = W at hb
  have x5 : fld W 3 3 = 0 := fld_get hW hr 5 rfl rfl
  have x0 : fld W 26 6 = 27 := fld_get hW hr 0 rfl rfl
  have x1 : fld W 20 6 = vd.toNat := fld_get hW hr 1 rfl rfl
  have b1 : bits W 20 6 = vd := bits_of x1
  have x2 : fld W 14 6 = va.toNat := fld_get hW hr 2 rfl rfl
  have b2 : bits W 14 6 = va := bits_of x2
  have x3 : fld W 8 6 = n.toNat := fld_get hW hr 3 rfl rfl
  have b3 : bits W 8 6 = n := bits_of x3
  have x4 : fld W 6 2 = ty.toNat := fld_get hW hr 4 rfl rfl
  have b4 : bits W 6 2 = ty := bits_of x4
  have x6 : fld W 0 3 = q.toNat := fld_get hW hr 6 rfl rfl
  have b6 : bits W 0 3 = q := bits_of x6
  refine decodeAt_encode hW hb ?_ hw
  simp [rawAt, rawVx, rawVx1B, x5, x0, b1, b2, b3, b4, b6]

theorem RoundTrip.vlshY (vd : BitVec 6) (va : BitVec 6) (vb : BitVec 5) (ty : BitVec 2) (q : BitVec 3) : RoundTrip.Statement (.vlshY vd va vb ty q) := by
  intro pl hp hw
  obtain rfl : _ = pl := Option.some.inj hp
  have hr : InRange [(6, 27), fv vd, fv va, (1, 0), fv vb, fv ty, (3, 1), fv q] := by
    simp only [inRange_cons, inRange_nil, fv_lt, and_true, true_and]
    decide
  have hb := pack_lt _ 0 0 (by decide) hr
  generalize hW : pack [(6, 27), fv vd, fv va, (1, 0), fv vb, fv ty, (3, 1), fv q] 0 = W at hb
  have x6 : fld W 3 3 = 1 := fld_get hW hr 6 rfl rfl
  have x3 : fld W 13 1 = 0 := fld_get hW hr 3 rfl rfl
  have x0 : fld W 26 6 = 27 := fld_get hW hr 0 rfl rfl
  have x1 : fld W 20 6 = vd.toNat := fld_get hW hr 1 rfl rfl
  have b1 : bits W 20 6 = vd := bits_of x1
  have x2 : fld W 14 6 = va.toNat := fld_get hW hr 2 rfl rfl
  have b2 : bits W 14 6 = va := bits_of x2
  have x4 : fld W 8 5 = vb.toNat := fld_get hW hr 4 rfl rfl
  have b4 : bits W 8 5 = vb := bits_of x4
  have x5 : fld W 6 2 = ty.toNat := fld_get hW hr 5 rfl rfl
  have b5 : bits W 6 2 = ty := bits_of x5
  have x7 : fld W 0 3 = q.toNat := fld_get hW hr 7 rfl rfl
  have b7 : bits W 0 3 = q := bits_of x7
  refine decodeAt_encode hW hb ?_ hw
  simp [rawAt, rawVx, rawVx1B, x6, x3, x0, b1, b2, b4, b5, b7]

theorem RoundTrip.vget (vd : BitVec 5) (va : BitVec 6) (vb : BitVec 5) (ty : BitVec 2) (q : BitVec 3) : RoundTrip.Statement (.vget vd va vb ty q) := by
  intro pl hp hw
  obtain rfl : _ = pl := Option.some.inj hp
  have hr : InRange [(7, 56), fv vd, fv va, (1, 0), fv vb, fv ty, (3, 0), fv q] := by
    simp only [inRange_cons, inRange_nil, fv_lt, and_true, true_and]
    decide
  have hb := pack_lt _ 0 0 (by decide) hr
  generalize hW : pack [(7, 56), fv vd, fv va, (1, 0), fv vb, fv ty, (3, 0), fv q] 0 = W at hb
  have x6 : fld W 3 3 = 0 := fld_get hW hr 6 rfl rfl
  have x3 : fld W 13 1 = 0 := fld_get hW hr 3 rfl rfl
  have x0 : fld W 25 7 = 56 := fld_get hW hr 0 rfl rfl
  have g25_1 : fld W 25 1 = 0 := fld_part x0 25 1 (by decide) rfl
  have g26_6 : fld W 26 6 = 28 := fld_part x0 26 6 (by decide) rfl
  have x1 : fld W 20 5 = vd.toNat := fld_get hW hr 1 rfl rfl
  have b1 : bits W 20 5 = vd := bits_of x1
  have x2 : fld W 14 6 = va.toNat := fld_get hW hr 2 rfl rfl
  have b2 : bits W 14 6 = va := bits_of x2
  have x4 : fld W 8 5 = vb.toNat := fld_get hW hr 4 rfl rfl
  have b4 : bits W 8 5 = vb := bits_of x4
  have x5 : fld W 6 2 = ty.toNat := fld_get hW hr 5 rfl rfl
  have b5 : bits W 6 2 = ty := bits_of x5
  have x7 : fld W 0 3 = q.toNat := fld_get hW hr 7 rfl rfl
  have b7 : bits W 0 3 = q := bits_of x7
  refine decodeAt_encode hW hb ?_ hw
  simp [rawAt, rawVx, rawVx1C, x6, x3, g25_1, g26_6, b1, b2, b4, b5, b7]

theorem RoundTrip.vput (vd : BitVec 6) (va : BitVec 5) (vb : BitVec 5) (ty : BitVec 2) (q : BitVec 3) : RoundTrip.Statement (.vput vd va vb ty q) := by
  intro pl hp hw
  obtain rfl : _ = pl := Option.some.inj hp
  have hr : InRange [(6, 29), fv vd, (1, 0), fv va, (1, 0), fv vb, fv ty, (3, 0), fv q] := by
    simp only [inRange_cons, inRange_nil, fv_lt, and_true, true_and]
    decide
  have hb := pack_lt _ 0 0 (by decide) hr
  generalize hW : pack [(6, 29), fv vd, (1, 0), fv va, (1, 0), fv vb, fv ty, (3, 0), fv q] 0 = W at hb
  have x7 : fld W 3 3 = 0 := fld_get hW hr 7 rfl rfl
  have x4 : fld W 13 1 = 0 := fld_get hW hr 4 rfl rfl
  have x2 : fld W 19 1 = 0 := fld_get hW hr 2 rfl rfl
  have x0 : fld W 26 6 = 29 := fld_get hW hr 0 rfl rfl
  have x1 : fld W 20 6 = vd.toNat := fld_get hW hr 1 rfl rfl
  have b1 : bits W 20 6 = vd := bits_of x1
  have x3 : fld W 14 5 = va.toNat := fld_get hW hr 3 rfl rfl
  have b3 : bits W 14 5 = va := bits_of x3
  have x5 : fld W 8 5 = vb.toNat := fld_get hW hr 5 rfl rfl
  have b5 : bits W 8 5 = vb := bits_of x5
  have x6 : fld W 6 2 = ty.toNat := fld_get hW hr 6 rfl rfl
  have b6 : bits W 6 2 = ty := bits_of x6
  have x8 : fld W 0 3 = q.toNat := fld_get hW hr 8 rfl rfl
  have b8 : bits W 0 3 = q := bits_of x8
  refine decodeAt_encode hW hb ?_ hw
  simp [rawAt, rawVx, rawVx1D, x7, x4, x2, x0, b1, b3, b5, b6, b8]

theorem RoundTrip.viadd (vd : BitVec 6) (va : BitVec 6) (vb : BitVec 6) (s : Bool) (q : BitVec 3) : RoundTrip.Statement (.viadd vd va vb s q) := by
  intro pl hp hw
  obtain rfl : _ = pl := Option.some.inj hp
  have hr : InRange [(6, 32), fv vd, fv va, fv vb, (4, 0), fb s, fv q] := by
    simp only [inRange_cons, inRange_nil, fv_lt, fb_lt, and_true, true_and]
    decide
  have hb := pack_lt _ 0 0 (by decide) hr
  generalize hW : pack [(6, 32), fv vd, fv va, fv vb, (4, 0), fb s, fv q] 0 = W at hb
  have x4 : fld W 4 4 = 0 := fld_get hW hr 4 rfl rfl
  have x0 : fld W 26 6 = 32 := fld_get hW hr 0 rfl rfl
  have x1 : fld W 20 6 = vd.toNat := fld_get hW hr 1 rfl rfl
  have b1 : bits W 20 6 = vd := bits_of x1
  have x2 : fld W 14 6 = va.toNat := fld_get hW hr 2 rfl rfl
  have b2 : bits W 14 6 = va := bits_of x2
  have x3 : fld W 8 6 = vb.toNat := fld_get hW hr 3 rfl rfl
  have b3 : bits W 8 6 = vb := bits_of x3
  have x5 : fld W 3 1 = bit s := fld_get hW hr 5 rfl rfl
  have b5 : flag W 3 = s := flag_of x5
  have x6 : fld W 0 3 = q.toNat := fld_get hW hr 6 rfl rfl
  have b6 : bits W 0 3 = q := bits_of x6
  refine decodeAt_encode hW hb ?_ hw
  simp [rawAt, rawVx, rawVx20, x4, x0, b1, b2, b3, b5, b6]

theorem RoundTrip.visub (vd : BitVec 6) (va : BitVec 6) (vb : BitVec 6) (s : Bool) (q : BitVec 3) : RoundTrip.Statement (.visub vd va vb s q) := by
  intro pl hp hw
  obtain rfl : _ = pl := Option.some.inj hp
  have hr : InRange [(6, 33), fv vd, fv va, fv vb, (4, 0), fb s, fv q] := by
    simp only [inRange_cons, inRange_nil, fv_lt, fb_lt, and_true, true_and]
    decide
  have hb := pack_lt _ 0 0 (by decide) hr
  generalize hW : pack [(6, 33), fv vd, fv va, fv vb, (4, 0), fb s, fv q] 0 = W at hb
  have x4 : fld W 4 4 = 0 := fld_get hW hr 4 rfl rfl
  have x0 : fld W 26 6 = 33 := fld_get hW hr 0 rfl rfl
  have x1 : fld W 20 6 = vd.toNat := fld_get hW hr 1 rfl rfl
  have b1 : bits W 20 6 = vd := bits_of x1
  have x2 : fld W 14 6 = va.toNat := fld_get hW hr 2 rfl rfl
  have b2 : bits W 14 6 = va := bits_of x2
  have x3 : fld W 8 6 = vb.toNat := fld_get hW hr 3 rfl rfl
  have b3 : bits W 8 6 = vb := bits_of x3
  have x5 : fld W 3 1 = bit s := fld_get hW hr 5 rfl rfl
  have b5 : flag W 3 = s := flag_of x5
  have x6 : fld W 0 3 = q.toNat := fld_get hW hr 6 rfl rfl
  have b6 : bits W 0 3 = q := bits_of x6
  refine decodeAt_encode hW hb ?_ hw
  simp [rawAt, rawVx, rawVx21, x4, x0, b1, b2, b3, b5, b6]

theorem RoundTrip.vimul (vd : BitVec 6) (va : BitVec 6) (vb : BitVec 6) (s : Bool) (q : BitVec 3) : RoundTrip.Statement (.vimul vd va vb s q) := by
  intro pl hp hw
  obtain rfl : _ = pl := Option.some.inj hp
  have hr : InRange [(6, 34), fv vd, fv va, fv vb, (4, 0), fb s, fv q] := by
    simp only [inRange_cons, inRange_nil, fv_lt, fb_lt, and_true, true_and]
    decide
  have hb := pack_lt _ 0 0 (by decide) hr
  generalize hW : pack [(6, 34), fv vd, fv va, fv vb, (4, 0), fb s, fv q] 0 = W at hb
  have x4 : fld W 4 4 = 0 := fld_get hW hr 4 rfl rfl
  have x0 : fld W 26 6 = 34 := fld_get hW hr 0 rfl rfl
  have x1 : fld W 20 6 = vd.toNat := fld_get hW hr 1 rfl rfl
  have b1 : bits W 20 6 = vd := bits_of x1
  have x2 : fld W 14 6 = va.toNat := fld_get hW hr 2 rfl rfl
  have b2 : bits W 14 6 = va := bits_of x2
  have x3 : fld W 8 6 = vb.toNat := fld_get hW hr 3 rfl rfl
  have b3 : bits W 8 6 = vb := bits_of x3
  have x5 : fld W 3 1 = bit s := fld_get hW hr 5 rfl rfl
  have b5 : flag W 3 = s := flag_of x5
  have x6 : fld W 0 3 = q.toNat := fld_get hW hr 6 rfl rfl
  have b6 : bits W 0 3 = q := bits_of x6
  refine decodeAt_encode hW hb ?_ hw
  simp [rawAt, rawVx, rawVx22, x4, x0, b1, b2, b3, b5, b6]

theorem RoundTrip.vand (vd : BitVec 6) (va : BitVec 6) (vb : BitVec 6) (s : Bool) (q : BitVec 3) : RoundTrip.Statement (.vand vd va vb s q) := by
  intro pl hp hw
  obtain rfl : _ = pl := Option.some.inj hp
  have hr : InRange [(6, 35), fv vd, fv va, fv vb, (4, 0), fb s, fv q] := by
    simp only [inRange_cons, inRange_nil, fv_lt, fb_lt, and_true, true_and]
    decide
  have hb := pack_lt _ 0 0 (by decide) hr
  generalize hW : pack [(6, 35), fv vd, fv va, fv vb, (4, 0), fb s, fv q] 0 = W at hb
  have x4 : fld W 4 4 = 0 := fld_get hW hr 4 rfl rfl
  have x0 : fld W 26 6 = 35 := fld_get hW hr 0 rfl rfl
  have x1 : fld W 20 6 = vd.toNat := fld_get hW hr 1 rfl rfl
  have b1 : bits W 20 6 = vd := bits_of x1
  have x2 : fld W 14 6 = va.toNat := fld_get hW hr 2 rfl rfl
  have b2 : bits W 14 6 = va := bits_of x2
  have x3 : fld W 8 6 = vb.toNat := fld_get hW hr 3 rfl rfl
  have b3 : bits W 8 6 = vb := bits_of x3
  have x5 : fld W 3 1 = bit s := fld_get hW hr 5 rfl rfl
  have b5 : flag W 3 = s := flag_of x5
  have x6 : fld W 0 3 = q.toNat := fld_get hW hr 6 rfl rfl
  have b6 : bits W 0 3 = q := bits_of x6
  refine decodeAt_encode hW hb ?_ hw
  simp [rawAt, rawVx, rawVx23, x4, x0, b1, b2, b3, b5, b6]

theorem RoundTrip.vor (vd : BitVec 6) (va : BitVec 6) (vb : BitVec 6) (s : Bool) (q : BitVec 3) : RoundTrip.Statement (.vor vd va vb s q) := by
  intro pl hp hw
  obtain rfl : _ = pl := Option.some.inj hp
  have hr : InRange [(6, 36), fv vd, fv va, fv vb, (4, 0), fb s, fv q] := by
    simp only [inRange_cons, inRange_nil, fv_lt, fb_lt, and_true, true_and]
    decide
  have hb := pack_lt _ 0 0 (by decide) hr
  generalize hW : pack [(6, 36), fv vd, fv va, fv vb, (4, 0), fb s, fv q] 0 = W at hb
  have x4 : fld W 4 4 = 0 := fld_get hW hr 4 rfl rfl
  have x0 : fld W 26 6 = 36 := fld_get hW hr 0 rfl rfl
  have x1 : fld W 20 6 = vd.toNat := fld_get hW hr 1 rfl rfl
  have b1 : bits W 20 6 = vd := bits_of x1
  have x2 : fld W 14 6 = va.toNat := fld_get hW hr 2 rfl rfl
  have b2 : bits W 14 6 = va := bits_of x2
  have x3 : fld W 8 6 = vb.toNat := fld_get hW hr 3 rfl rfl
  have b3 : bits W 8 6 = vb := bits_of x3
  have x5 : fld W 3 1 = bit s := fld_get hW hr 5 rfl rfl
  have b5 : flag W 3 = s := flag_of x5
  have x6 : fld W 0 3 = q.toNat := fld_get hW hr 6 rfl rfl
  have b6 : bits W 0 3 = q := bits_of x6
  refine decodeAt_encode hW hb ?_ hw
  simp [rawAt, rawVx, rawVx24, x4, x0, b1, b2, b3, b5, b6]

theorem RoundTrip.vxor (vd : BitVec 6) (va : BitVec 6) (vb : BitVec 6) (s : Bool) (q : BitVec 3) : RoundTrip.Statement (.vxor vd va vb s q) := by
  intro pl hp hw
  obtain rfl : _ = pl := Option.some.inj hp
  have hr : InRange [(6, 37), fv vd, fv va, fv vb, (4, 0), fb s, fv q] := by
    simp only [inRange_cons, inRange_nil, fv_lt, fb_lt, and_true, true_and]
    decide
  have hb := pack_lt _ 0 0 (by decide) hr
  generalize hW : pack [(6, 37), fv vd, fv va, fv vb, (4, 0), fb s, fv q] 0 = W at hb
  have x4 : fld W 4 4 = 0 := fld_get hW hr 4 rfl rfl
  have x0 : fld W 26 6 = 37 := fld_get hW hr 0 rfl rfl
  have x1 : fld W 20 6 = vd.toNat := fld_get hW hr 1 rfl rfl
  have b1 : bits W 20 6 = vd := bits_of x1
  have x2 : fld W 14 6 = va.toNat := fld_get hW hr 2 rfl rfl
  have b2 : bits W 14 6 = va := bits_of x2
  have x3 : fld W 8 6 = vb.toNat := fld_get hW hr 3 rfl rfl
  have b3 : bits W 8 6 = vb := bits_of x3
  have x5 : fld W 3 1 = bit s := fld_get hW hr 5 rfl rfl
  have b5 : flag W 3 = s := flag_of x5
  have x6 : fld W 0 3 = q.toNat := fld_get hW hr 6 rfl rfl
  have b6 : bits W 0 3 = q := bits_of x6
  refine decodeAt_encode hW hb ?_ hw
  simp [rawAt, rawVx, rawVx25, x4, x0, b1, b2, b3, b5, b6]

theorem RoundTrip.vsll (vd : BitVec 6) (va : BitVec 6) (vb : BitVec 6) (s : Bool) (q : BitVec 3) : RoundTrip.Statement (.vsll vd va vb s q) := by
  intro pl hp hw
  obtain rfl : _ = pl := Option.some.inj hp
  have hr : InRange [(6, 38), fv vd, fv va, fv vb, (4, 0), fb s, fv q] := by
    simp only [inRange_cons, inRange_nil, fv_lt, fb_lt, and_true, true_and]
    decide
  have hb := pack_lt _ 0 0 (by decide) hr
  generalize hW : pack [(6, 38), fv vd, fv va, fv vb, (4, 0), fb s, fv q] 0 = W at hb
  have x4 : fld W 4 4 = 0 := fld_get hW hr 4 rfl rfl
  have x0 : fld W 26 6 = 38 := fld_get hW hr 0 rfl rfl
  have x1 : fld W 20 6 = vd.toNat := fld_get hW hr 1 rfl rfl
  have b1 : bits W 20 6 = vd := bits_of x1
  have x2 : fld W 14 6 = va.toNat := fld_get hW hr 2 rfl rfl
  have b2 : bits W 14 6 = va := bits_of x2
  have x3 : fld W 8 6 = vb.toNat := fld_get hW hr 3 rfl rfl
  have b3 : bits W 8 6 = vb := bits_of x3
  have x5 : fld W 3 1 = bit s := fld_get hW hr 5 rfl rfl
  have b5 : flag W 3 = s := flag_of x5
  have x6 : fld W 0 3 = q.toNat := fld_get hW hr 6 rfl rfl
  have b6 : bits W 0 3 = q := bits_of x6
  refine decodeAt_encode hW hb ?_ hw
  simp [rawAt, rawVx, rawVx26, x4, x0, b1, b2, b3, b5, b6]

theorem RoundTrip.vsrl (vd : BitVec 6) (va : BitVec 6) (vb : BitVec 6) (s : Bool) (q : BitVec 3) : RoundTrip.Statement (.vsrl vd va vb s q) := by
  intro pl hp hw
  obtain rfl : _ = pl := Option.some.inj hp
  have hr : InRange [(6, 39), fv vd, fv va, fv vb, (4, 0), fb s, fv q] := by
    simp only [inRange_cons, inRange_nil, fv_lt, fb_lt, and_true, true_and]
    decide
  have hb := pack_lt _ 0 0 (by decide) hr
  generalize hW : pack [(6, 39), fv vd, fv va, fv vb, (4, 0), fb s, fv q] 0 = W at hb
  have x4 : fld W 4 4 = 0 := fld_get hW hr 4 rfl rfl
  have x0 : fld W 26 6 = 39 := fld_get hW hr 0 rfl rfl
  have x1 : fld W 20 6 = vd.toNat := fld_get hW hr 1 rfl rfl
  have b1 : bits W 20 6 = vd := bits_of x1
  have x2 : fld W 14 6 = va.toNat := fld_get hW hr 2 rfl rfl
  have b2 : bits W 14 6 = va := bits_of x2
  have x3 : fld W 8 6 = vb.toNat := fld_get hW hr 3 rfl rfl
  have b3 : bits W 8 6 = vb := bits_of x3
  have x5 : fld W 3 1 = bit s := fld_get hW hr 5 rfl rfl
  have b5 : flag W 3 = s := flag_of x5
  have x6 : fld W 0 3 = q.toNat := fld_get hW hr 6 rfl rfl
  have b6 : bits W 0 3 = q := bits_of x6
  refine decodeAt_encode hW hb ?_ hw
  simp [rawAt, rawVx, rawVx27, x4, x0, b1, b2, b3, b5, b6]

theorem RoundTrip.vsra (vd : BitVec 6) (va : BitVec 6) (vb : BitVec 6) (s : Bool) (q : BitVec 3) : RoundTrip.Statement (.vsra vd va vb s q) := by
  intro pl hp hw
  obtain rfl : _ = pl := Option.some.inj hp
  have hr : InRange [(6, 40), fv vd, fv va, fv vb, (4, 0), fb s, fv q] := by
    simp only [inRange_cons, inRange_nil, fv_lt, fb_lt, and_true, true_and]
    decide
  have hb := pack_lt _ 0 0 (by decide) hr
  generalize hW : pack [(6, 40), fv vd, fv va, fv vb, (4, 0), fb s, fv q] 0 = W at hb
  have x4 : fld W 4 4 = 0 := fld_get hW hr 4 rfl rfl
  have x0 : fld W 26 6 = 40 := fld_get hW hr 0 rfl rfl
  have x1 : fld W 20 6 = vd.toNat := fld_get hW hr 1 rfl rfl
  have b1 : bits W 20 6 = vd := bits_of x1
  have x2 : fld W 14 6 = va.toNat := fld_get hW hr 2 rfl rfl
  have b2 : bits W 14 6 = va := bits_of x2
  have x3 : fld W 8 6 = vb.toNat := fld_get hW hr 3 rfl rfl
  have b3 : bits W 8 6 = vb := bits_of x3
  have x5 : fld W 3 1 = bit s := fld_get hW hr 5 rfl rfl
  have b5 : flag W 3 = s := flag_of x5
  have x6 : fld W 0 3 = q.toNat := fld_get hW hr 6 rfl rfl
  have b6 : bits W 0 3 = q := bits_of x6
  refine decodeAt_encode hW hb ?_ hw
  simp [rawAt, rawVx, rawVx28, x4, x0, b1, b2, b3, b5, b6]

theorem RoundTrip.vimin (vd : BitVec 6) (va : BitVec 6) (vb : BitVec 6) (s : Bool) (q : BitVec 3) : RoundTrip.Statement (.vimin vd va vb s q) := by
  intro pl hp hw
  obtain rfl : _ = pl := Option.some.inj hp
  have hr : InRange [(6, 41), fv vd, fv va, fv vb, (4, 0), fb s, fv q] := by
    simp only [inRange_cons, inRange_nil, fv_lt, fb_lt, and_true, true_and]
    decide
  have hb := pack_lt _ 0 0 (by decide) hr
  generalize hW : pack [(6, 41), fv vd, fv va, fv vb, (4, 0), fb s, fv q] 0 = W at hb
  have x4 : fld W 4 4 = 0 := fld_get hW hr 4 rfl rfl
  have x0 : fld W 26 6 = 41 := fld_get hW hr 0 rfl rfl
  have x1 : fld W 20 6 = vd.toNat := fld_get hW hr 1 rfl rfl
  have b1 : bits W 20 6 = vd := bits_of x1
  have x2 : fld W 14 6 = va.toNat := fld_get hW hr 2 rfl rfl
  have b2 : bits W 14 6 = va := bits_of x2
  have x3 : fld W 8 6 = vb.toNat := fld_get hW hr 3 rfl rfl
  have b3 : bits W 8 6 = vb := bits_of x3
  have x5 : fld W 3 1 = bit s := fld_get hW hr 5 rfl rfl
  have b5 : flag W 3 = s := flag_of x5
  have x6 : fld W 0 3 = q.toNat := fld_get hW hr 6 rfl rfl
  have b6 : bits W 0 3 = q := bits_of x6
  refine decodeAt_encode hW hb ?_ hw
  simp [rawAt, rawVx, rawVx29, x4, x0, b1, b2, b3, b5, b6]

theorem RoundTrip.vimax (vd : BitVec 6) (va : BitVec 6) (vb : BitVec 6) (s : Bool) (q : BitVec 3) : RoundTrip.Statement (.vimax vd va vb s q) := by
  intro pl hp hw
  obtain rfl : _ = pl := Option.some.inj hp
  have hr : InRange [(6, 42), fv vd, fv va, fv vb, (4, 0), fb s, fv q] := by
    simp only [inRange_cons, inRange_nil, fv_lt, fb_lt, and_true, true_and]
    decide
  have hb := pack_lt _ 0 0 (by decide) hr
  generalize hW : pack [(6, 42), fv vd, fv va, fv vb, (4, 0), fb s, fv q] 0 = W at hb
  have x4 : fld W 4 4 = 0 := fld_get hW hr 4 rfl rfl
  have x0 : fld W 26 6 = 42 := fld_get hW hr 0 rfl rfl
  have x1 : fld W 20 6 = vd.toNat := fld_get hW hr 1 rfl rfl
  have b1 : bits W 20 6 = vd := bits_of x1
  have x2 : fld W 14 6 = va.toNat := fld_get hW hr 2 rfl rfl
  have b2 : bits W 14 6 = va := bits_of x2
  have x3 : fld W 8 6 = vb.toNat := fld_get hW hr 3 rfl rfl
  have b3 : bits W 8 6 = vb := bits_of x3
  have x5 : fld W 3 1 = bit s := fld_get hW hr 5 rfl rfl
  have b5 : flag W 3 = s := flag_of x5
  have x6 : fld W 0 3 = q.toNat := fld_get hW hr 6 rfl rfl
  have b6 : bits W 0 3 = q := bits_of x6
  refine decodeAt_encode hW hb ?_ hw
  simp [rawAt, rawVx, rawVx2A, x4, x0, b1, b2, b3, b5, b6]

theorem RoundTrip.vadd8 (vd : BitVec 6) (va : BitVec 6) (vb : BitVec 6) (ty : Bool) (zi : Bool) (zo : Bool) (s : Bool) (q : BitVec 3) : RoundTrip.Statement (.vadd8 vd va vb ty zi zo s q) := by
  intro pl hp hw
  obtain rfl : _ = pl := Option.some.inj hp
  have hr : InRange [(6, 44), fv vd, fv va, fv vb, (1, 0), fb ty, fb zi, fb zo, fb s, fv q] := by
    simp only [inRange_cons, inRange_nil, fv_lt, fb_lt, and_true, true_and]
    decide
  have hb := pack_lt _ 0 0 (by decide) hr
  generalize hW : pack [(6, 44), fv vd, fv va, fv vb, (1, 0), fb ty, fb zi, fb zo, fb s, fv q] 0 = W at hb
  have x4 : fld W 7 1 = 0 := fld_get hW hr 4 rfl rfl
  have x0 : fld W 26 6 = 44 := fld_get hW hr 0 rfl rfl
  have x1 : fld W 20 6 = vd.toNat := fld_get hW hr 1 rfl rfl
  have b1 : bits W 20 6 = vd := bits_of x1
  have x2 : fld W 14 6 = va.toNat := fld_get hW hr 2 rfl rfl
  have b2 : bits W 14 6 = va := bits_of x2
  have x3 : fld W 8 6 = vb.toNat := fld_get hW hr 3 rfl rfl
  have b3 : bits W 8 6 = vb := bits_of x3
  have x5 : fld W 6 1 = bit ty := fld_get hW hr 5 rfl rfl
  have b5 : flag W 6 = ty := flag_of x5
  have x6 : fld W 5 1 = bit zi := fld_get hW hr 6 rfl rfl
  have b6 : flag W 5 = zi := flag_of x6
  have x7 : fld W 4 1 = bit zo := fld_get hW hr 7 rfl rfl
  have b7 : flag W 4 = zo := flag_of x7
  have x8 : fld W 3 1 = bit s := fld_get hW hr 8 rfl rfl
  have b8 : flag W 3 = s := flag_of x8
  have x9 : fld W 0 3 = q.toNat := fld_get hW hr 9 rfl rfl
  have b9 : bits W 0 3 = q := bits_of x9
  refine decodeAt_encode hW hb ?_ hw
  simp [rawAt, rawVx, rawVx2C, x4, x0, b1, b2, b3, b5, b6, b7, b8, b9]

theorem RoundTrip.vmul8 (vd : BitVec 6) (va : BitVec 6) (vb : BitVec 6) (ty : Bool) (zi : Bool) (zo : Bool) (s : Bool) (q : BitVec 3) : RoundTrip.Statement (.vmul8 vd va vb ty zi zo s q) := by
  intro pl hp hw
  obtain rfl : _ = pl := Option.some.inj hp
  have hr : InRange [(6, 45), fv vd, fv va, fv vb, (1, 0), fb ty, fb zi, fb zo, fb s, fv q] := by
    simp only [inRange_cons, inRange_nil, fv_lt, fb_lt, and_true, true_and]
    decide
  have hb := pack_lt _ 0 0 (by decide) hr
  generalize hW : pack [(6, 45), fv vd, fv va, fv vb, (1, 0), fb ty, fb zi, fb zo, fb s, fv q] 0 = W at hb
  have x4 : fld W 7 1 = 0 := fld_get hW hr 4 rfl rfl
  have x0 : fld W 26 6 = 45 := fld_get hW hr 0 rfl rfl
  have x1 : fld W 20 6 = vd.toNat := fld_get hW hr 1 rfl rfl
  have b1 : bits W 20 6 = vd := bits_of x1
  have x2 : fld W 14 6 = va.toNat := fld_get hW hr 2 rfl rfl
  have b2 : bits W 14 6 = va := bits_of x2
  have x3 : fld W 8 6 = vb.toNat := fld_get hW hr 3 rfl rfl
  have b3 : bits W 8 6 = vb := bits_of x3
  have x5 : fld W 6 1 = bit ty := fld_get hW hr 5 rfl rfl
  have b5 : flag W 6 = ty := flag_of x5
  have x6 : fld W 5 1 = bit zi := fld_get hW hr 6 rfl rfl
  have b6 : flag W 5 = zi := flag_of x6
  have x7 : fld W 4 1 = bit zo := fld_get hW hr 7 rfl rfl
  have b7 : flag W 4 = zo := flag_of x7
  have x8 : fld W 3 1 = bit s := fld_get hW hr 8 rfl rfl
  have b8 : flag W 3 = s := flag_of x8
  have x9 : fld W 0 3 = q.toNat := fld_get hW hr 9 rfl rfl
  have b9 : bits W 0 3 = q := bits_of x9
  refine decodeAt_encode hW hb ?_ hw
  simp [rawAt, rawVx, rawVx2D, x4, x0, b1, b2, b3, b5, b6, b7, b8, b9]

theorem RoundTrip.viota (vd : BitVec 6) (ty : BitVec 2) (q : BitVec 3) : RoundTrip.Statement (.viota vd ty q) := by
  intro pl hp hw
  obtain rfl : _ = pl := Option.some.inj hp
  have hr : InRange [(6, 46), fv vd, (12, 0), fv ty, (3, 0), fv q] := by
    simp only [inRange_cons, inRange_nil, fv_lt, and_true, true_and]
    decide
  have hb := pack_lt _ 0 0 (by decide) hr
  generalize hW : pack [(6, 46), fv vd, (12, 0), fv ty, (3, 0), fv q] 0 = W at hb
  have x4 : fld W 3 3 = 0 := fld_get hW hr 4 rfl rfl
  have x2 : fld W 8 12 = 0 := fld_get hW hr 2 rfl rfl
  have x0 : fld W 26 6 = 46 := fld_get hW hr 0 rfl rfl
  have x1 : fld W 20 6 = vd.toNat := fld_get hW hr 1 rfl rfl
  have b1 : bits W 20 6 = vd := bits_of x1
  have x3 : fld W 6 2 = ty.toNat := fld_get hW hr 3 rfl rfl
  have b3 : bits W 6 2 = ty := bits_of x3
  have x5 : fld W 0 3 = q.toNat := fld_get hW hr 5 rfl rfl
  have b5 : bits W 0 3 = q := bits_of x5
  refine decodeAt_encode hW hb ?_ hw
  simp [rawAt, rawVx, rawVx2E, x4, x2, x0, b1, b3, b5]

theorem RoundTrip.vrng (vd : BitVec 6) (va : BitVec 6) (vb : BitVec 6) (s : Bool) (q : BitVec 3) : RoundTrip.Statement (.vrng vd va vb s q) := by
  intro pl hp hw
  obtain rfl : _ = pl := Option.some.inj hp
  have hr : InRange [(6, 47), fv vd, fv va, fv vb, (4, 0), fb s, fv q] := by
    simp only [inRange_cons, inRange_nil, fv_lt, fb_lt, and_true, true_and]
    decide
  have hb := pack_lt _ 0 0 (by decide) hr
  generalize hW : pack [(6, 47), fv vd, fv va, fv vb, (4, 0), fb s, fv q] 0 = W at hb
  have x4 : fld W 4 4 = 0 := fld_get hW hr 4 rfl rfl
  have x0 : fld W 26 6 = 47 := fld_get hW hr 0 rfl rfl
  have x1 : fld W 20 6 = vd.toNat := fld_get hW hr 1 rfl rfl
  have b1 : bits W 20 6 = vd := bits_of x1
  have x2 : fld W 14 6 = va.toNat := fld_get hW hr 2 rfl rfl
  have b2 : bits W 14 6 = va := bits_of x2
  have x3 : fld W 8 6 = vb.toNat := fld_get hW hr 3 rfl rfl
  have b3 : bits W 8 6 = vb := bits_of x3
  have x5 : fld W 3 1 = bit s := fld_get hW hr 5 rfl rfl
  have b5 : flag W 3 = s := flag_of x5
  have x6 : fld W 0 3 = q.toNat := fld_get hW hr 6 rfl rfl
  have b6 : bits W 0 3 = q := bits_of x6
  refine decodeAt_encode hW hb ?_ hw
  simp [rawAt, rawVx, rawVx2F, x4, x0, b1, b2, b3, b5, b6]

theorem RoundTrip.mcallGemm (sa : BitVec 6) (sb : BitVec 6) (f0 : Bool) (neg : Bool) : RoundTrip.Statement (.mcallGemm sa sb f0 neg) := by
  intro pl hp hw
  obtain rfl : _ = pl := Option.some.inj hp
  have hr : InRange [(6, 1), fv sa, fv sb, (4, 0), fb f0, fb neg, (8, 0)] := by
    simp only [inRange_cons, inRange_nil, fv_lt, fb_lt, and_true, true_and]
    decide
  have hb := pack_lt _ 0 0 (by decide) hr
  generalize hW : pack [(6, 1), fv sa, fv sb, (4, 0), fb f0, fb neg, (8, 0)] 0 = W at hb
  have x6 : fld W 0 8 = 0 := fld_get hW hr 6 rfl rfl
  have x3 : fld W 10 4 = 0 := fld_get hW hr 3 rfl rfl
  have x1 : fld W 20 6 = sa.toNat := fld_get hW hr 1 rfl rfl
  have x0 : fld W 26 6 = 1 := fld_get hW hr 0 rfl rfl
  have b1 : bits W 20 6 = sa := bits_of x1
  have x2 : fld W 14 6 = sb.toNat := fld_get hW hr 2 rfl rfl
  have b2 : bits W 14 6 = sb := bits_of x2
  have x4 : fld W 9 1 = bit f0 := fld_get hW hr 4 rfl rfl
  have b4 : flag W 9 = f0 := flag_of x4
  have x5 : fld W 8 1 = bit neg := fld_get hW hr 5 rfl rfl
  have b5 : flag W 8 = neg := flag_of x5
  have n0_9_7 : ¬ fld W 0 9 = 7 := fld_ne x6 0 8 (by decide)
  have n0_9_8 : ¬ fld W 0 9 = 8 := fld_ne x6 0 8 (by decide)
  have n0_9_9 : ¬ fld W 0 9 = 9 := fld_ne x6 0 8 (by decide)
  have n0_9_10 : ¬ fld W 0 9 = 10 := fld_ne x6 0 8 (by decide)
  have n0_26_5 : ¬ fld W 0 26 = 5 := fld_ne x6 0 8 (by decide)
  refine decodeAt_encode hW hb ?_ hw
  simp [rawAt, rawMx, rawMx01, x6, x3, x0, b1, b2, b4, b5, n0_9_7, n0_9_8, n0_9_9, n0_9_10, n0_26_5]

theorem RoundTrip.mcallGemmt (sa : BitVec 6) (sb : BitVec 6) (f0 : Bool) (neg : Bool) : RoundTrip.Statement (.mcallGemmt sa sb f0 neg) := by
  intro pl hp hw
  obtain rfl : _ = pl := Option.some.inj hp
  have hr : InRange [(6, 1), fv sa, fv sb, (4, 0), fb f0, fb neg, (8, 1)] := by
    simp only [inRange_cons, inRange_nil, fv_lt, fb_lt, and_true, true_and]
    decide
  have hb := pack_lt _ 0 0 (by decide) hr
  generalize hW : pack [(6, 1), fv sa, fv sb, (4, 0), fb f0, fb neg, (8, 1)] 0 = W at hb
  have x6 : fld W 0 8 = 1 := fld_get hW hr 6 rfl rfl
  have x3 : fld W 10 4 = 0 := fld_get hW hr 3 rfl rfl
  have x1 : fld W 20 6 = sa.toNat := fld_get hW hr 1 rfl rfl
  have x0 : fld W 26 6 = 1 := fld_get hW hr 0 rfl rfl
  have b1 : bits W 20 6 = sa := bits_of x1
  have x2 : fld W 14 6 = sb.toNat := fld_get hW hr 2 rfl rfl
  have b2 : bits W 14 6 = sb := bits_of x2
  have x4 : fld W 9 1 = bit f0 := fld_get hW hr 4 rfl rfl
  have b4 : flag W 9 = f0 := flag_of x4
  have x5 : fld W 8 1 = bit neg := fld_get hW hr 5 rfl rfl
  have b5 : flag W 8 = neg := flag_of x5
  have n0_9_7 : ¬ fld W 0 9 = 7 := fld_ne x6 0 8 (by decide)
  have n0_9_8 : ¬ fld W 0 9 = 8 := fld_ne x6 0 8 (by decide)
  have n0_9_9 : ¬ fld W 0 9 = 9 := fld_ne x6 0 8 (by decide)
  have n0_9_10 : ¬ fld W 0 9 = 10 := fld_ne x6 0 8 (by decide)
  have n0_26_5 : ¬ fld W 0 26 = 5 := fld_ne x6 0 8 (by decide)
  refine decodeAt_encode hW hb ?_ hw
  simp [rawAt, rawMx, rawMx01, x6, x3, x0, b1, b2, b4, b5, n0_9_7, n0_9_8, n0_9_9, n0_9_10, n0_26_5]

theorem RoundTrip.mcallGemmz (sa : BitVec 6) (sb : BitVec 6) (f0 : Bool) (neg : Bool) : RoundTrip.Statement (.mcallGemmz sa sb f0 neg) := by
  intro pl hp hw
  obtain rfl : _ = pl := Option.some.inj hp
  have hr : InRange [(6, 1), fv sa, fv sb, (4, 0), fb f0, fb neg, (8, 2)] := by
    simp only [inRange_cons, inRange_nil, fv_lt, fb_lt, and_true, true_and]
    decide
  have hb := pack_lt _ 0 0 (by decide) hr
  generalize hW : pack [(6, 1), fv sa, fv sb, (4, 0), fb f0, fb neg, (8, 2)] 0 = W at hb
  have x6 : fld W 0 8 = 2 := fld_get hW hr 6 rfl rfl
  have x3 : fld W 10 4 = 0 := fld_get hW hr 3 rfl rfl
  have x1 : fld W 20 6 = sa.toNat := fld_get hW hr 1 rfl rfl
  have x0 : fld W 26 6 = 1 := fld_get hW hr 0 rfl rfl
  have b1 : bits W 20 6 = sa := bits_of x1
  have x2 : fld W 14 6 = sb.toNat := fld_get hW hr 2 rfl rfl
  have b2 : bits W 14 6 = sb := bits_of x2
  have x4 : fld W 9 1 = bit f0 := fld_get hW hr 4 rfl rfl
  have b4 : flag W 9 = f0 := flag_of x4
  have x5 : fld W 8 1 = bit neg := fld_get hW hr 5 rfl rfl
  have b5 : flag W 8 = neg := flag_of x5
  have n0_9_7 : ¬ fld W 0 9 = 7 := fld_ne x6 0 8 (by decide)
  have n0_9_8 : ¬ fld W 0 9 = 8 := fld_ne x6 0 8 (by decide)
  have n0_9_9 : ¬ fld W 0 9 = 9 := fld_ne x6 0 8 (by decide)
  have n0_9_10 : ¬ fld W 0 9 = 10 := fld_ne x6 0 8 (by decide)
  have n0_26_5 : ¬ fld W 0 26 = 5 := fld_ne x6 0 8 (by decide)
  refine decodeAt_encode hW hb ?_ hw
  simp [rawAt, rawMx, rawMx01, x6, x3, x0, b1, b2, b4, b5, n0_9_7, n0_9_8, n0_9_9, n0_9_10, n0_26_5]

theorem RoundTrip.mcallGemv (sa : BitVec 6) (sb : BitVec 6) (f0 : Bool) (neg : Bool) : RoundTrip.Statement (.mcallGemv sa sb f0 neg) := by
  intro pl hp hw
  obtain rfl : _ = pl := Option.some.inj hp
  have hr : InRange [(6, 1), fv sa, fv sb, (4, 0), fb f0, fb neg, (8, 3)] := by
    simp only [inRange_cons, inRange_nil, fv_lt, fb_lt, and_true, true_and]
    decide
  have hb := pack_lt _ 0 0 (by decide) hr
  generalize hW : pack [(6, 1), fv sa, fv sb, (4, 0), fb f0, fb neg, (8, 3)] 0 = W at hb
  have x6 : fld W 0 8 = 3 := fld_get hW hr 6 rfl rfl
  have x3 : fld W 10 4 = 0 := fld_get hW hr 3 rfl rfl
  have x1 : fld W 20 6 = sa.toNat := fld_get hW hr 1 rfl rfl
  have x0 : fld W 26 6 = 1 := fld_get hW hr 0 rfl rfl
  have b1 : bits W 20 6 = sa := bits_of x1
  have x2 : fld W 14 6 = sb.toNat := fld_get hW hr 2 rfl rfl
  have b2 : bits W 14 6 = sb := bits_of x2
  have x4 : fld W 9 1 = bit f0 := fld_get hW hr 4 rfl rfl
  have b4 : flag W 9 = f0 := flag_of x4
  have x5 : fld W 8 1 = bit neg := fld_get hW hr 5 rfl rfl
  have b5 : flag W 8 = neg := flag_of x5
  have n0_9_7 : ¬ fld W 0 9 = 7 := fld_ne x6 0 8 (by decide)
  have n0_9_8 : ¬ fld W 0 9 = 8 := fld_ne x6 0 8 (by decide)
  have n0_9_9 : ¬ fld W 0 9 = 9 := fld_ne x6 0 8 (by decide)
  have n0_9_10 : ¬ fld W 0 9 = 10 := fld_ne x6 0 8 (by decide)
  have n0_26_5 : ¬ fld W 0 26 = 5 := fld_ne x6 0 8 (by decide)
  refine decodeAt_encode hW hb ?_ hw
  simp [rawAt, rawMx, rawMx01, x6, x3, x0, b1, b2, b4, b5, n0_9_7, n0_9_8, n0_9_9, n0_9_10, n0_26_5]

theorem RoundTrip.mcallOuter (sa : BitVec 6) (sb : BitVec 6) (f0 : Bool) (neg : Bool) : RoundTrip.Statement (.mcallOuter sa sb f0 neg) := by
  intro pl hp hw
  obtain rfl : _ = pl := Option.some.inj hp
  have hr : InRange [(6, 1), fv sa, fv sb, (4, 0), fb f0, fb neg, (8, 4)] := by
    simp only [inRange_cons, inRange_nil, fv_lt, fb_lt, and_true, true_and]
    decide
  have hb := pack_lt _ 0 0 (by decide) hr
  generalize hW : pack [(6, 1), fv sa, fv sb, (4, 0), fb f0, fb neg, (8, 4)] 0 = W at hb
  have x6 : fld W 0 8 = 4 := fld_get hW hr 6 rfl rfl
  have x3 : fld W 10 4 = 0 := fld_get hW hr 3 rfl rfl
  have x1 : fld W 20 6 = sa.toNat := fld_get hW hr 1 rfl rfl
  have x0 : fld W 26 6 = 1 := fld_get hW hr 0 rfl rfl
  have b1 : bits W 20 6 = sa := bits_of x1
  have x2 : fld W 14 6 = sb.toNat := fld_get hW hr 2 rfl rfl
  have b2 : bits W 14 6 = sb := bits_of x2
  have x4 : fld W 9 1 = bit f0 := fld_get hW hr 4 rfl rfl
  have b4 : flag W 9 = f0 := flag_of x4
  have x5 : fld W 8 1 = bit neg := fld_get hW hr 5 rfl rfl
  have b5 : flag W 8 = neg := flag_of x5
  have n0_9_7 : ¬ fld W 0 9 = 7 := fld_ne x6 0 8 (by decide)
  have n0_9_8 : ¬ fld W 0 9 = 8 := fld_ne x6 0 8 (by decide)
  have n0_9_9 : ¬ fld W 0 9 = 9 := fld_ne x6 0 8 (by decide)
  have n0_9_10 : ¬ fld W 0 9 = 10 := fld_ne x6 0 8 (by decide)
  have n0_26_5 : ¬ fld W 0 26 = 5 := fld_ne x6 0 8 (by decide)
  refine decodeAt_encode hW hb ?_ hw
  simp [rawAt, rawMx, rawMx01, x6, x3, x0, b1, b2, b4, b5, n0_9_7, n0_9_8, n0_9_9, n0_9_10, n0_26_5]

theorem RoundTrip.mcallTrans : RoundTrip.Statement (.mcallTrans) := fun pl h _ => by cases h; decide

theorem RoundTrip.mcallDgemm (sa : BitVec 6) (sb : BitVec 6) (f0 : Bool) (neg : Bool) : RoundTrip.Statement (.mcallDgemm sa sb f0 neg) := by
  intro pl hp hw
  obtain rfl : _ = pl := Option.some.inj hp
  have hr : InRange [(6, 1), fv sa, fv sb, (4, 0), fb f0, fb neg, (8, 6)] := by
    simp only [inRange_cons, inRange_nil, fv_lt, fb_lt, and_true, true_and]
    decide
  have hb := pack_lt _ 0 0 (by decide) hr
  generalize hW : pack [(6, 1), fv sa, fv sb, (4, 0), fb f0, fb neg, (8, 6)] 0 = W at hb
  have x6 : fld W 0 8 = 6 := fld_get hW hr 6 rfl rfl
  have x3 : fld W 10 4 = 0 := fld_get hW hr 3 rfl rfl
  have x1 : fld W 20 6 = sa.toNat := fld_get hW hr 1 rfl rfl
  have x0 : fld W 26 6 = 1 := fld_get hW hr 0 rfl rfl
  have b1 : bits W 20 6 = sa := bits_of x1
  have x2 : fld W 14 6 = sb.toNat := fld_get hW hr 2 rfl rfl
  have b2 : bits W 14 6 = sb := bits_of x2
  have x4 : fld W 9 1 = bit f0 := fld_get hW hr 4 rfl rfl
  have b4 : flag W 9 = f0 := flag_of x4
  have x5 : fld W 8 1 = bit neg := fld_get hW hr 5 rfl rfl
  have b5 : flag W 8 = neg := flag_of x5
  have n0_9_7 : ¬ fld W 0 9 = 7 := fld_ne x6 0 8 (by decide)
  have n0_9_8 : ¬ fld W 0 9 = 8 := fld_ne x6 0 8 (by decide)
  have n0_9_9 : ¬ fld W 0 9 = 9 := fld_ne x6 0 8 (by decide)
  have n0_9_10 : ¬ fld W 0 9 = 10 := fld_ne x6 0 8 (by decide)
  have n0_26_5 : ¬ fld W 0 26 = 5 := fld_ne x6 0 8 (by decide)
  refine decodeAt_encode hW hb ?_ hw
  simp [rawAt, rawMx, rawMx01, x6, x3, x0, b1, b2, b4, b5, n0_9_7, n0_9_8, n0_9_9, n0_9_10, n0_26_5]

theorem RoundTrip.mcallRowsc (sa : BitVec 6) (f0 : Bool) : RoundTrip.Statement (.mcallRowsc sa f0) := by
  intro pl hp hw
  obtain rfl : _ = pl := Option.some.inj hp
  have hr : InRange [(6, 1), fv sa, (10, 0), fb f0, (9, 7)] := by
    simp only [inRange_cons, inRange_nil, fv_lt, fb_lt, and_true, true_and]
    decide
  have hb := pack_lt _ 0 0 (by decide) hr
  generalize hW : pack [(6, 1), fv sa, (10, 0), fb f0, (9, 7)] 0 = W at hb
  have x4 : fld W 0 9 = 7 := fld_get hW hr 4 rfl rfl
  have g0_8 : fld W 0 8 = 7 := fld_part x4 0 8 (by decide) rfl
  have x2 : fld W 10 10 = 0 := fld_get hW hr 2 rfl rfl
  have g10_4 : fld W 10 4 = 0 := fld_part x2 10 4 (by decide) rfl
  have x1 : fld W 20 6 = sa.toNat := fld_get hW hr 1 rfl rfl
  have x0 : fld W 26 6 = 1 := fld_get hW hr 0 rfl rfl
  have b1 : bits W 20 6 = sa := bits_of x1
  have x3 : fld W 9 1 = bit f0 := fld_get hW hr 3 rfl rfl
  have b3 : flag W 9 = f0 := flag_of x3
  have n0_26_5 : ¬ fld W 0 26 = 5 := fld_ne x4 0 9 (by decide)
  refine decodeAt_encode hW hb ?_ hw
  simp [rawAt, rawMx, rawMx01, g0_8, x4, g10_4, x2, x0, b1, b3, n0_26_5]

theorem RoundTrip.mcallColred (f0 : Bool) : RoundTrip.Statement (.mcallColred f0) := by
  intro pl hp hw
  obtain rfl : _ = pl := Option.some.inj hp
  have hr : InRange [(22, 65536), fb f0, (9, 8)] := by
    simp only [inRange_cons, inRange_nil, fb_lt, and_true, true_and]
    decide
  have hb := pack_lt _ 0 0 (by decide) hr
  generalize hW : pack [(22, 65536), fb f0, (9, 8)] 0 = W at hb
  have x2 : fld W 0 9 = 8 := fld_get hW hr 2 rfl rfl
  have g0_8 : fld W 0 8 = 8 := fld_part x2 0 8 (by decide) rfl
  have x0 : fld W 10 22 = 65536 := fld_get hW hr 0 rfl rfl
  have g10_4 : fld W 10 4 = 0 := fld_part x0 10 4 (by decide) rfl
  have g10_10 : fld W 10 10 = 0 := fld_part x0 10 10 (by decide) rfl
  have g10_16 : fld W 10 16 = 0 := fld_part x0 10 16 (by decide) rfl
  have g20_6 : fld W 20 6 = 0 := fld_part x0 20 6 (by decide) rfl
  have g26_6 : fld W 26 6 = 1 := fld_part x0 26 6 (by decide) rfl
  have x1 : fld W 9 1 = bit f0 := fld_get hW hr 1 rfl rfl
  have b1 : flag W 9 = f0 := flag_of x1
  have n0_26_5 : ¬ fld W 0 26 = 5 := fld_ne x2 0 9 (by decide)
  refine decodeAt_encode hW hb ?_ hw
  simp [rawAt, rawMx, rawMx01, g0_8, x2, g10_4, g10_10, g10_16, g20_6, g26_6, b1, n0_26_5]

theorem RoundTrip.mcallCvtout (sb : BitVec 6) (f0 : Bool) : RoundTrip.Statement (.mcallCvtout sb f0) := by
  intro pl hp hw
  obtain rfl : _ = pl := Option.some.inj hp
  have hr : InRange [(12, 64), fv sb, (4, 0), fb f0, (9, 9)] := by
    simp only [inRange_cons, inRange_nil, fv_lt, fb_lt, and_true, true_and]
    decide
  have hb := pack_lt _ 0 0 (by decide) hr
  generalize hW : pack [(12, 64), fv sb, (4, 0), fb f0, (9, 9)] 0 = W at hb
  have x4 : fld W 0 9 = 9 := fld_get hW hr 4 rfl rfl
  have g0_8 : fld W 0 8 = 9 := fld_part x4 0 8 (by decide) rfl
  have x2 : fld W 10 4 = 0 := fld_get hW hr 2 rfl rfl
  have x0 : fld W 20 12 = 64 := fld_get hW hr 0 rfl rfl
  have g20_6 : fld W 20 6 = 0 := fld_part x0 20 6 (by decide) rfl
  have g26_6 : fld W 26 6 = 1 := fld_part x0 26 6 (by decide) rfl
  have x1 : fld W 14 6 = sb.toNat := fld_get hW hr 1 rfl rfl
  have b1 : bits W 14 6 = sb := bits_of x1
  have x3 : fld W 9 1 = bit f0 := fld_get hW hr 3 rfl rfl
  have b3 : flag W 9 = f0 := flag_of x3
  have n0_26_5 : ¬ fld W 0 26 = 5 := fld_ne x4 0 9 (by decide)
  refine decodeAt_encode hW hb ?_ hw
  simp [rawAt, rawMx, rawMx01, g0_8, x4, x2, g20_6, g26_6, b1, b3, n0_26_5]

theorem RoundTrip.mcallLoadc (sb : BitVec 6) (f0 : Bool) : RoundTrip.Statement (.mcallLoadc sb f0) := by
  intro pl hp hw
  obtain rfl : _ = pl := Option.some.inj hp
  have hr : InRange [(12, 64), fv sb, (4, 0), fb f0, (9, 10)] := by
    simp only [inRange_cons, inRange_nil, fv_lt, fb_lt, and_true, true_and]
    decide
  have hb := pack_lt _ 0 0 (by decide) hr
  generalize hW : pack [(12, 64), fv sb, (4, 0), fb f0, (9, 10)] 0 = W at hb
  have x4 : fld W 0 9 = 10 := fld_get hW hr 4 rfl rfl
  have g0_8 : fld W 0 8 = 10 := fld_part x4 0 8 (by decide) rfl
  have x2 : fld W 10 4 = 0 := fld_get hW hr 2 rfl rfl
  have x0 : fld W 20 12 = 64 := fld_get hW hr 0 rfl rfl
  have g20_6 : fld W 20 6 = 0 := fld_part x0 20 6 (by decide) rfl
  have g26_6 : fld W 26 6 = 1 := fld_part x0 26 6 (by decide) rfl
  have x1 : fld W 14 6 = sb.toNat := fld_get hW hr 1 rfl rfl
  have b1 : bits W 14 6 = sb := bits_of x1
  have x3 : fld W 9 1 = bit f0 := fld_get hW hr 3 rfl rfl
  have b3 : flag W 9 = f0 := flag_of x3
  have n0_26_5 : ¬ fld W 0 26 = 5 := fld_ne x4 0 9 (by decide)
  refine decodeAt_encode hW hb ?_ hw
  simp [rawAt, rawMx, rawMx01, g0_8, x4, x2, g20_6, g26_6, b1, b3, n0_26_5]

theorem RoundTrip.mzero (tile : BitVec 5) : RoundTrip.Statement (.mzero tile) := by
  intro pl hp hw
  obtain rfl : _ = pl := Option.some.inj hp
  have hr : InRange [(27, 4194304), fv tile] := by
    simp only [inRange_cons, inRange_nil, fv_lt, and_true, true_and]
    decide
  have hb := pack_lt _ 0 0 (by decide) hr
  generalize hW : pack [(27, 4194304), fv tile] 0 = W at hb
  have x0 : fld W 5 27 = 4194304 := fld_get hW hr 0 rfl rfl
  have g5_21 : fld W 5 21 = 0 := fld_part x0 5 21 (by decide) rfl
  have g26_6 : fld W 26 6 = 2 := fld_part x0 26 6 (by decide) rfl
  have x1 : fld W 0 5 = tile.toNat := fld_get hW hr 1 rfl rfl
  have b1 : bits W 0 5 = tile := bits_of x1
  refine decodeAt_encode hW hb ?_ hw
  simp [rawAt, rawMx, rawMx02, g5_21, g26_6, b1]

theorem RoundTrip.mwait : RoundTrip.Statement (.mwait) := fun pl h _ => by cases h; decide

theorem RoundTrip.mwaitTile (tile : BitVec 5) : RoundTrip.Statement (.mwaitTile tile) := by
  intro pl hp hw
  obtain rfl : _ = pl := Option.some.inj hp
  have hr : InRange [(27, 6291457), fv tile] := by
    simp only [inRange_cons, inRange_nil, fv_lt, and_true, true_and]
    decide
  have hb := pack_lt _ 0 0 (by decide) hr
  generalize hW : pack [(27, 6291457), fv tile] 0 = W at hb
  have x0 : fld W 5 27 = 6291457 := fld_get hW hr 0 rfl rfl
  have g5_21 : fld W 5 21 = 1 := fld_part x0 5 21 (by decide) rfl
  have g26_6 : fld W 26 6 = 3 := fld_part x0 26 6 (by decide) rfl
  have x1 : fld W 0 5 = tile.toNat := fld_get hW hr 1 rfl rfl
  have b1 : bits W 0 5 = tile := bits_of x1
  have n0_26_0 : ¬ fld W 0 26 = 0 := fld_ne x0 5 21 (by decide)
  refine decodeAt_encode hW hb ?_ hw
  simp [rawAt, rawMx, rawMx03, g5_21, g26_6, b1, n0_26_0]

theorem RoundTrip.matrixRoutineComplete (n : Nat) : RoundTrip.Statement (.matrixRoutineComplete n) := fun _ h => by cases h

theorem RoundTrip.matrixRoutineStop (n : Nat) : RoundTrip.Statement (.matrixRoutineStop n) := fun _ h => by cases h

theorem RoundTrip.cpy (sa : BitVec 6) (sb : BitVec 6) (ct : Bool) (sh : Bool) (ch : BitVec 3) : RoundTrip.Statement (.cpy sa sb ct sh ch) := by
  intro pl hp hw
  obtain rfl : _ = pl := Option.some.inj hp
  have hr : InRange [(6, 1), fv sa, fv sb, (9, 0), fb ct, fb sh, fv ch] := by
    simp only [inRange_cons, inRange_nil, fv_lt, fb_lt, and_true, true_and]
    decide
  have hb := pack_lt _ 0 0 (by decide) hr
  generalize hW : pack [(6, 1), fv sa, fv sb, (9, 0), fb ct, fb sh, fv ch] 0 = W at hb
  have x3 : fld W 5 9 = 0 := fld_get hW hr 3 rfl rfl
  have x0 : fld W 26 6 = 1 := fld_get hW hr 0 rfl rfl
  have x1 : fld W 20 6 = sa.toNat := fld_get hW hr 1 rfl rfl
  have b1 : bits W 20 6 = sa := bits_of x1
  have x2 : fld W 14 6 = sb.toNat := fld_get hW hr 2 rfl rfl
  have b2 : bits W 14 6 = sb := bits_of x2
  have x4 : fld W 4 1 = bit ct := fld_get hW hr 4 rfl rfl
  have b4 : flag W 4 = ct := flag_of x4
  have x5 : fld W 3 1 = bit sh := fld_get hW hr 5 rfl rfl
  have b5 : flag W 3 = sh := flag_of x5
  have x6 : fld W 0 3 = ch.toNat := fld_get hW hr 6 rfl rfl
  have b6 : bits W 0 3 = ch := bits_of x6
  refine decodeAt_encode hW hb ?_ hw
  simp [rawAt, rawCp, rawCp01, x3, x0, b1, b2, b4, b5, b6]

theorem RoundTrip.publ (ch : BitVec 3) : RoundTrip.Statement (.publ ch) := by
  intro pl hp hw
  obtain rfl : _ = pl := Option.some.inj hp
  have hr : InRange [(29, 16777216), fv ch] := by
    simp only [inRange_cons, inRange_nil, fv_lt, and_true, true_and]
    decide
  have hb := pack_lt _ 0 0 (by decide) hr
  generalize hW : pack [(29, 16777216), fv ch] 0 = W at hb
  have x0 : fld W 3 29 = 16777216 := fld_get hW hr 0 rfl rfl
  have g3_23 : fld W 3 23 = 0 := fld_part x0 3 23 (by decide) rfl
  have g26_6 : fld W 26 6 = 2 := fld_part x0 26 6 (by decide) rfl
  have x1 : fld W 0 3 = ch.toNat := fld_get hW hr 1 rfl rfl
  have b1 : bits W 0 3 = ch := bits_of x1
  refine decodeAt_encode hW hb ?_ hw
  simp [rawAt, rawCp, rawCp02, g3_23, g26_6, b1]

theorem RoundTrip.gath (sa : BitVec 6) (sb : BitVec 6) (ct : Bool) (sh : Bool) (ch : BitVec 3) : RoundTrip.Statement (.gath sa sb ct sh ch) := by
  intro pl hp hw
  obtain rfl : _ = pl := Option.some.inj hp
  have hr : InRange [(6, 3), fv sa, fv sb, (9, 0), fb ct, fb sh, fv ch] := by
    simp only [inRange_cons, inRange_nil, fv_lt, fb_lt, and_true, true_and]
    decide
  have hb := pack_lt _ 0 0 (by decide) hr
  generalize hW : pack [(6, 3), fv sa, fv sb, (9, 0), fb ct, fb sh, fv ch] 0 = W at hb
  have x3 : fld W 5 9 = 0 := fld_get hW hr 3 rfl rfl
  have x0 : fld W 26 6 = 3 := fld_get hW hr 0 rfl rfl
  have x1 : fld W 20 6 = sa.toNat := fld_get hW hr 1 rfl rfl
  have b1 : bits W 20 6 = sa := bits_of x1
  have x2 : fld W 14 6 = sb.toNat := fld_get hW hr 2 rfl rfl
  have b2 : bits W 14 6 = sb := bits_of x2
  have x4 : fld W 4 1 = bit ct := fld_get hW hr 4 rfl rfl
  have b4 : flag W 4 = ct := flag_of x4
  have x5 : fld W 3 1 = bit sh := fld_get hW hr 5 rfl rfl
  have b5 : flag W 3 = sh := flag_of x5
  have x6 : fld W 0 3 = ch.toNat := fld_get hW hr 6 rfl rfl
  have b6 : bits W 0 3 = ch := bits_of x6
  refine decodeAt_encode hW hb ?_ hw
  simp [rawAt, rawCp, rawCp03, x3, x0, b1, b2, b4, b5, b6]

theorem RoundTrip.scat (sa : BitVec 6) (sb : BitVec 6) (ct : Bool) (ch : BitVec 3) : RoundTrip.Statement (.scat sa sb ct ch) := by
  intro pl hp hw
  obtain rfl : _ = pl := Option.some.inj hp
  have hr : InRange [(6, 4), fv sa, fv sb, (9, 0), fb ct, (1, 0), fv ch] := by
    simp only [inRange_cons, inRange_nil, fv_lt, fb_lt, and_true, true_and]
    decide
  have hb := pack_lt _ 0 0 (by decide) hr
  generalize hW : pack [(6, 4), fv sa, fv sb, (9, 0), fb ct, (1, 0), fv ch] 0 = W at hb
  have x5 : fld W 3 1 = 0 := fld_get hW hr 5 rfl rfl
  have x3 : fld W 5 9 = 0 := fld_get hW hr 3 rfl rfl
  have x0 : fld W 26 6 = 4 := fld_get hW hr 0 rfl rfl
  have x1 : fld W 20 6 = sa.toNat := fld_get hW hr 1 rfl rfl
  have b1 : bits W 20 6 = sa := bits_of x1
  have x2 : fld W 14 6 = sb.toNat := fld_get hW hr 2 rfl rfl
  have b2 : bits W 14 6 = sb := bits_of x2
  have x4 : fld W 4 1 = bit ct := fld_get hW hr 4 rfl rfl
  have b4 : flag W 4 = ct := flag_of x4
  have x6 : fld W 0 3 = ch.toNat := fld_get hW hr 6 rfl rfl
  have b6 : bits W 0 3 = ch := bits_of x6
  refine decodeAt_encode hW hb ?_ hw
  simp [rawAt, rawCp, rawCp04, x5, x3, x0, b1, b2, b4, b6]

theorem RoundTrip.coll (sa : BitVec 6) (sb : BitVec 6) (ch : BitVec 3) : RoundTrip.Statement (.coll sa sb ch) := by
  intro pl hp hw
  obtain rfl : _ = pl := Option.some.inj hp
  have hr : InRange [(6, 5), fv sa, fv sb, (11, 0), fv ch] := by
    simp only [inRange_cons, inRange_nil, fv_lt, and_true, true_and]
    decide
  have hb := pack_lt _ 0 0 (by decide) hr
  generalize hW : pack [(6, 5), fv sa, fv sb, (11, 0), fv ch] 0 = W at hb
  have x3 : fld W 3 11 = 0 := fld_get hW hr 3 rfl rfl
  have x0 : fld W 26 6 = 5 := fld_get hW hr 0 rfl rfl
  have x1 : fld W 20 6 = sa.toNat := fld_get hW hr 1 rfl rfl
  have b1 : bits W 20 6 = sa := bits_of x1
  have x2 : fld W 14 6 = sb.toNat := fld_get hW hr 2 rfl rfl
  have b2 : bits W 14 6 = sb := bits_of x2
  have x4 : fld W 0 3 = ch.toNat := fld_get hW hr 4 rfl rfl
  have b4 : bits W 0 3 = ch := bits_of x4
  refine decodeAt_encode hW hb ?_ hw
  simp [rawAt, rawCp, rawCp05, x3, x0, b1, b2, b4]

theorem RoundTrip.sbar (after : BitVec 3) (before : BitVec 3) : RoundTrip.Statement (.sbar after before) := by
  intro pl hp hw
  obtain rfl : _ = pl := Option.some.inj hp
  have hr : InRange [(26, 6291456), fv after, fv before] := by
    simp only [inRange_cons, inRange_nil, fv_lt, and_true, true_and]
    decide
  have hb := pack_lt _ 0 0 (by decide) hr
  generalize hW : pack [(26, 6291456), fv after, fv before] 0 = W at hb
  have x0 : fld W 6 26 = 6291456 := fld_get hW hr 0 rfl rfl
  have g6_20 : fld W 6 20 = 0 := fld_part x0 6 20 (by decide) rfl
  have g26_6 : fld W 26 6 = 6 := fld_part x0 26 6 (by decide) rfl
  have x1 : fld W 3 3 = after.toNat := fld_get hW hr 1 rfl rfl
  have b1 : bits W 3 3 = after := bits_of x1
  have x2 : fld W 0 3 = before.toNat := fld_get hW hr 2 rfl rfl
  have b2 : bits W 0 3 = before := bits_of x2
  refine decodeAt_encode hW hb ?_ hw
  simp [rawAt, rawCp, rawCp06, g6_20, g26_6, b1, b2]

theorem RoundTrip.cwait (ch : BitVec 3) : RoundTrip.Statement (.cwait ch) := by
  intro pl hp hw
  obtain rfl : _ = pl := Option.some.inj hp
  have hr : InRange [(29, 58720256), fv ch] := by
    simp only [inRange_cons, inRange_nil, fv_lt, and_true, true_and]
    decide
  have hb := pack_lt _ 0 0 (by decide) hr
  generalize hW : pack [(29, 58720256), fv ch] 0 = W at hb
  have x0 : fld W 3 29 = 58720256 := fld_get hW hr 0 rfl rfl
  have g3_23 : fld W 3 23 = 0 := fld_part x0 3 23 (by decide) rfl
  have g26_6 : fld W 26 6 = 7 := fld_part x0 26 6 (by decide) rfl
  have x1 : fld W 0 3 = ch.toNat := fld_get hW hr 1 rfl rfl
  have b1 : bits W 0 3 = ch := bits_of x1
  refine decodeAt_encode hW hb ?_ hw
  simp [rawAt, rawCp, rawCp07, g3_23, g26_6, b1]

theorem RoundTrip.persist (sa : BitVec 6) (sb : BitVec 6) : RoundTrip.Statement (.persist sa sb) := by
  intro pl hp hw
  obtain rfl : _ = pl := Option.some.inj hp
  have hr : InRange [(6, 8), fv sa, fv sb, (14, 0)] := by
    simp only [inRange_cons, inRange_nil, fv_lt, and_true, true_and]
    decide
  have hb := pack_lt _ 0 0 (by decide) hr
  generalize hW : pack [(6, 8), fv sa, fv sb, (14, 0)] 0 = W at hb
  have x3 : fld W 0 14 = 0 := fld_get hW hr 3 rfl rfl
  have x0 : fld W 26 6 = 8 := fld_get hW hr 0 rfl rfl
  have x1 : fld W 20 6 = sa.toNat := fld_get hW hr 1 rfl rfl
  have b1 : bits W 20 6 = sa := bits_of x1
  have x2 : fld W 14 6 = sb.toNat := fld_get hW hr 2 rfl rfl
  have b2 : bits W 14 6 = sb := bits_of x2
  refine decodeAt_encode hW hb ?_ hw
  simp [rawAt, rawCp, rawCp08, x3, x0, b1, b2]

theorem RoundTrip.cpyb (sa : BitVec 6) (n : BitVec 7) (bob : BitVec 4) (ch : BitVec 3) : RoundTrip.Statement (.cpyb sa n bob ch) := by
  intro pl hp hw
  obtain rfl : _ = pl := Option.some.inj hp
  have hr : InRange [(6, 9), fv sa, (6, 0), fv n, fv bob, fv ch] := by
    simp only [inRange_cons, inRange_nil, fv_lt, and_true, true_and]
    decide
  have hb := pack_lt _ 0 0 (by decide) hr
  generalize hW : pack [(6, 9), fv sa, (6, 0), fv n, fv bob, fv ch] 0 = W at hb
  have x2 : fld W 14 6 = 0 := fld_get hW hr 2 rfl rfl
  have x0 : fld W 26 6 = 9 := fld_get hW hr 0 rfl rfl
  have x1 : fld W 20 6 = sa.toNat := fld_get hW hr 1 rfl rfl
  have b1 : bits W 20 6 = sa := bits_of x1
  have x3 : fld W 7 7 = n.toNat := fld_get hW hr 3 rfl rfl
  have b3 : bits W 7 7 = n := bits_of x3
  have x4 : fld W 3 4 = bob.toNat := fld_get hW hr 4 rfl rfl
  have b4 : bits W 3 4 = bob := bits_of x4
  have x5 : fld W 0 3 = ch.toNat := fld_get hW hr 5 rfl rfl
  have b5 : bits W 0 3 = ch := bits_of x5
  refine decodeAt_encode hW hb ?_ hw
  simp [rawAt, rawCp, rawCp09, x2, x0, b1, b3, b4, b5]

theorem RoundTrip.bdrain (sb : BitVec 6) (n : BitVec 7) (bob : BitVec 4) (ch : BitVec 3) : RoundTrip.Statement (.bdrain sb n bob ch) := by
  intro pl hp hw
  obtain rfl : _ = pl := Option.some.inj hp
  have hr : InRange [(12, 640), fv sb, fv n, fv bob, fv ch] := by
    simp only [inRange_cons, inRange_nil, fv_lt, and_true, true_and]
    decide
  have hb := pack_lt _ 0 0 (by decide) hr
  generalize hW : pack [(12, 640), fv sb, fv n, fv bob, fv ch] 0 = W at hb
  have x0 : fld W 20 12 = 640 := fld_get hW hr 0 rfl rfl
  have g20_6 : fld W 20 6 = 0 := fld_part x0 20 6 (by decide) rfl
  have g26_6 : fld W 26 6 = 10 := fld_part x0 26 6 (by decide) rfl
  have x1 : fld W 14 6 = sb.toNat := fld_get hW hr 1 rfl rfl
  have b1 : bits W 14 6 = sb := bits_of x1
  have x2 : fld W 7 7 = n.toNat := fld_get hW hr 2 rfl rfl
  have b2 : bits W 7 7 = n := bits_of x2
  have x3 : fld W 3 4 = bob.toNat := fld_get hW hr 3 rfl rfl
  have b3 : bits W 3 4 = bob := bits_of x3
  have x4 : fld W 0 3 = ch.toNat := fld_get hW hr 4 rfl rfl
  have b4 : bits W 0 3 = ch := bits_of x4
  refine decodeAt_encode hW hb ?_ hw
  simp [rawAt, rawCp, rawCp0A, g20_6, g26_6, b1, b2, b3, b4]

theorem RoundTrip.streamLineMove (n : Nat) : RoundTrip.Statement (.streamLineMove n) := fun _ h => by cases h

theorem RoundTrip.streamComplete (n : Nat) (c : Nat) : RoundTrip.Statement (.streamComplete n c) := fun _ h => by cases h

theorem RoundTrip.streamDeadlineExpiry (n : Nat) (c : Nat) : RoundTrip.Statement (.streamDeadlineExpiry n c) := fun _ h => by cases h

theorem RoundTrip.publishSwap (n : Nat) (c : Nat) : RoundTrip.Statement (.publishSwap n c) := fun _ h => by cases h

theorem RoundTrip.seal (sa : BitVec 6) (sb : BitVec 6) (ks : BitVec 8) (n : BitVec 6) : RoundTrip.Statement (.seal sa sb ks n) := by
  intro pl hp hw
  obtain rfl : _ = pl := Option.some.inj hp
  have hr : InRange [(6, 1), fv sa, fv sb, fv ks, fv n] := by
    simp only [inRange_cons, inRange_nil, fv_lt, and_true, true_and]
    decide
  have hb := pack_lt _ 0 0 (by decide) hr
  generalize hW : pack [(6, 1), fv sa, fv sb, fv ks, fv n] 0 = W at hb
  have x0 : fld W 26 6 = 1 := fld_get hW hr 0 rfl rfl
  have x1 : fld W 20 6 = sa.toNat := fld_get hW hr 1 rfl rfl
  have b1 : bits W 20 6 = sa := bits_of x1
  have x2 : fld W 14 6 = sb.toNat := fld_get hW hr 2 rfl rfl
  have b2 : bits W 14 6 = sb := bits_of x2
  have x3 : fld W 6 8 = ks.toNat := fld_get hW hr 3 rfl rfl
  have b3 : bits W 6 8 = ks := bits_of x3
  have x4 : fld W 0 6 = n.toNat := fld_get hW hr 4 rfl rfl
  have b4 : bits W 0 6 = n := bits_of x4
  refine decodeAt_encode hW hb ?_ hw
  simp [rawAt, rawCy, rawCy01, x0, b1, b2, b3, b4]

theorem RoundTrip.openCt (sa : BitVec 6) (sb : BitVec 6) (ks : BitVec 8) (n : BitVec 6) : RoundTrip.Statement (.openCt sa sb ks n) := by
  intro pl hp hw
  obtain rfl : _ = pl := Option.some.inj hp
  have hr : InRange [(6, 2), fv sa, fv sb, fv ks, fv n] := by
    simp only [inRange_cons, inRange_nil, fv_lt, and_true, true_and]
    decide
  have hb := pack_lt _ 0 0 (by decide) hr
  generalize hW : pack [(6, 2), fv sa, fv sb, fv ks, fv n] 0 = W at hb
  have x0 : fld W 26 6 = 2 := fld_get hW hr 0 rfl rfl
  have x1 : fld W 20 6 = sa.toNat := fld_get hW hr 1 rfl rfl
  have b1 : bits W 20 6 = sa := bits_of x1
  have x2 : fld W 14 6 = sb.toNat := fld_get hW hr 2 rfl rfl
  have b2 : bits W 14 6 = sb := bits_of x2
  have x3 : fld W 6 8 = ks.toNat := fld_get hW hr 3 rfl rfl
  have b3 : bits W 6 8 = ks := bits_of x3
  have x4 : fld W 0 6 = n.toNat := fld_get hW hr 4 rfl rfl
  have b4 : bits W 0 6 = n := bits_of x4
  refine decodeAt_encode hW hb ?_ hw
  simp [rawAt, rawCy, rawCy02, x0, b1, b2, b3, b4]

theorem RoundTrip.ywait : RoundTrip.Statement (.ywait) := fun pl h _ => by cases h; decide

theorem RoundTrip.cipherCommandComplete (n : Nat) : RoundTrip.Statement (.cipherCommandComplete n) := fun _ h => by cases h

theorem RoundTrip.remoteReplyArrival (id : Nat) : RoundTrip.Statement (.remoteReplyArrival id) := fun _ h => by cases h

theorem RoundTrip.writeAckArrival (id : Nat) : RoundTrip.Statement (.writeAckArrival id) := fun _ h => by cases h

theorem RoundTrip.failureNoticeArrival (id : Nat) : RoundTrip.Statement (.failureNoticeArrival id) := fun _ h => by cases h

theorem RoundTrip.remoteReadAtHome (id : Nat) : RoundTrip.Statement (.remoteReadAtHome id) := fun _ h => by cases h

theorem RoundTrip.remoteWriteAtHome (id : Nat) : RoundTrip.Statement (.remoteWriteAtHome id) := fun _ h => by cases h

theorem RoundTrip.remoteAtomicAtHome (id : Nat) : RoundTrip.Statement (.remoteAtomicAtHome id) := fun _ h => by cases h

theorem RoundTrip.translationWalkComplete (die : Nat) (part : Nat) (off : Nat) : RoundTrip.Statement (.translationWalkComplete die part off) := fun _ h => by cases h

theorem RoundTrip.codeTagCheck (n : Nat) (block : Nat) : RoundTrip.Statement (.codeTagCheck n block) := fun _ h => by cases h

theorem RoundTrip.blockPullComplete (n : Nat) (b : Nat) : RoundTrip.Statement (.blockPullComplete n b) := fun _ h => by cases h

theorem RoundTrip.owedBlockWriteout (n : Nat) (b : Nat) : RoundTrip.Statement (.owedBlockWriteout n b) := fun _ h => by cases h

theorem RoundTrip.imageDrainBlock (n : Nat) : RoundTrip.Statement (.imageDrainBlock n) := fun _ h => by cases h

theorem RoundTrip.segmentLoad (n : Nat) : RoundTrip.Statement (.segmentLoad n) := fun _ h => by cases h

theorem RoundTrip.tokenTick (part : Nat) : RoundTrip.Statement (.tokenTick part) := fun _ h => by cases h

theorem RoundTrip.contractRelease (part : Nat) (c : Nat) : RoundTrip.Statement (.contractRelease part c) := fun _ h => by cases h

theorem RoundTrip.budgetExhausted (part : Nat) (c : Nat) : RoundTrip.Statement (.budgetExhausted part c) := fun _ h => by cases h

theorem RoundTrip.drainLimitExpiry (n : Nat) : RoundTrip.Statement (.drainLimitExpiry n) := fun _ h => by cases h

theorem RoundTrip.schedulerTransactionCommit (part : Nat) : RoundTrip.Statement (.schedulerTransactionCommit part) := fun _ h => by cases h

theorem RoundTrip.taskRetirement (n : Nat) : RoundTrip.Statement (.taskRetirement n) := fun _ h => by cases h

theorem RoundTrip.cutStop (n : Nat) : RoundTrip.Statement (.cutStop n) := fun _ h => by cases h

theorem RoundTrip.quiescence (n : Nat) : RoundTrip.Statement (.quiescence n) := fun _ h => by cases h

theorem RoundTrip.ppboundCountExpiry (n : Nat) : RoundTrip.Statement (.ppboundCountExpiry n) := fun _ h => by cases h

theorem RoundTrip.watchdog (n : Nat) : RoundTrip.Statement (.watchdog n) := fun _ h => by cases h

theorem RoundTrip.dispositionResume (stand : Nat) (k : Nat) (newpc : Bool) (setx : Bool) (xreg : BitVec 5) (addr : BitVec 16) : RoundTrip.Statement (.dispositionResume stand k newpc setx xreg addr) := fun _ h => by cases h

theorem RoundTrip.dispositionKill (stand : Nat) (k : Nat) : RoundTrip.Statement (.dispositionKill stand k) := fun _ h => by cases h

theorem RoundTrip.trapRingTailWrite (stand : Nat) (val : BitVec 32) : RoundTrip.Statement (.trapRingTailWrite stand val) := fun _ h => by cases h

theorem RoundTrip.barrierArrival (id : Nat) : RoundTrip.Statement (.barrierArrival id) := fun _ h => by cases h

theorem RoundTrip.barrierCompletionNotice (n : Nat) : RoundTrip.Statement (.barrierCompletionNotice n) := fun _ h => by cases h

theorem RoundTrip.stepCompletion (part : Nat) (handle : Nat) (node : Nat) : RoundTrip.Statement (.stepCompletion part handle node) := fun _ h => by cases h

theorem RoundTrip.gateOperationAtHome (id : Nat) : RoundTrip.Statement (.gateOperationAtHome id) := fun _ h => by cases h

theorem RoundTrip.gateWaitTimeout (id : Nat) : RoundTrip.Statement (.gateWaitTimeout id) := fun _ h => by cases h

theorem RoundTrip.gateTokenRefill (gate : Nat) (entry : Nat) : RoundTrip.Statement (.gateTokenRefill gate entry) := fun _ h => by cases h

theorem RoundTrip.gcntWrite (gate : Nat) (val : BitVec 64) : RoundTrip.Statement (.gcntWrite gate val) := fun _ h => by cases h

theorem RoundTrip.gateValidWrite (port : Nat) (gate : Nat) (val : Bool) : RoundTrip.Statement (.gateValidWrite port gate val) := fun _ h => by cases h

theorem RoundTrip.aclEntryWrite (port : Nat) (gate : Nat) (entry : Nat) (val : BitVec 64) : RoundTrip.Statement (.aclEntryWrite port gate entry val) := fun _ h => by cases h

theorem RoundTrip.hgsig (port : Nat) (part : Nat) (bnd : Nat) (val : BitVec 64) : RoundTrip.Statement (.hgsig port part bnd val) := fun _ h => by cases h

theorem RoundTrip.hgcnt (port : Nat) (part : Nat) (bnd : Nat) : RoundTrip.Statement (.hgcnt port part bnd) := fun _ h => by cases h

theorem RoundTrip.hwakeWrite (port : Nat) (part : Nat) (bnd : Nat) (val : BitVec 64) : RoundTrip.Statement (.hwakeWrite port part bnd val) := fun _ h => by cases h

theorem RoundTrip.leaseClaim (port : Nat) (claim : BitVec 2) : RoundTrip.Statement (.leaseClaim port claim) := fun _ h => by cases h

theorem RoundTrip.leaseExpiry : RoundTrip.Statement (.leaseExpiry) := fun _ h => by cases h

theorem RoundTrip.hostMemoryWrite (port : Nat) (part : Nat) (off : Nat) (data : List (BitVec 8)) : RoundTrip.Statement (.hostMemoryWrite port part off data) := fun _ h => by cases h

theorem RoundTrip.hostMemoryRead (port : Nat) (part : Nat) (off : Nat) (len : Nat) : RoundTrip.Statement (.hostMemoryRead port part off len) := fun _ h => by cases h

theorem RoundTrip.pspinWrite (port : Nat) (part : Nat) (word : Nat) (val : BitVec 64) : RoundTrip.Statement (.pspinWrite port part word val) := fun _ h => by cases h

theorem RoundTrip.reservationWrite (port : Nat) (part : Nat) (val : BitVec 64) : RoundTrip.Statement (.reservationWrite port part val) := fun _ h => by cases h

theorem RoundTrip.lsdomWrite (port : Nat) (val : BitVec 64) : RoundTrip.Statement (.lsdomWrite port val) := fun _ h => by cases h

theorem RoundTrip.xinvWrite (part : Nat) (val : Bool) : RoundTrip.Statement (.xinvWrite part val) := fun _ h => by cases h

theorem RoundTrip.invalidationComplete (part : Nat) : RoundTrip.Statement (.invalidationComplete part) := fun _ h => by cases h

theorem RoundTrip.hcut (val : BitVec 64) : RoundTrip.Statement (.hcut val) := fun _ h => by cases h

theorem RoundTrip.hcutAccept : RoundTrip.Statement (.hcutAccept) := fun _ h => by cases h

theorem RoundTrip.powerEvaluation (watts : BitVec 16) : RoundTrip.Statement (.powerEvaluation watts) := fun _ h => by cases h

theorem RoundTrip.powerCapWrite (val : BitVec 64) : RoundTrip.Statement (.powerCapWrite val) := fun _ h => by cases h

theorem RoundTrip.droopTrip (stand : Nat) (level : Nat) (count : Nat) : RoundTrip.Statement (.droopTrip stand level count) := fun _ h => by cases h

theorem RoundTrip.patrolScrub (at_ : StoreAt) : RoundTrip.Statement (.patrolScrub at_) := fun _ h => by cases h

theorem RoundTrip.coldReset : RoundTrip.Statement (.coldReset) := fun _ h => by cases h

theorem RoundTrip.imageLocatorReceived (port : Bool) : RoundTrip.Statement (.imageLocatorReceived port) := fun _ h => by cases h

theorem RoundTrip.linkWaitTimeout : RoundTrip.Statement (.linkWaitTimeout) := fun _ h => by cases h

theorem RoundTrip.imageFetchComplete (image : List (BitVec 8)) : RoundTrip.Statement (.imageFetchComplete image) := fun _ h => by cases h

theorem RoundTrip.warmReset : RoundTrip.Statement (.warmReset) := fun _ h => by cases h

theorem RoundTrip.fatalError (row : Nat) : RoundTrip.Statement (.fatalError row) := fun _ h => by cases h

theorem RoundTrip.fatalStop : RoundTrip.Statement (.fatalStop) := fun _ h => by cases h

theorem RoundTrip.getVersion (port : Nat) : RoundTrip.Statement (.getVersion port) := fun _ h => by cases h

theorem RoundTrip.getCapabilities (port : Nat) : RoundTrip.Statement (.getCapabilities port) := fun _ h => by cases h

theorem RoundTrip.negotiateAlgorithms (port : Nat) : RoundTrip.Statement (.negotiateAlgorithms port) := fun _ h => by cases h

theorem RoundTrip.getDigests (port : Nat) : RoundTrip.Statement (.getDigests port) := fun _ h => by cases h

theorem RoundTrip.getCertificate (port : Nat) (slot : Nat) (off : Nat) (len : Nat) (chunked : Bool) : RoundTrip.Statement (.getCertificate port slot off len chunked) := fun _ h => by cases h

theorem RoundTrip.challenge (port : Nat) (slot : Nat) (nonce : List (BitVec 8)) : RoundTrip.Statement (.challenge port slot nonce) := fun _ h => by cases h

theorem RoundTrip.getMeasurements (port : Nat) (index : Nat) : RoundTrip.Statement (.getMeasurements port index) := fun _ h => by cases h

theorem RoundTrip.keyExchange (port : Nat) (slot : Nat) (period : Nat) (psk : Bool) (mutAuth : Bool) : RoundTrip.Statement (.keyExchange port slot period psk mutAuth) := fun _ h => by cases h

theorem RoundTrip.finish (sess : Nat) : RoundTrip.Statement (.finish sess) := fun _ h => by cases h

theorem RoundTrip.heartbeat (sess : Nat) : RoundTrip.Statement (.heartbeat sess) := fun _ h => by cases h

theorem RoundTrip.keyUpdate (sess : Nat) : RoundTrip.Statement (.keyUpdate sess) := fun _ h => by cases h

theorem RoundTrip.endSession (sess : Nat) : RoundTrip.Statement (.endSession sess) := fun _ h => by cases h

theorem RoundTrip.sessionExpiry (sess : Nat) : RoundTrip.Statement (.sessionExpiry sess) := fun _ h => by cases h

theorem RoundTrip.keyset (sess : Nat) (part : Nat) (slot : Nat) (key : List (BitVec 8)) : RoundTrip.Statement (.keyset sess part slot key) := fun _ h => by cases h

theorem RoundTrip.keyclr (sess : Nat) (part : Nat) (slot : Nat) : RoundTrip.Statement (.keyclr sess part slot) := fun _ h => by cases h

theorem RoundTrip.signreg (sess : Nat) (part : Nat) (keyid : BitVec 64) (modulus : List (BitVec 8)) : RoundTrip.Statement (.signreg sess part keyid modulus) := fun _ h => by cases h

theorem RoundTrip.signclr (sess : Nat) (part : Nat) (keyid : BitVec 64) : RoundTrip.Statement (.signclr sess part keyid) := fun _ h => by cases h

theorem RoundTrip.lockInterfaceRequest (sess : Nat) (part : Nat) : RoundTrip.Statement (.lockInterfaceRequest sess part) := fun _ h => by cases h

theorem RoundTrip.getDeviceInterfaceReport (sess : Nat) (part : Nat) : RoundTrip.Statement (.getDeviceInterfaceReport sess part) := fun _ h => by cases h

theorem RoundTrip.getDeviceInterfaceState (sess : Nat) (part : Nat) : RoundTrip.Statement (.getDeviceInterfaceState sess part) := fun _ h => by cases h

theorem RoundTrip.startInterfaceRequest (sess : Nat) (part : Nat) : RoundTrip.Statement (.startInterfaceRequest sess part) := fun _ h => by cases h

theorem RoundTrip.stopInterfaceRequest (sess : Nat) (part : Nat) : RoundTrip.Statement (.stopInterfaceRequest sess part) := fun _ h => by cases h

theorem RoundTrip.teardownScrubComplete (part : Nat) : RoundTrip.Statement (.teardownScrubComplete part) := fun _ h => by cases h

theorem RoundTrip.registerWrite (port : Nat) (reg : RegName) (val : BitVec 64) : RoundTrip.Statement (.registerWrite port reg val) := fun _ h => by cases h

theorem RoundTrip.updateStart (val : BitVec 64) : RoundTrip.Statement (.updateStart val) := fun _ h => by cases h

theorem RoundTrip.updateSwitch : RoundTrip.Statement (.updateSwitch) := fun _ h => by cases h

theorem RoundTrip.firmwareHeartbeat : RoundTrip.Statement (.firmwareHeartbeat) := fun _ h => by cases h

theorem RoundTrip.updateCommit : RoundTrip.Statement (.updateCommit) := fun _ h => by cases h

theorem RoundTrip.heartbeatMissed : RoundTrip.Statement (.heartbeatMissed) := fun _ h => by cases h

theorem RoundTrip.exposedResultLanding (n : Nat) : RoundTrip.Statement (.exposedResultLanding n) := fun _ h => by cases h

theorem RoundTrip.declaredBoundExpiry (n : Nat) : RoundTrip.Statement (.declaredBoundExpiry n) := fun _ h => by cases h

theorem RoundTrip.persistenceReached (n : Nat) : RoundTrip.Statement (.persistenceReached n) := fun _ h => by cases h

theorem RoundTrip.droopRecovery (stand : Nat) : RoundTrip.Statement (.droopRecovery stand) := fun _ h => by cases h

theorem RoundTrip.powerLoss : RoundTrip.Statement (.powerLoss) := fun _ h => by cases h

end Sys2Proof.Laws
end

