-- ==== Sys2Proof/Safety.lean ====
section
/-!
DEFINITION. What claims call a sound state, the conditions under which words issue, and what a frame leaves alone.
-/

namespace Sys2Proof.Machine

/-! ### A sound state -/

/-- The memory is in canonical form: equal memories are equal lists. -/
abbrev State.sound (s : State) : Prop := s.mem.wf = true

/-! ### Conditions under which words issue -/

/-- The listed presence blocks of the current spindle are there (R346). -/
def State.there (s : State) (bs : List Nat) : Prop := s.missingOf s.cur bs = []

/-- A guarded scalar word acts (R81, R107): its guard is true, and the blocks that it touches are there. -/
def State.acts (s : State) (g : BitVec 4) (bs : List Nat) : Prop :=
  s.there (guardBlocks g) ∧ s.c.guard g = true ∧ s.there bs

/-- A guarded LS word acts (R85). -/
def State.actsLs (s : State) (g : BitVec 3) (bs : List Nat) : Prop :=
  s.there (guardBlocksLs g) ∧ s.c.guardLs g = true ∧ s.there bs

/-- A VX word acts: its stage predicate is true (R106, R166). -/
def State.actsVx (s : State) (q : BitVec 3) (bs : List Nat) : Prop :=
  s.there (if q = 0 then [] else [2]) ∧ s.c.guardVx q = true ∧ s.there bs

/-- The flags of a word raise no FPX (R212). -/
def State.noFpx (s : State) (fl : BitVec 9) : Prop := enabled fl s.c.ctl.fen = false

/-- Own bytes can be accessed in this cycle: their blocks are there (R346), no fault of the matrix engine stands over their
tiles (R253), no routine locks them (R252), no stream or cipher command does (R195), no earlier access of the task to them is still under way
(R192), and what is read is neither
ciphertext (R236) nor poisoned (R381). -/
def State.reachable (s : State) (off len : Nat) (read write : Bool) : Prop :=
  s.missingOf s.cur (blocksOf off len) = []
    ∧ ((tilesOf off len).any (fun t => s.c.eng.mx.faultTiles.contains t) && s.mxTrap.isSome) = false
    ∧ s.c.tileLocked off len = false
    ∧ s.transferLocked s.cur off len write = false ∧ s.ownUnderWay off len = false
    ∧ (read = true → s.formAt s.cur off len = none ∧ s.poisonAt s.cur off len = none)

/-- The accumulator rows that a VX word reads, and the one that it writes, can be accessed. -/
def State.rowsReachable (s : State) (reads : List (BitVec 6)) (vd : BitVec 6) : Prop :=
  (∀ v ∈ reads, s.reachable (rowOff (s.c.row v)) 512 true false) ∧ s.reachable (rowOff (s.c.row vd)) 512 false true

/-- An access of len bytes at an address is aligned (R185). -/
def State.aligned (s : State) (a : Word) (len : Nat) : Prop :=
  a.toNat % (if len = 512 then (if s.targetsAcc a.toNat then 512 else 64) else len) = 0

/-- An LS access names own bytes inside the bounds and outside the groups that a routine holds (R184, R189, R249). -/
def State.ownAt (s : State) (a : Word) (len o : Nat) : Prop :=
  s.aligned a len ∧ s.aim s.c a.toNat = .own o ∧ s.c.inBounds o len = true ∧ s.c.groupHeld o len = false

/-- A remote access stays below its limit (R191): 32 that wait for a value, 64 that do not. -/
def State.below (s : State) (waits : Bool) : Prop :=
  (s.groupsOfCtx s.c.id waits).length + s.c.domInFlight waits < (if waits then 32 else 64)

/-- An LS access names a remote home that it reaches (R184, R328, R330). -/
def State.farAt (s : State) (a : Word) (len : Nat) (write : Bool) (r : Reach) : Prop :=
  s.aligned a len ∧ s.aim s.c a.toNat ≠ .bad ∧ (∀ o, s.aim s.c a.toNat ≠ .own o) ∧ s.reach 3 a (s.aim s.c a.toNat) write = r

/-- No access that a fence of a scope waits for is outstanding (R133, R263). -/
def State.ordered (s : State) (scope : Nat) : Prop := s.fenceMsgs scope = false ∧ s.fenceDom scope = false

/-- An MCALL or MZERO passes its checks (R243, R248, R249), and the engine has room (R250). -/
def State.mxTakes (s : State) (r : MxRun) (bs : List Nat) : Prop :=
  s.there bs ∧ s.mxTrap = none ∧ r.fmtBad = false ∧ r.paramBad = none
    ∧ (∀ a ∈ r.areas, a.start % 64 = 0 ∧ a.start < 0x1000000 ∧ a.start + a.len ≤ 0x1000000
        ∧ s.c.ctl.seglo.toNat ≤ a.start ∧ a.start + a.len ≤ s.c.ctl.seghi.toNat)
    ∧ r.misplaced = none ∧ s.mxCrosses s.cur r = false ∧ s.there (areaBlocks r.areas ++ r.locks.map (6 + ·)) ∧ s.c.eng.mx.full = false

/-- The parameters of an MCALL: M0 to M3 and the format entry (R239, R240). -/
def Ctx.routine (c : Ctx) (rt : Routine) (sa sb : Option (BitVec 6)) (f0 neg : Bool) : MxRun :=
  { rt := rt, sa := (sa.map fun r => (c.rd6 r).toNat).getD 0, sb := (sb.map fun r => (c.rd6 r).toNat).getD 0
    m0 := c.eng.m[0], m1 := c.eng.m[1], m2 := c.eng.m[2], m3 := c.eng.m[3]
    fmt := if f0 then c.eng.fmt[0] else c.fmtEntry, neg := neg }

/-- The presence blocks of an MCALL. -/
def mcallBlocks (sa sb : Option (BitVec 6)) : List Nat :=
  (match sa with | some r => [regBlock6 r] | none => []) ++ (match sb with | some r => [regBlock6 r] | none => []) ++ [2, 3]

/-- A routine as it enters the engine: its busy time, its groups and the tiles that it locks (R247, R249, R252). -/
def MxRun.issued (r : MxRun) : MxRun := { r with left := r.busy, groups := r.groupsUsed, tiles := r.locks }

/-- The context with a routine in its engine (R250). -/
def Ctx.startRoutine (c : Ctx) (r : MxRun) : Ctx := { c with eng := { c.eng with mx := c.eng.mx.enter r.issued } }

/-- What a stream command reads at issue (R215). -/
def Ctx.streamOf (c : Ctx) (k : StreamKind) (ch : BitVec 3) (sa sb : Option (BitVec 6)) (ct sh : Bool) (bob : BitVec 4)
    (n : Nat) : Stream :=
  let x := c.eng.channel ch.toNat
  let rd (y : Option (BitVec 6)) : Word := match y with | some r => c.rd6 r | none => 0
  { kind := k, src := rd sa, dst := rd sb, rowb := bitsOf (x.read 0).toNat 0 24, rows := bitsOf (x.read 0).toNat 32 16
    sstr := x.read 1, dstr := x.read 2, idx := bitsOf (x.read 3).toNat 0 24, cctl := x.read 4
    dl := bitsOf (x.read 5).toNat 0 32, fmt := c.fmtEntry, bob := c.eng.bobbin bob, n := n, ct := ct, sh := sh }

/-- The presence blocks of a stream command. -/
def streamBlocks (sa sb : Option (BitVec 6)) : List Nat :=
  3 :: ((match sa with | some r => [regBlock6 r] | none => []) ++ (match sb with | some r => [regBlock6 r] | none => []))

/-- The stream that enters the channel: its deadline counts only for a strict context and a stream that touches a reserved
class of memory (R217, R295). -/
def State.dated (s : State) (st : Stream) : Stream :=
  { st with dl := if s.c.ctl.strict && !(s.memClasses s.cur st).isEmpty then st.dl else 0 }

/-- A stream command passes its checks (R216, R217, R224, R295) with these shadows, and its channel is free. -/
def State.streamTakes (s : State) (ch : BitVec 3) (st : Stream) (w : Word) (bs : List Nat) (shs : List Shadow) : Prop :=
  s.there bs
    ∧ (s.c.eng.channel ch.toNat).state ≠ 1 ∧ (s.c.eng.channel ch.toNat).state ≠ 3
    ∧ s.streamFault s.cur st ((s.c.eng.channel ch.toNat).read 0) w = none
    ∧ s.shadowsFor s.cur ch.toNat (s.dated st) = .ok shs
    ∧ ((s.dated st).dl = 0 ∨ s.admits s.cur (s.dated st) = true)

/-! ### Outcomes -/

/-- The outcome of a step. -/
abbrev Out : Type := Host.Outcome State Fault Refusal

/-- The current spindle's word leaves one write in flight that lands after a number of unfrozen cycles (R73), and changes
nothing else. -/
def inFlight (s : State) (lat : Nat) (l : Land) : Out := .next (s.pend lat [l])

/-- The word leaves one write in flight, and its flags, which land with latency 1 (R136, R211). -/
def inFlightWith (s : State) (lat : Nat) (l : Land) (fl : BitVec 9) : Out := .next ((s.pend lat [l]).raiseFlags fl)

/-- A VX word leaves its row in flight, and its flags (R166, R178). -/
def rowInFlight (s : State) (vd : BitVec 6) (lat : Nat) (f : List Byte × BitVec 9) : Out :=
  .next (((s.modC Ctx.fusionStep).pend lat [.acc s.c.fusedHere (rowOff (s.c.row vd)) f.1]).raiseFlags f.2)

/-- The word raises a trap at its bundle, with its slot and value (R311 to R314). -/
def traps (s : State) (code slot : Nat) (val : Word) : Out := .next (s.takeTrap s.cur (s.trapHere code slot val))

/-! ### Frames -/

/-- Only the results in flight of the current context and the requests for blocks may differ: every register, flag,
control register, special register, engine, notice and the program counter of every context, every byte of memory, and
everything else of the module stay. -/
def State.onlyPipes (s t : State) : Prop :=
  t = s ∨ ∃ p h w, t = s.modSp s.cur fun sp => { sp with ctx := { sp.ctx with pipe := p, hpipe := h }, want := w }

/-- The same, but that a fused sequence of the current context may also end or go on (R182). -/
def State.onlyRows (s t : State) : Prop :=
  t = s ∨ ∃ p h w f, t = s.modSp s.cur fun sp => { sp with ctx := { sp.ctx with pipe := p, hpipe := h, fusion := f }, want := w }

/-- Every VX word with the given operands. -/
def vxWords (vd va vb : BitVec 6) (r1 r2 : BitVec 5) (code : BitVec 4) (n : BitVec 6) (ty : BitVec 2) (e8 zi zo sb : Bool)
    (q : BitVec 3) : List Instr :=
  [.vadd vd va vb ty zi zo sb q, .vsub vd va vb ty zi zo sb q, .vmul vd va vb ty zi zo sb q, .vfma vd va vb ty zi zo sb q,
   .vfmac vd va vb ty zi zo sb q, .vmin vd va vb ty zi sb q, .vmax vd va vb ty zi sb q, .vabs vd va ty q, .vneg vd va ty q,
   .vdiv vd va vb ty zi zo sb q, .vexp vd va ty zi zo q, .vexp2 vd va ty zi zo q, .vlog2 vd va ty zi zo q, .vrcp vd va ty zi zo q,
   .vrsqrt vd va ty zi zo q, .vsqrt vd va ty zi zo q, .vrmax vd va ty zi q, .vrmin vd va ty zi q, .vrsum vd va ty zi zo q]
  ++ [.vcmplt vd va vb ty zi sb q, .vcmpeq vd va vb ty zi sb q, .vsel vd va vb ty sb q, .vcvt vd va code ty zi zo q,
   .vmov vd va q, .vbcast vd va n ty q, .vbcastY vd r1 ty q, .vlsh vd va n ty q, .vlshY vd va r1 ty q, .vget r1 va r2 ty q,
   .vput vd r1 r2 ty q, .viota vd ty q, .vrng vd va vb sb q]
  ++ [.viadd vd va vb sb q, .visub vd va vb sb q, .vimul vd va vb sb q, .vand vd va vb sb q, .vor vd va vb sb q,
   .vxor vd va vb sb q, .vsll vd va vb sb q, .vsrl vd va vb sb q, .vsra vd va vb sb q, .vimin vd va vb sb q,
   .vimax vd va vb sb q, .vadd8 vd va vb e8 zi zo sb q, .vmul8 vd va vb e8 zi zo sb q]

/-- The architectural registers of two contexts agree: general registers, predicates, loops, constants, control registers,
trap registers and engines. -/
def Ctx.sameRegs (c d : Ctx) : Prop := c.regs = d.regs ∧ c.ctl = d.ctl ∧ c.trap = d.trap ∧ c.eng = d.eng

/-- No register of the current context and nothing of another context differs. -/
def State.sameRegs (s t : State) : Prop := t.c.sameRegs s.c ∧ ∀ n, n ≠ s.cur → t.ctxOf n = s.ctxOf n

/-- Every byte of memory reads as before. -/
def State.sameMem (s t : State) : Prop := ∀ a, cellGet t.mem.cells a = cellGet s.mem.cells a

/-- Every byte of memory outside the listed keys reads as before. -/
def State.sameMemBut (s t : State) (ks : List Nat) : Prop :=
  ∀ a, a ∉ ks → cellGet t.mem.cells a = cellGet s.mem.cells a

/-- No image holds unpublished shadows of its own slice (R345). -/
def State.poolFree (s : State) : Prop :=
  ∀ x ∈ s.parts, ∀ y ∈ x.2.sched.images, y.2.ctx.eng.ownPool y.2.spin = []

/-- Every byte of memory outside the slots that hold images reads as before (R345). -/
def State.onlySlots (s t : State) : Prop :=
  ∀ a, (∀ p slot, (s.imageAt p slot).isSome = true → a < s.slotAddr p slot ∨ s.slotAddr p slot + 0x1800000 ≤ a) →
    cellGet t.mem.cells a = cellGet s.mem.cells a

/-- The keys of own bytes (R187, R188). -/
def State.ownKeys (s : State) (off len : Nat) : List Nat := (List.range len).map fun i => s.sliceAt s.cur (off + i)

end Sys2Proof.Machine
end

