-- ==== Sys2Proof/Certificates/Slice0/Obligations.lean ====
section
/-!
DEFINITION. The statements for the provers, each with the rules of spec/ that it formalises.
-/

open Sys2Proof Sys2Proof.Machine

/-- R108: what each IALU word writes to reg[rd] with latency 1. The result is in flight, and nothing else of the state
differs, so the equation is also the word's frame. R111: multiplication (latency 3) and division (latency 14, SY alone): the
quotient is truncated towards zero and the remainder has the sign of the dividend, with the results for a divisor 0 and for
the most negative number divided by -1. -/
def Obligations.IntegerResults : Prop :=
  (∀ (cl : Cluster) (rd ra rb : BitVec 5) (bk : BitVec 2) (g : BitVec 4) (s : State),
     s.acts g (regBlock cl :: bkBlocks bk) →
       let a := s.c.rd cl ra
       let b := s.c.opB cl rb bk
       let put : Word → Out := fun v => .next (s.pend 1 [landReg cl rd v])
       let narrow := fun (v : BitVec 32) => v.signExtend 64
       exec (.add cl rd ra rb bk g) s = put (a + b)
       ∧ exec (.sub cl rd ra rb bk g) s = put (a - b)
       ∧ exec (.and cl rd ra rb bk g) s = put (a &&& b)
       ∧ exec (.or cl rd ra rb bk g) s = put (a ||| b)
       ∧ exec (.xor cl rd ra rb bk g) s = put (a ^^^ b)
       ∧ exec (.andn cl rd ra rb bk g) s = put (a &&& ~~~b)
       ∧ exec (.sll cl rd ra rb bk g) s = put (a <<< (b.toNat % 64))
       ∧ exec (.srl cl rd ra rb bk g) s = put (a >>> (b.toNat % 64))
       ∧ exec (.sra cl rd ra rb bk g) s = put (a.sshiftRight (b.toNat % 64))
       ∧ exec (.slt cl rd ra rb bk g) s = put (if a.toInt < b.toInt then 1 else 0)
       ∧ exec (.sltu cl rd ra rb bk g) s = put (if a.toNat < b.toNat then 1 else 0)
       ∧ exec (.min cl rd ra rb bk g) s = put (if a.toInt < b.toInt then a else b)
       ∧ exec (.max cl rd ra rb bk g) s = put (if a.toInt < b.toInt then b else a)
       ∧ exec (.minu cl rd ra rb bk g) s = put (if a.toNat < b.toNat then a else b)
       ∧ exec (.maxu cl rd ra rb bk g) s = put (if a.toNat < b.toNat then b else a)
       ∧ exec (.addw cl rd ra rb bk g) s = put (narrow ((a + b).setWidth 32))
       ∧ exec (.subw cl rd ra rb bk g) s = put (narrow ((a - b).setWidth 32))
       ∧ exec (.sllw cl rd ra rb bk g) s = put (narrow (a.setWidth 32 <<< (b.toNat % 32)))
       ∧ exec (.srlw cl rd ra rb bk g) s = put (narrow (a.setWidth 32 >>> (b.toNat % 32)))
       ∧ exec (.sraw cl rd ra rb bk g) s = put (narrow ((a.setWidth 32).sshiftRight (b.toNat % 32)))
       ∧ exec (.hash cl rd ra rb bk g) s = put ((hash32 (a.setWidth 32) (b.setWidth 32)).setWidth 64))
  ∧ (∀ (cl : Cluster) (rd ra rb : BitVec 5) (bk : BitVec 2) (g : BitVec 4) (s : State),
     (s.acts g (regBlock cl :: bkBlocks bk) →
       let a := s.c.rd cl ra
       let b := s.c.opB cl rb bk
       let put : Word → Out := fun v => .next (s.pend 3 [landReg cl rd v])
       exec (.mul cl rd ra rb bk g) s = put (a * b)
       ∧ exec (.mulh cl rd ra rb bk g) s = put (BitVec.ofInt 64 (a.toInt * b.toInt / 2 ^ 64))
       ∧ exec (.mulhu cl rd ra rb bk g) s = put (BitVec.ofNat 64 (a.toNat * b.toNat / 2 ^ 64))
       ∧ exec (.mulw cl rd ra rb bk g) s = put ((a.setWidth 32 * b.setWidth 32).signExtend 64))
     ∧ (s.acts g (regBlock .y :: bkBlocks bk) →
       let a := s.c.rd .y ra
       let b := s.c.opB .y rb bk
       let put : Word → Out := fun v => .next (s.pend 14 [landReg .y rd v])
       (b = 0 →
         exec (.div rd ra rb bk g) s = put (BitVec.allOnes 64) ∧ exec (.divu rd ra rb bk g) s = put (BitVec.allOnes 64)
         ∧ exec (.rem rd ra rb bk g) s = put a ∧ exec (.remu rd ra rb bk g) s = put a)
       ∧ (b ≠ 0 →
         exec (.divu rd ra rb bk g) s = put (BitVec.ofNat 64 (a.toNat / b.toNat))
         ∧ exec (.remu rd ra rb bk g) s = put (BitVec.ofNat 64 (a.toNat % b.toNat)))
       ∧ (a = BitVec.intMin 64 → b = BitVec.allOnes 64 →
         exec (.div rd ra rb bk g) s = put a ∧ exec (.rem rd ra rb bk g) s = put 0)
       ∧ (b ≠ 0 →
         exec (.div rd ra rb bk g) s = put (BitVec.ofInt 64 (a.toInt.tdiv b.toInt))
         ∧ exec (.rem rd ra rb bk g) s = put (BitVec.ofInt 64 (a.toInt.tmod b.toInt)))))

/-- R96 to R98 and R110: words with an immediate, a literal or a constant; latency 1. LIMMH reads the register it writes. R108: CLZ and POPC, by what their results count. R109: Hash32, computed on numbers as the rule writes it; HASH writes it to reg[rd]. R118 and R119: ATEST and ACVT, with the ranges and the relative forms written out. -/
def Obligations.ImmediatesCountsAndHash : Prop :=
  (∀ (cl : Cluster) (rd ra : BitVec 5) (imm : BitVec 12) (sh : BitVec 6) (i20 : BitVec 20) (num : BitVec 2) (idx : BitVec 8)
     (g : BitVec 4) (s : State),
     let put : Word → Out := fun v => .next (s.pend 1 [landReg cl rd v])
     (s.acts g [regBlock cl] →
       let a := s.c.rd cl ra
       let i := imm.signExtend 64
       exec (.addi cl rd ra imm g) s = put (a + i)
       ∧ exec (.andi cl rd ra imm g) s = put (a &&& i)
       ∧ exec (.ori cl rd ra imm g) s = put (a ||| i)
       ∧ exec (.xori cl rd ra imm g) s = put (a ^^^ i)
       ∧ exec (.slti cl rd ra imm g) s = put (if a.toInt < i.toInt then 1 else 0)
       ∧ exec (.slli cl rd ra sh g) s = put (a <<< sh.toNat)
       ∧ exec (.srli cl rd ra sh g) s = put (a >>> sh.toNat)
       ∧ exec (.srai cl rd ra sh g) s = put (a.sshiftRight sh.toNat))
     ∧ (s.there [regBlock cl] →
       exec (.limm cl rd i20) s = put (i20.signExtend 64)
       ∧ exec (.limmh cl rd i20) s = put ((i20.signExtend 44 ++ (s.c.rd cl rd).setWidth 20 : BitVec 64))
       ∧ exec (.fimm cl rd i20) s = put (BitVec.ofNat 64 (i20.toNat * 2 ^ 12))
       ∧ exec (.lit cl rd num) s = put ((s.c.litWord num.toNat).setWidth 64)
       ∧ exec (.litS cl rd num) s = put ((s.c.litWord num.toNat).signExtend 64)
       ∧ exec (.litD cl rd num) s = put ((s.c.litWord (num.toNat + 1) ++ s.c.litWord num.toNat : BitVec 64)))
     ∧ (s.there [regBlock cl, 5] →
       exec (.kld cl rd idx) s = put ((s.c.regs.k[(s.c.ctl.cbase.toNat + idx.toNat) % 256]'(Nat.mod_lt _ (by decide))).setWidth 64)))
  ∧ ((∀ (cl : Cluster) (rd ra : BitVec 5) (g : BitVec 4) (s : State), s.acts g [regBlock cl] →
      (∃ n : Nat, exec (.clz cl rd ra g) s = inFlight s 1 (landReg cl rd (BitVec.ofNat 64 n))
        ∧ n ≤ 64 ∧ (s.c.rd cl ra).toNat < 2 ^ (64 - n) ∧ (n < 64 → 2 ^ (63 - n) ≤ (s.c.rd cl ra).toNat))
      ∧ exec (.popc cl rd ra g) s =
          inFlight s 1 (landReg cl rd (BitVec.ofNat 64 ((List.range 64).filter fun i => (s.c.rd cl ra).getLsbD i).length)))
   ∧ ((∀ (cl : Cluster) (rd ra rb : BitVec 5) (bk : BitVec 2) (g : BitVec 4) (s : State),
      s.acts g (regBlock cl :: bkBlocks bk) →
      exec (.hash cl rd ra rb bk g) s =
        inFlight s 1 (landReg cl rd
          ((hash32 ((s.c.rd cl ra).setWidth 32) ((s.c.opB cl rb bk).setWidth 32)).setWidth 64)))
    ∧ ∀ u v : BitVec 32,
      let step := fun (h k : Nat) => h ^^^ (h >>> k)
      (hash32 u v).toNat =
        step (step ((u.toNat ^^^ v.toNat) * 0x9E3779B1 % 2 ^ 32) 15 * 0x85EBCA77 % 2 ^ 32) 13))
  ∧ (∀ (cl : Cluster) (rd ra : BitVec 5) (pd : BitVec 3) (g : BitVec 4) (s : State),
     let a := (s.c.rd cl ra).toNat
     let np := s.npOf s.c.partN
     let nm := s.pf.nmod.toNat
     let shared := fun (psn off : Nat) => psn < np ∧ off < 0x1200000 ∧ a = 0x10000000000 + psn * 0x2000000 + off
     let cluster := fun (m off : Nat) => m < nm ∧ off < 2 ^ 44 ∧ a = 0x100000000000000 + m * 2 ^ 44 + off
     let conv := fun (i : Instr) (v : Nat) => exec i s = inFlight s 1 (landReg cl rd (BitVec.ofNat 64 v))
     let fail := 0xFFFFFFFFFFFFFFFF
     (s.acts g [regBlock cl, 2] →
       ∀ (ap : BitVec 5) (want : Prop),
         (ap = 0 ∧ (want ↔ a < 0x1200000)) ∨ (ap = 1 ∧ (want ↔ ∃ psn off, shared psn off))
           ∨ (ap = 2 ∧ (want ↔ ∃ m off, cluster m off))
           ∨ (ap = 3 ∧ (want ↔ (a < 0x1200000 ∧ 0x1000000 ≤ a) ∨ ∃ psn off, shared psn off ∧ 0x1000000 ≤ off))
           ∨ (ap = 4 ∧ (want ↔ 0x1000000000000 ≤ a ∧ a < 0x3000000000000)) →
         ∃ b, exec (.atest cl pd ra ap g) s = inFlight s 1 (.p pd b) ∧ (b = true ↔ want))
     ∧ (s.acts g [regBlock cl] →
       conv (.acvtGen2loc cl rd ra g) (if a < 0x1200000 then a else fail)
       ∧ (∀ psn off, shared psn off → conv (.acvtGen2shr cl rd ra g) (psn * 2 ^ 32 + off))
       ∧ ((¬ ∃ psn off, shared psn off) → conv (.acvtGen2shr cl rd ra g) fail)
       ∧ (∀ m off, cluster m off → conv (.acvtGen2clu cl rd ra g) (m * 2 ^ 48 + off))
       ∧ ((¬ ∃ m off, cluster m off) → conv (.acvtGen2clu cl rd ra g) fail)
       ∧ conv (.acvtLoc2gen cl rd ra g) (if a < 0x1200000 then a else fail)
       ∧ conv (.acvtShr2gen cl rd ra g)
           (if a / 2 ^ 32 < np ∧ a % 2 ^ 32 < 0x1200000 then 0x10000000000 + a / 2 ^ 32 * 0x2000000 + a % 2 ^ 32 else fail)
       ∧ conv (.acvtClu2gen cl rd ra g)
           (if a / 2 ^ 48 < nm ∧ a / 2 ^ 44 % 16 = 0 then 0x100000000000000 + a / 2 ^ 48 * 2 ^ 44 + a % 2 ^ 44 else fail)))

/-- R112: the comparisons, whose conditions EQ, NE, LT, GE, LTU and GEU are encoded 0 to 5; latency 1. -/
def Obligations.ComparisonResults : Prop :=
  (decodeAt (.slot .sx) 0x3D22FFD0#32).toOption = some (.pcmpi .x 2 2 5 (-3) 0)
  ∧ ∀ (cl : Cluster) (ra rb : BitVec 5) (bk : BitVec 2) (pd cond : BitVec 3) (cond5 : BitVec 5) (imm : BitVec 11)
    (g : BitVec 4) (s : State),
    let bit : Bool → Out := fun b => .next (s.pend 1 [.p pd b])
    let a := s.c.rd cl ra
    let holds := fun (k : Nat) (x y : Word) =>
      (k = 0 ∧ x = y) ∨ (k = 1 ∧ x ≠ y) ∨ (k = 2 ∧ x.toInt < y.toInt) ∨ (k = 3 ∧ y.toInt ≤ x.toInt)
        ∨ (k = 4 ∧ x.toNat < y.toNat) ∨ (k = 5 ∧ y.toNat ≤ x.toNat)
    (s.acts g (regBlock cl :: 2 :: bkBlocks bk) → cond5.toNat ≤ 5 →
      ∃ t, exec (.pcmp cl pd ra rb bk cond5 g) s = bit t ∧ (t = true ↔ holds cond5.toNat a (s.c.opB cl rb bk)))
    ∧ (s.acts g [regBlock cl, 2] → cond.toNat ≤ 5 →
      ∃ t, exec (.pcmpi cl pd cond ra imm g) s = bit t ∧ (t = true ↔ holds cond.toNat a (imm.signExtend 64)))

/-- R113: the predicate logic words, for any source predicates; the latency is 1. -/
def Obligations.PredicateLogic : Prop :=
  ∀ (cl : Cluster) (pd pa pb : BitVec 3) (g : BitVec 4) (s : State), s.acts g [2] →
    let bit : Bool → Out := fun b => .next (s.pend 1 [.p pd b])
    let p := s.c.regs.rp
    exec (.pand cl pd pa pb g) s = bit (p pa && p pb)
    ∧ exec (.por cl pd pa pb g) s = bit (p pa || p pb)
    ∧ exec (.pxor cl pd pa pb g) s = bit (p pa != p pb)
    ∧ exec (.pandn cl pd pa pb g) s = bit (p pa && !p pb)
    ∧ exec (.pandn cl pd 0 3 g) s = bit (!p 3)

/-- R114 and R115: SEL and XMOV, with the words that the rules give as examples. -/
def Obligations.SelAndXmov : Prop :=
  (∀ (cl : Cluster) (rd ra rb : BitVec 5) (bk : BitVec 2) (pk : BitVec 3) (g : BitVec 4) (s : State),
    s.acts g (regBlock cl :: 2 :: bkBlocks bk) →
    exec (.sel cl rd ra rb bk pk g) s =
      inFlight s 1 (landReg cl rd (if s.c.regs.rp pk then s.c.rd cl ra else s.c.opB cl rb bk)))
  ∧ (∀ (rd ra : BitVec 5) (g : BitVec 4) (s : State), s.acts g [0, 1] →
    exec (.xmov .x rd ra g) s = inFlight s 2 (.x rd (s.c.regs.ry ra))
    ∧ exec (.xmov .y rd ra g) s = inFlight s 2 (.y rd (s.c.regs.rx ra))
    ∧ exec (.xmov .x rd 0 g) s = inFlight s 2 (.x rd 0) ∧ exec (.xmov .y rd 0 g) s = inFlight s 2 (.y rd 0))
  ∧ (decodeAt (.slot .sx) 0x452A5810#32).toOption = some (.sel .x 9 10 11 0 1 0)
  ∧ (decodeAt (.slot .sx) 0x48E40000#32).toOption = some (.xmov .x 7 4 0)

/-- R116, R117, R134, R139 and R312: reading and writing control registers by number. R73, R106, R117, R136 and R312: the effect of a write when it lands in the context on spindle n. -/
def Obligations.ControlRegistersAndLanding : Prop :=
  (∀ (cl : Cluster) (rd ra : BitVec 5) (num : BitVec 16) (s : State),
     let n := num.toNat
     let assigned := n ≤ 0x00E ∨ 0x010 ≤ n ∧ n ≤ 0x016 ∨ 0x018 ≤ n ∧ n ≤ 0x01B ∨ 0x020 ≤ n ∧ n ≤ 0x022 ∨ 0x030 ≤ n ∧ n ≤ 0x0C7
     let fixed := n = 0x000 ∨ 0x008 ≤ n ∧ n ≤ 0x00D ∨ 0x018 ≤ n ∧ n ≤ 0x01B ∨ n = 0x021 ∨ n = 0x022
       ∨ 0x080 ≤ n ∧ n ≤ 0x0BF ∧ 6 ≤ n % 8
     let priv := n = 0x020 ∨ s.c.ctl.hmode = false ∧ 0x011 ≤ n ∧ n ≤ 0x014
     let masked := s.c.ctl.det = true ∧ 0x009 ≤ n ∧ n ≤ 0x00C
     (assigned → s.there [regBlock cl, if n < 0x030 then 2 else 3] →
       (¬ masked → exec (.crd cl rd num) s = inFlight s 2 (landReg cl rd (s.c.readCr s.gcyc num)))
       ∧ (masked → exec (.crd cl rd num) s = .next ((s.pend 2 [landReg cl rd 0]).pend 1 [.flags fDETREAD]))
       ∧ (¬ fixed → ¬ priv → exec (.cwr cl ra num) s = inFlight s 1 (.creg num (s.c.rd cl ra))))
     ∧ (¬ assigned → exec (.crd cl rd num) s = traps s tILLEGAL (slotNo cl) (wordOf (.crd cl rd num)))
     ∧ (priv → exec (.cwr cl ra num) s = traps s tPRIV (slotNo cl) (wordOf (.cwr cl ra num)))
     ∧ (¬ priv → ¬ assigned ∨ fixed → exec (.cwr cl ra num) s = traps s tILLEGAL (slotNo cl) (wordOf (.cwr cl ra num))))
  ∧ (∀ (s : State) (n : Nat) (cl : Cluster) (r : BitVec 5) (v : Word) (k : BitVec 3) (b : Bool) (num : BitVec 16) (f : BitVec 9),
     (let t := s.land n (landReg cl r v);
       (t.ctxOf n).rd cl r = (if r = 0 then 0 else v)
       ∧ (∀ (d : Cluster) (q : BitVec 5), (d, q) ≠ (cl, r) → (t.ctxOf n).rd d q = (s.ctxOf n).rd d q)
       ∧ (t.ctxOf n).regs.p = (s.ctxOf n).regs.p ∧ (t.ctxOf n).ctl = (s.ctxOf n).ctl ∧ t.mem = s.mem)
     ∧ (let t := s.land n (.p k b);
       (t.ctxOf n).regs.rp k = (if k = 0 then true else b)
       ∧ (∀ j, j ≠ k → (t.ctxOf n).regs.rp j = (s.ctxOf n).regs.rp j)
       ∧ (t.ctxOf n).regs.x = (s.ctxOf n).regs.x ∧ (t.ctxOf n).regs.y = (s.ctxOf n).regs.y ∧ (t.ctxOf n).ctl = (s.ctxOf n).ctl)
     ∧ ((s.land n (.creg 0x001 v)).ctxOf n).ctl.fstat = (s.ctxOf n).ctl.fstat &&& ~~~(v.setWidth 9)
     ∧ 0x0400 ≤ ((s.land n (.creg 0x00E v)).ctxOf n).ctl.ppbound.toNat
     ∧ ((s.land n (.creg 0x015 v)).ctxOf n).trap.tdeleg = v &&& tdelegMask
     ∧ (Machine.crReadOnly num.toNat = true ∨ Machine.crAssigned num.toNat = false → num.toNat ≠ 0x00D → (s.land n (.creg num v)).ctxOf n = s.ctxOf n)
     ∧ ((s.land n (.flags f)).ctxOf n).ctl.fstat = (s.ctxOf n).ctl.fstat ||| f
     ∧ (∀ m, m ≠ n → ∀ l : Land, (s.land n l).ctxOf m = s.ctxOf m))

/-- R107 and R76: a scalar word, or a word of the LS slot, with a false guard changes no state at all. -/
def Obligations.FalseGuardDoesNothing : Prop :=
  (∀ (cl : Cluster) (rd ra rb : BitVec 5) (bk : BitVec 2) (pd pa pb pk cond : BitVec 3) (c5 : BitVec 5) (imm : BitVec 12)
    (i11 : BitVec 11) (sh : BitVec 6) (off : BitVec 22) (code : BitVec 12) (bnd : BitVec 8) (bar : BitVec 6) (sc : BitVec 3)
    (dbl : Bool) (g : BitVec 4) (s : State), s.there (guardBlocks g) → s.c.guard g = false →
    ∀ i ∈ [Instr.add cl rd ra rb bk g, .sub cl rd ra rb bk g, .and cl rd ra rb bk g, .or cl rd ra rb bk g,
      .xor cl rd ra rb bk g, .andn cl rd ra rb bk g, .sll cl rd ra rb bk g, .srl cl rd ra rb bk g, .sra cl rd ra rb bk g,
      .slt cl rd ra rb bk g, .sltu cl rd ra rb bk g, .min cl rd ra rb bk g, .max cl rd ra rb bk g, .minu cl rd ra rb bk g,
      .maxu cl rd ra rb bk g, .clz cl rd ra g, .popc cl rd ra g, .addw cl rd ra rb bk g, .subw cl rd ra rb bk g,
      .sllw cl rd ra rb bk g, .srlw cl rd ra rb bk g, .sraw cl rd ra rb bk g, .hash cl rd ra rb bk g, .mul cl rd ra rb bk g,
      .mulh cl rd ra rb bk g, .mulhu cl rd ra rb bk g, .mulw cl rd ra rb bk g, .div rd ra rb bk g, .divu rd ra rb bk g,
      .rem rd ra rb bk g, .remu rd ra rb bk g, .addi cl rd ra imm g, .andi cl rd ra imm g, .ori cl rd ra imm g,
      .xori cl rd ra imm g, .slli cl rd ra sh g, .srli cl rd ra sh g, .srai cl rd ra sh g, .slti cl rd ra imm g,
      .pcmp cl pd ra rb bk c5 g, .pcmpi cl pd cond ra i11 g, .pand cl pd pa pb g, .por cl pd pa pb g, .pxor cl pd pa pb g,
      .pandn cl pd pa pb g, .sel cl rd ra rb bk pk g, .xmov cl rd ra g, .acvtGen2loc cl rd ra g, .acvtGen2shr cl rd ra g,
      .acvtGen2clu cl rd ra g, .acvtLoc2gen cl rd ra g, .acvtShr2gen cl rd ra g, .acvtClu2gen cl rd ra g,
      .atest cl pd ra c5 g, .fclass cl rd ra dbl g, .br off g, .jr ra imm g, .call off g, .ret g, .lbrk g, .frame g,
      .sysc code g, .brk code g, .tend g, .est ra g, .esc code g, .tlaunch rd ra g, .tjoin rd ra g, .tjoinW rd ra g,
      .admitC rd ra g, .admitX rd ra g, .cut rd ra g, .gsig rd ra bnd g, .gwait rd ra bnd g, .gpoll rd ra bnd g,
      .barra rd ra bar g, .barraQ rd bar g, .barrw ra bar g, .sstep rd g, .fence sc g],
      exec i s = .next s)
  ∧ (∀ (reg d sr v : BitVec 6) (base dp sp : BitVec 5) (off : BitVec 10) (fmt : BitVec 2) (ord : Bool) (bob : BitVec 4)
      (n : BitVec 8) (g : BitVec 3) (s : State), s.there (guardBlocksLs g) → s.c.guardLs g = false →
      ∀ i ∈ [Instr.ldb reg base off g, .ldh reg base off g, .ldw reg base off g, .ldd reg base off g, .ldbz reg base off g,
        .ldhz reg base off g, .ldwz reg base off g, .vld reg base off g, .stb reg base off g, .sth reg base off g,
        .stw reg base off g, .std reg base off g, .vst reg base off g, .aintAddW d base sr ord g, .aintAddD d base sr ord g,
        .aintAnd d base sr ord g, .aintOr d base sr ord g, .aintXor d base sr ord g, .aintMin d base sr ord g,
        .aintMax d base sr ord g, .aintMinz d base sr ord g, .aintMaxz d base sr ord g, .aintSwapW d base sr ord g,
        .aintSwapD d base sr ord g, .afpFadd d base sr fmt ord g, .afpFmin d base sr fmt ord g, .afpFmax d base sr fmt ord g,
        .acasW d base sr ord g, .acasD d base sr ord g, .acasQ dp base sp ord g, .vaccOvw v base ord g,
        .vaccAddF32 v base ord g, .vaccAddF64 v base ord g, .vaccAddBf16 v base ord g, .vaccAddF16 v base ord g,
        .vaccAddI32 v base ord g, .bpop v bob n g, .bpush v bob n g, .badvC bob n g, .badvP bob n g, .bwaitC bob n g,
        .bwaitP bob n g],
        exec i s = .next s)

/-- R73 and R107: the frame of the scalar words that compute a value: registers change only when the result lands. R211 and R212: a scalar floating-point word touches nothing but results in flight, unless it raises FPX. -/
def Obligations.ScalarFrames : Prop :=
  (∀ (cl : Cluster) (rd ra rb : BitVec 5) (bk : BitVec 2) (pd pa pb pk cond : BitVec 3) (c5 : BitVec 5) (imm : BitVec 12)
     (i11 : BitVec 11) (i20 : BitVec 20) (sh : BitVec 6) (num : BitVec 2) (idx : BitVec 8) (sl : Slot) (g : BitVec 4)
     (s t : State),
     ∀ i ∈ [Instr.nop sl, .add cl rd ra rb bk g, .sub cl rd ra rb bk g, .and cl rd ra rb bk g, .or cl rd ra rb bk g,
       .xor cl rd ra rb bk g, .andn cl rd ra rb bk g, .sll cl rd ra rb bk g, .srl cl rd ra rb bk g, .sra cl rd ra rb bk g,
       .slt cl rd ra rb bk g, .sltu cl rd ra rb bk g, .min cl rd ra rb bk g, .max cl rd ra rb bk g, .minu cl rd ra rb bk g,
       .maxu cl rd ra rb bk g, .clz cl rd ra g, .popc cl rd ra g, .addw cl rd ra rb bk g, .subw cl rd ra rb bk g,
       .sllw cl rd ra rb bk g, .srlw cl rd ra rb bk g, .sraw cl rd ra rb bk g, .hash cl rd ra rb bk g, .mul cl rd ra rb bk g,
       .mulh cl rd ra rb bk g, .mulhu cl rd ra rb bk g, .mulw cl rd ra rb bk g, .div rd ra rb bk g, .divu rd ra rb bk g,
       .rem rd ra rb bk g, .remu rd ra rb bk g, .addi cl rd ra imm g, .andi cl rd ra imm g, .ori cl rd ra imm g,
       .xori cl rd ra imm g, .slli cl rd ra sh g, .srli cl rd ra sh g, .srai cl rd ra sh g, .slti cl rd ra imm g,
       .limm cl rd i20, .limmh cl rd i20, .fimm cl rd i20, .lit cl rd num, .litS cl rd num, .litD cl rd num, .kld cl rd idx,
       .pcmp cl pd ra rb bk c5 g, .pcmpi cl pd cond ra i11 g, .pand cl pd pa pb g, .por cl pd pa pb g, .pxor cl pd pa pb g,
       .pandn cl pd pa pb g, .sel cl rd ra rb bk pk g, .xmov cl rd ra g, .acvtGen2loc cl rd ra g, .acvtGen2shr cl rd ra g,
       .acvtGen2clu cl rd ra g, .acvtLoc2gen cl rd ra g, .acvtShr2gen cl rd ra g, .acvtClu2gen cl rd ra g, .atest cl pd ra c5 g],
       exec i s = .next t → s.onlyPipes t ∧ s.sameRegs t ∧ s.sameMem t)
  ∧ (∀ (cl : Cluster) (rd ra rb rc : BitVec 5) (bk : BitVec 2) (pd : BitVec 3) (cond : BitVec 2) (dbl zi zo : Bool)
     (rm : BitVec 2) (g : BitVec 4) (s t : State),
     (∀ i ∈ [Instr.fadd cl rd ra rb bk dbl zi zo rm, .fsub cl rd ra rb bk dbl zi zo rm, .fmul cl rd ra rb bk dbl zi zo rm,
       .fmin cl rd ra rb bk dbl zi, .fmax cl rd ra rb bk dbl zi, .fabs cl rd ra dbl, .fneg cl rd ra dbl,
       .fcvt cl rd ra dbl zi zo rm, .ftoi cl rd ra dbl zi rm, .fito cl rd ra dbl rm, .fma cl rd ra rb rc dbl zi zo rm,
       .fnma cl rd ra rb rc dbl zi zo rm, .fcmp cl pd cond ra rb dbl, .fclass cl rd ra dbl g, .fdiv rd ra rb bk dbl zi zo rm,
       .fsqrt rd ra dbl zi zo rm],
       exec i s = .next t → (s.onlyPipes t ∧ s.sameRegs t ∧ s.sameMem t)
         ∨ ∃ slot fl, ¬ s.noFpx fl ∧ t = s.takeFpx slot (wordOf i) fl))

/-- R204 to R212: the scalar floating-point words. F is the format that d selects, and zi flushes the operands. -/
def Obligations.FloatResults : Prop :=
  ∀ (cl : Cluster) (rd ra rb rc : BitVec 5) (bk : BitVec 2) (pd : BitVec 3) (cond : BitVec 2) (dbl zi zo : Bool)
    (rm : BitVec 2) (g : BitVec 4) (s : State),
    let f := ffOf dbl
    let h := ffOf (!dbl)
    let m := rm.toNat
    let a := f.flush zi (s.c.opF cl ra dbl)
    let runs := fun (i : Instr) (slot lat : Nat) (l : Land) (fl : BitVec 9) =>
      (s.noFpx fl → exec i s = inFlightWith s lat l fl)
      ∧ (¬ s.noFpx fl → exec i s = .next (s.takeFpx slot (wordOf i) fl))
    let reg := fun (i : Instr) (c : Cluster) (lat : Nat) (r : Res) =>
      runs i (slotNo c) lat (landReg c rd (BitVec.ofNat 64 r.bits)) r.fl
    (s.there (regBlock cl :: 2 :: bkBlocks bk) →
      let b := f.flush zi (s.c.opBF cl rb bk dbl zi)
      reg (.fadd cl rd ra rb bk dbl zi zo rm) cl 4 (f.addV (f.decode a) (f.decode b) m false zo)
      ∧ reg (.fsub cl rd ra rb bk dbl zi zo rm) cl 4 (f.addV (f.decode a) (f.decode b).neg m false zo)
      ∧ reg (.fmul cl rd ra rb bk dbl zi zo rm) cl 4 (f.mulV (f.decode a) (f.decode b) m false zo)
      ∧ reg (.fmin cl rd ra rb bk dbl zi) cl 4 (f.minmax false a b)
      ∧ reg (.fmax cl rd ra rb bk dbl zi) cl 4 (f.minmax true a b))
    ∧ (s.there (regBlock .y :: 2 :: bkBlocks bk) →
      reg (.fdiv rd ra rb bk dbl zi zo rm) .y 14
        (f.divV (f.decode (f.flush zi (s.c.opF .y ra dbl))) (f.decode (f.flush zi (s.c.opBF .y rb bk dbl zi))) m zo))
    ∧ (s.there [regBlock .y, 2] →
      reg (.fsqrt rd ra dbl zi zo rm) .y 14 (f.sqrtV (f.decode (f.flush zi (s.c.opF .y ra dbl))) m zo))
    ∧ (s.there [regBlock cl, 2] →
      let raw := s.c.opF cl ra dbl
      let at_ := fun r => f.decode (f.flush zi (s.c.opF cl r dbl))
      let p := f.decode (s.c.opF cl ra dbl)
      let q := f.decode (s.c.opF cl rb dbl)
      let nan := p.isNan || q.isNan
      reg (.fabs cl rd ra dbl) cl 4 ⟨raw % 2 ^ (f.width - 1), 0⟩
      ∧ reg (.fneg cl rd ra dbl) cl 4 ⟨(raw + 2 ^ (f.width - 1)) % 2 ^ f.width, 0⟩
      ∧ reg (.fcvt cl rd ra dbl zi zo rm) cl 4 (f.convert (h.decode (h.flush zi (s.c.opF cl ra (!dbl)))) m false zo)
      ∧ reg (.ftoi cl rd ra dbl zi rm) cl 4 (ftoi (f.decode a) m)
      ∧ reg (.fito cl rd ra dbl rm) cl 4 (f.ofInt (s.c.rd cl ra).toInt m)
      ∧ reg (.fma cl rd ra rb rc dbl zi zo rm) cl 4 (f.fmaV (at_ ra) (at_ rb) (at_ rc) m zo)
      ∧ reg (.fnma cl rd ra rb rc dbl zi zo rm) cl 4 (f.fmaV (at_ ra).neg (at_ rb) (at_ rc) m zo)
      ∧ (let fl := if cond = 1 ∨ cond = 2 then flagIf nan fNV else flagIf (p.sig || q.sig) fNV
         let holds := if cond = 0 then p.eqv q else if cond = 1 then p.lt q else if cond = 2 then p.lt q || p.eqv q else nan
         runs (.fcmp cl pd cond ra rb dbl) (slotNo cl) 1 (.p pd holds) fl))
    ∧ (s.acts g [regBlock cl, 2] →
      exec (.fclass cl rd ra dbl g) s = inFlight s 1 (landReg cl rd (BitVec.ofNat 64 (2 ^ f.classBit (s.c.opF cl ra dbl)))))

/-- R148: Int(v, rm) on the magnitude v of a signed value, and the inexactness that NX reports. R169 and R207: the digits from which square roots are rounded. -/
def Obligations.ExactRounding : Prop :=
  (∀ (neg : Bool) (man : Nat) (exp qe : Int) (rm : Nat), rm < 4 →
     let v : ℚ := man * 2 ^ (exp - qe)
     let n : ℚ := (roundAt neg man exp false qe rm).1
     ((roundAt neg man exp false qe rm).2 = true ↔ n ≠ v)
     ∧ (rm = 0 → |n - v| ≤ 1 / 2 ∧ (|n - v| = 1 / 2 → (roundAt neg man exp false qe rm).1 % 2 = 0))
     ∧ (rm = 1 ∨ rm = 2 ∧ neg = false ∨ rm = 3 ∧ neg = true → n ≤ v ∧ v < n + 1)
     ∧ (rm = 2 ∧ neg = true ∨ rm = 3 ∧ neg = false → n - 1 < v ∧ v ≤ n))
  ∧ (∀ n : Nat, isqrt n * isqrt n ≤ n ∧ n < (isqrt n + 1) * (isqrt n + 1))

/-- R121 to R123, R128 and R130 to R132: the control words of SX. A transfer, LBRK, SYSC, ESC and TEND take effect when
the bundle ends; the equations name all that changes. R130, R315 and R316: RFE, BRK, and FRAME in handler mode (what the held SFC becomes there is the model's reading). -/
def Obligations.TransfersAndHandlers : Prop :=
  (∀ (off : BitVec 22) (ra : BitVec 5) (o12 code : BitVec 12) (g : BitVec 4) (s : State),
     let h := s.c.bun.hdr
     let goesTo : Word → State → Out := fun a t => .next (t.modC fun c => { c with bun := { c.bun with xfer := some a } })
     let marks : (Bun → Bun) → Out := fun f => .next (s.modC fun c => { c with bun := f c.bun })
     (s.acts g [] →
       exec (.br off g) s = goesTo (h + off.signExtend 64) s
       ∧ exec (.tend g) s = .next (s.modC fun c => { c with inTend := true }))
     ∧ (s.acts g [0] →
       exec (.call off g) s = goesTo (h + off.signExtend 64) (s.pend 1 [.x 31 (h + BitVec.ofNat 64 s.c.bun.len)])
       ∧ exec (.jr ra o12 g) s = goesTo (s.c.regs.rx ra + o12.signExtend 64) s
       ∧ exec (.ret g) s = goesTo (s.c.regs.rx 31) s)
     ∧ (s.acts g [2] →
       exec (.lbrk g) s = marks (fun b => { b with lbrk := true })
       ∧ exec (.sysc code g) s = marks (fun b => { b with sysc := some code })
       ∧ exec (.esc code g) s = marks (fun b => { b with esc := some code })
       ∧ (s.c.ctl.hmode = false →
           exec (.frame g) s = .next (s.modC fun c =>
             { c with ctl := { c.ctl with sfc := 0 }, bun := { c.bun with frame := some c.ctl.sfc } })))
     ∧ (s.acts g [0, 2] →
       let v := min (s.c.regs.rx ra).toNat 0xFFFFFFFF
       -- the issue cycle is one of the count-down (R57), unless a handler runs it (R315)
       exec (.est ra g) s = inFlight s 1 (.creg 0x00D (BitVec.ofNat 64
         (if s.c.ctl.hmode = true ∨ v = 0xFFFFFFFF then v else v - 1)))))
  ∧ (∀ (code : BitVec 12) (g : BitVec 4) (s : State),
     (s.c.ctl.hmode = true → s.there [2] →
       exec .rfe s = .next (s.modC fun c =>
         { c with ctl := { c.ctl with hmode := false }, bun := { c.bun with xfer := some (c.trap.tepc.setWidth 64) } }))
     ∧ (s.c.ctl.hmode = false → exec .rfe s = traps s tILLEGAL 0 (wordOf .rfe))
     ∧ (s.acts g [2] → exec (.brk code g) s = traps s tBRK 0 (code.setWidth 64))
     ∧ (s.c.ctl.hmode = true → s.acts g [2] →
       exec (.frame g) s = .next (s.modC fun c =>
         { c with ctl := { c.ctl with sfc := 1 }, trap := { c.trap with hsfc := 0 } })))

/-- R124 and R125: what the loop words do, for every count, stage number and nesting. R128: LBRK, by the registers with which the back-edge step of its bundle then runs. -/
def Obligations.LoopsAndBreaks : Prop :=
  (∀ (lc : BitVec 2) (sm1 : BitVec 3) (xc : BitVec 5) (off15 : BitVec 15) (count off10 : BitVec 10) (s : State),
     let c := s.c
     let rule := fun (i : Instr) (n off : Nat) (r : Bool) =>
       let fin := c.bun.hdr.toNat + off
       let trips := if n = 0 then 0 else if r then n + sm1.toNat else n
       let taken := ∃ j : Fin 4, lc.toNat ≤ j.val ∧ c.regs.lc[j].active = true
       let beyond := ∃ j : Fin 4, c.regs.lc[j].active = true ∧ (∀ k : Fin 4, c.regs.lc[k].active = true → k ≤ j)
         ∧ s.hdrAddr s.cur c.regs.lc[j].endA.toNat < s.hdrAddr s.cur fin
       (taken ∨ beyond ∨ 0x7FFFFF < trips → exec i s = traps s tLOOPNEST 0 (wordOf i))
       -- with no trips the word jumps past END, whose words it must see (R66)
       ∧ (¬ (taken ∨ beyond ∨ 0x7FFFFF < trips) → trips = 0 → s.there (s.endBlocks s.cur fin) →
         exec i s = .next (s.modC fun c => { c with bun := { c.bun with xfer := some (BitVec.ofNat 64 (s.endOf s.cur fin)) } }))
       ∧ (¬ (taken ∨ beyond ∨ 0x7FFFFF < trips) → trips ≠ 0 →
         let l : LoopCtr := {
           top := BitVec.ofNat 16 (c.bun.hdr.toNat + c.bun.len), endA := BitVec.ofNat 16 fin
           remain := BitVec.ofNat 23 (trips - 1), rot := r, trip := 0, sm1 := sm1, active := true }
         exec i s = .next (s.modC fun c => { c with bun := { c.bun with newLoop := some (lc, l) } }))
     (s.there [0, 2] →
       rule (.loop lc sm1 xc off15) (c.regs.rx xc).toNat off15.toNat false
       ∧ rule (.loopR lc sm1 xc off15) (c.regs.rx xc).toNat off15.toNat true)
     ∧ (s.there [2] →
       rule (.loopi lc sm1 count off10) count.toNat off10.toNat false
       ∧ rule (.loopiR lc sm1 count off10) count.toNat off10.toNat true))
  ∧ (∀ (s : State) (n : Nat) (f : Fetched),
     let c := s.ctxOf n
     let limited := s.modCtx n fun c => { c with regs := c.regs.limit, bun := { c.bun with lbrk := false } }
     (c.bun.lbrk = true →
       (s.bundleEnd n f).ctxOf n = { ((limited.bundleEnd n f).ctxOf n) with bun := c.bun })
     ∧ ((∀ k : Fin 4, c.regs.lc[k].active = false) → c.regs.limit = c.regs)
     ∧ (∀ k : Fin 4, c.regs.lc[k].active = true → (∀ j : Fin 4, k < j → c.regs.lc[j].active = false) →
         (c.regs.limit.lc[k]).remain.toNat =
           min c.regs.lc[k].remain.toNat (if c.regs.lc[k].rot then c.regs.lc[k].sm1.toNat else 0)
         ∧ { c.regs.limit.lc[k] with remain := c.regs.lc[k].remain } = c.regs.lc[k]
         ∧ (∀ j : Fin 4, j ≠ k → c.regs.limit.lc[j] = c.regs.lc[j])
         ∧ c.regs.limit.q = c.regs.q))

/-- R63, R123, R125 and R126: the end of a bundle f. The last clause of each case says what does not change. -/
def Obligations.BundleEnds : Prop :=
  ∀ (s : State) (n : Nat) (f : Fetched),
    let c := s.ctxOf n
    let d := (s.bundleEnd n f).ctxOf n
    let endsHere := fun (e : BitVec 16) => e.toNat = f.start ∨ e.toNat = f.hdr ∨ s.prefixAt n f.hdr e.toNat = true
    let after := BitVec.ofNat 64 (f.hdr + f.h.len)
    c.bun.lbrk = false →
    (∀ a, c.bun.xfer = some a → c.bun.newLoop = none → d.pc = a ∧ d.regs = c.regs ∧ d.ctl = c.ctl)
    ∧ (c.bun.xfer = none → c.bun.newLoop = none →
        (∀ k : Fin 4, c.regs.lc[k].active = true → ¬ endsHere c.regs.lc[k].endA) → d.pc = after ∧ d.regs = c.regs ∧ d.ctl = c.ctl)
    -- k is an active loop, and every active loop inside it ends here with no trip left: each of those is over
    ∧ (c.bun.xfer = none → c.bun.newLoop = none → ∀ k : Fin 4, c.regs.lc[k].active = true →
        (∀ j : Fin 4, k < j → c.regs.lc[j].active = true → endsHere c.regs.lc[j].endA ∧ c.regs.lc[j].remain = 0) →
        let l := c.regs.lc[k]
        let innerOver := ∀ j : Fin 4, k < j → d.regs.lc[j] = { c.regs.lc[j] with active := false }
        (endsHere l.endA → l.remain ≠ 0 →
          d.pc = l.top.setWidth 64
          ∧ d.regs.lc[k] = { l with remain := l.remain - 1, trip := l.trip + 1 }
          ∧ innerOver ∧ (∀ j : Fin 4, j < k → d.regs.lc[j] = c.regs.lc[j])
          ∧ (l.rot = false → d.regs.q = c.regs.q ∧ d.ctl = c.ctl)
          ∧ (l.rot = true → d.ctl = { c.ctl with twist := c.ctl.twist + 1 }
            ∧ (∀ j, 2 ≤ j → j ≤ 15 → d.regs.q.getLsbD j = c.regs.q.getLsbD (j - 1))
            ∧ (d.regs.q.getLsbD 1 = true ↔ l.sm1.toNat ≤ (l.remain - 1).toNat)))
        ∧ (¬ endsHere l.endA →
          d.pc = after ∧ innerOver ∧ (∀ j : Fin 4, j ≤ k → d.regs.lc[j] = c.regs.lc[j]) ∧ d.regs.q = c.regs.q ∧ d.ctl = c.ctl)
        ∧ (endsHere l.endA → l.remain = 0 → (∀ j : Fin 4, j < k → c.regs.lc[j].active = false) →
          d.pc = after ∧ innerOver ∧ d.regs.lc[k] = { l with active := false }
          ∧ (∀ j : Fin 4, j < k → d.regs.lc[j] = c.regs.lc[j]) ∧ d.regs.q = c.regs.q ∧ d.ctl = c.ctl))
    ∧ (∀ k l, c.bun.newLoop = some (k, l) →
        (∀ j : Fin 4, j.val = k.toNat → d.regs.lc[j] = l)
        ∧ (l.rot = true → ∀ j, 1 ≤ j → j ≤ 15 → d.regs.q.getLsbD j = (j == 1)))
    ∧ d.regs.x = c.regs.x ∧ d.regs.y = c.regs.y ∧ d.regs.p = c.regs.p

/-- R313, R314, R319 and R322: what taking a trap writes and what it leaves. -/
def Obligations.TrapRouting : Prop :=
  ∀ (s : State) (n : Nat) (tr : Trap), tr.source = .bundle →
    let c := s.ctxOf n
    let t := s.takeTrap n tr
    let d := t.ctxOf n
    let always := [tFETCHAUTH, tFORM, tGATE, tMEMERR, tCUT, tWATCHDOG]
    let here := c.ctl.hmode = false ∧ tr.code ∉ always ∧ ¬ (tr.code = tXLATE ∧ c.ctl.strict = true)
      ∧ c.trap.tdeleg.getLsbD tr.code = true
    let written := { c.trap with
      tcause := BitVec.ofNat 8 tr.code, tslot := BitVec.ofNat 3 tr.slot, tval := tr.val, tepc := tr.epc }
    (here → d.ctl = { c.ctl with hmode := true } ∧ d.trap = { written with hsfc := c.ctl.sfc }
        ∧ d.pc = c.trap.tvec.setWidth 64 ∧ (t.sp n).run = (s.sp n).run ∧ t.mem = s.mem)
    ∧ (¬ here → d.ctl = c.ctl ∧ d.trap = (if c.ctl.hmode then c.trap else written)
        ∧ d.pc = tr.epc.setWidth 64 ∧ (t.sp n).run = .held false)
    ∧ d.regs = c.regs ∧ d.eng = c.eng ∧ d.pipe = c.pipe ∧ d.hpipe = c.hpipe ∧ d.ident = c.ident ∧ d.lock = none
    ∧ (∀ m, m ≠ n → t.sp m = s.sp m)

/-- R319, R320 and R322: the record that an escalation of spindle n writes, field by field, and where. R130 and R318: what the end of a bundle raises for SYSC and ESC; hm says whether the bundle was a handler's. -/
def Obligations.TrapsAfterWords : Prop :=
  (∀ (s : State) (n : Nat) (tr : Trap), s.sound → (∀ m ∈ s.recordsNow (standOf n), m ≤ n) →
     let c := s.ctxOf n
     let k := standOf n
     let st := s.stand k
     let t := s.escalate n tr
     let at_ := superKey k (st.trqbase.toNat * 4096 + 32 * (st.trqhead.toNat % 128))
     (st.ringFull = true → t.mem = s.mem ∧ (t.stand k).trqhead = st.trqhead
         ∧ ∃ r ∈ (t.stand k).recWait, r = (n, trapRecord c s.gcyc tr c.ctl.hmode false))
     ∧ (st.ringFull = false →
         (t.stand k).trqhead = st.trqhead + 1
         ∧ s.sameMemBut t (rangeFrom at_ 32)
         ∧ ∀ off len v, (off, len, v) ∈ [(0, 1, tr.code), (1, 1, tr.slot),
             (2, 2, c.ctl.hmode.toNat + 4 * c.ctl.strict.toNat + 8 * tr.notice.toNat), (4, 2, tr.epc.toNat),
             (6, 2, c.ident.psn.toNat), (8, 8, s.gcyc), (16, 8, tr.val.toNat), (24, 4, c.ident.t.toNat),
             (28, 2, c.ident.node.toNat), (30, 1, c.ident.handle.toNat), (31, 1, c.ident.part.toNat)] →
           ofBytesLE (t.mem.read (at_ + off) len) = v % 256 ^ len))
  ∧ (∀ (s : State) (n : Nat) (hm : Bool) (sfc : BitVec 32),
     let c := s.ctxOf n
     let t := s.afterBundle n hm sfc
     let d := t.ctxOf n
     (c.bun.sysc = none → c.bun.esc = none → t = s)
     ∧ (∀ k, c.bun.sysc = some k →
         let u := s.takeTrap n { code := tSYSC, slot := 0, val := k.setWidth 64, epc := c.pc.setWidth 16 }
         t.mem = u.mem ∧ (t.sp n).run = (u.sp n).run ∧ d.ctl = (u.ctxOf n).ctl ∧ d.pc = (u.ctxOf n).pc ∧ d.regs = c.regs
         ∧ d.trap = (if hm then (u.ctxOf n).trap else { (u.ctxOf n).trap with hsfc := sfc }))
     ∧ (∀ k, c.bun.sysc = none → c.bun.esc = some k → hm = false →
         (t.sp n).run = .held true ∧ d.regs = c.regs ∧ d.ctl = c.ctl ∧ d.pc = (c.pc.setWidth 16).setWidth 64
         ∧ d.trap = { c.trap with tcause := BitVec.ofNat 8 tSYSC, tslot := 0, tval := k.setWidth 64, tepc := c.pc.setWidth 16 })
     ∧ (∀ k, c.bun.sysc = none → c.bun.esc = some k → hm = true →
         (t.sp n).run = .held true ∧ d.regs = c.regs ∧ d.trap = c.trap ∧ d.pc = c.trap.tepc.setWidth 64))

/-- R318, R320 and R321: what the supervisor of a stand does to the spindle with index k. R323: the watchdog of spindle n. That the record of
a word that has issued and waits names its bundle in EPC is the model's reading (log 11, DEDUCED). -/
def Obligations.DispositionsAndWatchdog : Prop :=
  (∀ (s : State) (stand k : Nat) (newpc setx : Bool) (xreg : BitVec 5) (addr : BitVec 16) (val : BitVec 32),
     stand < 40 → k < 8 →
     let n := 8 * stand + k
     let c := s.ctxOf n
     let waits := ∃ r ∈ (s.stand stand).recWait, r.1 = n
     (∀ vol, (s.sp n).run = .held vol → ¬ waits →
       ∃ t, exec (.dispositionResume stand k newpc setx xreg addr) s = .next t
         ∧ (t.sp n).run = .running
         ∧ (t.ctxOf n).pc = (if newpc then addr.setWidth 64 else c.pc)
         ∧ (t.ctxOf n).ctl = (if vol then { c.ctl with hmode := false } else c.ctl)
         ∧ (t.ctxOf n).pipe = (if vol = true ∧ c.ctl.hmode = true then c.pipe ++ c.hpipe else c.pipe)
         ∧ (t.stand stand).disp.toList.getD k 0 = resumeWord newpc setx xreg addr
         ∧ (∀ r, (t.ctxOf n).regs.rx r = if setx = true ∧ r = xreg ∧ r ≠ 0 then ((s.stand stand).sret.toList.getD k 0) else c.regs.rx r)
         ∧ (t.ctxOf n).regs.y = c.regs.y ∧ (t.ctxOf n).regs.p = c.regs.p ∧ (t.ctxOf n).trap = c.trap
         ∧ t.mem = s.mem ∧ ∀ m, m ≠ n → t.sp m = s.sp m)
     ∧ ((s.sp n).run.heldBy = none ∨ waits → ∀ i ∈ [Instr.dispositionResume stand k newpc setx xreg addr, .dispositionKill stand k],
         ∃ t, exec i s = .next t ∧ t.spindles = s.spindles ∧ t.parts = s.parts ∧ t.mem = s.mem)
     ∧ ((s.sp n).run.heldBy.isSome = true → ¬ waits →
         ∃ t, exec (.dispositionKill stand k) s = .next t ∧ t = (s.noteDisp stand k 2).killTask n)
     ∧ (∃ t, exec (.trapRingTailWrite stand val) s = .next t ∧ (t.stand stand).trqtail = val
         ∧ ((s.stand stand).recWait = [] → t = s.modStand stand fun st => { st with trqtail := val })
         ∧ (∀ r rs, (s.stand stand).recWait = r :: rs → (s.stand stand).trqhead - val ≠ 128 →
             (t.stand stand).recWait.length < (s.stand stand).recWait.length)))
  ∧ (∀ (s : State) (n : Nat) (w : Wait), (s.ctxOf n).wait = some w →
     let c := s.ctxOf n
     let late := (s.sp n).run = .running ∧ c.trap.frzlim ≠ 0 ∧ c.trap.frzlim.toNat < s.gcyc - w.since
     let issued := c.inTend = true ∨ (s.postWait n).isSome = true
     (¬ late → exec (.watchdog n) s = .next s)
     ∧ (late → ∃ t, exec (.watchdog n) s = .next t
         ∧ (t.sp n).run = .held false
         ∧ (t.ctxOf n).wait = none
         ∧ (c.ctl.hmode = false →
             (t.ctxOf n).trap.tcause = BitVec.ofNat 8 tWATCHDOG ∧ (t.ctxOf n).trap.tslot = 7
             ∧ (t.ctxOf n).trap.tval = BitVec.ofNat 64 w.kind
             ∧ (issued → (t.ctxOf n).trap.tepc = c.bun.start.setWidth 16)
             ∧ (¬ issued → (t.ctxOf n).trap.tepc = c.pc.setWidth 16))
         ∧ (t.ctxOf n).regs = c.regs ∧ (t.ctxOf n).ctl = c.ctl))

/-- R190 and R191: a load that its own slice serves. What the clock of the die merges is R260; the equations name all
that changes. -/
def Obligations.OwnLoads : Prop :=
  ∀ (reg : BitVec 6) (base : BitVec 5) (off : BitVec 10) (g : BitVec 3) (o : Nat) (s : State),
    let ea := fun (size : Nat) => s.c.regs.rx base + off.signExtend 64 * BitVec.ofNat 64 size
    let val := fun (size : Nat) => ofBytesLE (s.readSlice s.cur o size)
    let from_ := fun (size : Nat) => s.mergeClock (dieOf s.cur) (s.tagsOf (.slice s.cur o) size)
    let okay := fun (size : Nat) => s.ownAt (ea size) size o ∧ s.reachable o size true false
    let put := fun (size : Nat) (v : Word) => inFlight (from_ size) 6 (landReg6 reg v)
    (s.actsLs g [0, regBlock6 reg] →
      (okay 1 → exec (.ldb reg base off g) s = put 1 ((BitVec.ofNat 8 (val 1)).signExtend 64)
        ∧ exec (.ldbz reg base off g) s = put 1 ((BitVec.ofNat 8 (val 1)).setWidth 64))
      ∧ (okay 2 → exec (.ldh reg base off g) s = put 2 ((BitVec.ofNat 16 (val 2)).signExtend 64)
        ∧ exec (.ldhz reg base off g) s = put 2 ((BitVec.ofNat 16 (val 2)).setWidth 64))
      ∧ (okay 4 → exec (.ldw reg base off g) s = put 4 ((BitVec.ofNat 32 (val 4)).signExtend 64)
        ∧ exec (.ldwz reg base off g) s = put 4 ((BitVec.ofNat 32 (val 4)).setWidth 64))
      ∧ (okay 8 → exec (.ldd reg base off g) s = put 8 (BitVec.ofNat 64 (val 8))))
    ∧ (s.actsLs g [0, 2] → okay 512 → s.reachable (rowOff (s.c.row reg)) 512 false true →
      exec (.vld reg base off g) s = inFlight (from_ 512) 6 (.acc false (rowOff (s.c.row reg)) (s.readSlice s.cur o 512)))

/-- R190 and R191: a store that its own slice serves: the bytes stored, and that nothing else of memory and no register
changes. The address stored to is the one that the word's checks see. -/
def Obligations.OwnStores : Prop :=
  ∀ (reg : BitVec 6) (base : BitVec 5) (off : BitVec 10) (g : BitVec 3) (o : Nat) (s : State), s.sound →
    let ea := fun (size : Nat) => s.c.regs.rx base + off.signExtend 64 * BitVec.ofNat 64 size
    let okay := fun (size : Nat) => s.ownAt (ea size) size o ∧ s.reachable o size false true
    let stores := fun (i : Instr) (bs : List Byte) => ∃ t, exec i s = .next t
      ∧ t.readSlice s.cur o bs.length = bs ∧ s.sameMemBut t (s.ownKeys o bs.length) ∧ s.sameRegs t
      ∧ t.c.pipe = s.c.pipe ∧ t.c.pc = s.c.pc ∧ t.msgs = s.msgs
    (s.actsLs g [0, regBlock6 reg] →
      let low := fun (size : Nat) => bytesLE (s.c.rd6 reg).toNat size
      (okay 1 → stores (.stb reg base off g) (low 1)) ∧ (okay 2 → stores (.sth reg base off g) (low 2))
      ∧ (okay 4 → stores (.stw reg base off g) (low 4)) ∧ (okay 8 → stores (.std reg base off g) (low 8)))
    ∧ (s.actsLs g [0, 2] → okay 512 → s.reachable (rowOff (s.c.row reg)) 512 true false →
      stores (.vst reg base off g) (s.readSlice s.cur (rowOff (s.c.row reg)) 512))

/-- R191, R192 and R291: an access that leaves the spindle: what is sent, with what it carries. -/
def Obligations.RemoteLoadsAndStores : Prop :=
  ∀ (reg : BitVec 6) (base : BitVec 5) (off : BitVec 10) (g : BitVec 3) (s : State),
    let ea := fun (size : Nat) => s.c.regs.rx base + off.signExtend 64 * BitVec.ofNat 64 size
    let quiet := fun (t : State) => t.c.sameRegs s.c ∧ s.sameMem t ∧ t.c.notices = s.c.notices
    let carries := fun (m : Msg) (a : Word) (l : Loc) (op : MsgOp) (d : Dest) (waits : Bool) =>
      m.ctx = s.c.id ∧ m.spin = s.cur ∧ m.part = s.c.partN ∧ m.loc = l ∧ m.op = op ∧ m.dest = d ∧ m.waits = waits
        ∧ m.grp = s.nextId ∧ m.val = a ∧ m.slot = 3 ∧ m.st = .going
    -- a fixed-time access, and the place of its result among those in flight
    let fixed := fun (t : State) (n o : Nat) (op : MsgOp) (dest : Dest) (a : Word) =>
      ∃ d : DomOp, t.c.domOps = s.c.domOps ++ [d] ∧ d.home = n ∧ d.off = o ∧ d.op = op ∧ d.dest = dest ∧ d.val = a
        ∧ d.applyIn = 5 + hops s.cur n
        ∧ ∃ p : Pending, t.c.pipe = s.c.pipe ++ [p] ∧ p.left = 10 + 2 * hops s.cur n ∧ p.dom = some (d.id, dest != .none) ∧ p.lands = []
    let loads := fun (i : Instr) (size : Nat) (op : Nat) =>
      s.below true →
      (∀ l, s.farAt (ea size) size false (.home l) → ∃ t, exec i s = .next t ∧ quiet t
        ∧ ∃ m, t.msgs = s.msgs ++ [m] ∧ carries m (ea size) l (.load op size) (dest6 reg) true
          ∧ ∃ p : Pending, t.c.active = s.c.active ++ [p] ∧ p.left = 6 ∧ p.await = some m.id ∧ p.lands = []
            ∧ p.bound = (if s.c.ctl.strict then some 6 else none))
      ∧ (∀ n o, s.farAt (ea size) size false (.dom n o) → ∃ t, exec i s = .next t ∧ quiet t ∧ t.msgs = s.msgs
        ∧ fixed t n o (.load op size) (if dest6 reg = .none then .x 0 else dest6 reg) (ea size))
    let stores := fun (i : Instr) (size : Nat) =>
      let bs := bytesLE (s.c.rd6 reg).toNat size
      s.below false →
      (∀ l, s.farAt (ea size) size true (.home l) → ∃ t, exec i s = .next t ∧ quiet t ∧ t.c.active = s.c.active
        ∧ ∃ m, t.msgs = s.msgs ++ [m] ∧ carries m (ea size) l (.store bs) .none false)
      ∧ (∀ n o, s.farAt (ea size) size true (.dom n o) → ∃ t, exec i s = .next t ∧ quiet t ∧ t.msgs = s.msgs
        ∧ fixed t n o (.store bs) .none (ea size))
    (s.actsLs g [0, regBlock6 reg] →
      loads (.ldb reg base off g) 1 0 ∧ loads (.ldh reg base off g) 2 0 ∧ loads (.ldw reg base off g) 4 0
      ∧ loads (.ldd reg base off g) 8 1 ∧ loads (.ldbz reg base off g) 1 1 ∧ loads (.ldhz reg base off g) 2 1
      ∧ loads (.ldwz reg base off g) 4 1 ∧ stores (.stb reg base off g) 1 ∧ stores (.sth reg base off g) 2
      ∧ stores (.stw reg base off g) 4 ∧ stores (.std reg base off g) 8)
    ∧ (s.actsLs g [0, 2] →
      (s.below true → s.reachable (rowOff (s.c.row reg)) 512 false true →
        ∀ l ls, s.farAt (ea 512) 512 false (.home l) →
        -- a row that ends in a second page is one result that awaits two answers
        (s.toPageEnd (s.aim s.c (ea 512).toNat) = none ∧ ls = [(0, 512, l)]
          ∨ (∃ w, s.toPageEnd (s.aim s.c (ea 512).toNat) = some w ∧ 512 ≤ w) ∧ ls = [(0, 512, l)]
          ∨ (∃ w, s.toPageEnd (s.aim s.c (ea 512).toNat) = some w ∧ w < 512
              ∧ s.reachAll 3 (ea 512) false [(0, w), (w, 512 - w)] = .ok ls)) →
        ∃ t, exec (.vld reg base off g) s = .next t ∧ quiet t
          ∧ ∃ ms, t.msgs = s.msgs ++ ms ∧ ms.length = ls.length
            ∧ (∃ p : Pending, t.c.active = s.c.active ++ [p] ∧ p.left = 6 ∧ p.awaits = ms.map Msg.id ∧ p.lands = []
              ∧ p.bound = (if s.c.ctl.strict then some 6 else none))
            ∧ ∀ k (hk : k < ls.length), ∃ m, ms[k]? = some m ∧ m.loc = ls[k].2.2 ∧ m.grp = s.nextId ∧ m.waits = true
              ∧ m.op = .load 2 ls[k].2.1 ∧ m.dest = .row (rowOff (s.c.row reg) + ls[k].1))
      ∧ (s.below true → s.reachable (rowOff (s.c.row reg)) 512 false true → ∀ n o, s.farAt (ea 512) 512 false (.dom n o) →
        ∃ t, exec (.vld reg base off g) s = .next t ∧ quiet t ∧ t.msgs = s.msgs
          ∧ fixed t n o (.load 2 512) (.row (rowOff (s.c.row reg))) (ea 512))
      ∧ (s.below false → s.reachable (rowOff (s.c.row reg)) 512 true false → ∀ n o, s.farAt (ea 512) 512 true (.dom n o) →
        ∃ t, exec (.vst reg base off g) s = .next t ∧ quiet t ∧ t.msgs = s.msgs
          ∧ fixed t n o (.store (s.readSlice s.cur (rowOff (s.c.row reg)) 512)) .none (ea 512))
      ∧ (s.below false → s.reachable (rowOff (s.c.row reg)) 512 true false →
        ∀ l ls, s.farAt (ea 512) 512 true (.home l) →
        s.reachAll 3 (ea 512) true ((List.range 8).map fun i => (64 * i, 64)) = .ok ls →
        ∃ t, exec (.vst reg base off g) s = .next t ∧ quiet t
          ∧ ∃ ms, t.msgs = s.msgs ++ ms ∧ ms.length = ls.length
            ∧ ∀ k (hk : k < ls.length), ∃ m, ms[k]? = some m ∧ m.loc = ls[k].2.2 ∧ m.grp = s.nextId ∧ m.waits = false
              ∧ m.op = .store (((s.readSlice s.cur (rowOff (s.c.row reg)) 512).drop ls[k].1).take 64)))

/-- R184, R185, R189 and R249: which check of a load or store fails first, with the trap's values. R236 and R381: own reads of ciphertext and of poison. The TVAL of these traps is the model's reading (log 14, DEDUCED). R272: which check of an atomic fails first, with the trap's values. -/
def Obligations.ChecksOfAccesses : Prop :=
  (∀ (reg : BitVec 6) (base : BitVec 5) (off : BitVec 10) (g : BitVec 3) (s : State),
     let checked := fun (i : Instr) (size : Nat) =>
       let a := s.c.regs.rx base + off.signExtend 64 * BitVec.ofNat 64 size
       let aligned := a.toNat % (if size = 512 then (if s.targetsAcc a.toNat then 512 else 64) else size) = 0
       (¬ aligned → exec i s = traps s tALIGN 3 a)
       ∧ (aligned → s.aim s.c a.toNat = .bad → exec i s = traps s tXLATE 3 a)
       ∧ (∀ o, aligned → s.aim s.c a.toNat = .own o →
           (o < 0x1000000 → ¬ (s.c.ctl.seglo.toNat ≤ o ∧ o + size ≤ s.c.ctl.seghi.toNat) → exec i s = traps s tSEGBOUND 3 a)
           ∧ (0x1000000 ≤ o ∨ (s.c.ctl.seglo.toNat ≤ o ∧ o + size ≤ s.c.ctl.seghi.toNat) → s.c.groupHeld o size = true →
               exec i s = traps s tMBANK 3 a))
     (s.actsLs g [0, regBlock6 reg] →
       checked (.ldb reg base off g) 1 ∧ checked (.ldh reg base off g) 2 ∧ checked (.ldw reg base off g) 4
       ∧ checked (.ldd reg base off g) 8 ∧ checked (.ldbz reg base off g) 1 ∧ checked (.ldhz reg base off g) 2
       ∧ checked (.ldwz reg base off g) 4 ∧ checked (.stb reg base off g) 1 ∧ checked (.sth reg base off g) 2
       ∧ checked (.stw reg base off g) 4 ∧ checked (.std reg base off g) 8)
     ∧ (s.actsLs g [0, 2] → checked (.vld reg base off g) 512 ∧ checked (.vst reg base off g) 512))
  ∧ (∀ (reg : BitVec 6) (base : BitVec 5) (off : BitVec 10) (g : BitVec 3) (o : Nat) (s : State),
     let stops := fun (i : Instr) (size : Nat) =>
       let a := s.c.regs.rx base + off.signExtend 64 * BitVec.ofNat 64 size
       s.ownAt a size o → s.reachable o size false false →
       (∀ f, s.formAt s.cur o size = some f → exec i s = traps s tFORM 3 (lineAddr a o f))
       ∧ (∀ f, s.formAt s.cur o size = none → s.poisonAt s.cur o size = some f → exec i s = traps s tMEMERR 3 (lineAddr a o f))
     (s.actsLs g [0, regBlock6 reg] →
       stops (.ldb reg base off g) 1 ∧ stops (.ldh reg base off g) 2 ∧ stops (.ldw reg base off g) 4
       ∧ stops (.ldd reg base off g) 8 ∧ stops (.ldbz reg base off g) 1 ∧ stops (.ldhz reg base off g) 2
       ∧ stops (.ldwz reg base off g) 4)
     ∧ (s.actsLs g [0, 2] → s.reachable (rowOff (s.c.row reg)) 512 false true → stops (.vld reg base off g) 512))
  ∧ (∀ (d : BitVec 6) (base : BitVec 5) (sr : BitVec 6) (fmt : BitVec 2) (ord : Bool) (g : BitVec 3) (dp sp : BitVec 5) (s : State),
     let a := s.c.regs.rx base
     let checked := fun (i : Instr) (size : Nat) =>
       (a.toNat % size ≠ 0 → exec i s = traps s tALIGN 3 a)
       ∧ (a.toNat % size = 0 → s.aim s.c a.toNat = .bad → exec i s = traps s tXLATE 3 a)
       ∧ (a.toNat % size = 0 → s.aim s.c a.toNat ≠ .bad → s.targetsAcc a.toNat = false → exec i s = traps s tATOMPLAIN 3 a)
     (s.actsLs g [0, regBlock6 d, regBlock6 sr, 2] → ∀ p ∈ ([(.aintAddW d base sr ord g, 4, .int 0), (.aintAddD d base sr ord g, 8, .int 1), (.aintAnd d base sr ord g, 8, .int 2),
         (.aintOr d base sr ord g, 8, .int 3), (.aintXor d base sr ord g, 8, .int 4), (.aintMin d base sr ord g, 8, .int 5),
         (.aintMax d base sr ord g, 8, .int 6), (.aintMinz d base sr ord g, 8, .int 7), (.aintMaxz d base sr ord g, 8, .int 8),
         (.aintSwapW d base sr ord g, 4, .int 9), (.aintSwapD d base sr ord g, 8, .int 10), (.acasW d base sr ord g, 4, .cas 4),
         (.acasD d base sr ord g, 8, .cas 8),
         (.afpFadd d base sr fmt ord g, if fmt = 3 then 8 else 4, .fp 0 fmt.toNat),
         (.afpFmin d base sr fmt ord g, if fmt = 3 then 8 else 4, .fp 1 fmt.toNat),
         (.afpFmax d base sr fmt ord g, if fmt = 3 then 8 else 4, .fp 2 fmt.toNat)] : List (Instr × Nat × AtomOp)), checked p.1 p.2.1)
     ∧ (s.actsLs g [0, regBlock6 (BitVec.ofNat 6 (2 * dp.toNat)), regBlock6 (BitVec.ofNat 6 (2 * sp.toNat))] →
         checked (.acasQ dp base sp ord g) 16)
     ∧ (s.actsLs g [0, 2] → ∀ i ∈ [Instr.vaccOvw d base ord g, .vaccAddF32 d base ord g, .vaccAddF64 d base ord g,
         .vaccAddBf16 d base ord g, .vaccAddF16 d base ord g, .vaccAddI32 d base ord g], checked i 512))

/-- R37, R40, R42, R45, R46 and R338: the words that start a scheduler transaction. Queueing and the wait are all that
changes. -/
def Obligations.TransactionWords : Prop :=
  ∀ (rd ra : BitVec 5) (g : BitVec 4) (s : State), s.acts g [0] →
    let v := s.c.regs.rx ra
    let queued := fun (k : TxKind) => s.modSched s.c.partN fun d => { d with txq := d.txq ++ [{ ctx := s.c.id, kind := k, clock := s.clockOf (dieOf s.cur) }] }
    let waits : TxKind → Out := fun k => .next ((queued k).modC fun c => { c with tx := .waiting rd })
    (s.c.ctl.strict = false →
      (s.ordered 4 → exec (.tlaunch rd ra g) s = waits (.launch v))
      ∧ exec (.tjoinW rd ra g) s = waits (.join v)
      ∧ exec (.admitC rd ra g) s = waits (.admitC v)
      ∧ exec (.admitX rd ra g) s = waits (.withdraw v)
      ∧ exec (.cut rd ra g) s = waits (.cut v))
    ∧ (s.c.ctl.strict = true → ∀ i ∈ [Instr.tlaunch rd ra g, .tjoinW rd ra g, .admitC rd ra g, .admitX rd ra g, .cut rd ra g],
        exec i s = traps s tILLEGAL 0 (wordOf i))
    ∧ ∃ t, exec (.tjoin rd ra g) s = .next t ∧ t.c.sameRegs s.c ∧ s.sameMem t
        ∧ (t.part s.c.partN).sched.txq = (s.part s.c.partN).sched.txq
            ++ [{ ctx := s.c.id, kind := .poll v s.nextId, clock := s.clockOf (dieOf s.cur) }]
        ∧ ∃ m, t.msgs = s.msgs ++ [m] ∧ m.id = s.nextId ∧ m.op = .join v.toNat ∧ m.dest = (if rd = 0 then .none else .x rd)
          ∧ ∃ p : Pending, t.c.active = s.c.active ++ [p] ∧ p.left = 6 ∧ p.await = some s.nextId ∧ p.lands = []

/-- R300 to R303: the gate words at issue. -/
def Obligations.GateWords : Prop :=
  ∀ (rd ra : BitVec 5) (b : BitVec 8) (g : BitVec 4) (s : State), s.acts g [0] →
    let e := (s.binding s.c.partN b.toNat).toNat
    let valid := bitsOf e 18 1 = 1
    let lim := bitsOf e 32 32
    let away := s.c.ctl.strict = true ∧ bitsOf e 12 6 ≠ s.pf.modid.toNat
    let unlimited := s.c.ctl.strict = true ∧ (lim = 0 ∨ 65535 < lim)
    let goes := fun (i : Instr) (op : Nat) => ∃ t, exec i s = .next t ∧ t.c.sameRegs s.c ∧ s.sameMem t
      ∧ (∃ m, t.msgs = s.msgs ++ [m] ∧ m.id = s.nextId ∧ m.ctx = s.c.id ∧ m.op = .gate op (s.c.regs.rx ra) b.toNat lim false
          ∧ m.dest = (if rd = 0 then .none else .x rd) ∧ m.val = b.setWidth 64 ∧ m.st = .going)
      ∧ (rd = 0 → op ≠ 1 → t.c.active = s.c.active)
      ∧ (rd ≠ 0 ∨ op = 1 → ∃ p : Pending, t.c.active = s.c.active ++ [p] ∧ p.left = 6 ∧ p.await = some s.nextId
          ∧ p.bound = (if s.c.ctl.strict then some (if op = 1 then 400 + lim else 400) else none))
    (¬ valid → ∀ i ∈ [Instr.gsig rd ra b g, .gwait rd ra b g, .gpoll rd ra b g], exec i s = traps s tGATE 0 (b.setWidth 64))
    ∧ (valid → away → ∀ i ∈ [Instr.gsig rd ra b g, .gwait rd ra b g, .gpoll rd ra b g],
        exec i s = traps s tILLEGAL 0 (wordOf i))
    ∧ (valid → ¬ away →
      (s.ordered 4 → goes (.gsig rd ra b g) 0)
      ∧ (unlimited → exec (.gwait rd ra b g) s = traps s tILLEGAL 0 (wordOf (.gwait rd ra b g)))
      ∧ (¬ unlimited → goes (.gwait rd ra b g) 1)
      ∧ goes (.gpoll rd ra b g) 2)

/-- R133, R263 and R284 to R288: fences and the words of barriers and supersteps at issue. R287 and R293: barriers inside a timed
domain. That a BARRW whose phase has passed still waits while a write that the phase releases is not applied on the die is the
model's reading of R265 (log 49, DEDUCED): R286 says that it does not wait. -/
def Obligations.BarrierWordsOfGangs : Prop :=
  (∀ (rd ra : BitVec 5) (bar : BitVec 6) (scope : BitVec 3) (g : BitVec 4) (s : State),
     let v := s.c.regs.rx ra
     let w : BitVec 32 := v.setWidth 32
     let gid := if s.c.domain then s.c.gang else 0
     let arrives := fun (i : Instr) (op : MsgOp) => ∃ t, exec i s = .next t ∧ t.c.sameRegs s.c ∧ s.sameMem t
       ∧ (∃ m, t.msgs = s.msgs ++ [m] ∧ m.id = s.nextId ∧ m.ctx = s.c.id ∧ m.part = s.c.partN ∧ m.op = op
           ∧ m.dest = (if rd = 0 then .none else .x rd) ∧ m.waits = (rd != 0) ∧ m.st = .going)
       ∧ (rd = 0 → t.c.active = s.c.active)
       ∧ (rd ≠ 0 → ∃ p : Pending, t.c.active = s.c.active ++ [p] ∧ p.left = (if s.c.domain then 12 else 6)
           ∧ p.await = some s.nextId ∧ p.late = s.c.domain ∧ p.bound = none)
     (s.acts g [0] → s.c.sync = true →
       (s.ordered 4 → arrives (.barra rd ra bar g) (.barrier bar.toNat v s.c.gangSize gid s.c.domCycle))
       ∧ arrives (.barraQ rd bar g) (.query bar.toNat gid))
     ∧ (s.acts g [0] → s.c.sync = true →
       let o := s.barrier s.c.partN bar.toNat
       ((o.phase - w).toNat < 2 ^ 31 → s.mayAcquire s.cur o.clock = true →
           exec (.barrw ra bar g) s = .next (s.mergeClock (dieOf s.cur) o.clock))
       ∧ (2 ^ 31 ≤ (o.phase - w).toNat ∨ s.mayAcquire s.cur o.clock = false →
           (s.c.domain = false ∨ s.c.ctl.hmode = true →
             exec (.barrw ra bar g) s = .next (s.modC fun c => { c with barw := .frozen bar.toNat w }))
           ∧ (s.c.domain = true → s.c.ctl.hmode = false →
             exec (.barrw ra bar g) s = .next (s.modC fun c => { c with barw := .idling bar.toNat w }))))
     ∧ (s.acts g [0] → s.c.sync = true →
       exec (.sstep rd g) s = .next (s.modC fun c =>
         { c with step := .waiting c.domCycle rd, stepH := c.ctl.hmode, stepClock := s.clockOf (dieOf s.cur) }))
     ∧ (s.acts g [0] → s.c.sync = false → ∀ i ∈ [Instr.barra rd ra bar g, .barraQ rd bar g, .barrw ra bar g, .sstep rd g],
         exec i s = traps s tILLEGAL 0 (wordOf i))
     ∧ (s.acts g [] → s.ordered (min scope.toNat 4) →
       (scope ≠ 5 → exec (.fence scope g) s = .next s)
       ∧ (scope = 5 → exec (.fence scope g) s = .next (s.pend 1 [.flags fSCLAMP]))))

/-- R274 to R276 and R278: AINT, AFP and ACAS on the own slice. R276 to R278: the 16-byte compare and swap, and the row updates, on the own slice. -/
def Obligations.OwnAtomicsAll : Prop :=
  (∀ (d : BitVec 6) (base : BitVec 5) (sr : BitVec 6) (ord : Bool) (g : BitVec 3) (o : Nat) (s : State), s.sound →
     s.actsLs g [0, regBlock6 d, regBlock6 sr, 2] → (ord = true → s.ordered 4) →
     let a := s.c.regs.rx base
     let v := s.c.rd6 sr
     let dv := s.c.rd6 d
     let on := fun (size : Nat) => a.toNat % size = 0 ∧ s.aim s.c a.toNat = .own o ∧ 0x1000000 ≤ o ∧ s.reachable o size true true
     let m := fun (size : Nat) => s.readSlice s.cur o size
     let word := fun (size : Nat) => BitVec.ofNat 64 (ofBytesLE (m size))
     let does := fun (i : Instr) (size : Nat) (new : List Byte) (old : Word) (fl : BitVec 9) =>
       on size → ∃ t, exec i s = .next t ∧ t.readSlice s.cur o size = new ∧ s.sameMemBut t (s.ownKeys o size)
         ∧ s.sameRegs t ∧ t.c.pc = s.c.pc ∧ t.msgs = s.msgs
         ∧ t.c.active = s.c.active ++ (if d.toNat % 32 = 0 then [] else [{ left := 6, lands := [landReg6 d old] }])
             ++ (if fl = 0 then [] else [{ left := 1, lands := [.flags fl] }])
     let old32 := loadValue true (m 4)
     let elems := fun (op size : Nat) (fmt : BitVec 2) =>
       mapElems (afpFmt fmt.toNat).2 (fun x y => fpUpdate (afpFmt fmt.toNat).1 op x y (s.c.ctl.vctl.toNat % 4) false false)
         (m size) (bytesLE v.toNat size)
     (∀ p ∈ ([(.aintAddD d base sr ord g, fun m => m + v), (.aintAnd d base sr ord g, fun m => m &&& v),
         (.aintOr d base sr ord g, fun m => m ||| v), (.aintXor d base sr ord g, fun m => m ^^^ v),
         (.aintMin d base sr ord g, fun m => if m.toInt < v.toInt then m else v),
         (.aintMax d base sr ord g, fun m => if m.toInt < v.toInt then v else m),
         (.aintMinz d base sr ord g, fun m => if m.toNat < v.toNat then m else v),
         (.aintMaxz d base sr ord g, fun m => if m.toNat < v.toNat then v else m), (.aintSwapD d base sr ord g, fun _ => v)] : List (Instr × (Word → Word))), does p.1 8 (bytesLE (p.2 (word 8)).toNat 8) (word 8) 0)
     ∧ does (.aintAddW d base sr ord g) 4 (bytesLE (word 4 + v).toNat 4) old32 0
     ∧ does (.aintSwapW d base sr ord g) 4 (bytesLE v.toNat 4) old32 0
     ∧ (∀ fmt : BitVec 2, ∀ p ∈ [(Instr.afpFadd d base sr fmt ord g, 0), (.afpFmin d base sr fmt ord g, 1),
         (.afpFmax d base sr fmt ord g, 2)],
         let size := if fmt = 3 then 8 else 4
         does p.1 size (elems p.2 size fmt).1 (word size) (elems p.2 size fmt).2)
     ∧ does (.acasW d base sr ord g) 4 (if bytesLE dv.toNat 4 = m 4 then bytesLE v.toNat 4 else m 4) old32 0
     ∧ does (.acasD d base sr ord g) 8 (if bytesLE dv.toNat 8 = m 8 then bytesLE v.toNat 8 else m 8) (word 8) 0)
  ∧ (∀ (dp sp : BitVec 5) (v : BitVec 6) (base : BitVec 5) (ord : Bool) (g : BitVec 3) (o : Nat) (s : State), s.sound →
     (ord = true → s.ordered 4) →
     let a := s.c.regs.rx base
     let d : BitVec 6 := BitVec.ofNat 6 (2 * dp.toNat)
     let sr : BitVec 6 := BitVec.ofNat 6 (2 * sp.toNat)
     let on := fun (size : Nat) (rd : Bool) =>
       a.toNat % size = 0 ∧ s.aim s.c a.toNat = .own o ∧ 0x1000000 ≤ o ∧ s.reachable o size rd true
     let m := fun (size : Nat) => s.readSlice s.cur o size
     let leaves := fun (i : Instr) (size : Nat) (new : List Byte) (ps : List Pending) =>
       ∃ t, exec i s = .next t ∧ t.readSlice s.cur o size = new ∧ s.sameMemBut t (s.ownKeys o size)
         ∧ s.sameRegs t ∧ t.msgs = s.msgs ∧ t.c.active = s.c.active ++ ps
     let lo : Word := BitVec.ofNat 64 (ofBytesLE ((m 16).take 8))
     let hi : Word := BitVec.ofNat 64 (ofBytesLE ((m 16).drop 8))
     let r := s.c.row v
     let row := s.readSlice s.cur (rowOff r) 512
     let flags := fun (fl : BitVec 9) => if fl = 0 then [] else [({ left := 1, lands := [.flags fl] } : Pending)]
     let rm := s.c.ctl.vctl.toNat % 4
     let lanes := fun (f : FF) (w : Nat) =>
       mapElems w (fun x y => fpUpdate f 0 x y rm (s.c.ctl.vctl.getLsbD 3) (s.c.ctl.vctl.getLsbD 4)) (m 512) row
     (s.actsLs g [0, regBlock6 d, regBlock6 sr] → on 16 true →
       leaves (.acasQ dp base sp ord g) 16
         (if lo = s.c.rd6 d ∧ hi = s.c.rd6 (d + 1) then bytesLE (s.c.rd6 sr).toNat 8 ++ bytesLE (s.c.rd6 (sr + 1)).toNat 8
           else m 16)
         [{ left := 6, lands := [landReg6 d lo, landReg6 (d + 1) hi] }])
     ∧ (s.actsLs g [0, 2] → s.reachable (rowOff r) 512 true false →
       (on 512 false → leaves (.vaccOvw v base ord g) 512 row [])
       ∧ (on 512 true →
         (∀ p ∈ [(Instr.vaccAddF32 v base ord g, ff32, 4), (.vaccAddF64 v base ord g, ff64, 8), (.vaccAddBf16 v base ord g, ffB16, 2),
             (.vaccAddF16 v base ord g, ff16, 2)],
           leaves p.1 512 (lanes p.2.1 p.2.2).1 (flags (lanes p.2.1 p.2.2).2))
         ∧ leaves (.vaccAddI32 v base ord g) 512 (mapElems 4 (fun x y => ⟨(x + y) % 2 ^ 32, 0⟩) (m 512) row).1 [])))

/-- R278 and R279: an atomic that leaves the spindle. -/
def Obligations.RemoteAtomics : Prop :=
  ∀ (d : BitVec 6) (base : BitVec 5) (sr : BitVec 6) (fmt : BitVec 2) (ord : Bool) (g : BitVec 3) (dp sp : BitVec 5)
    (l : Loc) (s : State), (ord = true → s.ordered 4) →
    let a := s.c.regs.rx base
    let away := fun (size : Nat) => a.toNat % size = 0 ∧ s.targetsAcc a.toNat = true ∧ (∀ o, s.aim s.c a.toNat ≠ .own o)
      ∧ s.reach 3 a (s.aim s.c a.toNat) true = .home l
    let goes := fun (i : Instr) (at_ : Atomic) (dest : Dest) (waits : Bool) => s.below waits →
      ∃ t, exec i s = .next t ∧ t.c.sameRegs s.c ∧ s.sameMem t
        ∧ (∃ m, t.msgs = s.msgs ++ [m] ∧ m.id = s.nextId ∧ m.ctx = s.c.id ∧ m.spin = s.cur ∧ m.loc = l ∧ m.op = .atomic at_
            ∧ m.dest = dest ∧ m.waits = waits ∧ m.val = a ∧ m.slot = 3 ∧ m.st = .going)
        ∧ (waits = false → t.c.active = s.c.active)
        ∧ (waits = true → ∃ p : Pending, t.c.active = s.c.active ++ [p] ∧ p.left = 6 ∧ p.await = some s.nextId ∧ p.lands = []
            ∧ p.bound = (if s.c.ctl.strict then some 6 else none))
    let d2 : BitVec 6 := BitVec.ofNat 6 (2 * dp.toNat)
    let s2 : BitVec 6 := BitVec.ofNat 6 (2 * sp.toNat)
    (s.actsLs g [0, regBlock6 d, regBlock6 sr, 2] →
      ∀ p ∈ ([(.aintAddW d base sr ord g, 4, .int 0), (.aintAddD d base sr ord g, 8, .int 1), (.aintAnd d base sr ord g, 8, .int 2),
        (.aintOr d base sr ord g, 8, .int 3), (.aintXor d base sr ord g, 8, .int 4), (.aintMin d base sr ord g, 8, .int 5),
        (.aintMax d base sr ord g, 8, .int 6), (.aintMinz d base sr ord g, 8, .int 7), (.aintMaxz d base sr ord g, 8, .int 8),
        (.aintSwapW d base sr ord g, 4, .int 9), (.aintSwapD d base sr ord g, 8, .int 10), (.acasW d base sr ord g, 4, .cas 4),
        (.acasD d base sr ord g, 8, .cas 8),
        (.afpFadd d base sr fmt ord g, if fmt = 3 then 8 else 4, .fp 0 fmt.toNat),
        (.afpFmin d base sr fmt ord g, if fmt = 3 then 8 else 4, .fp 1 fmt.toNat),
        (.afpFmax d base sr fmt ord g, if fmt = 3 then 8 else 4, .fp 2 fmt.toNat)] : List (Instr × Nat × AtomOp)),
        away p.2.1 → goes p.1 { op := p.2.2, sv := s.c.rd6 sr, dv := s.c.rd6 d, vctl := s.c.ctl.vctl } (dest6 d)
          (decide (d.toNat % 32 ≠ 0) || ord))
    ∧ (s.actsLs g [0, regBlock6 d2, regBlock6 s2] → away 16 →
        goes (.acasQ dp base sp ord g)
          { op := .cas 16, sv := s.c.rd6 s2, sv2 := s.c.rd6 (s2 + 1), dv := s.c.rd6 d2, dv2 := s.c.rd6 (d2 + 1) }
          (.pair (decide (16 ≤ dp.toNat)) (BitVec.ofNat 5 d2.toNat)) true)
    ∧ (s.actsLs g [0, 2] → away 512 → s.reachable (rowOff (s.c.row d)) 512 true false →
        ∀ p ∈ [(Instr.vaccOvw d base ord g, 0), (.vaccAddF32 d base ord g, 1), (.vaccAddF64 d base ord g, 2),
            (.vaccAddBf16 d base ord g, 3), (.vaccAddF16 d base ord g, 4), (.vaccAddI32 d base ord g, 5)],
          goes p.1 { op := .vacc p.2, row := s.readSlice s.cur (rowOff (s.c.row d)) 512, vctl := s.c.ctl.vctl } .none ord)

/-- R197 to R201: when a bobbin word raises BOBBIN or SEGBOUND, with the trap's values. -/
def Obligations.BobbinChecks : Prop :=
  ∀ (v : BitVec 6) (bob : BitVec 4) (n : BitVec 8) (g : BitVec 3) (s : State),
    let r0 := (s.c.eng.bobReg (4 * bob.toNat)).toNat
    let r1 := (s.c.eng.bobReg (4 * bob.toNat + 1)).toNat
    let r2 := (s.c.eng.bobReg (4 * bob.toNat + 2)).toNat
    let base := bitsOf r0 0 24
    let size := bitsOf r1 0 12 * 64
    let count := bitsOf r1 16 12
    let prod := bitsOf r2 0 32
    let cons := bitsOf r2 32 32
    let filled := (prod + 2 ^ 32 - cons) % 2 ^ 32
    let fin := base + count * size
    let bad := size = 0 ∨ count = 0 ∨ count < filled ∨ 0x1000000 < fin
    let lo := s.c.ctl.seglo.toNat
    let hi := s.c.ctl.seghi.toNat
    let checked := fun (i : Instr) (short : Prop) =>
      (bad → exec i s = traps s tBOBBIN 3 (wordOf i))
      ∧ (¬ bad → base < lo → exec i s = traps s tSEGBOUND 3 (BitVec.ofNat 64 base))
      ∧ (¬ bad → lo ≤ base → hi < fin → exec i s = traps s tSEGBOUND 3 (BitVec.ofNat 64 (max hi base)))
      ∧ (¬ bad → lo ≤ base → fin ≤ hi → short → exec i s = traps s tBOBBIN 3 (wordOf i))
    (s.actsLs g [3, 2] →
      checked (.bpop v bob n g) (filled ≤ n.toNat) ∧ checked (.bpush v bob n g) (count - filled ≤ n.toNat))
    ∧ (s.actsLs g [3] →
      checked (.badvC bob n g) (filled < n.toNat) ∧ checked (.badvP bob n g) (count - filled < n.toNat)
      ∧ checked (.bwaitC bob n g) (filled < n.toNat) ∧ checked (.bwaitP bob n g) (count - filled < n.toNat))

/-- R198 to R201: the bobbin words once their checks pass, and what they leave. -/
def Obligations.BobbinWords : Prop :=
  ∀ (v : BitVec 6) (bob : BitVec 4) (n : BitVec 8) (g : BitVec 3) (s : State), s.sound →
    let r0 := (s.c.eng.bobReg (4 * bob.toNat)).toNat
    let r1 := (s.c.eng.bobReg (4 * bob.toNat + 1)).toNat
    let r2 := (s.c.eng.bobReg (4 * bob.toNat + 2)).toNat
    let base := bitsOf r0 0 24
    let size := bitsOf r1 0 12 * 64
    let count := bitsOf r1 16 12
    let prod := bitsOf r2 0 32
    let cons := bitsOf r2 32 32
    let filled := (prod + 2 ^ 32 - cons) % 2 ^ 32
    let fin := base + count * size
    let bad := size = 0 ∨ count = 0 ∨ count < filled ∨ 0x1000000 < fin
    let lo := s.c.ctl.seglo.toNat
    let hi := s.c.ctl.seghi.toNat
    let free := count - filled
    let slot := fun (p : Nat) => base + (p + n.toNat) % count * size
    let row := rowOff (s.c.row v)
    let sees := fun (o len : Nat) (w : Bool) => s.c.groupHeld o len = false ∧ s.reachable o len (!w) w
    let moves := fun (i : Instr) (p c : Nat) =>
      exec i s = inFlight s 1 (.creg (BitVec.ofNat 16 (0x042 + 4 * bob.toNat)) (BitVec.ofNat 64 (p + c * 2 ^ 32)))
    ¬ bad → lo ≤ base → fin ≤ hi →
    (s.actsLs g [3] →
      (n.toNat ≤ filled → moves (.badvC bob n g) prod ((cons + n.toNat) % 2 ^ 32) ∧ exec (.bwaitC bob n g) s = .next s)
      ∧ (n.toNat ≤ free → moves (.badvP bob n g) ((prod + n.toNat) % 2 ^ 32) cons ∧ exec (.bwaitP bob n g) s = .next s))
    ∧ (s.actsLs g [3, 2] → n.toNat < free → s.reachable row 512 true false → sees (slot prod) (min 512 size) true →
      ∃ t, exec (.bpush v bob n g) s = .next t
        ∧ t.readSlice s.cur (slot prod) (min 512 size) = (s.readSlice s.cur row 512).take (min 512 size)
        ∧ s.sameMemBut t (s.ownKeys (slot prod) (min 512 size)) ∧ s.sameRegs t ∧ t.c.active = s.c.active)
    ∧ (s.actsLs g [3, 2] → n.toNat < filled → s.reachable row 512 false true →
      let bf := s.c.eng.bobReg (4 * bob.toNat + 3)
      let f := bobFmtOf bf s.c.fmtEntry
      ∀ src snk, bobFmtFault bf s.c.fmtEntry false = none → Fmt.ofCode f.src = some src → Fmt.ofCode f.snk = some snk →
      let l := 4096 / snk.ebits
      let need := src.bytesFor l
      let r := convertSlot f src snk (s.readSlice s.cur (slot cons) need) l
      (snk.isBlock = true ∨ size < need → exec (.bpop v bob n g) s = traps s tBOBBIN 3 (wordOf (.bpop v bob n g)))
      ∧ (snk.isBlock = false → need ≤ size → sees (slot cons) need false →
        (s.noFpx r.2 → ∃ t, exec (.bpop v bob n g) s = .next t ∧ s.sameRegs t ∧ s.sameMem t
          ∧ t.c.active = s.c.active ++ [{ left := 6, lands := [.acc false row r.1] }]
            ++ (if r.2 = 0 then [] else [{ left := 1, lands := [.flags r.2] }]))
        ∧ (¬ s.noFpx r.2 → exec (.bpop v bob n g) s = .next (s.takeFpx 3 (wordOf (.bpop v bob n g)) r.2))))

/-- R166 to R168, R176 and R178: the elementwise float words. F is the format of ty, w its width in bytes. -/
def Obligations.VectorFloats : Prop :=
  ∀ (vd va vb : BitVec 6) (ty : BitVec 2) (e8 zi zo sb : Bool) (q : BitVec 3) (s : State),
    let f := tyFF ty
    let w := tyW ty
    let f8 := if e8 then ffE5 else ffE4
    let rm := s.c.ctl.vctl.toNat % 4
    let sat := s.c.ctl.vctl.getLsbD 2
    let row := fun (v : BitVec 6) => s.readSlice s.cur (rowOff (s.c.row v)) 512
    let y := (s.c.regs.ry (vb.setWidth 5)).toNat
    let bs := if sb then List.replicate (512 / w) (y % 2 ^ (8 * w)) else lanesOf w (row vb)
    let b8 := if sb then (List.replicate 128 (bytesLE y 4)).flatten else row vb
    let rd := fun x => f.decode (f.flush zi x)
    let rd8 := fun x => f8.decode (f8.flush zi x)
    let runs := fun (i : Instr) (lat : Nat) (r : List Byte × BitVec 9) =>
      (s.c.fusedHere = true ∨ s.noFpx r.2 → exec i s = rowInFlight s vd lat r)
      ∧ (s.c.fusedHere = false → ¬ s.noFpx r.2 → exec i s = .next (s.takeFpx 2 (wordOf i) r.2))
    let lanes := fun (op : Nat → Nat → Res) => rowOfRes w (List.zipWith op (lanesOf w (row va)) bs)
    let lanes3 := fun (op : Nat → Nat → Nat → Res) =>
      rowOfRes w (List.zipWith (fun (ab : Nat × Nat) d => op ab.1 ab.2 d) ((lanesOf w (row va)).zip bs) (lanesOf w (row vd)))
    let lanes8 := fun (op : Nat → Nat → Res) => rowOfRes 1 (List.zipWith op (lanesOf 1 (row va)) (lanesOf 1 b8))
    let srcs := va :: if sb then [] else [vb]
    let blocks := 2 :: if sb then [1] else []
    (s.actsVx q blocks → s.rowsReachable srcs vd →
      runs (.vadd vd va vb ty zi zo sb q) 4 (lanes fun a b => f.addV (rd a) (rd b) rm false zo)
      ∧ runs (.vsub vd va vb ty zi zo sb q) 4 (lanes fun a b => f.addV (rd a) (rd b).neg rm false zo)
      ∧ runs (.vmul vd va vb ty zi zo sb q) 4 (lanes fun a b => f.mulV (rd a) (rd b) rm false zo)
      ∧ runs (.vmin vd va vb ty zi sb q) 4 (lanes fun a b => f.minmax false (f.flush zi a) (f.flush zi b))
      ∧ runs (.vmax vd va vb ty zi sb q) 4 (lanes fun a b => f.minmax true (f.flush zi a) (f.flush zi b))
      ∧ runs (.vdiv vd va vb ty zi zo sb q) 8 (lanes fun a b => f.divV (rd a) (rd b) rm zo)
      ∧ runs (.vadd8 vd va vb e8 zi zo sb q) 4 (lanes8 fun a b => f8.addV (rd8 a) (rd8 b) rm sat zo)
      ∧ runs (.vmul8 vd va vb e8 zi zo sb q) 4 (lanes8 fun a b => f8.mulV (rd8 a) (rd8 b) rm sat zo))
    ∧ (s.actsVx q blocks → s.rowsReachable (va :: vd :: if sb then [] else [vb]) vd →
      runs (.vfma vd va vb ty zi zo sb q) 4 (lanes3 fun a b d => f.fmaV (rd a) (rd b) (rd d) rm zo)
      ∧ runs (.vfmac vd va vb ty zi zo sb q) 4 (lanes3 fun a b d => f.fmaV (rd d) (rd a) (rd b) rm zo))
    ∧ (s.actsVx q [2] → s.rowsReachable [va] vd →
      exec (.vabs vd va ty q) s = rowInFlight s vd 4
        (rowOfRes w ((lanesOf w (row va)).map fun a => ⟨a % 2 ^ (f.width - 1), 0⟩))
      ∧ exec (.vneg vd va ty q) s = rowInFlight s vd 4
        (rowOfRes w ((lanesOf w (row va)).map fun a => ⟨(a + 2 ^ (f.width - 1)) % 2 ^ f.width, 0⟩)))

/-- R166, R169, R170 and R178: the unary functions and the reductions. R182, its first two points: the head of a recognised sequence. -/
def Obligations.VectorFunctionsAndSoftmax : Prop :=
  (∀ (vd va : BitVec 6) (ty : BitVec 2) (zi zo : Bool) (q : BitVec 3) (s : State),
     let f := tyFF ty
     let w := tyW ty
     let rm := s.c.ctl.vctl.toNat % 4
     let xs := (lanesOf w (s.readSlice s.cur (rowOff (s.c.row va)) 512)).map (f.flush zi)
     let runs := fun (i : Instr) (lat : Nat) (r : List Byte × BitVec 9) =>
       (s.c.fusedHere = true ∨ s.noFpx r.2 → exec i s = rowInFlight s vd lat r)
       ∧ (s.c.fusedHere = false → ¬ s.noFpx r.2 → exec i s = .next (s.takeFpx 2 (wordOf i) r.2))
     let lanes := fun (op : FVal → Res) => rowOfRes w (xs.map fun x => op (f.decode x))
     let all := fun (r : Res) => (((List.replicate (512 / w) (bytesLE r.bits w)).flatten, r.fl) : List Byte × BitVec 9)
     s.actsVx q [2] → s.rowsReachable [va] vd →
       runs (.vexp vd va ty zi zo q) 8 (lanes fun x => f.expV x rm zo)
       ∧ runs (.vexp2 vd va ty zi zo q) 8 (lanes fun x => f.exp2V x rm zo)
       ∧ runs (.vlog2 vd va ty zi zo q) 8 (lanes fun x => f.log2V x rm zo)
       ∧ runs (.vrcp vd va ty zi zo q) 8 (lanes fun x => f.rcpV x rm zo)
       ∧ runs (.vrsqrt vd va ty zi zo q) 8 (lanes fun x => f.rsqrtV x rm zo)
       ∧ runs (.vsqrt vd va ty zi zo q) 8 (lanes fun x => f.sqrtV x rm zo)
       ∧ runs (.vrmin vd va ty zi q) 6 (all (f.reduceMinmax false xs))
       ∧ runs (.vrsum vd va ty zi zo q) 6 (all (f.roundTotal (totalOf (xs.map f.decode)) rm zo))
       ∧ (s.recognise vd va ty zi q = none → runs (.vrmax vd va ty zi q) 6 (all (f.reduceMinmax true xs))))
  ∧ (∀ (vd va : BitVec 6) (ty : BitVec 2) (zi : Bool) (q : BitVec 3) (u : Fused) (s : State),
     let f := tyFF ty
     let x := lanesOf (tyW ty) (s.readSlice s.cur (rowOff (s.c.row va)) 512)
     let fls := fusedFlags f (s.c.ctl.vctl.toNat % 4) zi x
     let words := (wordOf (.vrmax vd va ty zi q) :: u.words).zip fls
     s.actsVx q [2] → s.rowsReachable [va] vd → s.recognise vd va ty zi q = some u →
       s.c.ctl.hmode = false
       ∧ ((∀ p ∈ words, s.noFpx p.2) → ∃ t, exec (.vrmax vd va ty zi q) s = .next t ∧ s.sameRegs t ∧ s.sameMem t
           ∧ t.c.fusion = some { starts := u.starts.map (BitVec.ofNat 64), rows := [s.c.row u.vx, s.c.row u.vm, s.c.row u.vy] }
           ∧ (∃ p ∈ t.c.pipe, p.left = 6
               ∧ p.lands = [.acc true (rowOff (s.c.row vd)) (spread (tyW ty) (f.reduceMinmax true (x.map (f.flush zi)))).1]))
       ∧ (∀ p, words.find? (fun p => enabled p.2 s.c.ctl.fen) = some p →
           exec (.vrmax vd va ty zi q) s = .next (s.takeFpx 2 p.1 (fls.foldl (fun a b => a ||| b) 0))))

/-- R171 to R174 and R177: compares, VSEL, VCVT, row moves, single lanes and VIOTA. -/
def Obligations.VectorComparesAndMoves : Prop :=
  ∀ (vd va vb : BitVec 6) (r1 r2 : BitVec 5) (n : BitVec 6) (code : BitVec 4) (ty : BitVec 2) (zi zo sb : Bool) (q : BitVec 3)
    (s : State),
    let f := tyFF ty
    let w := tyW ty
    let rm := s.c.ctl.vctl.toNat % 4
    let row := fun (v : BitVec 6) => s.readSlice s.cur (rowOff (s.c.row v)) 512
    let lanes := fun (v : BitVec 6) => lanesOf w (row v)
    let bs := if sb then List.replicate (512 / w) ((s.c.regs.ry (vb.setWidth 5)).toNat % 2 ^ (8 * w)) else lanes vb
    let ones := 2 ^ f.width - 1
    let runs := fun (i : Instr) (r : List Byte × BitVec 9) =>
      (s.c.fusedHere = true ∨ s.noFpx r.2 → exec i s = rowInFlight s vd 4 r)
      ∧ (s.c.fusedHere = false → ¬ s.noFpx r.2 → exec i s = .next (s.takeFpx 2 (wordOf i) r.2))
    let cmp := fun (lt : Bool) (x y : Nat) =>
      let a := f.decode (f.flush zi x)
      let b := f.decode (f.flush zi y)
      if lt then (⟨if a.lt b then ones else 0, flagIf (a.isNan || b.isNan) fNV⟩ : Res)
      else ⟨if a.eqv b then ones else 0, flagIf (a.sig || b.sig) fNV⟩
    let plain := fun (vs : List Nat) => ((vs.flatMap fun v => bytesLE v w, 0) : List Byte × BitVec 9)
    let shifted := fun (k : Int) => plain ((List.range (512 / w)).map fun i =>
      if (i : Int) + k < 0 then 0 else (lanes va).getD ((i : Int) + k).toNat 0)
    let j := (s.c.regs.ry r2).toNat % (512 / w)
    let y1 := s.c.regs.ry r1
    (s.actsVx q (2 :: if sb then [1] else []) →
      (s.rowsReachable (va :: if sb then [] else [vb]) vd →
        runs (.vcmplt vd va vb ty zi sb q) (rowOfRes w (List.zipWith (cmp true) (lanes va) bs))
        ∧ runs (.vcmpeq vd va vb ty zi sb q) (rowOfRes w (List.zipWith (cmp false) (lanes va) bs)))
      ∧ (s.rowsReachable (va :: vd :: if sb then [] else [vb]) vd →
        exec (.vsel vd va vb ty sb q) s = rowInFlight s vd 4
          (plain (List.zipWith (fun (ab : Nat × Nat) d => if d ≠ 0 then ab.1 else ab.2) ((lanes va).zip bs) (lanes vd)))))
    ∧ (s.actsVx q [2] → s.rowsReachable [va] vd →
      (∀ t, Fmt.ofCode code.toNat = some t →
        let wt := t.ebits / 8
        let k := min (512 / w) (512 / wt)
        let sat := s.c.ctl.vctl.getLsbD 2 && (t == .e4m3 || t == .e5m2)
        let r := rowOfRes wt (((lanes va).take k).map fun a => t.convert (f.decode (f.flush zi a)) rm sat zo)
        runs (.vcvt vd va code ty zi zo q) (r.1 ++ List.replicate (512 - k * wt) 0, r.2))
      ∧ exec (.vmov vd va q) s = rowInFlight s vd 4 (row va, 0)
      ∧ exec (.vbcast vd va n ty q) s = rowInFlight s vd 4 (plain (List.replicate (512 / w) ((lanes va).getD n.toNat 0)))
      ∧ exec (.vlsh vd va n ty q) s = rowInFlight s vd 4 (shifted n.toNat))
    ∧ (s.actsVx q [2, 1] → s.rowsReachable [va] vd →
      exec (.vlshY vd va r1 ty q) s = rowInFlight s vd 4 (shifted y1.toInt))
    ∧ (s.actsVx q [2, 1] → s.rowsReachable [] vd →
      exec (.vbcastY vd r1 ty q) s = rowInFlight s vd 4 (plain (List.replicate (512 / w) (y1.toNat % 2 ^ (8 * w)))))
    ∧ (s.actsVx q [2] → s.rowsReachable [] vd →
      exec (.viota vd ty q) s = rowInFlight s vd 4 (plain (List.range (512 / w))))
    ∧ (s.actsVx q [1, 2] → s.reachable (rowOff (s.c.row va)) 512 true false →
      exec (.vget r1 va r2 ty q) s =
        .next ((s.modC Ctx.fusionStep).pend 4 [.y r1 (BitVec.ofNat 64 ((lanes va).getD j 0))]))
    ∧ (s.actsVx q [1, 2] → s.reachable (rowOff (s.c.row vd) + j * w) w false true →
      exec (.vput vd r1 r2 ty q) s =
        .next ((s.modC Ctx.fusionStep).pend 4 [.acc false (rowOff (s.c.row vd) + j * w) (bytesLE y1.toNat w)]))

/-- R175 and R177: the 32-bit lanes of the integer words and of VRNG. -/
def Obligations.VectorIntegers : Prop :=
  ∀ (vd va vb : BitVec 6) (sb : Bool) (q : BitVec 3) (s : State),
    s.actsVx q (2 :: if sb then [1] else []) → s.rowsReachable (va :: if sb then [] else [vb]) vd →
    let row := fun (v : BitVec 6) => s.readSlice s.cur (rowOff (s.c.row v)) 512
    let bs := if sb then List.replicate 128 ((s.c.regs.ry (vb.setWidth 5)).toNat % 2 ^ 32) else lanesOf 4 (row vb)
    let writes := fun (i : Instr) (op : BitVec 32 → BitVec 32 → BitVec 32) =>
      exec i s = rowInFlight s vd 4
        ((List.zipWith (fun a b => (op (BitVec.ofNat 32 a) (BitVec.ofNat 32 b)).toNat) (lanesOf 4 (row va)) bs).flatMap
          fun v => bytesLE v 4, 0)
    writes (.viadd vd va vb sb q) (fun a b => a + b) ∧ writes (.visub vd va vb sb q) (fun a b => a - b)
    ∧ writes (.vimul vd va vb sb q) (fun a b => a * b) ∧ writes (.vand vd va vb sb q) (fun a b => a &&& b)
    ∧ writes (.vor vd va vb sb q) (fun a b => a ||| b) ∧ writes (.vxor vd va vb sb q) (fun a b => a ^^^ b)
    ∧ writes (.vsll vd va vb sb q) (fun a b => a <<< (b.toNat % 32)) ∧ writes (.vsrl vd va vb sb q) (fun a b => a >>> (b.toNat % 32))
    ∧ writes (.vsra vd va vb sb q) (fun a b => a.sshiftRight (b.toNat % 32))
    ∧ writes (.vimin vd va vb sb q) (fun a b => if a.toInt < b.toInt then a else b)
    ∧ writes (.vimax vd va vb sb q) (fun a b => if a.toInt < b.toInt then b else a)
    ∧ writes (.vrng vd va vb sb q) hash32

/-- R166 and R179: what the VX words leave alone. No register and no byte of memory changes at issue. -/
def Obligations.VectorFrame : Prop :=
  ∀ (vd va vb : BitVec 6) (r1 r2 : BitVec 5) (code : BitVec 4) (n : BitVec 6) (ty : BitVec 2) (e8 zi zo sb : Bool) (q : BitVec 3)
    (s t : State), ∀ i ∈ vxWords vd va vb r1 r2 code n ty e8 zi zo sb q,
    (s.there [2] → s.c.guardVx q = false → (Fmt.ofCode code.toNat).isSome = true → exec i s = .next s)
    ∧ (exec i s = .next t →
        (s.onlyRows t ∧ s.sameRegs t ∧ s.sameMem t) ∨ (∃ w fl, ¬ s.noFpx fl ∧ t = s.takeFpx 2 w fl)
          ∨ ∃ tr : Trap, (tr.slot = 2 ∨ s.mxTrap = some tr) ∧ t = s.takeTrap s.cur tr)

/-- R243, R247 to R250 and R254: the words of the matrix engine. -/
def Obligations.MatrixWords : Prop :=
  ∀ (sa sb : BitVec 6) (f0 neg : Bool) (tile : BitVec 5) (s : State),
    let words : List (Instr × MxRun × List Nat) :=
      (.mzero tile, { rt := .mzero, tiles := [tile.toNat] }, [3])
        :: ([(.mcallGemm sa sb f0 neg, .gemm, some sa, some sb, f0, neg), (.mcallGemmt sa sb f0 neg, .gemmt, some sa, some sb, f0, neg),
        (.mcallGemmz sa sb f0 neg, .gemmz, some sa, some sb, f0, neg), (.mcallGemv sa sb f0 neg, .gemv, some sa, some sb, f0, neg),
        (.mcallOuter sa sb f0 neg, .outer, some sa, some sb, f0, neg), (.mcallDgemm sa sb f0 neg, .dgemm, some sa, some sb, f0, neg),
        (.mcallTrans, .trans, none, none, false, false), (.mcallRowsc sa f0, .rowsc, some sa, none, f0, false),
        (.mcallColred f0, .colred, none, none, f0, false), (.mcallCvtout sb f0, .cvtout, none, some sb, f0, false),
        (.mcallLoadc sb f0, .loadc, none, some sb, f0, false)] : List (Instr × Routine × Option (BitVec 6) × Option (BitVec 6) × Bool × Bool)).map
          fun p => (p.1, s.c.routine p.2.1 p.2.2.1 p.2.2.2.1 p.2.2.2.2.1 p.2.2.2.2.2, mcallBlocks p.2.2.1 p.2.2.2.1)
    (∀ p ∈ words,
      let r := p.2.1
      (s.mxTakes r p.2.2 → exec p.1 s = .next (s.modC fun c => c.startRoutine r))
      ∧ (s.there p.2.2 → s.mxTrap = none →
          (r.fmtBad = true → exec p.1 s = traps s tFMT 4 r.fmt)
          ∧ (r.fmtBad = false → ∀ x, r.paramBad = some x → exec p.1 s = traps s tILLEGAL 4 x)
          ∧ (r.fmtBad = false → r.paramBad = none →
              (∀ a, r.areas.find? (fun a => a.start % 64 ≠ 0) = some a → exec p.1 s = traps s tALIGN 4 (BitVec.ofNat 64 a.start))
              ∧ ((∀ a ∈ r.areas, a.start % 64 = 0) →
                (∀ a, r.areas.find? (fun a => decide (0x1000000 < a.start + a.len ∨ 0x1000000 ≤ a.start)) = some a →
                    exec p.1 s = traps s tXLATE 4 (BitVec.ofNat 64 a.start))
                ∧ ((∀ a ∈ r.areas, a.start < 0x1000000 ∧ a.start + a.len ≤ 0x1000000) →
                  (∀ a, r.areas.find? (fun a => decide (a.start < s.c.ctl.seglo.toNat ∨ s.c.ctl.seghi.toNat < a.start + a.len)) = some a →
                      exec p.1 s = traps s tSEGBOUND 4 (BitVec.ofNat 64 a.start))
                  ∧ ((∀ a ∈ r.areas, s.c.ctl.seglo.toNat ≤ a.start ∧ a.start + a.len ≤ s.c.ctl.seghi.toNat) →
                    ∀ x, r.misplaced = some x → exec p.1 s = traps s tMBANK 4 (BitVec.ofNat 64 x)))))))
    ∧ (s.there [3] → s.mxTrap = none →
        (s.c.eng.mx.run = none → s.c.eng.mx.queue = none → exec .mwait s = .next s)
        ∧ ((∀ r, s.c.eng.mx.run = some r ∨ s.c.eng.mx.queue = some r →
              (r.rt = .mzero → tile.toNat ∉ r.tiles) ∧ (r.rt ≠ .mzero → bitsOf r.m0.toNat 32 5 ≠ tile.toNat)) →
            exec (.mwaitTile tile) s = .next s))
    ∧ (∀ t, s.mxTrap = some t → s.there [3] → exec .mwait s = .next (s.takeTrap s.cur t))
    ∧ (∀ r : MxRun, r.busy = (match r.rt with
        | .mzero => 32
        | .dgemm => 16 + 4 * r.klen
        | .gemm | .gemmt | .gemmz | .gemv => 16 + (2 * r.klen + min (kstep2 r.af) (kstep2 r.bf) - 1) / min (kstep2 r.af) (kstep2 r.bf)
        | .outer => 16 + (2 + min (kstep2 r.af) (kstep2 r.bf) - 1) / min (kstep2 r.af) (kstep2 r.bf)
        | _ => 16 + (r.m + 3) / 4))

/-- R244 to R246, R250 and R253: the effect of a routine at its completion, and a stop. -/
def Obligations.MatrixEvents : Prop :=
  ∀ (n : Nat) (r : MxRun) (s : State), s.sound → (s.ctxOf n).eng.mx.run = some r →
    (r.left = 0 → r.paramBad = none →
      ∃ t, exec (.matrixRoutineComplete n) s = .next t
        ∧ (t.ctxOf n).eng.mx =
            { (s.ctxOf n).eng.mx with run := (s.ctxOf n).eng.mx.queue, queue := none, started := false, seen := [] }
        ∧ (t.ctxOf n).ctl.fstat = (s.ctxOf n).ctl.fstat ||| (s.mxWrites n r).2
        ∧ (t.ctxOf n).regs = (s.ctxOf n).regs ∧ (∀ m, m ≠ n → t.ctxOf m = s.ctxOf m)
        ∧ (∀ a, (∀ w ∈ (s.mxWrites n r).1, ∀ i, i < w.2.length → s.sliceAt n (w.1 + i) ≠ a) →
            cellGet t.mem.cells a = cellGet s.mem.cells a)
        ∧ (∀ (a b : Operand) (i j : Nat), i < r.m → j < r.n → s.operandsOf n r = (some a, some b) →
            (r.rt = .gemm ∨ r.rt = .gemmt ∨ r.rt = .outer →
              t.tileElem n r.ct i j 4 = (r.groupSums a b i j (s.tileElem n r.ct i j 4)).1.getLast?.getD 0 % 2 ^ 32)
            ∧ (r.rt = .gemmz → t.tileElem n r.ct i j 4 = (r.groupSums a b i j 0).1.getLast?.getD 0 % 2 ^ 32)
            ∧ (r.rt = .gemv → t.tileElem n r.ct 0 i 4 = (r.groupSums a b i 0 (s.tileElem n r.ct 0 i 4)).1.getLast?.getD 0 % 2 ^ 32)
            ∧ (r.rt = .dgemm → t.tileElem n r.ct i j 8 = (r.chain a b i j (s.tileElem n r.ct i j 8)).1.getLast?.getD 0 % 2 ^ 64))
        ∧ (∀ i j, i < r.m → j < r.n →
            (r.rt = .trans → t.tileElem n r.ct i j 4 = s.tileElem n r.stile j i 4)
            ∧ (r.rt = .rowsc → t.tileElem n r.ct i j 4 = (ff32.mulV (ff32.decode (s.tileElem n r.ct i j 4))
                (ff32.decode (ofBytesLE (s.readSlice n (r.sa + 4 * i) 4))) 0 false r.fo).bits % 2 ^ 32)
            ∧ (r.rt = .colred → t.tileElem n r.ct 0 j 4 = (ff32.roundTotal
                (totalOf ((List.range r.m).map fun k => ff32.decode (s.tileElem n r.stile k j 4))) 0 r.fo).bits % 2 ^ 32)
            ∧ (r.rt = .loadc → ∀ f, Fmt.ofCode r.cf = some f →
                t.tileElem n r.ct i j (if r.cf = 0xA then 8 else 4) = (s.loadcElem n r f i j).1 % 2 ^ (8 * if r.cf = 0xA then 8 else 4)))
        ∧ (r.rt = .mzero → r.tiles ≠ [] → ∀ i j, i < 128 → j < 128 → t.tileElem n (r.tiles.headD 0) i j 4 = 0)
        -- every write whose bytes no other one of the routine covers is read back whole
        ∧ (∀ w ∈ (s.mxWrites n r).1,
            (∀ v ∈ (s.mxWrites n r).1, v ≠ w → ∀ i j, i < w.2.length → j < v.2.length → s.sliceAt n (w.1 + i) ≠ s.sliceAt n (v.1 + j)) →
            (∀ i j, i < w.2.length → j < w.2.length → s.sliceAt n (w.1 + i) = s.sliceAt n (w.1 + j) → i = j) →
            t.readSlice n w.1 w.2.length = w.2)
        -- CVTOUT: the rows that it writes, with the scales of their blocks
        ∧ (r.rt = .cvtout → ∀ f i, Fmt.ofCode r.cf = some f → i < r.m →
            let len := r.n * f.ebits / 8
            let e := f.encodeAll ((List.range r.n).map fun j => ff32.decode (ff32.flush r.fi (s.tileElem n r.ct i j 4)))
              r.rm r.sat r.fo r.gap
            (f = .fp32 ∨ f = .fp64 → (r.sb + i * r.rstr, s.readSlice n (tileOff r.ct i 0 1) len) ∈ (s.mxWrites n r).1)
            ∧ (f ≠ .fp32 → f ≠ .fp64 → (r.sb + i * r.rstr, e.1.take len) ∈ (s.mxWrites n r).1
              ∧ (f.isBlock = true → (r.ascl + i * r.n / 32 * f.scaleBytes, e.1.drop len) ∈ (s.mxWrites n r).1)))
        -- the flags: those of the elements, or of the rows of CVTOUT
        ∧ (let raises := fun (p : Nat → Nat → BitVec 9) (m c : Nat) => ∀ k, k < 9 →
              ((s.mxWrites n r).2.getLsbD k = true ↔ ∃ i j, i < m ∧ j < c ∧ (p i j).getLsbD k = true)
          (∀ a b : Operand, s.operandsOf n r = (some a, some b) →
            (r.rt = .gemm ∨ r.rt = .gemmt ∨ r.rt = .outer → raises (fun i j => (r.groupSums a b i j (s.tileElem n r.ct i j 4)).2) r.m r.n)
            ∧ (r.rt = .gemmz → raises (fun i j => (r.groupSums a b i j 0).2) r.m r.n)
            ∧ (r.rt = .gemv → raises (fun _ j => (r.groupSums a b j 0 (s.tileElem n r.ct 0 j 4)).2) 1 r.m)
            ∧ (r.rt = .dgemm → raises (fun i j => (r.chain a b i j (s.tileElem n r.ct i j 8)).2) r.m r.n))
          ∧ (r.rt = .trans ∨ r.rt = .mzero → (s.mxWrites n r).2 = 0)
          ∧ (r.rt = .rowsc → raises (fun i j => (ff32.mulV (ff32.decode (s.tileElem n r.ct i j 4))
                (ff32.decode (ofBytesLE (s.readSlice n (r.sa + 4 * i) 4))) 0 false r.fo).fl) r.m r.n)
          ∧ (r.rt = .colred → raises (fun _ j => (ff32.roundTotal
                (totalOf ((List.range r.m).map fun k => ff32.decode (s.tileElem n r.stile k j 4))) 0 r.fo).fl) 1 r.n)
          ∧ (∀ f, Fmt.ofCode r.cf = some f →
            (r.rt = .loadc → raises (fun i j => (s.loadcElem n r f i j).2) r.m r.n)
            ∧ (r.rt = .cvtout → (f = .fp32 ∨ f = .fp64 → (s.mxWrites n r).2 = 0)
              ∧ (f ≠ .fp32 → f ≠ .fp64 → raises (fun i _ => (f.encodeAll ((List.range r.n).map fun j =>
                  ff32.decode (ff32.flush r.fi (s.tileElem n r.ct i j 4))) r.rm r.sat r.fo r.gap).2) r.m 1)))))
    ∧ (∀ f, s.mxMeets n r = some f →
      ∃ t, exec (.matrixRoutineStop n) s = .next t
        ∧ (t.ctxOf n).eng.mx = { run := none, queue := none, started := false, fault := some f, faultTiles := r.tiles, seen := [] }
        ∧ (t.ctxOf n).regs = (s.ctxOf n).regs ∧ (∀ m, m ≠ n → t.ctxOf m = s.ctxOf m))

/-- R215 to R217, R224, R226 and R295: the stream commands at issue. -/
def Obligations.StreamWords : Prop :=
  ∀ (sa sb : BitVec 6) (ct sh : Bool) (ch : BitVec 3) (n7 : BitVec 7) (bob : BitVec 4) (s : State),
    ∀ p ∈ ([(.cpy sa sb ct sh ch, .cpy, some sa, some sb, ct, sh, 0, 0), (.gath sa sb ct sh ch, .gath, some sa, some sb, ct, sh, 0, 0),
        (.scat sa sb ct ch, .scat, some sa, some sb, ct, false, 0, 0), (.coll sa sb ch, .coll, some sa, some sb, false, false, 0, 0),
        (.cpyb sa n7 bob ch, .cpyb, some sa, none, false, false, bob, n7.toNat),
        (.bdrain sb n7 bob ch, .bdrain, none, some sb, false, false, bob, n7.toNat)] : List (Instr × StreamKind × Option (BitVec 6) × Option (BitVec 6) × Bool × Bool × BitVec 4 × Nat)),
      let i := p.1
      let st := s.c.streamOf p.2.1 ch p.2.2.1 p.2.2.2.1 p.2.2.2.2.1 p.2.2.2.2.2.1 p.2.2.2.2.2.2.1 p.2.2.2.2.2.2.2
      let bs := streamBlocks p.2.2.1 p.2.2.2.1
      let x := s.c.eng.channel ch.toNat
      (∀ shs, s.streamTakes ch st (wordOf i) bs shs → ∃ t, exec i s = .next t
          ∧ t.c.eng.channel ch.toNat = { x with state := 1, cause := 0, addr := 0, done := 0, publ := false, shadows := shs,
                                                stream := some { s.dated st with seq := s.c.eng.seq } }
          ∧ t.c.eng.seq = s.c.eng.seq + 1 ∧ (∀ k, k % 8 ≠ ch.toNat → t.c.eng.channel k = s.c.eng.channel k)
          ∧ t.c.regs = s.c.regs ∧ t.c.ctl = s.c.ctl ∧ t.c.pipe = s.c.pipe ∧ s.sameMem t
          ∧ ∀ m, m ≠ s.cur → t.ctxOf m = s.ctxOf m)
      ∧ (s.there bs → x.state = 3 →
          exec i s = .next (s.takeTrap s.cur { s.trapHere x.cause.toNat 5 x.addr with source := .channel ch.toNat }))
      ∧ (s.there bs → x.state ≠ 1 → x.state ≠ 3 →
          (∀ f, s.streamFault s.cur st (x.read 0) (wordOf i) = some f → exec i s = traps s f.1 5 f.2)
          ∧ (s.streamFault s.cur st (x.read 0) (wordOf i) = none →
              (s.shadowsFor s.cur ch.toNat (s.dated st) = .error false → exec i s = traps s tXLATE 5 st.dst)
              ∧ (s.shadowsFor s.cur ch.toNat (s.dated st) ≠ .error false → (s.dated st).dl ≠ 0 →
                  s.admits s.cur (s.dated st) = false → exec i s = traps s tOVERRUN 5 (BitVec.ofNat 64 (s.dated st).dl))))

/-- R215, R225, R228, R229, R232, R234 and R235: the other words of the CP and CY slots. The ALIGN traps of SEAL and OPEN, and
that they come before the checks of the regions, are the model's reading: R234 names XLATE alone (log 20, DEDUCED). -/
def Obligations.EngineWords : Prop :=
  ∀ (sa sb : BitVec 6) (ch after before : BitVec 3) (ks : BitVec 8) (n : BitVec 6) (s : State),
    let x := s.c.eng.channel ch.toNat
    let a := s.c.rd6 sa
    let b := s.c.rd6 sb
    let quiet := fun (t : State) => t.c.regs = s.c.regs ∧ t.c.ctl = s.c.ctl ∧ t.c.pipe = s.c.pipe ∧ s.sameMem t
    (s.there [3] →
      (x.publ = false → x.shadows ≠ [] → ∃ t, exec (.publ ch) s = .next t ∧ quiet t
        ∧ t.c.eng.channel ch.toNat = { x with publ := true, publSeq := s.c.eng.seq, state := 1 } ∧ t.c.eng.seq = s.c.eng.seq + 1)
      ∧ (x.publ = false → x.shadows = [] → exec (.publ ch) s = .next s)
      ∧ (x.state ≠ 1 → x.state ≠ 3 → exec (.cwait ch) s = .next s)
      ∧ (x.state = 3 → exec (.cwait ch) s =
          .next (s.takeTrap s.cur { s.trapHere x.cause.toNat 5 x.addr with source := .channel ch.toNat }))
      ∧ (∃ t, exec (.sbar after before) s = .next t ∧ quiet t
          ∧ ({ before := before, after := after, seq := s.c.eng.seq } : Sbar) ∈ t.c.eng.sbars ∧ t.c.eng.seq = s.c.eng.seq)
      ∧ (s.c.eng.cipher = none → s.c.eng.cyFault = none → exec .ywait s = .next s)
      ∧ (s.c.eng.cipher = none → ∀ f, s.c.eng.cyFault = some f →
          exec .ywait s = .next (s.takeTrap s.cur { s.trapHere f.1 6 f.2 with source := .cipher })))
    ∧ (s.there [regBlock6 sa, regBlock6 sb] →
      (s.c.ctl.strict = true → exec (.persist sa sb) s = traps s tILLEGAL 5 (wordOf (.persist sa sb)))
      ∧ (s.c.ctl.strict = false → b = 0 → exec (.persist sa sb) s = .next s)
      ∧ (s.c.ctl.strict = false → b ≠ 0 → s.c.persist = .reached →
          exec (.persist sa sb) s = .next (s.modC fun c => { c with persist := .idle })))
    ∧ (s.there [3, regBlock6 sa, regBlock6 sb] → s.c.eng.cyFault = none → s.c.eng.cipher = none →
      let enters := fun (i : Instr) (isOpen : Bool) =>
        (a.toNat % 4096 ≠ 0 → exec i s = traps s tALIGN 6 a)
        ∧ (a.toNat % 4096 = 0 → b.toNat % 32 ≠ 0 → exec i s = traps s tALIGN 6 b)
        ∧ (a.toNat % 4096 = 0 → b.toNat % 32 = 0 →
            (∀ v, s.untrusted s.cur a (4096 * (n.toNat + 1)) true = some (.ok v) → exec i s = traps s tXLATE 6 v)
            ∧ (∀ v, s.untrusted s.cur a (4096 * (n.toNat + 1)) true = none →
                s.untrusted s.cur b (32 * (n.toNat + 1)) (!isOpen) = some (.ok v) → exec i s = traps s tXLATE 6 v)
            ∧ (s.untrusted s.cur a (4096 * (n.toNat + 1)) true = none → s.untrusted s.cur b (32 * (n.toNat + 1)) (!isOpen) = none →
              ∃ t, exec i s = .next t ∧ quiet t ∧ t.c.eng.seq = s.c.eng.seq + 1
                ∧ t.c.eng.cipher = some { isOpen := isOpen, region := a, tag := b, key := (s.keySlot s.c.partN ks.toNat).key,
                                          gen := (s.keySlot s.c.partN ks.toNat).gen, ks := ks.toNat, n := n.toNat
                                          seq := s.c.eng.seq }))
      enters (.seal sa sb ks n) false ∧ enters (.openCt sa sb ks n) true)

/-- R214, R217, R219, R223, R225, R229, R232, R234 and R235: the events of the copy and cipher engines. A deadline leaves
the address of the fault open (log 22, DESIGN CHOICE). That a chunk is converted in one event is the model's choice (log 21,
DESIGN CHOICE), and so is how many of the four lines of a cycle move (log 1, DESIGN CHOICE). -/
def Obligations.StreamAndCipherEvents : Prop :=
  ∀ (n c : Nat) (s : State),
    let eng := (s.ctxOf n).eng
    let ch := eng.channel c
    -- a place in the memory of this module, with the key of each of its bytes, and no routine at work there
    let inside := fun (l : Loc) => l.outside = false ∧ ∀ m o, l = .slice m o → (s.ctxOf m).eng.mx.run = none
    let keyAt := fun (l : Loc) (i : Nat) => match l with
      | .slice m o => s.sliceAt m (o + i)
      | .phys pa => pa + i
      | _ => 0
    -- a line of CPY between such places: a row of scratchpad, of accumulator or of GLOBAL memory
    (∀ (st : Stream) (p q : Machine.Place), s.sound → ch.stream = some st → st.kind = .cpy → st.part = 0 → ch.shadows = [] →
      st.done < st.total →
      let r := st.done / st.lines
      let l := st.done % st.lines
      let a := BitVec.ofNat 64 (s.srcRow n st r + 64 * l)
      let b := BitVec.ofNat 64 (s.dstRow n st r + 64 * l)
      let sealed := if p.kept then (s.formOf p.loc 64).isSome else st.ct
      s.barred n st.seq (s.classAt (s.ctxOf n) a false ||| s.classAt (s.ctxOf n) b true) = false →
      s.lineReach n a 64 false = .at_ p → s.lineReach n b 64 true = .at_ q → inside p.loc → q.loc.outside = false →
      s.poisonOf p.loc 64 = none →
      (sealed = true ∨ q.trusted = true → ∃ t, s.moveLine n c = (t, true) ∧ (t.readLoc q.loc 64).1 = (s.readLoc p.loc 64).1
        ∧ (q.kept = true → (t.formOf q.loc 64).isSome = sealed)
        ∧ (∀ x, (∀ i, i < 64 → keyAt q.loc i ≠ x) → cellGet t.mem.cells x = cellGet s.mem.cells x)
        ∧ ((t.ctxOf n).eng.channel c).done = ch.done + 64 ∧ (t.ctxOf n).regs = (s.ctxOf n).regs
        ∧ ∃ st', ((t.ctxOf n).eng.channel c).stream = some st' ∧ st'.done = st.done + 1)
      ∧ (sealed = false → q.trusted = false → ∃ t, s.moveLine n c = (t, true) ∧ s.sameMem t
        ∧ (t.ctxOf n).eng.channel c = { ch with
            state := 3, cause := BitVec.ofNat 8 tFORM, addr := b, stream := none, publ := false, shadows := [] }))
    -- the event: one to four lines, each by `moveLine`, over the channels in turn
    ∧ ((s.sp n).moved = false → s.missingOf n [3] = [] →
        ∃ t k f, exec (.streamLineMove n) s = .next t ∧ 1 ≤ k ∧ k ≤ 4 ∧ (t.sp n).moved = true
          ∧ (t.ctxOf n).regs = (s.ctxOf n).regs
          ∧ t = (({ s with free := f }).modSp n fun sp => { sp with moved := true }).moveLines n 64 k 0)
    ∧ ((s.sp n).moved = true → exec (.streamLineMove n) s = .next s)
    ∧ (∀ fuel k idle, s.moveLines n fuel 0 idle = s ∧ (8 ≤ idle → s.moveLines n fuel k idle = s) ∧ (idle < 8 →
        let i := eng.rot % 8
        let s' := s.modCtx n fun x => { x with eng := { x.eng with rot := (i + 1) % 8 } }
        (s.streamGoes n (eng.channel i) = false → s.moveLines n (fuel + 1) (k + 1) idle = s'.moveLines n fuel (k + 1) (idle + 1))
        ∧ (∀ u, s.streamGoes n (eng.channel i) = true → s'.moveLine n i = (u, true) →
            s.moveLines n (fuel + 1) (k + 1) idle = u.moveLines n fuel k 0)
        ∧ (∀ u, s.streamGoes n (eng.channel i) = true → s'.moveLine n i = (u, false) →
            s.moveLines n (fuel + 1) (k + 1) idle = u.moveLines n fuel (k + 1) (idle + 1))))
    ∧ (∀ st, ch.stream = some st → st.total ≤ st.done → (ch.publ = false ∨ ch.shadows = []) →
        ∃ t, exec (.streamComplete n c) s = .next t ∧ s.sameMem t
          -- a running context sees the flags at the end of its cycle, after a CWR of the cycle (R136)
          ∧ ((s.sp n).run = .running → st.flags ≠ 0 → (t.ctxOf n).ctl.fstat = (s.ctxOf n).ctl.fstat
              ∧ (t.ctxOf n).pipe = (s.ctxOf n).pipe ++ [{ left := 1, lands := [.flags st.flags] }])
          ∧ ((s.sp n).run ≠ .running ∨ st.flags = 0 → (t.ctxOf n).ctl.fstat = (s.ctxOf n).ctl.fstat ||| st.flags
              ∧ (t.ctxOf n).pipe = (s.ctxOf n).pipe)
          ∧ (t.ctxOf n).eng.channel c =
              { ch with stream := none, publ := false, state := if ch.shadows = [] then 0 else 2 })
    ∧ (∀ st, ch.stream = some st → st.dl ≠ 0 → st.dl ≤ st.bound →
        -- the address of the fault is free (log 22, DESIGN CHOICE)
        ∃ t v, exec (.streamDeadlineExpiry n c) s = .next t ∧ s.sameMem t
          ∧ (t.ctxOf n).eng.channel c =
              { ch with state := 3, cause := 0x10, addr := v, stream := none, publ := false, shadows := [] })
    ∧ (∀ lb pb ls, s.mayPublish n c = true → ch.shadows = [⟨.block n lb pb, ls⟩] → lb < 256 → s.missingOf n [3] = [] →
        s.missingOf n [38 + lb] = [] →
        ∃ t, exec (.publishSwap n c) s = .next t
          ∧ (t.ctxOf n).eng.bmap = eng.bmap.set (lb % 256) (BitVec.ofNat 9 pb) (Nat.mod_lt _ (by decide))
          ∧ (t.ctxOf n).eng.channel c = { ch with state := 0, stream := none, publ := false, shadows := [] })
    -- a page of GLOBAL: the lines that the stream did not write come from the page, then the page and the pool change places
    ∧ (∀ o pa pool ls l, s.sound → s.mayPublish n c = true → ch.shadows = [⟨.page o pa pool, ls⟩] → s.missingOf n [3] = [] →
        let p := (s.ctxOf n).partN
        let x : Shadow := ⟨.page o pa pool, ls⟩
        let u := s.fill n p x
        s.pageLeaf p o = some l →
        let old := leafAddr l.entry
        (old + 2 ^ 21 ≤ pa ∨ pa + 2 ^ 21 ≤ old →
          (∀ i, i < 2 ^ 21 → cellGet u.mem.cells (pa + i) =
            if ls.contains (i / 64) then cellGet s.mem.cells (pa + i) else cellGet s.mem.cells (old + i))
          ∧ ∀ a, a < pa ∨ pa + 2 ^ 21 ≤ a → cellGet u.mem.cells a = cellGet s.mem.cells a)
        ∧ ∃ t, exec (.publishSwap n c) s = .next t
          ∧ (t.ctxOf n).eng.channel c = { ch with state := 0, stream := none, publ := false, shadows := [] }
          ∧ (t.ctxOf n).eng.bmap = eng.bmap
          ∧ (∀ v, u.pageLeaf p o = some v → v.key + 8 ≤ pool ∨ pool + 8 ≤ v.key →
            let f : Word := BitVec.ofNat 64 (ofBytesLE (u.mem.read pool 8))
            ofBytesLE (t.mem.read v.key 8) = (withAddr v.entry f).toNat ∧ ofBytesLE (t.mem.read pool 8) = (withAddr f v.entry).toNat
            ∧ (∀ a, (a < v.key ∨ v.key + 8 ≤ a) → (a < pool ∨ pool + 8 ≤ a) → cellGet t.mem.cells a = cellGet u.mem.cells a)
            ∧ t.msgs = ((u.redirect p (leafAddr v.entry) (leafAddr f)).msgs)))
    -- a chunk of 4,096 bytes is converted in one event, unless a capture stops it (log 21, DESIGN CHOICE)
    ∧ (∀ (cy : Cipher) (p q : Machine.Place), eng.cipher = some cy → cy.line = 0 →
        let a := cy.region + BitVec.ofNat 64 (4096 * cy.chunk)
        let b := cy.tag + BitVec.ofNat 64 (32 * cy.chunk)
        let text := (s.readLoc p.loc 4096).1
        let entry := (s.readLoc q.loc 32).1
        let aad := bytesLE (s.ctxOf n).partN 8
        let stops := fun (code : Nat) (v : Word) => ∃ t, exec (.cipherCommandComplete n) s = .next t ∧ s.sameMem t
          ∧ (t.ctxOf n).eng = { eng with cipher := none, cyFault := some (code, v) }
        s.cipherGoes n = true → s.missingOf n [3] = [] →
        s.barred n cy.seq (s.classAt (s.ctxOf n) a false ||| s.classAt (s.ctxOf n) a true
          ||| s.classAt (s.ctxOf n) b (!cy.isOpen)) = false →
        s.lineReach n a 4096 true = .at_ p → s.lineReach n b 32 (!cy.isOpen) = .at_ q → inside p.loc → inside q.loc →
        (s.mem.poisonIn (s.keyOf p.loc) 4096) = none →
        (∀ l ∈ linesOf (s.keyOf p.loc) 4096, (p.kept && s.mem.form.contains l) = cy.isOpen) →
        (cy.key = none → stops tFORM a)
        ∧ (∀ key, cy.key = some key → cy.isOpen = true → s.linePoison q 32 = false →
            (∀ pt, gcmOpen key (entry.take 12) aad text (entry.drop 16) = some pt →
              exec (.cipherCommandComplete n) s = .next ((s.putLine n p pt false).cipherNext n cy))
            ∧ (gcmOpen key (entry.take 12) aad text (entry.drop 16) = none → stops tFORM a))
        ∧ (∀ key, cy.key = some key → cy.isOpen = false →
            let part := (s.ctxOf n).partN
            let k := s.keySlot part cy.ks
            -- the counter is that of the key which the command holds: the slot's, until the slot gets another key
            let live := k.key.isSome = true ∧ k.gen = cy.gen
            let iv := if live then k.iv else tget 0 cy.gen (s.part part).trust.olds
            let i := ivOf part cy.ks iv
            let out := gcmSeal key i aad text
            (0x100000000 ≤ iv.toNat → stops tFORM a)
            ∧ (iv.toNat < 0x100000000 → ∃ t u, exec (.cipherCommandComplete n) s = .next t
              ∧ t = ((u.putLine n p out.1 true).putLine n q (i ++ bytesLE 0 4 ++ out.2) false).cipherNext n cy
              ∧ u = s.modTrust part (fun _ => (u.part part).trust)
              ∧ (live → (u.keySlot part cy.ks).iv = iv + 1)
              ∧ (¬ live → tget 0 cy.gen (u.part part).trust.olds = iv + 1 ∧ u.keySlot part cy.ks = k)
              ∧ (t.ctxOf n).eng.cipher = (if cy.chunk < cy.n then some { cy with chunk := cy.chunk + 1, line := 0, text := [] } else none))))
    -- what a line that the engine writes leaves: the bytes, and the form bits of a sealed one
    ∧ (∀ (x : Machine.Place) (bs : List Byte) (form : Bool), s.sound → x.loc.outside = false → bs.length ≤ 65536 →
        let t := s.putLine n x bs form
        (t.readLoc x.loc bs.length).1 = bs
        ∧ (∀ a, (∀ i, i < bs.length → keyAt x.loc i ≠ a) → cellGet t.mem.cells a = cellGet s.mem.cells a)
        ∧ (x.kept = true → form = true → ∀ l ∈ linesOf (s.keyOf x.loc) bs.length, l ∈ t.mem.form)
        ∧ (form = false → bs ≠ [] → t.formOf x.loc bs.length = none))
    ∧ (∀ a len, (s.ctxOf n).persist = .asked a len →
        (s.hostHeld n = true → exec (.persistenceReached n) s = .next s)
        ∧ (s.hostHeld n = false → ∃ t, exec (.persistenceReached n) s = .next t ∧ (t.ctxOf n).persist = .reached ∧ s.sameMem t
          -- of no byte that the PERSIST covers can an earlier value than this spindle's last write be left by a loss of power
          ∧ (∀ e ∈ t.mem.soft, e.1 ∈ s.persistCovers n (s.ctxOf n) a len → ∀ x ∈ e.2.tail, x.1 ≠ n)
          ∧ ∀ e, e.1 ∉ s.persistCovers n (s.ctxOf n) a len → 1 < e.2.length → (e ∈ t.mem.soft ↔ e ∈ s.mem.soft)))

/-- R191, R257, R278, R280 and R311: requests at the home, and what comes back. That FORM of a remote load names the address of
the line is the model's reading (log 14, DEDUCED). -/
def Obligations.HomeEvents : Prop :=
  ∀ (id : Nat) (m : Msg) (s : State), s.sound → s.msg id = some m →
    let regsStay := fun (t : State) => ∀ k, (t.ctxOf k).regs = (s.ctxOf k).regs ∧ (t.ctxOf k).ctl = (s.ctxOf k).ctl
    let becomes := fun (t : State) (st : MsgState) => t.msg id = some { m with st := st }
    (m.st = .going → s.blockedByOrder m = false → ∀ n off,
      (∀ op len, m.op = .load op len → s.atHome m len false = .go (.slice n off) →
        (∀ f, s.homeFault (.slice n off) len = some f → ∃ t, exec (.remoteReadAtHome id) s = .next t ∧ regsStay t ∧ s.sameMem t
          ∧ t.msg id = some { m with st := .failed f.1, val := m.val + BitVec.ofInt 64 f.2 })
        ∧ (s.homeFault (.slice n off) len = none → (s.ctxOf n).eng.mx.run = none →
          ∃ t, exec (.remoteReadAtHome id) s = .next t ∧ regsStay t ∧ s.sameMem t
            ∧ let bs := s.readSlice n off len
              becomes t (.replied (if op = 2 then 0 else loadValue (op == 0) bs) 0 bs 0 (s.tagsOf (.slice n off) len))))
      ∧ (∀ bs, m.op = .store bs → bs.length ≤ 65536 → s.atHome m bs.length true = .go (.slice n off) →
          ∃ t, exec (.remoteWriteAtHome id) s = .next t ∧ regsStay t ∧ t.readSlice n off bs.length = bs
            ∧ (∀ x, (∀ i, i < bs.length → s.sliceAt n (off + i) ≠ x) → cellGet t.mem.cells x = cellGet s.mem.cells x)
            ∧ becomes t (.replied 0 0 [] 0 []))
      ∧ (∀ a, m.op = .atomic a → s.atHome m a.size true = .go (.slice n off) → (s.ctxOf n).eng.mx.run = none →
          (a.op = .vacc 0 ∨ s.homeFault (.slice n off) a.size = none →
            let u := a.update (s.readSlice n off a.size)
            ∃ t tag, exec (.remoteAtomicAtHome id) s = .next t ∧ regsStay t ∧ becomes t (.replied u.v u.v2 [] u.fl tag)
              ∧ (∀ bs, u.bytes = some bs → bs.length ≤ 65536 → t.readSlice n off bs.length = bs)
              ∧ (u.bytes = none → s.sameMem t))
          ∧ (∀ f, a.op ≠ .vacc 0 → s.homeFault (.slice n off) a.size = some f →
              ∃ t, exec (.remoteAtomicAtHome id) s = .next t ∧ regsStay t ∧ s.sameMem t
                ∧ becomes t (.failed f.1))))
    ∧ (∀ k v v2 bs fl tag, m.st = .replied v v2 bs fl tag → s.whereIs m.ctx = some k →
        let c := s.ctxOf k
        -- a running context sees the flags at the end of its cycle, after a CWR of the cycle (R136)
        let later := (s.sp m.spin).run = .running ∧ (s.ctxOf m.spin).id = m.ctx ∧ fl ≠ 0
        let lands := fun (t : State) => s.sameMem t ∧ t.msg id = none ∧ (t.ctxOf k).regs = c.regs
          ∧ (later → (t.ctxOf k).ctl.fstat = c.ctl.fstat)
          ∧ (¬ later → (t.ctxOf k).ctl.fstat = c.ctl.fstat ||| fl)
          ∧ (t.ctxOf k).pipe = (c.pipe.map fun p =>
              if p.awaits.contains id then p.answered id (m.dest.lands v v2 bs) else p)
              ++ if later then [{ left := 1, lands := [.flags fl] }] else []
        (m.waits = true → s.mayLandIn (dieOf m.spin) (s.gangOfMsg m) tag = true → ∃ t, exec (.remoteReplyArrival id) s = .next t ∧ lands t)
        ∧ (m.waits = false → ∃ t, exec (.writeAckArrival id) s = .next t ∧ lands t))
    ∧ (∀ k code, m.st = .failed code → s.whereIs m.ctx = some k →
        let x : Notice := { code := code, slot := m.slot, val := m.val, at_ := s.gcyc }
        -- that of a barrier arrival whose reply is awaited is raised as the reply lands (R285)
        let held := code = tBOVER ∧ m.waits = true
        ∃ t, exec (.failureNoticeArrival id) s = .next t ∧ s.sameMem t ∧ t.msg id = none ∧ (t.ctxOf k).regs = (s.ctxOf k).regs
          ∧ (¬ held → (t.ctxOf k).notices = (s.ctxOf k).notices ++ [x]
              ∧ (t.ctxOf k).pipe = (s.ctxOf k).pipe.filter fun p => !p.awaits.contains id)
          ∧ (held → (t.ctxOf k).notices = (s.ctxOf k).notices ∧ (t.ctxOf k).pipe = (s.ctxOf k).pipe.map fun p =>
              if p.awaits.contains id then { p with await := none, lands := [], notice := some x } else p))

/-- R298, R299, R302 and R304: the gate unit. -/
def Obligations.GateEvents : Prop :=
  (∀ (id : Nat) (m : Msg) (op b wlim : Nat) (v : Word) (charged : Bool) (s : State), s.msg id = some m →
    m.op = .gate op v b wlim charged →
    let e := s.binding m.part b
    let n := bitsOf e.toNat 0 12
    let verdict := (s.gate n).check s.pf.modid.toNat m.part false (op == 0) charged
    let becomes := fun (st : MsgState) => ∃ t, exec (.gateOperationAtHome id) s = .next t ∧ s.sameMem t
      ∧ t.msg id = some { m with st := st }
    (m.st = .going → s.blockedByOrder m = false → bitsOf e.toNat 12 6 = s.pf.modid.toNat →
      (verdict = .denied → becomes (.failed tGATE))
      ∧ (verdict = .rate → becomes (.replied 3 0 [] 0 []))
      ∧ (∀ g, verdict = .ok g →
          (op = 0 → ∃ t, exec (.gateOperationAtHome id) s = .next t ∧ t.msg id = some { m with st := .replied 0 0 [] 0 [] }
            ∧ (t.gate n).gcnt = BitVec.ofNat 64 (min (g.gcnt.toNat + v.toNat) (2 ^ 64 - 1)))
          ∧ (op ≠ 0 → v.toNat ≤ g.gcnt.toNat → becomes (.replied 0 0 [] 0 g.clock))
          ∧ (op = 2 → g.gcnt.toNat < v.toNat → becomes (.replied 1 0 [] 0 []))
          ∧ (op = 1 → g.gcnt.toNat < v.toNat → s.parks m.ctx = false → becomes (.waiting s.gcyc))
          -- the wait of a captured context leaves the gate at once (R308)
          ∧ (op = 1 → g.gcnt.toNat < v.toNat → s.parks m.ctx = true → ∃ t, exec (.gateOperationAtHome id) s = .next t
              ∧ s.sameMem t ∧ t.msg id = some { m with op := .gate op v b wlim true, st := .parked })))
    ∧ (∀ t0, op = 1 → m.st = .waiting t0 → wlim ≠ 0 → wlim ≤ s.gcyc - t0 →
        ∃ t, exec (.gateWaitTimeout id) s = .next t ∧ t.msg id = some { m with st := .replied 2 0 [] 0 [] })
    ∧ (∀ val : Word, op = 1 → (∃ t0, m.st = .waiting t0) → bitsOf e.toNat 12 6 = s.pf.modid.toNat → (v.toNat ≤ val.toNat →
          ∃ t, exec (.gcntWrite n val) s = .next t ∧ (t.gate n).gcnt = val
            ∧ t.msg id = some { m with st := .replied 0 0 [] 0 (s.gate n).clock })
        ∧ (s.gateLockers n = [] → ∀ port, ∃ t, exec (.gateValidWrite port n false) s = .next t ∧ (t.gate n).valid = false
            ∧ t.msg id = some { m with st := .failed tGATE })))
  ∧ (∀ (n i : Nat) (s : State), i < 8 → s.refillDue n i = true →
      exec (.gateTokenRefill n i) s = .next (s.modGate n fun g => g.setTokens i (g.tokensOf i + 1)))
  ∧ (∀ (g : Gate) (md p : Nat) (host sig free : Bool),
      (g.valid = false → g.check md p host sig free = .denied)
      ∧ (g.valid = true → g.match_ md p host = none → g.check md p host sig free = .denied)
      ∧ (∀ i, g.valid = true → g.match_ md p host = some i →
          let e := g.entry i
          let may := bitsOf e.toNat (if sig then 8 else 9) 1 = 1
          let burst := bitsOf e.toNat 16 8
          let refill := bitsOf e.toNat 24 16
          (¬ may → g.check md p host sig free = .denied)
          ∧ (may → free = false → burst = 0 → g.check md p host sig free = .rate)
          ∧ (may → free = false → burst ≠ 0 → refill = 0 → g.check md p host sig free = .ok g)
          ∧ (may → free = false → burst ≠ 0 → refill ≠ 0 → g.tokensOf i = 0 → g.check md p host sig free = .rate)
          ∧ (may → free = false → burst ≠ 0 → refill ≠ 0 → g.tokensOf i ≠ 0 →
              g.check md p host sig free = .ok (g.setTokens i (g.tokensOf i - 1)))))

/-- R285 to R289: the barrier unit and the step barrier. What is answered to a spindle of a timed domain takes its place among the
results in flight at once (R287). That a completion notice leaves a BARRW waiting while a write that the phase releases is not
applied on its die is the model's reading of R265 (log 49, DEDUCED). -/
def Obligations.BarrierEvents : Prop :=
  (∀ (id : Nat) (m : Msg) (n gang gid cyc : Nat) (w : Word) (s : State), s.msg id = some m →
    let b := s.barrier m.part n
    let answered := fun (t : State) (v : Word) =>
      (gid = 0 → t.msg id = some { m with st := (.replied v 0 [] 0 []) })
      ∧ (gid ≠ 0 → t.msg id = none ∧ ∀ k, s.whereIs m.ctx = some k →
          (t.ctxOf k).pipe = (s.ctxOf k).pipe.map fun p => if p.awaits.contains id then p.answered id (m.dest.lands v 0 []) else p)
    (m.op = .query n gid → ∃ t, exec (.barrierArrival id) s = .next t ∧ s.sameMem t ∧ t.barrier m.part n = b
      ∧ answered t (BitVec.ofNat 64 (b.arrived.toNat * 2 ^ 48 + b.e.toNat * 2 ^ 32 + b.phase.toNat)))
    ∧ (m.op = .barrier n w gang gid cyc →
      let ph : BitVec 32 := w.setWidth 32
      let e := if bitsOf w.toNat 32 9 = 0 then gang else bitsOf w.toNat 32 9
      let malformed := bitsOf w.toNat 41 7 ≠ 0 ∨ bitsOf w.toNat 57 7 ≠ 0 ∨ 320 < e
      let counted := BitVec.ofNat 64 (b.arrived.toNat * 2 ^ 48 + e * 2 ^ 32 + (ph + 1).toNat)
      let fails := ∃ t, exec (.barrierArrival id) s = .next t ∧ s.sameMem t ∧ t.barrier m.part n = b
        ∧ (gid = 0 ∨ m.waits = false → t.msg id = some { m with st := .failed tBOVER })
        ∧ (gid ≠ 0 → m.waits = true → t.msg id = none)
      (malformed → fails)
      ∧ (¬ malformed → ph ≠ b.phase + 1 → ph ≠ b.phase → fails)
      ∧ (¬ malformed → ph = b.phase → b.arrived ≠ 0 → b.e.toNat ≠ e → fails)
      ∧ (¬ malformed → ph = b.phase → b.due ≠ none → fails)
      ∧ (¬ malformed → ph = b.phase + 1 → ∃ t, exec (.barrierArrival id) s = .next t
          ∧ t.msg id = some { m with st := .waiting s.gcyc } ∧ t.barrier m.part n = { b with held := b.held ++ [id] })
      ∧ (¬ malformed → ph = b.phase → b.due = none → (b.arrived = 0 ∨ b.e.toNat = e) → b.held = [] →
          ∃ t, exec (.barrierArrival id) s = .next t ∧ s.sameMem t ∧ answered t counted
            ∧ (b.arrived.toNat + 1 < e → (t.barrier m.part n).arrived = b.arrived + 1 ∧ (t.barrier m.part n).phase = b.phase
                ∧ (t.barrier m.part n).e.toNat = e)
            ∧ (b.arrived.toNat + 1 = e → gid = 0 → (t.barrier m.part n).arrived = 0 ∧ (t.barrier m.part n).phase = b.phase + 1)
            -- a phase of one timed domain's arrivals completes 24 cycles after the last of them (R287)
            ∧ (b.arrived.toNat + 1 = e → gid ≠ 0 → (∀ d ∈ b.doms, d.1 = gid) → (t.barrier m.part n).phase = b.phase
                ∧ ∃ last, (t.barrier m.part n).due = some (gid, last + 24) ∧ cyc ≤ last ∧ ∀ d ∈ b.doms, d.2 ≤ last))))
  ∧ (∀ (n bar : Nat) (w : BitVec 32) (s : State), (s.ctxOf n).barw = .frozen bar w →
      let o := s.barrier (s.ctxOf n).partN bar
      ((o.phase - w).toNat < 2 ^ 31 → s.mayAcquire n o.clock = true →
        exec (.barrierCompletionNotice n) s = .next ((s.modCtx n fun c => { c with barw := .idle }).mergeClock (dieOf n) o.clock))
      ∧ (2 ^ 31 ≤ (o.phase - w).toNat ∨ s.mayAcquire n o.clock = false → exec (.barrierCompletionNotice n) s = .next s))
  ∧ (∀ (p h node : Nat) (x : Placed) (s : State),
      (s.part p).sched.placed.find? (fun x => x.work.handle == h && x.work.node == node) = some x → s.stepReady p x.gid = true →
      ∃ t, exec (.stepCompletion p h node) s = .next t ∧ s.sameMem t
        ∧ ∀ k rd at_, k ∈ s.gangOn x.gid → (s.gangOn x.gid).count k = 1 → (s.ctxOf k).step = .waiting at_ rd →
          (t.ctxOf k).step = .idle ∧ (t.ctxOf k).steps = (s.ctxOf k).steps + 1
          ∧ (t.ctxOf k).regs = (s.ctxOf k).regs.wx rd (BitVec.ofNat 64 (((s.ctxOf k).steps + 1) % 2 ^ 32)))

/-- R68, R70, R71, R72 and R334: words that act on the header and on the hold. -/
def Obligations.HeadersAndHolds : Prop :=
  (∀ (sl : Slot) (s : State), exec (.nop sl) s = .next s)
  ∧ (∀ (mark : Bool) (stamp : BitVec 16) (s : State),
      let late := stamp ≠ 0 ∧ stamp.toNat < s.c.ctl.sfc.toNat
      let marked := mark = true ∧ s.honoured s.cur = true
      let zeroed := s.modC fun c => { c with ppcount := 0 }
      (s.c.ctl.hmode = true → exec (.emptyBundle mark stamp) s = .next s)
      ∧ (s.c.ctl.hmode = false → ¬ late → ¬ marked → exec (.emptyBundle mark stamp) s = .next s)
      ∧ (s.c.ctl.hmode = false → ¬ late → marked → exec (.emptyBundle mark stamp) s = .next zeroed)
      ∧ (s.c.ctl.hmode = false → late → ¬ marked → exec (.emptyBundle mark stamp) s = .next (s.raiseFlags fOVR))
      ∧ (s.c.ctl.hmode = false → late → marked → exec (.emptyBundle mark stamp) s = .next (zeroed.raiseFlags fOVR)))
  ∧ (∀ (n : BitVec 3) (ga gb : BitVec 2) (maska maskb : BitVec 8) (s : State),
      exec (.bankLockPrefix n ga maska gb maskb) s =
        .next (s.modC fun c => { c with lock := some { left := n.toNat, ga := ga, maska := maska, gb := gb, maskb := maskb } }))
  ∧ (∀ (l : LockRun) (a : Nat),
      (a < 0x1000000 → (l.holds a 1 = true ↔
        (a / 2 ^ 22 = l.ga.toNat ∧ l.maska.getLsbD (a / 64 % 8) = true) ∨ (a / 2 ^ 22 = l.gb.toNat ∧ l.maskb.getLsbD (a / 64 % 8) = true)))
      ∧ (0x1000000 ≤ a → l.holds a 1 = false))
  ∧ (∀ (n : Nat) (l : LockRun) (s : State), (s.ctxOf n).lock = some l →
      ((s.lockTick n).ctxOf n).lock = if l.left ≤ 1 then none else some { l with left := l.left - 1 })

/-- R18, R33, R49, R283, R298, R320, R327, R339, R357, R382, R385 and R405: what reset leaves. These are
choices of the model (DESIGN CHOICE): GCYC 0 (log 4), the values of a task entry in a context at reset (log 3), a memory that
reads as zeros with no form bit and no poison (log 5), and translation units that hold nothing (log 6). -/
def Obligations.ResetState : Prop :=
  let s := State.reset
  (∀ n, (s.sp n).run = .empty ∧ (s.ctxOf n).ctl.hmode = false ∧ (s.ctxOf n).ctl.ppbound = 0x2000#16 ∧ (s.ctxOf n).ctl.fstat = 0
      ∧ (s.ctxOf n).ctl.fen = 0 ∧ (s.ctxOf n).trap = {} ∧ (∀ r, (s.ctxOf n).regs.rx r = 0 ∧ (s.ctxOf n).regs.ry r = 0)
      ∧ (∀ p, (s.ctxOf n).regs.rp p = (p == 0)))
  ∧ s.gcyc = 0 ∧ s.msgs = [] ∧ s.held = [] ∧ s.walks = [] ∧ s.cuts = [] ∧ s.inputs = [] ∧ s.agenda = [] ∧ s.mem = {}
  ∧ s.lease.holder = 0 ∧ s.lease.claim = 0 ∧ s.lease.standby = 0 ∧ s.lease.expired = false ∧ s.lease.window = 0x03E8#16
  ∧ s.lease.epoch = 0
  ∧ s.pf.premargin = 0x0040#16 ∧ s.pf.tick = 0x1000#16 ∧ s.pf.hcut = 0 ∧ s.pf.nmod = 1
  ∧ s.power.cap = 0x12C0#16 ∧ s.power.hyst = 0x00C8#16 ∧ s.power.step = 0 ∧ s.power.floor = false
  ∧ s.errors.ce = 0 ∧ s.errors.ue = 0 ∧ s.errors.fatal = false
  ∧ s.update.active = false ∧ s.update.phase = 0 ∧ s.update.rollback = false ∧ s.update.failcode = 0
  ∧ (∀ g, (s.gate g).valid = false ∧ (s.gate g).gcnt = 0)
  ∧ (∀ p b, (s.barrier p b).phase = 0 ∧ (s.barrier p b).arrived = 0)
  ∧ (∀ d n, n < 8 → (s.stand d).frzlim[n]? = some 0x01000000#32)
  ∧ (∀ p, (s.part p).cfg = {} ∧ (s.part p).host.xinv = false)
  ∧ s.sound

/-- R63, R67, R68 and R76: from the words at the program counter to the instructions that run. R375: a register write comes before a
message of its count. That events of the agenda come first, then inputs whose count has come, then what is offered and the turn of
the next spindle, is the model's order (log 2, DESIGN CHOICE). -/
def Obligations.StepRunsTheDecodedInstruction : Prop :=
  (∀ (e : Ev) (es : List Ev) (s : State), s.agenda = e :: es → step s = e.run { s with agenda := es })
  ∧ (∀ (t : Nat) (i : Instr) (rest : List (Nat × Instr)) (s : State), s.agenda = [] → s.inputs = (t, i) :: rest → t ≤ s.gcyc →
      ((isMessage i = false ∨ ∀ x ∈ rest, ¬ (x.1 = t ∧ isRegWrite x.2 = true)) →
        (hostOp i = none → s.inputWaits i = false → step s = exec i { s with inputs := rest })
        ∧ (∀ p b, hostOp i = some (p, b) → s.hostInOrder p b = true → s.offers = [] → step s = exec i { s with inputs := rest }))
      ∧ (∀ pre post y, isMessage i = true → rest = pre ++ (t, y) :: post → isRegWrite y = true →
          (∀ x ∈ pre, ¬ (x.1 = t ∧ isRegWrite x.2 = true)) → step s = exec y { s with inputs := (t, i) :: pre ++ post }))
  ∧ (∀ s : State, s.agenda = [] → (∀ x ∈ s.inputs, s.gcyc < x.1) → s.offersNow = [] → step s = turnStep s)
  ∧ (∀ (n : Nat) (f : Fetched) (s : State), s.agenda = [] → (∀ x ∈ s.inputs, s.gcyc < x.1) → s.offersNow = [] →
      s.phase = .turns → s.turn = n → n < 320 → s.watchdogDue n = false → s.cutNow n = none → s.groupOf n = [n] → s.stopped = false →
      (s.clockTick n [n]).1 = true → (s.sp n).run = .running →
      let u := (s.clockTick n [n]).2.landEstimate n
      u.handles n = false → (u.sp n).run = .running → (u.cutDue n && u.txBusy n) = false →
      let v := (u.boundsExpire n).stepExpire [n]
      v.captureDue n = false → v.lateKinds n = [] → (v.domMisses [n]).1 = false → ((v.domMisses [n]).2.cycleMisses [n]).1 = false →
      let o := v.openCycle [n]
      (o.actOf n).1 = .go f →
      ((∀ d ∈ (v.ctxOf n).domOps, d.applyIn ≠ 0) →
        step s = thenDo (issueBundle n f (o.actOf n).2) fun t => .next (t.landFlags n).nextTurn)
      -- fixed-time writes of the cycle come before its words, and what is read at a fixed time is read after them (R259, R292)
      ∧ (¬ (∀ d ∈ (v.ctxOf n).domOps, d.applyIn ≠ 0) →
        let holds := newHolds (o.actOf n).2 [(n, .go f)]
        let w := (v.domWrites holds [n]).openCycle [n]
        ∀ f', (w.actOf n).1 = .go f' →
          step s = thenDo (issueBundle n f' (w.actOf n).2) fun t => .next ((t.domLoads holds (v.domDue [n]) [n]).landFlags n).nextTurn))
  ∧ (∀ (n : Nat) (f : Fetched) (sl : Slot) (i : Instr) (s : State), f.lock = none → f.words = [(sl, i)] →
      let t := { s with cur := n }.modCtx n fun c => { c with bun := f.bun }
      issueBundle n f s = thenDo (exec i (t.headerEffect f.h.mark f.h.stamp)) fun u => .next (u.bundleDone n f (s.ctxOf n).ctl.hmode))
  ∧ (∀ (n : Nat) (f : Fetched) (s : State),
      let t := { s with cur := n }.modCtx n fun c => { c with bun := f.bun }
      let hdr := fun (u : State) => if f.words.isEmpty then exec (.emptyBundle f.h.mark f.h.stamp) u else .next (u.headerEffect f.h.mark f.h.stamp)
      issueBundle n f s = thenDo (execWords f.lock.toList t) fun u => thenDo (hdr u) fun u =>
        thenDo (execWords (f.words.map Prod.snd) u) fun u => .next (u.bundleDone n f (s.ctxOf n).ctl.hmode))
  ∧ (∀ (i : Instr) (is : List Instr) (s : State),
      execWords (i :: is) s = thenDo (exec i s) (execWords is) ∧ execWords [] s = .next s)
  ∧ (∀ (n : Nat) (sl : Slot) (i : Instr) (hw w : BitVec 32) (s : State),
      let a := (s.ctxOf n).pc.toNat
      s.codeWord n a = hw → s.codeWord n (a + 1) = w → hw = BitVec.ofNat 32 (Slot.maskBit sl * 2 ^ 19) →
      s.headBit n a = true → s.headBit n (a + 1) = false → a + 2 ≤ s.codeWords n →
      s.missingOf n (s.codeBlocks n a) = [] → s.unverified n a = [] → (s.ctxOf n).ctl.hmode = false →
      decodeAt (.slot sl) w = .ok i → s.permitted n (hdrOf hw) [] i = none →
      s.fetch n = .ok { start := a, hdr := a, h := hdrOf hw, lock := none, words := [(sl, i)], lits := [] })

/-- R67, R68 and R108 to R132: the plain words of SX and SY complete. Each conclusion is the word's own effect on the
state, with nothing but the value left to the statements of the results; the hypotheses are on the state and the operands
alone. -/
def Obligations.PlainWordsComplete : Prop :=
  (∀ (sl : Slot) (s : State), exec (.nop sl) s = .next s)
  ∧ (∀ (mark : Bool) (stamp : BitVec 16) (s : State),
      s.c.ctl.hmode = true ∨ (stamp = 0 ∨ s.c.ctl.sfc.toNat ≤ stamp.toNat) ∧ (mark = false ∨ s.honoured s.cur = false) →
      exec (.emptyBundle mark stamp) s = .next s)
  ∧ (∀ (n : BitVec 3) (ga gb : BitVec 2) (maska maskb : BitVec 8) (s : State),
      ∃ l : LockRun, l.left = n.toNat ∧ exec (.bankLockPrefix n ga maska gb maskb) s = .next (s.modC fun c => { c with lock := some l }))
  ∧ (∀ (cl : Cluster) (rd ra rb : BitVec 5) (bk : BitVec 2) (pd pa pb pk cond : BitVec 3) (cond5 : BitVec 5) (imm : BitVec 12)
      (i11 : BitVec 11) (sh : BitVec 6) (i20 : BitVec 20) (num : BitVec 2) (idx : BitVec 8) (cr : BitVec 16) (g : BitVec 4) (s : State),
      let puts := fun (i : Instr) (lat : Nat) => ∃ v, exec i s = .next (s.pend lat [landReg cl rd v])
      let sets := fun (i : Instr) => ∃ b, exec i s = .next (s.pend 1 [.p pd b])
      (s.acts g (regBlock cl :: bkBlocks bk) →
        (∀ i ∈ [Instr.add cl rd ra rb bk g, .sub cl rd ra rb bk g, .and cl rd ra rb bk g, .or cl rd ra rb bk g,
            .xor cl rd ra rb bk g, .andn cl rd ra rb bk g, .sll cl rd ra rb bk g, .srl cl rd ra rb bk g, .sra cl rd ra rb bk g,
            .slt cl rd ra rb bk g, .sltu cl rd ra rb bk g, .min cl rd ra rb bk g, .max cl rd ra rb bk g, .minu cl rd ra rb bk g,
            .maxu cl rd ra rb bk g, .addw cl rd ra rb bk g, .subw cl rd ra rb bk g, .sllw cl rd ra rb bk g,
            .srlw cl rd ra rb bk g, .sraw cl rd ra rb bk g, .hash cl rd ra rb bk g], puts i 1)
        ∧ (∀ i ∈ [Instr.mul cl rd ra rb bk g, .mulh cl rd ra rb bk g, .mulhu cl rd ra rb bk g, .mulw cl rd ra rb bk g], puts i 3)
        ∧ (cl = .y → ∀ i ∈ [Instr.div rd ra rb bk g, .divu rd ra rb bk g, .rem rd ra rb bk g, .remu rd ra rb bk g], puts i 14))
      ∧ (s.acts g [regBlock cl] →
        ∀ i ∈ [Instr.clz cl rd ra g, .popc cl rd ra g, .addi cl rd ra imm g, .andi cl rd ra imm g, .ori cl rd ra imm g,
            .xori cl rd ra imm g, .slli cl rd ra sh g, .srli cl rd ra sh g, .srai cl rd ra sh g, .slti cl rd ra imm g,
            .acvtGen2loc cl rd ra g, .acvtGen2shr cl rd ra g, .acvtGen2clu cl rd ra g, .acvtLoc2gen cl rd ra g,
            .acvtShr2gen cl rd ra g, .acvtClu2gen cl rd ra g], puts i 1)
      ∧ (s.there [regBlock cl] → ∀ i ∈ [Instr.limm cl rd i20, .limmh cl rd i20, .fimm cl rd i20, .lit cl rd num, .litS cl rd num,
            .litD cl rd num], puts i 1)
      ∧ (s.there [regBlock cl, 5] → puts (.kld cl rd idx) 1)
      ∧ (s.acts g (regBlock cl :: 2 :: bkBlocks bk) →
          puts (.sel cl rd ra rb bk pk g) 1 ∧ (cond5.toNat ≤ 5 → sets (.pcmp cl pd ra rb bk cond5 g)))
      ∧ (s.acts g [regBlock cl, 2] → (cond.toNat ≤ 5 → sets (.pcmpi cl pd cond ra i11 g))
          ∧ (cond5.toNat ≤ 4 → sets (.atest cl pd ra cond5 g)))
      ∧ (s.acts g [2] → ∀ i ∈ [Instr.pand cl pd pa pb g, .por cl pd pa pb g, .pxor cl pd pa pb g, .pandn cl pd pa pb g], sets i)
      ∧ (s.acts g [0, 1] → puts (.xmov cl rd ra g) 2)
      ∧ (cr.toNat ≤ 0x00E → s.c.ctl.det = false → s.there [regBlock cl, 2] →
          puts (.crd cl rd cr) 2 ∧ (1 ≤ cr.toNat → cr.toNat ≤ 7 → exec (.cwr cl ra cr) s = .next (s.pend 1 [.creg cr (s.c.rd cl ra)]))))
  ∧ (∀ (off : BitVec 22) (ra xc : BitVec 5) (o12 code : BitVec 12) (lc : BitVec 2) (sm1 : BitVec 3) (off15 : BitVec 15)
      (count off10 : BitVec 10) (g : BitVec 4) (s : State),
      let marks := fun (i : Instr) => ∃ b : Bun, b.start = s.c.bun.start ∧ b.hdr = s.c.bun.hdr
        ∧ exec i s = .next (s.modC fun c => { c with bun := b })
      (s.acts g [] → marks (.br off g) ∧ exec (.tend g) s = .next (s.modC fun c => { c with inTend := true }))
      ∧ (s.acts g [0] → marks (.jr ra o12 g) ∧ marks (.ret g)
          ∧ ∃ (b : Bun) (v : Word), exec (.call off g) s = .next ((s.pend 1 [.x 31 v]).modC fun c => { c with bun := b }))
      ∧ (s.acts g [2] → marks (.lbrk g) ∧ marks (.sysc code g) ∧ marks (.esc code g))
      ∧ ((∀ j : Fin 4, s.c.regs.lc[j].active = false) →
          (s.there [0, 2] → (s.c.regs.rx xc).toNat < 0x7FFFF8 → marks (.loop lc sm1 xc off15) ∧ marks (.loopR lc sm1 xc off15))
          ∧ (s.there [2] → marks (.loopi lc sm1 count off10) ∧ marks (.loopiR lc sm1 count off10))))

/-- R67, R70 and R80 to R90: a few words, as the tables of the spec lay them out. -/
def Obligations.DecodedWords : Prop :=
  let is := fun (pl : Sys2Proof.Place) (w : BitVec 32) (i : Instr) => (decodeAt pl w).toOption = some i
  is (.start) 0x290F0000#32 (.bankLockPrefix 2 1 0x0F 0 0)
  ∧ is (.start) 0x10000005#32 (.emptyBundle true 5)
  ∧ is (.slot .sx) 0x04C52800#32 (.add .x 6 5 5 0 0)
  ∧ is (.slot .sx) 0x0CE72000#32 (.addi .x 7 7 0x200 0)
  ∧ is (.slot .sx) 0x3D22FFD0#32 (.pcmpi .x 2 2 5 (-3) 0)
  ∧ is (.slot .sx) 0x880000A0#32 (.call 10 0)
  ∧ is (.slot .sx) 0x94D00806#32 (.loopiR 0 5 2 6)
  ∧ is (.slot .sx) 0xC5068000#32 (.tjoinW 8 6 0)
  ∧ is (.slot .sx) 0xEC000040#32 (.fence 4 0)
  ∧ is (.slot .sx) 0xB4000000#32 (.rfe)
  ∧ is (.slot .sx) 0xF0C70000#32 (.cut 6 7 0)
  ∧ is (.slot .sy) 0x50000003#32 (.cwr .y 0 3)
  ∧ is (.slot .sy) 0x648531EA#32 (.fma .y 4 5 6 7 true false true 1)
  ∧ is (.slot .ls) 0x10628000#32 (.ldd 6 5 0 0)
  ∧ is (.slot .ls) 0x40648810#32 (.aintAddD 6 9 4 false 0)
  ∧ is (.slot .ls) 0x68010208#32 (.badvP 1 2 0)
  ∧ is (.slot .vx) 0x14308E08#32 (.vfmac 3 2 14 0 false false true 0)
  ∧ is (.slot .vx) 0x0708C104#32 (.vadd 48 35 1 0 false false false 4)
  ∧ is (.slot .mx) 0x08000003#32 (.mzero 3)
  ∧ is (.slot .cp) 0x1C000001#32 (.cwait 1)
  ∧ is (.slot .cy) 0x0C000000#32 (.ywait)
  ∧ (∀ sl : Slot, is (.slot sl) 0#32 (.nop sl))

/-- R67, R70 and R80 to R90: no bit of an encoding is dropped, for every instruction and all its operands. -/
def Obligations.EncodeDecode : Prop :=
  ∀ (i : Instr) (pl : Sys2Proof.Place), i.place = some pl → i.wf = true → decodeAt pl (encode i) = .ok i

/-- R335, R336 and R340 to R345: how a context stops and leaves its spindle. The place of PPBOUND, after what freezes the bundle
and after pending notices, is the model's reading (log 52, DEDUCED). -/
def Obligations.CaptureEvents : Prop :=
  (∀ (n : Nat) (k : Cut) (s : State),
    (s.cuts.find? fun k => k.spins.contains n && decide (k.c ≤ s.gcyc)) = some k → s.cutFits k n = true →
    (s.sp n).run = .running → s.groupOf n = [n] →
    let c := s.ctxOf n
    (s.txBusy n = true → exec (.cutStop n) s = .next s)
    ∧ (s.txBusy n = false → k.kind ≠ 3 →
        -- the results that are due at the captured SFC are written first (R342)
        let u := s.cutReached k [n]
        let d := if s.missingOf n c.landBlocks = [] then u.landDue n else u
        ∃ t, exec (.cutStop n) s = .next t ∧ (t.sp n).run = .captured k.kind k.why k.c none
          ∧ (t.ctxOf n).pc = c.pc ∧ (t.ctxOf n).lock = none
          ∧ (c.eng.cipher = none → (∀ m, m ≠ n → t.ctxOf m = s.ctxOf m)
              ∧ d.sameMem t ∧ (t.ctxOf n).sameRegs (d.ctxOf n) ∧ (t.ctxOf n).pipe = (d.ctxOf n).pipe
              ∧ (t.ctxOf n).hpipe = (d.ctxOf n).hpipe ∧ (t.ctxOf n).notices = (d.ctxOf n).notices)
          ∧ (c.eng.cipher = none → (∀ p ∈ c.pipe ++ c.hpipe, p.left ≠ 0 ∨ p.await ≠ none) →
              s.sameMem t ∧ (t.ctxOf n).sameRegs c ∧ (t.ctxOf n).pipe = c.pipe ∧ (t.ctxOf n).hpipe = c.hpipe
                ∧ (t.ctxOf n).notices = c.notices))
    ∧ (s.txBusy n = false → k.kind = 3 → c.ctl.hmode = false →
        ∃ t, exec (.cutStop n) s = .next t ∧ (t.sp n).run = .captured 3 k.why k.c none ∧ (t.ctxOf n).regs = c.regs
          ∧ (t.ctxOf n).trap.tcause.toNat = tCUT ∧ (t.ctxOf n).trap.tval = BitVec.ofNat 64 k.c
          ∧ (t.ctxOf n).trap.tepc = c.pc.setWidth 16))
  ∧ (∀ (n kind why cnt : Nat) (was : Option Bool) (s : State), (s.sp n).run = .captured kind why cnt was → s.quiet n = true →
      let p := (s.ctxOf n).partN
      (kind = 0 → ∃ t, exec (.quiescence n) s = .next t ∧ s.sameMem t ∧ (t.sp n).run = .empty
          ∧ (∃ u ∈ (t.part p).sched.susp, u.spin = n ∧ u.why = why ∧ u.sp.ctx = s.ctxOf n
              ∧ u.sp.run = (match was with | some v => .held v | none => .running))
          ∧ ∀ b, b < 310 → (∀ x ∈ (s.sp n).absent, x.1 ≠ b) → (∀ x ∈ (s.sp n).owed, x.1 ≠ b) → (b, (s.ctxOf n).id) ∈ (t.sp n).owed)
      -- a task that is ended waits for what it has sent (R278, R343)
      ∧ (kind = 2 → (s.underWay (fun m => m.ctx == (s.ctxOf n).id) = true → exec (.quiescence n) s = .next s)
          ∧ (s.underWay (fun m => m.ctx == (s.ctxOf n).id) = false → ∃ t, exec (.quiescence n) s = .next t ∧ (t.sp n).run = .empty))
      ∧ (kind = 1 → ∀ slot u, s.freeSlot p = some slot → s.unitOf (s.ctxOf n) = some u → s.nodeFailed (s.ctxOf n) = false →
          u.work.job = none →
          ∃ t i, exec (.quiescence n) s = .next t ∧ (t.sp n).run = .empty
            ∧ tfind slot (t.part p).sched.images = some i ∧ i.ctx = s.ctxOf n ∧ i.kind = 1 ∧ i.c = cnt ∧ i.was = was ∧ i.spin = n
            ∧ i.charged = (s.sp n).charged ∧ i.firstIssue = (s.sp n).firstIssue ∧ i.rev = s.sec.rev ∧ i.state = 0
            -- the image stands in its slot, and no other byte of memory changes
            ∧ (s.sound → t.mem.read (s.slotAddr p slot) 2544 = i.head p)
            ∧ (s.sound → (∀ x ∈ (s.sp n).absent, x.1 < 310) → (s.ctxOf n).eng.ownPool n = [] →
                ∀ a, a < s.slotAddr p slot ∨ s.slotAddr p slot + 0x1800000 ≤ a → cellGet t.mem.cells a = cellGet s.mem.cells a))
      ∧ (kind = 3 → exec (.quiescence n) s = .next s))
  ∧ (∀ (n : Nat) (s : State),
      let c := s.ctxOf n
      ((s.actOf n).1 = .expire → exec (.ppboundCountExpiry n) s =
          .next ((s.modCtx n fun c => { c with ppcount := 0, unfused := some c.pc }).takeTrap n
            { code := tPPBOUND, slot := 7, val := c.ppcount.setWidth 64, epc := c.pc.setWidth 16 }))
      ∧ ((s.actOf n).1 = .capture →
          -- at a mark, TEPC of the image is the start of the marked bundle (R336)
          let u := if c.ckptDue then s else s.modCtx n fun c => { c with trap := { c.trap with tepc := c.pc.setWidth 16 } }
          exec (.ppboundCountExpiry n) s = .next (u.stopAs n 1 4 s.gcyc)
          ∧ ((u.stopAs n 1 4 s.gcyc).sp n).run = .captured 1 4 s.gcyc none)
      ∧ ((s.sp n).run = .running → c.ctl.hmode = false →
          -- after a transaction that the task waits for, as a cut would be (R46, R336)
          (s.txBusy n = false → c.ckpt = true → c.ctl.ppbound.toNat ≤ c.ppcount.toNat → (s.actOf n).1 = .capture)
          ∧ (c.ckpt = false → c.inTend = false → { s with cur := n }.mxStalls n = false → { s with cur := n }.postWait n = none →
              c.notices = [] → c.ctl.ppbound.toNat < c.ppcount.toNat → (s.actOf n).1 = .expire)))

/-- R18, R21, R344, R345, R347 and R349 to R351: pulls, write-outs, images and the entry of a task. That a pull gives the bytes
of the record that is kept beside the slot is the model's choice (log 27, DESIGN CHOICE), and so is which errors of the slot a
pull meets (log 53, DEDUCED). -/
def Obligations.ImageEvents : Prop :=
  (∀ (n b : Nat) (src : BlockSrc) (s : State), s.sound → ((s.sp n).absent.find? fun x => x.1 == b) = some (b, src) →
    ((s.sp n).owed.any fun x => x.1 == b && x.2 != (s.ctxOf n).id) = false → b < 294 →
    let key := blockKey (s.ctxOf n).eng.bmap n b
    let saved := tget {} b (s.sp n).saved
    -- an uncorrectable error that the pull meets escalates MEMERR and kills the task (R347)
    (∀ a, s.pullError n b = some a → exec (.blockPullComplete n b) s = .next
      ((s.escalate n { code := tMEMERR, slot := 7, val := a, epc := (s.ctxOf n).pc.setWidth 16 }).killTask n))
    ∧ (s.pullError n b = none → ∃ t, exec (.blockPullComplete n b) s = .next t ∧ (t.sp n).absent = (s.sp n).absent.filter (fun x => x.1 != b)
      ∧ b ∉ (t.sp n).want ∧ (src ≠ .segment → t.ctxOf n = s.ctxOf n)
      ∧ (src = .segment → ∀ g, s.segOf n = some g → ∀ i : Fin 256, (t.ctxOf n).regs.k[i] = g.cbank.getD i.val 0)
      ∧ (6 ≤ b → (∀ x ∈ saved.bytes, x.1 < 65536) → (∀ a, a < key ∨ key + 65536 ≤ a → cellGet t.mem.cells a = cellGet s.mem.cells a)
          ∧ (src = .zero → ∀ i, i < 65536 → cellGet t.mem.cells (key + i) = 0)
          ∧ (src = .image → cellsWf saved.bytes = true →
              ∀ i, i < 65536 → cellGet t.mem.cells (key + i) = cellGet saved.bytes i))
      ∧ (b < 6 → b ≠ 3 → s.sameMem t)))
  ∧ (∀ (n b id : Nat) (s : State), ((s.sp n).owed.find? fun x => x.1 == b) = some (b, id) →
      ∃ t, exec (.owedBlockWriteout n b) s = .next t ∧ (b, id) ∉ (t.sp n).owed ∧ t.ctxOf n = s.ctxOf n
        ∧ (s.sound → b < 310 → s.poolFree → s.onlySlots t)
        ∧ ∀ p slot i, tfind slot (s.part p).sched.images = some i → i.ctx.id = id → i.state = 0 →
            ∃ i', tfind slot (t.part p).sched.images = some i' ∧ i'.ctx = i.ctx
              ∧ (i'.dir.filter fun x => x.1 == b) = [(b, savedSrc i'.ctx i'.blocks b)])
  ∧ (∀ (n p slot : Nat) (i : Image) (s : State), s.drainNext n = none → s.wholeOn n = [(p, slot)] →
      tfind slot (s.part p).sched.images = some i →
      ∃ t i', exec (.imageDrainBlock n) s = .next t
        ∧ tfind slot (t.part p).sched.images = some i' ∧ i' = { i with state := 1, written := i'.written }
        ∧ (s.sound → t.mem.read (s.slotAddr p slot) 2544 = { i with state := 1 }.head p
            ∧ ∀ a, a < s.slotAddr p slot ∨ s.slotAddr p slot + 2544 ≤ a → cellGet t.mem.cells a = cellGet s.mem.cells a)
        ∧ ∀ w, ((s.part p).sched.resting.find? fun w => w.images.contains slot) = some w →
            (∀ k ∈ w.images, k ≠ slot → ∀ j, tfind k (s.part p).sched.images = some j → j.state = 1) →
            { w with readyAt := s.gcyc } ∈ (t.part p).sched.ready)
  ∧ (∀ (n b : Nat) (s : State), s.drainNext n = some b →
      ∃ t id, exec (.imageDrainBlock n) s = .next t ∧ (s.sound → b < 310 → s.poolFree → s.onlySlots t)
        ∧ ((s.sp n).owed.find? fun x => x.1 == b) = some (b, id) ∧ (b, id) ∉ (t.sp n).owed)
  ∧ (∀ (n id : Nat) (nd : Node) (g : Segment) (s s' : State), (s.sp n).run = .loading →
      let c := s.ctxOf n
      s.nodeAt c.partN c.ident.handle.toNat c.ident.node.toNat = some nd →
      -- no other task of a FIXED gang is loaded with it (R290), and what its start acquires is applied (R265)
      s.loadSet n = [n] → (∀ q ∈ (s.part c.partN).sched.queue, q.2 ≠ c.gang) →
      (∀ gr, s.graph c.partN c.ident.handle.toNat = some gr → s.mayAcquire n (gr.startClock c.ident.node.toNat) = true) →
      s.segmentFor (standOf n) c.partN nd.seg = (some (some id), s') →
      ((s'.stand (standOf n)).segs.find? fun g => g.id == id) = some g →
      (nd.entry < g.code.length → g.heads.getD nd.entry false = true → (s'.sp n).image = none → (s'.sp n).run = .loading →
        ∃ t, exec (.segmentLoad n) s = .next t ∧ (t.sp n).run = .running
          ∧ let d := t.ctxOf n
            let q := (s'.ctxOf n).ident.t.toNat
            d.pc = BitVec.ofNat 64 nd.entry ∧ d.regs.rx 1 = BitVec.ofNat 64 (nd.i0 + q / nd.jcount)
            ∧ d.regs.rx 2 = BitVec.ofNat 64 (nd.j0 + q % nd.jcount) ∧ d.regs.rx 3 = nd.param
            ∧ d.regs.rx 4 = BitVec.ofNat 64 c.ident.node.toNat ∧ d.regs.rx 5 = BitVec.ofNat 64 q
            ∧ (∀ r : BitVec 5, 5 < r.toNat → d.regs.rx r = 0) ∧ (∀ r, d.regs.ry r = 0)
            ∧ (∀ r, d.regs.rp r = (r == 0)) ∧ d.regs.q = 0
            ∧ d.ctl.fixed = nd.fixed ∧ d.ctl.strict = nd.strict ∧ d.ctl.det = nd.det ∧ d.ctl.hmode = false
            ∧ d.ctl.seglo = g.seglo ∧ d.ctl.seghi = g.seghi ∧ d.ctl.estr = nd.estimate ∧ d.ctl.sfc = 0
            ∧ d.ctl.fstat = 0 ∧ d.ctl.fen = 0 ∧ d.ctl.vctl = 0 ∧ d.ctl.cbase = 0 ∧ d.ctl.vbase = 0 ∧ d.ctl.twist = 0
            ∧ d.ctl.fmtsel = 0 ∧ (∀ i : Fin 256, d.regs.k[i] = g.cbank.getD i.val 0))
      ∧ ((g.code.length ≤ nd.entry ∨ g.heads.getD nd.entry false = false) →
          ∃ t, exec (.segmentLoad n) s = .next t ∧ (t.sp n).run = .empty))

/-- R20, R22, R328, R329 and R332: translation units, invalidation, and code tags. -/
def Obligations.SupplyEvents : Prop :=
  (∀ (die p o : Nat) (w : Walk) (s : State),
    (s.walks.find? fun w => w.die == die && w.part == p && w.off == o / 65536 * 65536 && !w.failed) = some w →
    let page := o / 65536 * 65536
    (∀ l, s.walk p page = some l → leafSHP l.entry = false → exec (.translationWalkComplete die p o) s = .next { s with
        walks := s.walks.filter fun x => x != w
        held := s.held ++ [{ die := die, part := p, base := l.base, size := l.size, entry := l.entry, pinned := false }] })
    ∧ ((s.walk p page = none ∨ ∃ l, s.walk p page = some l ∧ leafSHP l.entry = true) →
        exec (.translationWalkComplete die p o) s = .next { s with
          walks := s.walks.map fun x => if x == w then { x with failed := true } else x }))
  ∧ (∀ (die p o : Nat) (s : State),
      (s.walks.find? fun w => w.die == die && w.part == p && w.off == o / 65536 * 65536 && !w.failed) = none →
      ∃ t, exec (.translationWalkComplete die p o) s = .next t ∧ t = { s with held := t.held }
        ∧ ∀ h, h ∈ t.held ↔ h ∈ s.held ∧ (h.pinned = true ∨ h.die ≠ die ∨ h.part ≠ p ∨ o < h.base ∨ h.base + h.size ≤ o))
  ∧ (∀ (p : Nat) (s : State), p < 64 → ∃ t, exec (.xinvWrite p true) s = .next t ∧ (t.part p).host.xinv = true
      ∧ t.held = s.held ∧ s.sameMem t ∧ ∀ n, t.ctxOf n = s.ctxOf n)
  ∧ (∀ (p : Nat) (s : State), (s.part p).host.xinv = true →
      ((∀ m ∈ s.msgs, s.translatedBy p m = true → m.isGoing = true →
          (∀ pa, m.loc ≠ .phys pa) ∧ (∀ a, m.loc ≠ .host a)) →
        ∃ t, exec (.invalidationComplete p) s = .next t ∧ (t.part p).host.xinv = false ∧ s.sameMem t
          ∧ (∀ w ∈ t.walks, w.part ≠ p) ∧ (∀ h ∈ t.held, h.part = p → h.pinned = true
              ∧ ∃ l ∈ s.leaves p, l.base = h.base ∧ l.size = h.size ∧ l.entry = h.entry ∧ leafPIN l.entry = true)
          ∧ (∀ h, h.part ≠ p → (h ∈ t.held ↔ h ∈ s.held)))
      ∧ (∀ m ∈ s.msgs, s.translatedBy p m = true → m.isGoing = true → (∃ op len, m.op = .load op len) → (∃ pa, m.loc = .phys pa) →
          exec (.invalidationComplete p) s = .next s))
  ∧ (∀ (n b : Nat) (g : Segment) (s : State), s.segOf n = some g →
      (b ∉ s.fetching n → exec (.codeTagCheck n b) s = .next s) ∧ (b ∈ s.fetching n →
      (s.tagRight g b = true → ∃ t, exec (.codeTagCheck n b) s = .next t ∧ s.sameMem t ∧ (∀ m, t.ctxOf m = s.ctxOf m)
        ∧ ∃ g', t.segOf n = some g' ∧ b ∈ g'.verified ∧ g'.code = g.code ∧ g'.heads = g.heads)
      -- a notice that is pending is raised first (R311)
      ∧ (s.tagRight g b = false → (s.ctxOf n).ctl.hmode = false → ∀ x r, pickNotice (s.ctxOf n).notices = some (x, r) →
          exec (.codeTagCheck n b) s = .next (s.raiseNotice n (x.trap ((s.ctxOf n).pc.setWidth 16))))
      ∧ (s.tagRight g b = false → (s.ctxOf n).ctl.hmode = true ∨ (s.ctxOf n).notices = [] →
          exec (.codeTagCheck n b) s = .next ((s.unfuse n).takeTrap n
            { code := tFETCHAUTH, slot := 7, val := (s.codeWord n (max (s.ctxOf n).pc.toNat (256 * b))).setWidth 64
              epc := (s.ctxOf n).pc.setWidth 16 }))))

/-- R26, R27, R52, R53, R55, R58, R377, R378 and R385: what the scheduler does at its counts, and the end of a task. That a task
being stopped keeps its tokens is the model's choice: log 48 (DESIGN CHOICE); what a release does with its job follows logs 12 and
35 (DEDUCED). -/
def Obligations.SchedulerEvents : Prop :=
  (∀ (p : Nat) (s : State),
    let due := (s.part p).sched.ticks + (if s.gcyc % s.pf.tick.toNat = 0 then 1 else 0)
    (due = 0 → exec (.tokenTick p) s = .next s)
    -- the switch of an update holds the tick back (R385)
    ∧ (due ≠ 0 → s.update.switching = true → exec (.tokenTick p) s = .next (s.modSched p fun d => { d with ticks := due }))
    ∧ (due ≠ 0 → s.update.switching = false → (s.part p).sched.susp = [] → (s.part p).sched.queue = [] →
        exec (.tokenTick p) s = .next (((List.range due).foldl (fun s _ => s.tickTokens p)
          (s.modSched p fun d => { d with ticks := 0 })).schedDue p)))
  ∧ (∀ (p : Nat) (s : State),
      let d := (s.part p).sched
      let e := ((s.tickTokens p).part p).sched
      e.ready = d.ready.map (fun w => { w with tokens := min 65535 (w.tokens + 1) })
      ∧ e.placed = (d.placed.map fun u =>
          if s.unitAway p u then u else { u with work := { u.work with tokens := u.work.tokens - 1 } })
      -- R52 with R53 and R55: a task that is suspended, is being suspended or saved, or waits behind an earlier job keeps its tokens
      ∧ ∀ u, s.unitAway p u = true ↔ ∀ n ∈ u.left, (∃ x ∈ d.susp, x.spin = n ∧ u.holds x.sp.ctx = true)
          ∨ (u.holds (s.ctxOf n) = true ∧ ∃ kind why c was, kind ≤ 1 ∧ (s.sp n).run = .captured kind why c was) ∨ (n, u.gid) ∈ d.queue)
  ∧ (∀ (p a : Nat) (k : Contract) (s : State), s.contract p a = some k →
      let d := (s.part p).sched
      let due := k.releaseOf k.released ≤ s.gcyc ∧ (k.jobs = 0 ∨ k.released < k.jobs + k.idle)
      let away := k.running.isSome = true ∨ d.paused = true ∨ d.evicted = true ∨ (s.part p).trust.scrub = true
      (¬ due ∨ s.update.switching = true → exec (.contractRelease p a) s = .next s)
      ∧ (s.update.switching = false → due → away → (k.jobs = 0 ∨ k.jobsDone + 1 < k.jobs) → ∃ t, exec (.contractRelease p a) s = .next t
          ∧ t.contract p a = some { k with released := k.released + 1, jobsDone := k.jobsDone + 1, misses := k.misses + 1 })
      ∧ (s.update.switching = false → due → ¬ away → s.contractNode p a = none → ∃ t, exec (.contractRelease p a) s = .next t
          ∧ t.contract p a = some { k with released := k.released + 1, idle := k.idle + 1 })
      ∧ (s.update.switching = false → due → ¬ away → ∀ h i nd, s.contractNode p a = some (h, i) → s.nodeAt p h i = some nd →
          ∃ t u, exec (.contractRelease p a) s = .next t
            ∧ t.contract p a = some { k with released := k.released + 1, running := some (k.released, false) }
            ∧ u ∈ (t.part p).sched.placed ∧ u.work.job = some a ∧ u.work.handle = h ∧ u.work.node = i ∧ u.spins = k.bound
            ∧ (∀ n ∈ k.bound, (n, u.gid) ∈ (t.part p).sched.queue) ∧ (t.part p).sched.stepDue = true)
      ∧ (∀ i, k.running = some (i, false) → s.exhausted p k = true → ∃ t, exec (.budgetExhausted p a) s = .next t
          ∧ t.contract p a = some { k with running := some (i, true), overruns := k.overruns + 1 })
      ∧ ((∀ i, k.running ≠ some (i, false)) ∨ s.exhausted p k = false → exec (.budgetExhausted p a) s = .next s))
  ∧ (∀ (n lim : Nat) (u : Placed) (s : State), s.unitOf (s.ctxOf n) = some u → u.victim = .drain lim →
      let p := (s.ctxOf n).partN
      (s.gcyc < lim → exec (.drainLimitExpiry n) s = .next s)
      ∧ (lim ≤ s.gcyc → ∃ t, exec (.drainLimitExpiry n) s = .next t ∧ s.sameMem t
          ∧ { u with victim := .drained } ∈ (t.part p).sched.placed ∧ (t.part p).sched.stepDue = true))
  ∧ (∀ (n : Nat) (s : State),
      let c := s.ctxOf n
      let meets := c.inTend = true ∧ s.tendDone n = true ∧ (s.sp n).run = .running ∧ s.update.switching = false
      (¬ meets → exec (.taskRetirement n) s = .next s)
      ∧ (meets → ∃ t, exec (.taskRetirement n) s = .next t ∧ (t.sp n).run = .empty
          ∧ ∀ g, c.ident.handle ≠ 0 → s.graph c.partN c.ident.handle.toNat = some g →
              ∃ g', t.graph c.partN c.ident.handle.toNat = some g' ∧ g'.done = g.done + 1))

/-- R25, R28, R37, R40, R42, R43, R45, R46 and R337 to R339: transactions as they commit. That ADMIT and ADMIT.X of a record on
a page that cannot be translated give 3 is the model's choice (log 48, DESIGN CHOICE). -/
def Obligations.TransactionEvents : Prop :=
  (∀ (p ctx n : Nat) (rd : BitVec 5) (v x : Word) (s : State), s.whereIs ctx = some n → (s.ctxOf n).tx = .waiting rd →
    (s.txValue p ctx v) = s.modCtx n (fun c => { c with regs := c.regs.wx rd v, tx := .idle })
    ∧ (s.txError p ctx x) = s.modCtx n (fun c => { c with
        tx := .idle
        notices := c.notices ++ [{ code := tMEMERR, slot := 0, val := c.unshared x, epc := some (c.pc.setWidth 16), at_ := s.gcyc }] }))
  ∧ (∀ (p n : Nat) (t : Tx) (s : State), s.nextTx p = some t → s.whereIs t.ctx = some n →
    let c := s.ctxOf n
    let run := fun (u : State) => exec (.schedulerTransactionCommit p) s = .next u
    let ends := fun (u : State) (v : Word) => run ((u.dropTx p t).txValue p t.ctx v)
    (∀ h, t.kind = .join h → (s.liveHandle p h.toNat = none → ends s 0xFFFFFFFFFFFFFFFF)
      ∧ (∀ g, s.liveHandle p h.toNat = some g → g.status ≠ 0 →
          ((s.part p).sched.txq.filter fun x => x.kind.handle == some h.toNat) = [t] →
          -- the die of the joiner acquires what the graph's tasks released (R265)
          let u := if g.endClock = [] then s.dropTx p t else (s.dropTx p t).mergeClock (dieOf n) g.endClock
          run ((u.txValue p t.ctx (g.status.setWidth 64)).modSched p fun d => { d with graphs := tdel h.toNat d.graphs })))
    ∧ (∀ h m, t.kind = .poll h m →
        (s.liveHandle p h.toNat = none → run ((s.dropTx p t).answer m 0xFFFFFFFFFFFFFFFF 0 [] 0 []))
        ∧ (∀ g, s.liveHandle p h.toNat = some g → g.status = 0 → run ((s.dropTx p t).answer m 0 0 [] 0 []))
        ∧ (∀ g, s.liveHandle p h.toNat = some g → g.status ≠ 0 →
            ((s.part p).sched.txq.filter fun x => x.kind.handle == some h.toNat) = [t] →
            run (((s.dropTx p t).answer m (g.status.setWidth 64) 0 [] 0 g.endClock).modSched p fun d =>
              { d with graphs := tdel h.toNat d.graphs })))
    ∧ (∀ a s', t.kind = .launch a →
        (s.readGraph p c.shared a = (.malformed, s') → ends s' 0x8000000000000001)
        ∧ (∀ x k, s.readGraph p c.shared a = (.err (.err x k), s') → run ((s'.dropTx p t).txError p t.ctx x))
        ∧ (∀ g, s.readGraph p c.shared a = (.ok g, s') →
            (s'.freeHandle p = none → ends s' 0x8000000000000002)
            ∧ (∀ h, s'.freeHandle p = some h →
                run (((s'.dropTx p t).acceptGraph p h g t.clock).txValue p t.ctx (BitVec.ofNat 64 h)))))
    ∧ (∀ a, (t.kind = .admitC a ∨ t.kind = .withdraw a) → s.recordAddr p (c.shared a) = false → ends s 3)
    ∧ (∀ a, t.kind = .cut a → s.recordAddr p (c.shared a) = false → ends s 2)
    -- a page that cannot be translated: the model's choice for ADMIT and ADMIT.X (log 48, DESIGN CHOICE)
    ∧ (∀ a s', s.recordAddr p (c.shared a) = true → s.readRecord p (c.shared a).toNat 64 = (.unmapped, s') →
        (t.kind = .admitC a ∨ t.kind = .withdraw a → ends s' 3) ∧ (t.kind = .cut a → ends s' 2))
    ∧ (∀ a x k s', (t.kind = .withdraw a ∨ t.kind = .admitC a ∨ t.kind = .cut a) → s.recordAddr p (c.shared a) = true →
        s.readRecord p (c.shared a).toNat 64 = (.err x k, s') → run ((s'.dropTx p t).txError p t.ctx x))
    ∧ (∀ a b s', t.kind = .admitC a → s.recordAddr p (c.shared a) = true →
        s.readRecord p (c.shared a).toNat 64 = (.ok b, s') →
        let k := contractOf (c.shared a) b
        let ns := (s'.psns p).filter (s'.passes p k)
        let bad := contractOk b = false ∨ fieldAt b 0x20 4 ≠ 0 ∨ k.first < s'.gcyc
        (bad → ends s' 3)
        ∧ (¬ bad → (s'.psns p).length < k.spindles → ends s' 2)
        ∧ (¬ bad → k.spindles ≤ (s'.psns p).length → ns.length < k.spindles → ends s' 1)
        ∧ (¬ bad → k.spindles ≤ (s'.psns p).length → k.spindles ≤ ns.length →
            let k' := { k with bound := ns.take k.spindles }
            ends ((s'.modSched p fun d => { d with contracts := d.contracts ++ [k'] }).writeContract p k' 1) 0))
    ∧ (∀ a b s', t.kind = .withdraw a → s.recordAddr p (c.shared a) = true →
        s.readRecord p (c.shared a).toNat 64 = (.ok b, s') →
        (reservedZero b = false ∨ fieldAt b 0x20 4 ≠ 1 → ends s' 3)
        ∧ (reservedZero b = true → fieldAt b 0x20 4 = 1 →
            ends ((s'.writeRecord p (c.shared a) 0x20 (bytesLE 3 4)).revoke p (c.shared a).toNat) 0))
    ∧ (∀ a b s', t.kind = .cut a → s.recordAddr p (c.shared a) = true →
        s.readRecord p (c.shared a).toNat 64 = (.ok b, s') →
        let m := maskBits b
        let ns := m.filterMap (s'.physOf p)
        let st := s'.cutStatus [p] (fieldAt b 0 8) (fieldAt b 8 1) ns
        let bad := cutOk b = false ∨ m = [] ∨ ∃ i ∈ m, (s'.psns p).length ≤ i
        (bad → ends s' 2)
        ∧ (¬ bad → st ≠ 0 → ends s' (BitVec.ofNat 64 st))
        ∧ (¬ bad → st = 0 → ∃ u, run u ∧ u = { (s'.dropTx p t).txValue p t.ctx 0 with
            cuts := s'.cuts ++ [{ c := fieldAt b 0 8, kind := fieldAt b 8 1, spins := ns, why := 1 }] })))
  ∧ (∀ (p : Nat) (s : State), s.nextTx p = none → exec (.schedulerTransactionCommit p) s = .next s)
  ∧ (∀ (v : Word) (s : State), exec (.hcut v) s = .next { s with pf := { s.pf with hcut := v, hcutBusy := true } })
  ∧ (∀ s : State,
      let a := s.pf.hcut.toNat
      let b := s.mem.read a 64
      let ns := (maskBits b).filter fun n => (s.ownerOf n).isSome
      let st := s.cutStatus ((ns.filterMap s.ownerOf).eraseDups) (fieldAt b 0 8) (fieldAt b 8 1) ns
      let done := fun (x : Nat) (cs : List Cut) => exec .hcutAccept s =
        .next { s with pf := { s.pf with hcutBusy := false, hcutStatus := BitVec.ofNat 2 x }, cuts := cs }
      (s.hcutReady = false → exec .hcutAccept s = .next s)
      ∧ (s.hcutReady = true → a % 64 ≠ 0 ∨ isHbm a = false → done 2 s.cuts)
      ∧ (s.hcutReady = true → a % 64 = 0 → isHbm a = true → s.mem.poisonIn a 64 = none →
          (cutOk b = false ∨ ns = [] → done 2 s.cuts)
          ∧ (cutOk b = true → ns ≠ [] → st ≠ 0 → done st s.cuts)
          ∧ (cutOk b = true → ns ≠ [] → st = 0 →
              done 0 (s.cuts ++ [{ c := fieldAt b 0 8, kind := fieldAt b 8 1, spins := ns, why := 3 }]))))

/-- R33, R34, R267, R298, R299 and R307: what hosts do to the module. These are the model's reading: that a write of HWAKE needs
the W right (log 29, DEDUCED), that a refused access-list write is answered at the port by which it came (log 37, DEDUCED), and that a claim after an expiry
which left no holder takes the lease (log 48, DESIGN CHOICE). -/
def Obligations.HostAccesses : Prop :=
  (∀ (port : Nat) (claim : BitVec 2) (s : State),
    let me := BitVec.ofNat 2 (port + 1)
    let l := s.lease
    (2 ≤ port → exec (.leaseClaim port claim) s = .next s)
    ∧ (port < 2 → claim ≠ me → exec (.leaseClaim port claim) s = .next { s with lease := { l with claim := claim } })
    ∧ (port < 2 → claim = me → l.holder = me →
        exec (.leaseClaim port claim) s = .next { s with lease := { l with claim := me, since := s.gcyc } })
    ∧ (port < 2 → claim = me → l.holder ≠ 0 → l.holder ≠ me →
        exec (.leaseClaim port claim) s = .next { s with lease := { l with claim := me, standby := me } })
    ∧ (port < 2 → claim = me → l.holder = 0 → ∃ t, exec (.leaseClaim port claim) s = .next t
        ∧ t.lease = { l with claim := me, holder := me, since := s.gcyc, epoch := l.epoch + 1, pending := [], writes := [] }
        ∧ t.out = s.out ++ l.writes.map (fun x => HostOut.memWrite port x.1 x.2) ++ l.pending.map (fun x => HostOut.msix x.1 x.2 port) ∧ s.sameMem t ∧ ∀ n, t.ctxOf n = s.ctxOf n))
  ∧ (∀ s : State,
      let l := s.lease
      let past := l.holder ≠ 0 ∧ msCounts ≤ s.gcyc - l.since
      (¬ past → exec .leaseExpiry s = .next s)
      ∧ (past → ∃ t, exec .leaseExpiry s = .next t ∧ t.lease.expired = true ∧ t.lease.holder = l.standby ∧ t.lease.standby = 0
          ∧ t.lease.since = s.gcyc ∧ t.lease.epoch = (if l.standby = l.holder then l.epoch else l.epoch + 1)
          ∧ (l.standby = 0 → t.lease.pending = l.pending ∧ t.lease.writes = l.writes ∧ t.out = s.out)
          ∧ (l.standby ≠ 0 → t.lease.pending = [] ∧ t.lease.writes = []
              ∧ t.out = s.out ++ l.writes.map (fun x => HostOut.memWrite (l.standby.toNat - 1) x.1 x.2)
                  ++ l.pending.map (fun x => HostOut.msix x.1 x.2 (l.standby.toNat - 1)))))
  ∧ (∀ (port p b : Nat) (v : Word) (s : State),
      let unsupported := fun (i : Instr) => exec i s = .next { s with out := s.out ++ [.unsupported port] }
      let e := s.binding p b
      let n := bindGate e
      let refused := fun (r : Bool) (t : State) => (t.part p).host.bind = BitVec.ofNat 8 b ∧ t.gates = s.gates
        ∧ (t.part p).host.denied = ((s.part p).host.denied || !r) ∧ (t.part p).host.rate = ((s.part p).host.rate || r)
      let check := fun (sig free : Bool) => (s.gate n).check s.pf.modid.toNat p true sig free
      (s.hostParty port p b = false → unsupported (.hgsig port p b v) ∧ unsupported (.hgcnt port p b)
        ∧ unsupported (.hwakeWrite port p b v))
      ∧ (s.hostParty port p b = true → bindV e = false →
          (∃ t, exec (.hgsig port p b v) s = .next t ∧ refused false t)
          ∧ (∃ t, exec (.hgcnt port p b) s = .next t ∧ refused false t ∧ t.out = s.out ++ [.value port 0xFFFFFFFFFFFFFFFF])
          ∧ (∃ t, exec (.hwakeWrite port p b v) s = .next t ∧ refused false t))
      ∧ (s.hostParty port p b = true → bindV e = true → bindMod e = s.pf.modid.toNat →
          (check true false = .denied → ∃ t, exec (.hgsig port p b v) s = .next t ∧ refused false t)
          ∧ (check true false = .rate → ∃ t, exec (.hgsig port p b v) s = .next t ∧ refused true t)
          ∧ (∀ g, check true false = .ok g → ∃ t, exec (.hgsig port p b v) s = .next t
              ∧ (t.gate n).gcnt = BitVec.ofNat 64 (min (g.gcnt.toNat + v.toNat) (2 ^ 64 - 1)) ∧ s.sameMem t)
          ∧ (∀ g, check false true = .ok g → ∃ t, exec (.hgcnt port p b) s = .next t
              ∧ t.out = s.out ++ [.value port g.gcnt] ∧ t.gates = s.gates ∧ t.parts = s.parts)
          ∧ (check false true = .denied → ∃ t, exec (.hgcnt port p b) s = .next t ∧ refused false t
              ∧ t.out = s.out ++ [.value port 0xFFFFFFFFFFFFFFFF])
          ∧ (∀ g, check false true = .ok g → ∃ t, exec (.hwakeWrite port p b v) s = .next t
              ∧ ((s.gate n).gcnt.toNat < v.toNat → ((t.part p).host.hwake[b]?) = some v)
              ∧ (v ≠ 0 → v.toNat ≤ (s.gate n).gcnt.toNat → (t.part p).host.hwake[b]? = some 0 ∧ .msix p b port ∈ t.out))
          ∧ (check false true = .denied → ∃ t, exec (.hwakeWrite port p b v) s = .next t ∧ refused false t)))
  ∧ (∀ (port n i : Nat) (v : Word) (s : State), n < 4096 → i < 8 →
      (s.gateLockers n = [] → ∃ t, exec (.aclEntryWrite port n i v) s = .next t ∧ (t.gate n).entry i = v &&& 0x003F00FFFFFF03FF#64
        ∧ (t.gate n).tokensOf i = BitVec.ofNat 8 (bitsOf v.toNat 16 8) ∧ (t.gate n).gcnt = (s.gate n).gcnt
        ∧ (∀ j, j < 8 → j ≠ i → (t.gate n).entry j = (s.gate n).entry j) ∧ ∀ m, m ≠ n → t.gate m = s.gate m)
      ∧ (s.gateLockers n ≠ [] → ∃ t, exec (.aclEntryWrite port n i v) s = .next t ∧ t.gates = s.gates ∧ .unsupported port ∈ t.out))
  ∧ (∀ (port p off len pa : Nat) (data : List Byte) (l : Leaf) (s : State), s.sound →
      s.bar2 p off len = true → off % 65536 + len ≤ 65536 → s.held = [] → s.walk p off = some l → (s.part p).cfg.en = true →
      leafSHP l.entry = false → leafLoc l.entry l.base off = .phys pa →
      (data.length = len → leafW l.entry = false → ∃ t, exec (.hostMemoryWrite port p off data) s = .next t ∧ s.sameMem t
        ∧ t.out = s.out ++ [.unsupported port])
      ∧ (∀ d, s.mem.poisonIn pa len = some d → ∃ t bs x bad, exec (.hostMemoryRead port p off len) s = .next t ∧ s.sameMem t
          ∧ t.out = s.out ++ [.readData port bs (x :: bad)])
      ∧ (data.length = len → leafW l.entry = true → ∃ t, exec (.hostMemoryWrite port p off data) s = .next t
        ∧ (∀ i, i < len → cellGet t.mem.cells (pa + i) = data.getD i 0)
        ∧ (∀ a, a < pa ∨ pa + len ≤ a → cellGet t.mem.cells a = cellGet s.mem.cells a) ∧ t.out = s.out)
      ∧ (s.mem.poisonIn pa len = none → ∃ t, exec (.hostMemoryRead port p off len) s = .next t ∧ s.sameMem t
          ∧ t.out = s.out ++ [.readData port (s.mem.read pa len) []]))
  ∧ (∀ (port p off len : Nat) (data : List Byte) (s : State), data.length = len →
      (s.bar2 p off len = false ∨ (s.walk p off = none ∧ s.held = [])) →
      exec (.hostMemoryWrite port p off data) s = .next { s with out := s.out ++ [.unsupported port] }
      ∧ exec (.hostMemoryRead port p off len) s = .next { s with out := s.out ++ [.unsupported port] })

/-- R7, R30, R33, R49, R295, R307, R320, R327, R339, R357, R373 and R405: the hypervisor's registers. That a refused write is
answered at the port by which it came is the model's reading (log 37, DEDUCED). -/
def Obligations.PlatformRegisters : Prop :=
  (∀ (port p w : Nat) (v : Word) (s : State), p < 64 → w < 5 → s.locked p = false →
    ∃ t, exec (.pspinWrite port p w v) s = .next t
      ∧ (∀ i, i < 320 → (t.part p).cfg.pspin.getLsbD i =
          if i / 64 = w then v.getLsbD (i % 64) && !(s.parts.any fun x => x.1 != p && x.2.cfg.pspin.getLsbD i)
          else (s.part p).cfg.pspin.getLsbD i)
      ∧ ∀ n, n < 320 → (s.part p).cfg.pspin.getLsbD n = true → (t.part p).cfg.pspin.getLsbD n = false →
          (s.ctxOf n).partN = p → (t.sp n).run = .empty)
  ∧ (∀ (port p : Nat) (v : Word) (s : State), p < 64 → s.locked p = false →
      let others := (s.parts.filter fun x => x.1 != p).map fun x => x.2.cfg
      let h := v.extractLsb' 0 16
      let x := v.extractLsb' 16 16
      let c := v.extractLsb' 32 16
      let fits := (others.map fun k => k.rhbm.toNat).sum + h.toNat ≤ 64000 ∧ (others.map fun k => k.rcxl.toNat).sum + x.toNat ≤ 2500
        ∧ (others.map fun k => k.rclu.toNat).sum + c.toNat ≤ 4000
      (fits → exec (.reservationWrite port p v) s = .next (s.modCfg p fun k => { k with rhbm := h, rcxl := x, rclu := c }))
      ∧ (¬ fits → exec (.reservationWrite port p v) s = .next { s with out := s.out ++ [.unsupported port] }))
  ∧ (∀ (port : Nat) (v : Word) (s : State),
      let md := v.extractLsb' 0 6
      let nm := v.extractLsb' 8 7
      let good := (∀ x ∈ s.parts, x.2.trust.state = .unlocked) ∧ 1 ≤ nm.toNat ∧ nm.toNat ≤ 64 ∧ md.toNat < nm.toNat
      (good → exec (.lsdomWrite port v) s = .next { s with pf := { s.pf with modid := md, nmod := nm } })
      ∧ (¬ good → exec (.lsdomWrite port v) s = .next { s with out := s.out ++ [.unsupported port] }))
  ∧ (∀ (port p w : Nat) (v : Word) (b : Nat) (s : State), p < 64 → w < 5 → s.sec.stage ≠ 0xF →
      ((s.part p).trust.state = .locked ∨ (s.part p).trust.state = .run) →
      ∀ i ∈ [Instr.pspinWrite port p w v, .reservationWrite port p v, .registerWrite port (.rootgraph p) v,
        .registerWrite port (.binding p b) v, .registerWrite port (.xlateRoot p) v, .registerWrite port (.clusterMap p b) v,
        .registerWrite port (.imgbase p) v, .registerWrite port (.imgcnt p) v],
        ∃ t, exec i s = .next t ∧ (t.part p).cfg = (s.part p).cfg ∧ (t.part p).trust.state = .error
          ∧ (t.part p).trust.ecause = 3 ∧ (t.part p).trust.scrub = true ∧ .unsupported port ∈ t.out)
  -- a halted module presents no virtual function (R363)
  ∧ (∀ (port p : Nat) (v : Word) (s : State), s.sec.stage = 0xF →
      exec (.registerWrite port (.rootgraph p) v) s = .next { s with out := s.out ++ [.unsupported port] })
  ∧ (∀ (port p : Nat) (v : Word) (b : Nat) (s : State), p < 64 → s.locked p = false →
      let cfg := fun (r : RegName) (f : PartCfg → PartCfg) => exec (.registerWrite port r v) s = .next (s.modCfg p f)
      (s.sec.stage ≠ 0xF → cfg (.rootgraph p) (fun c => { c with rootgraph := v }))
      ∧ cfg (.xlateRoot p) (fun c => { c with en := v.getLsbD 0, root := v.extractLsb' 13 47 })
      ∧ cfg (.imgbase p) (fun c => { c with imgbase := v.extractLsb' 21 27 })
      ∧ cfg (.imgcnt p) (fun c => { c with imgcnt := v.setWidth 16, cutpriv := v.getLsbD 16 })
      ∧ (b < 256 → ∃ t, exec (.registerWrite port (.binding p b) v) s = .next t ∧ t.binding p b = v &&& 0xFFFFFFFF0007FFFF#64
          ∧ (∀ x, x < 256 → x ≠ b → t.binding p x = s.binding p x)
          -- a wake that is armed there fires if its gate has the value already (R307)
          ∧ ((s.part p).host.hwake[b]? ≠ some 0 → bindV (v &&& 0xFFFFFFFF0007FFFF#64) = true → bindMod v = s.pf.modid.toNat →
              (∀ h, (s.part p).host.hwake[b]? = some h → h.toNat ≤ (s.gate (bindGate v)).gcnt.toNat) →
              (t.part p).host.hwake[b]? = some 0))
      ∧ (b < 64 → ∃ t, exec (.registerWrite port (.clusterMap p b) v) s = .next t
          ∧ (t.part p).cfg.cluster[b]? = some (v.setWidth 7)))
  ∧ (∀ (port p k n : Nat) (v : Word) (s : State),
      exec (.registerWrite port .premargin v) s = .next { s with pf := { s.pf with premargin := v.setWidth 16 } }
      ∧ exec (.registerWrite port .leaseExpired v) s =
          .next (if v.getLsbD 6 then { s with lease := { s.lease with expired := false } } else s)
      ∧ (s.hostParty port p 0 = true → exec (.registerWrite port (.vfGateStatus p) v) s = .next (s.modPHost p fun h =>
          { h with denied := h.denied && !v.getLsbD 0, rate := h.rate && !v.getLsbD 1 }))
      ∧ (s.hostParty port p 0 = false →
          exec (.registerWrite port (.vfGateStatus p) v) s = .next { s with out := s.out ++ [.unsupported port] })
      ∧ (k < 40 → n < 8 → (v.getLsbD 0 = v.getLsbD 1) → ∃ t, exec (.registerWrite port (.disposition k n) v) s = .next t
          ∧ (t.stand k).disp[n]? = some (v.setWidth 32 &&& 0xFFFF01FF#32) ∧ t.spindles = s.spindles)
      ∧ (k < 40 → exec (.registerWrite port (.trqbase k) v) s = .next (s.modStand k fun st => { st with trqbase := v.extractLsb' 12 36 }))
      ∧ (k < 40 → n < 8 → ∃ t, exec (.registerWrite port (.sret k n) v) s = .next t ∧ (t.stand k).sret[n]? = some v)
      ∧ (k < 40 → n < 8 → ∃ t, exec (.registerWrite port (.frzlim k n) v) s = .next t ∧ (t.stand k).frzlim[n]? = some (v.setWidth 32))
      ∧ (s.power.step = 0 → n < 64 → ∃ t, exec (.registerWrite port (.shedEntry n) v) s = .next t
          ∧ t.power.entry n = v.setWidth 13 &&& 0x1F7F#13)
      ∧ (s.power.step ≠ 0 → exec (.registerWrite port (.shedEntry n) v) s = .next s)
      ∧ exec (.registerWrite port .errCounts v) s =
          .next { s with errors := { s.errors with ce := v.setWidth 32, ue := v.extractLsb' 32 32 } }
      ∧ exec (.registerWrite port .dumpbase v) s = .next { s with errors := { s.errors with dumpbase := v.extractLsb' 21 27 } }
      ∧ exec (.registerWrite port .updStatus v) s =
          .next (if v.getLsbD 3 then { s with update := { s.update with rollback := false } } else s))

/-- R73, R232, R294, R355 to R359 and R379 to R382: what the platform does to the module. That a byte which a loss of power
takes reads as 0 is the model's choice (log 5, DESIGN CHOICE). -/
def Obligations.PowerEvents : Prop :=
  (∀ (watts : BitVec 16) (s : State),
    let w := s.power
    let noted := { s with power := { w with pwr := watts } }
    let run := fun (q : State → Prop) => ∃ t, exec (.powerEvaluation watts) s = .next t ∧ t.power.pwr = watts ∧ q t
    let hot := w.cap.toNat < watts.toNat
    let cold := watts.toNat + w.hyst.toNat < w.cap.toNat
    (s.gcyc % 800000 ≠ 0 → exec (.powerEvaluation watts) s = .next s)
    ∧ (s.gcyc % 800000 = 0 →
        (¬ hot → ¬ cold → exec (.powerEvaluation watts) s = .next noted)
        ∧ (hot → w.sequence[w.acts.length]? = none → run fun t => t.power.floor = true ∧ t.power.acts = w.acts)
        ∧ (∀ n, hot → w.sequence[w.acts.length]? = some (0, n) → run fun t =>
            (t.part (shedPart (w.entry n))).sched.slow = shedSlow (w.entry n) ∧ t.power.acts = w.acts ++ [(0, n)]
            ∧ t.power.step = BitVec.ofNat 8 (w.acts.length + 1))
        ∧ (∀ n, hot → w.sequence[w.acts.length]? = some (1, n) →
            let p := shedPart (w.entry n)
            (((s.psns p).any s.cutPending) = true → exec (.powerEvaluation watts) s = .next noted)
            ∧ (((s.psns p).any s.cutPending) = false → run fun t => (t.part p).sched.paused = true ∧ t.power.acts = w.acts ++ [(1, n)]
                ∧ (s.busyOf p ≠ [] → t.cuts = s.cuts ++ [{ c := s.gcyc + 4096, kind := 0, spins := s.busyOf p, why := 2 }])))
        ∧ (∀ n, hot → w.sequence[w.acts.length]? = some (2, n) →
            let p := shedPart (w.entry n)
            let short := s.imgFree p - s.slotsDue p < (s.busyOf p).length + (s.part p).sched.susp.length
            (((s.psns p).any s.cutPending) = true ∨ short → exec (.powerEvaluation watts) s = .next noted)
            ∧ (((s.psns p).any s.cutPending) = false → ¬ short → (s.part p).sched.susp = [] → run fun t =>
                (t.part p).sched.evicted = true ∧ t.power.acts = w.acts ++ [(2, n)]
                ∧ (s.busyOf p ≠ [] → t.cuts = s.cuts ++ [{ c := s.gcyc + 4096, kind := 1, spins := s.busyOf p, why := 2 }])))
        ∧ (cold → w.floor = true → run fun t => t.power.floor = false ∧ t.power.acts = w.acts)
        ∧ (cold → w.floor = false → w.acts = [] → exec (.powerEvaluation watts) s = .next noted)
        ∧ (∀ n, cold → w.floor = false → w.acts.getLast? = some (0, n) → run fun t =>
            (t.part (shedPart (w.entry n))).sched.slow = 0 ∧ t.power.acts = w.acts.dropLast)
        ∧ (∀ n, cold → w.floor = false → w.acts.getLast? = some (1, n) → run fun t =>
            (t.part (shedPart (w.entry n))).sched.paused = false ∧ t.power.acts = w.acts.dropLast)
        ∧ (∀ n, cold → w.floor = false → w.acts.getLast? = some (2, n) → run fun t =>
            (t.part (shedPart (w.entry n))).sched.evicted = false ∧ t.power.acts = w.acts.dropLast)))
  ∧ (∀ (v : Word) (s : State), ∃ t, exec (.powerCapWrite v) s = .next t
      ∧ t.power.cap.toNat = max 1200 (min 4800 (v.toNat % 65536)) ∧ t.power.hyst = v.extractLsb' 16 16
      ∧ t = { s with power := { s.power with cap := t.power.cap, hyst := t.power.hyst } })
  ∧ (∀ (k level count : Nat) (s : State), k < 40 →
      (∃ t, exec (.droopTrip k level count) s = .next t ∧ (t.stand k).droop = min 8 level ∧ (t.stand k).count = min 8 count
        ∧ ∀ m, m ≠ k → t.stand m = s.stand m)
      ∧ ∃ t, exec (.droopRecovery k) s = .next t ∧ (t.stand k).droop = 0 ∧ (t.stand k).count = 0
        ∧ ∀ m, m ≠ k → t.stand m = s.stand m)
  -- R380: no error, a correctable one, or an uncorrectable one with the treatment of its row
  ∧ (∀ (at_ : StoreAt) (s : State),
      let more := fun (v : BitVec 32) => if v = 0xFFFFFFFF then v else v + 1
      ∃ t, exec (.patrolScrub at_) s = .next t
      ∧ ((t.errors = s.errors ∧ t.mem = s.mem ∧ t.spindles = s.spindles)
        ∨ (t.errors.ce = more s.errors.ce ∧ t.errors.ue = s.errors.ue ∧ t.mem = s.mem ∧ t.spindles = s.spindles)
        ∨ (t.errors.ue = more s.errors.ue ∧
            match at_ with
            | .line l => l ∈ t.mem.poison ∧ s.sameMem t ∧ t.spindles = s.spindles
            | .code n b => t.errors.kind = 4 ∧ t.mem = s.mem ∧ (∀ m, t.ctxOf m = s.ctxOf m) ∧ (∀ m, m ≠ n → t.sp m = s.sp m)
                ∧ ((s.sp n).run ≠ .empty → b = 5 ∨ 294 ≤ b → (b, .segment) ∈ (t.sp n).absent)
            | .control n => t.errors.kind = 5 ∧ (t.sp n).run = .empty)))
  ∧ (∀ s : State, s.sound → ∃ t, exec .powerLoss s = .next t ∧ t.spindles = [] ∧ t.msgs = [] ∧ t.mem.soft = []
      ∧ ∀ a, (∀ x ∈ s.mem.soft, x.1 ≠ a) →
          cellGet t.mem.cells a = if isSecondTier a then cellGet s.mem.cells a else 0)
  -- a byte that was written since the last PERSIST: the durable byte or a later write of it
  ∧ (∀ (a : Nat) (h : List (Nat × Byte)) (s : State), s.sound → isSecondTier a = true → (s.mem.soft.filter fun x => x.1 == a) = [(a, h)] →
      ∃ t, exec .powerLoss s = .next t ∧ (cellGet t.mem.cells a ∈ h.map Prod.snd ∨ (h = [] ∧ cellGet t.mem.cells a = cellGet s.mem.cells a)))
  ∧ (∀ (n : Nat) (s : State),
      (s.lateKinds n ≠ [] → exec (.exposedResultLanding n) s = .next s)
      ∧ (s.lateKinds n = [] →
          let ps := (s.ctxOf n).active.filter Pending.due
          let left := s.modCtx n fun c => c.setActive (c.active.filter fun p => !p.due)
          let u := left.landAll n (ps.flatMap Pending.now)
          ((∀ p ∈ ps, p.notice = none ∧ p.dom = none) →
            exec (.exposedResultLanding n) s = .next (left.landAll n (ps.flatMap Pending.lands)))
          ∧ (∀ p x, p ∈ ps → p.notice = some x → ∃ t, exec (.exposedResultLanding n) s = .next t ∧ u.sameMem t
              ∧ (t.ctxOf n).sameRegs (u.ctxOf n) ∧ { x with at_ := s.gcyc } ∈ (t.ctxOf n).notices))
      ∧ ((∀ p ∈ (s.ctxOf n).active, p.await = none ∨ p.bound ≠ some 0 ∨ p.late = true) → exec (.declaredBoundExpiry n) s = .next s)
      ∧ (∀ (p : Pending) (id : Nat) (m : Msg), p ∈ (s.ctxOf n).active → p.await = some id → p.bound = some 0 → p.late = false →
          s.msg id = some m → ∃ t, exec (.declaredBoundExpiry n) s = .next t ∧ s.sameMem t
            ∧ (t.ctxOf n).regs = (s.ctxOf n).regs ∧ { p with late := true } ∈ (t.ctxOf n).active
            ∧ ({ code := tOVERRUN, slot := m.slot, val := m.val, at_ := s.gcyc } : Notice) ∈ (t.ctxOf n).notices))

/-- R361 to R364, R367, R380, R383 and R384: reset, boot, and the end of the module. Which memory a reset keeps is the model's
reading (log 40, DEDUCED), and that the rest reads as 0 is its choice (log 5, DESIGN CHOICE). -/
def Obligations.BootEvents : Prop :=
  (∀ s : State,
    let fresh := fun (t : State) => t.spindles = [] ∧ t.parts = [] ∧ t.gates = [] ∧ t.msgs = [] ∧ t.held = [] ∧ t.cuts = []
      ∧ t.sec.stage = 1 ∧ t.sec.failcode = 0 ∧ t.sec.retried = false ∧ t.lease = {} ∧ t.power = {}
    (∃ t, exec .coldReset s = .next t ∧ fresh t ∧ t.errors = {}
      ∧ (s.sound → ∀ a, cellGet t.mem.cells a = if isSecondTier a then cellGet s.mem.cells a else 0))
    -- a halted module leaves its halt by a cold reset only (R363)
    ∧ (s.sec.stage = 0xF → exec .warmReset s = .next s)
    ∧ (s.sec.stage ≠ 0xF → ∃ t, exec .warmReset s = .next t ∧ fresh t ∧ t.errors.bb = s.errors.bb ∧ t.errors.bbhead = s.errors.bbhead
      ∧ t.errors.ue = 0 ∧ t.errors.fatal = false
      ∧ (s.sound → ∀ a, cellGet t.mem.cells a = if isHbm a || isSecondTier a then cellGet s.mem.cells a else 0)))
  ∧ (∀ (port : Bool) (s : State),
      (s.sec.stage = 1 → port = s.sec.port → exec (.imageLocatorReceived port) s = .next { s with sec := { s.sec with stage := 2 } })
      ∧ (s.sec.stage ≠ 1 ∨ port ≠ s.sec.port → exec (.imageLocatorReceived port) s = .next s))
  ∧ (∀ s : State,
      (s.sec.stage ≠ 1 → exec .linkWaitTimeout s = .next s)
      ∧ (s.sec.stage = 1 → s.sec.port = false → exec .linkWaitTimeout s = .next { s with sec := { s.sec with port := true } })
      ∧ (s.sec.stage = 1 → s.sec.port = true → ∃ t, exec .linkWaitTimeout s = .next t ∧ t.sec.failcode = 0x01
          ∧ t.sec.stage = if s.sec.retried then 0xF else 1))
  ∧ (∀ (b : List Byte) (s : State),
      let fails := fun (code : BitVec 8) => ∃ t, exec (.imageFetchComplete b) s = .next t ∧ t.sec.failcode = code
        ∧ (s.sec.retried = true → t.sec.stage = 0xF)
        ∧ (s.sec.retried = false → t.sec.stage = 1 ∧ t.sec.retried = true ∧ t.sec.port = !s.sec.port ∧ t.sec.began = s.gcyc)
      let h := headerGood b bootTypes
      let svn := fieldAt b 8 2
      (s.sec.stage ≠ 2 → exec (.imageFetchComplete b) s = .next s)
      ∧ (s.sec.stage = 2 → b = [] → fails 0x02)
      ∧ (s.sec.stage = 2 → b ≠ [] → h = false → fails 0x03)
      ∧ (s.sec.stage = 2 → b ≠ [] → h = true → svn < Config.svnMin.toNat → fails 0x04)
      ∧ (s.sec.stage = 2 → b ≠ [] → h = true → Config.svnMin.toNat ≤ svn → digestsGood b 5 = false → fails 0x05)
      ∧ (s.sec.stage = 2 → b ≠ [] → h = true → Config.svnMin.toNat ≤ svn → digestsGood b 5 = true →
          let good := Config.chainEndsIn (sectionOf b 5 5) (Config.deviceKey Config.uds).1
          (good = false → fails 0x06)
          ∧ (good = true → ∃ t, exec (.imageFetchComplete b) s = .next t ∧ t.sec.stage = 7
              ∧ t.sec.svn = BitVec.ofNat 16 svn ∧ t.sec.running = BitVec.ofNat 16 svn ∧ t.sec.image = b
              ∧ t.sec.device = Config.deviceKey Config.uds ∧ t.sec.rev = BitVec.ofNat 32 (fieldAt b 4 4) ∧ t.sec.meas = measure b))
      -- the fetched image stands in HBM stack 0 (R361)
      ∧ (s.sec.stage = 2 → b ≠ [] → b.length ≤ 2 ^ 36 → s.sound → ∃ t a, exec (.imageFetchComplete b) s = .next t
          ∧ a + b.length ≤ 2 ^ 36 ∧ ∀ i, i < b.length → cellGet t.mem.cells (a + i) = b.getD i 0))
  ∧ (∀ (row : Nat) (s : State),
      (s.errors.fatal = true → exec (.fatalError row) s = .next s)
      ∧ (s.errors.fatal = false → ∃ t, exec (.fatalError row) s = .next t ∧ t.errors.fatal = true
          ∧ t.errors.fatalAt = some (s.gcyc + 64) ∧ t.spindles = s.spindles ∧ s.sameMem t))
  ∧ (∀ s : State,
      (s.errors.fatalAt = none → exec .fatalStop s = .next s)
      ∧ (∀ c, s.errors.fatalAt = some c → s.gcyc < c → exec .fatalStop s = .next s)
      ∧ (∀ c, s.errors.fatalAt = some c → c ≤ s.gcyc → ∃ t bs, exec .fatalStop s = .next t ∧ t.errors.fatalAt = none
          ∧ t.out = s.out ++ [.dump bs] ∧ bs.length = 0x4000000
          ∧ ∀ n, (t.sp n).run = if (s.sp n).run = .empty then .empty else .stopped))

/-- R363, R365 to R369, R371 and R374: sessions and what they carry. The codes and the
order of the negotiation are presumed (log 31, PRESUMED); that a period above 60 s is refused is the model's reading (log 38,
DEDUCED). -/
def Obligations.SessionEvents : Prop :=
  (∀ (port slot : Nat) (nonce : List Byte) (off len idx period : Nat) (chunked psk mutAuth : Bool) (s : State),
    (s.sec.stage ≠ 7 ∨ 2 ≤ port →
      ∀ i ∈ [Instr.getVersion port, .getCapabilities port, .negotiateAlgorithms port, .getDigests port,
        .getCertificate port slot off len chunked, .challenge port slot nonce, .keyExchange port slot period psk mutAuth,
        .getMeasurements port idx], exec i s = .next s)
    ∧ (s.sec.stage = 7 → port < 2 →
        let tells := fun (i : Instr) (code : Nat) (d : List Byte) => exec i s = .next { s with out := s.out ++ [.spdm port code d] }
        let error := fun (i : Instr) => exec i s = .next { s with out := s.out ++ [.spdmError port] }
        let reaches := fun (i : Instr) (k code : Nat) (d : List Byte) => ∃ t, exec i s = .next t ∧ t.level port = k
          ∧ t.out = s.out ++ [.spdm port code d] ∧ t.sec.sessions = s.sec.sessions
        reaches (.getVersion port) 1 0x04 versionBytes
        ∧ (s.level port = 1 → reaches (.getCapabilities port) 2 0x61 capabilityBytes)
        ∧ (s.level port ≠ 1 → error (.getCapabilities port))
        ∧ (s.level port = 2 → reaches (.negotiateAlgorithms port) 3 0x63 algorithmBytes)
        ∧ (s.level port ≠ 2 → error (.negotiateAlgorithms port))
        ∧ (s.level port < 3 → error (.getDigests port) ∧ error (.getCertificate port slot off len chunked)
            ∧ error (.challenge port slot nonce) ∧ error (.getMeasurements port 0))
        -- certificate slot 0 alone, no chunks, no PSK, no mutual authentication
        ∧ (slot ≠ 0 → error (.getCertificate port slot off len chunked) ∧ error (.challenge port slot nonce)
            ∧ error (.keyExchange port slot period psk mutAuth))
        ∧ (chunked = true → error (.getCertificate port slot off len chunked))
        ∧ (psk = true ∨ mutAuth = true → error (.keyExchange port slot period psk mutAuth))
        ∧ (3 ≤ s.level port → tells (.getDigests port) 0x01 (sha256 s.chain)
            ∧ (off < s.chain.length → tells (.getCertificate port 0 off len false) 0x02 ((s.chain.drop off).take len))
            ∧ (s.chain.length ≤ off → error (.getCertificate port 0 off len false))
            ∧ tells (.challenge port 0 nonce) 0x03 (Config.response 0x03 (s.sec.device.2 ++ nonce))
            ∧ tells (.getMeasurements port 0) 0x60 [6]
            ∧ tells (.getMeasurements port 0xFF) 0x60 (s.sec.meas.toList.flatMap id)
            ∧ (∀ k : Fin 6, tells (.getMeasurements port (k.val + 1)) 0x60 s.sec.meas[k]))
        ∧ (∀ n, n < 8 → tfind n s.sec.sessions = none → (∀ m, m < n → tfind m s.sec.sessions ≠ none) →
            (3 ≤ s.level port → period ≤ 60 → ∃ t, exec (.keyExchange port 0 period false false) s = .next t
              ∧ tfind n t.sec.sessions = some { port := port, period := period, last := s.gcyc })
            ∧ (s.level port < 3 ∨ 60 < period → error (.keyExchange port 0 period false false)))
        ∧ ((∀ n, n < 8 → tfind n s.sec.sessions ≠ none) → error (.keyExchange port 0 period false false))))
  ∧ (∀ (n : Nat) (x : Session) (s : State), s.session n = some x → s.sec.stage = 7 →
      let tells := fun (t : State) (code : Nat) => ∃ d, t.out = s.out ++ [.spdm x.port code d]
      let error := fun (i : Instr) => exec i s = .next { s with out := s.out ++ [.spdmError x.port] }
      (x.finished = false → (∃ t, exec (.finish n) s = .next t
          ∧ tfind n t.sec.sessions = some { x with finished := true, last := s.gcyc } ∧ tells t 0x65)
        ∧ error (.heartbeat n) ∧ error (.keyUpdate n) ∧ error (.endSession n))
      ∧ (x.finished = true → error (.finish n)
        ∧ (∃ t, exec (.heartbeat n) s = .next t ∧ tfind n t.sec.sessions = some { x with last := s.gcyc } ∧ tells t 0x68)
        ∧ (∃ t, exec (.keyUpdate n) s = .next t
            ∧ tfind n t.sec.sessions = some { x with last := s.gcyc, generation := x.generation + 1 } ∧ tells t 0x69)
        ∧ (∃ t, exec (.endSession n) s = .next t ∧ tfind n t.sec.sessions = none
            ∧ .spdm x.port 0x6C [] ∈ t.out)))
  ∧ (∀ (n : Nat) (s : State), s.session n = none → ∀ i ∈ [Instr.heartbeat n, .keyUpdate n, .endSession n, .finish n], exec i s = .next s)
  ∧ (∀ (n : Nat) (x : Session) (s : State), tfind n s.sec.sessions = some x →
      (s.session n ≠ none → exec (.sessionExpiry n) s = .next s)
      ∧ (s.session n = none → ∃ t, exec (.sessionExpiry n) s = .next t ∧ tfind n t.sec.sessions = none))
  ∧ (∀ (n : Nat) (x : Session) (p : Nat) (s : State), tfind n s.sec.sessions = some x → s.session n = none →
      (s.parts.filter fun q => q.2.trust.bound == some (BitVec.ofNat 3 n)) = [(p, s.part p)] →
      ((s.part p).trust.state = .locked ∨ (s.part p).trust.state = .run) →
      ∃ t, exec (.sessionExpiry n) s = .next t ∧ (t.part p).trust.state = .error ∧ (t.part p).trust.ecause = 1
        ∧ (t.part p).trust.bound = none ∧ (t.part p).trust.scrub = true)
  ∧ (∀ (n p slot : Nat) (key m : List Byte) (id : Word) (x : Session) (s : State), s.sec.stage = 7 → s.session n = some x →
      x.finished = true →
      let t0 := (s.part p).trust
      let mine := p < 64 ∧ t0.bound = some (BitVec.ofNat 3 n) ∧ (t0.state = .locked ∨ t0.state = .run)
      let error := fun (i : Instr) => ∃ t, exec i s = .next t ∧ (t.part p).trust = t0 ∧ t.out = s.out ++ [.spdmError x.port]
      let does := fun (i : Instr) (u : PartTrust) => ∃ t, exec i s = .next t ∧ (t.part p).trust = u
        ∧ t.out = s.out ++ [.spdm x.port 0x7E []]
      (¬ mine → error (.keyset n p slot key) ∧ error (.keyclr n p slot) ∧ error (.signreg n p id m) ∧ error (.signclr n p id))
      ∧ (mine → slot < 256 → key.length = 32 →
          let t1 := t0.dropKey slot
          does (.keyset n p slot key)
            { t1 with gens := t1.gens + 1, keys := tput slot { key := some key, iv := 0, gen := t1.gens + 1 } t1.keys })
      ∧ (mine → 256 ≤ slot ∨ key.length ≠ 32 → error (.keyset n p slot key))
      ∧ (mine → slot < 256 → does (.keyclr n p slot) (t0.dropKey slot) ∧ tfind slot (t0.dropKey slot).keys = none)
      ∧ (mine → m.length = 384 → t0.signers.length < 16 → (∀ y ∈ t0.signers, y.1 ≠ id) →
          does (.signreg n p id m) { t0 with signers := t0.signers ++ [(id, m)] })
      ∧ (mine → 16 ≤ t0.signers.length → error (.signreg n p id m))
      ∧ (mine → does (.signclr n p id) { t0 with signers := t0.signers.filter fun y => y.1 != id }))

/-- R50, R283, R366 and R371 to R375: the states of an interface. The response codes are presumed (log 31, PRESUMED). When a STOP
is answered and what the scrub waits for is the model's reading (log 36, DEDUCED), and so is that RUN is entered at the
scheduler's next step (log 41, DEDUCED). -/
def Obligations.InterfaceEvents : Prop :=
  (∀ (n p : Nat) (x : Session) (s : State), s.sec.stage = 7 → s.session n = some x → x.finished = true → n < 8 →
    let t0 := (s.part p).trust
    let error := fun (i : Instr) => ∃ t, exec i s = .next t ∧ t.parts = s.parts ∧ t.out = s.out ++ [.tdispError n]
    let all := [Instr.lockInterfaceRequest n p, .getDeviceInterfaceReport n p, .getDeviceInterfaceState n p,
      .startInterfaceRequest n p, .stopInterfaceRequest n p]
    (x.period = 0 ∨ 64 ≤ p → ∀ i ∈ all, error i)
    ∧ (x.period ≠ 0 → p < 64 →
        (t0.state = .unlocked → t0.bound = none → ∃ t d, exec (.lockInterfaceRequest n p) s = .next t
            ∧ (t.part p).trust.state = .locked ∧ (t.part p).trust.bound = some (BitVec.ofNat 3 n)
            ∧ (t.part p).sched.psns = pspinList (s.part p).cfg.pspin ∧ (t.part p).bars = Vector.replicate 64 {}
            ∧ (t.part p).cfg = (s.part p).cfg ∧ .tdisp n 0x03 d ∈ t.out
            -- what the report of the interface says is fixed here
            ∧ (t.part p).trust.report = s.reportBytes p)
        ∧ (t0.state ≠ .unlocked ∨ t0.bound ≠ none → error (.lockInterfaceRequest n p))
        ∧ ((t0.state = .locked ∨ t0.state = .run) → t0.allows n = true →
            ∃ t, exec (.getDeviceInterfaceReport n p) s = .next t ∧ t.parts = s.parts ∧ t.out = s.out ++ [.tdisp n 0x04 t0.report])
        ∧ (t0.state = .unlocked ∨ t0.state = .error ∨ t0.allows n = false → error (.getDeviceInterfaceReport n p))
        ∧ (((t0.state = .locked ∨ t0.state = .run) ∧ t0.allows n = true ∨ t0.state = .error ∧ t0.bound = none) →
            ∃ t, exec (.getDeviceInterfaceState n p) s = .next t ∧ t.parts = s.parts
            ∧ t.out = s.out ++ [.tdisp n 0x05 [BitVec.ofNat 8 t0.state.code]])
        ∧ (t0.state = .unlocked ∨ t0.allows n = false ∨ (t0.state = .error ∧ t0.bound ≠ none) →
            error (.getDeviceInterfaceState n p))
        ∧ (t0.state = .locked → t0.starting = false → t0.stopping = none → t0.allows n = true →
            ∃ t, exec (.startInterfaceRequest n p) s = .next t ∧ (t.part p).trust = { t0 with starting := true }
              ∧ (t.part p).sched.stepDue = true ∧ t.out = s.out)
        ∧ (t0.state ≠ .locked ∨ t0.starting = true ∨ t0.stopping ≠ none ∨ t0.allows n = false → error (.startInterfaceRequest n p))
        ∧ ((t0.state = .locked ∨ t0.state = .run) → t0.starting = false → t0.stopping = none → t0.allows n = true →
            ∃ t, exec (.stopInterfaceRequest n p) s = .next t
              ∧ (t.part p).trust = { t0 with starting := false, stopping := some n, scrub := true } ∧ t.out = s.out
              ∧ (s.psns p ≠ [] → { c := s.gcyc + 64, kind := 2, spins := s.psns p } ∈ t.cuts)
              ∧ ∀ k ∈ t.cuts, k ∈ s.cuts ∨ (∀ m ∈ k.spins, m ∉ s.psns p) ∨ k = { c := s.gcyc + 64, kind := 2, spins := s.psns p })
        ∧ (t0.state = .error → t0.stopping = none → t0.allows n = true → t0.scrub = false →
            ∃ t, exec (.stopInterfaceRequest n p) s = .next t ∧ (t.part p).trust.state = .unlocked ∧ (t.part p).trust.bound = none
              ∧ .tdisp n 0x07 [] ∈ t.out)
        ∧ (t0.state = .error → t0.stopping = none → t0.allows n = true → t0.scrub = true →
            ∃ t, exec (.stopInterfaceRequest n p) s = .next t ∧ (t.part p).trust = { t0 with stopping := some n } ∧ t.out = s.out)
        ∧ (t0.state = .unlocked ∨ t0.stopping ≠ none ∨ t0.allows n = false → error (.stopInterfaceRequest n p))))
  ∧ (∀ (p : Nat) (s : State),
      (s.scrubReady p = false → exec (.teardownScrubComplete p) s = .next s)
      -- the status of the ended graphs is written first
      ∧ (s.scrubReady p = true → (s.endWork p).recWaits p = true → exec (.teardownScrubComplete p) s = .next (s.endWork p))
      ∧ (s.scrubReady p = true → (s.endWork p).recWaits p = false →
          ∃ t, exec (.teardownScrubComplete p) s = .next t ∧ (t.part p).trust.scrub = false
          ∧ (t.part p).trust.keys = [] ∧ (t.part p).trust.signers = [] ∧ (t.part p).trust.imgkey = none
          ∧ (∀ n ∈ s.psns p, ∀ a, sliceKey n 0 ≤ a → a < sliceKey n 0 + 0x2000000 → cellGet t.mem.cells a = 0)
          ∧ (∀ k, ∀ g ∈ (t.stand k).segs, g.part ≠ p)
          -- trusted pages: no plaintext is left, sealed lines stay (R235, R374)
          ∧ (∀ x ∈ (s.endWork p).leaves p, leafTR x.entry = true → ∀ a, leafAddr x.entry ≤ a → a < leafAddr x.entry + x.size →
              a / 64 ∉ t.mem.form → leafAddr x.entry % 64 = 0 → x.size % 64 = 0 → cellGet t.mem.cells a = 0)
          ∧ ((s.part p).trust.stopping = none → (t.part p).trust.state = (s.part p).trust.state)
          ∧ (∀ n, (s.part p).trust.stopping = some n → (t.part p).trust.state = .unlocked ∧ (t.part p).trust.bound = none
              ∧ (t.part p).trust.stopping = none ∧ .tdisp n 0x07 [] ∈ t.out)))

/-- R361, R362, R367 and R385: the live update. That SVN and REV of SECSTAT stay as they are, and that a later update is compared
with the version of the running firmware, is the model's reading (log 38, DEDUCED). -/
def Obligations.UpdateEvents : Prop :=
  (∀ (v : Word) (s : State),
    (s.update.phase ≠ 0 → exec (.updateStart v) s = .next s)
    ∧ (s.update.phase = 0 → exec (.updateStart v) s =
        .next { s with update := { s.update with updimg := v, phase := 1, failcode := 0 } }))
  ∧ (∀ s : State,
      let b := s.updateBytes
      let fails := fun (c : BitVec 8) => exec .updateSwitch s = .next { s with update := { s.update with phase := 0, failcode := c } }
      let svn := fieldAt b 8 2
      (s.update.phase ≠ 1 → exec .updateSwitch s = .next s)
      ∧ (s.update.phase = 1 → s.update.switching = false →
          (headerGood b [2] = false → fails 0x03)
          ∧ (headerGood b [2] = true → svn < s.sec.running.toNat → fails 0x04)
          ∧ (headerGood b [2] = true → s.sec.running.toNat ≤ svn → digestsGood b 1 = false → fails 0x05)
          ∧ (headerGood b [2] = true → s.sec.running.toNat ≤ svn → digestsGood b 1 = true → exec .updateSwitch s =
              .next { s with update := { s.update with
                switching := true, rev := BitVec.ofNat 32 (fieldAt b 4 4), digest := sha256 (sectionOf b 1 2)
                svn := BitVec.ofNat 16 svn } }))
      ∧ (s.update.phase = 1 → s.update.switching = true → ∃ t, exec .updateSwitch s = .next t
          ∧ t.update = { s.update with active := !s.update.active, phase := 2, switching := false, switchedAt := s.gcyc
                                       lastBeat := s.gcyc, beating := false, was := s.update.beating }
          ∧ t.sec = s.sec ∧ t.spindles = s.spindles ∧ t.parts = s.parts ∧ s.sameMem t))
  ∧ (∀ s : State, exec .firmwareHeartbeat s = .next { s with update := { s.update with
      lastBeat := s.gcyc, beating := true, since := if s.update.beating then s.update.since else s.gcyc } })
  ∧ (∀ s : State,
      let due := s.update.phase = 2 ∧ s.update.beating = true ∧ 100 * msCounts ≤ s.gcyc - s.update.since
      (¬ due → exec .updateCommit s = .next s)
      ∧ (due → ∃ t, exec .updateCommit s = .next t ∧ t.update = { s.update with phase := 0 }
          ∧ t.sec = { s.sec with meas := s.sec.meas.set 3 s.update.digest, running := s.update.svn } ∧ t.spindles = s.spindles ∧ t.parts = s.parts))
  ∧ (∀ s : State,
      let u := s.update
      let missed := if u.beating then msCounts < s.gcyc - u.lastBeat else u.phase = 2 ∧ 10 * msCounts < s.gcyc - u.switchedAt
      (¬ missed → exec .heartbeatMissed s = .next s)
      ∧ (missed → u.phase = 2 → ∃ t, exec .heartbeatMissed s = .next t
          ∧ t.update = { u with active := !u.active, phase := 0, rollback := true, beating := u.was, lastBeat := s.gcyc }
          ∧ t.sec = s.sec)
      ∧ (missed → u.phase ≠ 2 → s.errors.fatal = false → ∃ t, exec .heartbeatMissed s = .next t ∧ t.errors.fatal = true
          ∧ t.errors.fatalAt = some (s.gcyc + 64)))

/-- Every instruction that stands in a bundle answers a next state and keeps the memory's canonical form (log 5, DESIGN CHOICE). -/
def Obligations.WordsKeepMemoryCanonical : Prop :=
  ∀ (i : Instr) (pl : Sys2Proof.Place) (s : State), i.place = some pl → ∃ t, exec i s = .next t ∧ (s.sound → t.sound)

/-- Every step of the module keeps the memory's canonical form (log 5, DESIGN CHOICE); reset has it. -/
def Obligations.StepKeepsMemoryCanonical : Prop :=
  ∀ s t : State, s.sound → step s = .next t → t.sound
end

