-- ==== Sys2Proof/Laws/Issue.lean ====
section
/-!
SUPPORT. What the shared operations of issue do: `commit`, the touching of blocks, guards and own accesses.
-/

namespace Sys2Proof.Machine

theorem enabled_zero (f : BitVec 5) : enabled 0 f = false := by simp [enabled]

@[simp] theorem raiseFlags_zero (s : State) : s.raiseFlags 0 = s := by simp [State.raiseFlags]

/-- A word that issues and raises no flag leaves the state that its issue names. -/
@[simp] theorem commit_ok (sl : Nat) (s t : State) : commit sl s (.ok t) = .next t := by
  show (if (true && enabled 0 s.c.ctl.fen) = true then _ else Host.Outcome.next (t.raiseFlags 0)) = _
  rw [enabled_zero, if_neg (by simp), raiseFlags_zero]

/-- A word that issues leaves its state with its flags in flight, unless an enabled flag raises FPX. -/
theorem commit_go {sl : Nat} {s t : State} {fl : BitVec 9} {w : Word} {fu : Bool}
    (h : fu = true ∨ s.noFpx fl) : commit sl s (.go fl w fu t) = .next (t.raiseFlags fl) := by
  rcases h with rfl | h
  · rfl
  · rw [commit, if_neg (by simp [show enabled fl s.c.ctl.fen = false from h])]

theorem commit_fpx {sl : Nat} {s t : State} {fl : BitVec 9} {w : Word} (h : enabled fl s.c.ctl.fen = true) :
    commit sl s (.go fl w false t) = .next (s.takeFpx sl w fl) := by simp [commit, h]

@[simp] theorem commit_trap (sl : Nat) (s : State) (t : Trap) : commit sl s (.trap t) = .next (s.takeTrap s.cur t) := rfl

theorem commit_raise (sl : Nat) (s : State) (code slot : Nat) (v : Word) :
    commit sl s (s.raise code slot v) = .next (s.takeTrap s.cur (s.trapHere code slot v)) := rfl

/-- A word whose blocks are there goes on. -/
theorem touching_there {s : State} {bs : List Nat} {k : Issue} (h : s.there bs) : Issue.touching s bs k = k := by
  simp [Issue.touching, show s.missingOf s.cur bs = [] from h]

/-- A word with an absent block waits and asks for it. -/
theorem touching_missing {s : State} {bs : List Nat} {k : Issue} (h : s.missingOf s.cur bs ≠ []) :
    Issue.touching s bs k = .wait [wBLOCK] (s.askBlocks s.cur (s.missingOf s.cur bs)) := by
  simp [Issue.touching, h]

theorem guarded_acts {s : State} {g : BitVec 4} {bs : List Nat} {k : Issue} (h : s.acts g bs) : s.guarded g bs k = k := by
  rw [State.guarded, touching_there h.1, if_pos h.2.1, touching_there h.2.2]

/-- A word with a false guard has no effect. -/
theorem guarded_off {s : State} {g : BitVec 4} {bs : List Nat} {k : Issue} (h : s.there (guardBlocks g))
    (hg : s.c.guard g = false) : s.guarded g bs k = .ok s := by
  rw [State.guarded, touching_there h, if_neg (by simp [hg])]

theorem guardedLs_acts {s : State} {g : BitVec 3} {bs : List Nat} {k : Issue} (h : s.actsLs g bs) :
    s.guardedLs g bs k = k := by
  rw [State.guardedLs, touching_there h.1, if_pos h.2.1, touching_there h.2.2]

theorem guardedLs_off {s : State} {g : BitVec 3} {bs : List Nat} {k : Issue} (h : s.there (guardBlocksLs g))
    (hg : s.c.guardLs g = false) : s.guardedLs g bs k = .ok s := by
  rw [State.guardedLs, touching_there h, if_neg (by simp [hg])]

/-- An access to reachable own bytes goes on. -/
theorem ownAccess_reachable {s : State} {slot : Nat} {a : Word} {off len : Nat} {r w : Bool} {k : Issue}
    (h : s.reachable off len r w) : s.ownAccess slot a off len r w k = k := by
  obtain ⟨h1, h2, h3, h4, hu, h5⟩ := h
  rw [State.ownAccess]
  simp only [h1, h2, h3, h4, hu]
  cases r with
  | false => simp
  | true => simp [(h5 rfl).1, (h5 rfl).2]

theorem commit_guarded {sl : Nat} {s t : State} {g : BitVec 4} {bs : List Nat} (h : s.acts g bs) :
    commit sl s (s.guarded g bs (.ok t)) = .next t := by rw [guarded_acts h, commit_ok]

theorem commit_guarded_off {sl : Nat} {s : State} {g : BitVec 4} {bs : List Nat} {k : Issue} (h : s.there (guardBlocks g))
    (hg : s.c.guard g = false) : commit sl s (s.guarded g bs k) = .next s := by rw [guarded_off h hg, commit_ok]

theorem commit_touching {sl : Nat} {s t : State} {bs : List Nat} (h : s.there bs) :
    commit sl s (Issue.touching s bs (.ok t)) = .next t := by rw [touching_there h, commit_ok]

/-- A VX word on reachable rows writes its row with its latency, and its flags. -/
theorem commit_vx {s : State} {q : BitVec 3} {bs : List Nat} {reads : List (BitVec 6)} {vd : BitVec 6} {lat : Nat} {w : Word}
    {f : List Byte × BitVec 9} (h : s.actsVx q (2 :: bs)) (hr : s.rowsReachable reads vd)
    (hf : s.c.fusedHere = true ∨ s.noFpx f.2) :
    commit 2 s (s.vx q bs reads vd lat w f) =
      .next (((s.modC Ctx.fusionStep).pend lat [.acc s.c.fusedHere (rowOff (s.c.row vd)) f.1]).raiseFlags f.2) := by
  have hrows : ∀ (l : List (BitVec 6)) (k : Issue), (∀ v ∈ l, s.reachable (rowOff (s.c.row v)) 512 true false) →
      s.rows l k = k := by
    intro l k hl
    induction l with
    | nil => rfl
    | cons v l ih =>
      have := ih (fun x hx => hl x (List.mem_cons_of_mem _ hx))
      simp only [State.rows, List.foldr_cons] at this ⊢
      rw [this, ownAccess_reachable (hl v List.mem_cons_self)]
  rw [State.vx, touching_there h.1, if_neg (by simp [h.2.1]), touching_there h.2.2, hrows _ _ hr.1,
    ownAccess_reachable hr.2, commit_go hf]

/-- An LS access to own bytes goes on with their offset. -/
theorem lsAccess_own {s : State} {a : Word} {len o : Nat} {own : Nat → Issue} {far : Aim → Issue} (h : s.ownAt a len o) :
    s.lsAccess a len own far = own o := by
  obtain ⟨h1, h2, h3, h4⟩ := h
  have h1' : ¬ (a.toNat % (if len = 512 then (if s.targetsAcc a.toNat then 512 else 64) else len) != 0) = true := by
    simpa [State.aligned] using h1
  rw [State.lsAccess]
  simp only [h1', h2, h3, h4]
  simp

/-- A misaligned LS access raises ALIGN with its address. -/
theorem lsAccess_misaligned {s : State} {a : Word} {len : Nat} {own : Nat → Issue} {far : Aim → Issue}
    (h : ¬ s.aligned a len) : s.lsAccess a len own far = s.raise tALIGN 3 a := by
  have h1' : (a.toNat % (if len = 512 then (if s.targetsAcc a.toNat then 512 else 64) else len) != 0) = true := by
    simpa [State.aligned] using h
  rw [State.lsAccess]
  simp only [h1']
  simp

/-- An LS access to a remote home goes on with its aim. -/
theorem lsAccess_far {s : State} {a : Word} {len : Nat} {wr : Bool} {r : Reach} {own : Nat → Issue} {far : Aim → Issue}
    (h : s.farAt a len wr r) : s.lsAccess a len own far = far (s.aim s.c a.toNat) := by
  obtain ⟨h1, h2, h3, -⟩ := h
  have h1' : ¬ (a.toNat % (if len = 512 then (if s.targetsAcc a.toNat then 512 else 64) else len) != 0) = true := by
    simpa [State.aligned] using h1
  rw [State.lsAccess]
  simp only [h1']
  cases h : s.aim s.c a.toNat <;> simp_all

/-- An aligned LS access whose address is in no aperture raises XLATE. -/
theorem lsAccess_bad {s : State} {a : Word} {len : Nat} {own : Nat → Issue} {far : Aim → Issue} (h1 : s.aligned a len)
    (h2 : s.aim s.c a.toNat = .bad) : s.lsAccess a len own far = s.raise tXLATE 3 a := by
  have h1' : ¬ (a.toNat % (if len = 512 then (if s.targetsAcc a.toNat then 512 else 64) else len) != 0) = true := by
    simpa [State.aligned] using h1
  rw [State.lsAccess]
  simp only [h1', h2]
  simp

/-- An own scratchpad access outside the bounds raises SEGBOUND. -/
theorem lsAccess_segbound {s : State} {a : Word} {len o : Nat} {own : Nat → Issue} {far : Aim → Issue} (h1 : s.aligned a len)
    (h2 : s.aim s.c a.toNat = .own o) (h3 : s.c.inBounds o len = false) : s.lsAccess a len own far = s.raise tSEGBOUND 3 a := by
  have h1' : ¬ (a.toNat % (if len = 512 then (if s.targetsAcc a.toNat then 512 else 64) else len) != 0) = true := by
    simpa [State.aligned] using h1
  rw [State.lsAccess]
  simp only [h1', h2, h3]
  simp

/-- An own access to a group that a routine holds raises MBANK. -/
theorem lsAccess_mbank {s : State} {a : Word} {len o : Nat} {own : Nat → Issue} {far : Aim → Issue} (h1 : s.aligned a len)
    (h2 : s.aim s.c a.toNat = .own o) (h3 : s.c.inBounds o len = true) (h4 : s.c.groupHeld o len = true) :
    s.lsAccess a len own far = s.raise tMBANK 3 a := by
  have h1' : ¬ (a.toNat % (if len = 512 then (if s.targetsAcc a.toNat then 512 else 64) else len) != 0) = true := by
    simpa [State.aligned] using h1
  rw [State.lsAccess]
  simp only [h1', h2, h3, h4]
  simp

theorem limited_below {s : State} {w : Bool} {k : Issue} (h : s.below w) : s.limited w k = k := by
  rw [State.limited]; exact if_pos h

theorem fencedBy_ordered {s : State} {ks : List Nat} {sc : Nat} {k : Issue} (h : s.ordered sc) : s.fencedBy ks sc k = k := by
  simp [State.fencedBy, h.1, h.2]

theorem fenced_ordered {s : State} {sc : Nat} {k : Issue} (h : s.ordered sc) : s.fenced sc k = k := fencedBy_ordered h

end Sys2Proof.Machine
end

