-- ==== Sys2Proof/Laws/Memory.lean ====
section
/-!
SUPPORT. The list of memory bytes: what a read gives after a write, and that every memory operation keeps the canonical
form.
-/

namespace Sys2Proof.Machine

/-! ### Rising addresses -/

/-- Every address of a list is at least a bound. -/
def cellsAbove (b : Nat) (l : List Host.Cell) : Prop := ∀ c ∈ l, b ≤ c.1

/-- The canonical form as a recursion on the head. -/
theorem cellsWf_cons (j : Nat) (c : Byte) (t : List Host.Cell) :
    cellsWf ((j, c) :: t) = true ↔ c ≠ defaultByte ∧ cellsAbove (j + 1) t ∧ cellsWf t = true := by
  induction t generalizing j c with
  | nil => simp [cellsWf, cellsAbove]
  | cons p t ih =>
    obtain ⟨k, d⟩ := p
    rw [cellsWf, Bool.and_eq_true, Bool.and_eq_true, bne_iff_ne, decide_eq_true_eq]
    constructor
    · rintro ⟨⟨h1, h2⟩, h3⟩
      refine ⟨h1, ?_, h3⟩
      intro x hx
      rcases List.mem_cons.1 hx with rfl | hx
      · exact h2
      · have := ((ih k d).1 h3).2.1 x hx
        omega
    · rintro ⟨h1, h2, h3⟩
      exact ⟨⟨h1, h2 (k, d) List.mem_cons_self⟩, h3⟩

theorem cellsAbove_mono {a b : Nat} {l : List Host.Cell} (h : cellsAbove b l) (hab : a ≤ b) : cellsAbove a l :=
  fun c hc => Nat.le_trans hab (h c hc)

/-- An address below all that are listed reads as the default. -/
theorem cellGet_above {b a : Nat} {l : List Host.Cell} (h : cellsAbove b l) (ha : a < b) : cellGet l a = defaultByte := by
  induction l with
  | nil => rfl
  | cons p t ih =>
    obtain ⟨j, c⟩ := p
    have hj : b ≤ j := h (j, c) List.mem_cons_self
    rw [cellGet, if_neg (by omega)]
    exact ih (fun x hx => h x (List.mem_cons_of_mem _ hx))

theorem cellSet_above {b a : Nat} {l : List Host.Cell} {v : Byte} (h : cellsAbove b l) (ha : b ≤ a) :
    cellsAbove b (cellSet l a v) := by
  induction l with
  | nil =>
    rw [cellSet]
    split
    · intro c hc; cases hc
    · intro c hc
      rw [List.mem_singleton] at hc
      subst hc; exact ha
  | cons p t ih =>
    obtain ⟨j, c⟩ := p
    have hj : b ≤ j := h (j, c) List.mem_cons_self
    have ht : cellsAbove b t := fun x hx => h x (List.mem_cons_of_mem _ hx)
    rw [cellSet]
    split
    · split
      · exact h
      · intro x hx
        rcases List.mem_cons.1 hx with rfl | hx
        · exact ha
        · exact h x hx
    · split
      · split
        · exact ht
        · intro x hx
          rcases List.mem_cons.1 hx with rfl | hx
          · exact ha
          · exact ht x hx
      · intro x hx
        rcases List.mem_cons.1 hx with rfl | hx
        · exact hj
        · exact ih ht x hx

/-! ### The canonical form -/

/-- One byte written keeps the form. -/
theorem cellSet_wf {l : List Host.Cell} (a : Nat) (v : Byte) (h : cellsWf l = true) : cellsWf (cellSet l a v) = true := by
  induction l with
  | nil =>
    rw [cellSet]
    split
    · rfl
    · next hv => rw [cellsWf_cons]; exact ⟨hv, fun c hc => absurd hc List.not_mem_nil, rfl⟩
  | cons p t ih =>
    obtain ⟨j, c⟩ := p
    obtain ⟨h1, h2, h3⟩ := (cellsWf_cons j c t).1 h
    rw [cellSet]
    split
    · next hlt =>
      split
      · exact h
      · next hv =>
        rw [cellsWf_cons]
        refine ⟨hv, ?_, h⟩
        intro x hx
        rcases List.mem_cons.1 hx with rfl | hx
        · exact hlt
        · have := h2 x hx; omega
    · next hlt =>
      split
      · next he =>
        split
        · exact h3
        · next hv =>
          rw [cellsWf_cons]
          subst he
          exact ⟨hv, h2, h3⟩
      · next he =>
        rw [cellsWf_cons]
        exact ⟨h1, cellSet_above h2 (by omega), ih h3⟩

/-- A read after a write of one byte. -/
theorem cellGet_cellSet {l : List Host.Cell} (h : cellsWf l = true) (a b : Nat) (v : Byte) :
    cellGet (cellSet l a v) b = if a = b then v else cellGet l b := by
  induction l with
  | nil =>
    rw [cellSet]
    split
    · next hv =>
      split
      · rw [hv]; rfl
      · rfl
    · rfl
  | cons p t ih =>
    obtain ⟨j, c⟩ := p
    obtain ⟨-, h2, h3⟩ := (cellsWf_cons j c t).1 h
    rw [cellSet]
    split
    · next hlt =>
      split
      · next hv =>
        split
        · next he =>
          subst he
          rw [hv]
          exact cellGet_above (b := a + 1) (fun x hx => by
            rcases List.mem_cons.1 hx with rfl | hx
            · exact hlt
            · have := h2 x hx; omega) (by omega)
        · rfl
      · rw [cellGet]
    · next hlt =>
      split
      · next he =>
        subst he
        split
        · next hv =>
          rw [cellGet]
          split
          · next hb => subst hb; rw [hv]; exact cellGet_above h2 (by omega)
          · rfl
        · rw [cellGet]
          split
          · rfl
          · next hb => rw [cellGet, if_neg hb]
      · next he =>
        rw [cellGet, cellGet, ih h3]
        split
        · next hb =>
          subst hb
          rw [if_neg (fun x => he x.symm)]
        · rfl

/-- Bytes written from a key on keep the form. -/
theorem cellsWrite_wf {l : List Host.Cell} (a : Nat) (bs : List Byte) (h : cellsWf l = true) :
    cellsWf (cellsWrite l a bs) = true := by
  induction bs generalizing l a with
  | nil => exact h
  | cons b bs ih => exact ih _ (cellSet_wf a b h)

/-- A read after a write of bytes from a key on. -/
theorem cellGet_cellsWrite {l : List Host.Cell} (h : cellsWf l = true) (a b : Nat) (bs : List Byte) :
    cellGet (cellsWrite l a bs) b = if a ≤ b ∧ b < a + bs.length then bs.getD (b - a) 0 else cellGet l b := by
  induction bs generalizing l a with
  | nil => rw [cellsWrite, if_neg (by simp)]
  | cons c bs ih =>
    rw [cellsWrite, ih (cellSet_wf a c h), cellGet_cellSet h]
    simp only [List.length_cons]
    by_cases h1 : a = b
    · subst h1
      rw [if_neg (by omega), if_pos rfl, if_pos (by omega), Nat.sub_self]
      rfl
    · by_cases h2 : a + 1 ≤ b ∧ b < a + 1 + bs.length
      · rw [if_pos h2, if_pos (by omega)]
        have : b - a = (b - (a + 1)) + 1 := by omega
        rw [this]; rfl
      · rw [if_neg h2, if_neg h1, if_neg (by omega)]

/-- A write leaves every byte outside the written ones. -/
theorem cellGet_cellsWrite_out {l : List Host.Cell} (a b : Nat) (bs : List Byte) (h : cellsWf l = true)
    (ho : b < a ∨ a + bs.length ≤ b) : cellGet (cellsWrite l a bs) b = cellGet l b := by
  rw [cellGet_cellsWrite h, if_neg (by omega)]

/-- Dropping entries keeps the form. -/
theorem cells_filter_wf {l : List Host.Cell} (p : Host.Cell → Bool) (h : cellsWf l = true) : cellsWf (l.filter p) = true := by
  induction l with
  | nil => rfl
  | cons q t ih =>
    obtain ⟨j, c⟩ := q
    obtain ⟨h1, h2, h3⟩ := (cellsWf_cons j c t).1 h
    rw [List.filter_cons]
    split
    · rw [cellsWf_cons]
      exact ⟨h1, fun x hx => h2 x (List.mem_filter.1 hx).1, ih h3⟩
    · exact ih h3

/-- A fold of single writes keeps the form. -/
theorem cells_foldl_wf {α : Type} (f : α → Nat) (g : α → Byte) (xs : List α) {l : List Host.Cell} (h : cellsWf l = true) :
    cellsWf (xs.foldl (fun c x => cellSet c (f x) (g x)) l) = true := by
  induction xs generalizing l with
  | nil => exact h
  | cons x xs ih => exact ih (cellSet_wf _ _ h)

/-! ### The memory operations -/

theorem Memory.write_wf {m : Memory} (a : Nat) (bs : List Byte) (h : m.wf = true) : (m.write a bs).wf = true :=
  cellsWrite_wf a bs h

theorem Memory.setForm_wf {m : Memory} (a n : Nat) (f : Bool) (h : m.wf = true) : (m.setForm a n f).wf = true := h

theorem Memory.poisonLine_wf {m : Memory} (l : Nat) (h : m.wf = true) : (m.poisonLine l).wf = true := h

theorem Memory.soften_wf {m : Memory} (w a : Nat) (bs : List Byte) (h : m.wf = true) : (m.soften w a bs).wf = true := by
  rw [Memory.soften]; split <;> exact h

theorem Memory.scrub_wf {m : Memory} (k n : Nat) (h : m.wf = true) : (m.scrub k n).wf = true := cells_filter_wf _ h

theorem Memory.scrubPlain_wf {m : Memory} (k n : Nat) (h : m.wf = true) : (m.scrubPlain k n).wf = true :=
  cells_filter_wf _ h

theorem Memory.keep_wf {m : Memory} (f : Nat → Bool) (h : m.wf = true) : (m.keep f).wf = true := cells_filter_wf _ h

theorem Memory.putBlock_wf {m : Memory} (k : Nat) (b : SavedBlock) (h : m.wf = true) : (m.putBlock k b).wf = true := by
  simp only [Memory.putBlock, Memory.wf, Memory.scrub]
  exact cells_foldl_wf (fun x : Nat × Byte => k + x.1) (fun x => x.2) _ (cells_filter_wf _ h)

theorem Memory.copyLines_wf {m : Memory} (w src dst : Nat) (ls : List Nat) (h : m.wf = true) :
    (m.copyLines w src dst ls).wf = true := by
  induction ls generalizing m with
  | nil => exact h
  | cons l ls ih =>
    have hw : ∀ bs, ((m.soften w (dst + 64 * l) bs).write (dst + 64 * l) bs).wf = true :=
      fun bs => Memory.write_wf _ bs (Memory.soften_wf _ _ bs h)
    simp only [Memory.copyLines, List.foldl_cons] at ih ⊢
    refine ih ?_
    generalize hb : m.read (src + 64 * l) 64 = bs
    cases m.poison.contains ((src + 64 * l) / 64) with
    | true => exact hw bs
    | false => exact hw bs

/-- A read of the memory after a write of bytes that cover it gives the bytes. -/
theorem Memory.read_write {m : Memory} (a : Nat) (bs : List Byte) (h : m.wf = true) :
    (m.write a bs).read a bs.length = bs := by
  simp only [Memory.read, cellsRead, Memory.write]
  refine List.ext_getElem (by simp) fun i h1 h2 => ?_
  rw [List.getElem_map, List.getElem_range, cellGet_cellsWrite h, if_pos ⟨by omega, by omega⟩, Nat.add_sub_cancel_left,
    List.getD_eq_getElem _ _ h2]

/-- The memory after reset is in canonical form. -/
theorem reset_mem_wf : State.reset.mem.wf = true := rfl

end Sys2Proof.Machine
end

