-- ==== Sys2Proof/Laws/State.lean ====
section
/-!
SUPPORT. The fields of the state and of a context after each update, and tables: what is read back after a write.
-/

namespace Sys2Proof.Machine

/-! ### Tables -/

@[simp] theorem tget_tput_self {α : Type} (d v : α) (k : Nat) (t : Tbl α) : tget d k (tput k v t) = v := by
  induction t with
  | nil => simp [tput, tget]
  | cons p t ih =>
    obtain ⟨j, w⟩ := p
    rw [tput]
    split
    · simp [tget]
    · split
      · simp [tget]
      · rename_i h1 h2
        rw [tget, if_neg h2, ih]

theorem tget_tput_ne {α : Type} (d v : α) {j k : Nat} (h : j ≠ k) (t : Tbl α) : tget d j (tput k v t) = tget d j t := by
  induction t with
  | nil => simp [tput, tget, Ne.symm h]
  | cons p t ih =>
    obtain ⟨i, w⟩ := p
    rw [tput]
    split
    · rw [tget, if_neg (Ne.symm h)]
    · split
      · rename_i h1 h2
        subst h2
        rw [tget, tget, if_neg (Ne.symm h), if_neg (Ne.symm h)]
      · rw [tget, tget, ih]

/-! ### Spindles and contexts -/

@[simp] theorem sp_setSp (s : State) (n : Nat) (x : Spindle) : (s.setSp n x).sp n = x := tget_tput_self ..
theorem sp_setSp_ne (s : State) {m n : Nat} (h : m ≠ n) (x : Spindle) : (s.setSp n x).sp m = s.sp m := tget_tput_ne _ _ h _
@[simp] theorem sp_modSp (s : State) (n : Nat) (f : Spindle → Spindle) : (s.modSp n f).sp n = f (s.sp n) := sp_setSp ..
theorem sp_modSp_ne (s : State) {m n : Nat} (h : m ≠ n) (f : Spindle → Spindle) : (s.modSp n f).sp m = s.sp m :=
  sp_setSp_ne s h _
theorem modCtx_self (s : State) (n : Nat) (f : Ctx → Ctx) : (s.modCtx n f).ctxOf n = f (s.ctxOf n) := by
  simp [State.modCtx, State.ctxOf]
theorem modCtx_other (s : State) {m n : Nat} (h : m ≠ n) (f : Ctx → Ctx) : (s.modCtx n f).ctxOf m = s.ctxOf m := by
  simp [State.modCtx, State.ctxOf, sp_modSp_ne s h]
@[simp] theorem modC_c (s : State) (f : Ctx → Ctx) : (s.modC f).c = f s.c := modCtx_self s s.cur f

/-! ### The other fields of the state after an update -/

@[simp] theorem modSp_gcyc (s : State) (n : Nat) (f : Spindle → Spindle) : (s.modSp n f).gcyc = s.gcyc := rfl
@[simp] theorem modSp_stands (s : State) (n : Nat) (f : Spindle → Spindle) : (s.modSp n f).stands = s.stands := rfl
@[simp] theorem modSp_parts (s : State) (n : Nat) (f : Spindle → Spindle) : (s.modSp n f).parts = s.parts := rfl
@[simp] theorem modSp_gates (s : State) (n : Nat) (f : Spindle → Spindle) : (s.modSp n f).gates = s.gates := rfl
@[simp] theorem modSp_mem (s : State) (n : Nat) (f : Spindle → Spindle) : (s.modSp n f).mem = s.mem := rfl
@[simp] theorem modSp_msgs (s : State) (n : Nat) (f : Spindle → Spindle) : (s.modSp n f).msgs = s.msgs := rfl
@[simp] theorem modSp_clocks (s : State) (n : Nat) (f : Spindle → Spindle) : (s.modSp n f).clocks = s.clocks := rfl
@[simp] theorem modSp_served (s : State) (n : Nat) (f : Spindle → Spindle) : (s.modSp n f).served = s.served := rfl
@[simp] theorem modSp_recWrites (s : State) (n : Nat) (f : Spindle → Spindle) : (s.modSp n f).recWrites = s.recWrites := rfl
@[simp] theorem modSp_phase (s : State) (n : Nat) (f : Spindle → Spindle) : (s.modSp n f).phase = s.phase := rfl
@[simp] theorem modSp_held (s : State) (n : Nat) (f : Spindle → Spindle) : (s.modSp n f).held = s.held := rfl
@[simp] theorem modSp_walks (s : State) (n : Nat) (f : Spindle → Spindle) : (s.modSp n f).walks = s.walks := rfl
@[simp] theorem modSp_cuts (s : State) (n : Nat) (f : Spindle → Spindle) : (s.modSp n f).cuts = s.cuts := rfl
@[simp] theorem modSp_lease (s : State) (n : Nat) (f : Spindle → Spindle) : (s.modSp n f).lease = s.lease := rfl
@[simp] theorem modSp_out (s : State) (n : Nat) (f : Spindle → Spindle) : (s.modSp n f).out = s.out := rfl
@[simp] theorem modSp_pf (s : State) (n : Nat) (f : Spindle → Spindle) : (s.modSp n f).pf = s.pf := rfl
@[simp] theorem modSp_power (s : State) (n : Nat) (f : Spindle → Spindle) : (s.modSp n f).power = s.power := rfl
@[simp] theorem modSp_errors (s : State) (n : Nat) (f : Spindle → Spindle) : (s.modSp n f).errors = s.errors := rfl
@[simp] theorem modSp_update (s : State) (n : Nat) (f : Spindle → Spindle) : (s.modSp n f).update = s.update := rfl
@[simp] theorem modSp_sec (s : State) (n : Nat) (f : Spindle → Spindle) : (s.modSp n f).sec = s.sec := rfl
@[simp] theorem modSp_nextId (s : State) (n : Nat) (f : Spindle → Spindle) : (s.modSp n f).nextId = s.nextId := rfl
@[simp] theorem modSp_cur (s : State) (n : Nat) (f : Spindle → Spindle) : (s.modSp n f).cur = s.cur := rfl
@[simp] theorem modSp_turn (s : State) (n : Nat) (f : Spindle → Spindle) : (s.modSp n f).turn = s.turn := rfl
@[simp] theorem modSp_agenda (s : State) (n : Nat) (f : Spindle → Spindle) : (s.modSp n f).agenda = s.agenda := rfl
@[simp] theorem modSp_inputs (s : State) (n : Nat) (f : Spindle → Spindle) : (s.modSp n f).inputs = s.inputs := rfl
@[simp] theorem modSp_free (s : State) (n : Nat) (f : Spindle → Spindle) : (s.modSp n f).free = s.free := rfl
@[simp] theorem modCtx_gcyc (s : State) (n : Nat) (f : Ctx → Ctx) : (s.modCtx n f).gcyc = s.gcyc := rfl
@[simp] theorem modCtx_stands (s : State) (n : Nat) (f : Ctx → Ctx) : (s.modCtx n f).stands = s.stands := rfl
@[simp] theorem modCtx_parts (s : State) (n : Nat) (f : Ctx → Ctx) : (s.modCtx n f).parts = s.parts := rfl
@[simp] theorem modCtx_gates (s : State) (n : Nat) (f : Ctx → Ctx) : (s.modCtx n f).gates = s.gates := rfl
@[simp] theorem modCtx_mem (s : State) (n : Nat) (f : Ctx → Ctx) : (s.modCtx n f).mem = s.mem := rfl
@[simp] theorem modCtx_msgs (s : State) (n : Nat) (f : Ctx → Ctx) : (s.modCtx n f).msgs = s.msgs := rfl
@[simp] theorem modCtx_clocks (s : State) (n : Nat) (f : Ctx → Ctx) : (s.modCtx n f).clocks = s.clocks := rfl
@[simp] theorem modCtx_served (s : State) (n : Nat) (f : Ctx → Ctx) : (s.modCtx n f).served = s.served := rfl
@[simp] theorem modCtx_recWrites (s : State) (n : Nat) (f : Ctx → Ctx) : (s.modCtx n f).recWrites = s.recWrites := rfl
@[simp] theorem modCtx_phase (s : State) (n : Nat) (f : Ctx → Ctx) : (s.modCtx n f).phase = s.phase := rfl
@[simp] theorem modCtx_held (s : State) (n : Nat) (f : Ctx → Ctx) : (s.modCtx n f).held = s.held := rfl
@[simp] theorem modCtx_walks (s : State) (n : Nat) (f : Ctx → Ctx) : (s.modCtx n f).walks = s.walks := rfl
@[simp] theorem modCtx_cuts (s : State) (n : Nat) (f : Ctx → Ctx) : (s.modCtx n f).cuts = s.cuts := rfl
@[simp] theorem modCtx_lease (s : State) (n : Nat) (f : Ctx → Ctx) : (s.modCtx n f).lease = s.lease := rfl
@[simp] theorem modCtx_out (s : State) (n : Nat) (f : Ctx → Ctx) : (s.modCtx n f).out = s.out := rfl
@[simp] theorem modCtx_pf (s : State) (n : Nat) (f : Ctx → Ctx) : (s.modCtx n f).pf = s.pf := rfl
@[simp] theorem modCtx_power (s : State) (n : Nat) (f : Ctx → Ctx) : (s.modCtx n f).power = s.power := rfl
@[simp] theorem modCtx_errors (s : State) (n : Nat) (f : Ctx → Ctx) : (s.modCtx n f).errors = s.errors := rfl
@[simp] theorem modCtx_update (s : State) (n : Nat) (f : Ctx → Ctx) : (s.modCtx n f).update = s.update := rfl
@[simp] theorem modCtx_sec (s : State) (n : Nat) (f : Ctx → Ctx) : (s.modCtx n f).sec = s.sec := rfl
@[simp] theorem modCtx_nextId (s : State) (n : Nat) (f : Ctx → Ctx) : (s.modCtx n f).nextId = s.nextId := rfl
@[simp] theorem modCtx_cur (s : State) (n : Nat) (f : Ctx → Ctx) : (s.modCtx n f).cur = s.cur := rfl
@[simp] theorem modCtx_turn (s : State) (n : Nat) (f : Ctx → Ctx) : (s.modCtx n f).turn = s.turn := rfl
@[simp] theorem modCtx_agenda (s : State) (n : Nat) (f : Ctx → Ctx) : (s.modCtx n f).agenda = s.agenda := rfl
@[simp] theorem modCtx_inputs (s : State) (n : Nat) (f : Ctx → Ctx) : (s.modCtx n f).inputs = s.inputs := rfl
@[simp] theorem modCtx_free (s : State) (n : Nat) (f : Ctx → Ctx) : (s.modCtx n f).free = s.free := rfl
@[simp] theorem modC_gcyc (s : State) (f : Ctx → Ctx) : (s.modC f).gcyc = s.gcyc := rfl
@[simp] theorem modC_stands (s : State) (f : Ctx → Ctx) : (s.modC f).stands = s.stands := rfl
@[simp] theorem modC_parts (s : State) (f : Ctx → Ctx) : (s.modC f).parts = s.parts := rfl
@[simp] theorem modC_gates (s : State) (f : Ctx → Ctx) : (s.modC f).gates = s.gates := rfl
@[simp] theorem modC_mem (s : State) (f : Ctx → Ctx) : (s.modC f).mem = s.mem := rfl
@[simp] theorem modC_msgs (s : State) (f : Ctx → Ctx) : (s.modC f).msgs = s.msgs := rfl
@[simp] theorem modC_clocks (s : State) (f : Ctx → Ctx) : (s.modC f).clocks = s.clocks := rfl
@[simp] theorem modC_served (s : State) (f : Ctx → Ctx) : (s.modC f).served = s.served := rfl
@[simp] theorem modC_recWrites (s : State) (f : Ctx → Ctx) : (s.modC f).recWrites = s.recWrites := rfl
@[simp] theorem modC_phase (s : State) (f : Ctx → Ctx) : (s.modC f).phase = s.phase := rfl
@[simp] theorem modC_held (s : State) (f : Ctx → Ctx) : (s.modC f).held = s.held := rfl
@[simp] theorem modC_walks (s : State) (f : Ctx → Ctx) : (s.modC f).walks = s.walks := rfl
@[simp] theorem modC_cuts (s : State) (f : Ctx → Ctx) : (s.modC f).cuts = s.cuts := rfl
@[simp] theorem modC_lease (s : State) (f : Ctx → Ctx) : (s.modC f).lease = s.lease := rfl
@[simp] theorem modC_out (s : State) (f : Ctx → Ctx) : (s.modC f).out = s.out := rfl
@[simp] theorem modC_pf (s : State) (f : Ctx → Ctx) : (s.modC f).pf = s.pf := rfl
@[simp] theorem modC_power (s : State) (f : Ctx → Ctx) : (s.modC f).power = s.power := rfl
@[simp] theorem modC_errors (s : State) (f : Ctx → Ctx) : (s.modC f).errors = s.errors := rfl
@[simp] theorem modC_update (s : State) (f : Ctx → Ctx) : (s.modC f).update = s.update := rfl
@[simp] theorem modC_sec (s : State) (f : Ctx → Ctx) : (s.modC f).sec = s.sec := rfl
@[simp] theorem modC_nextId (s : State) (f : Ctx → Ctx) : (s.modC f).nextId = s.nextId := rfl
@[simp] theorem modC_cur (s : State) (f : Ctx → Ctx) : (s.modC f).cur = s.cur := rfl
@[simp] theorem modC_turn (s : State) (f : Ctx → Ctx) : (s.modC f).turn = s.turn := rfl
@[simp] theorem modC_agenda (s : State) (f : Ctx → Ctx) : (s.modC f).agenda = s.agenda := rfl
@[simp] theorem modC_inputs (s : State) (f : Ctx → Ctx) : (s.modC f).inputs = s.inputs := rfl
@[simp] theorem modC_free (s : State) (f : Ctx → Ctx) : (s.modC f).free = s.free := rfl
@[simp] theorem modStand_gcyc (s : State) (k : Nat) (f : Stand → Stand) : (s.modStand k f).gcyc = s.gcyc := rfl
@[simp] theorem modStand_spindles (s : State) (k : Nat) (f : Stand → Stand) : (s.modStand k f).spindles = s.spindles := rfl
@[simp] theorem modStand_parts (s : State) (k : Nat) (f : Stand → Stand) : (s.modStand k f).parts = s.parts := rfl
@[simp] theorem modStand_gates (s : State) (k : Nat) (f : Stand → Stand) : (s.modStand k f).gates = s.gates := rfl
@[simp] theorem modStand_mem (s : State) (k : Nat) (f : Stand → Stand) : (s.modStand k f).mem = s.mem := rfl
@[simp] theorem modStand_msgs (s : State) (k : Nat) (f : Stand → Stand) : (s.modStand k f).msgs = s.msgs := rfl
@[simp] theorem modStand_clocks (s : State) (k : Nat) (f : Stand → Stand) : (s.modStand k f).clocks = s.clocks := rfl
@[simp] theorem modStand_served (s : State) (k : Nat) (f : Stand → Stand) : (s.modStand k f).served = s.served := rfl
@[simp] theorem modStand_recWrites (s : State) (k : Nat) (f : Stand → Stand) : (s.modStand k f).recWrites = s.recWrites := rfl
@[simp] theorem modStand_phase (s : State) (k : Nat) (f : Stand → Stand) : (s.modStand k f).phase = s.phase := rfl
@[simp] theorem modStand_held (s : State) (k : Nat) (f : Stand → Stand) : (s.modStand k f).held = s.held := rfl
@[simp] theorem modStand_walks (s : State) (k : Nat) (f : Stand → Stand) : (s.modStand k f).walks = s.walks := rfl
@[simp] theorem modStand_cuts (s : State) (k : Nat) (f : Stand → Stand) : (s.modStand k f).cuts = s.cuts := rfl
@[simp] theorem modStand_lease (s : State) (k : Nat) (f : Stand → Stand) : (s.modStand k f).lease = s.lease := rfl
@[simp] theorem modStand_out (s : State) (k : Nat) (f : Stand → Stand) : (s.modStand k f).out = s.out := rfl
@[simp] theorem modStand_pf (s : State) (k : Nat) (f : Stand → Stand) : (s.modStand k f).pf = s.pf := rfl
@[simp] theorem modStand_power (s : State) (k : Nat) (f : Stand → Stand) : (s.modStand k f).power = s.power := rfl
@[simp] theorem modStand_errors (s : State) (k : Nat) (f : Stand → Stand) : (s.modStand k f).errors = s.errors := rfl
@[simp] theorem modStand_update (s : State) (k : Nat) (f : Stand → Stand) : (s.modStand k f).update = s.update := rfl
@[simp] theorem modStand_sec (s : State) (k : Nat) (f : Stand → Stand) : (s.modStand k f).sec = s.sec := rfl
@[simp] theorem modStand_nextId (s : State) (k : Nat) (f : Stand → Stand) : (s.modStand k f).nextId = s.nextId := rfl
@[simp] theorem modStand_cur (s : State) (k : Nat) (f : Stand → Stand) : (s.modStand k f).cur = s.cur := rfl
@[simp] theorem modStand_turn (s : State) (k : Nat) (f : Stand → Stand) : (s.modStand k f).turn = s.turn := rfl
@[simp] theorem modStand_agenda (s : State) (k : Nat) (f : Stand → Stand) : (s.modStand k f).agenda = s.agenda := rfl
@[simp] theorem modStand_inputs (s : State) (k : Nat) (f : Stand → Stand) : (s.modStand k f).inputs = s.inputs := rfl
@[simp] theorem modStand_free (s : State) (k : Nat) (f : Stand → Stand) : (s.modStand k f).free = s.free := rfl
@[simp] theorem modPart_gcyc (s : State) (p : Nat) (f : Part → Part) : (s.modPart p f).gcyc = s.gcyc := rfl
@[simp] theorem modPart_spindles (s : State) (p : Nat) (f : Part → Part) : (s.modPart p f).spindles = s.spindles := rfl
@[simp] theorem modPart_stands (s : State) (p : Nat) (f : Part → Part) : (s.modPart p f).stands = s.stands := rfl
@[simp] theorem modPart_gates (s : State) (p : Nat) (f : Part → Part) : (s.modPart p f).gates = s.gates := rfl
@[simp] theorem modPart_mem (s : State) (p : Nat) (f : Part → Part) : (s.modPart p f).mem = s.mem := rfl
@[simp] theorem modPart_msgs (s : State) (p : Nat) (f : Part → Part) : (s.modPart p f).msgs = s.msgs := rfl
@[simp] theorem modPart_clocks (s : State) (p : Nat) (f : Part → Part) : (s.modPart p f).clocks = s.clocks := rfl
@[simp] theorem modPart_served (s : State) (p : Nat) (f : Part → Part) : (s.modPart p f).served = s.served := rfl
@[simp] theorem modPart_recWrites (s : State) (p : Nat) (f : Part → Part) : (s.modPart p f).recWrites = s.recWrites := rfl
@[simp] theorem modPart_phase (s : State) (p : Nat) (f : Part → Part) : (s.modPart p f).phase = s.phase := rfl
@[simp] theorem modPart_held (s : State) (p : Nat) (f : Part → Part) : (s.modPart p f).held = s.held := rfl
@[simp] theorem modPart_walks (s : State) (p : Nat) (f : Part → Part) : (s.modPart p f).walks = s.walks := rfl
@[simp] theorem modPart_cuts (s : State) (p : Nat) (f : Part → Part) : (s.modPart p f).cuts = s.cuts := rfl
@[simp] theorem modPart_lease (s : State) (p : Nat) (f : Part → Part) : (s.modPart p f).lease = s.lease := rfl
@[simp] theorem modPart_out (s : State) (p : Nat) (f : Part → Part) : (s.modPart p f).out = s.out := rfl
@[simp] theorem modPart_pf (s : State) (p : Nat) (f : Part → Part) : (s.modPart p f).pf = s.pf := rfl
@[simp] theorem modPart_power (s : State) (p : Nat) (f : Part → Part) : (s.modPart p f).power = s.power := rfl
@[simp] theorem modPart_errors (s : State) (p : Nat) (f : Part → Part) : (s.modPart p f).errors = s.errors := rfl
@[simp] theorem modPart_update (s : State) (p : Nat) (f : Part → Part) : (s.modPart p f).update = s.update := rfl
@[simp] theorem modPart_sec (s : State) (p : Nat) (f : Part → Part) : (s.modPart p f).sec = s.sec := rfl
@[simp] theorem modPart_nextId (s : State) (p : Nat) (f : Part → Part) : (s.modPart p f).nextId = s.nextId := rfl
@[simp] theorem modPart_cur (s : State) (p : Nat) (f : Part → Part) : (s.modPart p f).cur = s.cur := rfl
@[simp] theorem modPart_turn (s : State) (p : Nat) (f : Part → Part) : (s.modPart p f).turn = s.turn := rfl
@[simp] theorem modPart_agenda (s : State) (p : Nat) (f : Part → Part) : (s.modPart p f).agenda = s.agenda := rfl
@[simp] theorem modPart_inputs (s : State) (p : Nat) (f : Part → Part) : (s.modPart p f).inputs = s.inputs := rfl
@[simp] theorem modPart_free (s : State) (p : Nat) (f : Part → Part) : (s.modPart p f).free = s.free := rfl
@[simp] theorem modGate_gcyc (s : State) (g : Nat) (f : Gate → Gate) : (s.modGate g f).gcyc = s.gcyc := rfl
@[simp] theorem modGate_spindles (s : State) (g : Nat) (f : Gate → Gate) : (s.modGate g f).spindles = s.spindles := rfl
@[simp] theorem modGate_stands (s : State) (g : Nat) (f : Gate → Gate) : (s.modGate g f).stands = s.stands := rfl
@[simp] theorem modGate_parts (s : State) (g : Nat) (f : Gate → Gate) : (s.modGate g f).parts = s.parts := rfl
@[simp] theorem modGate_mem (s : State) (g : Nat) (f : Gate → Gate) : (s.modGate g f).mem = s.mem := rfl
@[simp] theorem modGate_msgs (s : State) (g : Nat) (f : Gate → Gate) : (s.modGate g f).msgs = s.msgs := rfl
@[simp] theorem modGate_clocks (s : State) (g : Nat) (f : Gate → Gate) : (s.modGate g f).clocks = s.clocks := rfl
@[simp] theorem modGate_served (s : State) (g : Nat) (f : Gate → Gate) : (s.modGate g f).served = s.served := rfl
@[simp] theorem modGate_recWrites (s : State) (g : Nat) (f : Gate → Gate) : (s.modGate g f).recWrites = s.recWrites := rfl
@[simp] theorem modGate_phase (s : State) (g : Nat) (f : Gate → Gate) : (s.modGate g f).phase = s.phase := rfl
@[simp] theorem modGate_held (s : State) (g : Nat) (f : Gate → Gate) : (s.modGate g f).held = s.held := rfl
@[simp] theorem modGate_walks (s : State) (g : Nat) (f : Gate → Gate) : (s.modGate g f).walks = s.walks := rfl
@[simp] theorem modGate_cuts (s : State) (g : Nat) (f : Gate → Gate) : (s.modGate g f).cuts = s.cuts := rfl
@[simp] theorem modGate_lease (s : State) (g : Nat) (f : Gate → Gate) : (s.modGate g f).lease = s.lease := rfl
@[simp] theorem modGate_out (s : State) (g : Nat) (f : Gate → Gate) : (s.modGate g f).out = s.out := rfl
@[simp] theorem modGate_pf (s : State) (g : Nat) (f : Gate → Gate) : (s.modGate g f).pf = s.pf := rfl
@[simp] theorem modGate_power (s : State) (g : Nat) (f : Gate → Gate) : (s.modGate g f).power = s.power := rfl
@[simp] theorem modGate_errors (s : State) (g : Nat) (f : Gate → Gate) : (s.modGate g f).errors = s.errors := rfl
@[simp] theorem modGate_update (s : State) (g : Nat) (f : Gate → Gate) : (s.modGate g f).update = s.update := rfl
@[simp] theorem modGate_sec (s : State) (g : Nat) (f : Gate → Gate) : (s.modGate g f).sec = s.sec := rfl
@[simp] theorem modGate_nextId (s : State) (g : Nat) (f : Gate → Gate) : (s.modGate g f).nextId = s.nextId := rfl
@[simp] theorem modGate_cur (s : State) (g : Nat) (f : Gate → Gate) : (s.modGate g f).cur = s.cur := rfl
@[simp] theorem modGate_turn (s : State) (g : Nat) (f : Gate → Gate) : (s.modGate g f).turn = s.turn := rfl
@[simp] theorem modGate_agenda (s : State) (g : Nat) (f : Gate → Gate) : (s.modGate g f).agenda = s.agenda := rfl
@[simp] theorem modGate_inputs (s : State) (g : Nat) (f : Gate → Gate) : (s.modGate g f).inputs = s.inputs := rfl
@[simp] theorem modGate_free (s : State) (g : Nat) (f : Gate → Gate) : (s.modGate g f).free = s.free := rfl
@[simp] theorem modMem_gcyc (s : State) (f : Memory → Memory) : (s.modMem f).gcyc = s.gcyc := rfl
@[simp] theorem modMem_spindles (s : State) (f : Memory → Memory) : (s.modMem f).spindles = s.spindles := rfl
@[simp] theorem modMem_stands (s : State) (f : Memory → Memory) : (s.modMem f).stands = s.stands := rfl
@[simp] theorem modMem_parts (s : State) (f : Memory → Memory) : (s.modMem f).parts = s.parts := rfl
@[simp] theorem modMem_gates (s : State) (f : Memory → Memory) : (s.modMem f).gates = s.gates := rfl
@[simp] theorem modMem_msgs (s : State) (f : Memory → Memory) : (s.modMem f).msgs = s.msgs := rfl
@[simp] theorem modMem_clocks (s : State) (f : Memory → Memory) : (s.modMem f).clocks = s.clocks := rfl
@[simp] theorem modMem_served (s : State) (f : Memory → Memory) : (s.modMem f).served = s.served := rfl
@[simp] theorem modMem_recWrites (s : State) (f : Memory → Memory) : (s.modMem f).recWrites = s.recWrites := rfl
@[simp] theorem modMem_phase (s : State) (f : Memory → Memory) : (s.modMem f).phase = s.phase := rfl
@[simp] theorem modMem_held (s : State) (f : Memory → Memory) : (s.modMem f).held = s.held := rfl
@[simp] theorem modMem_walks (s : State) (f : Memory → Memory) : (s.modMem f).walks = s.walks := rfl
@[simp] theorem modMem_cuts (s : State) (f : Memory → Memory) : (s.modMem f).cuts = s.cuts := rfl
@[simp] theorem modMem_lease (s : State) (f : Memory → Memory) : (s.modMem f).lease = s.lease := rfl
@[simp] theorem modMem_out (s : State) (f : Memory → Memory) : (s.modMem f).out = s.out := rfl
@[simp] theorem modMem_pf (s : State) (f : Memory → Memory) : (s.modMem f).pf = s.pf := rfl
@[simp] theorem modMem_power (s : State) (f : Memory → Memory) : (s.modMem f).power = s.power := rfl
@[simp] theorem modMem_errors (s : State) (f : Memory → Memory) : (s.modMem f).errors = s.errors := rfl
@[simp] theorem modMem_update (s : State) (f : Memory → Memory) : (s.modMem f).update = s.update := rfl
@[simp] theorem modMem_sec (s : State) (f : Memory → Memory) : (s.modMem f).sec = s.sec := rfl
@[simp] theorem modMem_nextId (s : State) (f : Memory → Memory) : (s.modMem f).nextId = s.nextId := rfl
@[simp] theorem modMem_cur (s : State) (f : Memory → Memory) : (s.modMem f).cur = s.cur := rfl
@[simp] theorem modMem_turn (s : State) (f : Memory → Memory) : (s.modMem f).turn = s.turn := rfl
@[simp] theorem modMem_agenda (s : State) (f : Memory → Memory) : (s.modMem f).agenda = s.agenda := rfl
@[simp] theorem modMem_inputs (s : State) (f : Memory → Memory) : (s.modMem f).inputs = s.inputs := rfl
@[simp] theorem modMem_free (s : State) (f : Memory → Memory) : (s.modMem f).free = s.free := rfl
@[simp] theorem push_gcyc (s : State) (es : List Ev) : (s.push es).gcyc = s.gcyc := rfl
@[simp] theorem push_spindles (s : State) (es : List Ev) : (s.push es).spindles = s.spindles := rfl
@[simp] theorem push_stands (s : State) (es : List Ev) : (s.push es).stands = s.stands := rfl
@[simp] theorem push_parts (s : State) (es : List Ev) : (s.push es).parts = s.parts := rfl
@[simp] theorem push_gates (s : State) (es : List Ev) : (s.push es).gates = s.gates := rfl
@[simp] theorem push_mem (s : State) (es : List Ev) : (s.push es).mem = s.mem := rfl
@[simp] theorem push_msgs (s : State) (es : List Ev) : (s.push es).msgs = s.msgs := rfl
@[simp] theorem push_clocks (s : State) (es : List Ev) : (s.push es).clocks = s.clocks := rfl
@[simp] theorem push_served (s : State) (es : List Ev) : (s.push es).served = s.served := rfl
@[simp] theorem push_recWrites (s : State) (es : List Ev) : (s.push es).recWrites = s.recWrites := rfl
@[simp] theorem push_phase (s : State) (es : List Ev) : (s.push es).phase = s.phase := rfl
@[simp] theorem push_held (s : State) (es : List Ev) : (s.push es).held = s.held := rfl
@[simp] theorem push_walks (s : State) (es : List Ev) : (s.push es).walks = s.walks := rfl
@[simp] theorem push_cuts (s : State) (es : List Ev) : (s.push es).cuts = s.cuts := rfl
@[simp] theorem push_lease (s : State) (es : List Ev) : (s.push es).lease = s.lease := rfl
@[simp] theorem push_out (s : State) (es : List Ev) : (s.push es).out = s.out := rfl
@[simp] theorem push_pf (s : State) (es : List Ev) : (s.push es).pf = s.pf := rfl
@[simp] theorem push_power (s : State) (es : List Ev) : (s.push es).power = s.power := rfl
@[simp] theorem push_errors (s : State) (es : List Ev) : (s.push es).errors = s.errors := rfl
@[simp] theorem push_update (s : State) (es : List Ev) : (s.push es).update = s.update := rfl
@[simp] theorem push_sec (s : State) (es : List Ev) : (s.push es).sec = s.sec := rfl
@[simp] theorem push_nextId (s : State) (es : List Ev) : (s.push es).nextId = s.nextId := rfl
@[simp] theorem push_cur (s : State) (es : List Ev) : (s.push es).cur = s.cur := rfl
@[simp] theorem push_turn (s : State) (es : List Ev) : (s.push es).turn = s.turn := rfl
@[simp] theorem push_inputs (s : State) (es : List Ev) : (s.push es).inputs = s.inputs := rfl
@[simp] theorem push_free (s : State) (es : List Ev) : (s.push es).free = s.free := rfl
@[simp] theorem emit_gcyc (s : State) (o : HostOut) : (s.emit o).gcyc = s.gcyc := rfl
@[simp] theorem emit_spindles (s : State) (o : HostOut) : (s.emit o).spindles = s.spindles := rfl
@[simp] theorem emit_stands (s : State) (o : HostOut) : (s.emit o).stands = s.stands := rfl
@[simp] theorem emit_parts (s : State) (o : HostOut) : (s.emit o).parts = s.parts := rfl
@[simp] theorem emit_gates (s : State) (o : HostOut) : (s.emit o).gates = s.gates := rfl
@[simp] theorem emit_mem (s : State) (o : HostOut) : (s.emit o).mem = s.mem := rfl
@[simp] theorem emit_msgs (s : State) (o : HostOut) : (s.emit o).msgs = s.msgs := rfl
@[simp] theorem emit_clocks (s : State) (o : HostOut) : (s.emit o).clocks = s.clocks := rfl
@[simp] theorem emit_served (s : State) (o : HostOut) : (s.emit o).served = s.served := rfl
@[simp] theorem emit_recWrites (s : State) (o : HostOut) : (s.emit o).recWrites = s.recWrites := rfl
@[simp] theorem emit_phase (s : State) (o : HostOut) : (s.emit o).phase = s.phase := rfl
@[simp] theorem emit_held (s : State) (o : HostOut) : (s.emit o).held = s.held := rfl
@[simp] theorem emit_walks (s : State) (o : HostOut) : (s.emit o).walks = s.walks := rfl
@[simp] theorem emit_cuts (s : State) (o : HostOut) : (s.emit o).cuts = s.cuts := rfl
@[simp] theorem emit_lease (s : State) (o : HostOut) : (s.emit o).lease = s.lease := rfl
@[simp] theorem emit_pf (s : State) (o : HostOut) : (s.emit o).pf = s.pf := rfl
@[simp] theorem emit_power (s : State) (o : HostOut) : (s.emit o).power = s.power := rfl
@[simp] theorem emit_errors (s : State) (o : HostOut) : (s.emit o).errors = s.errors := rfl
@[simp] theorem emit_update (s : State) (o : HostOut) : (s.emit o).update = s.update := rfl
@[simp] theorem emit_sec (s : State) (o : HostOut) : (s.emit o).sec = s.sec := rfl
@[simp] theorem emit_nextId (s : State) (o : HostOut) : (s.emit o).nextId = s.nextId := rfl
@[simp] theorem emit_cur (s : State) (o : HostOut) : (s.emit o).cur = s.cur := rfl
@[simp] theorem emit_turn (s : State) (o : HostOut) : (s.emit o).turn = s.turn := rfl
@[simp] theorem emit_agenda (s : State) (o : HostOut) : (s.emit o).agenda = s.agenda := rfl
@[simp] theorem emit_inputs (s : State) (o : HostOut) : (s.emit o).inputs = s.inputs := rfl
@[simp] theorem emit_free (s : State) (o : HostOut) : (s.emit o).free = s.free := rfl

/-- Merging a tag into a clock changes clocks alone. -/
theorem mergeClock_frame (s : State) (d : Nat) (v : List Nat) : ∃ c, s.mergeClock d v = { s with clocks := c } := by
  unfold State.mergeClock
  split
  · exact ⟨s.clocks, rfl⟩
  · exact ⟨_, rfl⟩

@[simp] theorem mergeClock_spindles (s : State) (d : Nat) (v : List Nat) : (s.mergeClock d v).spindles = s.spindles := by
  unfold State.mergeClock; split <;> rfl
@[simp] theorem mergeClock_stands (s : State) (d : Nat) (v : List Nat) : (s.mergeClock d v).stands = s.stands := by
  unfold State.mergeClock; split <;> rfl
@[simp] theorem mergeClock_parts (s : State) (d : Nat) (v : List Nat) : (s.mergeClock d v).parts = s.parts := by
  unfold State.mergeClock; split <;> rfl
@[simp] theorem mergeClock_gates (s : State) (d : Nat) (v : List Nat) : (s.mergeClock d v).gates = s.gates := by
  unfold State.mergeClock; split <;> rfl
@[simp] theorem mergeClock_mem (s : State) (d : Nat) (v : List Nat) : (s.mergeClock d v).mem = s.mem := by
  unfold State.mergeClock; split <;> rfl
@[simp] theorem mergeClock_msgs (s : State) (d : Nat) (v : List Nat) : (s.mergeClock d v).msgs = s.msgs := by
  unfold State.mergeClock; split <;> rfl
@[simp] theorem mergeClock_served (s : State) (d : Nat) (v : List Nat) : (s.mergeClock d v).served = s.served := by
  unfold State.mergeClock; split <;> rfl
@[simp] theorem mergeClock_recWrites (s : State) (d : Nat) (v : List Nat) : (s.mergeClock d v).recWrites = s.recWrites := by
  unfold State.mergeClock; split <;> rfl
@[simp] theorem mergeClock_phase (s : State) (d : Nat) (v : List Nat) : (s.mergeClock d v).phase = s.phase := by
  unfold State.mergeClock; split <;> rfl
@[simp] theorem mergeClock_held (s : State) (d : Nat) (v : List Nat) : (s.mergeClock d v).held = s.held := by
  unfold State.mergeClock; split <;> rfl
@[simp] theorem mergeClock_walks (s : State) (d : Nat) (v : List Nat) : (s.mergeClock d v).walks = s.walks := by
  unfold State.mergeClock; split <;> rfl
@[simp] theorem mergeClock_cuts (s : State) (d : Nat) (v : List Nat) : (s.mergeClock d v).cuts = s.cuts := by
  unfold State.mergeClock; split <;> rfl
@[simp] theorem mergeClock_lease (s : State) (d : Nat) (v : List Nat) : (s.mergeClock d v).lease = s.lease := by
  unfold State.mergeClock; split <;> rfl
@[simp] theorem mergeClock_out (s : State) (d : Nat) (v : List Nat) : (s.mergeClock d v).out = s.out := by
  unfold State.mergeClock; split <;> rfl
@[simp] theorem mergeClock_pf (s : State) (d : Nat) (v : List Nat) : (s.mergeClock d v).pf = s.pf := by
  unfold State.mergeClock; split <;> rfl
@[simp] theorem mergeClock_power (s : State) (d : Nat) (v : List Nat) : (s.mergeClock d v).power = s.power := by
  unfold State.mergeClock; split <;> rfl
@[simp] theorem mergeClock_errors (s : State) (d : Nat) (v : List Nat) : (s.mergeClock d v).errors = s.errors := by
  unfold State.mergeClock; split <;> rfl
@[simp] theorem mergeClock_update (s : State) (d : Nat) (v : List Nat) : (s.mergeClock d v).update = s.update := by
  unfold State.mergeClock; split <;> rfl
@[simp] theorem mergeClock_sec (s : State) (d : Nat) (v : List Nat) : (s.mergeClock d v).sec = s.sec := by
  unfold State.mergeClock; split <;> rfl
@[simp] theorem mergeClock_nextId (s : State) (d : Nat) (v : List Nat) : (s.mergeClock d v).nextId = s.nextId := by
  unfold State.mergeClock; split <;> rfl
@[simp] theorem mergeClock_cur (s : State) (d : Nat) (v : List Nat) : (s.mergeClock d v).cur = s.cur := by
  unfold State.mergeClock; split <;> rfl
@[simp] theorem mergeClock_turn (s : State) (d : Nat) (v : List Nat) : (s.mergeClock d v).turn = s.turn := by
  unfold State.mergeClock; split <;> rfl
@[simp] theorem mergeClock_agenda (s : State) (d : Nat) (v : List Nat) : (s.mergeClock d v).agenda = s.agenda := by
  unfold State.mergeClock; split <;> rfl
@[simp] theorem mergeClock_inputs (s : State) (d : Nat) (v : List Nat) : (s.mergeClock d v).inputs = s.inputs := by
  unfold State.mergeClock; split <;> rfl
@[simp] theorem mergeClock_gcyc (s : State) (d : Nat) (v : List Nat) : (s.mergeClock d v).gcyc = s.gcyc := by
  unfold State.mergeClock; split <;> rfl

/-! ### Register files -/

theorem rx_wx (r : Regs) (n k : BitVec 5) (v : Word) :
    (r.wx n v).rx k = if k = 0 then 0 else if k = n then v else r.rx k := by
  by_cases hn : n = 0
  · by_cases hk : k = 0
    · simp [Regs.rx, hk]
    · rw [if_neg hk, if_neg (fun e => hk (e.trans hn)), Regs.wx, if_pos hn]
  · by_cases hk : k = 0
    · simp [Regs.rx, hk]
    · rw [if_neg hk, Regs.wx, if_neg hn, Regs.rx, Regs.rx, if_neg hk, if_neg hk]
      by_cases e : k = n
      · subst e; simp
      · rw [if_neg e]
        exact Vector.getElem_set_ne (by omega) (by omega) (fun h => e (BitVec.eq_of_toNat_eq h.symm))

theorem ry_wy (r : Regs) (n k : BitVec 5) (v : Word) :
    (r.wy n v).ry k = if k = 0 then 0 else if k = n then v else r.ry k := by
  by_cases hn : n = 0
  · by_cases hk : k = 0
    · simp [Regs.ry, hk]
    · rw [if_neg hk, if_neg (fun e => hk (e.trans hn)), Regs.wy, if_pos hn]
  · by_cases hk : k = 0
    · simp [Regs.ry, hk]
    · rw [if_neg hk, Regs.wy, if_neg hn, Regs.ry, Regs.ry, if_neg hk, if_neg hk]
      by_cases e : k = n
      · subst e; simp
      · rw [if_neg e]
        exact Vector.getElem_set_ne (by omega) (by omega) (fun h => e (BitVec.eq_of_toNat_eq h.symm))

theorem rp_wp (r : Regs) (n k : BitVec 3) (b : Bool) :
    (r.wp n b).rp k = if k = 0 then true else if k = n then b else r.rp k := by
  by_cases hn : n = 0
  · by_cases hk : k = 0
    · simp [Regs.rp, hk]
    · rw [if_neg hk, if_neg (fun e => hk (e.trans hn)), Regs.wp, if_pos hn]
  · by_cases hk : k = 0
    · simp [Regs.rp, hk]
    · rw [if_neg hk, Regs.wp, if_neg hn]
      rw [Regs.rp, Regs.rp, beq_eq_false_iff_ne.mpr hk, Bool.false_or, Bool.false_or]
      by_cases e : k = n
      · subst e; simp
      · rw [if_neg e]
        exact Vector.getElem_set_ne (by omega) (by omega) (fun h => e (BitVec.eq_of_toNat_eq h.symm))

@[simp] theorem ry_wx (r : Regs) (n k : BitVec 5) (v : Word) : (r.wx n v).ry k = r.ry k := by
  rw [Regs.wx]; split <;> rfl

@[simp] theorem rx_wy (r : Regs) (n k : BitVec 5) (v : Word) : (r.wy n v).rx k = r.rx k := by
  rw [Regs.wy]; split <;> rfl

@[simp] theorem rx_wp (r : Regs) (n : BitVec 3) (k : BitVec 5) (b : Bool) : (r.wp n b).rx k = r.rx k := by
  rw [Regs.wp]; split <;> rfl

@[simp] theorem ry_wp (r : Regs) (n : BitVec 3) (k : BitVec 5) (b : Bool) : (r.wp n b).ry k = r.ry k := by
  rw [Regs.wp]; split <;> rfl

@[simp] theorem rp_wx (r : Regs) (n : BitVec 5) (k : BitVec 3) (v : Word) : (r.wx n v).rp k = r.rp k := by
  rw [Regs.wx]; split <;> rfl

@[simp] theorem rp_wy (r : Regs) (n : BitVec 5) (k : BitVec 3) (v : Word) : (r.wy n v).rp k = r.rp k := by
  rw [Regs.wy]; split <;> rfl

/-! ### Landing -/

@[simp] theorem putSlice_spindles (s : State) (n off : Nat) (bs : List Byte) (k : Nat) :
    (s.putSlice n off bs k).spindles = s.spindles := by
  induction k generalizing s off bs with
  | zero => rfl
  | succ k ih => rw [State.putSlice]; split <;> simp [ih]

/-- A write to a slice changes nothing but memory. -/
theorem putSlice_frame (s : State) (n off : Nat) (bs : List Byte) (k : Nat) :
    ∃ m, s.putSlice n off bs k = { s with mem := m } := by
  induction k generalizing s off bs with
  | zero => exact ⟨s.mem, rfl⟩
  | succ k ih =>
    rw [State.putSlice]
    split
    · exact ⟨s.mem, rfl⟩
    · obtain ⟨m, hm⟩ := ih (s.modMem fun m => m.write (s.sliceAt n off) (bs.take (65536 - off % 65536)))
        (off + (65536 - off % 65536)) (bs.drop (65536 - off % 65536))
      exact ⟨m, hm⟩

theorem tagLines_ctxOf (s : State) (k : Loc) (l m : Nat) (t : List Nat) : (s.tagLines k l t).ctxOf m = s.ctxOf m := rfl
theorem tick_ctxOf (s : State) (d m : Nat) : (s.tick d).ctxOf m = s.ctxOf m := rfl

theorem putSlice_ctxOf (s : State) (n off : Nat) (bs : List Byte) (k m : Nat) : (s.putSlice n off bs k).ctxOf m = s.ctxOf m := by
  simp [State.ctxOf, State.sp]

/-- A landing write changes no other context. -/
theorem land_other {s : State} {m n : Nat} (h : m ≠ n) {l : Land} : (s.land n l).ctxOf m = s.ctxOf m := by
  cases l with
  | acc own off bs =>
    simp only [State.land]
    rw [tagLines_ctxOf, tick_ctxOf]
    split
    · exact putSlice_ctxOf ..
    · rw [State.writeSlice, modCtx_other _ h, putSlice_ctxOf]
  | _ => exact modCtx_other _ h _

/-- A write to a control register that is read-only (ESTR apart, which the EST word writes) or not assigned changes
nothing. -/
theorem writeCr_fixed {c : Ctx} {num : BitVec 16} {v : Word} (h : crReadOnly num.toNat = true ∨ crAssigned num.toNat = false)
    (he : num.toNat ≠ 0x00D) : c.writeCr num v = c := by
  have hk : ∀ k : Nat, crReadOnly k = true ∨ crAssigned k = false → k ≠ 0x00D →
      k ≠ 1 ∧ k ≠ 2 ∧ k ≠ 3 ∧ k ≠ 4 ∧ k ≠ 5 ∧ k ≠ 6 ∧ k ≠ 7 ∧ k ≠ 0xE ∧ k ≠ 0x10 ∧ k ≠ 0x11 ∧ k ≠ 0x12 ∧ k ≠ 0x13 ∧ k ≠ 0x14
        ∧ k ≠ 0x15 ∧ k ≠ 0x16 ∧ ¬ (0x030 ≤ k ∧ k ≤ 0x03F) ∧ ¬ (0x040 ≤ k ∧ k ≤ 0x07F)
        ∧ (0x080 ≤ k ∧ k ≤ 0x0BF → ¬ k % 8 < 6) ∧ ¬ (0x0C0 ≤ k ∧ k ≤ 0x0C7) := by
    intro k hk hd
    simp only [crReadOnly, crAssigned, Bool.or_eq_true, Bool.and_eq_true, decide_eq_true_eq, beq_iff_eq, Bool.or_eq_false_iff,
      Bool.and_eq_false_iff, decide_eq_false_iff_not] at hk
    refine ⟨?_, ?_, ?_, ?_, ?_, ?_, ?_, ?_, ?_, ?_, ?_, ?_, ?_, ?_, ?_, ?_, ?_, ?_, ?_⟩ <;> omega
  obtain ⟨h1, h2, h3, h4, h5, h6, h7, h8, h9, h10, h11, h12, h13, h14, h15, h16, h17, h18, h19⟩ := hk _ h he
  unfold Ctx.writeCr
  simp only [if_neg h1, if_neg h2, if_neg h3, if_neg h4, if_neg h5, if_neg h6, if_neg h7, if_neg h8, if_neg h9, if_neg h10,
    if_neg h11, if_neg h12, if_neg h13, if_neg h14, if_neg h15, if_neg h16, if_neg h17, if_neg he, if_neg h19]
  by_cases h : 0x080 ≤ num.toNat ∧ num.toNat ≤ 0x0BF
  · rw [if_pos h, dif_neg (h18 h)]
  · rw [if_neg h]

end Sys2Proof.Machine
end

