-- ==== Sys2Proof/Laws/Slices.lean ====
section
/-!
SUPPORT. Reads and writes of a slice through its block map (R186 to R188): what a write changes, and that a read of the
written bytes gives them.
-/

namespace Sys2Proof.Machine

/-- Within a block, LOCAL offsets follow one another in the slice. -/
theorem mapOff_block (bmap : Vector (BitVec 9) 256) {off j : Nat} (h : j < 65536 - off % 65536) :
    mapOff bmap (off + j) = mapOff bmap off + j := by
  have h1 : (off + j) / 65536 = off / 65536 := by omega
  have h2 : (off + j) % 65536 = off % 65536 + j := by omega
  unfold mapOff
  by_cases hb : off < 0x1000000
  · rw [if_pos hb, if_pos (show off + j < 0x1000000 by omega)]
    simp only [h1, h2]
    omega
  · rw [if_neg hb, if_neg (by omega)]
    omega

theorem sliceAt_block (s : State) (n : Nat) {off j : Nat} (h : j < 65536 - off % 65536) :
    s.sliceAt n (off + j) = s.sliceAt n off + j := by
  unfold State.sliceAt sliceKey
  rw [mapOff_block _ h]
  omega

@[simp] theorem putSlice_sliceAt (s : State) (n off : Nat) (bs : List Byte) (k m o : Nat) :
    (s.putSlice n off bs k).sliceAt m o = s.sliceAt m o := by
  simp only [State.sliceAt, putSlice_ctxOf]

theorem putSlice_sound {s : State} (n off : Nat) (bs : List Byte) (k : Nat) (h : s.sound) : (s.putSlice n off bs k).sound := by
  induction k generalizing s off bs with
  | zero => exact h
  | succ k ih =>
    rw [State.putSlice]
    split
    · exact h
    · exact ih _ _ (Memory.write_wf _ _ h)

theorem writeSlice_sound {s : State} (n off : Nat) (bs : List Byte) (h : s.sound) : (s.writeSlice n off bs).sound :=
  putSlice_sound n off bs _ h

/-- A write to a slice leaves every byte outside the written keys. -/
theorem putSlice_out {s : State} (n off : Nat) (bs : List Byte) (k a : Nat) (h : s.sound)
    (ha : ∀ i, i < bs.length → s.sliceAt n (off + i) ≠ a) :
    cellGet (s.putSlice n off bs k).mem.cells a = cellGet s.mem.cells a := by
  induction k generalizing s off bs with
  | zero => rfl
  | succ k ih =>
    rw [State.putSlice]
    split
    · rfl
    · have hs : (s.modMem fun m => m.write (s.sliceAt n off) (bs.take (65536 - off % 65536))).sound := Memory.write_wf _ _ h
      rw [ih _ _ hs]
      · show cellGet (cellsWrite s.mem.cells _ _) a = _
        refine cellGet_cellsWrite_out _ _ _ h ?_
        by_contra hc
        rw [List.length_take] at hc
        have hlt : a - s.sliceAt n off < 65536 - off % 65536 := by omega
        refine ha (a - s.sliceAt n off) (by omega) ?_
        rw [sliceAt_block s n hlt]
        omega
      · intro i hi
        show s.sliceAt n (off + (65536 - off % 65536) + i) ≠ a
        rw [Nat.add_assoc]
        refine ha _ ?_
        rw [List.length_drop] at hi
        omega

/-- A write to a slice whose keys differ puts each byte at its key. -/
theorem putSlice_get {s : State} (n off : Nat) (bs : List Byte) (k i : Nat) (h : s.sound)
    (hk : bs.length + off % 65536 ≤ 65536 * k) (hi : i < bs.length)
    (hinj : ∀ j, j < bs.length → s.sliceAt n (off + j) = s.sliceAt n (off + i) → j = i) :
    cellGet (s.putSlice n off bs k).mem.cells (s.sliceAt n (off + i)) = bs.getD i 0 := by
  induction k generalizing s off bs i with
  | zero => omega
  | succ k ih =>
    rw [State.putSlice, if_neg (by rw [List.isEmpty_iff]; intro e; rw [e] at hi; simp at hi)]
    have hs : (s.modMem fun m => m.write (s.sliceAt n off) (bs.take (65536 - off % 65536))).sound := Memory.write_wf _ _ h
    by_cases hw : i < 65536 - off % 65536
    · have hout : ∀ j, j < (bs.drop (65536 - off % 65536)).length →
          (s.modMem fun m => m.write (s.sliceAt n off) (bs.take (65536 - off % 65536))).sliceAt n
            (off + (65536 - off % 65536) + j) ≠ s.sliceAt n (off + i) := by
        intro j hj e
        rw [List.length_drop] at hj
        have := hinj (65536 - off % 65536 + j) (by omega) (by rw [← Nat.add_assoc]; exact e)
        omega
      rw [putSlice_out n _ _ k _ hs hout]
      show cellGet (cellsWrite s.mem.cells _ _) _ = _
      rw [cellGet_cellsWrite h, sliceAt_block s n hw, List.length_take, if_pos (by omega), Nat.add_sub_cancel_left]
      simp only [List.getD_eq_getElem?_getD, List.getElem?_take]
      rw [if_pos hw]
    · have e1 : off + i = off + (65536 - off % 65536) + (i - (65536 - off % 65536)) := by omega
      have e2 : (off + (65536 - off % 65536)) % 65536 = 0 := by omega
      rw [e1]
      have := ih (s := s.modMem fun m => m.write (s.sliceAt n off) (bs.take (65536 - off % 65536)))
        (off + (65536 - off % 65536)) (bs.drop (65536 - off % 65536)) (i - (65536 - off % 65536)) hs
        (by rw [List.length_drop]; omega) (by rw [List.length_drop]; omega)
        (by
          intro j hj e
          rw [List.length_drop] at hj
          have := hinj (65536 - off % 65536 + j) (by omega) (by rw [← Nat.add_assoc, e1]; exact e)
          omega)
      refine this.trans ?_
      simp only [List.getD_eq_getElem?_getD, List.getElem?_drop]
      congr 2
      omega

/-- Fewer than 65536 bytes have keys that differ: two offsets less than a block apart never share one. -/
theorem sliceAt_inj (s : State) (n off i j : Nat) (hi : i < 65536) (hj : j < 65536)
    (h : s.sliceAt n (off + i) = s.sliceAt n (off + j)) : i = j := by
  have key : ∀ o, s.sliceAt n o % 65536 = (sliceKey n 0 + o) % 65536 := by
    intro o
    unfold State.sliceAt sliceKey mapOff
    split <;> omega
  have h1 := key (off + i)
  have h2 := key (off + j)
  rw [h] at h1
  unfold sliceKey at h1 h2
  omega

/-- The bytes that a write of a slice leaves are read back. -/
theorem readSlice_writeSlice {s : State} (n off : Nat) (bs : List Byte) (h : s.sound) (hl : bs.length ≤ 65536) :
    (s.writeSlice n off bs).readSlice n off bs.length = bs := by
  have hm : (s.writeSlice n off bs).mem = (s.putSlice n off bs (bs.length / 65536 + 2)).mem := rfl
  have hb : ∀ o, (s.writeSlice n off bs).sliceAt n o = s.sliceAt n o := by
    intro o
    have : ((s.writeSlice n off bs).ctxOf n).eng = (s.ctxOf n).eng := by
      rw [State.writeSlice, modCtx_self, putSlice_ctxOf]
    simp only [State.sliceAt, this]
  refine List.ext_getElem (by simp [State.readSlice]) fun i h1 h2 => ?_
  simp only [State.readSlice, List.getElem_map, List.getElem_range]
  rw [hm, hb, putSlice_get n off bs _ i h (by omega) h2
    (fun j hj e => sliceAt_inj s n off j i (by omega) (by omega) e), List.getD_eq_getElem _ _ h2]

/-- A write of a slice leaves every byte outside its keys. -/
theorem writeSlice_out {s : State} (n off : Nat) (bs : List Byte) (a : Nat) (h : s.sound)
    (ha : ∀ i, i < bs.length → s.sliceAt n (off + i) ≠ a) :
    cellGet (s.writeSlice n off bs).mem.cells a = cellGet s.mem.cells a := putSlice_out n off bs _ a h ha

/-- A local read (R260): the bytes, and the merged tags of their lines. -/
theorem localRead_fst (s : State) (n off len : Nat) : (s.localRead n off len).1 = s.readSlice n off len := rfl
theorem localRead_snd (s : State) (n off len : Nat) :
    (s.localRead n off len).2 = s.mergeClock (dieOf n) (s.tagsOf (.slice n off) len) := rfl

/-- A local store (R260): its bytes, the tick of its die's clock, and the tags of its lines. -/
theorem localWrite_cells (s : State) (n off : Nat) (bs : List Byte) :
    (s.localWrite n off bs).mem.cells = (s.writeSlice n off bs).mem.cells := rfl

/-- The context of the spindle after a local store: only a fused sequence can end (R182). -/
theorem localWrite_ctx (s : State) (n off : Nat) (bs : List Byte) :
    (s.localWrite n off bs).ctxOf n = { s.ctxOf n with fusion := Fusion.after (s.ctxOf n).fusion off bs.length } := by
  have h : (s.localWrite n off bs).ctxOf n = (s.writeSlice n off bs).ctxOf n := rfl
  rw [h, State.writeSlice, modCtx_self, putSlice_ctxOf]

theorem localWrite_sp (s : State) (n off : Nat) (bs : List Byte) (m : Nat) :
    (s.localWrite n off bs).sp m = (s.writeSlice n off bs).sp m := rfl

end Sys2Proof.Machine
end

