-- ==== Sys2Proof/Laws/Atomics.lean ====
section
/-!
SUPPORT. What an atomic word does at issue: the update in the own slice, and the request that leaves for another home.
-/

namespace Sys2Proof.Machine

/-- The state after an atomic's update of the own slice (R278). -/
def State.atomicDone (s : State) (o size : Nat) (at_ : Atomic) (dest : Dest) : State :=
  let u := at_.update (s.readSlice s.cur o size)
  let s0 := s.mergeClock (dieOf s.cur) (s.tagsOf (.slice s.cur o) size)
  let s1 := match u.bytes with | some b => s0.localWrite s.cur o b | none => s0
  (if dest = .none then s1 else s1.pend 6 (dest.lands u.v u.v2 [])).raiseFlags u.fl

theorem releasing_ordered {s : State} {ord : Bool} {k : Issue} (h : ord = true → s.ordered 4) : s.releasing ord k = k := by
  cases ord with
  | false => rfl
  | true => exact fenced_ordered (h rfl)

theorem targetsAcc_own {s : State} {a o : Nat} (h : s.aim s.c a = .own o) (ho : 0x1000000 ≤ o) : s.targetsAcc a = true := by
  simp [State.targetsAcc, h, ho]

/-- An atomic on reachable own accumulator SRAM makes its update at once. -/
theorem atomic_own {s : State} {base : BitVec 5} {ord : Bool} {g : BitVec 3} {size o : Nat} {bs : List Nat} {at_ : Atomic}
    {dest : Dest} {mw : Bool} (h : s.actsLs g (0 :: bs)) (ha : (s.c.regs.rx base).toNat % size = 0)
    (haim : s.aim s.c (s.c.regs.rx base).toNat = .own o) (ho : 0x1000000 ≤ o)
    (hr : s.reachable o size (at_.op != .vacc 0) true) (hord : ord = true → s.ordered 4) :
    s.atomic base ord g size bs none at_ dest mw = .ok (s.atomicDone o size at_ dest) := by
  rw [State.atomic, guardedLs_acts h]
  refine (if_neg (by simp [ha])).trans ((if_neg (by simp [haim])).trans ((if_neg ?_).trans ?_))
  · simp [targetsAcc_own haim ho]
  simp only [haim]
  rw [ownAccess_reachable hr, releasing_ordered hord]
  rfl

/-- The same for VACC, whose source row can be read. -/
theorem atomic_row_own {s : State} {base : BitVec 5} {ord : Bool} {g : BitVec 3} {size o r : Nat} {bs : List Nat} {at_ : Atomic}
    {dest : Dest} {mw : Bool} (h : s.actsLs g (0 :: bs)) (ha : (s.c.regs.rx base).toNat % size = 0)
    (haim : s.aim s.c (s.c.regs.rx base).toNat = .own o) (ho : 0x1000000 ≤ o)
    (hr : s.reachable o size (at_.op != .vacc 0) true) (hsrc : s.reachable (rowOff r) 512 true false)
    (hord : ord = true → s.ordered 4) :
    s.atomic base ord g size bs (some r) at_ dest mw = .ok (s.atomicDone o size at_ dest) := by
  rw [State.atomic, guardedLs_acts h]
  refine (if_neg (by simp [ha])).trans ((if_neg (by simp [haim])).trans ((if_neg ?_).trans ?_))
  · simp [targetsAcc_own haim ho]
  simp only [haim]
  rw [ownAccess_reachable hsrc, ownAccess_reachable hr, releasing_ordered hord]
  rfl

/-- An atomic of a remote home leaves as one request. -/
theorem atomic_far {s : State} {base : BitVec 5} {ord : Bool} {g : BitVec 3} {size : Nat} {bs : List Nat} {at_ : Atomic}
    {dest : Dest} {mw : Bool} {l : Loc} (h : s.actsLs g (0 :: bs)) (ha : (s.c.regs.rx base).toNat % size = 0)
    (hacc : s.targetsAcc (s.c.regs.rx base).toNat = true) (hno : ∀ o, s.aim s.c (s.c.regs.rx base).toNat ≠ .own o)
    (hreach : s.reach 3 (s.c.regs.rx base) (s.aim s.c (s.c.regs.rx base).toNat) true = .home l)
    (hb : s.below (dest != .none || ord || mw)) (hord : ord = true → s.ordered 4) :
    s.atomic base ord g size bs none at_ dest mw =
      .ok (s.request l (.atomic at_) dest (dest != .none || ord || mw) (s.c.regs.rx base) 3) := by
  rw [State.atomic, guardedLs_acts h]
  refine (if_neg (by simp [ha])).trans ((if_neg ?_).trans ((if_neg (by simp [hacc])).trans ?_))
  · intro hbad; rw [State.targetsAcc, hbad] at hacc; exact absurd hacc (by simp)
  cases haim : s.aim s.c (s.c.regs.rx base).toNat with
  | own o => exact absurd haim (hno o)
  | _ => rw [haim] at hreach; simp only [hreach]; rw [releasing_ordered hord, limited_below hb]

end Sys2Proof.Machine
end

