-- ==== Sys2Proof/Laws/Control.lean ====
section
/-!
SUPPORT. The innermost active loop (R126).
-/

namespace Sys2Proof.Machine

/-- The innermost active loop is the active one with the highest number (R126). -/
theorem innermost_iff (r : Regs) (j : Fin 4) : r.innermost = some j ↔
    r.lc[j].active = true ∧ (∀ k : Fin 4, r.lc[k].active = true → k ≤ j) := by
  have h : ∀ a b c d : Bool, ∀ j : Fin 4,
      ((if d then some (3 : Fin 4) else if c then some 2 else if b then some 1 else if a then some 0 else none) = some j
        ↔ (#v[a, b, c, d][j] = true ∧ ∀ k : Fin 4, #v[a, b, c, d][k] = true → k ≤ j)) := by decide
  have e : ∀ k : Fin 4, r.lc[k].active = #v[r.lc[0].active, r.lc[1].active, r.lc[2].active, r.lc[3].active][k] := by
    intro k
    match k with
    | 0 => rfl
    | 1 => rfl
    | 2 => rfl
    | 3 => rfl
  rw [Regs.innermost, h]
  simp only [e]

theorem innermost_none_iff (r : Regs) : r.innermost = none ↔ ∀ k : Fin 4, r.lc[k].active = false := by
  have h : ∀ a b c d : Bool,
      ((if d then some (3 : Fin 4) else if c then some 2 else if b then some 1 else if a then some 0 else none) = none
        ↔ ∀ k : Fin 4, #v[a, b, c, d][k] = false) := by decide
  have e : ∀ k : Fin 4, r.lc[k].active = #v[r.lc[0].active, r.lc[1].active, r.lc[2].active, r.lc[3].active][k] := by
    intro k
    match k with
    | 0 => rfl
    | 1 => rfl
    | 2 => rfl
    | 3 => rfl
  rw [Regs.innermost, h]
  simp only [e]

theorem activeFrom_iff (r : Regs) (k : Nat) : r.activeFrom k = true ↔ ∃ j : Fin 4, k ≤ j.val ∧ r.lc[j].active = true := by
  rw [Regs.activeFrom]
  cases e : r.innermost with
  | some j =>
    have := (innermost_iff r j).1 e
    rw [decide_eq_true_eq]
    exact ⟨fun h => ⟨j, h, this.1⟩, fun ⟨i, h1, h2⟩ => Nat.le_trans h1 (this.2 i h2)⟩
  | none =>
    have := (innermost_none_iff r).1 e
    exact ⟨fun h => absurd h (by simp), fun ⟨i, _, h2⟩ => by rw [this i] at h2; simp at h2⟩

end Sys2Proof.Machine
end

