-- ==== Sys2Proof/Laws/Frame.lean ====
section
/-!
SUPPORT. What words leave alone: a word that only puts a result in flight changes nothing but the results in flight of
its context, and an issue that waits changes nothing but the requests for blocks.
-/

namespace Sys2Proof.Machine

theorem tput_tput {α : Type} (k : Nat) (v w : α) (t : Tbl α) : tput k v (tput k w t) = tput k v t := by
  induction t with
  | nil => simp [tput]
  | cons p t ih =>
    obtain ⟨j, u⟩ := p
    simp only [tput]
    by_cases h1 : k < j
    · simp [h1, tput]
    · by_cases h2 : j = k
      · simp [h2, tput]
      · simp [h1, h2, tput, ih]

theorem modSp_modSp (s : State) (n : Nat) (f g : Spindle → Spindle) :
    (s.modSp n f).modSp n g = s.modSp n fun x => g (f x) := by
  simp [State.modSp, State.setSp, State.sp, tput_tput, tget_tput_self]

theorem onlyPipes_refl (s : State) : s.onlyPipes s := .inl rfl

theorem onlyPipes_pend (s : State) (lat : Nat) (ls : List Land) : s.onlyPipes (s.pend lat ls) := by
  refine .inr ?_
  by_cases h : s.c.ctl.hmode = true
  · refine ⟨s.c.pipe, s.c.hpipe ++ [{ left := lat, lands := ls }], (s.sp s.cur).want, ?_⟩
    rw [State.pend, State.modC, State.modCtx, State.modSp, State.modSp]
    congr 1
    simp [Ctx.pend, show (s.sp s.cur).ctx.ctl.hmode = true from h, State.c, State.ctxOf]
  · refine ⟨s.c.pipe ++ [{ left := lat, lands := ls }], s.c.hpipe, (s.sp s.cur).want, ?_⟩
    rw [State.pend, State.modC, State.modCtx, State.modSp, State.modSp]
    congr 1
    simp [Ctx.pend, show ¬ (s.sp s.cur).ctx.ctl.hmode = true from h, State.c, State.ctxOf]

theorem onlyPipes_trans_pend {s t : State} (h : s.onlyPipes t) (lat : Nat) (ls : List Land) : s.onlyPipes (t.pend lat ls) := by
  rcases h with rfl | ⟨p, q, w, rfl⟩
  · exact onlyPipes_pend _ _ _
  · have hc : (s.modSp s.cur fun sp => { sp with ctx := { sp.ctx with pipe := p, hpipe := q }, want := w }).cur = s.cur := rfl
    rcases onlyPipes_pend (s.modSp s.cur fun sp => { sp with ctx := { sp.ctx with pipe := p, hpipe := q }, want := w }) lat ls
      with h | ⟨p', q', w', h⟩
    · exact .inr ⟨p, q, w, h⟩
    · refine .inr ⟨p', q', w', h.trans ?_⟩
      rw [hc, modSp_modSp]

theorem onlyPipes_raiseFlags {s t : State} (h : s.onlyPipes t) {fl : BitVec 9} : s.onlyPipes (t.raiseFlags fl) := by
  rw [State.raiseFlags]
  split
  · exact h
  · exact onlyPipes_trans_pend h _ _

/-- Asking for blocks changes only the requests of the spindle. -/
theorem askBlocks_want (s : State) (n : Nat) (bs : List Nat) :
    s.askBlocks n bs = s ∨ ∃ w, s.askBlocks n bs = s.modSp n fun sp => { sp with want := w } := by
  induction bs generalizing s with
  | nil => exact .inl rfl
  | cons b bs ih =>
    refine .inr ?_
    have h1 : ∃ w, s.askBlock n b = s.modSp n fun sp => { sp with want := w } := by
      refine ⟨if (s.sp n).want.contains b then (s.sp n).want else (s.sp n).want ++ [b], ?_⟩
      simp only [State.askBlock, State.modSp]
      congr 1
      split <;> simp
    obtain ⟨w, h1⟩ := h1
    have h2 := ih (s.askBlock n b)
    rw [show s.askBlocks n (b :: bs) = (s.askBlock n b).askBlocks n bs from rfl]
    rcases h2 with h2 | ⟨w', h2⟩
    · exact ⟨w, h2.trans h1⟩
    · refine ⟨w', h2.trans ?_⟩
      rw [h1, modSp_modSp]

theorem onlyPipes_askBlocks (s : State) (bs : List Nat) : s.onlyPipes (s.askBlocks s.cur bs) := by
  rcases askBlocks_want s s.cur bs with h | ⟨w, h⟩
  · exact .inl h
  · refine .inr ⟨s.c.pipe, s.c.hpipe, w, ?_⟩
    rw [h]
    simp [State.modSp, State.c, State.ctxOf]

/-- An issue that goes on, if at all, with results in flight. -/
def Issue.onlyPipes (s : State) (k : Issue) : Prop :=
  match k with
  | .trap _ => False
  | .wait _ t => s.onlyPipes t
  | .idle t => s.onlyPipes t
  | .go fl _ _ t => fl = 0 ∧ s.onlyPipes t

theorem Issue.onlyPipes_ok {s t : State} (h : s.onlyPipes t) : (Issue.ok t).onlyPipes s := ⟨rfl, h⟩

theorem touching_onlyPipes {s : State} {bs : List Nat} {k : Issue} (h : k.onlyPipes s) :
    (Issue.touching s bs k).onlyPipes s := by
  rw [Issue.touching]
  split
  · exact h
  · exact onlyPipes_askBlocks s _

theorem guarded_onlyPipes {s : State} {g : BitVec 4} {bs : List Nat} {k : Issue} (h : k.onlyPipes s) :
    (s.guarded g bs k).onlyPipes s := by
  rw [State.guarded]
  refine touching_onlyPipes ?_
  split
  · exact touching_onlyPipes h
  · exact Issue.onlyPipes_ok (onlyPipes_refl s)

theorem commit_onlyPipes {sl : Nat} {s t : State} {k : Issue} (hk : k.onlyPipes s) (h : commit sl s k = .next t) :
    s.onlyPipes t := by
  cases k with
  | trap _ => exact hk.elim
  | wait _ u =>
    obtain rfl : u = t := by simpa [commit] using h
    exact hk
  | idle u =>
    obtain rfl : u = t := by simpa [commit] using h
    exact hk
  | go fl w fu u =>
    obtain ⟨rfl, hk⟩ := hk
    rw [commit, enabled_zero, Bool.and_false, if_neg (by simp), raiseFlags_zero] at h
    obtain rfl : u = t := by simpa using h
    exact hk

theorem commit_guarded_onlyPipes {sl : Nat} {s t u : State} {g : BitVec 4} {bs : List Nat} (hk : s.onlyPipes u)
    (h : commit sl s (s.guarded g bs (.ok u)) = .next t) : s.onlyPipes t :=
  commit_onlyPipes (guarded_onlyPipes (Issue.onlyPipes_ok hk)) h

theorem commit_touching_onlyPipes {sl : Nat} {s t u : State} {bs : List Nat} (hk : s.onlyPipes u)
    (h : commit sl s (Issue.touching s bs (.ok u)) = .next t) : s.onlyPipes t :=
  commit_onlyPipes (touching_onlyPipes (Issue.onlyPipes_ok hk)) h

theorem onlyPipes_frame {s t : State} (h : s.onlyPipes t) : s.sameRegs t ∧ s.sameMem t := by
  rcases h with rfl | ⟨p, q, w, rfl⟩
  · exact ⟨⟨⟨rfl, rfl, rfl, rfl⟩, fun _ _ => rfl⟩, fun _ => rfl⟩
  · refine ⟨⟨?_, fun n hn => ?_⟩, fun _ => rfl⟩
    · have : (s.modSp s.cur fun sp => { sp with ctx := { sp.ctx with pipe := p, hpipe := q }, want := w }).c
          = { s.c with pipe := p, hpipe := q } := by
        simp [State.c, State.ctxOf, State.modSp, State.setSp, State.sp, tget_tput_self]
      rw [this]
      exact ⟨rfl, rfl, rfl, rfl⟩
    · simp only [State.ctxOf, State.modSp, State.setSp, State.sp]
      rw [tget_tput_ne _ _ hn]

end Sys2Proof.Machine
end

