-- ==== Sys2Proof/Laws/Operands.lean ====
section
/-!
SUPPORT. What the functions on addresses answer: the SHARED and CLUSTER forms (R118).
-/

namespace Sys2Proof.Machine

/-- An address is SHARED exactly when it is the base, a spindle's stride and an offset (R118). -/
theorem asShared_iff (np a psn off : Nat) : asShared np a = some (psn, off) ↔
    psn < np ∧ off < 0x1200000 ∧ a = 0x10000000000 + psn * 0x2000000 + off := by
  unfold asShared sharedBase sharedStride localSize
  constructor
  · intro h
    split at h
    · simp only at h
      split at h
      · simp only [Option.some.injEq, Prod.mk.injEq] at h; omega
      · simp at h
    · simp at h
  · rintro ⟨h1, h2, h3⟩
    have e1 : (a - 0x10000000000) / 0x2000000 = psn := by omega
    have e2 : (a - 0x10000000000) % 0x2000000 = off := by omega
    rw [if_pos (by omega)]
    simp only [e1, e2]
    rw [if_pos ⟨h1, h2⟩]

theorem asShared_none {np a : Nat}
    (h : ¬ ∃ psn off, psn < np ∧ off < 0x1200000 ∧ a = 0x10000000000 + psn * 0x2000000 + off) : asShared np a = none := by
  cases e : asShared np a with
  | none => rfl
  | some p => exact absurd ⟨p.1, p.2, (asShared_iff np a p.1 p.2).1 e⟩ h

/-- An address is CLUSTER exactly when it is the base, a module's stride and an offset (R118). -/
theorem asCluster_iff (nm a m off : Nat) : asCluster nm a = some (m, off) ↔
    m < nm ∧ off < 2 ^ 44 ∧ a = 0x100000000000000 + m * 2 ^ 44 + off := by
  unfold asCluster clusterBase
  constructor
  · intro h
    split at h
    · simp only at h
      split at h
      · simp only [Option.some.injEq, Prod.mk.injEq] at h; omega
      · simp at h
    · simp at h
  · rintro ⟨h1, h2, h3⟩
    have e1 : (a - 0x100000000000000) / 2 ^ 44 = m := by omega
    have e2 : (a - 0x100000000000000) % 2 ^ 44 = off := by omega
    rw [if_pos (by omega)]
    simp only [e1, e2]
    rw [if_pos h1]

theorem asCluster_none {nm a : Nat}
    (h : ¬ ∃ m off, m < nm ∧ off < 2 ^ 44 ∧ a = 0x100000000000000 + m * 2 ^ 44 + off) : asCluster nm a = none := by
  cases e : asCluster nm a with
  | none => rfl
  | some p => exact absurd ⟨p.1, p.2, (asCluster_iff nm a p.1 p.2).1 e⟩ h

/-- Membership of LOCAL, ACC and GLOBAL (R118). -/
theorem inLocal_iff (a : Nat) : inLocal a = true ↔ a < 0x1200000 := by
  unfold inLocal localSize; exact decide_eq_true_iff

theorem inGlobal_iff (a : Nat) : inGlobal a = true ↔ 0x1000000000000 ≤ a ∧ a < 0x3000000000000 := by
  unfold inGlobal globalBase globalTop
  rw [Bool.and_eq_true, decide_eq_true_iff, decide_eq_true_iff]

theorem inAcc_iff (np a : Nat) : inAcc np a = true ↔ (a < 0x1200000 ∧ 0x1000000 ≤ a)
    ∨ ∃ psn off, (psn < np ∧ off < 0x1200000 ∧ a = 0x10000000000 + psn * 0x2000000 + off) ∧ 0x1000000 ≤ off := by
  unfold inAcc
  rw [Bool.or_eq_true, Bool.and_eq_true, inLocal_iff, decide_eq_true_iff]
  refine or_congr Iff.rfl ?_
  constructor
  · intro h
    split at h
    · next p q e => exact ⟨p, q, (asShared_iff ..).1 e, by simpa using h⟩
    · simp at h
  · rintro ⟨p, q, hp, hq⟩
    rw [(asShared_iff ..).2 hp]; simpa using hq

end Sys2Proof.Machine
end

