-- ==== Sys2Proof/Laws/Traps.lean ====
section
/-!
SUPPORT. What taking a trap does (R313, R314, R319): the local entry, the escalation and its record.
-/

namespace Sys2Proof.Machine

/-- A trap is taken locally (R313). -/
def Ctx.takesLocally (c : Ctx) (code : Nat) : Prop :=
  c.ctl.hmode = false ∧ code ∉ [tFETCHAUTH, tFORM, tGATE, tMEMERR, tCUT, tWATCHDOG]
    ∧ ¬ (code = tXLATE ∧ c.ctl.strict = true) ∧ c.trap.tdeleg.getLsbD code = true

theorem alwaysEscalated_iff (code : Nat) :
    alwaysEscalated code = true ↔ code ∈ [tFETCHAUTH, tFORM, tGATE, tMEMERR, tCUT, tWATCHDOG] := by
  simp [alwaysEscalated, or_assoc]

theorem takeTrap_local {s : State} {n : Nat} {tr : Trap} (hs : tr.source = .bundle) (h : (s.ctxOf n).takesLocally tr.code) :
    s.takeTrap n tr = (s.clearWalks n).localEntry n tr := by
  obtain ⟨h1, h2, h3, h4⟩ := h
  have h2' : ¬ alwaysEscalated tr.code = true := fun x => h2 ((alwaysEscalated_iff _).1 x)
  have h3' : ¬ (tr.code == tXLATE && (s.ctxOf n).ctl.strict) = true := by simpa using h3
  unfold State.takeTrap
  simp only [hs, if_true]
  rw [if_neg (by rw [h1]; simp), if_neg h2', if_neg h3', if_neg (by rw [h4]; simp)]

theorem takeTrap_escalates {s : State} {n : Nat} {tr : Trap} (hs : tr.source = .bundle)
    (h : ¬ (s.ctxOf n).takesLocally tr.code) : s.takeTrap n tr = (s.clearWalks n).escalate n tr := by
  unfold State.takeTrap
  simp only [hs, if_true]
  by_cases h1 : (s.ctxOf n).ctl.hmode = true
  · rw [if_pos h1]
  · rw [if_neg h1]
    by_cases h2 : alwaysEscalated tr.code = true
    · rw [if_pos h2]
    · rw [if_neg h2]
      by_cases h3 : (tr.code == tXLATE && (s.ctxOf n).ctl.strict) = true
      · rw [if_pos h3]
      · rw [if_neg h3]
        by_cases h4 : (!(s.ctxOf n).trap.tdeleg.getLsbD tr.code) = true
        · rw [if_pos h4]
        · refine absurd ⟨by simpa using h1, fun x => h2 ((alwaysEscalated_iff _).2 x), by simpa using h3, by simpa using h4⟩ h

@[simp] theorem clearWalks_ctxOf (s : State) (n m : Nat) : (s.clearWalks n).ctxOf m = s.ctxOf m := rfl
@[simp] theorem clearWalks_sp (s : State) (n m : Nat) : (s.clearWalks n).sp m = s.sp m := rfl
@[simp] theorem clearWalks_mem (s : State) (n : Nat) : (s.clearWalks n).mem = s.mem := rfl
@[simp] theorem putRecord_sp (s : State) (k m : Nat) (bs : List Byte) : (s.putRecord k bs).sp m = s.sp m := rfl
@[simp] theorem blackBox_sp (s : State) (a b c : Nat) (bs : List Byte) (m : Nat) : (s.blackBox a b c bs).sp m = s.sp m := rfl

/-- The spindle after a local entry. -/
theorem localEntry_sp (s : State) (n : Nat) (tr : Trap) : (s.localEntry n tr).sp n =
    { s.sp n with ctx := { (s.ctxOf n).trapEnds with
        trap := { (s.ctxOf n).trap.take tr with hsfc := (s.ctxOf n).ctl.sfc }
        ctl := { (s.ctxOf n).ctl with hmode := true }
        pc := (s.ctxOf n).trap.tvec.setWidth 64
        cameFrom := none } } := by
  simp [State.localEntry, State.modCtx, State.modSp, State.ctxOf]

theorem localEntry_other {s : State} {n m : Nat} (h : m ≠ n) (tr : Trap) : (s.localEntry n tr).sp m = s.sp m := by
  rw [State.localEntry, State.modCtx, State.modSp, sp_setSp_ne _ h]

/-- The state that an escalation has made of everything but the spindle. -/
def State.recorded (s : State) (n : Nat) (tr : Trap) (nested vol : Bool) : State :=
  let bs := trapRecord (s.ctxOf n) s.gcyc tr nested vol
  (s.blackBox 1 (dieOf n) (s.ctxOf n).ident.part.toNat (bs.take 20)).postRecord n bs

@[simp] theorem modStand_sp (s : State) (k m : Nat) (f : Stand → Stand) : (s.modStand k f).sp m = s.sp m := rfl

/-- Records change no spindle. -/
theorem putRecords_sp (k m : Nat) (rs : List (Nat × List Byte)) (s : State) : (s.putRecords k rs).sp m = s.sp m := by
  induction rs generalizing s with
  | nil => rfl
  | cons r rs ih =>
    rw [State.putRecords]
    split <;> exact (ih _).trans rfl

theorem postRecord_sp (s : State) (n m : Nat) (bs : List Byte) : (s.postRecord n bs).sp m = s.sp m :=
  (putRecords_sp ..).trans rfl

/-- With no other record of its stand in this count, the record is the next of the ring. -/
theorem postRecord_alone {s : State} {n : Nat} {bs : List Byte} (h : s.recordsNow (standOf n) = []) :
    s.postRecord n bs =
      (s.modStand (standOf n) fun st => { st with recent := [], recentAt := s.gcyc }).putRecords (standOf n) [(n, bs)] := by
  simp [State.postRecord, h]

theorem recorded_sp (s : State) (n m : Nat) (tr : Trap) (a b : Bool) : (s.recorded n tr a b).sp m = s.sp m :=
  (postRecord_sp ..).trans (blackBox_sp ..)

/-- The spindle after an escalation: held, with the trap registers written unless the trap is nested. -/
theorem escalateWith_eq (s : State) (n : Nat) (tr : Trap) (nested vol keep : Bool) :
    s.escalateWith n tr nested vol keep = (s.recorded n tr nested vol).modSp n fun sp =>
      { sp with
        run := .held vol
        lastTrap := trapRecord (s.ctxOf n) s.gcyc tr nested vol
        ctx := { (s.ctxOf n).trapEnds with
          trap := if nested || keep then (s.ctxOf n).trap else (s.ctxOf n).trap.take tr
          pc := tr.epc.setWidth 64
          cameFrom := none } } := rfl

theorem escalateWith_sp (s : State) (n : Nat) (tr : Trap) (nested vol keep : Bool) :
    (s.escalateWith n tr nested vol keep).sp n =
      { s.sp n with
        run := .held vol
        lastTrap := trapRecord (s.ctxOf n) s.gcyc tr nested vol
        ctx := { (s.ctxOf n).trapEnds with
          trap := if nested || keep then (s.ctxOf n).trap else (s.ctxOf n).trap.take tr
          pc := tr.epc.setWidth 64
          cameFrom := none } } := by
  rw [escalateWith_eq]
  simp [State.modSp, recorded_sp]

theorem escalateWith_other {s : State} {n m : Nat} (h : m ≠ n) (tr : Trap) (a b c : Bool) :
    (s.escalateWith n tr a b c).sp m = s.sp m := by
  rw [escalateWith_eq, State.modSp, sp_setSp_ne _ h, recorded_sp]

end Sys2Proof.Machine
end

