-- ==== Sys2Proof/Tests/Slice0.lean ====
section
/-!
SUPPORT. The model's own tests: ill-formed terms, words of the encodings, single steps, and for each statement states
and operands that meet its hypotheses.
-/

namespace Sys2Proof.Tests

open Sys2Proof Sys2Proof.Machine

/-- Each word decodes at the place to the instruction beside it. -/
def reads (pl : Sys2Proof.Place) (l : List (Nat × Instr)) : Bool :=
  l.all fun p => (decodeAt pl (BitVec.ofNat 32 p.1)).toOption == some p.2

/-- The next state of an outcome. -/
def nextOf (o : Out) : Option State :=
  match o with
  | .next t => some t
  | _ => none

/-! ### Ill-formed terms -/

/-- R81: an operand kind 3 for each word with an operand b, and a literal number above 2. -/
theorem test_wf_operand_kind :
    ([.add .x 1 2 3 3 0, .sub .x 1 2 3 3 0, .and .x 1 2 3 3 0, .or .x 1 2 3 3 0, .xor .x 1 2 3 3 0, .andn .x 1 2 3 3 0,
      .sll .x 1 2 3 3 0, .srl .x 1 2 3 3 0, .sra .x 1 2 3 3 0, .slt .x 1 2 3 3 0, .sltu .x 1 2 3 3 0, .min .x 1 2 3 3 0,
      .max .x 1 2 3 3 0, .minu .x 1 2 3 3 0, .maxu .x 1 2 3 3 0, .addw .x 1 2 3 3 0, .subw .x 1 2 3 3 0, .sllw .x 1 2 3 3 0,
      .srlw .x 1 2 3 3 0, .sraw .x 1 2 3 3 0, .hash .x 1 2 3 3 0, .mul .x 1 2 3 3 0, .mulh .x 1 2 3 3 0, .mulhu .x 1 2 3 3 0,
      .mulw .x 1 2 3 3 0, .div 1 2 3 3 0, .divu 1 2 3 3 0, .rem 1 2 3 3 0, .remu 1 2 3 3 0, .pcmp .x 1 2 3 3 0 0,
      .sel .x 1 2 3 3 1 0, .fadd .x 1 2 3 3 false false false 0, .fsub .x 1 2 3 3 false false false 0,
      .fmul .x 1 2 3 3 false false false 0, .fmin .x 1 2 3 3 false false, .fmax .x 1 2 3 3 false false,
      .fdiv 1 2 3 3 false false false 0, .add .x 1 2 3 1 0] : List Instr).all (fun i => !i.wf) = true := by
  decide

/-- R106, R112, R118: a predicate destination 0, a condition above 5, an address test above 4. -/
theorem test_wf_predicates :
    ([.pcmp .x 0 2 3 0 0 0, .pcmp .x 1 2 3 0 6 0, .pcmpi .x 0 0 2 0 0, .pcmpi .x 1 6 2 0 0, .pand .x 0 1 2 0, .por .x 0 1 2 0,
      .pxor .x 0 1 2 0, .pandn .x 0 1 2 0, .atest .x 0 2 0 0, .atest .x 1 2 5 0, .fcmp .x 0 0 1 2 false] : List Instr).all
      (fun i => !i.wf) = true := by
  decide

/-- R71, R96, R97, R117, R124, R125, R134, R224, R226, R263: fields of the other words. -/
theorem test_wf_fields :
    ([.bankLockPrefix 0 0 1 1 1, .bankLockPrefix 1 0 0 1 1, .bankLockPrefix 1 1 1 1 1, .lit .x 1 3, .litS .x 1 3, .litD .x 1 2,
      .crd .x 1 0x00F, .cwr .x 1 0x00F, .cwr .x 1 0x000, .loop 0 1 1 0, .loopi 0 1 1 0, .loopi 0 0 0 0, .loopiR 0 0 0 0,
      .fence 6 0, .sbar 0 1, .sbar 1 0, .cpyb 1 0 0 0, .bdrain 1 0 0 0] : List Instr).all (fun i => !i.wf) = true := by
  decide

/-- R87, R88: a broadcast operand of y32 or above, and target codes that do not exist. -/
theorem test_wf_vector :
    ([.vadd 0 0 32 0 false false true 0, .vsub 0 0 32 0 false false true 0, .vmul 0 0 32 0 false false true 0,
      .vfma 0 0 32 0 false false true 0, .vfmac 0 0 32 0 false false true 0, .vmin 0 0 32 0 false true 0,
      .vmax 0 0 32 0 false true 0, .vdiv 0 0 32 0 false false true 0, .vcmplt 0 0 32 0 false true 0,
      .vcmpeq 0 0 32 0 false true 0, .vsel 0 0 32 0 true 0, .viadd 0 0 32 true 0, .visub 0 0 32 true 0, .vimul 0 0 32 true 0,
      .vand 0 0 32 true 0, .vor 0 0 32 true 0, .vxor 0 0 32 true 0, .vsll 0 0 32 true 0, .vsrl 0 0 32 true 0,
      .vsra 0 0 32 true 0, .vimin 0 0 32 true 0, .vimax 0 0 32 true 0, .vadd8 0 0 32 false false false true 0,
      .vmul8 0 0 32 false false false true 0, .vrng 0 0 32 true 0, .vcvt 0 0 5 0 false false 0, .vcvt 0 0 11 0 false false 0]
      : List Instr).all (fun i => !i.wf) = true := by
  decide

/-- Events that name a spindle, channel, die, partition, stand, gate, binding, port, session or row that does not exist. -/
theorem test_wf_events :
    ([.matrixRoutineComplete 320, .matrixRoutineStop 320, .streamLineMove 320, .streamComplete 320 0, .streamComplete 0 8,
      .streamDeadlineExpiry 320 0, .streamDeadlineExpiry 0 8, .publishSwap 320 0, .publishSwap 0 8, .cipherCommandComplete 320,
      .translationWalkComplete 8 0 0, .translationWalkComplete 0 64 0, .codeTagCheck 320 0, .blockPullComplete 320 0,
      .owedBlockWriteout 320 0, .imageDrainBlock 320, .segmentLoad 320, .tokenTick 64, .contractRelease 64 0,
      .budgetExhausted 64 0, .drainLimitExpiry 320, .schedulerTransactionCommit 64, .taskRetirement 320, .cutStop 320,
      .quiescence 320, .ppboundCountExpiry 320, .watchdog 320, .dispositionResume 40 0 false false 0 0,
      .dispositionResume 0 8 false false 0 0, .dispositionKill 40 0, .dispositionKill 0 8, .trapRingTailWrite 40 0,
      .barrierCompletionNotice 320, .stepCompletion 64 0 0, .gateTokenRefill 4096 0, .gateTokenRefill 0 8, .gcntWrite 4096 0,
      .gateValidWrite 0 4096 true, .gateValidWrite 2 0 true, .aclEntryWrite 0 4096 0 0, .aclEntryWrite 0 0 8 0,
      .aclEntryWrite 2 0 0 0] : List Instr).all (fun i => !i.wf) = true := by
  decide

/-- The same for the events of hosts, of the platform and of sessions. -/
theorem test_wf_outside_events :
    ([.hgsig 2 0 0 0, .hgsig 0 64 0 0, .hgsig 0 0 256 0, .hgcnt 2 0 0, .hgcnt 0 64 0, .hgcnt 0 0 256, .hwakeWrite 2 0 0 0,
      .hwakeWrite 0 64 0 0, .hwakeWrite 0 0 256 0, .leaseClaim 2 0, .hostMemoryWrite 2 0 0 [], .hostMemoryWrite 0 64 0 [],
      .hostMemoryRead 2 0 0 0, .hostMemoryRead 0 64 0 0, .pspinWrite 0 64 0 0, .pspinWrite 0 0 5 0,
      .pspinWrite 2 0 0 0, .reservationWrite 0 64 0, .reservationWrite 2 0 0, .lsdomWrite 2 0, .registerWrite 2 .leaseExpired 0,
      .xinvWrite 64 true, .invalidationComplete 64, .droopTrip 40 0 0, .droopTrip 0 9 0, .droopTrip 0 0 9,
      .patrolScrub (.code 320 5), .patrolScrub (.code 0 6), .patrolScrub (.control 320), .fatalError 7, .getVersion 2,
      .getCapabilities 2, .negotiateAlgorithms 2, .getDigests 2, .getCertificate 2 0 0 0 false, .getCertificate 0 8 0 0 false,
      .challenge 2 0 [], .challenge 0 8 [], .getMeasurements 2 0,
      .keyExchange 2 0 0 false false, .keyExchange 0 8 0 false false, .finish 8, .heartbeat 8, .keyUpdate 8, .endSession 8, .sessionExpiry 8, .keyset 8 0 0 [],
      .keyset 0 64 0 [], .keyset 0 0 256 [], .keyclr 8 0 0, .keyclr 0 64 0, .keyclr 0 0 256, .signreg 8 0 0 [],
      .signreg 0 64 0 [], .signclr 8 0 0, .signclr 0 64 0, .lockInterfaceRequest 8 0, .lockInterfaceRequest 0 64,
      .getDeviceInterfaceReport 8 0, .getDeviceInterfaceReport 0 64, .getDeviceInterfaceState 8 0,
      .getDeviceInterfaceState 0 64, .startInterfaceRequest 8 0, .startInterfaceRequest 0 64, .stopInterfaceRequest 8 0,
      .stopInterfaceRequest 0 64, .teardownScrubComplete 64, .exposedResultLanding 320, .declaredBoundExpiry 320,
      .persistenceReached 320, .droopRecovery 40] : List Instr).all (fun i => !i.wf) = true := by
  decide

/-! ### Words -/

/-- Words of SX, by the encodings of the opcode table. -/
theorem test_words_of_sx_1 :
    reads (.slot .sx)
      [(0x00000000, .nop .sx),
       (0x07D65C17, .sub .x 30 22 11 2 7),
       (0x06F9543C, .or .x 23 25 10 2 12),
       (0x07632451, .andn .x 27 3 4 2 1),
       (0x070DFC79, .srl .x 24 13 31 2 9),
       (0x04835C9B, .slt .x 4 3 11 2 11),
       (0x045A0AB4, .min .x 2 26 1 1 4),
       (0x05F00AD4, .minu .x 15 16 1 1 4),
       (0x049E00FE, .clz .x 4 30 14),
       (0x05ACC517, .addw .x 13 12 24 2 7),
       (0x05A90D32, .sllw .x 13 9 1 2 2),
       (0x0727555F, .sraw .x 25 7 10 2 15),
       (0x0B23AC05, .mul .x 25 3 21 2 5),
       (0x0B1C4423, .mulhu .x 24 28 8 2 3),
       (0x0EFC823C, .addi .x 23 28 2083 12),
       (0x14BBB485, .ori .x 5 27 2888 5),
       (0x1FE601E8, .slli .x 31 6 30 8),
       (0x1E1B80A3, .srai .x 16 27 10 3),
       (0x24EE45FA, .limm .x 7 467709),
       (0x2C7B3F06, .fimm .x 3 892803)] := by
  decide

/-- Words of SX, by the encodings of the opcode table. -/
theorem test_words_of_sx_2 :
    reads (.slot .sx)
      [(0x30800005, .litS .x 4 1),
       (0x3700004F, .kld .x 24 79),
       (0x3CAF3699, .pcmpi .x 1 2 30 873 9),
       (0x4065181B, .por .x 3 5 3 11),
       (0x40670831, .pandn .x 3 7 1 1),
       (0x48D2000F, .xmov .x 6 18 15),
       (0x50080062, .cwr .x 8 98),
       (0x54850017, .acvtGen2shr .x 4 5 7),
       (0x57450038, .acvtLoc2gen .x 26 5 8),
       (0x56A3005A, .acvtClu2gen .x 21 3 10),
       (0x62780DF0, .fadd .x 19 24 1 2 true true true 3),
       (0x618B0DE2, .fmul .x 12 11 1 2 true true true 2),
       (0x638A0D84, .fmax .x 28 10 1 2 true true),
       (0x62FB0106, .fneg .x 23 27 true),
       (0x604201A8, .ftoi .x 2 2 true true 2),
       (0x66CA95BE, .fma .x 22 10 18 22 true true true 3),
       (0x6BFB4C00, .fcmp .x 7 3 27 9 true),
       (0x81B94E2D, .br 1807586 13),
       (0x840FED5C, .jr 15 3797 12),
       (0x880DEC0A, .call 57024 10)] := by
  decide

/-- Words of SX, by the encodings of the opcode table. -/
theorem test_words_of_sx_3 :
    reads (.slot .sx)
      [(0x8C00000A, .ret 10),
       (0x910FFC8C, .loop 1 0 31 31884),
       (0x93B9F901, .loopR 3 3 19 30977),
       (0x9608616B, .loopi 2 0 536 363),
       (0x97D2B8DB, .loopiR 3 5 174 219),
       (0x9800000C, .lbrk 12),
       (0xA000000C, .frame 12),
       (0xA400379C, .sysc 889 12),
       (0xA8009EE3, .brk 2542 3),
       (0xAC00000D, .tend 13),
       (0xB018000C, .est 24 12),
       (0xB4000000, .rfe),
       (0xB8007664, .esc 1894 4),
       (0xC148000D, .tlaunch 10 8 13),
       (0xC4500007, .tjoin 2 16 7),
       (0xC42B800E, .tjoinW 1 11 14),
       (0xC97C0006, .admitC 11 28 6),
       (0xCAFF800E, .admitX 23 31 14),
       (0xD1F40907, .gsig 15 20 144 7),
       (0xD6500FB2, .gwait 18 16 251 2)] := by
  decide

/-- Words of SX, by the encodings of the opcode table. -/
theorem test_words_of_sx_4 :
    reads (.slot .sx)
      [(0xD88D08E3, .gpoll 4 13 142 3),
       (0xE0D4030F, .barra 6 20 48 15),
       (0xE0200757, .barraQ 1 53 7),
       (0xE40603D4, .barrw 6 61 4),
       (0xEA600002, .sstep 19 2),
       (0xEC00001E, .fence 1 14),
       (0xF1B8000C, .cut 13 24 12)] := by
  decide

/-- Words of the bundle start, by the encodings of the opcode table. -/
theorem test_words_of_start :
    reads .start
      [(0x10004285, .emptyBundle true 17029),
       (0x3BDA7800, .bankLockPrefix 6 3 218 1 224)] := by
  decide

/-- Words of SY, by the encodings of the opcode table. -/
theorem test_words_of_sy_1 :
    reads (.slot .sy)
      [(0x05C73C0B, .add .y 14 7 7 2 11),
       (0x04758C27, .and .y 3 21 17 2 7),
       (0x06A99443, .xor .y 21 9 18 2 3),
       (0x0755D46B, .sll .y 26 21 26 2 11),
       (0x06C62489, .sra .y 22 6 4 2 9),
       (0x047FB4AB, .sltu .y 3 31 22 2 11),
       (0x07A5ECCE, .max .y 29 5 29 2 14),
       (0x077554EE, .maxu .y 27 21 10 2 14),
       (0x05470106, .popc .y 10 7 6),
       (0x067C6528, .subw .y 19 28 12 2 8),
       (0x067C8544, .srlw .y 19 28 16 2 4),
       (0x05122D6D, .hash .y 8 18 5 2 13),
       (0x09982C1B, .mulh .y 12 24 5 2 11),
       (0x099CEC3F, .mulw .y 12 28 29 2 15),
       (0x0AEADC4B, .div 23 10 27 2 11),
       (0x08654C52, .divu 3 5 9 2 2),
       (0x08AA1C61, .rem 5 10 3 2 1),
       (0x0A228477, .remu 17 2 16 2 7),
       (0x12C4A77F, .andi .y 22 4 2679 15),
       (0x1A326B4F, .xori .y 17 18 1716 15)] := by
  decide

/-- Words of SY, by the encodings of the opcode table. -/
theorem test_words_of_sy_2 :
    reads (.slot .sy)
      [(0x1EDD4329, .srli .y 22 29 50 9),
       (0x20E74A32, .slti .y 7 7 1187 2),
       (0x29AEF830, .limmh .y 13 490520),
       (0x33200002, .lit .y 25 2),
       (0x33000009, .litD .y 24 1),
       (0x38464412, .pcmp .y 2 6 8 2 1 2),
       (0x40C5200B, .pand .y 6 5 4 11),
       (0x40E52823, .pxor .y 7 5 5 3),
       (0x45852C72, .sel .y 12 5 5 2 7 2),
       (0x4D800076, .crd .y 12 118),
       (0x57450005, .acvtGen2loc .y 26 5 5),
       (0x54F5002F, .acvtGen2clu .y 7 21 15),
       (0x55160048, .acvtShr2gen .y 8 22 8),
       (0x58710032, .atest .y 3 17 3 2),
       (0x60AFF5F1, .fsub .y 5 15 30 2 true true true 3),
       (0x6365FD83, .fmin .y 27 5 31 2 true true),
       (0x61EA0105, .fabs .y 15 10 true),
       (0x612301E7, .fcvt .y 9 3 true true true 2),
       (0x63EA0129, .fito .y 31 10 true 2),
       (0x61073DFA, .fdiv 8 7 7 2 true true true 3)] := by
  decide

/-- Words of SY, by the encodings of the opcode table. -/
theorem test_words_of_sy_3 :
    reads (.slot .sy)
      [(0x63BC01EB, .fsqrt 29 28 true true true 2),
       (0x6608977F, .fnma .y 16 8 18 29 true true true 3),
       (0x6ED60019, .fclass .y 22 22 true 9)] := by
  decide

/-- Words of LS, by the encodings of the opcode table. -/
theorem test_words_of_ls_1 :
    reads (.slot .ls)
      [(0x050DBAC2, .ldb 16 27 470 2),
       (0x0A9648C5, .ldh 41 12 582 5),
       (0x0FE08D05, .ldw 62 1 104 5),
       (0x1151A1E5, .ldd 21 3 271 5),
       (0x149F3201, .ldbz 9 30 400 1),
       (0x1B0A5A45, .ldhz 48 20 722 5),
       (0x1C781D24, .ldwz 7 16 233 4),
       (0x22C23364, .stb 44 4 411 4),
       (0x267D5165, .sth 39 26 651 5),
       (0x290CF602, .stw 16 25 944 2),
       (0x2F0BE026, .std 48 23 769 6),
       (0x31B322A5, .vld 27 6 277 5),
       (0x34ED50E6, .vst 14 26 647 6),
       (0x402CDA0A, .aintAddW 2 25 45 true 2),
       (0x427E4219, .aintAddD 39 28 33 true 1),
       (0x41832A2A, .aintAnd 24 6 21 true 2),
       (0x43F4E63F, .aintOr 63 9 51 true 7),
       (0x4046984F, .aintXor 4 13 12 true 7),
       (0x435D5A59, .aintMin 53 26 45 true 1),
       (0x43697A6F, .aintMax 54 18 61 true 7)] := by
  decide

/-- Words of LS, by the encodings of the opcode table. -/
theorem test_words_of_ls_2 :
    reads (.slot .ls)
      [(0x42876C7E, .aintMinz 40 14 54 true 6),
       (0x4320988D, .aintMaxz 50 1 12 true 5),
       (0x42A6F89A, .aintSwapW 42 13 60 true 2),
       (0x43F2A8AB, .aintSwapD 63 5 20 true 3),
       (0x479C9C4E, .afpFadd 57 25 14 1 true 6),
       (0x45A924D9, .afpFmin 26 18 18 3 true 1),
       (0x46E364AB, .afpFmax 46 6 50 2 true 3),
       (0x48F3B00B, .acasW 15 7 24 true 3),
       (0x48DB5A1D, .acasD 13 22 45 true 5),
       (0x4A6EF82B, .acasQ 19 29 30 true 3),
       (0x4C6C0009, .vaccOvw 6 24 true 1),
       (0x4F5B001A, .vaccAddF32 53 22 true 2),
       (0x4FED002A, .vaccAddF64 62 26 true 2),
       (0x4F6D803E, .vaccAddBf16 54 27 true 6),
       (0x4F2E804B, .vaccAddF16 50 29 true 3),
       (0x4DB7005A, .vaccAddI32 27 14 true 2),
       (0x62D2F806, .bpop 45 2 248 6),
       (0x66F9CC01, .bpush 47 9 204 1),
       (0x68029B06, .badvC 2 155 6),
       (0x680B870E, .badvP 11 135 6)] := by
  decide

/-- Words of LS, by the encodings of the opcode table. -/
theorem test_words_of_ls_3 :
    reads (.slot .ls)
      [(0x6C093304, .bwaitC 9 51 4),
       (0x6C0A3209, .bwaitP 10 50 1)] := by
  decide

/-- Words of VX, by the encodings of the opcode table. -/
theorem test_words_of_vx_1 :
    reads (.slot .vx)
      [(0x06BE4BB9, .vadd 43 57 11 2 true true true 1),
       (0x09031D79, .vsub 16 12 29 1 true true true 1),
       (0x0E694EFC, .vmul 38 37 14 3 true true true 4),
       (0x11344A7B, .vfma 19 17 10 1 true true true 3),
       (0x151783FC, .vfmac 17 30 3 3 true true true 4),
       (0x1B338A6E, .vmin 51 14 10 1 true true 6),
       (0x1D43156C, .vmax 20 12 21 1 true true 4),
       (0x220E4045, .vabs 32 57 1 5),
       (0x25BAC081, .vneg 27 43 2 1),
       (0x288844BA, .vdiv 8 33 4 2 true true true 2),
       (0x3378C074, .vexp 55 35 1 true true 4),
       (0x35AFC0F4, .vexp2 26 63 3 true true 4),
       (0x3B1AC0F5, .vlog2 49 43 3 true true 5),
       (0x3F0FC074, .vrcp 48 63 1 true true 4),
       (0x41A4C073, .vrsqrt 26 19 1 true true 3),
       (0x461D40F3, .vsqrt 33 53 3 true true 3),
       (0x4B7AC067, .vrmax 55 43 1 true 7),
       (0x4F8300A4, .vrmin 56 12 2 true 4),
       (0x53A5C0F4, .vrsum 58 23 3 true true 4),
       (0x541E4DED, .vcmplt 1 57 13 3 true true 5)] := by
  decide

/-- Words of VX, by the encodings of the opcode table. -/
theorem test_words_of_vx_2 :
    reads (.slot .vx)
      [(0x593F44AF, .vcmpeq 19 61 4 2 true true 7),
       (0x5C641E4F, .vsel 6 16 30 1 true 7),
       (0x63270AB5, .vcvt 50 28 10 2 true true 5),
       (0x662E8006, .vmov 34 58 6),
       (0x69187742, .vbcast 17 33 55 1 2),
       (0x69300E49, .vbcastY 19 14 1 1),
       (0x6D269944, .vlsh 18 26 25 1 4),
       (0x6EA8118E, .vlshY 42 32 17 2 6),
       (0x706A58C5, .vget 6 41 24 3 5),
       (0x74529F81, .vput 5 10 31 2 1),
       (0x81EA980E, .viadd 30 42 24 true 6),
       (0x8582840B, .visub 24 10 4 true 3),
       (0x8A991B0D, .vimul 41 36 27 true 5),
       (0x8E8FC609, .vand 40 63 6 true 1),
       (0x91E35B0B, .vor 30 13 27 true 3),
       (0x9514DA0B, .vxor 17 19 26 true 3),
       (0x9A124A0D, .vsll 33 9 10 true 5),
       (0x9DE6070F, .vsrl 30 24 7 true 7),
       (0xA135C70E, .vsra 19 23 7 true 6),
       (0xA42DC40D, .vimin 2 55 4 true 5)] := by
  decide

/-- Words of VX, by the encodings of the opcode table. -/
theorem test_words_of_vx_3 :
    reads (.slot .vx)
      [(0xAA269D0E, .vimax 34 26 29 true 6),
       (0xB3F4CA7D, .vadd8 63 19 10 true true true true 5),
       (0xB55AD57A, .vmul8 21 43 21 true true true true 2),
       (0xBA700041, .viota 39 1 1),
       (0xBC6E430C, .vrng 6 57 3 true 4)] := by
  decide

/-- Words of MX, by the encodings of the opcode table. -/
theorem test_words_of_mx :
    reads (.slot .mx)
      [(0x074F4300, .mcallGemm 52 61 true true),
       (0x07F58301, .mcallGemmt 63 22 true true),
       (0x07E20302, .mcallGemmz 62 8 true true),
       (0x066F4303, .mcallGemv 38 61 true true),
       (0x053D0304, .mcallOuter 19 52 true true),
       (0x04000005, .mcallTrans),
       (0x07464306, .mcallDgemm 52 25 true true),
       (0x05000207, .mcallRowsc 16 true),
       (0x04000208, .mcallColred true),
       (0x04034209, .mcallCvtout 13 true),
       (0x0401C20A, .mcallLoadc 7 true),
       (0x08000018, .mzero 24),
       (0x0C000000, .mwait),
       (0x0C000035, .mwaitTile 21)] := by
  decide

/-- Words of CP, by the encodings of the opcode table. -/
theorem test_words_of_cp :
    reads (.slot .cp)
      [(0x07880019, .cpy 56 32 true true 1),
       (0x08000001, .publ 1),
       (0x0EF7C01E, .gath 47 31 true true 6),
       (0x13A28017, .scat 58 10 true 7),
       (0x150B4006, .coll 16 45 6),
       (0x18000037, .sbar 6 7),
       (0x1C000001, .cwait 1),
       (0x22AF8000, .persist 42 62),
       (0x26701D7A, .cpyb 39 58 15 2),
       (0x280DDB49, .bdrain 55 54 9 1)] := by
  decide

/-- Words of CY, by the encodings of the opcode table. -/
theorem test_words_of_cy :
    reads (.slot .cy)
      [(0x07E0A28E, .seal 62 2 138 14),
       (0x0B884606, .openCt 56 33 24 6),
       (0x0C000000, .ywait)] := by
  decide

/-! ### Witnesses: states and operands that meet the hypotheses of the statements -/

/-- Reset with a changed context on spindle 0. -/
def withCtx (f : Ctx → Ctx) : State := State.reset.modCtx 0 f

/-- With values in registers of clusters x and y. -/
def withRegs (xs ys : List (BitVec 5 × Word)) : State :=
  withCtx fun c => { c with regs := ys.foldl (fun r p => r.wy p.1 p.2) (xs.foldl (fun r p => r.wx p.1 p.2) c.regs) }

/-- Partition 0 holds spindles 0 and 1. -/
def two : State := State.reset.modSched 0 fun d => { d with psns := [0, 1] }

/-- IntegerResults: divisors 0, 1 and -1 with the most negative dividend. -/
theorem witness_integer_results :
    State.reset.acts 0 (regBlock .x :: bkBlocks 2) ∧ State.reset.acts 0 (regBlock .y :: bkBlocks 0)
    ∧ State.reset.c.opB .y 2 0 = 0
    ∧ (let s := withRegs [] [(1, BitVec.intMin 64), (2, BitVec.allOnes 64)]
       s.acts 0 (regBlock .y :: bkBlocks 0) ∧ s.c.rd .y 1 = BitVec.intMin 64 ∧ s.c.opB .y 2 0 = BitVec.allOnes 64
         ∧ s.c.opB .y 2 0 ≠ 0) := by
  unfold State.acts State.there; decide

/-- ImmediatesCountsAndHash: the last LOCAL byte, the first byte of a SHARED window, and the last of module 0. -/
theorem witness_immediates_counts_and_hash :
    State.reset.acts 0 [regBlock .x] ∧ State.reset.there [regBlock .y, 5] ∧ State.reset.acts 0 [regBlock .x, 2]
    ∧ (0x11FFFFF < 0x1200000 ∧ ¬ 0x1200000 < 0x1200000)
    ∧ (two.acts 0 [regBlock .x, 2] ∧ 1 < two.npOf two.c.partN ∧ (0x11FFFFF : Nat) < 0x1200000)
    ∧ (0 < State.reset.pf.nmod.toNat ∧ 2 ^ 44 - 1 < 2 ^ 44) := by
  unfold State.acts State.there; decide

/-- ImmediatesCountsAndHash: each address test has an outcome, at the edges of its range. -/
theorem witness_atest :
    (∃ want : Prop, want ↔ (0 : Nat) < 0x1200000) ∧ (∃ want : Prop, want ↔ (0x1000000000000 : Nat) ≤ 0x3000000000000 - 1) := by
  exact ⟨⟨_, Iff.rfl⟩, ⟨_, Iff.rfl⟩⟩

/-- ComparisonResults, PredicateLogic, SelAndXmov: at the last condition. -/
theorem witness_comparisons_predicates_sel :
    State.reset.acts 0 (regBlock .x :: 2 :: bkBlocks 1) ∧ (5 : BitVec 5).toNat ≤ 5 ∧ State.reset.acts 0 [regBlock .y, 2]
    ∧ (5 : BitVec 3).toNat ≤ 5 ∧ State.reset.acts 0 [2] ∧ State.reset.acts 0 [0, 1] := by
  unfold State.acts State.there; decide

/-- ControlRegistersAndLanding: an assigned register read plainly and masked, one written, one with PRIV, one unassigned. -/
theorem witness_control_registers :
    (0x0C7 ≤ 0x0C7 ∧ State.reset.there [regBlock .x, 3] ∧ State.reset.there [regBlock .y, 2] ∧ State.reset.c.ctl.det = false)
    ∧ (let s := withCtx fun c => { c with ctl := { c.ctl with det := true } }
       s.c.ctl.det = true ∧ s.there [regBlock .x, 2])
    ∧ (State.reset.c.ctl.hmode = false)
    ∧ (let s := withCtx fun c => { c with ctl := { c.ctl with hmode := true } }
       s.c.ctl.hmode = true ∧ s.there [regBlock .x, 2])
    ∧ (Machine.crReadOnly 0x000 = true ∧ Machine.crAssigned 0x0C8 = false) := by
  unfold State.there; decide

/-- FalseGuardDoesNothing: guard 1 reads p1, which is 0, in a scalar and in an LS word. -/
theorem witness_false_guard :
    (State.reset.there (guardBlocks 1) ∧ State.reset.c.guard 1 = false)
    ∧ (State.reset.there (guardBlocksLs 1) ∧ State.reset.c.guardLs 1 = false) := by
  unfold State.there; decide

/-- ScalarFrames and VectorFrame: a word answers a next state. -/
theorem witness_frames :
    nextOf (exec (.nop .sx) State.reset) = some State.reset
    ∧ (nextOf (exec (.add .x 1 2 3 0 0) State.reset)).isSome = true
    ∧ (nextOf (exec (.fadd .x 1 2 3 0 false false false 0) State.reset)).isSome = true
    ∧ (nextOf (exec (.vmov 0 0 0) State.reset)).isSome = true := by
  decide

/-- FloatResults: with no flag, and with a flag that raises FPX. -/
theorem witness_float_results :
    State.reset.there (regBlock .x :: 2 :: bkBlocks 0) ∧ State.reset.there (regBlock .y :: 2 :: bkBlocks 0)
    ∧ State.reset.acts 0 [regBlock .x, 2] ∧ State.reset.noFpx fNV
    ∧ ¬ (withCtx fun c => { c with ctl := { c.ctl with fen := 31 } }).noFpx fNV := by
  unfold State.acts State.there State.noFpx; decide

/-- TransfersAndHandlers: outside a handler and in one. -/
theorem witness_transfers :
    State.reset.acts 0 [] ∧ State.reset.acts 0 [0] ∧ State.reset.acts 0 [2] ∧ State.reset.acts 0 [0, 2]
    ∧ State.reset.c.ctl.hmode = false
    ∧ (let s := withCtx fun c => { c with ctl := { c.ctl with hmode := true } }
       s.c.ctl.hmode = true ∧ s.there [2] ∧ s.acts 0 [2]) := by
  unfold State.acts State.there; decide

/-- A context whose loop 1 is active with a number of repetitions left. -/
def looping (n : BitVec 23) : State :=
  withCtx fun c => { c with regs := { c.regs with lc := c.regs.lc.set 1 { endA := 4, top := 2, remain := n, active := true } } }

/-- LoopsAndBreaks and BundleEnds: a free loop with 0 and with the most trips, a taken one, and a break. -/
theorem witness_loops :
    State.reset.there [0, 2] ∧ State.reset.there [2]
    ∧ (∀ k : Fin 4, State.reset.c.regs.lc[k].active = false)
    ∧ State.reset.there (State.reset.endBlocks State.reset.cur 32767)
    ∧ ((looping 3).c.regs.lc[(1 : Fin 4)].active = true ∧ ∀ j : Fin 4, 1 < j → (looping 3).c.regs.lc[j].active = false)
    ∧ ((withCtx fun c => { c with bun := { c.bun with lbrk := true } }).ctxOf 0).bun.lbrk = true := by
  unfold State.there; decide

/-- A bundle at word 4 with a NOP. -/
def bundle4 : Fetched := { start := 4, hdr := 4, h := hdrOf 0x00080000#32, lock := none, words := [(.sx, .nop .sx)], lits := [] }

/-- BundleEnds: a transfer, a plain end, a back edge, a last trip and a loop that starts. -/
theorem witness_bundle_ends :
    (((withCtx fun c => { c with bun := { c.bun with xfer := some 8 } }).ctxOf 0).bun.xfer = some 8)
    ∧ ((looping 3).c.regs.lc[(1 : Fin 4)].remain ≠ 0 ∧ (looping 3).c.regs.lc[(1 : Fin 4)].endA.toNat = bundle4.hdr)
    ∧ ((looping 0).c.regs.lc[(1 : Fin 4)].remain = 0 ∧ ∀ j : Fin 4, j ≠ 1 → (looping 0).c.regs.lc[j].active = false)
    ∧ ((looping 3).ctxOf 0).bun.lbrk = false ∧ ((looping 3).ctxOf 0).bun.xfer = none
    ∧ (withCtx fun c => { c with bun := { c.bun with newLoop := some (2, { active := true, rot := true }) } }).c.bun.newLoop
        = some (2, { active := true, rot := true }) := by
  decide

/-- Loop 0 with its END and its trips left, around loop 1, which ends at word 4 and is over. -/
def nested (e : BitVec 16) (n : BitVec 23) : State :=
  let outer : LoopCtr := { endA := e, top := 1, remain := n, active := true }
  let inner : LoopCtr := { endA := 4, top := 2, active := true }
  withCtx fun c => { c with regs := { c.regs with lc := (c.regs.lc.set 0 outer).set 1 inner } }

/-- BundleEnds: two loops that end together, the inner one over, the outer one with trips left and without; and an outer one that
ends elsewhere. -/
theorem witness_nested_ends :
    ((nested 9 3).ctxOf 0).bun = {} ∧ (nested 9 3).prefixAt 0 4 9 = false
    ∧ ((nested 9 3).ctxOf 0).regs.lc[(0 : Fin 4)].endA = 9 ∧ ((nested 4 3).ctxOf 0).regs.lc[(0 : Fin 4)].endA = 4
    ∧ ((nested 4 3).ctxOf 0).regs.lc[(0 : Fin 4)].remain = 3 ∧ ((nested 4 0).ctxOf 0).regs.lc[(0 : Fin 4)].remain = 0
    ∧ ((nested 4 3).ctxOf 0).regs.lc[(0 : Fin 4)].active = true ∧ ((nested 4 3).ctxOf 0).regs.lc[(1 : Fin 4)].endA = 4
    ∧ ((nested 4 3).ctxOf 0).regs.lc[(1 : Fin 4)].remain = 0 ∧ ((nested 4 3).ctxOf 0).regs.lc[(2 : Fin 4)].active = false
    ∧ ((nested 4 3).ctxOf 0).regs.lc[(3 : Fin 4)].active = false := by
  decide

/-- TrapRouting: a trap that the handler takes, one that it does not, and one that is always escalated. -/
theorem witness_trap_routing :
    (let tr : Trap := { code := tALIGN, slot := 3, val := 1, epc := 4 }
     let s := withCtx fun c => { c with trap := { c.trap with tdeleg := tdelegMask } }
     tr.source = .bundle ∧ (s.ctxOf 0).ctl.hmode = false ∧ (s.ctxOf 0).trap.tdeleg.getLsbD tr.code = true
       ∧ (State.reset.ctxOf 0).trap.tdeleg.getLsbD tr.code = false)
    ∧ tMEMERR ∈ [tFETCHAUTH, tFORM, tGATE, tMEMERR, tCUT, tWATCHDOG] := by
  decide

/-- TrapsAfterWords: an empty ring and a full one; SYSC, and ESC in and out of a handler. -/
theorem witness_traps_after_words :
    State.reset.sound ∧ (State.reset.stand 0).ringFull = false
    ∧ ((State.reset.modStand 0 fun st => { st with trqhead := 128 }).stand 0).ringFull = true
    ∧ (withCtx fun c => { c with bun := { c.bun with sysc := some 4095 } }).c.bun.sysc = some 4095
    ∧ (withCtx fun c => { c with bun := { c.bun with esc := some 0 } }).c.bun.esc = some 0
    ∧ (withCtx fun c => { c with bun := { c.bun with esc := some 0 } }).c.bun.sysc = none := by
  decide

/-- DispositionsAndWatchdog: the last spindle held, a record that waits, and a wait past its limit and below it. -/
theorem witness_dispositions :
    ((State.reset.modSp 319 fun x => { x with run := .held true }).sp (8 * 39 + 7)).run = .held true
    ∧ (State.reset.sp 0).run.heldBy = none ∧ (RunState.held false).heldBy.isSome = true
    ∧ (((State.reset.modStand 0 fun st => { st with trqhead := 128, recWait := [(1, [])] }).stand 0).trqhead - 1 ≠ 128)
    ∧ (∀ r ∈ (State.reset.stand 39).recWait, r.1 ≠ 319)
    ∧ (∃ r ∈ ((State.reset.modStand 0 fun st => { st with recWait := [(1, [])] }).stand 0).recWait, r.1 = 1)
    ∧ (∀ m ∈ State.reset.recordsNow 0, m ≤ 0)
    ∧ (let w : Wait := { kind := 3, since := 0 }
       let s := State.reset.modSp 0 fun x => { x with
         run := .running, ctx := { x.ctx with wait := some w, trap := { x.ctx.trap with frzlim := 5 } } }
       let late := fun (g : Nat) => ({ s with gcyc := g }.sp 0).run = .running ∧ (s.ctxOf 0).trap.frzlim ≠ 0
         ∧ (s.ctxOf 0).trap.frzlim.toNat < g - w.since
       (s.ctxOf 0).wait = some w ∧ ¬ late 5 ∧ late 6 ∧ (s.ctxOf 0).inTend = false
         ∧ ((s.modCtx 0 fun c => { c with inTend := true }).ctxOf 0).inTend = true) := by
  decide

/-- Own bytes at an address: of the accumulators, or of the scratchpad with the bounds wide open. -/
def owned (a : Word) : State :=
  withCtx fun c => { c with regs := c.regs.wx 5 a, ctl := { c.ctl with seglo := 0, seghi := 0x1000000 } }

/-- OwnLoads and OwnStores: the first byte of the slice, the last of the scratchpad, the last of the accumulators. -/
theorem witness_own_accesses :
    (owned 0).actsLs 0 [0, regBlock6 40] ∧ (owned 0).actsLs 0 [0, 2] ∧ (owned 0).sound := by
  unfold State.actsLs State.there State.sound; decide

theorem witness_own_bytes :
    (∀ p ∈ [((0 : Nat), 8), (0xFFFFFF, 1), (0xFFFFFE, 2), (0xFFFFFC, 4), (0xFFFFF8, 8), (0x11FFFFF, 1), (0x11FFFF8, 8)],
        let s := owned (BitVec.ofNat 64 p.1)
        s.ownAt (s.c.regs.rx 5) p.2 p.1 ∧ s.reachable p.1 p.2 true false ∧ s.reachable p.1 p.2 false true) := by
  unfold State.ownAt State.aligned State.reachable
  decide

theorem witness_own_rows :
    let s := owned 0x1000000
    s.ownAt (s.c.regs.rx 5) 512 0x1000000 ∧ s.reachable 0x1000000 512 true false ∧ s.reachable 0x1000000 512 false true
      ∧ s.reachable (rowOff (s.c.row 63)) 512 false true ∧ s.reachable (rowOff (s.c.row 63)) 512 true false := by
  unfold State.ownAt State.aligned State.reachable
  decide

/-- Spindles 0 and 1 of partition 0 in a timed domain of gang 9. -/
def timed (a : Word) : State :=
  ((two.modSp 0 fun x => { x with
      run := .running, ctx := { x.ctx with id := 1, gang := 9, domain := true, sync := true, regs := x.ctx.regs.wx 5 a } }).modSp 1
    fun x => { x with run := .running, ctx := { x.ctx with id := 2, gang := 9, domain := true, sync := true } })

/-- The same without a domain. -/
def far (a : Word) : State := two.modCtx 0 fun c => { c with regs := c.regs.wx 5 a }

/-- An access that names a remote home. -/
theorem far_at {s : State} {a : Word} {len m o : Nat} {w : Bool} {r : Reach}
    (h : s.aligned a len ∧ s.aim s.c a.toNat = .remote m o ∧ s.reach 3 a (.remote m o) w = r) : s.farAt a len w r := by
  obtain ⟨h1, h2, h3⟩ := h
  exact ⟨h1, by rw [h2]; nofun, by rw [h2]; nofun, by rw [h2]; exact h3⟩

/-- RemoteLoadsAndStores: the words act below the limits, and a row can leave. -/
theorem witness_remote_accesses :
    (let s := far 0x10002000000
     s.actsLs 0 [0, regBlock6 1] ∧ s.actsLs 0 [0, 2] ∧ s.below true ∧ s.below false
       ∧ s.reachable (rowOff (s.c.row 1)) 512 false true ∧ s.reachable (rowOff (s.c.row 1)) 512 true false
       ∧ s.aim s.c (s.c.regs.rx 5).toNat = .remote 1 0
       ∧ (s.reachAll 3 (s.c.regs.rx 5) true ((List.range 8).map fun i => (64 * i, 64))).toOption.isSome = true) := by
  unfold State.actsLs State.there State.reachable State.below; decide

/-- RemoteLoadsAndStores: the first word of another spindle, read and written, outside a domain and in one. -/
theorem witness_far_first :
    ((far 0x10002000000).farAt 0x10002000000 8 false (.home (.slice 1 0))
      ∧ (far 0x10002000000).farAt 0x10002000000 512 true (.home (.slice 1 0)))
    ∧ ((timed 0x10002000000).farAt 0x10002000000 8 false (.dom 1 0) ∧ (timed 0x10002000000).farAt 0x10002000000 8 true (.dom 1 0)) := by
  refine ⟨⟨far_at (m := 1) (o := 0) ?_, far_at (m := 1) (o := 0) ?_⟩, far_at (m := 1) (o := 0) ?_, far_at (m := 1) (o := 0) ?_⟩ <;>
    exact ⟨by unfold State.aligned; decide, by decide, rfl⟩

/-- The same at the last word of its slice. -/
theorem witness_far_last :
    (far 0).farAt 0x100031FFFF8 8 true (.home (.slice 1 0x11FFFF8))
    ∧ (timed 0).farAt 0x100031FFFF8 8 false (.dom 1 0x11FFFF8) := by
  refine ⟨far_at (m := 1) (o := 0x11FFFF8) ?_, far_at (m := 1) (o := 0x11FFFF8) ?_⟩ <;>
    exact ⟨by unfold State.aligned; decide, by decide, rfl⟩

/-- A partition 0 with one level-3 leaf for GLOBAL pages 0 and 1, which a die holds. -/
def paged (a : Word) : State :=
  let e := fun (k : Nat) => BitVec.ofNat 64 (0x300000000000 + 0x10000 * k)
  { (far a).modCfg 0 (fun k => { k with en := true }) with held := [{ die := 0, part := 0, base := 0, size := 65536, entry := e 1 ||| 7, pinned := false },
                        { die := 0, part := 0, base := 65536, size := 65536, entry := e 2 ||| 7, pinned := false }] }

/-- RemoteLoadsAndStores: a GLOBAL row in one page, and one over the edge of two. -/
theorem witness_global_rows :
    (∀ p ∈ [((0x1000000000000 : Nat), 65536), (0x100000000FFC0, 64)],
        let s := paged (BitVec.ofNat 64 p.1)
        s.toPageEnd (s.aim s.c p.1) = some p.2 ∧ s.actsLs 0 [0, 2]
          ∧ (s.reachAll 3 (s.c.regs.rx 5) false (s.rowPieces (s.aim s.c p.1))).toOption.isSome = true
          ∧ s.aligned (s.c.regs.rx 5) 512 ∧ s.aim s.c p.1 = .global (p.1 - 0x1000000000000)) := by
  unfold State.actsLs State.there State.aligned; decide

/-- ChecksOfAccesses: a misaligned address, one that decodes to nothing, bytes below and above the bounds and inside. -/
theorem witness_access_checks :
    (¬ (1 : Word).toNat % 2 = 0) ∧ State.reset.aim State.reset.c 0x1200000 = .bad
    ∧ (let s := withCtx fun c => { c with ctl := { c.ctl with seglo := 64, seghi := 128 } }
       s.aim s.c 56 = .own 56 ∧ s.aim s.c 128 = .own 128 ∧ s.c.inBounds 56 8 = false ∧ s.c.inBounds 128 8 = false
         ∧ s.c.inBounds 120 8 = true)
    ∧ (State.reset.aim State.reset.c 0 ≠ .bad ∧ State.reset.targetsAcc 0 = false ∧ State.reset.targetsAcc 0x1000000 = true)
    ∧ State.reset.actsLs 0 [0, regBlock6 33, regBlock6 2, 2] ∧ State.reset.actsLs 0 [0, regBlock6 62, regBlock6 0] := by
  unfold State.actsLs State.there; decide

/-- ChecksOfAccesses: bytes of a group that a routine holds. -/
theorem witness_held_group :
    (withCtx fun c => { c with eng := { c.eng with mx := { c.eng.mx with
        run := some { rt := .gemm, groups := [0], tiles := [0] }, started := true } } }).c.groupHeld 0 8 = true := by
  decide

/-- Own line 0 holds ciphertext, or is poisoned. -/
def sealed0 : State := { owned 0 with mem := { form := [sliceKey 0 0 / 64] } }
def poisoned0 : State := { owned 0 with mem := { poison := [sliceKey 0 0 / 64] } }

/-- ChecksOfAccesses: ciphertext and poison. -/
theorem witness_form_and_poison :
    (sealed0.ownAt (sealed0.c.regs.rx 5) 8 0 ∧ sealed0.reachable 0 8 false false ∧ sealed0.formAt 0 0 8 = some 0)
    ∧ (poisoned0.ownAt (poisoned0.c.regs.rx 5) 8 0 ∧ poisoned0.reachable 0 8 false false ∧ poisoned0.formAt 0 0 8 = none
      ∧ poisoned0.poisonAt 0 0 8 = some 0) := by
  unfold State.ownAt State.aligned State.reachable; decide +kernel

/-- TransactionWords and GateWords: strict and not, a binding that is not valid, one that is, one of another module, and
one without a limit. -/
theorem witness_transactions_and_gates :
    State.reset.acts 0 [0] ∧ State.reset.ordered 4 ∧ State.reset.c.ctl.strict = false
    ∧ (let s := withCtx fun c => { c with ctl := { c.ctl with strict := true } }
       s.c.ctl.strict = true ∧ s.acts 0 [0])
    ∧ ¬ bitsOf (State.reset.binding 0 255).toNat 18 1 = 1
    ∧ (let s := State.reset.modCfg 0 fun k => { k with binds := (k.binds.set 0 0x40000#64).set 1 0x1000041FFF#64 }
       bitsOf (s.binding 0 0).toNat 18 1 = 1 ∧ bitsOf (s.binding 0 0).toNat 12 6 = s.pf.modid.toNat
         ∧ bitsOf (s.binding 0 0).toNat 32 32 = 0
         ∧ (bitsOf (s.binding 0 1).toNat 18 1 = 1 ∧ bitsOf (s.binding 0 1).toNat 12 6 ≠ s.pf.modid.toNat)) := by
  unfold State.acts State.there State.ordered; decide

/-- BarrierWordsOfGangs: gangs in and out of a timed domain; a phase that has completed and one that has not. -/
theorem witness_barrier_words :
    (let s := withCtx fun c => { c with sync := true, regs := c.regs.wx 2 1 }
     s.acts 0 [0] ∧ s.c.sync = true ∧ s.c.domain = false ∧ s.ordered 4 ∧ s.c.ctl.hmode = false
       ∧ ((s.barrier s.c.partN 63).phase - 0).toNat < 2 ^ 31 ∧ 2 ^ 31 ≤ ((s.barrier s.c.partN 63).phase - 1).toNat
       ∧ s.mayAcquire s.cur (s.barrier s.c.partN 63).clock = true)
    ∧ (State.reset.c.sync = false ∧ State.reset.acts 0 [] ∧ State.reset.ordered (min 5 4) ∧ State.reset.ordered 0)
    ∧ (let s := (timed 0).modCtx 0 fun c => { c with regs := (c.regs.wx 2 (2 * 2 ^ 32)).wx 3 1 }
       s.acts 0 [0] ∧ s.c.sync = true ∧ s.c.domain = true ∧ s.c.ctl.hmode = false ∧ s.ordered 4 ∧ (∀ m ∈ s.msgs, m.id ≠ s.nextId)
         ∧ ((s.barrier s.c.partN 0).phase - 0).toNat < 2 ^ 31 ∧ 2 ^ 31 ≤ ((s.barrier s.c.partN 0).phase - 1).toNat
         ∧ s.mayAcquire s.cur (s.barrier s.c.partN 0).clock = true ∧ (s.barrier s.c.partN 0).due = none
         ∧ bitsOf (s.c.regs.rx 2).toNat 41 7 = 0 ∧ bitsOf (s.c.regs.rx 2).toNat 57 7 = 0
         ∧ bitsOf (s.c.regs.rx 2).toNat 32 9 = 2 ∧ (s.c.regs.rx 2).setWidth 32 = (s.barrier s.c.partN 0).phase
         ∧ (s.barrier s.c.partN 0).arrived.toNat + 1 < 2 ∧ (s.barrier s.c.partN 0).arrived = 0) := by
  unfold State.acts State.there State.ordered; decide

/-- OwnAtomicsAll and RemoteAtomics: the first and the last words of the accumulators, here and on another spindle. -/
theorem witness_atomics :
    (∀ p ∈ [((0x1000000 : Nat), 4), (0x11FFFFC, 4), (0x11FFFF8, 8), (0x11FFFF0, 16), (0x11FFE00, 512)],
        let s := owned (BitVec.ofNat 64 p.1)
        s.sound ∧ s.actsLs 0 [0, regBlock6 1, regBlock6 63, 2] ∧ s.actsLs 0 [0, regBlock6 1, regBlock6 63] ∧ s.actsLs 0 [0, 2]
          ∧ s.ordered 4 ∧ p.1 % p.2 = 0 ∧ s.aim s.c p.1 = .own p.1 ∧ 0x1000000 ≤ p.1 ∧ s.reachable p.1 p.2 true true
          ∧ s.reachable p.1 p.2 false true ∧ s.reachable (rowOff (s.c.row 63)) 512 true false)
    ∧ (∀ p ∈ [((0x10003000000 : Nat), 0x1000000), (0x100031FFE00, 0x11FFE00)],
        let s := far (BitVec.ofNat 64 p.1)
        s.below true ∧ s.below false ∧ p.1 % 512 = 0 ∧ s.targetsAcc p.1 = true ∧ s.aim s.c p.1 = .remote 1 p.2) := by
  unfold State.actsLs State.there State.reachable State.ordered State.below State.sound; decide

/-- RemoteAtomics: the home that the last row of another spindle reaches. -/
theorem witness_atomic_reach :
    (far 0).reach 3 0x100031FFE00 ((far 0).aim (far 0).c 0x100031FFE00) true = .home (.slice 1 0x11FFE00) := rfl

/-- A bobbin 0 of two slots of 64 bytes at 0, with a number of filled slots. -/
def bobbin (filled : Nat) (lo hi : BitVec 25) : State :=
  withCtx fun c => { c with
    ctl := { c.ctl with seglo := lo, seghi := hi }
    eng := { c.eng with bob := (c.eng.bob.set 1 (BitVec.ofNat 64 (1 + 2 * 2 ^ 16))).set 2 (BitVec.ofNat 64 filled) } }

/-- BobbinChecks and BobbinWords: no slots, too many filled ones, bounds below and above, an empty bobbin and a full one. -/
theorem witness_bobbins :
    State.reset.actsLs 0 [3, 2] ∧ State.reset.actsLs 0 [3]
    ∧ bitsOf (State.reset.c.eng.bobReg 1).toNat 16 12 = 0
    ∧ (let r := fun (s : State) (k : Nat) => (s.c.eng.bobReg k).toNat
       let s := bobbin 2 0 128
       s.sound ∧ bitsOf (r s 1) 0 12 * 64 = 64 ∧ bitsOf (r s 1) 16 12 = 2 ∧ bitsOf (r s 2) 0 32 = 2 ∧ bitsOf (r s 2) 32 32 = 0
         ∧ bitsOf (r s 0) 0 24 = 0 ∧ (s.c.ctl.seglo.toNat ≤ 0 ∧ 0 + 2 * 64 ≤ s.c.ctl.seghi.toNat)
         ∧ (0 < (bobbin 2 1 128).c.ctl.seglo.toNat) ∧ (bobbin 2 0 127).c.ctl.seghi.toNat < 0 + 2 * 64
         ∧ bitsOf (r (bobbin 3 0 128) 2) 0 32 = 3)
    ∧ (let s := bobbin 1 0 128
       s.reachable (rowOff (s.c.row 7)) 512 true false ∧ s.reachable (rowOff (s.c.row 7)) 512 false true
         ∧ s.c.groupHeld 0 64 = false ∧ s.reachable 64 64 false true ∧ s.reachable 0 64 true false) := by
  unfold State.actsLs State.there State.reachable State.sound; decide

/-- BobbinWords: a pop of a bobbin of BF16 elements in slots of 512 bytes whose format converts nothing. -/
theorem witness_bpop :
    (let s := withCtx fun c => { c with
       ctl := { c.ctl with seghi := 1024 }
       eng := { c.eng with bob := ((c.eng.bob.set 1 (BitVec.ofNat 64 (8 + 2 * 2 ^ 16))).set 2 1).set 3 0x33 } }
     bobFmtFault (s.c.eng.bobReg 3) s.c.fmtEntry false = none
       ∧ (Fmt.ofCode (bobFmtOf (s.c.eng.bobReg 3) s.c.fmtEntry).src).isSome = true
       ∧ (Fmt.ofCode (bobFmtOf (s.c.eng.bobReg 3) s.c.fmtEntry).snk).isSome = true) := by
  decide

/-- The statements about VX words: rows, lanes and code 10, the highest that is legal. -/
theorem witness_vector :
    State.reset.actsVx 0 [2, 1] ∧ State.reset.actsVx 0 [1, 2] ∧ State.reset.actsVx 0 [2]
    ∧ State.reset.rowsReachable [0, 63, 5] 63 ∧ State.reset.rowsReachable [] 0
    ∧ State.reset.reachable (rowOff (State.reset.c.row 63) + 508) 4 false true := by
  unfold State.actsVx State.there State.rowsReachable State.reachable
  exact ⟨by decide, by decide, by decide, by decide, by decide, by decide⟩

/-- The statements about VX words: no sequence, no flag that traps, and the highest target code. -/
theorem witness_vector_plain :
    State.reset.c.fusedHere = false ∧ State.reset.noFpx fNV ∧ (State.reset.recognise 1 0 0 false 0).isNone = true
    ∧ (Fmt.ofCode 10).isSome = true := by
  unfold State.noFpx; decide

/-- VectorFloats: a flag that raises FPX. VectorFrame: a false guard. -/
theorem witness_vector_fpx_and_guard :
    ¬ (withCtx fun c => { c with ctl := { c.ctl with fen := 31 } }).noFpx fNV
    ∧ State.reset.there [2] ∧ State.reset.c.guardVx 1 = false := by
  unfold State.noFpx State.there; decide

/-- A softmax of R181 at word 0, whose first bundle issues. -/
def softmax : State :=
  let vx (stamp : Nat) : BitVec 32 := BitVec.ofNat 32 (Slot.maskBit .vx * 2 ^ 19 + stamp)
  let g : Segment := {
    id := 1, part := 0, addr := 0, cbank := [], seglo := 0, seghi := 0, keyslot := 0, nonce := 0, tags := [], codeOff := 0
    code := [vx 1, encode (.vrmax 0 1 0 false 0), vx 7, encode (.vsub 2 1 0 0 false false false 0), vx 11,
             encode (.vexp 2 2 0 false false 0), vx 19, encode (.vrsum 3 2 0 false false 0)]
    heads := [true, false, true, false, true, false, true, false] }
  (State.reset.modStand 0 fun st => { st with segs := [g] }).modSp 0 fun x => { x with
    seg := 1, ctx := { x.ctx with ctl := { x.ctx.ctl with sfc := 1 } } }

/-- VectorFunctionsAndSoftmax: the sequence is recognised, and raises FPX where a flag of it is enabled. -/
theorem witness_softmax :
    softmax.actsVx 0 [2] ∧ softmax.rowsReachable [1] 0 ∧ (softmax.recognise 0 1 0 false 0).isSome = true := by
  unfold State.actsVx State.there State.rowsReachable State.reachable; decide +kernel

/-- A routine of one product, with operands in groups 0 and 1. -/
def gemm1 : Ctx → Ctx := fun c => { c with
  ctl := { c.ctl with seghi := 0x1000000 }
  regs := (c.regs.wx 1 0).wx 2 0x400000
  eng := { c.eng with m := (c.eng.m.set 0 0x10000) } }

/-- MatrixWords: a GEMM and an MZERO that enter, and each check that fails. -/
theorem witness_matrix_words :
    (let s := withCtx gemm1
     s.mxTakes (s.c.routine .gemm (some 1) (some 2) true false) (mcallBlocks (some 1) (some 2)))
    ∧ State.reset.mxTakes { rt := .mzero, tiles := [31] } [3]
    ∧ (State.reset.there [3] ∧ State.reset.mxTrap = none ∧ State.reset.c.eng.mx.run = none ∧ State.reset.c.eng.mx.queue = none)
    ∧ (withCtx fun c => { c with eng := { c.eng with mx := { c.eng.mx with fault := some (tFORM, 0) } } }).mxTrap.isSome = true
    ∧ (let r : MxRun := { rt := .gemm, m0 := 0x10000 }
       ({ r with fmt := 0xB } : MxRun).fmtBad = true
       ∧ (r.fmtBad = false ∧ ({ r with m0 := 0 } : MxRun).paramBad.isSome = true)
       ∧ (r.paramBad = none ∧ (({ r with sa := 1 } : MxRun).areas.find? fun a => a.start % 64 ≠ 0).isSome = true)
       ∧ ((∀ a ∈ ({ r with sa := 0x1000000 } : MxRun).areas, a.start % 64 = 0)
         ∧ (({ r with sa := 0x1000000 } : MxRun).areas.find? fun a =>
             decide (0x1000000 < a.start + a.len ∨ 0x1000000 ≤ a.start)).isSome = true)
       ∧ ((∀ a ∈ r.areas, a.start < 0x1000000 ∧ a.start + a.len ≤ 0x1000000)
         ∧ (r.areas.find? fun a => decide (a.start < 0 ∨ 0 < a.start + a.len)).isSome = true)
       ∧ r.misplaced = some 0) := by
  unfold State.mxTakes State.there; decide +kernel

/-- A state in which a routine runs on spindle 0. -/
def engaged (r : MxRun) : State := withCtx fun c => { c with eng := { c.eng with mx := { c.eng.mx with run := some r, started := true } } }

/-- MatrixEvents: routines of each kind at their ends, and one that meets ciphertext. -/
theorem witness_matrix_events :
    (∀ r ∈ ([{ rt := .gemm, m0 := 0x10000 }, { rt := .gemmt, m0 := 0x10000 }, { rt := .gemmz, m0 := 0x10000 },
        { rt := .gemv, m0 := 0x10000 }, { rt := .outer, m0 := 0 }, { rt := .dgemm, m0 := 0x10000, fmt := 0xAA },
        { rt := .trans, m0 := 0x100000000 }, { rt := .rowsc, m0 := 0x7F7F }, { rt := .colred, m0 := 0x100000000 },
        { rt := .loadc, m0 := 0, m1 := 64 }, { rt := .cvtout, m0 := 0, m1 := 64 }, { rt := .cvtout, m0 := 0x1F00, m1 := 64, fmt := 0x700 },
        { rt := .mzero, tiles := [31] }] : List MxRun),
        r.left = 0 ∧ r.paramBad = none ∧ ((engaged r).ctxOf 0).eng.mx.run = some r ∧ (engaged r).sound)
    ∧ ({ engaged { rt := .gemm, m0 := 0x10000 } with mem := { form := [sliceKey 0 0 / 64] } }.mxMeets 0
        { rt := .gemm, m0 := 0x10000 }).isSome = true := by
  unfold State.sound; decide +kernel

/-- MatrixEvents: CVTOUT to FP32 and to a block format. -/
theorem witness_cvtout_formats :
    Fmt.ofCode ({ rt := .cvtout, m0 := 0, m1 := 64 } : MxRun).cf = some .fp32
    ∧ ((Fmt.ofCode ({ rt := .cvtout, m0 := 0x1F00, m1 := 64, fmt := 0x700 } : MxRun).cf).map Fmt.isBlock) = some true := by
  decide

/-- MatrixEvents: the operands that a product reads. -/
theorem witness_operands :
    (match (engaged { rt := .gemm, m0 := 0x10000 }).operandsOf 0 { rt := .gemm, m0 := 0x10000 } with
      | (some _, some _) => true
      | _ => false) = true := by
  decide +kernel

/-- Channel 1 of spindle 0 set for a copy of one line from LOCAL 0 to LOCAL 64. -/
def copying (f : Channel → Channel) : State :=
  withCtx fun c => { c with
    ctl := { c.ctl with seghi := 0x1000000 }, regs := c.regs.wx 2 64
    eng := c.eng.modChannel 1 fun x => f { x with reg := (x.reg.set 0 0x100000040).set 5 0x0 } }

/-- StreamWords: a copy that enters; a channel with a fault; a stream without rows; a shadow that cannot be had. -/
theorem witness_stream_words :
    (let s := copying id
     s.streamTakes 1 (s.c.streamOf .cpy 1 (some 1) (some 2) false false 0 0) (wordOf (.cpy 1 2 false false 1))
       (streamBlocks (some 1) (some 2)) [])
    ∧ ((copying fun x => { x with state := 3 }).c.eng.channel 1).state = 3
    ∧ (let s := State.reset
       (s.streamFault 0 (s.c.streamOf .cpy 1 (some 1) (some 2) false false 0 0) 0 0).isSome = true) := by
  unfold State.streamTakes State.there State.dated; decide +kernel

/-- EngineWords: a shadow to publish, a fault of the cipher engine, strict and plain PERSIST, misaligned and aligned SEALs. -/
theorem witness_engine_words :
    (State.reset.there [3] ∧ (State.reset.c.eng.channel 7).publ = false ∧ (State.reset.c.eng.channel 7).shadows = []
      ∧ (State.reset.c.eng.channel 7).state ≠ 1 ∧ (State.reset.c.eng.channel 7).state ≠ 3 ∧ State.reset.c.eng.cipher = none
      ∧ State.reset.c.eng.cyFault = none)
    ∧ ((copying fun x => { x with shadows := [⟨.block 0 0 300, []⟩] }).c.eng.channel 1).shadows ≠ []
    ∧ (withCtx fun c => { c with eng := { c.eng with cyFault := some (tFORM, 0) } }).c.eng.cyFault = some (tFORM, 0)
    ∧ State.reset.there [regBlock6 0, regBlock6 63] ∧ State.reset.there [3, regBlock6 0, regBlock6 63]
    ∧ (withCtx fun c => { c with persist := .reached, regs := c.regs.wx 2 64 }).c.persist = .reached
    ∧ (withRegs [(2, 64)] []).c.rd6 2 ≠ 0 ∧ (withRegs [(2, 64)] []).c.ctl.strict = false
    ∧ ((4096 : Word).toNat % 4096 = 0 ∧ (4095 : Word).toNat % 4096 ≠ 0 ∧ (32 : Word).toNat % 32 = 0 ∧ (31 : Word).toNat % 32 ≠ 0)
    ∧ (∀ w, (State.reset.untrusted 0 0 4096 w).isNone = true ∧ (State.reset.untrusted 0 0x1000000000000 4096 w).isSome = true) := by
  unfold State.there; decide +kernel

/-- A stream of spindle 0 that copies one line from LOCAL 0 to LOCAL 64. -/
def line1 : Stream := { kind := .cpy, src := 0, dst := 64, rowb := 64, rows := 1 }

/-- StreamAndCipherEvents: a stream with a line to move, one that is done, one past its deadline, and a shadow to swap. -/
theorem witness_stream_events :
    (let s := copying fun x => { x with stream := some line1, state := 1 }
     s.sound ∧ ((s.ctxOf 0).eng.channel 1).stream = some line1 ∧ line1.done < line1.total
       ∧ ({ line1 with done := 1 } : Stream).total ≤ 1 ∧ s.barred 0 0 7 = false ∧ (s.mem.formIn (s.sliceAt 0 0) 64).isNone = true
       ∧ (s.mem.poisonIn (s.sliceAt 0 0) 64).isNone = true ∧ (s.sp 0).moved = false ∧ s.missingOf 0 [3] = [])
    ∧ (({ line1 with dl := 65, bound := 65 } : Stream).dl ≠ 0 ∧ 65 ≤ 65)
    ∧ (let s := (copying fun x => { x with publ := true, shadows := [⟨.block 0 255 300, []⟩] }).modSp 0 fun x => { x with
         run := .running }
       s.mayPublish 0 1 = true ∧ (255 : Nat) < 256 ∧ s.missingOf 0 [38 + 255] = [])
    ∧ (let s := withCtx fun c => { c with persist := .asked 0 64 }
       s.c.persist = .asked 0 64 ∧ s.hostHeld 0 = false)
    ∧ (let s := withCtx fun c => { c with persist := .asked 0 64, id := 1 }
       { s with msgs := [⟨7, 1, 0, 0, .host 0, .store [1], .none, false, 7, 0, 3, [], .going⟩] }.hostHeld 0 = true)
    ∧ (((copying fun x => { x with stream := some { line1 with flags := fNX }, state := 1 }).modSp 0 fun x => { x with
        run := .running }).sp 0).run = .running ∧ fNX ≠ 0 := by
  unfold State.sound; decide +kernel

/-- StreamAndCipherEvents: where the line and the chunk of the witnesses lie. -/
theorem witness_line_reach :
    ([(0, 64, false), (64, 64, true), (0, 4096, true), (4096, 32, true), (4096, 32, false)] : List (Nat × Nat × Bool)).all (fun x =>
      match (copying id).lineReach 0 (BitVec.ofNat 64 x.1) x.2.1 x.2.2 with
      | .at_ p => p == ⟨.slice 0 x.1, true, true⟩
      | _ => false) = true := by
  decide +kernel

/-- StreamAndCipherEvents: a cipher command that goes, over plain lines. -/
theorem witness_cipher :
    (let cy : Cipher := { isOpen := false, region := 0, tag := 4096, key := some [], ks := 0, n := 0, seq := 0 }
     cy.line = 0 ∧
     let s := ((copying id).modSp 0 fun x => { x with run := .running }).modCtx 0 fun c => { c with
       eng := { c.eng with cipher := some cy } }
     (s.ctxOf 0).eng.cipher = some cy ∧ s.cipherGoes 0 = true ∧ s.missingOf 0 [3] = [] ∧ s.barred 0 0 7 = false
       ∧ s.mem.poisonIn (s.keyOf (.slice 0 0)) 4096 = none
       ∧ (∀ l ∈ linesOf (s.keyOf (.slice 0 0)) 4096, (true && s.mem.form.contains l) = false)
       ∧ (s.keySlot (s.ctxOf 0).partN 0).iv.toNat < 0x100000000) := by
  decide +kernel

/-- StreamAndCipherEvents: the counter of a key that its slot still holds, of one that it holds no longer, and one at its end. -/
theorem witness_cipher_keys :
    (let s := State.reset.modTrust 0 fun t => { t with keys := [(0, { key := some [], iv := 5, gen := 3 })] }
     (s.keySlot 0 0).key.isSome = true ∧ (s.keySlot 0 0).gen = 3 ∧ (s.keySlot 0 0).gen ≠ 2 ∧ (s.keySlot 0 0).iv.toNat < 0x100000000)
    ∧ 0x100000000 ≤ ((State.reset.modTrust 0 fun t => { t with
        keys := [(0, { key := some [], iv := 0x100000000, gen := 3 })] }).keySlot 0 0).iv.toNat := by
  decide

/-- Partition 0 with a table that maps its first 2 MiB page to 2 MiB. -/
def mapped : State :=
  let put := fun (m : List Host.Cell) (a v : Nat) => m ++ (rangeFrom a 8).map fun x => (x, BitVec.ofNat 8 (v / 2 ^ (8 * (x - a))))
  let cells := (put (put (put [] 0x2000 0x4001) 0x4000 0x6001) 0x6000 0x200007).filter fun c => c.2 ≠ 0
  { State.reset.modCfg 0 (fun c => { c with en := true, root := 1 }) with mem := { cells := cells } }

/-- StreamAndCipherEvents: a publish of that page, whose shadow lies apart from it. -/
theorem witness_page_publish :
    (let sh : Shadow := ⟨.page 0 0x600000 0xA000, []⟩
     let s := (mapped.modSp 0 fun x => { x with run := .running }).modCtx 0 fun c => { c with
       eng := { c.eng with chan := c.eng.chan.set 1 { shadows := [sh], publ := true } } }
     s.sound ∧ s.mayPublish 0 1 = true ∧ ((s.ctxOf 0).eng.channel 1).shadows = [sh] ∧ s.missingOf 0 [3] = []
       ∧ (match s.pageLeaf 0 0 with
          | some l => decide (leafAddr l.entry + 2 ^ 21 ≤ 0x600000) && decide (l.key + 8 ≤ 0xA000)
          | none => false) = true) := by
  unfold State.sound; decide +kernel

/-- StreamAndCipherEvents: a line of a GLOBAL page that is not trusted can be written in ciphertext alone. -/
theorem witness_untrusted_page :
    (match (paged 0).lineReach 0 0x1000000000000 64 true with
     | .at_ p => !p.trusted && !p.loc.outside
     | _ => false) = true := by
  decide +kernel

/-- Message 7 of context 1, which spindle 0 runs. -/
def asks (op : MsgOp) (st : MsgState) (waits : Bool) : State :=
  { State.reset.modSp 0 (fun x => { x with run := .running, ctx := { x.ctx with id := 1 } }) with
    msgs := [⟨7, 1, 0, 0, .slice 1 0x1000000, op, .none, waits, 7, 0, 3, [], st⟩] }

/-- HomeEvents: a load, a store and an atomic at a home; an answer and a failure that come back. -/
theorem witness_home_events :
    (let a : Atomic := { op := .int 1 }
     (asks (.atomic a) .going true).sound
     ∧ (∀ op ∈ [MsgOp.load 1 8, .store [1, 2], .atomic a], ∀ m, (asks op .going true).msg 7 = some m → m.op = op)
     ∧ (asks (.load 1 8) .going true).blockedByOrder ⟨7, 1, 0, 0, .slice 1 0x1000000, .load 1 8, .none, true, 7, 0, 3, [], .going⟩ = false
     ∧ (asks (.load 1 8) .going true).homeFault (.slice 1 0x1000000) 8 = none
     ∧ ({ asks (.load 1 8) .going true with mem := { poison := [State.reset.sliceAt 1 0x1000000 / 64] } }.homeFault (.slice 1 0x1000000) 8).isSome = true
     ∧ ((asks (.load 1 8) .going true).ctxOf 1).eng.mx.run = none ∧ a.op ≠ .vacc 0 ∧ ({ op := .vacc 0 } : Atomic).op = .vacc 0)
    ∧ (asks (.load 1 8) (.replied 5 0 [] 0 []) true).whereIs 1 = some 0
    ∧ (let s := asks (.load 1 8) (.replied 5 0 [] 0 []) true
       ∃ m, s.msg 7 = some m ∧ s.mayLandIn (dieOf m.spin) (s.gangOfMsg m) [] = true ∧ (s.sp m.spin).run = .running
         ∧ (s.ctxOf m.spin).id = m.ctx ∧ fNV ≠ 0) := by
  unfold State.sound; simp only [List.mem_cons, List.not_mem_nil, or_false, forall_eq_or_imp, forall_eq]
  refine ⟨⟨by decide, ⟨?_, ?_, ?_⟩, by decide +kernel, by decide +kernel, by decide +kernel, by decide +kernel, by decide, by decide⟩,
    by decide, ⟨_, rfl, by decide +kernel, by decide, by decide, by decide⟩⟩ <;> (intro m h; cases h; rfl)

/-- HomeEvents: the home answers in this cycle. -/
theorem witness_at_home :
    (asks (.load 1 8) .going true).atHome ⟨7, 1, 0, 0, .slice 1 0x1000000, .load 1 8, .none, true, 7, 0, 3, [], .going⟩ 8 false
      = .go (.slice 1 0x1000000) := rfl

/-- HomeEvents: a failure of an access, and that of a barrier arrival whose reply is awaited and of one that is not. -/
theorem witness_failures :
    (let s := asks (.load 1 8) (.failed tMEMERR) true
     s.whereIs 1 = some 0 ∧ (s.msg 7).map (fun m => (m.st, m.waits)) = some (.failed tMEMERR, true) ∧ tMEMERR ≠ tBOVER)
    ∧ (∀ w, let s := asks (.barrier 63 0 1 0 0) (.failed tBOVER) w
        s.whereIs 1 = some 0 ∧ (s.msg 7).map (fun m => (m.st, m.waits)) = some (.failed tBOVER, w)) := by
  decide

/-- A gate whose entry 0 admits partition 0 of module 0. -/
def gateOf (e : Word) : Gate := { valid := true, gcnt := 3, acl := (Vector.replicate 8 0).set 0 e, tokens := (Vector.replicate 8 0).set 0 1 }

/-- V, S, W, a burst of 255 and no refill; the same with a refill each 65535 counts; without W; with burst 0. -/
def eOpen : Word := 0xFF0380#64
def eRefill : Word := 0xFFFFFF0380#64
def eSigOnly : Word := 0xFF0180#64
def eShut : Word := 0x0380#64

/-- Gate 4095 with an entry, bound as binding 255 of partition 0, and message 7 for it. -/
def gated (e : Word) (op : Nat) (v : Word) (st : MsgState) : State :=
  ((asks (.gate op v 255 100 false) st true).modGate 4095 fun _ => gateOf e).modCfg 0 fun k => { k with
    binds := k.binds.set 255 0x6400040FFF#64 }

/-- Whether an access list admits, by name. -/
def admitName : Admit → Nat
  | .denied => 0
  | .rate => 1
  | .ok _ => 2

/-- GateEvents: each verdict of the list, a registered wait at its limit, and a refill that is due. -/
theorem witness_gate_events :
    (let s := gated eOpen 1 4 .going
     bitsOf (s.binding 0 255).toNat 12 6 = s.pf.modid.toNat ∧ bitsOf (s.binding 0 255).toNat 0 12 = 4095
       ∧ admitName ((s.gate 4095).check 0 0 false false false) = 2 ∧ admitName ((s.gate 4095).check 1 0 false false false) = 0
       ∧ (s.gate 4095).gcnt.toNat < 4 ∧ 3 ≤ (s.gate 4095).gcnt.toNat
       ∧ s.parks 1 = false ∧ (s.modSp 0 fun x => { x with run := .captured 0 1 5 none }).parks 1 = true)
    ∧ admitName ((gateOf eSigOnly).check 0 0 false false false) = 0 ∧ admitName ((gateOf eShut).check 0 0 false true false) = 1
    ∧ admitName ((gateOf eRefill).check 0 0 false true false) = 2
    ∧ admitName (((gateOf eRefill).setTokens 0 0).check 0 0 false true false) = 1
    ∧ ({ gateOf eOpen with valid := false } : Gate).valid = false ∧ (gateOf eOpen).match_ 0 63 false = none
    ∧ (gateOf eOpen).match_ 0 0 false = some 0
    ∧ ({ gated eOpen 1 4 (.waiting 0) with gcyc := 100 }.gcyc - 0 = 100)
    ∧ ((State.reset.modGate 4095 fun _ => gateOf eRefill).refillDue 4095 0 = true)
    ∧ (State.reset.modGate 4095 fun _ => gateOf eOpen).gateLockers 4095 = []
    ∧ ((State.reset.modGate 4095 fun _ => gateOf eOpen).modTrust 0 fun t => { t with state := .locked }).gateLockers 4095 ≠ [] := by
  decide +kernel

/-- GateEvents and BarrierEvents: no older message stands before number 7, and the message is there. -/
theorem witness_message_order :
    (∀ op ∈ [MsgOp.gate 1 4 255 100 false, .query 63 0, .query 63 9, .barrier 63 0 1 0 0],
      ((asks op .going true).msgs.map Msg.id = [7]) ∧ ∀ m ∈ (asks op .going true).msgs, (asks op .going true).blockedByOrder m = false) := by
  decide +kernel

/-- BarrierEvents: the fields of a word at the edges, a barrier with an arrival, and a gang whose step is ready. -/
theorem witness_barrier_events :
    (bitsOf (0x14000000000 : Nat) 32 9 = 320 ∧ bitsOf (0x14000000000 : Nat) 41 7 = 0 ∧ bitsOf (0x14100000000 : Nat) 32 9 = 321)
    ∧ (State.reset.barrier 0 63).arrived = 0 ∧ (State.reset.barrier 0 63).held = [] ∧ (State.reset.barrier 0 63).due = none
    ∧ ((State.reset.modBarrier 0 63 fun b => { b with due := some (9, 30) }).barrier 0 63).due ≠ none
    ∧ (let b := (State.reset.modBarrier 0 63 fun b => { b with arrived := 1, e := 2, doms := [(9, 5)] }).barrier 0 63
       b.arrived.toNat + 1 = 2 ∧ b.e.toNat = 2 ∧ (9 : Nat) ≠ 0 ∧ ∀ d ∈ b.doms, d.1 = 9)
    ∧ State.reset.mayAcquire 0 (State.reset.barrier 0 63).clock = true
    ∧ 2 ^ 31 ≤ ((State.reset.barrier 0 63).phase - 1).toNat
    ∧ ((State.reset.modBarrier 0 63 fun b => { b with arrived := 1, e := 2 }).barrier 0 63).arrived ≠ 0
    ∧ (withCtx fun c => { c with barw := .frozen 63 0 }).c.barw = .frozen 63 0
    ∧ ((State.reset.barrier 0 63).phase - 0).toNat < 2 ^ 31
    ∧ (let w : Work := { handle := 1, node := 0, t := 0, gang := true, level := 0, tokens := 0, readyAt := 0 }
       let x : Placed := { work := w, gid := 9, spins := [0], at_ := 0 }
       let s := (State.reset.modSched 0 fun d => { d with placed := [x] }).modSp 0 fun y => { y with
         run := .running, ctx := { y.ctx with gang := 9, sync := true, step := .waiting 0 5 } }
       ((s.part 0).sched.placed.find? fun x => x.work.handle == 1 && x.work.node == 0) = some x ∧ s.stepReady 0 9 = true
         ∧ 0 ∈ s.gangOn 9 ∧ (s.gangOn 9).count 0 = 1 ∧ (s.ctxOf 0).step = .waiting 0 5) := by
  decide +kernel

/-- HeadersAndHolds: in a handler and not, a stamp that is late and one at its cycle, an honoured mark, and the last bundle
of a hold. -/
theorem witness_headers :
    (withCtx fun c => { c with ctl := { c.ctl with hmode := true } }).c.ctl.hmode = true
    ∧ (State.reset.c.ctl.hmode = false ∧ State.reset.honoured State.reset.cur = true)
    ∧ (let s := withCtx fun c => { c with ctl := { c.ctl with sfc := 5 } }
       ((4 : BitVec 16) ≠ 0 ∧ (4 : BitVec 16).toNat < s.c.ctl.sfc.toNat) ∧ ¬ (5 : BitVec 16).toNat < s.c.ctl.sfc.toNat)
    ∧ ((withCtx fun c => { c with lock := some ⟨1, 0, 255, 1, 0⟩ }).ctxOf 0).lock = some ⟨1, 0, 255, 1, 0⟩
    ∧ (0xFFFFFF : Nat) < 0x1000000 := by
  decide

/-- PlainWordsComplete: in a handler and not, a stamp at its cycle, the highest operands of the groups, and no loop active. -/
theorem witness_plain_words :
    ((withCtx fun c => { c with ctl := { c.ctl with hmode := true } }).c.ctl.hmode = true
      ∧ (withCtx fun c => { c with ctl := { c.ctl with sfc := 5 } }).c.ctl.sfc.toNat ≤ (5 : BitVec 16).toNat
      ∧ { State.reset with msgs := [⟨7, 0, 0, 0, .phys 0, .load 1 8, .none, true, 7, 0, 3, [], .going⟩] }.honoured 0 = false)
    ∧ State.reset.acts 0 (regBlock .y :: bkBlocks 2) ∧ State.reset.acts 0 [regBlock .y] ∧ State.reset.there [regBlock .y]
    ∧ State.reset.there [regBlock .x, 5] ∧ State.reset.acts 0 (regBlock .x :: 2 :: bkBlocks 1) ∧ State.reset.acts 0 [regBlock .y, 2]
    ∧ (5 : BitVec 5).toNat ≤ 5 ∧ (5 : BitVec 3).toNat ≤ 5 ∧ (4 : BitVec 5).toNat ≤ 4
    ∧ State.reset.acts 0 [2] ∧ State.reset.acts 0 [0, 1] ∧ State.reset.acts 0 [] ∧ State.reset.acts 0 [0]
    ∧ (State.reset.c.ctl.det = false ∧ State.reset.there [regBlock .x, 2] ∧ (7 : BitVec 16).toNat ≤ 7)
    ∧ (∀ j : Fin 4, State.reset.c.regs.lc[j].active = false) ∧ State.reset.there [0, 2] ∧ State.reset.there [2]
    ∧ (withRegs [(3, 0x7FFFF7)] []).there [0, 2] ∧ ((withRegs [(3, 0x7FFFF7)] []).c.regs.rx 3).toNat < 0x7FFFF8 := by
  unfold State.acts State.there; decide

/-- StepRunsTheDecodedInstruction: an event at hand, an input, a turn, and a bundle of one word that issues. -/
theorem witness_step :
    (({ State.reset with agenda := [.leaseExpiry] } : State).agenda = .leaseExpiry :: [])
    ∧ (({ State.reset with inputs := [(0, .fatalStop)] } : State).inputs = (0, .fatalStop) :: [] ∧ 0 ≤ State.reset.gcyc)
    ∧ (isMessage (.lockInterfaceRequest 0 0) = true ∧ isRegWrite (.pspinWrite 0 0 0 1) = true
        ∧ isMessage .fatalStop = false ∧ hostOp .fatalStop = none ∧ State.reset.inputWaits .fatalStop = false)
    ∧ (let s := { State.reset with inputs := [(0, .hgsig 0 0 0 1)] }
       hostOp (.hgsig 0 0 0 1) = some (0, 0) ∧ isMessage (.hgsig 0 0 0 1) = false ∧ s.hostInOrder 0 0 = true ∧ s.offers = []
         ∧ s.agenda = [])
    ∧ (State.reset.agenda = [] ∧ State.reset.inputs = [] ∧ State.reset.offersNow = []) := by
  decide +kernel

/-- Spindle 0 about to issue an ADD, without and with a fixed-time store of this cycle in flight. -/
def adding (ds : List DomOp) : State := (State.reset.withFetchWord 32 0x04C52800).modCtx 0 fun c => { c with domOps := ds }
def dueStore : DomOp := { id := 1, home := 1, off := 0, op := .store [1], dest := .none, val := 0, applyIn := 0, clock := [] }

/-- StepRunsTheDecodedInstruction: nothing stands in the way of the turn. -/
theorem witness_turn :
    ∀ ds ∈ [[], [dueStore]], let s := adding ds
      s.agenda = [] ∧ (∀ x ∈ s.inputs, s.gcyc < x.1) ∧ s.offersNow = [] ∧ s.phase = .turns ∧ s.turn = 0 ∧ (0 : Nat) < 320
        ∧ s.watchdogDue 0 = false ∧ s.cutNow 0 = none ∧ s.groupOf 0 = [0] ∧ s.stopped = false ∧ (s.clockTick 0 [0]).1 = true
        ∧ (s.sp 0).run = .running
        ∧ (let u := (s.clockTick 0 [0]).2.landEstimate 0
           u.handles 0 = false ∧ (u.sp 0).run = .running ∧ (u.cutDue 0 && u.txBusy 0) = false
             ∧ (let v := (u.boundsExpire 0).stepExpire [0]
                v.captureDue 0 = false ∧ v.lateKinds 0 = [] ∧ (v.domMisses [0]).1 = false
                  ∧ ((v.domMisses [0]).2.cycleMisses [0]).1 = false)) := by
  decide +kernel

/-- StepRunsTheDecodedInstruction: the bundle that issues there holds one word, an ADD, before and after the writes of the cycle. -/
theorem witness_step_bundle :
    (∀ ds ∈ [[], [dueStore]],
      let s := adding ds
      let v := (((s.clockTick 0 [0]).2.landEstimate 0).boundsExpire 0).stepExpire [0]
      let o := v.openCycle [0]
      (match (o.actOf 0).1 with
        | .go f =>
          match (((v.domWrites (newHolds (o.actOf 0).2 [(0, .go f)]) [0]).openCycle [0]).actOf 0).1 with
          | .go f' => f'.lock.isNone && f'.words == [(.sx, .add .x 6 5 5 0 0)]
          | _ => false
        | _ => false) = true)
    ∧ (∀ d ∈ ((((((adding []).clockTick 0 [0]).2.landEstimate 0).boundsExpire 0).stepExpire [0]).ctxOf 0).domOps, d.applyIn ≠ 0)
    ∧ ((((((adding [dueStore]).clockTick 0 [0]).2.landEstimate 0).boundsExpire 0).stepExpire [0]).ctxOf 0).domOps.any
        (fun d => d.applyIn == 0) = true := by
  decide +kernel

/-- StepRunsTheDecodedInstruction: the words and head bits that it asks for. -/
theorem witness_fetch :
    (let s := State.reset.withFetchWord 32 0x04C52800
     s.codeWord 0 0 = BitVec.ofNat 32 (Slot.maskBit .sx * 2 ^ 19) ∧ s.codeWord 0 1 = 0x04C52800#32 ∧ s.headBit 0 0 = true
       ∧ s.headBit 0 1 = false ∧ (s.ctxOf 0).pc = 0 ∧ 0 + 2 ≤ s.codeWords 0 ∧ s.missingOf 0 (s.codeBlocks 0 0) = []
       ∧ s.unverified 0 0 = [] ∧ (s.ctxOf 0).ctl.hmode = false
       ∧ s.permitted 0 (hdrOf (BitVec.ofNat 32 (Slot.maskBit .sx * 2 ^ 19))) [] (.add .x 6 5 5 0 0) = none)
    ∧ (decodeAt (.slot .sx) 0x04C52800#32).toOption = some (.add .x 6 5 5 0 0) := by
  decide +kernel

/-- EncodeDecode and WordsKeepMemoryCanonical: a word with every field at its highest. -/
theorem witness_encode :
    (Instr.add .x 31 31 31 2 15).place = some (.slot .sx) ∧ (Instr.add .x 31 31 31 2 15).wf = true
    ∧ State.reset.sound ∧ (nextOf (step State.reset)).isSome = true := by
  unfold State.sound; decide +kernel

/-- A placed task of partition 0, node 0 of graph 1, on spindle 0. -/
def workOf (t : Nat) : Work := { handle := 1, node := 0, t := t, gang := false, level := 0, tokens := 0, readyAt := 0 }
def unit0 : Placed := { work := workOf 0, gid := 9, spins := [0], at_ := 0, left := [0] }
def node0 : Node := {
  seg := 0x10000000000, entry := 0, gang := false, sync := false, fixed := false, strict := false, det := false, level := 0, i0 := 0
  icount := 1, j0 := 0, jcount := 1, tokens := 0, deps := [], policy := 0, estimate := 1, param := 0, contract := 0 }
def graph1 : Graph := { addr := 0, nodes := [node0], runs := [{ opened := true }] }

/-- Spindle 0 runs that task, with free image slots. -/
def tasked (r : RunState) : State :=
  ((State.reset.modPart 0 fun x => { x with
      cfg := { x.cfg with imgcnt := 2, pspin := 3 }, sched := { x.sched with psns := [0, 1], placed := [unit0], graphs := [(1, graph1)] } })).modSp 0
    fun x => { x with run := r, ctx := { x.ctx with id := 1, gang := 9, ident := { x.ctx.ident with handle := 1 } } }

/-- CaptureEvents: cuts of a suspension and of a trap that are due, and the ends of each kind of capture. -/
theorem witness_captures :
    (∀ k ∈ [0, 1, 2, 3],
      (let s := { tasked .running with cuts := [{ c := 0, kind := k, spins := [0] }] }
       (s.cuts.find? fun k => k.spins.contains 0 && decide (k.c ≤ s.gcyc)).isSome = true ∧ (s.sp 0).run = .running
         ∧ (∀ k ∈ s.cuts, s.cutFits k 0 = true) ∧ s.cutFits { c := 0, kind := k, spins := [0], gid := 9 } 0 = true
         ∧ (s.ctxOf 0).eng.cipher = none ∧ (∀ p ∈ (s.ctxOf 0).pipe ++ (s.ctxOf 0).hpipe, p.left ≠ 0 ∨ p.await ≠ none)
         ∧ s.missingOf 0 (s.ctxOf 0).landBlocks = []
         ∧ s.groupOf 0 = [0] ∧ s.txBusy 0 = false ∧ (s.ctxOf 0).ctl.hmode = false)
      ∧ ((tasked (.captured k 1 5 none)).sp 0).run = .captured k 1 5 none ∧ (tasked (.captured k 1 5 none)).quiet 0 = true)
    ∧ ((tasked .running).modSched 0 fun d => { d with txq := [{ ctx := 1, kind := .launch 0 }] }).txBusy 0 = true
    ∧ (let s := tasked (.captured 1 1 5 none)
       s.sound ∧ (∀ x ∈ (s.sp 0).absent, x.1 < 310) ∧ (s.ctxOf 0).eng.ownPool 0 = []
         ∧ s.underWay (fun m => m.ctx == (s.ctxOf 0).id) = false
         ∧ { s with msgs := (asks (.load 1 8) .going true).msgs }.underWay (fun m => m.ctx == (s.ctxOf 0).id) = true
         ∧ s.freeSlot 0 = some 0 ∧ s.unitOf (s.ctxOf 0) = some unit0 ∧ s.nodeFailed (s.ctxOf 0) = false ∧ unit0.work.job = none) := by
  unfold State.sound; decide +kernel

/-- CaptureEvents: the preemption count at its bound with CKPT, and past it. -/
theorem witness_ppbound :
    (let s := (tasked .running).modCtx 0 fun c => { c with ckpt := true, ppcount := 0x2000 }
     (s.sp 0).run = .running ∧ (s.ctxOf 0).inTend = false ∧ (s.ctxOf 0).ckpt = true ∧ s.txBusy 0 = false
       ∧ (s.ctxOf 0).ctl.ppbound.toNat ≤ (s.ctxOf 0).ppcount.toNat)
    ∧ (let s := (tasked .running).modCtx 0 fun c => { c with ppcount := 0x2001 }
       (s.ctxOf 0).ckpt = false ∧ (s.ctxOf 0).notices = [] ∧ (s.ctxOf 0).ctl.ppbound.toNat < (s.ctxOf 0).ppcount.toNat
         ∧ (s.sp 0).run = .running ∧ (s.ctxOf 0).ctl.hmode = false ∧ (s.ctxOf 0).inTend = false ∧ { s with cur := 0 }.mxStalls 0 = false
         ∧ { s with cur := 0 }.postWait 0 = none)
    ∧ ({ (tasked .running) with cur := 0 }.postWait 0).isNone = true := by
  decide +kernel

/-- An image of that task. -/
def image0 (st : Nat) (bs : Tbl BlockSrc) : Image :=
  { state := st, kind := 1, c := 0, was := none, ctx := { id := 1 }, rev := 0, spin := 0, seg := 0, dir := bs, blocks := [] }

/-- ImageEvents: the last block of a slice absent as zeros and as saved bytes, a register block, one owed, and an image whose
blocks are all written. -/
theorem witness_images :
    (∀ p ∈ [(293, BlockSrc.zero), (6, BlockSrc.image), (0, BlockSrc.image), (5, BlockSrc.segment)],
      let s := State.reset.modSp 0 fun x => { x with absent := [(p.1, p.2)], saved := [(p.1, { bytes := [(65535, 1)] })] }
      s.sound ∧ ((s.sp 0).absent.find? fun x => x.1 == p.1) = some (p.1, p.2)
        ∧ ((s.sp 0).owed.any fun x => x.1 == p.1 && x.2 != (s.ctxOf 0).id) = false ∧ p.1 < 294
        ∧ cellsWf (tget {} p.1 (s.sp 0).saved).bytes = true ∧ s.pullError 0 p.1 = none
        ∧ ∀ x ∈ (tget {} p.1 (s.sp 0).saved).bytes, x.1 < 65536)
    ∧ (let s := (State.reset.modSp 0 fun x => { x with owed := [(6, 1)] }).modSched 0 fun d => { d with images := [(3, image0 0 [(6, .owed 0)])] }
       ((s.sp 0).owed.find? fun x => x.1 == 6) = some (6, 1) ∧ (tfind 3 (s.part 0).sched.images).map (fun i => (i.ctx.id, i.state, i.dir)) = some (1, 0, [(6, .owed 0)])
         ∧ s.drainNext 0 = some 6 ∧ s.sound ∧ s.poolFree)
    ∧ (let w := { workOf 0 with images := [3] }
       let s := State.reset.modSched 0 fun d => { d with images := [(3, image0 0 [])], resting := [w] }
       s.drainNext 0 = none ∧ s.wholeOn 0 = [(0, 3)]
         ∧ ((s.part 0).sched.resting.find? fun w => w.images.contains 3) = some w ∧ s.sound) := by
  unfold State.sound State.poolFree; decide +kernel

/-- A segment of one word that names its first word as a bundle. -/
def seg1 : Segment := {
  id := 1, part := 0, addr := 0x10000000000, cbank := [7], seglo := 0, seghi := 64, keyslot := 0, nonce := 0, tags := [[]]
  codeOff := 0, code := [0], heads := [true] }

/-- ImageEvents: a pull from an image slot whose bytes are poisoned. -/
theorem witness_pull_error :
    (let s := { tasked .running with mem := { poison := [(State.reset.slotAddr 0 3 + (blockSpan 6).1) / 64] } }
     ((s.modSp 0 fun x => { x with image := some 3, absent := [(6, .image)] }).pullError 0 6).isSome) = true := by
  decide +kernel

/-- ImageEvents: the constant bank comes back from the segment. -/
theorem witness_constant_bank :
    (let s := (State.reset.modStand 0 fun st => { st with segs := [seg1] }).modSp 0 fun x => { x with seg := 1, absent := [(5, .segment)] }
     ((s.sp 0).absent.find? fun x => x.1 == 5) = some (5, .segment) ∧ s.segOf 0 = some seg1 ∧ s.pullError 0 5 = none) := by
  decide

/-- ImageEvents: a task that enters at its segment's first word, and one whose entry lies past the code. -/
theorem witness_segment_load :
    (let s := ((tasked .loading).modStand 0 fun st => { st with segs := [seg1] })
     (s.sp 0).run = .loading ∧ s.nodeAt 0 1 0 = some node0 ∧ s.loadSet 0 = [0] ∧ (s.part 0).sched.queue = []
       ∧ s.graph 0 1 = some graph1 ∧ s.mayAcquire 0 (graph1.startClock 0) = true
       ∧ ((s.segmentFor 0 0 node0.seg).2.sp 0).run = .loading
       ∧ (s.segmentFor 0 0 node0.seg).1 = some (some 1)
       ∧ (((s.segmentFor 0 0 node0.seg).2.stand 0).segs.find? fun g => g.id == 1) = some seg1
       ∧ node0.entry < seg1.code.length ∧ seg1.heads.getD node0.entry false = true
       ∧ ((s.segmentFor 0 0 node0.seg).2.sp 0).image = none
       ∧ ({ seg1 with heads := [false] } : Segment).heads.getD node0.entry false = false) := by
  decide +kernel

/-- SupplyEvents: a walk that fails, a held translation, an invalidation, and a code block to be verified. -/
theorem witness_supply :
    (let w : Walk := { die := 7, part := 63, off := 65536 }
     let s := { State.reset with walks := [w] }
     (s.walks.find? fun w => w.die == 7 && w.part == 63 && w.off == 131071 / 65536 * 65536 && !w.failed) = some w
       ∧ (s.walk 63 65536).isNone = true
       ∧ (State.reset.walks.find? fun w => w.die == 7 && w.part == 63 && w.off == 131071 / 65536 * 65536 && !w.failed) = none)
    ∧ ((State.reset.modPHost 63 fun h => { h with xinv := true }).part 63).host.xinv = true
    ∧ (∀ m ∈ State.reset.msgs, State.reset.translatedBy 63 m = true → m.isGoing = false)
    ∧ (let s := { asks (.load 1 8) .going true with msgs := [⟨7, 1, 0, 63, .phys 0, .load 1 8, .none, true, 7, 0, 3, [], .going⟩] }
       ∀ m ∈ s.msgs, s.translatedBy 63 m = true ∧ m.isGoing = true ∧ m.op = .load 1 8 ∧ m.loc = .phys 0)
    ∧ (let s := (State.reset.modStand 0 fun st => { st with segs := [seg1] }).modSp 0 fun x => { x with run := .running, seg := 1 }
       s.segOf 0 = some seg1 ∧ 0 ∈ s.unverified 0 (s.ctxOf 0).pc.toNat ∧ 0 ∈ s.fetching 0 ∧ 1 ∉ s.fetching 0
         ∧ s.tagRight seg1 0 = false ∧ (s.ctxOf 0).ctl.hmode = false ∧ (s.ctxOf 0).notices = [])
    ∧ (pickNotice [({ code := tMEMERR, slot := 3, val := 0 } : Notice)]).isSome = true := by
  decide +kernel

/-- SupplyEvents: a leaf that a walk of page 0 finds. -/
def withTable (leaf : Nat) : State :=
  let put := fun (m : List Host.Cell) (a v : Nat) => m ++ (rangeFrom a 8).map fun x => (x, BitVec.ofNat 8 (v / 2 ^ (8 * (x - a))))
  let cells := (put (put (put (put [] 0x2000 0x4001) 0x4000 0x6001) 0x6000 0x8001) 0x8000 leaf).filter fun c => c.2 ≠ 0
  { State.reset.modCfg 0 (fun c => { c with en := true, root := 1 }) with mem := { cells := cells } }

/-- SupplyEvents and HostAccesses: the leaf is there, readable and writable, and its bytes are plain memory. -/
theorem witness_walk :
    (let s := withTable 0x20007
     s.sound ∧ s.held = [] ∧ (s.part 0).cfg.en = true
       ∧ (match s.walk 0 0 with
          | some l => !leafSHP l.entry && leafW l.entry && leafLoc l.entry l.base 65528 == .phys 0x2FFF8
          | none => false) = true
       ∧ s.bar2 0 65528 8 = true ∧ 65528 % 65536 + 8 ≤ 65536 ∧ s.mem.poisonIn 0x2FFF8 8 = none) := by
  unfold State.sound; decide +kernel

/-- HostAccesses: a leaf that allows no write, and a poisoned line. -/
theorem witness_host_refusals :
    (match (withTable 0x20003).walk 0 0 with
     | some l => !leafW l.entry && !leafSHP l.entry && leafLoc l.entry l.base 65528 == .phys 0x2FFF8
     | none => false) = true
    ∧ (({ poison := [0x2FFF8 / 64] } : Memory).poisonIn 0x2FFF8 8).isSome = true := by
  decide +kernel

/-- A contract of partition 0 whose first release is due at count 5. -/
def contract5 : Contract := { addr := 64, first := 5, period := 1024, budget := 8, deadline := 0, spindles := 1, jobs := 0, bound := [0] }

/-- SchedulerEvents: a tick, a release that is due or not, a budget used up, a drain at its limit, a task at its end. -/
theorem witness_scheduler :
    (State.reset.gcyc % State.reset.pf.tick.toNat = 0 ∧ 4095 % State.reset.pf.tick.toNat ≠ 0 ∧ (State.reset.part 0).sched.susp = [] ∧ (State.reset.part 0).sched.queue = [])
    ∧ ((State.reset.part 0).sched.ticks + (if State.reset.gcyc % State.reset.pf.tick.toNat = 0 then 1 else 0) ≠ 0
        ∧ ({ State.reset with gcyc := 5 }.part 0).sched.ticks + (if 5 % State.reset.pf.tick.toNat = 0 then 1 else 0) = 0
        ∧ State.reset.update.switching = false ∧ ({ State.reset.update with switching := true } : Update).switching = true)
    ∧ (let s := State.reset.modSched 0 fun d => { d with contracts := [contract5] }
       s.contract 0 64 = some contract5 ∧ ¬ contract5.releaseOf 0 ≤ 4 ∧ contract5.releaseOf 0 ≤ 5 ∧ contract5.jobs = 0
         ∧ s.contractNode 0 64 = none ∧ ({ contract5 with jobs := 2, jobsDone := 0 } : Contract).jobsDone + 1 < 2)
    ∧ (let s := (tasked .running).modSched 0 fun d => { d with
         contracts := [contract5], graphs := [(1, { graph1 with nodes := [{ node0 with contract := 64 }] })] }
       s.contractNode 0 64 = some (1, 0) ∧ s.nodeAt 0 1 0 = some { node0 with contract := 64 } ∧ (s.part 0).sched.paused = false)
    ∧ (let u := { unit0 with work := { unit0.work with job := some 64 } }
       let s := ((tasked .running).modSched 0 fun d => { d with
         contracts := [{ contract5 with running := some (0, false) }], placed := [u] }).modSp 0 fun x => { x with charged := 8 }
       s.exhausted 0 { contract5 with running := some (0, false) } = true)
    ∧ (let u := { unit0 with victim := .drain 5 }
       let s := (tasked .running).modSched 0 fun d => { d with placed := [u] }
       s.unitOf (s.ctxOf 0) = some u ∧ u.victim = .drain 5)
    ∧ (let s := (tasked .running).modCtx 0 fun c => { c with inTend := true }
       (s.ctxOf 0).inTend = true ∧ s.tendDone 0 = true ∧ (s.sp 0).run = .running ∧ s.graph 0 1 = some graph1
         ∧ (s.ctxOf 0).ident.handle ≠ 0) := by
  decide +kernel

/-- SchedulerEvents: a unit that is away because it is suspended, is being suspended, or is queued, and one that is not. -/
theorem witness_unit_away :
    (tasked .running).unitAway 0 unit0 = false ∧ (tasked (.captured 0 1 5 none)).unitAway 0 unit0 = true
    ∧ (tasked (.captured 1 1 5 none)).unitAway 0 unit0 = true ∧ (tasked (.captured 2 1 5 none)).unitAway 0 unit0 = false
    ∧ ((tasked .running).modSched 0 fun d => { d with queue := [(0, 9)] }).unitAway 0 unit0 = true
    ∧ ((tasked .empty).modSched 0 fun d => { d with susp := [{ spin := 0, why := 4, sp := (tasked .running).sp 0 }] }).unitAway 0 unit0
        = true := by
  decide

/-- The task waits for a transaction of a kind. -/
def asking (k : TxKind) : State :=
  ((tasked .running).modCtx 0 fun c => { c with tx := .waiting 5 }).modSched 0 fun d => { d with txq := [{ ctx := 1, kind := k }] }

/-- TransactionEvents: a transaction of each kind at hand, with a dead handle, a live one, and addresses that hold no
record. -/
theorem witness_transactions :
    (∀ k ∈ [TxKind.join 2, .join 1, .poll 2 7, .poll 1 7, .launch 0, .admitC 1, .withdraw 1, .cut 1],
      k = .join 1 ∨ (asking k).nextTx 0 = some { ctx := 1, kind := k } ∧ (asking k).whereIs 1 = some 0 ∧ ((asking k).ctxOf 0).tx = .waiting 5)
    ∧ ((asking (.join 2)).liveHandle 0 2).isNone = true
    ∧ (match (asking (.poll 1 7)).liveHandle 0 1 with | some g => g.status == 0 | none => false) = true
    ∧ (let s := (asking (.join 1)).modSched 0 fun d => { d with graphs := [(1, { graph1 with status := 1 })] }
       s.nextTx 0 = some { ctx := 1, kind := .join 1 }
         ∧ (match s.liveHandle 0 1 with | some g => g.status != 0 | none => false) = true
         ∧ ((s.part 0).sched.txq.filter fun x => x.kind.handle == some 1) = [{ ctx := 1, kind := .join 1 }]
         ∧ ({ graph1 with runs := [] } : Graph).endClock = [] ∧ ({ graph1 with runs := [{ opened := true, clock := [3] }] } : Graph).endClock ≠ [])
    ∧ (let s := (asking (.poll 1 7)).modSched 0 fun d => { d with graphs := [(1, { graph1 with status := 1 })] }
       s.nextTx 0 = some { ctx := 1, kind := .poll 1 7 }
         ∧ (match s.liveHandle 0 1 with | some g => g.status != 0 | none => false) = true
         ∧ ((s.part 0).sched.txq.filter fun x => x.kind.handle == some 1) = [{ ctx := 1, kind := .poll 1 7 }])
    ∧ (let s := asking (.admitC 0x1000000000000)
       s.recordAddr 0 (s.c.shared 0x1000000000000) = true
         ∧ (match s.readRecord 0 (s.c.shared 0x1000000000000).toNat 64 with | (.unmapped, _) => true | _ => false) = true)
    ∧ (asking (.cut 1)).recordAddr 0 1 = false ∧ (asking (.cut 1)).recordAddr 0 0x10000000000 = true
    ∧ (State.reset.nextTx 0).isNone = true := by
  decide +kernel

/-- The bytes of a record with values at offsets. -/
def recordOf (xs : List (Nat × Nat × Nat)) : List Byte :=
  xs.foldl (fun b x => b.take x.1 ++ bytesLE x.2.2 x.2.1 ++ b.drop (x.1 + x.2.1)) (List.replicate 64 0)

/-- TransactionEvents: records that ADMIT, its withdrawal and CUT accept and refuse. -/
theorem witness_records :
    (contractOk (List.replicate 64 0) = false)
    ∧ (let b := recordOf [(0, 8, 5), (8, 4, 100000), (0x0C, 4, 1), (0x14, 2, 2)]
       contractOk b = true ∧ fieldAt b 0x20 4 = 0 ∧ (contractOf 64 b).first = 5 ∧ (contractOf 64 b).spindles = 2
         ∧ (two.psns 0).length = 2 ∧ ((two.psns 0).filter (two.passes 0 (contractOf 64 b))).length = 2
         ∧ ((two.psns 0).filter (two.passes 0 { contractOf 64 b with budget := 100000 })).length = 0)
    ∧ fieldAt (recordOf [(0x20, 4, 1)]) 0x20 4 = 1 ∧ reservedZero (recordOf [(0x20, 4, 1)]) = true
    ∧ reservedZero (recordOf [(0x20, 4, 1), (0x30, 1, 1)]) = false
    ∧ (let b := recordOf [(0, 8, 8192), (0x10, 1, 3)]
       cutOk b = true ∧ maskBits b = [0, 1] ∧ cutOk (recordOf [(8, 1, 4)]) = false ∧ maskBits (recordOf []) = []
         ∧ (tasked .running).cutStatus [0] (fieldAt b 0 8) 0 [0, 1] = 0
         ∧ (tasked .running).cutStatus [0] 0 0 [0, 1] ≠ 0) := by
  decide +kernel

/-- TransactionEvents: an HCUT that is ready, at an address of HBM, and one that is not. -/
theorem witness_hcut :
    (let s := { tasked .running with pf := { State.reset.pf with hcut := 64, hcutBusy := true } }
     s.hcutReady = true ∧ s.pf.hcut.toNat % 64 = 0 ∧ isHbm s.pf.hcut.toNat = true ∧ s.mem.poisonIn 64 64 = none)
    ∧ State.reset.hcutReady = false ∧ (63 : Word).toNat % 64 ≠ 0 ∧ (tasked .running).ownerOf 0 = some 0 := by
  decide +kernel

/-- HostAccesses: a free lease, one that a port holds, one past its window and one within it. -/
theorem witness_lease :
    (State.reset.lease.holder = 0 ∧ ¬ 2 ≤ 1 ∧ BitVec.ofNat 2 (1 + 1) = 2)
    ∧ (let s := { State.reset with lease := { State.reset.lease with holder := 1 } }
       s.lease.holder = BitVec.ofNat 2 (0 + 1) ∧ s.lease.holder ≠ 0 ∧ s.lease.holder ≠ BitVec.ofNat 2 (1 + 1)
         ∧ ¬ msCounts ≤ (msCounts - 1) - s.lease.since ∧ msCounts ≤ msCounts - s.lease.since ∧ s.lease.standby = 0)
    ∧ ({ State.reset.lease with standby := 2 } : Lease).standby ≠ 0 := by
  decide

/-- HostAccesses: a port with the lease and one without, a binding of this module, and what gate and list say. -/
theorem witness_host_gates :
    (let s := { (State.reset.modGate 5 fun _ => gateOf 0xFF03C0#64).modCfg 63 (fun k => { k with
         binds := k.binds.set 255 0x40005#64 }) with lease := { State.reset.lease with holder := 1 } }
     s.hostParty 0 63 255 = true ∧ s.hostParty 1 63 255 = false ∧ bindV (s.binding 63 254) = false ∧ bindV (s.binding 63 255) = true
       ∧ bindMod (s.binding 63 255) = s.pf.modid.toNat ∧ bindGate (s.binding 63 255) = 5)
    ∧ admitName ((gateOf 0xFF03FF#64).check 0 63 true true false) = 2 ∧ admitName ((gateOf 0x03FF#64).check 0 63 true true false) = 1
    ∧ admitName ((gateOf 0xFF03C0#64).check 0 63 true true false) = 0 ∧ admitName ((gateOf 0x03FF#64).check 0 63 true false true) = 2
    ∧ (gateOf 0xFF03FF#64).gcnt.toNat < 4 ∧ 3 ≤ (gateOf 0xFF03FF#64).gcnt.toNat
    ∧ State.reset.gateLockers 4095 = [] ∧ State.reset.bar2 63 (2 ^ 41) 1 = false ∧ (State.reset.walk 63 0).isNone = true
    ∧ State.reset.held = [] := by
  decide

/-- PlatformRegisters: an unlocked partition and locked ones, reservations at their sums and above, and module numbers. -/
theorem witness_platform :
    State.reset.locked 63 = false
    ∧ (∀ st ∈ [IfState.locked, .run], ((State.reset.modTrust 63 fun t => { t with state := st }).part 63).trust.state = st)
    ∧ (0 + 64000 ≤ 64000 ∧ ¬ 0 + 64001 ≤ 64000)
    ∧ ((∀ x ∈ State.reset.parts, x.2.trust.state = .unlocked) ∧ 1 ≤ 64 ∧ 64 ≤ 64 ∧ 63 < 64)
    ∧ (let s := (State.reset.modCfg 63 fun k => { k with pspin := 1 }).modSp 0 fun x => { x with
         ctx := { x.ctx with ident := { x.ctx.ident with part := 63 } } }
       (s.part 63).cfg.pspin.getLsbD 0 = true ∧ (s.ctxOf 0).partN = 63)
    ∧ State.reset.power.step = 0 ∧ ({ State.reset.power with step := 1 } : Power).step ≠ 0
    ∧ State.reset.hostParty 0 63 0 = false
    ∧ { State.reset with lease := { State.reset.lease with holder := 1 } }.hostParty 0 63 0 = true
    ∧ (39 < 40 ∧ 7 < 8 ∧ (3 : Word).getLsbD 0 = (3 : Word).getLsbD 1)
    ∧ (State.reset.sec.stage ≠ 0xF ∧ ({ State.reset.sec with stage := 0xF } : Security).stage = 0xF)
    ∧ (let s := State.reset.modPHost 63 fun h => { h with hwake := h.hwake.set 255 2 }
       (s.part 63).host.hwake[255]? ≠ some 0 ∧ bindV (0x40005#64 &&& 0xFFFFFFFF0007FFFF#64) = true
         ∧ bindMod 0x40005#64 = s.pf.modid.toNat
         ∧ (s.part 63).host.hwake[255]? = some 2
         ∧ (2 : Word).toNat ≤ ((s.modGate 5 fun _ => gateOf eOpen).gate (bindGate 0x40005#64)).gcnt.toNat) := by
  decide +kernel

/-- A module whose entry 63 of the shedding table names partition 0 in each kind of action. -/
def shedding (acts : List (Nat × Nat)) (e : BitVec 13) : State :=
  { two with power := { State.reset.power with shed := State.reset.power.shed.set 63 e, acts := acts, step := BitVec.ofNat 8 acts.length } }

/-- PowerEvents: power above the cap, within the hysteresis and below it, with each action next and last. -/
theorem witness_power :
    (let w := State.reset.power
     State.reset.gcyc % 800000 = 0 ∧ w.cap.toNat < 4801 ∧ ¬ w.cap.toNat < 4800 ∧ ¬ 4600 + w.hyst.toNat < w.cap.toNat
       ∧ 4599 + w.hyst.toNat < w.cap.toNat ∧ w.floor = false ∧ w.acts = [] ∧ w.sequence[0]? = none)
    ∧ (∀ k ∈ [0, 1, 2], (([(k, 63)] : List (Nat × Nat)).getLast? = some (k, 63)))
    ∧ (0 : Nat) < 40 ∧ 39 < 40 ∧ two.busyOf 0 = [] ∧ ((two.psns 0).any two.cutPending) = false
    ∧ (({ two with cuts := [{ c := 1, kind := 0, spins := [1] }] }.psns 0).any
        { two with cuts := [{ c := 1, kind := 0, spins := [1] }] }.cutPending) = true := by
  decide +kernel

/-- PowerEvents: a table whose next actions are a slowdown, a pause and an eviction. -/
theorem witness_shed_sequence : (shedding [] 0x140).power.sequence = [(0, 63), (1, 63), (2, 63)] := by
  decide

/-- PowerEvents: lines that are not durable, results that land, a late one, and a bound that ends. -/
theorem witness_power_memory :
    State.reset.sound ∧ isSecondTier 0x100000000000 = true
    ∧ (({ soft := [(0x100000000000, [(5, 7), (6, 8)])] } : Memory).soft.filter fun x => x.1 == 0x100000000000)
        = [(0x100000000000, [(5, 7), (6, 8)])]
    ∧ State.reset.lateKinds 0 = []
    ∧ (let p : Pending := { left := 0, await := some 7, bound := some 0 }
       let s := (asks (.load 1 8) .going true).modCtx 0 fun c => { c with pipe := [p] }
       s.lateKinds 0 ≠ [] ∧ p ∈ (s.ctxOf 0).active ∧ p.await = some 7 ∧ p.bound = some 0 ∧ p.late = false
         ∧ (s.msg 7).isSome = true) := by
  unfold State.sound; decide

/-- PowerEvents: a due result that carries the notice of an arrival, and one that does not. -/
theorem witness_landing :
    (let p : Pending := { left := 0, lands := [.x 1 5] }
     let q : Pending := { left := 0, notice := some { code := tBOVER, slot := 0, val := 0 } }
     let s := fun p => withCtx fun c => { c with pipe := [p] }
     (s p).lateKinds 0 = [] ∧ p ∈ (((s p).ctxOf 0).active.filter Pending.due) ∧ p.notice = none
       ∧ (s q).lateKinds 0 = [] ∧ q ∈ (((s q).ctxOf 0).active.filter Pending.due) ∧ q.notice.isSome = true) := by
  decide

/-- BootEvents: each stage, a header that is too short, and an error that stops the module after 64 counts. -/
theorem witness_boot :
    (let b := fun (k : BitVec 4) => { State.reset.sec with stage := k }
     (b 1).stage = 1 ∧ (b 2).stage = 2 ∧ (b 7).stage ≠ 1 ∧ (b 1).port = false ∧ ({ b 1 with port := true } : Security).port = true
       ∧ ({ b 2 with retried := true } : Security).retried = true)
    ∧ headerGood [0] bootTypes = false ∧ ([0] : List Byte) ≠ []
    ∧ State.reset.errors.fatal = false ∧ State.reset.errors.fatalAt = none
    ∧ ({ State.reset.errors with fatalAt := some 64 } : Errors).fatalAt = some 64
    ∧ ({ State.reset.sec with stage := 0xF } : Security).stage = 0xF ∧ [(0 : Byte)].length ≤ 2 ^ 36 ∧ State.reset.sound := by
  decide

/-- A module at stage 7 whose session 7 on port 1 is as given, and partition 63 bound to it in a state. -/
def sessioned (x : Session) (f : PartTrust → PartTrust) : State :=
  { State.reset.modTrust 63 f with sec := { State.reset.sec with stage := 7, sessions := [(7, x)], negotiated := [3, 7] } }

def session7 (period : Nat) (finished : Bool) : Session := { port := 1, period := period, last := 0, finished := finished }

/-- SessionEvents: levels of negotiation, sessions free and taken, one before FINISH, after it, and past its period. -/
theorem witness_sessions :
    (let s := sessioned (session7 60 true) id
     s.sec.stage = 7 ∧ s.level 0 = 3 ∧ s.level 1 = 3 ∧ tfind 0 s.sec.sessions = none ∧ (∀ m, m < 0 → tfind m s.sec.sessions ≠ none)
       ∧ s.session 7 = some (session7 60 true) ∧ s.session 6 = none)
    ∧ (∀ p ∈ [((1 : Nat), 1), (2, 2)], ({ State.reset with sec := { State.reset.sec with stage := 7, negotiated := [p.1] } }).level 0 = p.2)
    ∧ (State.reset.sec.stage ≠ 7 ∧ State.reset.level 0 < 3)
    ∧ (sessioned (session7 60 false) id).session 7 = some (session7 60 false)
    ∧ (let s := { sessioned (session7 1 true) (fun t => { t with state := .run, bound := some 7 }) with gcyc := 1600000000 }
       tfind 7 s.sec.sessions = some (session7 1 true) ∧ s.session 7 = none
         ∧ (s.parts.filter fun q => q.2.trust.bound == some (BitVec.ofNat 3 7)).map Prod.fst = [63] ∧ (s.part 63).trust.state = .run)
    ∧ (let s := { State.reset with sec := { State.reset.sec with stage := 7, sessions := (List.range 8).map fun k => (k, session7 0 true) } }
       ∀ n, n < 8 → tfind n s.sec.sessions ≠ none) := by
  decide +kernel

/-- SessionEvents: a partition that the session may set keys of, one that it may not, and a full list of signers. -/
theorem witness_keys :
    (let s := sessioned (session7 60 true) fun t => { t with state := .locked, bound := some 7 }
     (63 < 64 ∧ (s.part 63).trust.bound = some (BitVec.ofNat 3 7) ∧ (s.part 63).trust.state = .locked)
       ∧ (s.part 63).trust.signers.length < 16 ∧ (∀ y ∈ (s.part 63).trust.signers, y.1 ≠ 5))
    ∧ (State.reset.part 63).trust.bound = none
    ∧ (List.replicate 32 (0 : Byte)).length = 32 ∧ (List.replicate 384 (0 : Byte)).length = 384
    ∧ 16 ≤ (List.replicate 16 ((0 : Word), ([] : List Byte))).length := by
  decide +kernel

/-- InterfaceEvents: the states of an interface, with its session, with another one, and while it starts, stops or is
scrubbed. -/
theorem witness_interface :
    (let s := fun (f : PartTrust → PartTrust) => (sessioned (session7 60 true) f)
     let t := fun (f : PartTrust → PartTrust) => ((s f).part 63).trust
     (s id).session 7 = some (session7 60 true) ∧ (session7 60 true).period ≠ 0 ∧ (session7 0 true).period = 0 ∧ (7 : Nat) < 8
       ∧ (t id).state = .unlocked ∧ (t id).bound = none
       ∧ ((t fun t => { t with state := .locked, bound := some 7 }).allows 7 = true
          ∧ (t fun t => { t with state := .locked, bound := some 7 }).allows 6 = false
          ∧ (t fun t => { t with state := .locked, bound := some 7 }).starting = false
          ∧ (t fun t => { t with state := .locked, bound := some 7 }).stopping = none)
       ∧ ((t fun t => { t with state := .error, bound := some 7 }).allows 7 = true
          ∧ (t fun t => { t with state := .error, bound := some 7 }).scrub = false)
       ∧ (s id).psns 63 = [] ∧ two.psns 0 ≠ [])
    ∧ ((let e : PartTrust := { state := .error }; e.bound = none) ∧ ({ state := .error, bound := some 7 } : PartTrust).bound ≠ none
        ∧ ({ state := .error, bound := some 7, scrub := true } : PartTrust).allows 7 = true)
    ∧ State.reset.scrubReady 63 = false
    ∧ (let s := two.modTrust 0 fun t => { t with scrub := true, stopping := some 7 }
       s.scrubReady 0 = true ∧ (s.part 0).trust.stopping = some 7)
    ∧ ((two.modTrust 0 fun t => { t with scrub := true }).part 0).trust.stopping = none := by
  decide

/-- InterfaceEvents: no record of the partition waits to be written, and one does. -/
theorem witness_records_wait :
    ((two.modTrust 0 fun t => { t with scrub := true }).endWork 0).recWaits 0 = false
    ∧ { State.reset with recWrites := [{ part := 0, addr := 0x10000000000, bytes := [] }] }.recWaits 0 = true := by
  decide +kernel

/-- UpdateEvents: an update at rest, one to be checked, one that switches, one that is committed, and a missed beat. -/
theorem witness_update :
    (State.reset.update.phase = 0 ∧ State.reset.update.switching = false)
    ∧ (let u : Update := { State.reset.update with phase := 1 }
       u.phase = 1 ∧ u.phase ≠ 0 ∧ u.switching = false ∧ ({ u with switching := true } : Update).switching = true)
    ∧ headerGood [] [2] = false
    ∧ (let u : Update := { State.reset.update with phase := 2, beating := true }
       u.phase = 2 ∧ u.beating = true ∧ 100 * msCounts ≤ 100 * msCounts - u.since ∧ ¬ 100 * msCounts ≤ 100 * msCounts - 1 - u.since
         ∧ msCounts < msCounts + 1 - u.lastBeat ∧ ¬ msCounts < msCounts - u.lastBeat)
    ∧ (10 * msCounts < 10 * msCounts + 1 - State.reset.update.switchedAt) := by
  decide

/-! ### Single words -/

/-- What a word leaves in flight: latency and landings. -/
def puts (i : Instr) (s : State) : List (Nat × List Land) :=
  match nextOf (exec i s) with
  | some t => t.c.pipe.map fun p => (p.left, p.lands)
  | none => []

/-- x1 is the most negative number plus 1, x2 is 65: a shift by 1 in 64 bits and in 32 (R108, R111). -/
def ints : State := withRegs [(1, 0x8000000000000001), (2, 65)] [(1, 0x8000000000000001), (2, 65)]

/-- R108, by hand: sign, borrow, shift amounts by their low bits, signed and unsigned orders. -/
theorem test_ialu :
    ([(.add .x 3 1 2 0 0, 0x8000000000000042), (.sub .x 3 1 2 0 0, 0x7FFFFFFFFFFFFFC0), (.and .x 3 1 2 0 0, 1),
      (.or .x 3 1 2 0 0, 0x8000000000000041), (.xor .x 3 1 2 0 0, 0x8000000000000040), (.andn .x 3 1 2 0 0, 0x8000000000000000),
      (.sll .x 3 1 2 0 0, 2), (.srl .x 3 1 2 0 0, 0x4000000000000000), (.sra .x 3 1 2 0 0, 0xC000000000000000),
      (.slt .x 3 1 2 0 0, 1), (.sltu .x 3 1 2 0 0, 0), (.min .x 3 1 2 0 0, 0x8000000000000001), (.max .x 3 1 2 0 0, 65),
      (.minu .x 3 1 2 0 0, 65), (.maxu .x 3 1 2 0 0, 0x8000000000000001), (.clz .x 3 2 0, 57), (.popc .x 3 1 0, 2)]
      : List (Instr × Word)).all (fun p => puts p.1 ints == [(1, [.x 3 p.2])]) = true := by
  decide

/-- R108, R110: 32-bit results are sign-extended, and a 12-bit immediate is. -/
theorem test_ialu_narrow_and_immediate :
    ([(.addw .x 3 1 2 0 0, 0x42), (.subw .x 3 1 2 0 0, 0xFFFFFFFFFFFFFFC0), (.sllw .x 3 1 2 0 0, 2), (.srlw .x 3 1 2 0 0, 0),
      (.sraw .x 3 1 2 0 0, 0), (.addi .x 3 2 0xFFF 0, 64), (.andi .x 3 1 0xF00 0, 0x8000000000000000), (.ori .x 3 2 0x002 0, 67),
      (.xori .x 3 2 0xFFF 0, 0xFFFFFFFFFFFFFFBE), (.slli .x 3 2 63 0, 0x8000000000000000), (.srli .x 3 1 63 0, 1),
      (.srai .x 3 1 63 0, 0xFFFFFFFFFFFFFFFF), (.slti .x 3 1 0x800 0, 1), (.limm .x 3 0x80000, 0xFFFFFFFFFFF80000),
      (.limmh .x 2 0xFFFFF, 0xFFFFFFFFFFF00041), (.fimm .x 3 0x3F800, 0x3F800000)]
      : List (Instr × Word)).all (fun p => (puts p.1 ints).map (fun q => (q.1, q.2.map fun l =>
        match l with | .x _ v => v | _ => 0)) == [(1, [p.2])]) = true := by
  decide

/-- R111: products at latency 3 and quotients in SY at latency 14, by hand; a division by 0. -/
theorem test_multiply_and_divide :
    (([(.mul .y 3 1 2 0 0, 3, 0x8000000000000041), (.mulh .y 3 1 2 0 0, 3, 0xFFFFFFFFFFFFFFDF), (.mulhu .y 3 1 2 0 0, 3, 32),
      (.mulw .y 3 1 2 0 0, 3, 65), (.div 3 1 2 0 0, 14, BitVec.ofInt 64 (-141898031336227320)), (.rem 3 1 2 0 0, 14, BitVec.ofInt 64 (-7)),
      (.divu 3 1 2 0 0, 14, 141898031336227320), (.remu 3 1 2 0 0, 14, 9), (.divu 3 1 0 0 0, 14, 0xFFFFFFFFFFFFFFFF),
      (.remu 3 1 0 0 0, 14, 0x8000000000000001)] : List (Instr × Nat × Word)).all fun p => puts p.1 ints == [(p.2.1, [.y 3 p.2.2])]) = true := by
  decide

/-- R109: Hash32(1, 2), computed by hand from its six lines; HASH and one lane of VRNG. -/
theorem test_hash : hash32 1 2 = 0x0EF5FD85#32 ∧ puts (.hash .x 3 1 2 0 0) (withRegs [(1, 1), (2, 0x500000002)] []) = [(1, [.x 3 0x0EF5FD85])] := by
  decide

/-- R106, R112 to R114: comparisons, predicate logic with p0, SEL, and XMOV at latency 2. -/
theorem test_predicates :
    puts (.pcmp .x 2 1 2 0 2 0) ints = [(1, [.p 2 true])] ∧ puts (.pcmp .x 2 1 2 0 4 0) ints = [(1, [.p 2 false])]
    ∧ puts (.pcmpi .x 2 3 2 65 0) ints = [(1, [.p 2 true])] ∧ puts (.pandn .x 2 0 3 0) ints = [(1, [.p 2 true])]
    ∧ puts (.sel .x 3 1 2 0 0 0) ints = [(1, [.x 3 0x8000000000000001])] ∧ puts (.sel .x 3 1 2 0 1 0) ints = [(1, [.x 3 65])]
    ∧ puts (.xmov .x 7 2 0) ints = [(2, [.x 7 65])] ∧ puts (.fclass .x 3 0 false 0) ints = [(1, [.x 3 0x10])] := by
  decide

/-- R117, R134: MODE reads as a register of the machine, a number that R134 does not assign raises ILLEGAL, and a write of
a register whose fields are all RO does. -/
theorem test_control_registers :
    (nextOf (exec (.crd .x 3 0x00F) State.reset)).map (fun t => (t.c.trap.tcause, t.c.trap.tslot)) = some (BitVec.ofNat 8 tILLEGAL, 0)
    ∧ (nextOf (exec (.cwr .y 3 0x000) State.reset)).map (fun t => (t.c.trap.tcause, t.c.trap.tslot)) = some (BitVec.ofNat 8 tILLEGAL, 1)
    ∧ puts (.cwr .x 2 0x003) ints = [(1, [.creg 0x003 65])] := by
  decide

/-- R204 to R207: 1 + 2, 1 / 3 and the square root of 2 in FP32 with their flags, and a product of FP64. -/
theorem test_scalar_float :
    (let s := withRegs [(1, 0x3F800000), (2, 0x40000000), (3, 0x40400000)] [(1, 0x3F800000), (2, 0x40000000), (3, 0x40400000)]
     puts (.fadd .x 4 1 2 0 false false false 0) s = [(4, [.x 4 0x40400000])]
       ∧ puts (.fdiv 4 1 3 0 false false false 0) s = [(14, [.y 4 0x3EAAAAAB]), (1, [.flags fNX])]
       ∧ puts (.fsqrt 4 2 false false false 0) s = [(14, [.y 4 0x3FB504F3]), (1, [.flags fNX])]
       ∧ puts (.fma .x 4 2 3 1 false false false 0) s = [(4, [.x 4 0x40E00000])]
       ∧ puts (.fcmp .x 1 1 1 2 false) s = [(1, [.p 1 true])] ∧ puts (.ftoi .x 4 3 false false 0) s = [(4, [.x 4 3])]
       ∧ puts (.fito .x 4 0 false 0) s = [(4, [.x 4 0])] ∧ puts (.fmax .y 4 1 2 0 false false) s = [(4, [.y 4 0x40000000])]) := by
  decide +kernel

/-- R123, R130: a step runs BR at the program counter, and the next bundle starts ten words on; TEND waits. -/
theorem test_step_branches :
    (nextOf (step (State.reset.withFetchWord 32 0x800000A0))).map (fun t => (t.ctxOf 0).pc) = some 10
    ∧ (nextOf (step (State.reset.withFetchWord 32 0x00000000))).map (fun t => (t.ctxOf 0).pc) = some 2
    ∧ (nextOf (step (State.reset.withFetchWord 32 0xAC000000))).map (fun t => (t.ctxOf 0).inTend) = some true := by
  decide +kernel

/-- R123, R315: CALL leaves its return address in flight; RFE outside a handler is ILLEGAL. -/
theorem test_call_and_rfe :
    (nextOf (exec (.call 10 0) (withCtx fun c => { c with bun := { c.bun with hdr := 100, len := 2 } }))).map
        (fun t => (t.c.bun.xfer, t.c.pipe.map Pending.lands)) = some (some 110, [[.x 31 102]])
    ∧ (nextOf (exec .rfe State.reset)).map (fun t => t.c.trap.tcause) = some (BitVec.ofNat 8 tILLEGAL) := by
  decide

/-- R190: loads of the own slice: little-endian bytes, signed and not. R185: a misaligned word. -/
theorem test_loads :
    (let s := { owned 0 with mem := { cells := (rangeFrom 0 8).map fun i => (sliceKey 0 i, BitVec.ofNat 8 (0x81 + i)) } }
     puts (.ldb 1 5 0 0) s = [(6, [.x 1 0xFFFFFFFFFFFFFF81])] ∧ puts (.ldbz 1 5 1 0) s = [(6, [.x 1 0x82])]
       ∧ puts (.ldh 1 5 0 0) s = [(6, [.x 1 0xFFFFFFFFFFFF8281])] ∧ puts (.ldwz 33 5 1 0) s = [(6, [.y 1 0x88878685])]
       ∧ puts (.ldd 1 5 0 0) s = [(6, [.x 1 0x8887868584838281])]
       ∧ (nextOf (exec (.ldd 1 5 0 0) (owned 4))).map (fun t => (t.c.trap.tcause, t.c.trap.tval, t.c.trap.tslot))
           = some (BitVec.ofNat 8 tALIGN, 4, 3)) := by
  decide +kernel

/-- R191: a store of the own slice, and one to another spindle, which only sends. -/
theorem test_stores :
    (nextOf (exec (.sth 5 5 0 0) (owned 0x1234))).map (fun t => t.mem.cells) = some [(sliceKey 0 0x1234, 0x34), (sliceKey 0 0x1235, 0x12)]
    ∧ (nextOf (exec (.stb 5 5 0 0) (far 0x10002000000))).map (fun t => (t.mem.cells, t.msgs.map Msg.loc)) = some ([], [.slice 1 0]) := by
  decide +kernel

/-- R274: an AINT ADD of 8 bytes wraps and answers the old value; R276: a compare that fails stores nothing. -/
theorem test_atomics :
    (let s := { (owned 0x1000000).modCtx 0 (fun c => { c with regs := c.regs.wx 6 2 }) with
       mem := { cells := (rangeFrom 0 8).map fun i => (State.reset.sliceAt 0 (0x1000000 + i), 0xFF) } }
     (nextOf (exec (.aintAddD 7 5 6 false 0) s)).map (fun t => (t.mem.cells, t.c.pipe.map Pending.lands))
         = some ([(State.reset.sliceAt 0 0x1000000, 1)], [[.x 7 0xFFFFFFFFFFFFFFFF]])
       ∧ (nextOf (exec (.acasD 7 5 6 false 0) s)).map (fun t => t.mem == s.mem) = some true) := by
  decide +kernel

/-- R272: an atomic at a scratchpad address raises ATOMPLAIN. -/
theorem test_atomic_plain :
    (nextOf (exec (.aintAddD 7 5 6 false 0) (owned 0))).map (fun t => t.c.trap.tcause) = some (BitVec.ofNat 8 tATOMPLAIN) := by
  decide +kernel

/-- R177: VIOTA counts its lanes, and R175 adds them with a broadcast y register. -/
theorem test_vector :
    (puts (.viota 3 0 0) State.reset).map (fun p => (p.1, p.2.map fun l => match l with | .acc _ o b => (o, b.take 12) | _ => (0, [])))
        = [(4, [(rowOff 3, [0, 0, 0, 0, 1, 0, 0, 0, 2, 0, 0, 0])])]
    ∧ (puts (.viadd 3 0 1 true 0) (withRegs [] [(1, 0x10203)])).map (fun p => p.2.map fun l => match l with | .acc _ _ b => b.take 4 | _ => [])
        = [[[3, 2, 1, 0]]]
    ∧ puts (.vget 4 0 0 0 0) State.reset = [(4, [.y 4 0])] := by
  decide +kernel

/-- R247: the busy times that the rule gives for a BF16 GEMM with K = 512 and an FP32 GEMM with K = 128. -/
theorem test_busy_times :
    ({ rt := .gemm, m0 := 0x2000000, fmt := 0x11 } : MxRun).busy = 272 ∧ ({ rt := .gemm, m0 := 0x800000 } : MxRun).busy = 272 := by
  decide

/-- R157: the two entries that the rule gives: E4M3 operands with a BF16 form, RNE and saturating; DX4 with gap 2. -/
theorem test_format_entries :
    (let r : MxRun := { rt := .gemm, fmt := 0x100133 }
     r.af = 3 ∧ r.bf = 3 ∧ r.cf = 1 ∧ r.sat = true ∧ r.rm = 0 ∧ r.fmtBad = false)
    ∧ (let r : MxRun := { rt := .gemm, fmt := 0x20000008777 }
       r.af = 7 ∧ r.bf = 7 ∧ r.cf = 7 ∧ r.gap = 2 ∧ r.soff = 0x200 ∧ r.fmtBad = false) := by
  decide

/-- R332: the worked translation: L3 index 0, L2 index 1, L1 index 1, a 2 MiB leaf. -/
theorem test_worked_translation :
    (let put := fun (a v : Nat) => (rangeFrom a 8).map fun x => (x, BitVec.ofNat 8 (v / 2 ^ (8 * (x - a))))
     let cells := (put 0x2000 0x4001 ++ put 0x4008 0x6001 ++ put 0x6008 0xD000200007).filter fun c => c.2 ≠ 0
     let s := { State.reset.modCfg 0 (fun c => { c with en := true, root := 1 }) with mem := { cells := cells } }
     (match s.walk 0 0x40231200 with
      | some l => l.size == 2 ^ 21 && leafLoc l.entry l.base 0x40231200 == .phys 0xD000231200
      | none => false) = true) := by
  decide +kernel

/-- R130, R318: SYSC marks the bundle; BRK raises its trap with the code. -/
theorem test_sysc_and_brk :
    (nextOf (exec (.sysc 9 0) State.reset)).map (fun t => t.c.bun.sysc) = some (some 9)
    ∧ (nextOf (exec (.brk 9 0) State.reset)).map (fun t => (t.c.trap.tcause, t.c.trap.tval)) = some (BitVec.ofNat 8 tBRK, 9) := by
  decide

/-- R33: a claim of a free lease is taken, and EPOCH counts it. -/
theorem test_lease :
    (nextOf (exec (.leaseClaim 1 2) State.reset)).map (fun t => (t.lease.holder, t.lease.epoch)) = some (2, 1) := by
  decide

/-- R298: an entry written to an access list keeps only its fields, and its bucket is full. -/
theorem test_acl_write :
    (nextOf (exec (.aclEntryWrite 0 5 1 0xFFFFFFFFFFFFFFFF) State.reset)).map (fun t => ((t.gate 5).entry 1, (t.gate 5).tokensOf 1))
      = some (0x003F00FFFFFF03FF, 255) := by
  decide

/-- R356: a cap below 1,200 W is raised to it, and one above 4,800 W is lowered. -/
theorem test_power_cap :
    (nextOf (exec (.powerCapWrite 0) State.reset)).map (fun t => t.power.cap) = some 1200
    ∧ (nextOf (exec (.powerCapWrite 0xFFFF) State.reset)).map (fun t => t.power.cap) = some 4800 := by
  decide

/-- R383: a fatal error stops the module 64 counts later, and a second one changes nothing. -/
theorem test_fatal :
    (nextOf (exec (.fatalError 0) State.reset)).map (fun t => (t.errors.fatal, t.errors.fatalAt)) = some (true, some 64) := by
  decide

end Sys2Proof.Tests
end

section
/-!
PROOFS. The configuration registers that the hypervisor writes (`Obligations.PlatformRegisters`).
-/

namespace Sys2Proof.Machine

/-! ### Partitions after an update -/

@[simp] theorem part_modPart_self (s : State) (p : Nat) (f : Part → Part) : (s.modPart p f).part p = f (s.part p) :=
  tget_tput_self ..

theorem part_modPart_ne (s : State) {q p : Nat} (h : q ≠ p) (f : Part → Part) : (s.modPart p f).part q = s.part q :=
  tget_tput_ne _ _ h _

theorem part_modCfg_self (s : State) (p : Nat) (f : PartCfg → PartCfg) :
    (s.modCfg p f).part p = { s.part p with cfg := f (s.part p).cfg } := part_modPart_self ..

theorem part_modTrust_self (s : State) (p : Nat) (f : PartTrust → PartTrust) :
    (s.modTrust p f).part p = { s.part p with trust := f (s.part p).trust } := part_modPart_self ..

theorem part_modPHost_self (s : State) (p : Nat) (f : PartHost → PartHost) :
    (s.modPHost p f).part p = { s.part p with host := f (s.part p).host } := part_modPart_self ..

theorem part_modPHost_ne (s : State) {q p : Nat} (h : q ≠ p) (f : PartHost → PartHost) :
    (s.modPHost p f).part q = s.part q := part_modPart_ne s h _

/-- A partition that has been written is listed. -/
theorem mem_keys_tput {α : Type} (k : Nat) (v : α) (t : Tbl α) : k ∈ (tput k v t).map Prod.fst := by
  induction t with
  | nil => simp [tput]
  | cons x t ih =>
    rw [tput]
    split
    · simp
    · split
      · simp
      · simp [ih]

/-! ### What the end of a task keeps

`s.keeps ns t`: from s to t no partition's configuration changes, and no spindle outside ns gets or loses a task. -/

/-- The configuration of every partition and, outside `ns`, what runs on each spindle and whose it is are kept. -/
structure State.keeps (ns : List Nat) (s t : State) : Prop where
  cfg : ∀ p, (t.part p).cfg = (s.part p).cfg
  run : ∀ n, n ∉ ns → (t.sp n).run = (s.sp n).run
  ident : ∀ n, n ∉ ns → (t.ctxOf n).ident = (s.ctxOf n).ident

section Keeps
variable {ns : List Nat} {s t u : State}

theorem State.keeps.refl (ns : List Nat) (s : State) : State.keeps ns s s := ⟨fun _ => rfl, fun _ _ => rfl, fun _ _ => rfl⟩

theorem State.keeps.trans (h : State.keeps ns s t) (k : State.keeps ns t u) : State.keeps ns s u :=
  ⟨fun p => (k.cfg p).trans (h.cfg p), fun n hn => (k.run n hn).trans (h.run n hn),
    fun n hn => (k.ident n hn).trans (h.ident n hn)⟩

theorem State.keeps.mono {ms : List Nat} (h : State.keeps ns s t) (hs : ns ⊆ ms) : State.keeps ms s t :=
  ⟨h.cfg, fun n hn => h.run n fun x => hn (hs x), fun n hn => h.ident n fun x => hn (hs x)⟩

/-- What changes neither partitions nor spindles. -/
theorem keeps_of_eq (hp : t.parts = s.parts) (hs : t.spindles = s.spindles) : State.keeps ns s t := by
  refine ⟨fun p => ?_, fun n _ => ?_, fun n _ => ?_⟩
  · rw [State.part, State.part, hp]
  · rw [State.sp, State.sp, hs]
  · rw [State.ctxOf, State.ctxOf, State.sp, State.sp, hs]

theorem keeps_modPart (s : State) (p : Nat) {f : Part → Part} (hf : ∀ x, (f x).cfg = x.cfg) :
    State.keeps ns s (s.modPart p f) := by
  refine ⟨fun q => ?_, fun _ _ => rfl, fun _ _ => rfl⟩
  by_cases h : q = p
  · subst h; rw [part_modPart_self, hf]
  · rw [part_modPart_ne s h]

theorem keeps_modSched (s : State) (p : Nat) (f : PartSched → PartSched) : State.keeps ns s (s.modSched p f) :=
  keeps_modPart s p fun _ => rfl

/-- An update of a spindle, unless it concerns its task, keeps all; otherwise all but that spindle. -/
theorem keeps_modSp (s : State) {n : Nat} {f : Spindle → Spindle}
    (hf : n ∈ ns ∨ ∀ x, (f x).run = x.run ∧ (f x).ctx.ident = x.ctx.ident) : State.keeps ns s (s.modSp n f) := by
  have key : ∀ m, m ∉ ns → ((s.modSp n f).sp m).run = (s.sp m).run
      ∧ ((s.modSp n f).sp m).ctx.ident = (s.sp m).ctx.ident := by
    intro m hm
    by_cases h : m = n
    · subst h; rw [sp_modSp]; exact (hf.resolve_left hm) _
    · rw [sp_modSp_ne s h]; exact ⟨rfl, rfl⟩
  exact ⟨fun _ => rfl, fun m hm => (key m hm).1, fun m hm => (key m hm).2⟩

theorem keeps_foldl {α : Type} {f : State → α → State} (l : List α) (hf : ∀ t x, State.keeps ns t (f t x)) (s : State) :
    State.keeps ns s (l.foldl f s) :=
  List.foldlRecOn l f (.refl ns s) fun _ h x _ => h.trans (hf _ x)

theorem keeps_ite {c : Prop} [Decidable c] (ht : State.keeps ns s t) (hu : State.keeps ns s u) :
    State.keeps ns s (if c then t else u) := by
  split
  · exact ht
  · exact hu

/-! Writes of records and images. -/

theorem keeps_writeSlice (s : State) (n off : Nat) (bs : List Byte) : State.keeps ns s (s.writeSlice n off bs) := by
  obtain ⟨m, hm⟩ := putSlice_frame s n off bs (bs.length / 65536 + 2)
  have put : State.keeps ns s (s.putSlice n off bs (bs.length / 65536 + 2)) := by rw [hm]; exact keeps_of_eq rfl rfl
  rw [State.writeSlice, State.modCtx]
  refine put.trans (keeps_modSp _ (.inr fun x => ?_))
  exact ⟨rfl, rfl⟩

theorem keeps_writeLoc (s : State) (w : Nat) (l : Loc) (bs : List Byte) : State.keeps ns s (s.writeLoc w l bs) := by
  cases l with
  | slice n off => exact keeps_writeSlice s n off bs
  | phys pa => exact keeps_of_eq rfl rfl
  | host a =>
    rw [State.writeLoc]
    split <;> exact keeps_of_eq rfl rfl
  | far k off => exact .refl ns s

theorem keeps_noteServed (s : State) (w : Nat) (l : Loc) (len : Nat) (wr : Bool) :
    State.keeps ns s (s.noteServed w l len wr) :=
  keeps_ite (.refl ns s) (keeps_ite (.refl ns s) (keeps_of_eq rfl rfl))

theorem keeps_homeWrite (s : State) (w : Nat) (l : Loc) (bs : List Byte) (tag : List Nat) :
    State.keeps ns s (s.homeWrite w l bs tag) := by
  have h : State.keeps ns s ((s.writeLoc w l bs).noteServed w l bs.length true) :=
    (keeps_writeLoc s w l bs).trans (keeps_noteServed ..)
  exact keeps_ite h (h.trans (keeps_of_eq rfl rfl))

theorem keeps_recordDone {w : RecWrite} (h : s.recordDone w = some t) : State.keeps ns s t := by
  unfold State.recordDone at h
  split at h
  · split at h
    · cases h
    · cases h; exact keeps_homeWrite ..
  · cases h; exact .refl ns _

theorem keeps_askBlock (s : State) (n b : Nat) : State.keeps ns s (s.askBlock n b) := by
  refine keeps_modSp s (.inr fun x => ?_)
  split <;> exact ⟨rfl, rfl⟩

theorem keeps_recordLater (s : State) (w : RecWrite) : State.keeps ns s (s.recordLater w) := by
  rw [State.recordLater]
  cases s.recLoc w.part w.addr.toNat with
  | none => exact keeps_of_eq rfl rfl
  | some l =>
    exact (keeps_foldl (f := fun t x => t.askBlock x.1 x.2) (s.locMiss l w.bytes.length)
      (fun t x => keeps_askBlock t x.1 x.2) s).trans (keeps_of_eq rfl rfl)

theorem keeps_writeRecord (s : State) (p : Nat) (a : Word) (off : Nat) (bs : List Byte) :
    State.keeps ns s (s.writeRecord p a off bs) := by
  unfold State.writeRecord
  dsimp only
  split
  · next t h =>
    split at h
    · cases h
    · exact keeps_recordDone h
  · exact keeps_recordLater ..

theorem keeps_writeHead (s : State) (p slot : Nat) : State.keeps ns s (s.writeHead p slot) := by
  unfold State.writeHead
  split
  · rw [State.writeSlot]; exact keeps_of_eq (modMem_parts ..) (modMem_spindles ..)
  · exact .refl ns s

/-- An update of every spindle in the table is one of every spindle, if it keeps the default. -/
theorem tget_map {α : Type} (d : α) (f : α → α) (hd : f d = d) (k : Nat) (t : Tbl α) :
    tget d k (t.map fun x => (x.1, f x.2)) = f (tget d k t) := by
  induction t with
  | nil => exact hd.symm
  | cons x t ih =>
    obtain ⟨j, v⟩ := x
    rw [List.map_cons, tget, tget]
    split
    · rfl
    · exact ih

theorem keeps_mapSpindles (s : State) {f : Spindle → Spindle} (hd : f {} = {})
    (hf : ∀ x, (f x).run = x.run ∧ (f x).ctx = x.ctx) :
    State.keeps ns s { s with spindles := s.spindles.map fun x => (x.1, f x.2) } := by
  refine ⟨fun _ => rfl, fun n _ => ?_, fun n _ => ?_⟩
  · rw [State.sp, tget_map _ f hd, (hf _).1, State.sp]
  · rw [State.ctxOf, State.sp, tget_map _ f hd, (hf _).2, State.ctxOf, State.sp]

theorem keeps_discardImages (s : State) (p : Nat) (slots : List Nat) : State.keeps ns s (s.discardImages p slots) := by
  rw [State.discardImages]
  refine State.keeps.trans ?_ (keeps_mapSpindles _ (f := fun x => { x with owed := x.owed.filter _ }) rfl fun x => ⟨rfl, rfl⟩)
  exact (keeps_modSched s p _).trans (keeps_foldl _ (fun t k => keeps_writeHead t p k) _)

/-! Graphs and contracts. -/

theorem keeps_modGraph (s : State) (p h : Nat) (f : Graph → Graph) : State.keeps ns s (s.modGraph p h f) := by
  rw [State.modGraph]
  split
  · exact keeps_modSched ..
  · exact .refl ns s

theorem keeps_schedDue (s : State) (p : Nat) : State.keeps ns s (s.schedDue p) := keeps_modSched ..

theorem keeps_openNode (s : State) (p h k : Nat) : State.keeps ns s (s.openNode p h k) := by
  unfold State.openNode
  split
  · exact .refl ns s
  · have opened := keeps_modGraph (ns := ns) s p h fun g => g.modRun k fun r => { r with opened := true }
    refine keeps_ite (keeps_ite ?_ opened) ?_
    · exact (opened.trans (keeps_modGraph ..)).trans (keeps_schedDue ..)
    · exact (opened.trans (keeps_modSched ..)).trans (keeps_schedDue ..)

theorem keeps_openReady (s : State) (p h : Nat) : State.keeps ns s (s.openReady p h) := by
  unfold State.openReady
  split
  · exact .refl ns s
  · refine keeps_foldl _ (fun t k => ?_) s
    split
    · split
      · exact keeps_openNode ..
      · exact .refl ns t
    · exact .refl ns t

theorem keeps_finishGraph (s : State) (p h : Nat) : State.keeps ns s (s.finishGraph p h) := by
  unfold State.finishGraph
  split
  · exact .refl ns s
  · have ended := fun a st f => (keeps_writeRecord (ns := ns) s p a 0x20 st).trans (keeps_modGraph _ p h f)
    exact keeps_ite (.refl ns s) (keeps_ite ((ended ..).trans (keeps_modSched ..)) (ended ..))

theorem keeps_endContract (s : State) (p a state : Nat) : State.keeps ns s (s.endContract p a state) := by
  unfold State.endContract
  split
  · exact .refl ns s
  · exact (keeps_writeRecord ..).trans (keeps_modSched ..)

theorem keeps_countJob (s : State) (p a : Nat) (missed : Bool) : State.keeps ns s (s.countJob p a missed) := by
  unfold State.countJob
  have counted := keeps_modSched (ns := ns) s p
  dsimp only
  split
  · exact counted _
  · refine keeps_ite ?_ ((counted _).trans (keeps_writeRecord ..))
    refine State.keeps.trans ?_ (keeps_schedDue ..)
    refine State.keeps.trans ?_ (keeps_foldl _ (fun t h => (keeps_openReady t p h).trans (keeps_finishGraph ..)) _)
    exact ((counted _).trans (keeps_endContract ..)).trans (keeps_foldl _ (fun t x => keeps_modGraph ..) _)

theorem keeps_jobEnds (s : State) (p a : Nat) : State.keeps ns s (s.jobEnds p a) := by
  unfold State.jobEnds
  split
  · exact .refl ns s
  · split
    · exact .refl ns s
    · exact (keeps_modSched ..).trans (keeps_countJob ..)

/-! How a task leaves. -/

theorem keeps_leaveUnit (s : State) (p n : Nat) (u : Placed) : State.keeps ns s (s.leaveUnit p n u) := by
  unfold State.leaveUnit
  have left := keeps_modSched (ns := ns) s p
  cases u.work.job with
  | none => exact left _
  | some a => exact keeps_ite (left _) ((left _).trans (keeps_jobEnds ..))

theorem keeps_dropQueued (s : State) (p : Nat) (mine : Work → Bool) : State.keeps ns s (s.dropQueued p mine) := by
  refine (keeps_modSched s p _).trans (keeps_foldl _ (fun t q => ?_) _)
  split
  · exact keeps_leaveUnit ..
  · exact .refl ns t

theorem keeps_failNode (s : State) (p h k : Nat) (status : BitVec 32) : State.keeps ns s (s.failNode p h k status) := by
  unfold State.failNode
  split
  · exact .refl ns s
  · refine keeps_ite (.refl ns s) ?_
    refine State.keeps.trans (State.keeps.trans ?_ (keeps_dropQueued ..)) (keeps_finishGraph ..)
    refine State.keeps.trans (State.keeps.trans ?_ (keeps_discardImages ..)) (keeps_modSched ..)
    exact keeps_ite (keeps_writeRecord ..) (.refl ns s)

theorem keeps_leaveStand (s : State) (n seg gid : Nat) : State.keeps ns s (s.leaveStand n seg gid) := keeps_of_eq rfl rfl

theorem keeps_endWaits (s : State) (p id : Nat) : State.keeps ns s (s.endWaits p id) := by
  rw [State.endWaits]
  refine State.keeps.trans ?_ (keeps_modSched ..)
  exact keeps_of_eq rfl rfl

theorem keeps_domainGone (s : State) (c : Ctx) : State.keeps ns s (s.domainGone c) :=
  keeps_ite (.refl ns s) (keeps_modPart s _ fun _ => rfl)

/-- A spindle that is freed is empty. -/
theorem vacate_run (s : State) (n : Nat) : ((s.vacate n).sp n).run = .empty := by
  have last : ∀ (t : State) (u : Option Placed) (p : Nat),
      State.keeps [] t ((match u with | some u => t.leaveUnit p n u | none => t).schedDue p) := fun t u p => by
    cases u with
    | some u => exact (keeps_leaveUnit ..).trans (keeps_schedDue ..)
    | none => exact keeps_schedDue ..
  rw [State.vacate]
  refine (((keeps_domainGone _ _).trans (last _ _ _)).run n List.not_mem_nil).trans ?_
  rw [sp_modSp]
  rfl

theorem keeps_vacate (s : State) (n : Nat) : State.keeps [n] s (s.vacate n) := by
  rw [State.vacate]
  refine State.keeps.trans ?_ (keeps_schedDue ..)
  have freed : State.keeps [n] s (((((s.endWaits (s.ctxOf n).partN (s.ctxOf n).id).leaveStand n (s.segNamed n)
      (s.ctxOf n).gang).modSp n fun sp => sp.leave []).domainGone (s.ctxOf n))) :=
    (((keeps_endWaits ..).trans (keeps_leaveStand ..)).trans
      (keeps_modSp _ (.inl (List.mem_singleton_self n)))).trans (keeps_domainGone ..)
  split
  · exact freed.trans (keeps_leaveUnit ..)
  · exact freed

/-- A kill concerns its spindle alone (R321). -/
theorem keeps_killTask (s : State) (n : Nat) : State.keeps [n] s (s.killTask n) := by
  refine keeps_ite (.refl [n] s) ?_
  refine State.keeps.trans (State.keeps.trans (State.keeps.trans ?_ (keeps_failNode ..)) (keeps_vacate ..))
    (keeps_finishGraph ..)
  exact keeps_ite (keeps_discardImages ..) (.refl [n] s)

/-- A kill leaves its spindle empty (R321). -/
theorem killTask_run (s : State) (n : Nat) : ((s.killTask n).sp n).run = .empty := by
  unfold State.killTask
  split
  · next h => exact eq_of_beq h
  · exact ((keeps_finishGraph ..).run n List.not_mem_nil).trans (vacate_run ..)

end Keeps

/-! ### PSPIN (R49) -/

/-- The spindles that partitions other than p have. -/
def State.pspinOthers (s : State) (p : Nat) : BitVec 320 :=
  (s.parts.filter fun x => x.1 != p).foldl (fun m x => m ||| x.2.cfg.pspin) 0

/-- PSPIN after a write of its word w, where others have the spindles `others`. -/
def pspinWord (old others : BitVec 320) (w : Nat) (v : Word) : BitVec 320 :=
  (old &&& ~~~(BitVec.ofNat 320 (0xFFFFFFFFFFFFFFFF * 2 ^ (64 * w)))) ||| (BitVec.ofNat 320 (v.toNat * 2 ^ (64 * w)) &&& ~~~others)

/-- A spindle that leaves partition p loses the task that it runs of it. -/
def State.leavesPart (p : Nat) (s : State) (n : Nat) : State := if (s.ctxOf n).partN = p then s.killTask n else s

/-- A write of a word of PSPIN, in the terms of the two definitions above. -/
theorem writePspin_unlocked {s : State} {p w : Nat} (port : Nat) (v : Word) (hp : p < 64) (hw : w < 5) (hl : s.locked p = false) :
    s.writePspin port p w v =
      ((List.range 320).filter fun n => (s.part p).cfg.pspin.getLsbD n
          && !(pspinWord (s.part p).cfg.pspin (s.pspinOthers p) w v).getLsbD n).foldl (State.leavesPart p)
        (s.modCfg p fun c => { c with pspin := pspinWord (s.part p).cfg.pspin (s.pspinOthers p) w v }) := by
  have h : ¬ (decide (64 ≤ p) || decide (5 ≤ w)) = true := by simp; omega
  rw [State.writePspin, if_neg h, if_neg (by simp [hl])]
  rfl

theorem getLsbD_foldl_or {α : Type} {n : Nat} (f : α → BitVec n) (l : List α) (m : BitVec n) (i : Nat) :
    (l.foldl (fun m x => m ||| f x) m).getLsbD i = (m.getLsbD i || l.any fun x => (f x).getLsbD i) := by
  induction l generalizing m with
  | nil => simp
  | cons x l ih => rw [List.foldl_cons, ih, BitVec.getLsbD_or, List.any_cons, Bool.or_assoc]

theorem getLsbD_pspinOthers (s : State) (p i : Nat) :
    (s.pspinOthers p).getLsbD i = s.parts.any fun x => x.1 != p && x.2.cfg.pspin.getLsbD i := by
  rw [State.pspinOthers, getLsbD_foldl_or, List.any_filter, BitVec.ofNat_eq_ofNat, BitVec.getLsbD_zero,
    Bool.false_or]

/-- Word w takes its bits where no other partition has them, and the other words stay. -/
theorem getLsbD_pspinWord (old others : BitVec 320) (w : Nat) (v : Word) {i : Nat} (hi : i < 320) :
    (pspinWord old others w v).getLsbD i =
      if i / 64 = w then v.getLsbD (i % 64) && !others.getLsbD i else old.getLsbD i := by
  have field : (0xFFFFFFFFFFFFFFFF * 2 ^ (64 * w)).testBit i = decide (i / 64 = w) := by
    rw [show 0xFFFFFFFFFFFFFFFF = 2 ^ 64 - 1 from rfl, Nat.testBit_mul_two_pow, Nat.testBit_two_pow_sub_one,
      ← Bool.decide_and, decide_eq_decide]
    omega
  have value : (v.toNat * 2 ^ (64 * w)).testBit i = (decide (64 * w ≤ i) && v.getLsbD (i - 64 * w)) := by
    rw [Nat.testBit_mul_two_pow, BitVec.testBit_toNat]
  simp only [pspinWord, BitVec.getLsbD_or, BitVec.getLsbD_and, BitVec.getLsbD_not, BitVec.getLsbD_ofNat, hi, field, value,
    decide_true, Bool.true_and]
  by_cases h : i / 64 = w
  · have hm : i - 64 * w = i % 64 := by omega
    simp [h, hm, show 64 * w ≤ i by omega]
  · by_cases hle : 64 * w ≤ i
    · simp [h, BitVec.getLsbD_of_ge v (i - 64 * w) (by omega)]
    · simp [h, hle]

theorem keeps_leavesPart (p : Nat) (s : State) (n : Nat) : State.keeps [n] s (s.leavesPart p n) :=
  keeps_ite (keeps_killTask s n) (.refl [n] s)

theorem keeps_foldl_leavesPart (p : Nat) (l : List Nat) (s : State) : State.keeps l s (l.foldl (State.leavesPart p) s) := by
  induction l generalizing s with
  | nil => exact .refl [] s
  | cons n l ih =>
    have head : [n] ⊆ n :: l := List.cons_subset_cons n (List.nil_subset l)
    exact ((keeps_leavesPart p s n).mono head).trans ((ih _).mono (List.subset_cons_self n l))

/-- Every spindle listed that runs a task of p loses it: the kills of the others do not concern it. -/
theorem foldl_leavesPart_run (p : Nat) {l : List Nat} (hl : l.Nodup) (s : State) {n : Nat} (hn : n ∈ l)
    (hp : (s.ctxOf n).partN = p) : ((l.foldl (State.leavesPart p) s).sp n).run = .empty := by
  induction l generalizing s with
  | nil => exact absurd hn List.not_mem_nil
  | cons m l ih =>
    obtain ⟨hm, hnd⟩ := List.nodup_cons.1 hl
    rw [List.foldl_cons]
    by_cases h : n = m
    · subst h
      rw [(keeps_foldl_leavesPart p l _).run n hm, State.leavesPart, if_pos hp]
      exact killTask_run s n
    · refine ih hnd _ ((List.mem_cons.1 hn).resolve_left h) ?_
      rw [Ctx.partN, (keeps_leavesPart p s m).ident n (by simpa using h)]
      exact hp

/-! ### Locked registers (R373) -/

theorem locked_of_bound {s : State} {p : Nat} (h : (s.part p).trust.state = .locked ∨ (s.part p).trust.state = .run) :
    s.locked p = true := by
  rcases h with h | h <;> simp [State.locked, h]

/-- What the write of a locked register leaves: its discarded value, an interface in ERROR with cause 3, and the answer at the
port by which it came. -/
structure State.refusesLocked (s : State) (port p : Nat) (t : State) : Prop where
  cfg : (t.part p).cfg = (s.part p).cfg
  state : (t.part p).trust.state = .error
  ecause : (t.part p).trust.ecause = 3
  scrub : (t.part p).trust.scrub = true
  out : .unsupported port ∈ t.out

theorem startTeardown_part (s : State) (p : Nat) :
    (s.startTeardown p).part p = { s.part p with trust := { (s.part p).trust with scrub := true } } :=
  part_modTrust_self s p fun t => { t with scrub := true }

theorem setIf_part (s : State) (p : Nat) (st : IfState) :
    (s.setIf p st).part p = { s.part p with trust := { (s.part p).trust with state := st } } :=
  part_modTrust_self s p fun t => { t with state := st }

/-- A locked or running interface enters ERROR (R371). -/
theorem enterError_part {s : State} {p : Nat} (cause : Nat)
    (h : (s.part p).trust.state = .locked ∨ (s.part p).trust.state = .run) :
    (s.enterError p cause).part p = { s.part p with trust := { (s.part p).trust with
      state := .error, scrub := true, ecause := BitVec.ofNat 8 cause, starting := false, stopping := none
      bound := if cause = 3 then (s.part p).trust.bound else none } } := by
  have hc : ((s.part p).trust.state == .locked || (s.part p).trust.state == .run) = true := by
    rcases h with h | h <;> rw [h] <;> rfl
  have told : ∀ (c : Prop) [Decidable c] (o : HostOut), (if c then s.emit o else s).part p = s.part p := fun c _ o => by
    split <;> rfl
  rw [State.enterError]
  dsimp only
  rw [if_pos hc, startTeardown_part, setIf_part, part_modTrust_self, told]

theorem lockedWrite_refuses {s : State} {p : Nat} (port : Nat)
    (h : (s.part p).trust.state = .locked ∨ (s.part p).trust.state = .run) :
    s.refusesLocked port p (s.lockedWrite [p] port) := by
  have hp : (s.lockedWrite [p] port).part p = _ := enterError_part 3 h
  refine ⟨?_, ?_, ?_, ?_, List.mem_append_right _ List.mem_cons_self⟩ <;> rw [hp]
  rfl

theorem rwl_unlocked {s : State} {p : Nat} (port : Nat) (f : PartCfg → PartCfg) (hp : p < 64) (hl : s.locked p = false) :
    s.rwl port p f = s.modCfg p f := by
  rw [State.rwl, if_neg (by omega), if_neg (by simp [hl])]

theorem rwl_locked {s : State} {p : Nat} (port : Nat) (f : PartCfg → PartCfg) (hp : p < 64) (hl : s.locked p = true) :
    s.rwl port p f = s.lockedWrite [p] port := by
  rw [State.rwl, if_neg (by omega), if_pos hl]

/-! ### Wakes (R307) -/

/-- What the wakes of a gate change: armed wakes become 0, and interrupts go out. -/
structure State.wakesOnly (s t : State) : Prop where
  cfg : ∀ q, (t.part q).cfg = (s.part q).cfg
  trust : ∀ q, (t.part q).trust = (s.part q).trust
  pf : t.pf = s.pf
  out : s.out ⊆ t.out
  hwake : ∀ q b : Nat, (t.part q).host.hwake[b]? = (s.part q).host.hwake[b]? ∨ (t.part q).host.hwake[b]? = some 0

theorem State.wakesOnly.refl (s : State) : s.wakesOnly s :=
  ⟨fun _ => rfl, fun _ => rfl, rfl, List.Subset.refl _, fun _ _ => .inl rfl⟩

theorem State.wakesOnly.trans {s t u : State} (h : s.wakesOnly t) (k : t.wakesOnly u) : s.wakesOnly u := by
  refine ⟨fun q => (k.cfg q).trans (h.cfg q), fun q => (k.trust q).trans (h.trust q), k.pf.trans h.pf,
    List.Subset.trans h.out k.out, fun q b => ?_⟩
  rcases k.hwake q b with e | e
  · rw [e]; exact h.hwake q b
  · exact .inr e

theorem State.refusesLocked.wakes {s t u : State} {port p : Nat} (h : s.refusesLocked port p t) (k : t.wakesOnly u) :
    s.refusesLocked port p u :=
  ⟨(k.cfg p).trans h.cfg, k.trust p ▸ h.state, k.trust p ▸ h.ecause, k.trust p ▸ h.scrub, k.out h.out⟩

/-- The wake of binding b of partition p at gate n, whose counter has the value c. -/
def State.wakeOne (s : State) (n : Nat) (c : Word) (p b : Nat) : State :=
  if (s.part p).host.hwake[b % 256]'(Nat.mod_lt _ (by decide)) != 0 && bindV (s.binding p b)
      && bindMod (s.binding p b) == s.pf.modid.toNat && bindGate (s.binding p b) == n
      && decide (((s.part p).host.hwake[b % 256]'(Nat.mod_lt _ (by decide))).toNat ≤ c.toNat) then
    (s.modPHost p fun x => { x with hwake := x.hwake.set (b % 256) 0 (Nat.mod_lt _ (by decide)) }).interrupt p b
  else s

/-- The wakes of a partition's bindings. -/
def State.wakePart (s : State) (n : Nat) (c : Word) (p : Nat) : State :=
  (List.range 256).foldl (fun s b => s.wakeOne n c p b) s

theorem wake_eq (s : State) (n : Nat) :
    s.wake n = (s.parts.map Prod.fst).foldl (fun t p => t.wakePart n (s.gate n).gcnt p) s := rfl

theorem interrupt_part (s : State) (p b q : Nat) : (s.interrupt p b).part q = s.part q := by
  rw [State.interrupt]; split <;> rfl

theorem wakeOne_wakesOnly (s : State) (n : Nat) (c : Word) (p b : Nat) : s.wakesOnly (s.wakeOne n c p b) := by
  unfold State.wakeOne
  split
  · have other : ∀ {q}, q ≠ p → ((s.modPHost p fun x => { x with
        hwake := x.hwake.set (b % 256) 0 (Nat.mod_lt _ (by decide)) }).interrupt p b).part q = s.part q := fun h => by
      rw [interrupt_part, part_modPHost_ne s h]
    have self := (interrupt_part (s.modPHost p fun x => { x with
      hwake := x.hwake.set (b % 256) 0 (Nat.mod_lt _ (by decide)) }) p b p).trans (part_modPHost_self ..)
    refine ⟨fun q => ?_, fun q => ?_, ?_, ?_, fun q x => ?_⟩
    · by_cases h : q = p
      · subst h; rw [self]
      · rw [other h]
    · by_cases h : q = p
      · subst h; rw [self]
      · rw [other h]
    · rw [State.interrupt]; split <;> rfl
    · rw [State.interrupt]
      split
      · exact List.Subset.refl _
      · exact List.subset_append_left ..
    · by_cases h : q = p
      · subst h
        rw [self, Vector.getElem?_set]
        split
        · exact .inr rfl
        · exact .inl rfl
      · rw [other h]; exact .inl rfl
  · exact .refl s

theorem wakePart_wakesOnly (s : State) (n : Nat) (c : Word) (p : Nat) : s.wakesOnly (s.wakePart n c p) :=
  List.foldlRecOn _ _ (.refl s) fun t h b _ => h.trans (wakeOne_wakesOnly t n c p b)

theorem wake_wakesOnly (s : State) (n : Nat) : s.wakesOnly (s.wake n) :=
  List.foldlRecOn _ _ (.refl s) fun t h p _ => h.trans (wakePart_wakesOnly t n _ p)

theorem binding_of_cfg {s t : State} {p : Nat} (h : (t.part p).cfg = (s.part p).cfg) (b : Nat) :
    t.binding p b = s.binding p b := by
  unfold State.binding; simp only [h]

/-- Binding b of p names gate n, whose counter has reached the threshold of the wake there, if one is armed. -/
structure State.wakeDue (s : State) (n : Nat) (c : Word) (p b : Nat) : Prop where
  valid : bindV (s.binding p b) = true
  module : bindMod (s.binding p b) = s.pf.modid.toNat
  gate : bindGate (s.binding p b) = n
  reached : ∀ h, (s.part p).host.hwake[b]? = some h → h.toNat ≤ c.toNat

theorem State.wakeDue.wakes {s t : State} {n p b : Nat} {c : Word} (h : s.wakeDue n c p b) (k : s.wakesOnly t) :
    t.wakeDue n c p b := by
  have e := binding_of_cfg (k.cfg p) b
  refine ⟨e ▸ h.valid, e ▸ k.pf ▸ h.module, e ▸ h.gate, fun x hx => ?_⟩
  rcases k.hwake p b with i | i
  · exact h.reached x (i ▸ hx)
  · rw [i, Option.some.injEq] at hx
    subst hx
    exact Nat.zero_le _

/-- A wake that has fired stays 0. -/
theorem State.wakesOnly.fired {s t : State} {p b : Nat} (k : s.wakesOnly t) (h : (s.part p).host.hwake[b]? = some 0) :
    (t.part p).host.hwake[b]? = some 0 := by
  rcases k.hwake p b with e | e
  · exact e.trans h
  · exact e

theorem wakeOne_fires {s : State} {n p b : Nat} {c : Word} (hb : b < 256) (h : s.wakeDue n c p b) :
    ((s.wakeOne n c p b).part p).host.hwake[b]? = some 0 := by
  have hm : b % 256 = b := Nat.mod_eq_of_lt hb
  obtain ⟨hv, hmod, hg, hr⟩ := h
  have hr := hr _ (Vector.getElem?_eq_getElem hb)
  unfold State.wakeOne
  simp only [hm, hv, hmod, hg, hr, BEq.rfl, decide_true, Bool.and_true]
  split
  · rw [interrupt_part, part_modPHost_self, Vector.getElem?_set, if_pos rfl]
  · next h0 => rw [Vector.getElem?_eq_getElem hb]; simpa using h0

/-- A step of a fold that brings about J, from a property I that every step keeps as it keeps J. -/
theorem foldl_reaches {σ α : Type} {f : σ → α → σ} {I J : σ → Prop} {l : List α} {a : α} (ha : a ∈ l)
    (hI : ∀ s x, I s → I (f s x)) (hJ : ∀ s x, J s → J (f s x)) (hf : ∀ s, I s → J (f s a)) {s : σ} (h : I s) :
    J (l.foldl f s) := by
  obtain ⟨l₁, l₂, rfl⟩ := List.append_of_mem ha
  rw [List.foldl_append, List.foldl_cons]
  exact List.foldlRecOn l₂ f (hf _ (List.foldlRecOn l₁ f h fun _ h x _ => hI _ x h)) fun _ h x _ => hJ _ x h

theorem wakePart_fires {s : State} {n p b : Nat} {c : Word} (hb : b < 256) (h : s.wakeDue n c p b) :
    ((s.wakePart n c p).part p).host.hwake[b]? = some 0 := by
  have hl : b ∈ List.range 256 := List.mem_range.2 hb
  rw [State.wakePart]
  generalize List.range 256 = l at hl ⊢
  exact foldl_reaches (I := fun t => t.wakeDue n c p b) (J := fun t => (t.part p).host.hwake[b]? = some 0) hl
    (fun t x h => h.wakes (wakeOne_wakesOnly t n c p x))
    (fun t x h => (wakeOne_wakesOnly t n c p x).fired h) (fun _ h => wakeOne_fires hb h) h

/-- Among the wakes of a gate is that of each binding of a listed partition. -/
theorem wake_fires {s : State} {n p b : Nat} (hp : p ∈ s.parts.map Prod.fst) (hb : b < 256)
    (h : s.wakeDue n (s.gate n).gcnt p b) : ((s.wake n).part p).host.hwake[b]? = some 0 := by
  rw [wake_eq]
  exact foldl_reaches (I := fun t => t.wakeDue n (s.gate n).gcnt p b) (J := fun t => (t.part p).host.hwake[b]? = some 0)
    hp (fun t x h => h.wakes (wakePart_wakesOnly t n _ x)) (fun t x h => (wakePart_wakesOnly t n _ x).fired h)
    (fun _ h => wakePart_fires hb h) h

/-! ### Bindings (R300) -/

/-- The bits of a word under a mask that has them all. -/
theorem bitsOf_and_mask (v m : Word) {lo n : Nat} (h : m.extractLsb' lo n = BitVec.allOnes n) :
    bitsOf (v &&& m).toNat lo n = bitsOf v.toNat lo n := by
  have e : ∀ x : Word, bitsOf x.toNat lo n = (x.extractLsb' lo n).toNat := fun x => by
    rw [bitsOf, BitVec.extractLsb'_toNat, Nat.shiftRight_eq_div_pow]
  rw [e, e, BitVec.extractLsb'_and, h, BitVec.and_allOnes]

/-- The writable bits of a binding hold its gate and its module. -/
theorem bindGate_masked (v : Word) : bindGate (v &&& 0xFFFFFFFF0007FFFF#64) = bindGate v := bitsOf_and_mask v _ (by decide)
theorem bindMod_masked (v : Word) : bindMod (v &&& 0xFFFFFFFF0007FFFF#64) = bindMod v := bitsOf_and_mask v _ (by decide)

/-- The configuration with its binding b written. -/
def PartCfg.withBinding (c : PartCfg) (b : Nat) (v : Word) : PartCfg :=
  { c with binds := c.binds.set (b % 256) (v &&& 0xFFFFFFFF0007FFFF#64) (Nat.mod_lt _ (by decide)) }

theorem binding_withBinding (s : State) (p : Nat) {b x : Nat} (hb : b < 256) (hx : x < 256) (v : Word) :
    (s.modCfg p fun c => c.withBinding b v).binding p x =
      if b = x then v &&& 0xFFFFFFFF0007FFFF#64 else s.binding p x := by
  unfold State.binding
  simp only [part_modCfg_self, PartCfg.withBinding, Vector.getElem_set, Nat.mod_eq_of_lt hb, Nat.mod_eq_of_lt hx]

/-- What a written binding wakes. -/
def State.wakeBound (s : State) (p b : Nat) : State :=
  if bindV (s.binding p b) && bindMod (s.binding p b) == s.pf.modid.toNat
      && (s.part p).host.hwake[b % 256]'(Nat.mod_lt _ (by decide)) != 0 then s.wake (bindGate (s.binding p b))
  else s

theorem writeBinding_eq (s : State) (port p b : Nat) (v : Word) :
    s.writeBinding port p b v = (s.rwl port p fun c => c.withBinding b v).wakeBound p b := rfl

theorem wakeBound_wakesOnly (s : State) (p b : Nat) : s.wakesOnly (s.wakeBound p b) := by
  unfold State.wakeBound
  split
  · exact wake_wakesOnly ..
  · exact .refl s

/-- An armed wake fires if the gate of its binding has the value already (R307). -/
theorem wakeBound_fires {s : State} {p b : Nat} (hp : p ∈ s.parts.map Prod.fst) (hb : b < 256)
    (armed : (s.part p).host.hwake[b]? ≠ some 0)
    (h : s.wakeDue (bindGate (s.binding p b)) (s.gate (bindGate (s.binding p b))).gcnt p b) :
    ((s.wakeBound p b).part p).host.hwake[b]? = some 0 := by
  have hm : b % 256 = b := Nat.mod_eq_of_lt hb
  rw [Vector.getElem?_eq_getElem hb, Ne, Option.some.injEq] at armed
  have armed : ((s.part p).host.hwake[b] != 0) = true := bne_iff_ne.2 armed
  have due : (bindV (s.binding p b) && bindMod (s.binding p b) == s.pf.modid.toNat
      && (s.part p).host.hwake[b % 256]'(Nat.mod_lt _ (by decide)) != 0) = true := by
    simp only [h.valid, h.module, hm, armed, BEq.rfl, Bool.and_true]
  unfold State.wakeBound
  rw [if_pos due]
  exact wake_fires hp hb h

/-! ### The plain registers -/

theorem exec_registerWrite (port : Nat) (r : RegName) (v : Word) (s : State) :
    exec (.registerWrite port r v) s = .next (s.writeRegister port r v) := by
  rfl

/-- An ACTION that is neither RESUME nor KILL writes the register alone (R320). -/
theorem writeDisposition_noAction (s : State) {k n : Nat} (hk : k < 40) (hn : n < 8) {v : BitVec 32}
    (hv : v.getLsbD 0 = v.getLsbD 1) : s.writeDisposition k n v = s.noteDisp k n (v &&& 0xFFFF01FF#32) := by
  have action : ∀ a : BitVec 2, a.getLsbD 0 = a.getLsbD 1 → a.toNat ≠ 1 ∧ a.toNat ≠ 2 := by decide
  obtain ⟨h1, h2⟩ := action (v.extractLsb' 0 2) (by simpa using hv)
  have h : ¬ (decide (40 ≤ k) || decide (8 ≤ n)) = true := by simp; omega
  rw [State.writeDisposition, if_neg h]
  split
  · next e => exact absurd e h1
  · next e => exact absurd e h2
  · rfl

theorem stand_modStand_self (s : State) (k : Nat) (f : Stand → Stand) : (s.modStand k f).stand k = f (s.stand k) :=
  tget_tput_self ..

/-- A vector's element after it has been written at the same index. -/
theorem getElem?_set_mod {α : Type} {m i : Nat} (xs : Vector α m) (v : α) (hi : i < m) (h : i % m < m) :
    (xs.set (i % m) v h)[i]? = some v := by
  rw [Vector.getElem?_set, if_pos (Nat.mod_eq_of_lt hi)]

/-! ### The statement's parts -/

/-- A word of PSPIN (R49). -/
theorem pspinWrite_unlocked (port p w : Nat) (v : Word) (s : State) (hp : p < 64) (hw : w < 5) (hl : s.locked p = false) :
    ∃ t, exec (.pspinWrite port p w v) s = .next t
      ∧ (∀ i, i < 320 → (t.part p).cfg.pspin.getLsbD i =
          if i / 64 = w then v.getLsbD (i % 64) && !(s.parts.any fun x => x.1 != p && x.2.cfg.pspin.getLsbD i)
          else (s.part p).cfg.pspin.getLsbD i)
      ∧ ∀ n, n < 320 → (s.part p).cfg.pspin.getLsbD n = true → (t.part p).cfg.pspin.getLsbD n = false →
          (s.ctxOf n).partN = p → (t.sp n).run = .empty := by
  have pspin : ((s.writePspin port p w v).part p).cfg.pspin = pspinWord (s.part p).cfg.pspin (s.pspinOthers p) w v := by
    rw [writePspin_unlocked port v hp hw hl, (keeps_foldl_leavesPart ..).cfg, part_modCfg_self]
  refine ⟨_, rfl, fun i hi => ?_, fun n hn had lost hctx => ?_⟩
  · rw [pspin, getLsbD_pspinWord _ _ _ _ hi, getLsbD_pspinOthers]
  · rw [pspin] at lost
    rw [writePspin_unlocked port v hp hw hl]
    refine foldl_leavesPart_run p (List.nodup_range.filter _) _ (List.mem_filter.2 ⟨List.mem_range.2 hn, ?_⟩) hctx
    rw [had, lost]; rfl

theorem foldl_add_eq_sum {α : Type} (f : α → Nat) (l : List α) : l.foldl (fun a x => a + f x) 0 = (l.map f).sum := by
  rw [List.sum_eq_foldl, List.foldl_map]

/-- A reservation is taken inside the sums of the memory classes (R295). -/
theorem reservationWrite_unlocked (port p : Nat) (v : Word) (s : State) (hp : p < 64) (hl : s.locked p = false) :
    let others := (s.parts.filter fun x => x.1 != p).map fun x => x.2.cfg
    let h := v.extractLsb' 0 16
    let x := v.extractLsb' 16 16
    let c := v.extractLsb' 32 16
    let fits := (others.map fun k => k.rhbm.toNat).sum + h.toNat ≤ 64000 ∧ (others.map fun k => k.rcxl.toNat).sum + x.toNat ≤ 2500
      ∧ (others.map fun k => k.rclu.toNat).sum + c.toNat ≤ 4000
    (fits → exec (.reservationWrite port p v) s = .next (s.modCfg p fun k => { k with rhbm := h, rcxl := x, rclu := c }))
    ∧ (¬ fits → exec (.reservationWrite port p v) s = .next { s with out := s.out ++ [.unsupported port] }) := by
  intro others h x c fits
  have sum (f : PartCfg → BitVec 16) : (s.parts.filter fun x => x.1 != p).foldl (fun a x => a + (f x.2.cfg).toNat) 0
      = (others.map fun k => (f k).toNat).sum := by
    rw [foldl_add_eq_sum, List.map_map]; rfl
  have write : s.writeReservation port p v =
      if ¬ fits then s.unsupported port else s.modCfg p fun k => { k with rhbm := h, rcxl := x, rclu := c } := by
    rw [State.writeReservation, if_neg (by omega), if_neg (by simp [hl])]
    simp only [sum]
    refine if_congr ?_ rfl rfl
    simp only [Bool.or_eq_true, decide_eq_true_eq, fits, h, x, c]
    omega
  constructor
  · intro hf
    exact congrArg Host.Outcome.next (write.trans (if_neg (not_not_intro hf)))
  · intro hf
    exact congrArg Host.Outcome.next (write.trans (if_pos hf))

/-- LSDOM is taken while every interface is unlocked (R405). -/
theorem lsdomWrite_spec (port : Nat) (v : Word) (s : State) :
    let md := v.extractLsb' 0 6
    let nm := v.extractLsb' 8 7
    let good := (∀ x ∈ s.parts, x.2.trust.state = .unlocked) ∧ 1 ≤ nm.toNat ∧ nm.toNat ≤ 64 ∧ md.toNat < nm.toNat
    (good → exec (.lsdomWrite port v) s = .next { s with pf := { s.pf with modid := md, nmod := nm } })
    ∧ (¬ good → exec (.lsdomWrite port v) s = .next { s with out := s.out ++ [.unsupported port] }) := by
  intro md nm good
  have write : s.writeLsdom port v = if ¬ good then s.unsupported port else { s with pf := { s.pf with modid := md, nmod := nm } } := by
    rw [State.writeLsdom]
    refine if_congr ?_ rfl rfl
    simp only [Bool.or_eq_true, List.any_eq_true, bne_iff_ne, decide_eq_true_eq, good, md, nm, not_and_or, not_forall,
      exists_prop, or_assoc, not_le, not_lt]
  constructor
  · intro hg
    exact congrArg Host.Outcome.next (write.trans (if_neg (not_not_intro hg)))
  · intro hg
    exact congrArg Host.Outcome.next (write.trans (if_pos hg))

/-- The write of a binding keeps what a write of its locked register has done, and fires an armed wake besides. -/
theorem writeBinding_wakesOnly (s : State) (port p b : Nat) (v : Word) :
    (s.rwl port p fun c => c.withBinding b v).wakesOnly (s.writeBinding port p b v) := by
  rw [writeBinding_eq]
  exact wakeBound_wakesOnly ..

/-- Every register of an interface that is locked or runs refuses its write (R373). -/
theorem lockedRegisters_refuse (port p w : Nat) (v : Word) (b : Nat) (s : State) (hp : p < 64) (hw : w < 5)
    (hs : s.sec.stage ≠ 0xF) (h : (s.part p).trust.state = .locked ∨ (s.part p).trust.state = .run) :
    ∀ i ∈ [Instr.pspinWrite port p w v, .reservationWrite port p v, .registerWrite port (.rootgraph p) v,
      .registerWrite port (.binding p b) v, .registerWrite port (.xlateRoot p) v, .registerWrite port (.clusterMap p b) v,
      .registerWrite port (.imgbase p) v, .registerWrite port (.imgcnt p) v],
      ∃ t, exec i s = .next t ∧ s.refusesLocked port p t := by
  have hl : s.locked p = true := locked_of_bound h
  have refused : s.refusesLocked port p (s.lockedWrite [p] port) := lockedWrite_refuses port h
  have rwl : ∀ f, s.refusesLocked port p (s.rwl port p f) := fun f => by rw [rwl_locked port f hp hl]; exact refused
  simp only [List.forall_mem_cons, List.not_mem_nil, false_implies, implies_true, and_true]
  refine ⟨⟨_, rfl, ?_⟩, ⟨_, rfl, ?_⟩, ⟨_, rfl, ?_⟩, ⟨_, rfl, (rwl _).wakes (writeBinding_wakesOnly s port p b v)⟩,
    ⟨_, rfl, rwl _⟩, ⟨_, rfl, rwl _⟩, ⟨_, rfl, rwl _⟩, ⟨_, rfl, rwl _⟩⟩
  · have hc : ¬ (decide (64 ≤ p) || decide (5 ≤ w)) = true := by simp; omega
    rw [State.writePspin, if_neg hc, if_pos hl]
    exact refused
  · rw [State.writeReservation, if_neg (by omega), if_pos hl]
    exact refused
  · rw [State.writeRegister, if_neg hs]
    exact rwl _

/-- A binding that is written, and the wake that is armed there (R300, R307). -/
theorem bindingWrite_unlocked (port p b : Nat) (v : Word) (s : State) (hp : p < 64) (hl : s.locked p = false) (hb : b < 256) :
    ∃ t, exec (.registerWrite port (.binding p b) v) s = .next t ∧ t.binding p b = v &&& 0xFFFFFFFF0007FFFF#64
      ∧ (∀ x, x < 256 → x ≠ b → t.binding p x = s.binding p x)
      ∧ ((s.part p).host.hwake[b]? ≠ some 0 → bindV (v &&& 0xFFFFFFFF0007FFFF#64) = true → bindMod v = s.pf.modid.toNat →
          (∀ h, (s.part p).host.hwake[b]? = some h → h.toNat ≤ (s.gate (bindGate v)).gcnt.toNat) →
          (t.part p).host.hwake[b]? = some 0) := by
  have write : s.writeBinding port p b v = (s.modCfg p fun c => c.withBinding b v).wakeBound p b := by
    rw [writeBinding_eq, rwl_unlocked port _ hp hl]
  have binding (x : Nat) : (s.writeBinding port p b v).binding p x = (s.modCfg p fun c => c.withBinding b v).binding p x := by
    rw [write]
    exact binding_of_cfg ((wakeBound_wakesOnly ..).cfg p) x
  have new : (s.modCfg p fun c => c.withBinding b v).binding p b = v &&& 0xFFFFFFFF0007FFFF#64 := by
    rw [binding_withBinding s p hb hb, if_pos rfl]
  have host : ((s.modCfg p fun c => c.withBinding b v).part p).host = (s.part p).host := by rw [part_modCfg_self]
  refine ⟨s.writeBinding port p b v, rfl, (binding b).trans new, fun x hx hne => ?_, fun armed hv hm hr => ?_⟩
  · rw [binding, binding_withBinding s p hb hx, if_neg hne.symm]
  · rw [write]
    refine wakeBound_fires (mem_keys_tput ..) hb (by rw [host]; exact armed) ⟨?_, ?_, rfl, ?_⟩
    · rw [new]; exact hv
    · rw [new, bindMod_masked]; exact hm
    · rw [host, new, bindGate_masked]; exact hr

/-- The registers of a partition that is not locked keep their writable fields (R7, R30, R300, R327, R339). -/
theorem partRegisters_unlocked (port p : Nat) (v : Word) (b : Nat) (s : State) (hp : p < 64) (hl : s.locked p = false) :
    let cfg := fun (r : RegName) (f : PartCfg → PartCfg) => exec (.registerWrite port r v) s = .next (s.modCfg p f)
    (s.sec.stage ≠ 0xF → cfg (.rootgraph p) (fun c => { c with rootgraph := v }))
    ∧ cfg (.xlateRoot p) (fun c => { c with en := v.getLsbD 0, root := v.extractLsb' 13 47 })
    ∧ cfg (.imgbase p) (fun c => { c with imgbase := v.extractLsb' 21 27 })
    ∧ cfg (.imgcnt p) (fun c => { c with imgcnt := v.setWidth 16, cutpriv := v.getLsbD 16 })
    ∧ (b < 64 → ∃ t, exec (.registerWrite port (.clusterMap p b) v) s = .next t
        ∧ (t.part p).cfg.cluster[b]? = some (v.setWidth 7)) := by
  intro cfg
  have taken (f : PartCfg → PartCfg) : Host.Outcome.next (s.rwl port p f) = .next (ρ := Refusal) (φ := Fault) (s.modCfg p f) :=
    congrArg _ (rwl_unlocked port f hp hl)
  refine ⟨fun hs => ?_, taken _, taken _, taken _, fun hb => ⟨_, taken _, ?_⟩⟩
  · refine Eq.trans ?_ (taken _)
    rw [exec_registerWrite, State.writeRegister, if_neg hs]
  · rw [part_modCfg_self]
    exact getElem?_set_mod _ _ hb (Nat.mod_lt b (by decide))

/-- DENIED and RATE are cleared by the port that holds the lease alone (R307). -/
theorem gateStatusWrite_spec (port p : Nat) (v : Word) (s : State) :
    (s.hostParty port p 0 = true → exec (.registerWrite port (.vfGateStatus p) v) s = .next (s.modPHost p fun h =>
        { h with denied := h.denied && !v.getLsbD 0, rate := h.rate && !v.getLsbD 1 }))
    ∧ (s.hostParty port p 0 = false →
        exec (.registerWrite port (.vfGateStatus p) v) s = .next { s with out := s.out ++ [.unsupported port] }) := by
  constructor <;> intro h
  · rw [exec_registerWrite, State.writeRegister, State.clearGateStatus, if_neg (by simp [h])]
  · rw [exec_registerWrite, State.writeRegister, State.clearGateStatus, if_pos (by simp [h])]
    rfl

/-- A disposition that asks for neither RESUME nor KILL changes no spindle (R320). -/
theorem dispositionWrite_noAction (port : Nat) {k n : Nat} (v : Word) (s : State) (hk : k < 40) (hn : n < 8)
    (hv : v.getLsbD 0 = v.getLsbD 1) :
    ∃ t, exec (.registerWrite port (.disposition k n) v) s = .next t
      ∧ (t.stand k).disp[n]? = some (v.setWidth 32 &&& 0xFFFF01FF#32) ∧ t.spindles = s.spindles := by
  have write : s.writeRegister port (.disposition k n) v = s.noteDisp k n (v.setWidth 32 &&& 0xFFFF01FF#32) :=
    writeDisposition_noAction s hk hn (by simpa using hv)
  refine ⟨_, rfl, ?_, ?_⟩
  · rw [write, State.noteDisp, stand_modStand_self]
    exact getElem?_set_mod _ _ hn (Nat.mod_lt n (by decide))
  · rw [write]
    exact modStand_spindles ..

/-- The other registers of a stand's block (R320). -/
theorem standRegisters_plain (port k n : Nat) (v : Word) (s : State) (hk : k < 40) :
    exec (.registerWrite port (.trqbase k) v) s = .next (s.modStand k fun st => { st with trqbase := v.extractLsb' 12 36 })
    ∧ (n < 8 → ∃ t, exec (.registerWrite port (.sret k n) v) s = .next t ∧ (t.stand k).sret[n]? = some v)
    ∧ (n < 8 → ∃ t, exec (.registerWrite port (.frzlim k n) v) s = .next t
        ∧ (t.stand k).frzlim[n]? = some (v.setWidth 32)) := by
  have hk : ¬ 40 ≤ k := by omega
  refine ⟨?_, fun hn => ⟨_, rfl, ?_⟩, fun hn => ⟨_, rfl, ?_⟩⟩
  · rw [exec_registerWrite, State.writeRegister, if_neg hk]
  · rw [State.writeRegister, if_neg hk, stand_modStand_self]
    exact getElem?_set_mod _ _ hn (Nat.mod_lt n (by decide))
  · rw [State.writeRegister, if_neg hk, stand_modStand_self]
    exact getElem?_set_mod _ _ hn (Nat.mod_lt n (by decide))

/-- The shedding table is written while no action is in force (R357). -/
theorem shedEntryWrite_spec (port n : Nat) (v : Word) (s : State) :
    (s.power.step = 0 → ∃ t, exec (.registerWrite port (.shedEntry n) v) s = .next t
        ∧ t.power.entry n = v.setWidth 13 &&& 0x1F7F#13)
    ∧ (s.power.step ≠ 0 → exec (.registerWrite port (.shedEntry n) v) s = .next s) := by
  refine ⟨fun h => ⟨_, rfl, ?_⟩, fun h => ?_⟩
  · rw [State.writeRegister, if_neg (by rw [h]; decide)]
    exact Vector.getElem_set_self _
  · rw [exec_registerWrite, State.writeRegister, if_pos (bne_iff_ne.2 h)]

end Sys2Proof.Machine

open Sys2Proof Sys2Proof.Machine

/-- Settles O52: a lemma for each register or kind of register. The kills of a PSPIN write concern their own spindles alone, and the
wakes of a written binding keep what its write has done. -/
theorem platformRegisters : Obligations.PlatformRegisters := by
  unfold Obligations.PlatformRegisters
  refine ⟨pspinWrite_unlocked, reservationWrite_unlocked, lsdomWrite_spec, ?_, ?_, ?_, ?_⟩
  · intro port p w v b s hp hw hs h i hi
    obtain ⟨t, ht, r⟩ := lockedRegisters_refuse port p w v b s hp hw hs h i hi
    exact ⟨t, ht, r.cfg, r.state, r.ecause, r.scrub, r.out⟩
  · intro port p v s hs
    rw [exec_registerWrite, State.writeRegister, if_pos hs]
    rfl
  · intro port p v b s hp hl
    obtain ⟨root, xlate, base, cnt, cluster⟩ := partRegisters_unlocked port p v b s hp hl
    exact ⟨root, xlate, base, cnt, bindingWrite_unlocked port p b v s hp hl, cluster⟩
  · intro port p k n v s
    obtain ⟨cleared, refused⟩ := gateStatusWrite_spec port p v s
    obtain ⟨shed, inForce⟩ := shedEntryWrite_spec port n v s
    have stand := standRegisters_plain port k n v s
    exact ⟨rfl, rfl, cleared, refused, fun hk hn hv => dispositionWrite_noAction port v s hk hn hv, fun hk => (stand hk).1,
      fun hk hn => (stand hk).2.1 hn, fun hk hn => (stand hk).2.2 hn, fun h _ => shed h, inForce, rfl, rfl, rfl⟩
end

section
/-!
PROOFS. What reset leaves (`Obligations.ResetState`).
-/

namespace Sys2Proof.Machine

/-- Every register of a context that no task has entered reads as zero. -/
theorem rx_default (r : BitVec 5) : ({} : Regs).rx r = 0 := by
  rw [Regs.rx]
  split
  · rfl
  · exact Vector.getElem_replicate ..

theorem ry_default (r : BitVec 5) : ({} : Regs).ry r = 0 := by
  rw [Regs.ry]
  split
  · rfl
  · exact Vector.getElem_replicate ..

/-- Of its predicates, p0 alone reads as true. -/
theorem rp_default (p : BitVec 3) : ({} : Regs).rp p = (p == 0) := by
  have zero : (Vector.replicate 8 false)[p.toNat] = false := Vector.getElem_replicate ..
  rw [Regs.rp, zero, Bool.or_false]

/-- Every barrier of a partition that has none is open in phase 0. -/
theorem barrier_default (b : Nat) : State.reset.barrier p b = {} := Vector.getElem_replicate ..

theorem frzlim_reset (d n : Nat) (hn : n < 8) : (State.reset.stand d).frzlim[n]? = some 0x01000000#32 :=
  Vector.getElem?_replicate_of_lt hn

end Sys2Proof.Machine

open Sys2Proof Sys2Proof.Machine

/-- Settles O42: the tables are empty, so every spindle, stand, gate and partition has the values that its record begins with. -/
theorem resetState : Obligations.ResetState := by
  unfold Obligations.ResetState
  have context : ∀ n, (State.reset.sp n).run = .empty ∧ State.reset.ctxOf n = {} := fun n => ⟨rfl, rfl⟩
  refine ⟨fun n => ?_, ?_⟩
  · obtain ⟨run, ctx⟩ := context n
    rw [ctx]
    exact ⟨run, rfl, rfl, rfl, rfl, rfl, fun r => ⟨rx_default r, ry_default r⟩, rp_default⟩
  -- the registers of the module's own units, which are fields of the state
  iterate 29 refine ⟨rfl, ?_⟩
  refine ⟨fun g => ⟨rfl, rfl⟩, ?_, frzlim_reset, fun p => ⟨rfl, rfl⟩, reset_mem_wf⟩
  · intro p b
    rw [barrier_default]
    exact ⟨rfl, rfl⟩
end

section
/-!
PROOFS. Translation units, invalidations and code tags (`Obligations.SupplyEvents`).
-/

namespace Sys2Proof.Machine

/-! ### Walks (R328) -/

theorem exec_translationWalkComplete (die p o : Nat) (s : State) :
    exec (.translationWalkComplete die p o) s = .next (s.walkDone die p o) := rfl

/-- A walk that finds a leaf of the partition itself fills the unit. -/
theorem walkDone_leaf {die p o : Nat} {w : Walk} {s : State} {l : Leaf}
    (asked : (s.walks.find? fun w => w.die == die && w.part == p && w.off == o / 65536 * 65536 && !w.failed) = some w)
    (found : s.walk p (o / 65536 * 65536) = some l) (own : leafSHP l.entry = false) :
    s.walkDone die p o = { s with
      walks := s.walks.filter fun x => x != w
      held := s.held ++ [{ die := die, part := p, base := l.base, size := l.size, entry := l.entry, pinned := false }] } := by
  simp only [State.walkDone, asked, found, own, Bool.false_eq_true, if_false]

/-- A walk that finds no leaf, or a shared one, fails. -/
theorem walkDone_fails {die p o : Nat} {w : Walk} {s : State}
    (asked : (s.walks.find? fun w => w.die == die && w.part == p && w.off == o / 65536 * 65536 && !w.failed) = some w)
    (missing : s.walk p (o / 65536 * 65536) = none ∨ ∃ l, s.walk p (o / 65536 * 65536) = some l ∧ leafSHP l.entry = true) :
    s.walkDone die p o = { s with walks := s.walks.map fun x => if x == w then { x with failed := true } else x } := by
  rcases missing with missing | ⟨l, found, shared⟩
  · simp only [State.walkDone, asked, missing]
  · simp only [State.walkDone, asked, found, shared, if_true]

/-- With no walk asked for, the unpinned translations of the byte are dropped (log 6, DESIGN CHOICE). -/
theorem walkDone_drops {die p o : Nat} {s : State}
    (asked : (s.walks.find? fun w => w.die == die && w.part == p && w.off == o / 65536 * 65536 && !w.failed) = none) :
    s.walkDone die p o = { s with held := s.held.filter fun h =>
      h.pinned || !(h.die == die && h.part == p && decide (h.base ≤ o) && decide (o < h.base + h.size)) } := by
  simp only [State.walkDone, asked]

theorem walkDone_drops_spec {die p o : Nat} {s : State}
    (asked : (s.walks.find? fun w => w.die == die && w.part == p && w.off == o / 65536 * 65536 && !w.failed) = none) :
    ∃ t, exec (.translationWalkComplete die p o) s = .next t ∧ t = { s with held := t.held }
      ∧ ∀ h, h ∈ t.held ↔ h ∈ s.held ∧ (h.pinned = true ∨ h.die ≠ die ∨ h.part ≠ p ∨ o < h.base ∨ h.base + h.size ≤ o) := by
  refine ⟨_, exec_translationWalkComplete .., ?_, fun h => ?_⟩
  · rw [walkDone_drops asked]
  · have kept : (h.pinned || !(h.die == die && h.part == p && decide (h.base ≤ o) && decide (o < h.base + h.size))) = true
        ↔ h.pinned = true ∨ h.die ≠ die ∨ h.part ≠ p ∨ o < h.base ∨ h.base + h.size ≤ o := by
      simp only [Bool.or_eq_true, Bool.not_eq_true', Bool.and_eq_false_iff, beq_eq_false_iff_ne, decide_eq_false_iff_not,
        Nat.not_le, Nat.not_lt, or_assoc]
    rw [walkDone_drops asked, List.mem_filter, kept]

/-! ### Invalidations (R329, R332) -/

theorem xinvWrite_spec {p : Nat} (s : State) (hp : p < 64) :
    ∃ t, exec (.xinvWrite p true) s = .next t ∧ (t.part p).host.xinv = true
      ∧ t.held = s.held ∧ s.sameMem t ∧ ∀ n, t.ctxOf n = s.ctxOf n := by
  have started : s.startInvalidation p true = s.modPHost p fun h => { h with xinv := true } := by
    rw [State.startInvalidation, if_pos (by simpa using hp)]
  refine ⟨_, rfl, ?_, ?_⟩ <;> rw [started]
  · rw [part_modPHost_self]
  · exact ⟨rfl, fun _ => rfl, fun _ => rfl⟩

/-- A pinned leaf of partition p as the unit of a die holds it. -/
def pinnedOn (p die : Nat) (l : LeafAt) : Held :=
  { die := die, part := p, base := l.base, size := l.size, entry := l.entry, pinned := true }

/-- More translations are held. -/
def State.addHeld (s : State) (new : List Held) : State := { s with held := s.held ++ new }

/-- The unit of a die takes as many pinned leaves as it has room for (R329). -/
def loadDie (p : Nat) (pins : List LeafAt) (x : State × Bool) (die : Nat) : State × Bool :=
  let room := 1024 - x.1.held.countP fun h => h.die == die && h.pinned
  (x.1.addHeld ((pins.take room).map (pinnedOn p die)), x.2 || decide (room < pins.length))

/-- The pinned leaves of a partition's table. -/
def State.pinLeaves (s : State) (p : Nat) : List LeafAt := (s.leaves p).filter fun l => leafPIN l.entry

/-- No unit holds a translation of a partition. -/
def State.dropHeld (s : State) (p : Nat) : State := { s with held := s.held.filter fun h => h.part != p }

/-- No walk of a partition is under way. -/
def State.dropWalks (s : State) (p : Nat) : State := { s with walks := s.walks.filter fun w => w.part != p }

/-- The units of a partition's dies with its pinned leaves loaded. -/
def State.pinsLoaded (s : State) (p : Nat) : State × Bool :=
  (s.diesOf p).foldl (loadDie p (s.pinLeaves p)) (s.dropHeld p, false)

/-- The loading of pinned leaves, in the terms of the definitions above. -/
theorem loadPins_eq (s : State) (p : Nat) : s.loadPins p = (s.pinsLoaded p).1.modPHost p fun h => { h with
    pinned := BitVec.ofNat 16 ((s.pinsLoaded p).1.held.countP fun x => x.part == p && x.pinned)
    pinfull := (s.pinsLoaded p).2 } := rfl

/-- The units take pinned leaves, and nothing else changes. -/
theorem loadDies_held (p : Nat) (pins : List LeafAt) (dies : List Nat) (x : State × Bool) :
    ∃ new : List Held, (dies.foldl (loadDie p pins) x).1 = x.1.addHeld new
      ∧ ∀ h ∈ new, ∃ die, ∃ l ∈ pins, h = pinnedOn p die l := by
  induction dies generalizing x with
  | nil => exact ⟨[], by rw [State.addHeld, List.append_nil, List.foldl_nil], fun h hh => absurd hh List.not_mem_nil⟩
  | cons die dies ih =>
    obtain ⟨new, loaded, pinned⟩ := ih (loadDie p pins x die)
    obtain ⟨first, taken, mine⟩ : ∃ first, (loadDie p pins x die).1 = x.1.addHeld first
        ∧ ∀ h ∈ first, ∃ l ∈ pins, h = pinnedOn p die l :=
      ⟨_, rfl, fun h hh => by
        obtain ⟨l, hl, rfl⟩ := List.mem_map.1 hh
        exact ⟨l, List.mem_of_mem_take hl, rfl⟩⟩
    refine ⟨first ++ new, ?_, fun h hh => ?_⟩
    · rw [List.foldl_cons, loaded, taken, State.addHeld, State.addHeld, State.addHeld, List.append_assoc]
    · rcases List.mem_append.1 hh with hh | hh
      · exact ⟨die, mine h hh⟩
      · exact pinned h hh

/-- Whether an access that a table translated is under way to memory, so that an invalidation waits for it. -/
def State.oldAccess (s : State) (p : Nat) : Bool :=
  s.msgs.any fun m => s.translatedBy p m && m.isGoing && (match m.loc with | .phys _ | .host _ => true | _ => false)
    && (match m.op with | .load .. | .store _ | .atomic _ => true | _ => false)

theorem invalidated_eq (s : State) (p : Nat) : s.invalidated p =
    if !(s.part p).host.xinv || s.oldAccess p then s
    else ((s.dropWalks p).loadPins p).modPHost p fun h => { h with xinv := false } :=
  rfl

theorem oldAccess_none {s : State} {p : Nat} (h : ∀ m ∈ s.msgs, s.translatedBy p m = true → m.isGoing = true →
    (∀ pa, m.loc ≠ .phys pa) ∧ (∀ a, m.loc ≠ .host a)) : s.oldAccess p = false := by
  rw [State.oldAccess, List.any_eq_false]
  intro m hm
  cases translated : s.translatedBy p m with
  | false => simp
  | true =>
    cases going : m.isGoing with
    | false => simp
    | true =>
      obtain ⟨phys, host⟩ := h m hm translated going
      cases loc : m.loc with
      | phys pa => exact absurd loc (phys pa)
      | host a => exact absurd loc (host a)
      | slice n off => simp
      | far k off => simp

theorem oldAccess_load {s : State} {p : Nat} {m : Msg} (hm : m ∈ s.msgs) (translated : s.translatedBy p m = true)
    (going : m.isGoing = true) (load : ∃ op len, m.op = .load op len) (phys : ∃ pa, m.loc = .phys pa) : s.oldAccess p = true := by
  obtain ⟨op, len, hop⟩ := load
  obtain ⟨pa, hloc⟩ := phys
  rw [State.oldAccess, List.any_eq_true]
  exact ⟨m, hm, by rw [translated, going, hop, hloc]; rfl⟩

/-- A completed invalidation leaves pinned leaves of the present table alone, and no walk (R329, R332). -/
theorem invalidationComplete_spec {s : State} {p : Nat} (xinv : (s.part p).host.xinv = true) (applied : s.oldAccess p = false) :
    ∃ t, exec (.invalidationComplete p) s = .next t ∧ (t.part p).host.xinv = false ∧ s.sameMem t
      ∧ (∀ w ∈ t.walks, w.part ≠ p) ∧ (∀ h ∈ t.held, h.part = p → h.pinned = true
          ∧ ∃ l ∈ s.leaves p, l.base = h.base ∧ l.size = h.size ∧ l.entry = h.entry ∧ leafPIN l.entry = true)
      ∧ (∀ h, h.part ≠ p → (h ∈ t.held ↔ h ∈ s.held)) := by
  obtain ⟨new, loaded, pinned⟩ := loadDies_held p ((s.dropWalks p).pinLeaves p) ((s.dropWalks p).diesOf p)
    ((s.dropWalks p).dropHeld p, false)
  obtain ⟨f, ended⟩ : ∃ f, s.invalidated p =
      ((((s.dropWalks p).dropHeld p).addHeld new).modPHost p f).modPHost p fun h => { h with xinv := false } := by
    rw [invalidated_eq, if_neg (by simp [xinv, applied]), loadPins_eq, State.pinsLoaded, loaded]
    exact ⟨_, rfl⟩
  have held : (s.invalidated p).held = (s.held.filter fun h => h.part != p) ++ new := by rw [ended]; rfl
  have ours : ∀ h ∈ new, h.part = p := fun h hh => by
    obtain ⟨_, _, _, rfl⟩ := pinned h hh
    rfl
  refine ⟨_, rfl, ?_, ?_, fun w hw => ?_, fun h hh hp => ?_, fun h hp => ?_⟩
  · rw [ended, part_modPHost_self]
  · rw [ended]
    exact fun _ => rfl
  · rw [ended] at hw
    exact bne_iff_ne.1 (List.mem_filter.1 hw).2
  · rw [held] at hh
    rcases List.mem_append.1 hh with hh | hh
    · exact absurd hp (bne_iff_ne.1 (List.mem_filter.1 hh).2)
    · obtain ⟨die, l, hl, rfl⟩ := pinned h hh
      obtain ⟨leaf, pin⟩ := List.mem_filter.1 hl
      exact ⟨rfl, l, leaf, rfl, rfl, rfl, pin⟩
  · rw [held, List.mem_append, List.mem_filter, bne_iff_ne]
    exact ⟨fun hh => hh.elim (fun x => x.1) fun x => absurd (ours h x) hp, fun hh => .inl ⟨hh, hp⟩⟩

/-! ### Code tags (R20, R22) -/

theorem mem_insN_self (k : Nat) (l : List Nat) : k ∈ insN k l := by
  induction l with
  | nil => simp [insN]
  | cons j t ih =>
    rw [insN]
    split
    · exact List.mem_cons_self
    · split
      · next e => exact e ▸ List.mem_cons_self
      · exact List.mem_cons_of_mem _ ih

/-- An update of a spindle that keeps its context. -/
theorem ctxOf_modSp (s : State) (n m : Nat) {f : Spindle → Spindle} (hf : ∀ x, (f x).ctx = x.ctx) :
    (s.modSp n f).ctxOf m = s.ctxOf m := by
  by_cases e : m = n
  · subst e
    rw [State.ctxOf, sp_modSp, hf]
    rfl
  · rw [State.ctxOf, sp_modSp_ne _ e]
    rfl

/-- An update of a spindle that keeps the number of its segment. -/
theorem segOf_modSp (s : State) (n m : Nat) {f : Spindle → Spindle} (hf : ∀ x, (f x).seg = x.seg) :
    (s.modSp n f).segOf m = s.segOf m := by
  have seg : ((s.modSp n f).sp m).seg = (s.sp m).seg := by
    by_cases e : m = n
    · subst e
      rw [sp_modSp, hf]
    · rw [sp_modSp_ne _ e]
  rw [State.segOf, seg]
  rfl

/-- An update of the segments of a stand that keeps their numbers. -/
theorem segOf_mapSegs {s : State} {n : Nat} {g : Segment} {f : Segment → Segment} (hf : ∀ x, (f x).id = x.id)
    (hg : s.segOf n = some g) :
    (s.modStand (standOf n) fun st => { st with segs := st.segs.map f }).segOf n = some (f g) := by
  rw [State.segOf, stand_modStand_self, List.find?_map]
  simp only [Function.comp_def, hf, modStand_sp]
  exact congrArg (Option.map f) hg

/-- A segment of number i with a block verified; others stay. -/
def Segment.verify (i b : Nat) (x : Segment) : Segment := if x.id == i then { x with verified := insN b x.verified } else x

theorem verify_id (i b : Nat) (x : Segment) : (x.verify i b).id = x.id := by
  rw [Segment.verify]
  split <;> rfl

/-- A block that is not being fetched is not checked. -/
theorem checkTag_unfetched {n b : Nat} {g : Segment} {s : State} (hg : s.segOf n = some g) (h : b ∉ s.fetching n) :
    s.checkTag n b = s := by
  simp only [State.checkTag, hg]
  rw [if_pos (by simpa using h)]

/-- A right tag verifies the block. -/
theorem checkTag_right {n b : Nat} {g : Segment} {s : State} (hg : s.segOf n = some g) (h : b ∈ s.fetching n)
    (right : s.tagRight g b = true) : s.checkTag n b =
      (s.modStand (standOf n) fun st => { st with segs := st.segs.map (Segment.verify g.id b) }).modSp n fun sp =>
        { sp with recheck := sp.recheck.filter (· != b) } := by
  simp only [State.checkTag, hg]
  rw [if_neg (by simpa using h), if_pos right]
  rfl

/-- With a wrong tag, a pending notice is raised first (R311). -/
theorem checkTag_notice {n b : Nat} {g : Segment} {s : State} {x : Notice} {r : List Notice} (hg : s.segOf n = some g)
    (h : b ∈ s.fetching n) (wrong : s.tagRight g b = false) (plain : (s.ctxOf n).ctl.hmode = false)
    (pending : pickNotice (s.ctxOf n).notices = some (x, r)) :
    s.checkTag n b = s.raiseNotice n (x.trap ((s.ctxOf n).pc.setWidth 16)) := by
  simp only [State.checkTag, hg]
  rw [if_neg (by simpa using h), if_neg (by simp [wrong])]
  simp only [plain, Bool.false_eq_true, if_false, pending]

/-- With a wrong tag and no notice to raise, FETCHAUTH is raised at the block's first word of the bundle. -/
theorem checkTag_wrong {n b : Nat} {g : Segment} {s : State} (hg : s.segOf n = some g) (h : b ∈ s.fetching n)
    (wrong : s.tagRight g b = false) (silent : (s.ctxOf n).ctl.hmode = true ∨ (s.ctxOf n).notices = []) :
    s.checkTag n b = (s.unfuse n).takeTrap n
      { code := tFETCHAUTH, slot := 7, val := (s.codeWord n (max (s.ctxOf n).pc.toNat (256 * b))).setWidth 64
        epc := (s.ctxOf n).pc.setWidth 16 } := by
  simp only [State.checkTag, hg]
  rw [if_neg (by simpa using h), if_neg (by simp [wrong])]
  rcases silent with handler | clear
  · simp only [handler, if_true]
  · simp only [clear, pickNotice, ite_self]

/-- The verified block stands in the segment from which the spindle fetches, whose words stay. -/
theorem codeTagCheck_right {n b : Nat} {g : Segment} {s : State} (hg : s.segOf n = some g) (h : b ∈ s.fetching n)
    (right : s.tagRight g b = true) :
    ∃ t, exec (.codeTagCheck n b) s = .next t ∧ s.sameMem t ∧ (∀ m, t.ctxOf m = s.ctxOf m)
      ∧ ∃ g', t.segOf n = some g' ∧ b ∈ g'.verified ∧ g'.code = g.code ∧ g'.heads = g.heads := by
  have verified : g.verify g.id b = { g with verified := insN b g.verified } := if_pos (beq_self_eq_true _)
  refine ⟨_, rfl, ?_, fun m => ?_, { g with verified := insN b g.verified }, ?_, mem_insN_self b g.verified, rfl, rfl⟩ <;>
    rw [checkTag_right hg h right]
  · exact fun _ => rfl
  · rw [ctxOf_modSp]
    · rfl
    · exact fun _ => rfl
  · rw [segOf_modSp, segOf_mapSegs (verify_id g.id b) hg, verified]
    exact fun _ => rfl

end Sys2Proof.Machine
open Sys2Proof Sys2Proof.Machine

/-- Settles O48: the outcomes of a walk, of an invalidation and of the check of a code block, one lemma for each. -/
theorem supplyEvents : Obligations.SupplyEvents := by
  unfold Obligations.SupplyEvents
  refine ⟨fun die p o w s asked => ⟨fun l found own => ?_, fun missing => ?_⟩, fun die p o s asked => walkDone_drops_spec asked,
    fun p s hp => xinvWrite_spec s hp, fun p s xinv => ⟨fun h => invalidationComplete_spec xinv (oldAccess_none h),
      fun m hm translated going load phys => ?_⟩, fun n b g s hg => ⟨fun h => ?_, fun h => ⟨codeTagCheck_right hg h, ?_, ?_⟩⟩⟩
  · rw [exec_translationWalkComplete, walkDone_leaf asked found own]
  · rw [exec_translationWalkComplete, walkDone_fails asked missing]
  · have waits := oldAccess_load hm translated going load phys
    show Host.Outcome.next (s.invalidated p) = _
    rw [invalidated_eq, if_pos (by simp [waits])]
  · exact congrArg Host.Outcome.next (checkTag_unfetched hg h)
  · exact fun wrong plain x r pending => congrArg Host.Outcome.next (checkTag_notice hg h wrong plain pending)
  · exact fun wrong silent => congrArg Host.Outcome.next (checkTag_wrong hg h wrong silent)
end

section
/-!
PROOFS. The commit of scheduler transactions, and cuts (`Obligations.TransactionEvents`).
-/

namespace Sys2Proof.Machine

/-! ### The end of a transaction (R37, R46) -/

theorem modCtx_congr {s : State} {n : Nat} {f g : Ctx → Ctx} (h : f (s.ctxOf n) = g (s.ctxOf n)) : s.modCtx n f = s.modCtx n g := by
  rw [State.modCtx, State.modCtx, State.modSp, State.modSp]
  exact congrArg (fun c => s.setSp n { s.sp n with ctx := c }) h

theorem modCtxId_resident {s : State} {ctx n : Nat} (p : Nat) (f : Ctx → Ctx) (hw : s.whereIs ctx = some n) :
    s.modCtxId p ctx f = s.modCtx n f := by
  simp only [State.modCtxId, hw]

/-- A value ends the wait of a resident task in its register. -/
theorem txValue_resident {s : State} {ctx n : Nat} {rd : BitVec 5} (p : Nat) (v : Word) (hw : s.whereIs ctx = some n)
    (waits : (s.ctxOf n).tx = .waiting rd) :
    s.txValue p ctx v = s.modCtx n fun c => { c with regs := c.regs.wx rd v, tx := .idle } := by
  rw [State.txValue, modCtxId_resident p _ hw]
  refine modCtx_congr ?_
  simp only [waits]

theorem txError_resident {s : State} {ctx n : Nat} (p : Nat) (x : Word) (hw : s.whereIs ctx = some n) :
    s.txError p ctx x = s.modCtx n fun c => { c with
      tx := .idle
      notices := c.notices ++ [{ code := tMEMERR, slot := 0, val := c.unshared x, epc := some (c.pc.setWidth 16), at_ := s.gcyc }] } :=
  modCtxId_resident p _ hw

@[simp] theorem txValue_cuts (s : State) (p ctx : Nat) (v : Word) : (s.txValue p ctx v).cuts = s.cuts := by
  rw [State.txValue, State.modCtxId]
  split <;> rfl

@[simp] theorem dropTx_whereIs (s : State) (p : Nat) (t : Tx) (ctx : Nat) : (s.dropTx p t).whereIs ctx = s.whereIs ctx := rfl

/-- A transaction leaves the queue with a value for its task. -/
def State.endTx (s : State) (p : Nat) (t : Tx) (v : Word) : State := (s.dropTx p t).txValue p t.ctx v

/-! ### TJOIN (R40, R41) -/

/-- The answer to a join of a task on a spindle: its die acquires what the graph's tasks released (R265). -/
theorem txReply_join {s : State} {p n : Nat} {t : Tx} {h : Word} (kind : t.kind = .join h) (hw : s.whereIs t.ctx = some n)
    (v : Word) (clock : List Nat) : s.txReply p t v clock =
      (if clock = [] then s.dropTx p t else (s.dropTx p t).mergeClock (dieOf n) clock).txValue p t.ctx v := by
  simp only [State.txReply, kind, dropTx_whereIs, hw, List.isEmpty_iff]

/-- The answer to a poll goes to its message. -/
theorem txReply_poll {s : State} {p m : Nat} {t : Tx} {h : Word} (kind : t.kind = .poll h m) (v : Word) (clock : List Nat) :
    s.txReply p t v clock = (s.dropTx p t).answer m v 0 [] 0 clock := by
  simp only [State.txReply, kind]

theorem txJoin_dead {s : State} {p h : Nat} (t : Tx) (dead : s.liveHandle p h = none) :
    s.txJoin p t h = s.txReply p t 0xFFFFFFFFFFFFFFFF := by
  simp only [State.txJoin, dead]

/-- A poll of a graph without a final status. -/
theorem txJoin_running {s : State} {p h m : Nat} {g : Graph} {t : Tx} {w : Word} (live : s.liveHandle p h = some g)
    (status : g.status = 0) (kind : t.kind = .poll w m) : s.txJoin p t h = s.txReply p t 0 := by
  simp only [State.txJoin, live, status, if_true, kind]

/-- Whether a queued join or poll can be answered: a task that waits is on a spindle. -/
def State.answerable (s : State) (x : Tx) : Bool :=
  match x.kind with
  | .poll .. => true
  | _ => (s.txCtx x).isSome

/-- A final status goes to all that ask for it, and the handle is free. -/
theorem txJoin_final {s : State} {p h : Nat} {g : Graph} (t : Tx) (live : s.liveHandle p h = some g) (status : g.status ≠ 0) :
    s.txJoin p t h = (((s.part p).sched.txq.filter fun x => x.kind.handle == some h && s.answerable x).foldl
      (fun s x => s.txReply p x (g.status.setWidth 64) g.endClock) s).modSched p fun d => { d with graphs := tdel h d.graphs } := by
  simp only [State.txJoin, live, if_neg status]
  rfl

/-- The same when one transaction alone asks for it. -/
theorem txJoin_alone {s : State} {p h : Nat} {g : Graph} {t : Tx} (live : s.liveHandle p h = some g) (status : g.status ≠ 0)
    (alone : ((s.part p).sched.txq.filter fun x => x.kind.handle == some h) = [t]) (asks : s.answerable t = true) :
    s.txJoin p t h = (s.txReply p t (g.status.setWidth 64) g.endClock).modSched p fun d => { d with graphs := tdel h d.graphs } := by
  have all : ((s.part p).sched.txq.filter fun x => x.kind.handle == some h && s.answerable x) = [t] := by
    simp only [Bool.and_comm _ (s.answerable _)]
    rw [← List.filter_filter, alone, List.filter_cons_of_pos asks, List.filter_nil]
  rw [txJoin_final t live status, all]
  rfl

/-! ### Transactions that read a record (R42 to R45, R338) -/

/-- A transaction with a record at an address: `bad` is its value when the record cannot be named or translated. -/
def State.onRecord (s : State) (p : Nat) (t : Tx) (a : Word) (bad : Word) (ok : List Byte → State → State) : State :=
  if !s.recordAddr p a then s.endTx p t bad
  else
    match s.readRecord p a.toNat 64 with
    | (.wait, s) => s
    | (.unmapped, s) => s.endTx p t bad
    | (.err x _, s) => (s.dropTx p t).txError p t.ctx x
    | (.ok b, s) => ok b s

/-- An admission with its record read (R42 to R44). -/
def admitRecord (p : Nat) (t : Tx) (a : Word) (b : List Byte) (s : State) : State :=
  let k := contractOf a b
  if !contractOk b || fieldAt b 0x20 4 != 0 || decide (k.first < s.gcyc) then s.endTx p t 3
  else if (s.psns p).length < k.spindles then s.endTx p t 2
  else
    let ns := (s.psns p).filter (s.passes p k)
    if ns.length < k.spindles then s.endTx p t 1
    else
      let k := { k with bound := ns.take k.spindles }
      ((s.modSched p fun d => { d with contracts := d.contracts ++ [k] }).writeContract p k 1).endTx p t 0

/-- A withdrawal with its record read (R45). -/
def withdrawRecord (p : Nat) (t : Tx) (a : Word) (b : List Byte) (s : State) : State :=
  if !reservedZero b || fieldAt b 0x20 4 != 1 then s.endTx p t 3
  else ((s.writeRecord p a 0x20 (bytesLE 3 4)).revoke p a.toNat).endTx p t 0

/-- A cut with its descriptor read (R338). -/
def cutRecord (p : Nat) (t : Tx) (b : List Byte) (s : State) : State :=
  let m := maskBits b
  if !cutOk b || m.isEmpty || m.any fun i => decide ((s.psns p).length ≤ i) then s.endTx p t 2
  else
    let ns := m.filterMap (s.physOf p)
    let st := s.cutStatus [p] (fieldAt b 0 8) (fieldAt b 8 1) ns
    let s := s.endTx p t (BitVec.ofNat 64 st)
    if st = 0 then { s with cuts := s.cuts ++ [{ c := fieldAt b 0 8, kind := fieldAt b 8 1, spins := ns, why := 1 }] } else s

theorem txAdmit_eq (s : State) (p : Nat) (t : Tx) (c : Ctx) (a : Word) :
    s.txAdmit p t c a = s.onRecord p t (c.shared a) 3 (admitRecord p t (c.shared a)) := rfl

theorem txWithdraw_eq (s : State) (p : Nat) (t : Tx) (c : Ctx) (a : Word) :
    s.txWithdraw p t c a = s.onRecord p t (c.shared a) 3 (withdrawRecord p t (c.shared a)) := rfl

theorem txCut_eq (s : State) (p : Nat) (t : Tx) (c : Ctx) (a : Word) :
    s.txCut p t c a = s.onRecord p t (c.shared a) 2 (cutRecord p t) := rfl

section Record
variable {s u : State} {p : Nat} {t : Tx} {a bad : Word} {ok : List Byte → State → State}

theorem onRecord_misplaced (h : s.recordAddr p a = false) : s.onRecord p t a bad ok = s.endTx p t bad := by
  rw [State.onRecord, if_pos (by rw [h]; rfl)]

theorem onRecord_unmapped (ha : s.recordAddr p a = true) (h : s.readRecord p a.toNat 64 = (.unmapped, u)) :
    s.onRecord p t a bad ok = u.endTx p t bad := by
  simp only [State.onRecord, ha, Bool.not_true, Bool.false_eq_true, if_false, h]

theorem onRecord_err {x : Word} {k : Option Nat} (ha : s.recordAddr p a = true) (h : s.readRecord p a.toNat 64 = (.err x k, u)) :
    s.onRecord p t a bad ok = (u.dropTx p t).txError p t.ctx x := by
  simp only [State.onRecord, ha, Bool.not_true, Bool.false_eq_true, if_false, h]

theorem onRecord_ok {b : List Byte} (ha : s.recordAddr p a = true) (h : s.readRecord p a.toNat 64 = (.ok b, u)) :
    s.onRecord p t a bad ok = ok b u := by
  simp only [State.onRecord, ha, Bool.not_true, Bool.false_eq_true, if_false, h]

end Record

/-- The result of an admission by its tests (R42, R43). -/
theorem admitRecord_spec (p : Nat) (t : Tx) (a : Word) (b : List Byte) (s : State) :
    let k := contractOf a b
    let ns := (s.psns p).filter (s.passes p k)
    let bad := contractOk b = false ∨ fieldAt b 0x20 4 ≠ 0 ∨ k.first < s.gcyc
    (bad → admitRecord p t a b s = s.endTx p t 3)
    ∧ (¬ bad → (s.psns p).length < k.spindles → admitRecord p t a b s = s.endTx p t 2)
    ∧ (¬ bad → k.spindles ≤ (s.psns p).length → ns.length < k.spindles → admitRecord p t a b s = s.endTx p t 1)
    ∧ (¬ bad → k.spindles ≤ (s.psns p).length → k.spindles ≤ ns.length →
        let k' := { k with bound := ns.take k.spindles }
        admitRecord p t a b s =
          ((s.modSched p fun d => { d with contracts := d.contracts ++ [k'] }).writeContract p k' 1).endTx p t 0) := by
  intro k ns bad
  have test : (!contractOk b || fieldAt b 0x20 4 != 0 || decide (k.first < s.gcyc)) = true ↔ bad := by
    simp only [bad, Bool.or_eq_true, Bool.not_eq_true', bne_iff_ne, decide_eq_true_eq, or_assoc]
  refine ⟨fun h => ?_, fun h few => ?_, fun h enough few => ?_, fun h enough fit => ?_⟩
  · rw [admitRecord, if_pos (test.2 h)]
  · rw [admitRecord, if_neg (mt test.1 h), if_pos few]
  · rw [admitRecord, if_neg (mt test.1 h), if_neg (Nat.not_lt.2 enough), if_pos few]
  · rw [admitRecord, if_neg (mt test.1 h), if_neg (Nat.not_lt.2 enough), if_neg (Nat.not_lt.2 fit)]

/-- The result of a withdrawal (R45). -/
theorem withdrawRecord_spec (p : Nat) (t : Tx) (a : Word) (b : List Byte) (s : State) :
    (reservedZero b = false ∨ fieldAt b 0x20 4 ≠ 1 → withdrawRecord p t a b s = s.endTx p t 3)
    ∧ (reservedZero b = true → fieldAt b 0x20 4 = 1 → withdrawRecord p t a b s =
        ((s.writeRecord p a 0x20 (bytesLE 3 4)).revoke p a.toNat).endTx p t 0) := by
  refine ⟨fun h => ?_, fun zero admitted => ?_⟩
  · rw [withdrawRecord, if_pos (by simpa using h)]
  · rw [withdrawRecord, if_neg (by simp [zero, admitted])]

/-- The result of a cut (R338). -/
theorem cutRecord_spec (p : Nat) (t : Tx) (b : List Byte) (s : State) :
    let m := maskBits b
    let ns := m.filterMap (s.physOf p)
    let st := s.cutStatus [p] (fieldAt b 0 8) (fieldAt b 8 1) ns
    let bad := cutOk b = false ∨ m = [] ∨ ∃ i ∈ m, (s.psns p).length ≤ i
    (bad → cutRecord p t b s = s.endTx p t 2)
    ∧ (¬ bad → st ≠ 0 → cutRecord p t b s = s.endTx p t (BitVec.ofNat 64 st))
    ∧ (¬ bad → st = 0 → cutRecord p t b s = { s.endTx p t 0 with
        cuts := s.cuts ++ [{ c := fieldAt b 0 8, kind := fieldAt b 8 1, spins := ns, why := 1 }] }) := by
  intro m ns st bad
  have test : (!cutOk b || m.isEmpty || m.any fun i => decide ((s.psns p).length ≤ i)) = true ↔ bad := by
    simp only [bad, Bool.or_eq_true, Bool.not_eq_true', List.isEmpty_iff, List.any_eq_true, decide_eq_true_eq, or_assoc]
  have cuts : (s.endTx p t 0).cuts = s.cuts := txValue_cuts ..
  refine ⟨fun h => ?_, fun h refused => ?_, fun h accepted => ?_⟩
  · rw [cutRecord, if_pos (test.2 h)]
  · rw [cutRecord, if_neg (mt test.1 h)]
    exact if_neg refused
  · rw [cutRecord, if_neg (mt test.1 h)]
    refine (if_pos accepted).trans ?_
    rw [show s.cutStatus [p] (fieldAt b 0 8) (fieldAt b 8 1) ((maskBits b).filterMap (s.physOf p)) = 0 from accepted, ← cuts]
    rfl

/-! ### TLAUNCH (R37) -/

section Launch
variable {s u : State} {p : Nat} {c : Ctx} {a : Word}

theorem txLaunch_malformed (t : Tx) (h : s.readGraph p c.shared a = (.malformed, u)) :
    s.txLaunch p t c a = u.endTx p t 0x8000000000000001 := by
  simp only [State.txLaunch, h]
  rfl

theorem txLaunch_err (t : Tx) {x : Word} {k : Option Nat} (h : s.readGraph p c.shared a = (.err (.err x k), u)) :
    s.txLaunch p t c a = (u.dropTx p t).txError p t.ctx x := by
  simp only [State.txLaunch, h]
  rfl

theorem txLaunch_full (t : Tx) {g : Graph} (h : s.readGraph p c.shared a = (.ok g, u)) (full : u.freeHandle p = none) :
    s.txLaunch p t c a = u.endTx p t 0x8000000000000002 := by
  simp only [State.txLaunch, h, full]
  rfl

theorem txLaunch_ok (t : Tx) {g : Graph} {k : Nat} (h : s.readGraph p c.shared a = (.ok g, u)) (free : u.freeHandle p = some k) :
    s.txLaunch p t c a = ((u.dropTx p t).acceptGraph p k g t.clock).txValue p t.ctx (BitVec.ofNat 64 k) := by
  simp only [State.txLaunch, h, free]

end Launch

/-! ### The commit (R46) -/

theorem exec_schedulerTransactionCommit (p : Nat) (s : State) : exec (.schedulerTransactionCommit p) s = .next (s.commitTx p) := rfl

/-- What the commit of a transaction of context c does. -/
def State.commitKind (s : State) (p : Nat) (t : Tx) (c : Ctx) : TxKind → State
  | .launch a => s.txLaunch p t c a
  | .join h | .poll h _ => s.txJoin p t h.toNat
  | .admitC a => s.txAdmit p t c a
  | .withdraw a => s.txWithdraw p t c a
  | .cut a => s.txCut p t c a

theorem txCtx_resident {s : State} {t : Tx} {n : Nat} (hw : s.whereIs t.ctx = some n) : s.txCtx t = some (s.ctxOf n) := by
  rw [State.txCtx, hw, Option.map_some]

theorem commitTx_next {s : State} {p n : Nat} {t : Tx} {k : TxKind} (next : s.nextTx p = some t)
    (hw : s.whereIs t.ctx = some n) (kind : t.kind = k) : s.commitTx p = s.commitKind p t (s.ctxOf n) k := by
  subst kind
  simp only [State.commitTx, next, txCtx_resident hw, Option.getD_some]
  rfl

/-! ### HCUT (R339) -/

/-- An HCUT has ended with a status. -/
def State.hcutDone (s : State) (x : Nat) : State := { s with pf := { s.pf with hcutBusy := false, hcutStatus := BitVec.ofNat 2 x } }

section Hcut
variable {s : State} {x : Nat} {ns : List Nat} {b : List Byte}

theorem acceptHcut_waits (h : s.hcutReady = false) : s.acceptHcut = s := by
  rw [State.acceptHcut, if_pos (by rw [h]; rfl)]

theorem acceptHcut_refuses (ready : s.hcutReady = true) (judged : s.hcutJudge = (x, ns, b, s)) (hx : x ≠ 0) :
    s.acceptHcut = s.hcutDone x := by
  rw [State.acceptHcut, if_neg (by simp [ready]), judged]
  exact if_neg hx

theorem acceptHcut_records (ready : s.hcutReady = true) (judged : s.hcutJudge = (0, ns, b, s)) :
    s.acceptHcut = { s.hcutDone 0 with
      cuts := s.cuts ++ [{ c := fieldAt b 0 8, kind := fieldAt b 8 1, spins := ns, why := 3 }] } := by
  rw [State.acceptHcut, if_neg (by simp [ready]), judged]
  rfl

/-- A descriptor that is not 64-byte aligned in HBM. -/
theorem hcutJudge_misplaced (h : s.pf.hcut.toNat % 64 ≠ 0 ∨ isHbm s.pf.hcut.toNat = false) : s.hcutJudge = (2, [], [], s) := by
  rw [State.hcutJudge, if_pos (by simpa using h)]

/-- The spindles of partitions that a descriptor names. -/
def State.hcutSpins (s : State) (b : List Byte) : List Nat := (maskBits b).filter fun n => (s.ownerOf n).isSome

/-- The status of a readable descriptor. -/
theorem hcutJudge_readable (aligned : s.pf.hcut.toNat % 64 = 0) (hbm : isHbm s.pf.hcut.toNat = true)
    (clean : s.mem.poisonIn s.pf.hcut.toNat 64 = none) :
    let b := s.mem.read s.pf.hcut.toNat 64
    let ns := s.hcutSpins b
    (cutOk b = false ∨ ns = [] → s.hcutJudge = (2, [], b, s))
    ∧ (cutOk b = true → ns ≠ [] → s.hcutJudge =
        (s.cutStatus ((ns.filterMap s.ownerOf).eraseDups) (fieldAt b 0 8) (fieldAt b 8 1) ns, ns, b, s)) := by
  intro b ns
  have placed : ¬ (s.pf.hcut.toNat % 64 != 0 || !isHbm s.pf.hcut.toNat) = true := by simp [aligned, hbm]
  have test : (!cutOk b || ns.isEmpty) = true ↔ cutOk b = false ∨ ns = [] := by
    simp only [Bool.or_eq_true, Bool.not_eq_true', List.isEmpty_iff]
  have readable : s.hcutJudge = if !cutOk b || ns.isEmpty then (2, [], b, s) else
      (s.cutStatus ((ns.filterMap s.ownerOf).eraseDups) (fieldAt b 0 8) (fieldAt b 8 1) ns, ns, b, s) := by
    rw [State.hcutJudge, if_neg placed, if_neg (by simp [clean])]
    rfl
  refine ⟨fun h => ?_, fun ok named => ?_⟩
  · rw [readable, if_pos (test.2 h)]
  · rw [readable, if_neg (by rw [test]; simp [ok, named])]

end Hcut

end Sys2Proof.Machine

open Sys2Proof Sys2Proof.Machine

/-- Settles O50: a lemma for each result of each kind of transaction, and for an HCUT. -/
theorem transactionEvents : Obligations.TransactionEvents := by
  unfold Obligations.TransactionEvents
  refine ⟨fun p ctx n rd v x s hw waits => ⟨txValue_resident p v hw waits, txError_resident p x hw⟩, ?_, fun p s idle => ?_,
    fun v s => rfl, ?_⟩
  · intro p n t s next hw c run ends
    have commits : ∀ {k u}, t.kind = k → s.commitKind p t c k = u → run u :=
      fun kind h => congrArg Host.Outcome.next ((commitTx_next next hw kind).trans h)
    have admits : ∀ {a u}, t.kind = .admitC a → s.onRecord p t (c.shared a) 3 (admitRecord p t (c.shared a)) = u → run u :=
      commits
    have withdraws : ∀ {a u}, t.kind = .withdraw a →
        s.onRecord p t (c.shared a) 3 (withdrawRecord p t (c.shared a)) = u → run u := commits
    have cuts : ∀ {a u}, t.kind = .cut a → s.onRecord p t (c.shared a) 2 (cutRecord p t) = u → run u := commits
    refine ⟨fun h kind => ⟨fun dead => ?_, fun g live status alone => ?_⟩,
      fun h m kind => ⟨fun dead => ?_, fun g live status => ?_, fun g live status alone => ?_⟩,
      fun a u kind => ⟨fun read => ?_, fun x k read => ?_, fun g read => ⟨fun full => ?_, fun k free => ?_⟩⟩,
      ?_, ?_, ?_, ?_, ?_, ?_, ?_⟩
    -- joins
    · exact commits kind ((txJoin_dead t dead).trans (txReply_join kind hw _ _))
    · have asks : s.answerable t = true := by simp only [State.answerable, kind, txCtx_resident hw, Option.isSome_some]
      refine commits kind ((txJoin_alone live status alone asks).trans ?_)
      rw [txReply_join kind hw]
    -- polls
    · exact commits kind ((txJoin_dead t dead).trans (txReply_poll kind _ _))
    · exact commits kind ((txJoin_running live status kind).trans (txReply_poll kind _ _))
    · have asks : s.answerable t = true := by simp only [State.answerable, kind]
      refine commits kind ((txJoin_alone live status alone asks).trans ?_)
      rw [txReply_poll kind]
    -- launches
    · exact commits kind (txLaunch_malformed t read)
    · exact commits kind (txLaunch_err t read)
    · exact commits kind (txLaunch_full t read full)
    · exact commits kind (txLaunch_ok t read free)
    -- records that cannot be named, translated or read
    · rintro a (kind | kind) misplaced
      · exact admits kind (onRecord_misplaced misplaced)
      · exact withdraws kind (onRecord_misplaced misplaced)
    · exact fun a kind misplaced => cuts kind (onRecord_misplaced misplaced)
    · refine fun a u placed read => ⟨?_, fun kind => cuts kind (onRecord_unmapped placed read)⟩
      rintro (kind | kind)
      · exact admits kind (onRecord_unmapped placed read)
      · exact withdraws kind (onRecord_unmapped placed read)
    · rintro a x k u (kind | kind | kind) placed read
      · exact withdraws kind (onRecord_err placed read)
      · exact admits kind (onRecord_err placed read)
      · exact cuts kind (onRecord_err placed read)
    -- records that have been read
    · intro a b u kind placed read k ns bad
      obtain ⟨malformed, few, fails, admitted⟩ := admitRecord_spec p t (c.shared a) b u
      have by_ : ∀ {r}, admitRecord p t (c.shared a) b u = r → run r := fun h => admits kind ((onRecord_ok placed read).trans h)
      exact ⟨fun h => by_ (malformed h), fun h w => by_ (few h w), fun h w y => by_ (fails h w y),
        fun h w y => by_ (admitted h w y)⟩
    · intro a b u kind placed read
      obtain ⟨refused, withdrawn⟩ := withdrawRecord_spec p t (c.shared a) b u
      exact ⟨fun h => withdraws kind ((onRecord_ok placed read).trans (refused h)),
        fun h w => withdraws kind ((onRecord_ok placed read).trans (withdrawn h w))⟩
    · intro a b u kind placed read m ns st bad
      obtain ⟨malformed, refused, accepted⟩ := cutRecord_spec p t b u
      exact ⟨fun h => cuts kind ((onRecord_ok placed read).trans (malformed h)),
        fun h w => cuts kind ((onRecord_ok placed read).trans (refused h w)),
        fun h w => ⟨_, cuts kind ((onRecord_ok placed read).trans (accepted h w)), rfl⟩⟩
  · rw [exec_schedulerTransactionCommit, State.commitTx, idle]
  · intro s a b ns st done
    have ends : ∀ {u}, s.acceptHcut = u → exec .hcutAccept s = .next u := congrArg Host.Outcome.next
    refine ⟨fun h => ends (acceptHcut_waits h),
      fun ready h => ends (acceptHcut_refuses ready (hcutJudge_misplaced h) (by decide)), fun ready aligned hbm clean => ?_⟩
    obtain ⟨malformed, judged⟩ := hcutJudge_readable aligned hbm clean
    refine ⟨fun h => ends (acceptHcut_refuses ready (malformed h) (by decide)),
      fun ok named h => ends (acceptHcut_refuses ready (judged ok named) h), fun ok named h => ends (acceptHcut_records ready
        ((judged ok named).trans (congrArg (fun x => (x, ns, b, s)) h)))⟩
end

section
/-!
PROOFS. Records, graphs and contracts under the scheduler's updates: what each update leaves of them.
-/

namespace Sys2Proof.Machine

/-! ### Tables -/

theorem tfind_tput_self {α : Type} (k : Nat) (v : α) (t : Tbl α) : tfind k (tput k v t) = some v := by
  induction t with
  | nil => exact if_pos rfl
  | cons x t ih =>
    obtain ⟨j, w⟩ := x
    rw [tput]
    split
    · exact if_pos rfl
    · split
      · exact if_pos rfl
      · next e => rw [tfind, if_neg e, ih]

theorem tfind_tput_ne {α : Type} {j k : Nat} (h : j ≠ k) (v : α) (t : Tbl α) : tfind j (tput k v t) = tfind j t := by
  induction t with
  | nil => exact if_neg (Ne.symm h)
  | cons x t ih =>
    obtain ⟨i, w⟩ := x
    rw [tput]
    split
    · exact if_neg (Ne.symm h)
    · split
      · next e =>
        subst e
        rw [tfind, tfind, if_neg (Ne.symm h), if_neg (Ne.symm h)]
      · rw [tfind, tfind, ih]

theorem tfind_tdel_ne {α : Type} {j k : Nat} (h : j ≠ k) (t : Tbl α) : tfind j (tdel k t) = tfind j t := by
  induction t with
  | nil => rfl
  | cons x t ih =>
    obtain ⟨i, w⟩ := x
    rw [tdel] at ih ⊢
    by_cases e : i = k
    · subst e
      rw [List.filter_cons_of_neg (by simp), ih, tfind, if_neg (Ne.symm h)]
    · rw [List.filter_cons_of_pos (by simpa using e), tfind, tfind, ih]

/-! ### The scheduler's state of a partition -/

@[simp] theorem part_modSched_self (s : State) (p : Nat) (f : PartSched → PartSched) :
    (s.modSched p f).part p = { s.part p with sched := f (s.part p).sched } := part_modPart_self ..

theorem part_modSched_ne (s : State) {q p : Nat} (h : q ≠ p) (f : PartSched → PartSched) : (s.modSched p f).part q = s.part q :=
  part_modPart_ne s h _

theorem part_congr {s t : State} (h : t.parts = s.parts) (p : Nat) : t.part p = s.part p := by rw [State.part, State.part, h]

/-! ### Writes of records (R9, R25) -/

theorem writeSlice_parts (s : State) (n off : Nat) (bs : List Byte) : (s.writeSlice n off bs).parts = s.parts := by
  obtain ⟨m, hm⟩ := putSlice_frame s n off bs (bs.length / 65536 + 2)
  rw [State.writeSlice, hm]
  rfl

theorem homeWrite_parts (s : State) (w : Nat) (l : Loc) (bs : List Byte) (tag : List Nat) :
    (s.homeWrite w l bs tag).parts = s.parts := by
  have written : (s.writeLoc w l bs).parts = s.parts := by
    cases l with
    | slice n off => exact writeSlice_parts ..
    | phys pa => rfl
    | host a => rw [State.writeLoc]; split <;> rfl
    | far k off => rfl
  have noted : ((s.writeLoc w l bs).noteServed w l bs.length true).parts = s.parts := by
    unfold State.noteServed
    dsimp only
    repeat' split
    all_goals exact written
  rw [State.homeWrite]
  split <;> exact noted

theorem recordDone_parts {s t : State} {w : RecWrite} (h : s.recordDone w = some t) : t.parts = s.parts := by
  unfold State.recordDone at h
  split at h
  · split at h
    · cases h
    · cases h; exact homeWrite_parts ..
  · cases h; rfl

theorem askBlocks_parts (l : List (Nat × Nat)) (s : State) :
    (l.foldl (fun (s : State) x => s.askBlock x.1 x.2) s).parts = s.parts := by
  induction l generalizing s with
  | nil => rfl
  | cons x l ih => exact (ih _).trans rfl

theorem recordLater_parts (s : State) (w : RecWrite) : (s.recordLater w).parts = s.parts := by
  rw [State.recordLater]
  cases s.recLoc w.part w.addr.toNat with
  | none => rfl
  | some l => exact askBlocks_parts (s.locMiss l w.bytes.length) s

/-- The write of a record changes nothing that the scheduler keeps. -/
theorem writeRecord_parts (s : State) (p : Nat) (a : Word) (off : Nat) (bs : List Byte) :
    (s.writeRecord p a off bs).parts = s.parts := by
  unfold State.writeRecord
  dsimp only
  split
  · next t h =>
    split at h
    · cases h
    · exact recordDone_parts h
  · exact recordLater_parts ..

/-! ### Graphs

`s.keepsDone t`: from s to t every live graph but the root graph stays, with its DONE. -/

/-- Every live graph but the root graph stays, with its DONE. -/
structure State.keepsDone (s t : State) : Prop where
  graph : ∀ p h g, h ≠ 0 → s.graph p h = some g → ∃ g', t.graph p h = some g' ∧ g'.done = g.done

section KeepsDone
variable {s t u : State}

theorem State.keepsDone.refl (s : State) : s.keepsDone s := ⟨fun _ _ g _ hg => ⟨g, hg, rfl⟩⟩

theorem State.keepsDone.trans (h : s.keepsDone t) (k : t.keepsDone u) : s.keepsDone u := by
  refine ⟨fun p n g hn hg => ?_⟩
  obtain ⟨g', hg', done⟩ := h.graph p n g hn hg
  obtain ⟨g'', hg'', done'⟩ := k.graph p n g' hn hg'
  exact ⟨g'', hg'', done'.trans done⟩

theorem keepsDone_of_parts (h : t.parts = s.parts) : s.keepsDone t :=
  ⟨fun p n g _ hg => ⟨g, by rw [State.graph, part_congr h]; exact hg, rfl⟩⟩

theorem keepsDone_modPart (s : State) (p : Nat) {f : Part → Part}
    (hf : ∀ h g, h ≠ 0 → tfind h (s.part p).sched.graphs = some g →
      ∃ g', tfind h (f (s.part p)).sched.graphs = some g' ∧ g'.done = g.done) :
    s.keepsDone (s.modPart p f) := by
  refine ⟨fun q n g hn hg => ?_⟩
  by_cases e : q = p
  · subst e
    rw [State.graph, part_modPart_self]
    exact hf n g hn hg
  · exact ⟨g, by rw [State.graph, part_modPart_ne s e]; exact hg, rfl⟩

/-- An update of a partition that leaves its table of graphs. -/
theorem keepsDone_modPart_graphs (s : State) (p : Nat) {f : Part → Part} (hf : ∀ x, (f x).sched.graphs = x.sched.graphs) :
    s.keepsDone (s.modPart p f) := keepsDone_modPart s p fun _ g _ hg => ⟨g, by rw [hf]; exact hg, rfl⟩

theorem keepsDone_modSched (s : State) (p : Nat) {f : PartSched → PartSched}
    (hf : ∀ d, (f d).graphs = d.graphs := by exact fun _ => rfl) : s.keepsDone (s.modSched p f) :=
  keepsDone_modPart_graphs s p fun x => hf x.sched

theorem keepsDone_foldl {α : Type} {f : State → α → State} (l : List α) (hf : ∀ t x, State.keepsDone t (f t x)) (s : State) :
    s.keepsDone (l.foldl f s) :=
  List.foldlRecOn l f (.refl s) fun _ h x _ => h.trans (hf _ x)

theorem keepsDone_ite {c : Prop} [Decidable c] (ht : s.keepsDone t) (hu : s.keepsDone u) :
    s.keepsDone (if c then t else u) := by
  split
  · exact ht
  · exact hu

theorem keepsDone_writeRecord (s : State) (p : Nat) (a : Word) (off : Nat) (bs : List Byte) :
    s.keepsDone (s.writeRecord p a off bs) := keepsDone_of_parts (writeRecord_parts ..)

theorem graph_modGraph_self {s : State} {p h : Nat} {g : Graph} (f : Graph → Graph) (hg : s.graph p h = some g) :
    (s.modGraph p h f).graph p h = some (f g) := by
  simp only [State.modGraph, hg]
  rw [State.graph, part_modSched_self]
  exact tfind_tput_self ..

theorem keepsDone_modGraph (s : State) (p h : Nat) {f : Graph → Graph} (hf : ∀ g, (f g).done = g.done) :
    s.keepsDone (s.modGraph p h f) := by
  cases hg : s.graph p h with
  | none => simp only [State.modGraph, hg]; exact .refl s
  | some g =>
    simp only [State.modGraph, hg]
    refine keepsDone_modPart s p fun k g' _ hk => ?_
    by_cases e : k = h
    · subst e
      obtain rfl : g = g' := Option.some.inj (hg.symm.trans hk)
      exact ⟨f g, tfind_tput_self .., hf g⟩
    · exact ⟨g', (tfind_tput_ne e _ _).trans hk, rfl⟩

theorem keepsDone_schedDue (s : State) (p : Nat) : s.keepsDone (s.schedDue p) := keepsDone_modSched s p

theorem keepsDone_retireNode (s : State) (p h k : Nat) : s.keepsDone (s.retireNode p h k) := keepsDone_modGraph s p h fun _ => rfl

theorem keepsDone_openNode (s : State) (p h k : Nat) : s.keepsDone (s.openNode p h k) := by
  unfold State.openNode
  split
  · exact .refl s
  · have opened : s.keepsDone (s.modGraph p h fun g => g.modRun k fun r => { r with opened := true }) :=
      keepsDone_modGraph s p h fun _ => rfl
    refine keepsDone_ite (keepsDone_ite ?_ opened) ?_
    · exact (opened.trans (keepsDone_retireNode ..)).trans (keepsDone_schedDue ..)
    · exact (opened.trans (keepsDone_modSched _ p)).trans (keepsDone_schedDue ..)

theorem keepsDone_openReady (s : State) (p h : Nat) : s.keepsDone (s.openReady p h) := by
  unfold State.openReady
  split
  · exact .refl s
  · refine keepsDone_foldl _ (fun t k => ?_) s
    split
    · exact keepsDone_ite (keepsDone_openNode ..) (.refl t)
    · exact .refl t

/-- Only the root graph leaves the table when it ends. -/
theorem keepsDone_finishGraph (s : State) (p h : Nat) : s.keepsDone (s.finishGraph p h) := by
  unfold State.finishGraph
  split
  · exact .refl s
  · have ended := fun a bs (st : BitVec 32) => (keepsDone_writeRecord s p a 0x20 bs).trans
      (keepsDone_modGraph _ p h (f := fun g => { g with status := st }) fun _ => rfl)
    refine keepsDone_ite (.refl s) (keepsDone_ite ((ended ..).trans (keepsDone_modPart _ p fun k g hk hg => ?_)) (ended ..))
    exact ⟨g, (tfind_tdel_ne hk _).trans hg, rfl⟩

theorem keepsDone_endContract (s : State) (p a state : Nat) : s.keepsDone (s.endContract p a state) := by
  unfold State.endContract
  split
  · exact .refl s
  · exact (keepsDone_writeRecord ..).trans (keepsDone_modSched _ p)

theorem keepsDone_modContract (s : State) (p a : Nat) (f : Contract → Contract) : s.keepsDone (s.modContract p a f) :=
  keepsDone_modSched s p

theorem keepsDone_countJob (s : State) (p a : Nat) (missed : Bool) : s.keepsDone (s.countJob p a missed) := by
  unfold State.countJob
  dsimp only
  split
  · exact keepsDone_modContract ..
  · refine keepsDone_ite ?_ ((keepsDone_modContract ..).trans (keepsDone_writeRecord ..))
    refine State.keepsDone.trans ?_ (keepsDone_schedDue ..)
    refine State.keepsDone.trans ?_ (keepsDone_foldl _ (fun t h => (keepsDone_openReady t p h).trans (keepsDone_finishGraph ..)) _)
    exact ((keepsDone_modContract ..).trans (keepsDone_endContract ..)).trans
      (keepsDone_foldl _ (fun t x => keepsDone_retireNode ..) _)

theorem keepsDone_jobEnds (s : State) (p a : Nat) : s.keepsDone (s.jobEnds p a) := by
  unfold State.jobEnds
  split
  · exact .refl s
  · split
    · exact .refl s
    · exact (keepsDone_modContract ..).trans (keepsDone_countJob ..)

theorem keepsDone_leaveUnit (s : State) (p n : Nat) (u : Placed) : s.keepsDone (s.leaveUnit p n u) := by
  unfold State.leaveUnit
  cases u.work.job with
  | none => exact keepsDone_modSched s p
  | some a => exact keepsDone_ite (keepsDone_modSched s p) ((keepsDone_modSched s p).trans (keepsDone_jobEnds ..))

theorem keepsDone_domainGone (s : State) (c : Ctx) : s.keepsDone (s.domainGone c) :=
  keepsDone_ite (.refl s) (keepsDone_modPart_graphs s _ fun _ => rfl)

theorem keepsDone_endWaits (s : State) (p id : Nat) : s.keepsDone (s.endWaits p id) := by
  rw [State.endWaits]
  refine State.keepsDone.trans ?_ (keepsDone_modSched _ p)
  exact keepsDone_of_parts rfl

theorem keepsDone_leaveStand (s : State) (n seg gid : Nat) : s.keepsDone (s.leaveStand n seg gid) := keepsDone_of_parts rfl

theorem keepsDone_modSp (s : State) (n : Nat) (f : Spindle → Spindle) : s.keepsDone (s.modSp n f) := keepsDone_of_parts rfl

theorem keepsDone_vacate (s : State) (n : Nat) : s.keepsDone (s.vacate n) := by
  rw [State.vacate]
  refine State.keepsDone.trans ?_ (keepsDone_schedDue ..)
  have freed : s.keepsDone (((((s.endWaits (s.ctxOf n).partN (s.ctxOf n).id).leaveStand n (s.segNamed n)
      (s.ctxOf n).gang).modSp n fun sp => sp.leave []).domainGone (s.ctxOf n))) :=
    (((keepsDone_endWaits ..).trans (keepsDone_leaveStand ..)).trans (keepsDone_modSp ..)).trans (keepsDone_domainGone ..)
  split
  · exact freed.trans (keepsDone_leaveUnit ..)
  · exact freed

end KeepsDone

/-! ### Contracts -/

theorem contract_congr {s t : State} {p : Nat} (h : (t.part p).sched.contracts = (s.part p).sched.contracts) (a : Nat) :
    t.contract p a = s.contract p a := by rw [State.contract, State.contract, h]

/-- An update of a contract that keeps its address. -/
theorem contract_modContract {s : State} {p a : Nat} {k : Contract} {f : Contract → Contract}
    (hk : s.contract p a = some k) (hf : ∀ k, (f k).addr = k.addr := by exact fun _ => rfl) :
    (s.modContract p a f).contract p a = some (f k) := by
  have named : (fun x : Contract => x.addr.toNat == a) ∘ (fun x => if x.addr.toNat == a then f x else x)
      = fun x => x.addr.toNat == a := by
    funext x
    rw [Function.comp]
    split <;> simp [hf]
  have mine : (k.addr.toNat == a) = true := List.find?_some (p := fun x : Contract => x.addr.toNat == a) hk
  rw [State.contract, State.modContract, part_modSched_self, List.find?_map, named,
    show (s.part p).sched.contracts.find? (fun x => x.addr.toNat == a) = some k from hk, Option.map_some, if_pos mine]

theorem contract_writeContract (s : State) (p a q : Nat) (k : Contract) (state : Nat) :
    (s.writeContract p k state).contract q a = s.contract q a :=
  contract_congr (congrArg (fun x => x.sched.contracts) (part_congr (writeRecord_parts ..) q)) a

theorem contract_schedDue (s : State) (p a : Nat) : (s.schedDue p).contract p a = s.contract p a := by
  refine contract_congr ?_ a
  rw [State.schedDue, part_modSched_self]

/-- A job counts, and is not the last one. -/
theorem contract_countJob {s : State} {p a : Nat} {k : Contract} (missed : Bool) (hk : s.contract p a = some k)
    (more : k.jobs = 0 ∨ k.jobsDone + 1 < k.jobs) : (s.countJob p a missed).contract p a =
      some { k with jobsDone := k.jobsDone + 1, misses := if missed then k.misses + 1 else k.misses } := by
  have counted := contract_modContract (f := fun k => { k with
    jobsDone := k.jobsDone + 1, misses := if missed then k.misses + 1 else k.misses }) hk
  have last : ¬ (k.jobs != 0 && decide (k.jobs ≤ k.jobsDone + 1)) = true := by simp; omega
  simp only [State.countJob, counted]
  rw [if_neg last, contract_writeContract, counted]

/-- The open nodes that name a contract, and the nodes, are read from the graphs. -/
theorem contractNode_congr {s t : State} {p : Nat} (h : (t.part p).sched.graphs = (s.part p).sched.graphs) (a : Nat) :
    t.contractNode p a = s.contractNode p a := by
  rw [State.contractNode, State.contractNode, State.contractNodes, State.contractNodes, h]

theorem nodeAt_congr {s t : State} {p : Nat} (h : (t.part p).sched.graphs = (s.part p).sched.graphs) (n k : Nat) :
    t.nodeAt p n k = s.nodeAt p n k := by
  rw [State.nodeAt, State.nodeAt, State.graph, State.graph, h]

theorem cutFor_parts (l : List Nat) (s : State) : (l.foldl (fun s n => s.cutFor n) s).parts = s.parts := by
  induction l generalizing s with
  | nil => rfl
  | cons x l ih => exact (ih _).trans rfl

end Sys2Proof.Machine
end

section
/-!
PROOFS. What the scheduler does at its counts, and the end of a task (`Obligations.SchedulerEvents`).
-/

namespace Sys2Proof.Machine

/-! ### Token ticks (R52) -/

theorem exec_tokenTick (p : Nat) (s : State) : exec (.tokenTick p) s = .next (s.tokenTick p) := rfl

theorem ticksDue_eq (s : State) (p : Nat) :
    s.ticksDue p = (s.part p).sched.ticks + (if s.gcyc % s.pf.tick.toNat = 0 then 1 else 0) := by
  simp only [State.ticksDue, State.atTick, beq_iff_eq]

/-- With no work suspended or queued, nothing takes a spindle. -/
theorem resumeReleased_idle {s : State} {p : Nat} (susp : (s.part p).sched.susp = []) (queue : (s.part p).sched.queue = []) :
    s.resumeReleased p = s := by
  have none : ∀ n, s.jobsFor p n = [] := fun n => by simp [State.jobsFor, susp, queue]
  rw [State.resumeReleased]
  split
  · rfl
  · refine List.foldl_fixed' (fun n => ?_) _
    simp only [none, susp, List.find?_nil, ite_self]

/-- A tick with no work suspended or queued changes tokens alone. -/
theorem tokenTick_idle {s : State} {p : Nat} (due : s.ticksDue p ≠ 0) (plain : s.update.switching = false)
    (susp : (s.part p).sched.susp = []) (queue : (s.part p).sched.queue = []) :
    s.tokenTick p = ((List.range (s.ticksDue p)).foldl (fun s _ => s.tickTokens p)
      (s.modSched p fun d => { d with ticks := 0 })).schedDue p := by
  have idle : (s.modSched p fun d => { d with ticks := 0 }).resumeReleased p = s.modSched p fun d => { d with ticks := 0 } :=
    resumeReleased_idle (by rw [part_modSched_self]; exact susp) (by rw [part_modSched_self]; exact queue)
  rw [State.tokenTick]
  dsimp only
  rw [if_neg due, if_neg (by simp [plain]), idle, ite_self]

/-- A task that a cut is suspending or saving. -/
theorem capturedToGo_iff (r : RunState) :
    (match r with | .captured k .. => decide (k ≤ 1) | _ => false) = true
      ↔ ∃ kind why c was, kind ≤ 1 ∧ r = .captured kind why c was := by
  cases r <;> simp

theorem unitAway_iff (s : State) (p : Nat) (u : Placed) : s.unitAway p u = true ↔ ∀ n ∈ u.left,
    (∃ x ∈ (s.part p).sched.susp, x.spin = n ∧ u.holds x.sp.ctx = true)
      ∨ (u.holds (s.ctxOf n) = true ∧ ∃ kind why c was, kind ≤ 1 ∧ (s.sp n).run = .captured kind why c was)
      ∨ (n, u.gid) ∈ (s.part p).sched.queue := by
  rw [State.unitAway, List.all_eq_true]
  refine forall₂_congr fun n _ => ?_
  have queued : ((s.part p).sched.queue.any fun q => q.1 == n && q.2 == u.gid) = true ↔ (n, u.gid) ∈ (s.part p).sched.queue := by
    simp only [List.any_eq_true, Bool.and_eq_true, beq_iff_eq, Prod.exists]
    exact ⟨fun ⟨_, _, h, e, f⟩ => e ▸ f ▸ h, fun h => ⟨_, _, h, rfl, rfl⟩⟩
  rw [Bool.or_eq_true, Bool.or_eq_true, Bool.and_eq_true, queued, or_assoc]
  refine or_congr ?_ (or_congr (and_congr Iff.rfl ?_) Iff.rfl)
  · simp only [List.any_eq_true, Bool.and_eq_true, beq_iff_eq]
  · exact capturedToGo_iff (s.sp n).run

/-! ### Contract releases (R26, R27, R55) -/

theorem exec_contractRelease (p a : Nat) (s : State) : exec (.contractRelease p a) s = .next (s.releaseJob p a) := rfl

theorem jobDue_iff (k : Contract) (now : Nat) :
    k.jobDue now = true ↔ k.releaseOf k.released ≤ now ∧ (k.jobs = 0 ∨ k.released < k.jobs + k.idle) := by
  simp [Contract.jobDue]

section Release
variable {s : State} {p a : Nat} {k : Contract}

/-- A release that is not due, or that the switch of an update holds. -/
theorem releaseJob_waits (hk : s.contract p a = some k) (h : k.jobDue s.gcyc = false ∨ s.update.switching = true) :
    s.releaseJob p a = s := by
  simp only [State.releaseJob, hk]
  rw [if_pos (by simpa using h)]

/-- The contract counts a release. -/
def State.countRelease (s : State) (p a : Nat) : State := s.modContract p a fun k => { k with released := k.released + 1 }

/-- Whether a release finds its job still running, or its partition paused, evicted or scrubbed. -/
def State.jobAway (s : State) (p : Nat) (k : Contract) : Bool :=
  k.running.isSome || (s.part p).sched.paused || (s.part p).sched.evicted || (s.part p).trust.scrub

theorem countRelease_contract (hk : s.contract p a = some k) :
    (s.countRelease p a).contract p a = some { k with released := k.released + 1 } := contract_modContract hk

theorem countRelease_graphs : ((s.countRelease p a).part p).sched.graphs = (s.part p).sched.graphs := by
  rw [State.countRelease, State.modContract, part_modSched_self]

/-- The scrub is looked at after the count, which keeps it. -/
theorem countRelease_scrub : ((s.countRelease p a).part p).trust = (s.part p).trust := by
  rw [State.countRelease, State.modContract, part_modSched_self]

theorem releaseJob_missed (hk : s.contract p a = some k) (due : k.jobDue s.gcyc = true) (plain : s.update.switching = false)
    (away : s.jobAway p k = true) : s.releaseJob p a = ((s.countRelease p a).countJob p a true).schedDue p := by
  simp only [State.releaseJob, hk]
  rw [if_neg (by simp [due, plain])]
  refine if_pos ?_
  show (k.running.isSome || _ || _ || ((s.countRelease p a).part p).trust.scrub) = true
  rw [countRelease_scrub]
  exact away

/-- A counted release with a job to start: a node of a live graph is open for it, or the release is used up. -/
def State.releaseHere (s : State) (p a : Nat) (k : Contract) : State :=
  match s.contractNode p a with
  | none => s.modContract p a fun k => { k with idle := k.idle + 1 }
  | some (h, i) =>
    match s.nodeAt p h i with
    | none => s
    | some nd =>
      let (gid, s) := s.fresh
      let w : Work := { handle := h, node := i, t := 0, gang := true, level := nd.level, tokens := nd.tokens
                        readyAt := s.gcyc, gid := gid, job := some a }
      let u : Placed := { work := w, gid := gid, spins := k.bound, at_ := s.gcyc, left := k.bound }
      let s := s.modContract p a fun k => { k with running := some (k.released - 1, false) }
      let s := s.modSched p fun d => { d with placed := d.placed ++ [u], queue := d.queue ++ k.bound.map fun n => (n, gid) }
      let r := (k.releaseOf k.released + k.due, k.releaseOf k.released, h)
      ((k.bound.filter fun n => s.givesWay p n r).foldl (fun s n => s.cutFor n) s).schedDue p

theorem releaseJob_here (hk : s.contract p a = some k) (due : k.jobDue s.gcyc = true) (plain : s.update.switching = false)
    (here : s.jobAway p k = false) : s.releaseJob p a = (s.countRelease p a).releaseHere p a k := by
  simp only [State.releaseJob, hk]
  rw [if_neg (by simp [due, plain])]
  refine if_neg ?_
  show ¬ (k.running.isSome || _ || _ || ((s.countRelease p a).part p).trust.scrub) = true
  rw [countRelease_scrub]
  exact Bool.eq_false_iff.1 here

/-- The placed unit of a job that starts: its contract's bound spindles, for node i of the graph of handle h. -/
def State.jobUnit (s : State) (a h i : Nat) (k : Contract) (nd : Node) : Placed where
  work := { handle := h, node := i, t := 0, gang := true, level := nd.level, tokens := nd.tokens, readyAt := s.gcyc
            gid := s.nextId, job := some a }
  gid := s.nextId
  spins := k.bound
  at_ := s.gcyc
  left := k.bound

/-- A job's unit is placed, and its tasks wait for their spindles. -/
def State.jobPlaced (s : State) (p a : Nat) (u : Placed) : State :=
  (s.fresh.2.modContract p a fun k => { k with running := some (k.released - 1, false) }).modSched p fun d => { d with
    placed := d.placed ++ [u], queue := d.queue ++ u.spins.map fun n => (n, u.gid) }

theorem releaseHere_node {h i : Nat} {nd : Node} (open_ : s.contractNode p a = some (h, i)) (node : s.nodeAt p h i = some nd) :
    ∃ ns : List Nat, s.releaseHere p a k =
      (ns.foldl (fun s n => s.cutFor n) (s.jobPlaced p a (s.jobUnit a h i k nd))).schedDue p := by
  simp only [State.releaseHere, open_, node]
  exact ⟨_, rfl⟩

/-- What a started job leaves of the scheduler's state. -/
theorem releaseHere_spec {h i : Nat} {nd : Node} (hk : s.contract p a = some k) (k₀ : Contract)
    (open_ : s.contractNode p a = some (h, i)) (node : s.nodeAt p h i = some nd) :
    let t := s.releaseHere p a k₀
    let u := s.jobUnit a h i k₀ nd
    t.contract p a = some { k with running := some (k.released - 1, false) }
      ∧ u ∈ (t.part p).sched.placed ∧ (∀ n ∈ k₀.bound, (n, u.gid) ∈ (t.part p).sched.queue)
      ∧ (t.part p).sched.stepDue = true := by
  intro t u
  obtain ⟨ns, started⟩ := releaseHere_node (k := k₀) open_ node
  have placed : ((ns.foldl (fun s n => s.cutFor n) (s.jobPlaced p a u))).part p = (s.jobPlaced p a u).part p :=
    part_congr (cutFor_parts ..) p
  have due : (t.part p).sched = { ((s.jobPlaced p a u).part p).sched with stepDue := true } := by
    rw [show t = _ from started, State.schedDue, part_modSched_self, placed]
  have sched : ((s.jobPlaced p a u).part p).sched = { ((s.fresh.2.modContract p a fun k =>
      { k with running := some (k.released - 1, false) }).part p).sched with
        placed := (s.part p).sched.placed ++ [u], queue := (s.part p).sched.queue ++ u.spins.map fun n => (n, u.gid) } := by
    rw [State.jobPlaced, part_modSched_self, State.modContract, part_modSched_self]
    rfl
  refine ⟨?_, ?_, fun n hn => ?_, ?_⟩
  · refine (contract_congr ?_ a).trans (contract_modContract (s := s.fresh.2)
      (f := fun k => { k with running := some (k.released - 1, false) }) hk)
    rw [due, sched]
  · rw [due, sched]
    exact List.mem_append_right _ List.mem_cons_self
  · rw [due, sched]
    exact List.mem_append_right _ (List.mem_map.2 ⟨n, hn, rfl⟩)
  · rw [due]

end Release

/-! ### Budgets (R27) -/

theorem exec_budgetExhausted (p a : Nat) (s : State) : exec (.budgetExhausted p a) s = .next (s.exhaust p a) := rfl

/-- A job that has used its budget counts one overrun. -/
theorem exhaust_counts {s : State} {p a i : Nat} {k : Contract} (hk : s.contract p a = some k) (runs : k.running = some (i, false))
    (used : s.exhausted p k = true) :
    (s.exhaust p a).contract p a = some { k with running := some (i, true), overruns := k.overruns + 1 } := by
  have counted := contract_modContract (f := fun k => { k with running := some (i, true), overruns := k.overruns + 1 }) hk
  simp only [State.exhaust, hk, runs]
  rw [if_neg (by simp [used])]
  simp only [counted]
  rw [contract_congr (congrArg (fun x => x.sched.contracts) (part_congr (cutFor_parts ..) p)), contract_writeContract, counted]

/-- A job that has counted its overrun, or has not used its budget. -/
theorem exhaust_idle {s : State} {p a : Nat} {k : Contract} (hk : s.contract p a = some k)
    (h : (∀ i, k.running ≠ some (i, false)) ∨ s.exhausted p k = false) : s.exhaust p a = s := by
  simp only [State.exhaust, hk]
  split
  · next i runs =>
    rw [if_pos (by simpa using h.resolve_left fun x => x i runs)]
  · rfl

/-! ### Drained victims (R58) -/

theorem exec_drainLimitExpiry (n : Nat) (s : State) : exec (.drainLimitExpiry n) s = .next (s.drainOver n) := rfl

section Drain
variable {s : State} {n lim : Nat} {u : Placed}

theorem drainOver_waits (hu : s.unitOf (s.ctxOf n) = some u) (victim : u.victim = .drain lim) (early : s.gcyc < lim) :
    s.drainOver n = s := by
  simp only [State.drainOver, hu, victim]
  exact if_pos early

/-- The unit of a context is one of those that are placed. -/
theorem unitOf_mem {c : Ctx} (hu : s.unitOf c = some u) : u ∈ (s.part c.partN).sched.placed := by
  unfold State.unitOf at hu
  dsimp only at hu
  split at hu
  · next x found =>
    obtain rfl := Option.some.inj hu
    exact List.mem_of_mem_filter (List.mem_of_find?_eq_some found)
  · exact List.mem_of_mem_filter (List.mem_of_head? hu)

theorem drainOver_spec (hu : s.unitOf (s.ctxOf n) = some u) (victim : u.victim = .drain lim) (late : lim ≤ s.gcyc) :
    let t := s.drainOver n
    s.sameMem t ∧ { u with victim := .drained } ∈ (t.part (s.ctxOf n).partN).sched.placed
      ∧ (t.part (s.ctxOf n).partN).sched.stepDue = true := by
  intro t
  obtain ⟨same, self, drained⟩ : ∃ same : Placed → Bool, same u = true ∧
      t = (s.modSched (s.ctxOf n).partN fun d => { d with
        placed := d.placed.map fun x => if same x then { x with victim := .drained } else x }).schedDue (s.ctxOf n).partN := by
    refine ⟨fun x => x.gid == u.gid && x.work.gang == u.work.gang && x.work.t == u.work.t, by simp, ?_⟩
    simp only [t, State.drainOver, hu, victim]
    exact if_neg (Nat.not_lt.2 late)
  rw [drained, State.schedDue, part_modSched_self, part_modSched_self]
  exact ⟨fun _ => rfl, List.mem_map.2 ⟨u, unitOf_mem hu, by rw [if_pos self]⟩, rfl⟩

end Drain

/-! ### The end of a task (R377, R378) -/

theorem exec_taskRetirement (n : Nat) (s : State) :
    exec (.taskRetirement n) s = .next (if s.mayRetire n then s.retire n else s) := rfl

theorem mayRetire_iff (s : State) (n : Nat) : s.mayRetire n = true ↔
    (s.ctxOf n).inTend = true ∧ s.tendDone n = true ∧ (s.sp n).run = .running ∧ s.update.switching = false := by
  simp only [State.mayRetire, Bool.and_eq_true, Bool.not_eq_true', beq_iff_eq, and_assoc]

/-- Results that land change no partition. -/
theorem land_parts (s : State) (n : Nat) (l : Land) : (s.land n l).parts = s.parts := by
  cases l with
  | acc own off bs =>
    obtain ⟨m, hm⟩ := putSlice_frame s n off bs (bs.length / 65536 + 2)
    cases own with
    | true => show (s.writeOwn n off bs).parts = _; rw [State.writeOwn, hm]
    | false => exact writeSlice_parts ..
  | _ => rfl

theorem landAll_parts (s : State) (n : Nat) (ls : List Land) : (s.landAll n ls).parts = s.parts := by
  have fold : ∀ (ls : List Land) (s : State), (ls.foldl (fun s l => s.land n l) s).parts = s.parts := fun ls s =>
    List.foldlRecOn (motive := fun t => t.parts = s.parts) ls _ rfl fun t ht l _ => (land_parts t n l).trans ht
  exact (fold ..).trans (fold ..)

theorem graph_congr {s t : State} (h : t.parts = s.parts) (p k : Nat) : t.graph p k = s.graph p k := by
  rw [State.graph, State.graph, part_congr h]

/-- The state in which a retiring task leaves its spindle: its results have landed, and its graph counts it in DONE. -/
def State.taskCounted (s : State) (n : Nat) : State :=
  let c := s.ctxOf n
  let p := c.partN
  let h := c.ident.handle.toNat
  let s := s.landAll n ((c.pipe ++ c.hpipe).flatMap Pending.lands)
  let job := match s.unitOf c with | some u => u.work.job.isSome | none => false
  let s := s.modGraph p h fun g =>
    let g := { g with done := g.done + 1 }
    g.modRun c.ident.node.toNat fun r => { r with
      retired := if job then r.retired else r.retired + 1
      clock := clockMax r.clock (s.clockOf (dieOf n)) }
  match s.graph p h with
  | some g => s.writeRecord p g.addr 0x24 (bytesLE g.done.toNat 4)
  | none => s

theorem retire_eq (s : State) (n : Nat) :
    let p := (s.ctxOf n).partN
    let h := (s.ctxOf n).ident.handle.toNat
    s.retire n = ((((s.taskCounted n).vacate n).openReady p h).finishGraph p h).schedDue p := rfl

theorem taskCounted_graph {s : State} {n : Nat} {g : Graph}
    (hg : s.graph (s.ctxOf n).partN (s.ctxOf n).ident.handle.toNat = some g) :
    ∃ g', (s.taskCounted n).graph (s.ctxOf n).partN (s.ctxOf n).ident.handle.toNat = some g' ∧ g'.done = g.done + 1 := by
  have counted := fun f => graph_modGraph_self f
    ((graph_congr (landAll_parts s n (((s.ctxOf n).pipe ++ (s.ctxOf n).hpipe).flatMap Pending.lands)) ..).trans hg)
  simp only [State.taskCounted, counted]
  rw [graph_congr (writeRecord_parts ..), counted]
  exact ⟨_, rfl, rfl⟩

theorem retire_run (s : State) (n : Nat) : ((s.retire n).sp n).run = .empty := by
  have after : State.keeps [] ((s.taskCounted n).vacate n) (s.retire n) := by
    rw [retire_eq]
    exact ((keeps_openReady ..).trans (keeps_finishGraph ..)).trans (keeps_schedDue ..)
  exact (after.run n List.not_mem_nil).trans (vacate_run ..)

/-- A retired task counts in DONE of its graph. -/
theorem retire_done {s : State} {n : Nat} {g : Graph} (hh : (s.ctxOf n).ident.handle ≠ 0)
    (hg : s.graph (s.ctxOf n).partN (s.ctxOf n).ident.handle.toNat = some g) :
    ∃ g', (s.retire n).graph (s.ctxOf n).partN (s.ctxOf n).ident.handle.toNat = some g' ∧ g'.done = g.done + 1 := by
  have after : (s.taskCounted n).keepsDone (s.retire n) := by
    rw [retire_eq]
    exact (((keepsDone_vacate ..).trans (keepsDone_openReady ..)).trans (keepsDone_finishGraph ..)).trans (keepsDone_schedDue ..)
  have live : (s.ctxOf n).ident.handle.toNat ≠ 0 := fun e => hh (BitVec.eq_of_toNat_eq e)
  obtain ⟨g₁, counted, done⟩ := taskCounted_graph hg
  obtain ⟨g₂, kept, same⟩ := after.graph _ _ g₁ live counted
  exact ⟨g₂, kept, same.trans done⟩

end Sys2Proof.Machine

open Sys2Proof Sys2Proof.Machine

/-- Settles O49: ticks, releases, budgets, drain limits and retirements, each by the lemmas on its event. -/
theorem schedulerEvents : Obligations.SchedulerEvents := by
  unfold Obligations.SchedulerEvents
  refine ⟨fun p s => ?_, fun p s => ?_, fun p a k s hk => ?_, fun n lim u s hu victim => ?_, fun n s => ?_⟩
  · intro due
    have ticks : s.ticksDue p = due := ticksDue_eq s p
    refine ⟨fun no => ?_, fun come held => ?_, fun come plain susp queue => ?_⟩ <;> rw [exec_tokenTick]
    · rw [State.tokenTick, if_pos (ticks.trans no)]
    · rw [State.tokenTick, if_neg (ticks ▸ come), if_pos held, ticks]
    · rw [tokenTick_idle (ticks ▸ come) plain susp queue, ticks]
  · intro d e
    have ticked : e = _ := congrArg Part.sched (part_modSched_self ..)
    exact ⟨by rw [ticked], by rw [ticked], unitAway_iff s p⟩
  · intro d due away
    have dueIff : k.jobDue s.gcyc = true ↔ due := jobDue_iff k s.gcyc
    have awayIff : s.jobAway p k = true ↔ away := by simp only [State.jobAway, Bool.or_eq_true, or_assoc]; exact Iff.rfl
    refine ⟨fun h => ?_, fun plain hd ha more => ⟨_, rfl, ?_⟩, fun plain hd ha closed => ⟨_, rfl, ?_⟩,
      fun plain hd ha h i nd open_ node => ?_, fun i runs used => ⟨_, rfl, exhaust_counts hk runs used⟩, fun idle => ?_⟩
    · rw [exec_contractRelease, releaseJob_waits hk (h.imp_left fun x => Bool.eq_false_iff.2 (mt dueIff.1 x))]
    · rw [releaseJob_missed hk (dueIff.2 hd) plain (awayIff.2 ha), contract_schedDue,
        contract_countJob true (countRelease_contract hk) more]
      rfl
    · have here := Bool.eq_false_iff.2 (mt awayIff.1 ha)
      rw [releaseJob_here hk (dueIff.2 hd) plain here]
      simp only [State.releaseHere, (contractNode_congr countRelease_graphs a).trans closed]
      exact contract_modContract (countRelease_contract hk)
    · have here := Bool.eq_false_iff.2 (mt awayIff.1 ha)
      obtain ⟨runs, placed, queued, step⟩ := releaseHere_spec (countRelease_contract hk) k
        ((contractNode_congr countRelease_graphs a).trans open_) ((nodeAt_congr countRelease_graphs h i).trans node)
      refine ⟨_, _, congrArg Host.Outcome.next (releaseJob_here hk (dueIff.2 hd) plain here), runs, placed, rfl, rfl, rfl, rfl,
        queued, step⟩
    · rw [exec_budgetExhausted, exhaust_idle hk idle]
  · exact ⟨fun early => by rw [exec_drainLimitExpiry, drainOver_waits hu victim early],
      fun late => ⟨_, rfl, drainOver_spec hu victim late⟩⟩
  · intro c meets
    rw [exec_taskRetirement]
    refine ⟨fun h => by rw [if_neg (mt (mayRetire_iff s n).1 h)], fun h => ?_⟩
    rw [if_pos ((mayRetire_iff s n).2 h)]
    exact ⟨_, rfl, retire_run s n, fun g hh hg => retire_done hh hg⟩
end

section
/-!
PROOFS. Pulls of blocks (R347): what a saved block leaves in memory, and what a pull changes.
-/

namespace Sys2Proof.Machine

/-! ### A saved block in memory -/

/-- A byte of a list from which the entries at some addresses are dropped. -/
theorem cellGet_filter (q : Nat → Bool) (l : List Host.Cell) (a : Nat) :
    cellGet (l.filter fun c => q c.1) a = if q a then cellGet l a else defaultByte := by
  induction l with
  | nil => simp [cellGet]
  | cons x t ih =>
    obtain ⟨j, v⟩ := x
    rw [List.filter_cons]
    by_cases e : j = a
    · subst e
      cases hq : q j with
      | true => simp [cellGet]
      | false => simp [ih, hq]
    · cases hq : q j with
      | true => simp [cellGet, e, ih]
      | false => simp [cellGet, e, ih]

/-- The bytes of a block written from a key on. -/
def cellsPut (key : Nat) (bytes : List (Nat × Byte)) (c : List Host.Cell) : List Host.Cell :=
  bytes.foldl (fun c x => cellSet c (key + x.1) x.2) c

theorem cellsPut_out {key a : Nat} {bytes : List (Nat × Byte)} {c : List Host.Cell} (h : cellsWf c = true)
    (ha : ∀ x ∈ bytes, key + x.1 ≠ a) : cellGet (cellsPut key bytes c) a = cellGet c a := by
  induction bytes generalizing c with
  | nil => rfl
  | cons x t ih =>
    rw [cellsPut, List.foldl_cons]
    refine (ih (cellSet_wf _ _ h) fun y hy => ha y (List.mem_cons_of_mem _ hy)).trans ?_
    rw [cellGet_cellSet h, if_neg (ha x List.mem_cons_self)]

/-- Where nothing was, the bytes of a block in canonical form are read back. -/
theorem cellsPut_get {key i : Nat} {bytes : List (Nat × Byte)} {c : List Host.Cell} (h : cellsWf c = true)
    (wf : cellsWf bytes = true) (clear : cellGet c (key + i) = defaultByte) :
    cellGet (cellsPut key bytes c) (key + i) = cellGet bytes i := by
  induction bytes generalizing c with
  | nil => exact clear
  | cons x t ih =>
    obtain ⟨j, v⟩ := x
    obtain ⟨-, above, wft⟩ := (cellsWf_cons j v t).1 wf
    have set : cellGet (cellSet c (key + j) v) (key + i) = if j = i then v else defaultByte := by
      rw [cellGet_cellSet h, clear]
      simp only [Nat.add_left_cancel_iff]
    rw [cellsPut, List.foldl_cons, cellGet]
    by_cases e : j = i
    · subst e
      rw [if_pos rfl] at set ⊢
      refine (cellsPut_out (cellSet_wf _ _ h) fun y hy => ?_).trans set
      have := above y hy
      omega
    · rw [if_neg e] at set ⊢
      exact ih (cellSet_wf _ _ h) wft set

theorem putBlock_cells (m : Memory) (key : Nat) (b : SavedBlock) :
    (m.putBlock key b).cells = cellsPut key b.bytes (m.scrub key 65536).cells := rfl

theorem scrub_cells (m : Memory) (key len a : Nat) : cellGet (m.scrub key len).cells a =
    if key ≤ a ∧ a < key + len then defaultByte else cellGet m.cells a := by
  have filtered := cellGet_filter (fun x => !(decide (key ≤ x) && decide (x < key + len))) m.cells a
  rw [show (m.scrub key len).cells = m.cells.filter fun c => !(decide (key ≤ c.1) && decide (c.1 < key + len)) from rfl, filtered]
  by_cases h : key ≤ a ∧ a < key + len
  · rw [if_pos h, if_neg (by simp [h])]
  · rw [if_neg h, if_pos (by simp; omega)]

section PutBlock
variable {m : Memory} {key a i : Nat} {b : SavedBlock}

/-- A block leaves every byte outside its 64 KiB. -/
theorem putBlock_out (h : m.wf = true) (inside : ∀ x ∈ b.bytes, x.1 < 65536) (ha : a < key ∨ key + 65536 ≤ a) :
    cellGet (m.putBlock key b).cells a = cellGet m.cells a := by
  rw [putBlock_cells, cellsPut_out (Memory.scrub_wf _ _ h), scrub_cells, if_neg (by omega)]
  intro x hx
  have := inside x hx
  omega

/-- A block in canonical form is read back. -/
theorem putBlock_get (h : m.wf = true) (wf : cellsWf b.bytes = true) (hi : i < 65536) :
    cellGet (m.putBlock key b).cells (key + i) = cellGet b.bytes i := by
  rw [putBlock_cells]
  refine cellsPut_get (Memory.scrub_wf _ _ h) wf ?_
  rw [scrub_cells, if_pos (by omega)]

end PutBlock

/-- The bytes of a block that is taken from memory lie within 64 KiB. -/
theorem takeBlock_inside (m : Memory) (key : Nat) : ∀ x ∈ (m.takeBlock key).bytes, x.1 < 65536 := by
  intro x hx
  rw [Memory.takeBlock] at hx
  obtain ⟨c, hc, rfl⟩ := List.mem_map.1 hx
  have range : key ≤ c.1 ∧ c.1 < key + 65536 := by simpa using (List.mem_filter.1 hc).2
  show c.1 - key < 65536
  omega

/-! ### The content of a block from its source (R347) -/

/-- What a pull of block b of spindle n puts in place of a tile or a scratchpad block. -/
inductive State.Fills (s : State) (n b : Nat) : BlockSrc → SavedBlock → Prop
  | zero : s.Fills n b .zero {}
  | image (t : SavedBlock) (same : t.bytes = (tget {} b (s.sp n).saved).bytes) : s.Fills n b .image t
  | owed (m : Nat) (t : SavedBlock) (inside : ∀ x ∈ t.bytes, x.1 < 65536) : s.Fills n b (.owed m) t

theorem bitsFrom_bytes (m : Memory) (b : SavedBlock) (f q : Nat) : (m.bitsFrom b f q).bytes = b.bytes := by
  simp only [Memory.bitsFrom]

theorem pulled_bytes (s : State) (n b : Nat) : (s.pulled n b).bytes = (tget {} b (s.sp n).saved).bytes := by
  unfold State.pulled
  dsimp only
  split
  · exact bitsFrom_bytes ..
  · rfl

section Fill
variable (s : State) (n b : Nat) (src : BlockSrc)

/-- A tile or a scratchpad block takes its place in memory, whole. -/
theorem fillBlock_mem (hb : isMemBlock b = true) (hs : src ≠ .segment) :
    ∃ t, s.Fills n b src t ∧ (s.fillBlock n b src).mem = s.mem.putBlock (blockKey (s.ctxOf n).eng.bmap n b) t := by
  cases src with
  | segment => exact absurd rfl hs
  | zero =>
    refine ⟨{}, .zero, ?_⟩
    simp only [State.fillBlock, hb, if_true]
    rfl
  | image =>
    refine ⟨s.pulled n b, .image _ (pulled_bytes s n b), ?_⟩
    simp only [State.fillBlock, hb, if_true]
    rfl
  | owed m =>
    refine ⟨_, .owed m _ (takeBlock_inside s.mem (blockKey (s.ctxOf m).eng.bmap m b)), ?_⟩
    simp only [State.fillBlock, hb, if_true]
    rfl

/-- A register block changes no memory; the constants come from the segment. -/
theorem fillBlock_mem_register (hb : isMemBlock b = false) (h3 : b ≠ 3) (hr : b < 294) : (s.fillBlock n b src).mem = s.mem := by
  cases src with
  | segment =>
    simp only [State.fillBlock]
    rw [if_neg (by omega)]
    split <;> rfl
  | zero => simp only [State.fillBlock, hb, Bool.false_eq_true, if_false]
  | image => simp only [State.fillBlock, hb, h3, Bool.false_eq_true, if_false]
  | owed m =>
    simp only [State.fillBlock, hb, Bool.false_eq_true, if_false]
    rfl

/-- A segment's constants change no memory. -/
theorem fillBlock_segment_mem (hr : b < 294) : (s.fillBlock n b .segment).mem = s.mem := by
  simp only [State.fillBlock]
  rw [if_neg (by omega)]
  split <;> rfl

theorem fillBlock_constants {g : Segment} (hr : b < 294) (hg : s.segOf n = some g) :
    s.fillBlock n b .segment =
      s.modCtx n fun c => { c with regs := { c.regs with k := Vector.ofFn fun i => g.cbank.getD i.val 0 } } := by
  simp only [State.fillBlock, hg]
  exact if_neg (by omega)

/-- Updates of which each keeps a spindle. -/
theorem foldl_sp {α : Type} {k : Nat} {f : State → α → State} (l : List α) (s : State)
    (hf : ∀ u x, State.sp (f u x) k = u.sp k := by exact fun _ _ => rfl) : (l.foldl f s).sp k = s.sp k :=
  List.foldlRecOn (motive := fun u : State => u.sp k = s.sp k) l f rfl fun _ h x _ => (hf _ x).trans h

/-- But for the constants, a pull changes of its spindle the debts alone. -/
theorem fillBlock_sp (hs : src ≠ .segment) : ∃ owed, (s.fillBlock n b src).sp n = { s.sp n with owed := owed } := by
  cases src with
  | segment => exact absurd rfl hs
  | zero =>
    refine ⟨(s.sp n).owed, ?_⟩
    simp only [State.fillBlock]
    split <;> rfl
  | image =>
    refine ⟨(s.sp n).owed, ?_⟩
    simp only [State.fillBlock]
    split
    · rfl
    · split
      · exact foldl_sp _ s
      · rfl
  | owed m =>
    simp only [State.fillBlock]
    split
    all_goals
      by_cases e : n = m
      · subst e
        exact ⟨_, sp_modSp ..⟩
      · exact ⟨(s.sp n).owed, sp_modSp_ne _ e _⟩

end Fill

/-! ### The pull -/

theorem exec_blockPullComplete (n b : Nat) (s : State) : exec (.blockPullComplete n b) s = .next (s.pullDone n b) := rfl

theorem pullDone_error {s : State} {n b : Nat} {a : Word} (h : s.pullError n b = some a) : s.pullDone n b =
    (s.escalate n { code := tMEMERR, slot := 7, val := a, epc := (s.ctxOf n).pc.setWidth 16 }).killTask n := by
  simp only [State.pullDone, h]

section Pull
variable {s : State} {n b : Nat} {src : BlockSrc}

/-- A spindle with a block no longer absent and not asked for. -/
def Spindle.gotBlock (b : Nat) (sp : Spindle) : Spindle :=
  { sp with absent := sp.absent.filter fun x => x.1 != b, want := delN b sp.want }

/-- A pull without an error, of an absent block that no other context owes. -/
theorem pullDone_fills (ok : s.pullError n b = none) (absent : ((s.sp n).absent.find? fun x => x.1 == b) = some (b, src))
    (unowed : ((s.sp n).owed.any fun x => x.1 == b && x.2 != (s.ctxOf n).id) = false) :
    s.pullDone n b = (s.fillBlock n b src).modSp n (Spindle.gotBlock b) := by
  have kept : ¬ ((s.sp n).owed.any fun x => x.1 == b && x.2 != (s.sp n).ctx.id) = true := by
    rw [Bool.not_eq_true]
    exact unowed
  simp only [State.pullDone, ok, State.pullBlock, if_neg kept, absent]
  rfl

/-- The spindle after a pull. -/
theorem fillBlock_absent : ((s.fillBlock n b src).sp n).absent = (s.sp n).absent := by
  by_cases hs : src = .segment
  · subst hs
    simp only [State.fillBlock]
    split
    · rw [State.reload, sp_modSp]
    · split
      · rw [State.modCtx, sp_modSp]
      · rfl
  · obtain ⟨owed, filled⟩ := fillBlock_sp s n b src hs
    rw [filled]

theorem fillBlock_ctxOf (hs : src ≠ .segment) : (s.fillBlock n b src).ctxOf n = s.ctxOf n := by
  obtain ⟨owed, filled⟩ := fillBlock_sp s n b src hs
  rw [State.ctxOf, filled]
  rfl

/-- The bytes of a pulled tile or scratchpad block, by its source. -/
theorem fillBlock_bytes (hs : s.sound) (hb : 6 ≤ b) (hr : b < 294) (inside : ∀ x ∈ (tget {} b (s.sp n).saved).bytes, x.1 < 65536) :
    let key := blockKey (s.ctxOf n).eng.bmap n b
    let m := (s.fillBlock n b src).mem
    (∀ a, a < key ∨ key + 65536 ≤ a → cellGet m.cells a = cellGet s.mem.cells a)
      ∧ (src = .zero → ∀ i, i < 65536 → cellGet m.cells (key + i) = 0)
      ∧ (src = .image → cellsWf (tget {} b (s.sp n).saved).bytes = true →
          ∀ i, i < 65536 → cellGet m.cells (key + i) = cellGet (tget {} b (s.sp n).saved).bytes i) := by
  intro key m
  by_cases seg : src = .segment
  · subst seg
    refine ⟨fun a _ => ?_, nofun, nofun⟩
    rw [show m = s.mem from fillBlock_segment_mem s n b hr]
  · obtain ⟨t, fills, put⟩ := fillBlock_mem s n b src (by simp [isMemBlock, hb, hr]) seg
    rw [show m = s.mem.putBlock key t from put]
    cases fills with
    | zero =>
      exact ⟨fun a ha => putBlock_out hs (fun x hx => absurd hx List.not_mem_nil) ha,
        fun _ i hi => (putBlock_get hs rfl hi).trans rfl, nofun⟩
    | image t same =>
      refine ⟨fun a ha => putBlock_out hs (fun x hx => inside x (same ▸ hx)) ha, nofun, fun _ wf i hi => ?_⟩
      rw [putBlock_get hs (same ▸ wf) hi, same]
    | owed m t inside => exact ⟨fun a ha => putBlock_out hs inside ha, nofun, nofun⟩

end Pull

end Sys2Proof.Machine
end

section
/-!
PROOFS. Writes of image slots (R345, R351): an owed block that is written out and an image that becomes complete change no byte
outside the slots that hold images.
-/

namespace Sys2Proof.Machine

/-! ### Tables of images -/

theorem tfind_map {α : Type} (g : Nat × α → Nat × α) (hg : ∀ x, (g x).1 = x.1) (k : Nat) (t : Tbl α) :
    tfind k (t.map g) = (tfind k t).map fun v => (g (k, v)).2 := by
  induction t with
  | nil => rfl
  | cons x t ih =>
    obtain ⟨j, v⟩ := x
    have split : g (j, v) = (j, (g (j, v)).2) := Prod.ext (hg _) rfl
    rw [List.map_cons, split, tfind, tfind]
    by_cases e : j = k
    · subst e
      rw [if_pos rfl, if_pos rfl]
      rfl
    · rw [if_neg e, if_neg e, ih]

theorem mem_tput {α : Type} {k : Nat} {v : α} {t : Tbl α} {x : Nat × α} (h : x ∈ tput k v t) : x = (k, v) ∨ x ∈ t := by
  induction t with
  | nil => exact .inl (List.mem_singleton.1 h)
  | cons y t ih =>
    obtain ⟨j, w⟩ := y
    rw [tput] at h
    split at h
    · exact (List.mem_cons.1 h).imp_right id
    · split at h
      · exact (List.mem_cons.1 h).imp_right (List.mem_cons_of_mem _)
      · rcases List.mem_cons.1 h with h | h
        · exact .inr (h ▸ List.mem_cons_self)
        · exact (ih h).imp_right (List.mem_cons_of_mem _)

/-- What a table gives for a key is listed, or the default. -/
theorem tget_mem {α : Type} (d : α) (k : Nat) (t : Tbl α) : (k, tget d k t) ∈ t ∨ k ∉ t.map Prod.fst ∧ tget d k t = d := by
  induction t with
  | nil => exact .inr ⟨List.not_mem_nil, rfl⟩
  | cons x t ih =>
    obtain ⟨j, v⟩ := x
    rw [tget]
    by_cases e : j = k
    · subst e
      exact .inl (by rw [if_pos rfl]; exact List.mem_cons_self)
    · rw [if_neg e]
      refine ih.imp (List.mem_cons_of_mem _) fun h => ⟨fun listed => ?_, h.2⟩
      exact (List.mem_cons.1 listed).elim (fun x => e x.symm) h.1

theorem tfind_mem {α : Type} {k : Nat} {v : α} {t : Tbl α} (h : tfind k t = some v) : (k, v) ∈ t := by
  induction t with
  | nil => cases h
  | cons x t ih =>
    obtain ⟨j, w⟩ := x
    rw [tfind] at h
    split at h
    · next e =>
      cases h
      exact e ▸ List.mem_cons_self
    · exact List.mem_cons_of_mem _ (ih h)

/-! ### What is kept

`State.keepsSlots ok s t`: from s to t no spindle changes, the slots are where they were and hold images as before; when `ok` holds, no
byte outside the slots that hold images changes. -/

/-- An update of a table of images keeps which slots hold them, their contexts and their spindles. -/
structure keepsImages (g : Nat × Image → Nat × Image) : Prop where
  slot : ∀ x, (g x).1 = x.1
  ctx : ∀ x, (g x).2.ctx = x.2.ctx
  spin : ∀ x, (g x).2.spin = x.2.spin

/-- No spindle changes, and the slots of images stay where they are; if `ok`, no byte outside them changes. -/
structure State.keepsSlots (ok : Prop) (s t : State) : Prop where
  spindles : t.spindles = s.spindles
  cfg : ∀ p, (t.part p).cfg = (s.part p).cfg
  held : ∀ p k, (t.imageAt p k).isSome = (s.imageAt p k).isSome
  pool : s.poolFree → t.poolFree
  sound : s.sound → t.sound
  only : ok → s.sound → s.poolFree → s.onlySlots t

section KeepsSlots
variable {ok : Prop} {s t u : State} {p slot : Nat}

theorem slotAddr_congr (h : (t.part p).cfg = (s.part p).cfg) (k : Nat) : t.slotAddr p k = s.slotAddr p k := by
  rw [State.slotAddr, State.slotAddr, h]

theorem State.keepsSlots.refl (ok : Prop) (s : State) : State.keepsSlots ok s s :=
  ⟨rfl, fun _ => rfl, fun _ _ => rfl, id, id, fun _ _ _ _ _ => rfl⟩

theorem State.keepsSlots.trans (h : State.keepsSlots ok s t) (k : State.keepsSlots ok t u) : State.keepsSlots ok s u where
  spindles := k.spindles.trans h.spindles
  cfg p := (k.cfg p).trans (h.cfg p)
  held p n := (k.held p n).trans (h.held p n)
  pool x := k.pool (h.pool x)
  sound x := k.sound (h.sound x)
  only hok hs hp a ha := by
    refine (k.only hok (h.sound hs) (h.pool hp) a fun p n hn => ?_).trans (h.only hok hs hp a ha)
    rw [slotAddr_congr (h.cfg p)]
    exact ha p n (h.held p n ▸ hn)

theorem keepsSlots_foldl {α : Type} {f : State → α → State} (l : List α) (hf : ∀ t x, State.keepsSlots ok t (f t x)) (s : State) :
    State.keepsSlots ok s (l.foldl f s) :=
  List.foldlRecOn l f (.refl ok s) fun _ h x _ => h.trans (hf _ x)

/-- The image of a slot after an update of a table of images. -/
theorem imageAt_modSched (s : State) (p : Nat) {f : PartSched → PartSched} {g : Nat × Image → Nat × Image}
    (hg : ∀ x, (g x).1 = x.1) (hf : ∀ d, (f d).images = d.images.map g) (q k : Nat) :
    (s.modSched p f).imageAt q k = (s.imageAt q k).map fun i => if q = p then (g (k, i)).2 else i := by
  rw [State.imageAt, State.imageAt]
  by_cases e : q = p
  · subst e
    simp only [part_modSched_self, hf, tfind_map g hg, if_true]
  · simp only [part_modSched_ne s e, if_neg e, Option.map_id']

/-- An update of the scheduler's state that keeps the images of the table. -/
theorem keepsSlots_modSched (s : State) (p : Nat) {f : PartSched → PartSched} {g : Nat × Image → Nat × Image} (hg : keepsImages g)
    (hf : ∀ d, (f d).images = d.images.map g := by exact fun _ => rfl) : State.keepsSlots ok s (s.modSched p f) where
  spindles := rfl
  cfg q := by
    by_cases e : q = p
    · subst e; rw [part_modSched_self]
    · rw [part_modSched_ne s e]
  held q k := by rw [imageAt_modSched s p hg.slot hf, Option.isSome_map]
  pool h x hx y hy := by
    rcases mem_tput hx with rfl | hx
    · rw [hf] at hy
      obtain ⟨z, hz, rfl⟩ := List.mem_map.1 hy
      rw [hg.ctx, hg.spin]
      rcases tget_mem {} p s.parts with listed | ⟨-, default⟩
      · exact h _ listed z hz
      · rw [State.part, default] at hz
        exact absurd hz List.not_mem_nil
    · exact h x hx y hy
  sound h := h
  only _ _ _ _ _ := rfl

theorem keepsImages_id : keepsImages id := ⟨fun _ => rfl, fun _ => rfl, fun _ => rfl⟩

/-- The image of one slot is updated, in a table of images. -/
def atSlot (slot : Nat) (f : Image → Image) (x : Nat × Image) : Nat × Image := if x.1 == slot then (x.1, f x.2) else x

theorem keepsImages_at (slot : Nat) {f : Image → Image} (ctx : ∀ i, (f i).ctx = i.ctx) (spin : ∀ i, (f i).spin = i.spin) :
    keepsImages (atSlot slot f) := by
  unfold atSlot
  refine ⟨fun x => ?_, fun x => ?_, fun x => ?_⟩
  · split <;> rfl
  · split
    · exact ctx _
    · rfl
  · split
    · exact spin _
    · rfl

/-- An image whose context has no unpublished shadows of its own slice. -/
theorem poolFree_image {k : Nat} {i : Image} (h : s.poolFree) (hi : s.imageAt p k = some i) : i.ctx.eng.ownPool i.spin = [] := by
  rw [State.imageAt] at hi
  rcases tget_mem {} p s.parts with listed | ⟨-, default⟩
  · exact h _ listed _ (tfind_mem hi)
  · rw [State.part, default] at hi
    cases hi

end KeepsSlots

/-! ### Runs of writes to one slot -/

/-- The length of what is written to a slot. -/
def slotLen : Nat ⊕ List Byte → Nat
  | .inl n => n
  | .inr bs => bs.length

/-- A run of writes to one slot; those of which `ok` is known stay within the slot. -/
inductive State.slotRun (p slot : Nat) (ok : Prop) (s : State) : State → Prop
  | refl : slotRun p slot ok s s
  | write {t : State} (run : slotRun p slot ok s t) (off : Nat) (x : Nat ⊕ List Byte)
      (fits : ok → off + slotLen x ≤ 0x1800000) : slotRun p slot ok s (t.writeSlot p slot off x)

/-- Of the images of the table only what is noted of their bytes differs. -/
structure State.notesBytes (s t : State) : Prop where
  image : ∀ p k i, s.imageAt p k = some i → ∃ w, t.imageAt p k = some { i with written := w }

section Runs
variable {ok : Prop} {s t u : State} {p slot : Nat}

theorem State.notesBytes.refl (s : State) : s.notesBytes s := ⟨fun _ _ i hi => ⟨i.written, hi⟩⟩

theorem State.notesBytes.trans (h : s.notesBytes t) (k : t.notesBytes u) : s.notesBytes u := by
  refine ⟨fun p n i hi => ?_⟩
  obtain ⟨v, hv⟩ := h.image p n i hi
  obtain ⟨w, hw⟩ := k.image p n _ hv
  exact ⟨w, hw⟩

theorem notesBytes_foldl {α : Type} {f : State → α → State} (l : List α) (hf : ∀ t x, State.notesBytes t (f t x)) (s : State) :
    s.notesBytes (l.foldl f s) :=
  List.foldlRecOn l f (.refl s) fun _ h x _ => h.trans (hf _ x)

/-- Bytes within the slot of an image. -/
theorem keepsSlots_writeIn {a off : Nat} {bs : List Byte} (ha : a = s.slotAddr p slot + off) (image : (s.imageAt p slot).isSome = true)
    (fits : ok → off + bs.length ≤ 0x1800000) : State.keepsSlots ok s (s.modMem fun m => m.write a bs) where
  spindles := rfl
  cfg _ := rfl
  held _ _ := rfl
  pool h := h
  sound h := Memory.write_wf _ _ h
  only hok hs _ b hb := by
    have := fits hok
    exact cellGet_cellsWrite_out _ _ _ hs (by have := hb p slot image; omega)

/-- An image with bytes noted that go to a place of its slot. -/
def Image.note (off : Nat) (bs : List Byte) (i : Image) : Image := { i with written := tput off bs i.written }

theorem keepsImages_note (slot off : Nat) (bs : List Byte) : keepsImages (atSlot slot (Image.note off bs)) :=
  keepsImages_at slot (fun _ => rfl) fun _ => rfl

/-- Bytes are noted that go to a place of a slot. -/
def State.note (s : State) (p slot off : Nat) (bs : List Byte) : State :=
  s.modSched p fun d => { d with images := d.images.map (atSlot slot (Image.note off bs)) }

/-- A write of bytes that the image key hides (R370). -/
theorem writeSlot_hidden (s : State) (p slot off n : Nat) : s.writeSlot p slot off (.inl n) =
    ((s.freeBytes n).2.note p slot off (s.freeBytes n).1).modMem fun m => m.write (s.slotAddr p slot + off) (s.freeBytes n).1 := rfl

theorem freeBytes_length (s : State) (n : Nat) : (s.freeBytes n).1.length = n := by
  rw [State.freeBytes, List.length_map, List.length_range]

theorem keepsSlots_writeSlot {off : Nat} {x : Nat ⊕ List Byte} (image : (s.imageAt p slot).isSome = true)
    (fits : ok → off + slotLen x ≤ 0x1800000) : State.keepsSlots ok s (s.writeSlot p slot off x) := by
  cases x with
  | inr bs => exact keepsSlots_writeIn rfl image fits
  | inl n =>
    have taken : State.keepsSlots ok s (s.freeBytes n).2 := ⟨rfl, fun _ => rfl, fun _ _ => rfl, id, id, fun _ _ _ _ _ => rfl⟩
    have noted : State.keepsSlots ok s ((s.freeBytes n).2.note p slot off (s.freeBytes n).1) :=
      taken.trans (keepsSlots_modSched _ p (keepsImages_note slot off _))
    rw [writeSlot_hidden]
    refine noted.trans (keepsSlots_writeIn (p := p) (slot := slot) (off := off) ?_ ?_ fun hok => ?_)
    · rw [slotAddr_congr (noted.cfg p)]
    · rw [noted.held, image]
    · rw [freeBytes_length]
      exact fits hok

theorem notesBytes_note (s : State) (p slot off : Nat) (bs : List Byte) : s.notesBytes (s.note p slot off bs) := by
  refine ⟨fun q k i hi => ?_⟩
  rw [State.note, imageAt_modSched s p (keepsImages_note slot off bs).slot (fun _ => rfl), hi, Option.map_some]
  unfold atSlot
  split
  · split
    · exact ⟨_, rfl⟩
    · exact ⟨i.written, rfl⟩
  · exact ⟨i.written, rfl⟩

theorem notesBytes_writeSlot (s : State) (p slot off : Nat) (x : Nat ⊕ List Byte) : s.notesBytes (s.writeSlot p slot off x) := by
  cases x with
  | inr bs => exact ⟨fun _ _ i hi => ⟨i.written, hi⟩⟩
  | inl n =>
    obtain ⟨noted⟩ := notesBytes_note (s.freeBytes n).2 p slot off (s.freeBytes n).1
    exact ⟨noted⟩

/-- A run of writes to the slot of an image. -/
theorem State.slotRun.keeps (run : State.slotRun p slot ok s t) (image : (s.imageAt p slot).isSome = true) :
    State.keepsSlots ok s t := by
  induction run with
  | refl => exact .refl ok s
  | write run off x fits ih => exact ih.trans (keepsSlots_writeSlot ((ih.held ..).trans image) fits)

theorem State.slotRun.notes (run : State.slotRun p slot ok s t) : s.notesBytes t := by
  induction run with
  | refl => exact .refl s
  | write run off x fits ih => exact ih.trans (notesBytes_writeSlot ..)

theorem State.slotRun.foldl {α : Type} {f : State → α → State} (l : List α)
    (hf : ∀ t, ∀ x ∈ l, State.slotRun p slot ok s t → State.slotRun p slot ok s (f t x)) (run : State.slotRun p slot ok s t) :
    State.slotRun p slot ok s (l.foldl f t) :=
  List.foldlRecOn l f run fun t h x hx => hf t x hx h

end Runs

/-! ### The head and the blocks of an image (R345) -/

theorem bytesLE_length (v n : Nat) : (bytesLE v n).length = n := by
  induction n generalizing v with
  | zero => rfl
  | succ n ih => rw [bytesLE, List.length_cons, ih]

/-- The header and the directory are 2544 bytes. -/
theorem head_length (i : Image) (p : Nat) : (i.head p).length = 2544 := by
  simp only [Image.head, List.length_append, bytesLE_length, List.length_replicate, List.length_flatMap, List.map_const',
    List.length_range, List.sum_replicate, smul_eq_mul]

section Head
variable {s : State} {p slot : Nat} {i : Image}

theorem writeHead_image (hi : s.imageAt p slot = some i) :
    s.writeHead p slot = s.writeSlot p slot 0 (.inr (i.head p)) := by
  simp only [State.writeHead, hi]

theorem writeHead_none (hi : s.imageAt p slot = none) : s.writeHead p slot = s := by
  simp only [State.writeHead, hi]

theorem keepsSlots_writeHead (ok : Prop) (s : State) (p slot : Nat) : State.keepsSlots ok s (s.writeHead p slot) := by
  cases hi : s.imageAt p slot with
  | none =>
    rw [writeHead_none hi]
    exact .refl ok s
  | some i =>
    rw [writeHead_image hi]
    refine keepsSlots_writeSlot (by rw [hi]; rfl) fun _ => ?_
    rw [slotLen, head_length]
    omega

theorem notesBytes_writeHead (s : State) (p slot : Nat) : s.notesBytes (s.writeHead p slot) := by
  cases hi : s.imageAt p slot with
  | none =>
    rw [writeHead_none hi]
    exact .refl s
  | some i =>
    rw [writeHead_image hi]
    exact notesBytes_writeSlot ..

/-- The form and the poison bits of a block. -/
theorem slotRun_bits {ok : Prop} {t : State} (run : State.slotRun p slot ok s t) {f q : Nat} (x : SavedBlock)
    (fits : ok → f + 128 ≤ 0x1800000 ∧ q + 128 ≤ 0x1800000) : State.slotRun p slot ok s
      ((t.writeSlot p slot f (.inr (lineBits x.form))).writeSlot p slot q (.inr (lineBits x.poison))) := by
  refine (run.write f _ fun h => ?_).write q _ fun h => ?_
  · rw [slotLen, lineBits, bytesLE_length]
    exact (fits h).1
  · rw [slotLen, lineBits, bytesLE_length]
    exact (fits h).2

/-- The bytes of a block have their place in a slot. -/
theorem blockSpan_fits {b : Nat} (hb : b < 310) : (blockSpan b).1 + (blockSpan b).2 ≤ 0x1800000 := by
  unfold blockSpan
  split <;> dsimp only <;> omega

/-- A block with its tag and its bits goes to its slot, the shadow pool with block 3. -/
theorem writeBlock_run (b : Nat) (hi : s.imageAt p slot = some i) :
    State.slotRun p slot (b < 310 ∧ i.ctx.eng.ownPool i.spin = []) s (s.writeBlock p slot b) := by
  simp only [State.writeBlock, hi]
  split
  · exact .refl
  · have bytes : State.slotRun p slot (b < 310 ∧ i.ctx.eng.ownPool i.spin = []) s
        ((s.writeSlot p slot (blockSpan b).1 (.inl (blockSpan b).2)).writeSlot p slot (tagPlace b) (.inl 16)) := by
      refine (State.slotRun.refl.write _ _ fun h => blockSpan_fits h.1).write _ _ fun h => ?_
      rw [slotLen, tagPlace]
      omega
    have bits := slotRun_bits bytes (f := formPlace (b - 6)) (q := poisonPlace (b - 6)) (tget {} b i.blocks) fun h => by
      rw [formPlace, poisonPlace]
      omega
    split
    · refine State.slotRun.foldl _ (fun t pb hpb run => ?_) ?_
      · have none : ¬ (b < 310 ∧ i.ctx.eng.ownPool i.spin = []) := fun h => absurd (h.2 ▸ hpb) List.not_mem_nil
        exact slotRun_bits ((run.write _ _ fun h => absurd h none).write _ _ fun h => absurd h none) _ fun h => absurd h none
      · split
        · exact bits
        · exact bytes
    · split
      · exact bits
      · exact bytes

theorem writeBlock_none (b : Nat) (hi : s.imageAt p slot = none) : s.writeBlock p slot b = s := by
  simp only [State.writeBlock, hi]

theorem keepsSlots_writeBlock (s : State) (p slot b : Nat) : State.keepsSlots (b < 310) s (s.writeBlock p slot b) := by
  cases hi : s.imageAt p slot with
  | none =>
    rw [writeBlock_none b hi]
    exact .refl _ s
  | some i =>
    have kept := (writeBlock_run b hi).keeps (by rw [hi]; rfl)
    exact ⟨kept.spindles, kept.cfg, kept.held, kept.pool, kept.sound,
      fun hb hs hp => kept.only ⟨hb, poolFree_image hp hi⟩ hs hp⟩

theorem notesBytes_writeBlock (s : State) (p slot b : Nat) : s.notesBytes (s.writeBlock p slot b) := by
  cases hi : s.imageAt p slot with
  | none =>
    rw [writeBlock_none b hi]
    exact .refl s
  | some i => exact (writeBlock_run b hi).notes

end Head

end Sys2Proof.Machine
end

section
/-!
PROOFS. Owed blocks that are written out, and images that become complete (R345, R350, R351).
-/

namespace Sys2Proof.Machine

/-! ### The write-out of a block (R350) -/

theorem exec_owedBlockWriteout (n b : Nat) (s : State) : exec (.owedBlockWriteout n b) s = .next (s.writeOut n b) := rfl

/-- A spindle that owes block b of context id no longer. -/
def Spindle.paid (b id : Nat) (sp : Spindle) : Spindle :=
  { sp with
    owed := sp.owed.filter fun x => !(x.1 == b && x.2 == id)
    want := if sp.absent.any (fun x => x.1 == b) then sp.want else delN b sp.want }

/-- The entry of block b once it is written out, in the place of any other. -/
def dirOut (b : Nat) (c : Ctx) (t : Tbl SavedBlock) (l : List (Nat × BlockSrc)) : List (Nat × BlockSrc) :=
  l.filter (fun x => x.1 != b) ++ [(b, savedSrc c t b)]

/-- What is saved of context id in partition p takes block b of spindle n, where its bytes are still in place. -/
def State.saveFor (n b id : Nat) (inPlace : Bool) (s : State) (p : Nat) : State :=
  s.modSaved p id (if inPlace then s.saveBlocks n (s.savedEng p id) [b] else fun t => t) (dirOut b)

/-- The block and the head go to every slot in which an image of the context is being written. -/
def State.writeImages (s : State) (p id b : Nat) : State :=
  (s.slotsOf p id).foldl (fun s k => (s.writeBlock p k b).writeHead p k) s

/-- The write-out of block b of context id, as partition p takes it. -/
def State.writeOutPart (n b id : Nat) (inPlace : Bool) (s : State) (p : Nat) : State :=
  (State.saveFor n b id inPlace s p).writeImages p id b

/-- A write-out, in the terms of the definitions above. -/
theorem writeOut_eq {s : State} {n b id : Nat} (h : ((s.sp n).owed.find? fun x => x.1 == b) = some (b, id)) :
    ∃ inPlace, s.writeOut n b =
      (s.parts.map Prod.fst).foldl (State.writeOutPart n b id inPlace) (s.setSp n ((s.sp n).paid b id)) := by
  simp only [State.writeOut, h]
  exact ⟨_, rfl⟩

/-- An image that is being written of context id takes a block, in a table of images. -/
def imageOut (b id : Nat) (f : Tbl SavedBlock → Tbl SavedBlock) (x : Nat × Image) : Nat × Image :=
  if x.2.ctx.id == id && x.2.state == 0 then (x.1, { x.2 with blocks := f x.2.blocks, dir := dirOut b x.2.ctx (f x.2.blocks) x.2.dir })
  else x

theorem keepsImages_out (b id : Nat) (f : Tbl SavedBlock → Tbl SavedBlock) : keepsImages (imageOut b id f) := by
  refine ⟨fun x => ?_, fun x => ?_, fun x => ?_⟩ <;> rw [imageOut] <;> split <;> rfl

section WriteOut
variable {s t : State} {n b id p k : Nat} {inPlace : Bool}

theorem keepsSlots_saveFor {ok : Prop} (q : Nat) : State.keepsSlots ok s (State.saveFor n b id inPlace s q) := by
  unfold State.saveFor State.modSaved
  exact keepsSlots_modSched s q (keepsImages_out b id _)

theorem keepsSlots_writeImages (s : State) (p id b : Nat) : State.keepsSlots (b < 310) s (s.writeImages p id b) :=
  keepsSlots_foldl _ (fun _ _ => (keepsSlots_writeBlock ..).trans (keepsSlots_writeHead ..)) s

theorem notesBytes_writeImages (s : State) (p id b : Nat) : s.notesBytes (s.writeImages p id b) :=
  notesBytes_foldl _ (fun _ _ => (notesBytes_writeBlock ..).trans (notesBytes_writeHead ..)) s

theorem keepsSlots_writeOutPart (q : Nat) : State.keepsSlots (b < 310) s (State.writeOutPart n b id inPlace s q) :=
  (keepsSlots_saveFor q).trans (keepsSlots_writeImages ..)

/-- A write-out changes the debt of its spindle, and otherwise the images and their slots alone. -/
theorem writeOut_keeps (h : ((s.sp n).owed.find? fun x => x.1 == b) = some (b, id)) :
    State.keepsSlots (b < 310) (s.setSp n ((s.sp n).paid b id)) (s.writeOut n b) := by
  obtain ⟨inPlace, eq⟩ := writeOut_eq h
  rw [eq]
  exact keepsSlots_foldl _ (fun _ q => keepsSlots_writeOutPart q) _

theorem paid_owed (b id : Nat) (sp : Spindle) : (b, id) ∉ (sp.paid b id).owed := by
  intro h
  have := (List.mem_filter.1 h).2
  simp at this

theorem writeOut_sp (h : ((s.sp n).owed.find? fun x => x.1 == b) = some (b, id)) : (s.writeOut n b).sp n = (s.sp n).paid b id := by
  rw [State.sp, (writeOut_keeps h).spindles]
  exact sp_setSp ..

/-- The image of context c in a slot is being written; if `out`, its entry of block b says where the block now is. -/
def State.imageGets (s : State) (p k b : Nat) (c : Ctx) (out : Prop) : Prop :=
  ∃ i, s.imageAt p k = some i ∧ i.ctx = c ∧ i.state = 0
    ∧ (out → (i.dir.filter fun x => x.1 == b) = [(b, savedSrc i.ctx i.blocks b)])

theorem dirOut_filter (b : Nat) (c : Ctx) (u : Tbl SavedBlock) (l : List (Nat × BlockSrc)) :
    (dirOut b c u l).filter (fun x => x.1 == b) = [(b, savedSrc c u b)] := by
  have others : ((l.filter fun x => x.1 != b).filter fun x => x.1 == b) = [] := by
    rw [List.filter_filter, List.filter_eq_nil_iff]
    intro x _
    simp
  rw [dirOut, List.filter_append, others, List.nil_append]
  exact List.filter_cons_of_pos (beq_self_eq_true b)

theorem imageGets_writeOutPart {c : Ctx} {out : Prop} (hc : c.id = id) (h : s.imageGets p k b c out) (q : Nat) :
    (State.writeOutPart n b id inPlace s q).imageGets p k b c (out ∨ p = q) := by
  obtain ⟨i, hi, ctx, writing, entry⟩ := h
  have saved : ∃ j, (State.saveFor n b id inPlace s q).imageAt p k = some j ∧ j.ctx = c ∧ j.state = 0
      ∧ (out ∨ p = q → (j.dir.filter fun x => x.1 == b) = [(b, savedSrc j.ctx j.blocks b)]) := by
    refine ⟨_, (imageAt_modSched s q (keepsImages_out b id _).slot (fun _ => rfl) p k).trans (congrArg _ hi), ?_⟩
    dsimp only
    by_cases e : p = q
    · rw [if_pos e, imageOut, if_pos (by simp [ctx, hc, writing])]
      exact ⟨ctx, writing, fun _ => dirOut_filter ..⟩
    · rw [if_neg e]
      exact ⟨ctx, writing, fun x => entry (x.resolve_right e)⟩
  obtain ⟨j, hj, rest⟩ := saved
  obtain ⟨w, hw⟩ := (notesBytes_writeImages (State.saveFor n b id inPlace s q) q id b).image p k j hj
  exact ⟨_, hw, rest⟩

theorem imageGets_foldl {c : Ctx} {out : Prop} (hc : c.id = id) (ps : List Nat) (h : s.imageGets p k b c out) :
    (ps.foldl (State.writeOutPart n b id inPlace) s).imageGets p k b c (out ∨ p ∈ ps) := by
  induction ps generalizing s out with
  | nil => exact h.imp fun i ⟨hi, ctx, writing, entry⟩ => ⟨hi, ctx, writing, fun x => entry (x.resolve_right List.not_mem_nil)⟩
  | cons q ps ih =>
    refine (ih (imageGets_writeOutPart hc h q)).imp fun i ⟨hi, ctx, writing, entry⟩ => ⟨hi, ctx, writing, fun x => entry ?_⟩
    rcases x with x | x
    · exact .inl (.inl x)
    · exact (List.mem_cons.1 x).elim (fun e => .inl (.inr e)) .inr

/-- The entry of an image names where the block now is. -/
theorem writeOut_image {i : Image} (h : ((s.sp n).owed.find? fun x => x.1 == b) = some (b, id)) (hi : s.imageAt p k = some i)
    (mine : i.ctx.id = id) (writing : i.state = 0) : (s.writeOut n b).imageGets p k b i.ctx True := by
  have listed : p ∈ s.parts.map Prod.fst := by
    rcases tget_mem {} p s.parts with listed | ⟨-, default⟩
    · exact List.mem_map_of_mem listed
    · rw [State.imageAt, State.part, default] at hi
      cases hi
  obtain ⟨inPlace, eq⟩ := writeOut_eq h
  have before : (s.setSp n ((s.sp n).paid b id)).imageGets p k b i.ctx False := ⟨i, hi, rfl, writing, False.elim⟩
  rw [eq]
  exact (imageGets_foldl mine _ before).imp fun _ ⟨hi, ctx, writing, entry⟩ => ⟨hi, ctx, writing, fun _ => entry (.inr listed)⟩

end WriteOut

/-! ### The end of an image (R351) -/

theorem exec_imageDrainBlock (n : Nat) (s : State) : exec (.imageDrainBlock n) s = .next (s.drain n) := rfl

/-- A complete image. -/
def Image.whole (i : Image) : Image := { i with state := 1 }

/-- An image becomes complete, and its head says so. -/
def State.markWhole (s : State) (p slot : Nat) : State :=
  (s.modSched p fun d => { d with images := d.images.map (atSlot slot Image.whole) }).writeHead p slot

/-- A unit whose images are complete becomes ready. -/
def State.toReady (s : State) (p : Nat) (w : Work) : State :=
  s.modSched p fun d => { d with resting := d.resting.filter fun x => x != w, ready := d.ready ++ [{ w with readyAt := s.gcyc }] }

/-- Whether the images of a unit are complete. -/
def imagesDone (t : Tbl Image) (w : Work) : Bool := w.images.all fun k => match tfind k t with | some i => i.state == 1 | none => true

/-- The unit of a slot becomes ready when all its images are complete. -/
def State.readyWhole (s : State) (p slot : Nat) : State :=
  match (s.part p).sched.resting.find? fun w => w.images.contains slot with
  | none => s
  | some w => if imagesDone (s.part p).sched.images w then (s.toReady p w).schedDue p else s

theorem completeImage_eq (s : State) (p slot : Nat) : s.completeImage p slot = (s.markWhole p slot).readyWhole p slot := rfl

theorem keepsImages_whole (slot : Nat) : keepsImages (atSlot slot Image.whole) := keepsImages_at slot (fun _ => rfl) fun _ => rfl

/-- An update of the scheduler's state that leaves its images. -/
theorem keepsSlots_modSched_images {ok : Prop} (s : State) (p : Nat) {f : PartSched → PartSched}
    (hf : ∀ d, (f d).images = d.images := by exact fun _ => rfl) : State.keepsSlots ok s (s.modSched p f) :=
  keepsSlots_modSched s p keepsImages_id fun d => (hf d).trans (List.map_id _).symm

theorem imageAt_modSched_images (s : State) (p : Nat) {f : PartSched → PartSched} (q k : Nat)
    (hf : ∀ d, (f d).images = d.images := by exact fun _ => rfl) : (s.modSched p f).imageAt q k = s.imageAt q k := by
  rw [imageAt_modSched s p (g := id) (fun _ => rfl) fun d => (hf d).trans (List.map_id _).symm]
  simp

theorem readyWhole_cases (s : State) (p slot : Nat) :
    s.readyWhole p slot = s ∨ ∃ w, s.readyWhole p slot = (s.toReady p w).schedDue p := by
  unfold State.readyWhole
  split
  · exact .inl rfl
  · split
    · exact .inr ⟨_, rfl⟩
    · exact .inl rfl

theorem readyWhole_mem (s : State) (p slot : Nat) : (s.readyWhole p slot).mem = s.mem := by
  rcases readyWhole_cases s p slot with eq | ⟨w, eq⟩ <;> rw [eq]
  rfl

theorem readyWhole_imageAt (s : State) (p slot q k : Nat) : (s.readyWhole p slot).imageAt q k = s.imageAt q k := by
  rcases readyWhole_cases s p slot with eq | ⟨w, eq⟩ <;> rw [eq]
  exact (imageAt_modSched_images _ p q k).trans (imageAt_modSched_images s p q k)

theorem readyWhole_ready {s : State} {p slot : Nat} {w : Work}
    (hw : ((s.part p).sched.resting.find? fun w => w.images.contains slot) = some w)
    (complete : ∀ k ∈ w.images, ∀ j, s.imageAt p k = some j → j.state = 1) :
    { w with readyAt := s.gcyc } ∈ ((s.readyWhole p slot).part p).sched.ready := by
  have done : imagesDone (s.part p).sched.images w = true := by
    refine List.all_eq_true.2 fun k hk => ?_
    cases hj : tfind k (s.part p).sched.images with
    | none => rfl
    | some j => exact beq_iff_eq.2 (complete k hk j hj)
  have eq : s.readyWhole p slot = (s.toReady p w).schedDue p := by
    simp only [State.readyWhole, hw, done, if_true]
  rw [eq, State.schedDue, part_modSched_self, State.toReady, part_modSched_self]
  exact List.mem_append_right _ (List.mem_singleton.2 rfl)

theorem keepsSlots_readyWhole (ok : Prop) (s : State) (p slot : Nat) : State.keepsSlots ok s (s.readyWhole p slot) := by
  rcases readyWhole_cases s p slot with eq | ⟨w, eq⟩ <;> rw [eq]
  · exact .refl ok s
  · exact (keepsSlots_modSched_images s p).trans (keepsSlots_modSched_images _ p)

theorem keepsSlots_completeImage (ok : Prop) (s : State) (p slot : Nat) : State.keepsSlots ok s (s.completeImage p slot) := by
  rw [completeImage_eq]
  exact ((keepsSlots_modSched s p (keepsImages_whole slot)).trans (keepsSlots_writeHead ok _ p slot)).trans
    (keepsSlots_readyWhole ok _ p slot)

theorem Memory.write_cells (m : Memory) (a : Nat) (bs : List Byte) : (m.write a bs).cells = cellsWrite m.cells a bs := rfl

theorem modMem_imageAt (s : State) (f : Memory → Memory) (q k : Nat) : (s.modMem f).imageAt q k = s.imageAt q k := rfl

theorem writeSlot_plain (s : State) (p slot off : Nat) (bs : List Byte) :
    s.writeSlot p slot off (.inr bs) = s.modMem fun m => m.write (s.slotAddr p slot + off) bs := rfl

section Whole
variable {s : State} {p slot : Nat} {i : Image}

theorem imageAt_mark (s : State) (p slot k : Nat) :
    (s.modSched p fun d => { d with images := d.images.map (atSlot slot Image.whole) }).imageAt p k =
      (s.imageAt p k).map fun i => if k == slot then i.whole else i := by
  rw [imageAt_modSched s p (keepsImages_whole slot).slot (fun _ => rfl)]
  refine congrArg (fun f => (s.imageAt p k).map f) (funext fun i => ?_)
  rw [if_pos rfl, atSlot]
  split <;> rfl

/-- The head of a complete image stands in its slot. -/
theorem markWhole_eq (hi : s.imageAt p slot = some i) : s.markWhole p slot =
    (s.modSched p fun d => { d with images := d.images.map (atSlot slot Image.whole) }).modMem fun m =>
      m.write (s.slotAddr p slot) (i.whole.head p) := by
  have marked : (s.modSched p fun d => { d with images := d.images.map (atSlot slot Image.whole) }).imageAt p slot =
      some i.whole := by
    rw [imageAt_mark, hi, Option.map_some, if_pos (beq_self_eq_true slot)]
  rw [State.markWhole, writeHead_image marked, writeSlot_plain, Nat.add_zero,
    slotAddr_congr (s := s) (by rw [part_modSched_self])]

theorem markWhole_imageAt (hi : s.imageAt p slot = some i) (k : Nat) : (s.markWhole p slot).imageAt p k =
    (s.imageAt p k).map fun i => if k == slot then i.whole else i := by
  rw [markWhole_eq hi, modMem_imageAt, imageAt_mark]

theorem markWhole_mem (hi : s.imageAt p slot = some i) :
    (s.markWhole p slot).mem = s.mem.write (s.slotAddr p slot) (i.whole.head p) := by
  rw [markWhole_eq hi]
  rfl

theorem markWhole_resting (hi : s.imageAt p slot = some i) :
    ((s.markWhole p slot).part p).sched.resting = (s.part p).sched.resting := by
  rw [markWhole_eq hi, show ∀ (t : State) f, (t.modMem f).part p = t.part p from fun _ _ => rfl, part_modSched_self]

theorem markWhole_gcyc (hi : s.imageAt p slot = some i) : (s.markWhole p slot).gcyc = s.gcyc := by
  rw [markWhole_eq hi]
  rfl

theorem completeImage_imageAt (hi : s.imageAt p slot = some i) : (s.completeImage p slot).imageAt p slot = some i.whole := by
  rw [completeImage_eq, readyWhole_imageAt, markWhole_imageAt hi, hi, Option.map_some, if_pos (beq_self_eq_true slot)]

theorem completeImage_mem (hi : s.imageAt p slot = some i) :
    (s.completeImage p slot).mem = s.mem.write (s.slotAddr p slot) (i.whole.head p) := by
  rw [completeImage_eq, readyWhole_mem, markWhole_mem hi]

/-- The head says that the image is complete, and no other byte of memory changes. -/
theorem completeImage_bytes (hs : s.sound) (hi : s.imageAt p slot = some i) :
    (s.completeImage p slot).mem.read (s.slotAddr p slot) 2544 = i.whole.head p
      ∧ ∀ a, a < s.slotAddr p slot ∨ s.slotAddr p slot + 2544 ≤ a →
          cellGet (s.completeImage p slot).mem.cells a = cellGet s.mem.cells a := by
  have length := head_length i.whole p
  rw [completeImage_mem hi]
  constructor
  · rw [← length]
    exact Memory.read_write _ _ hs
  · intro a ha
    rw [← length] at ha
    rw [Memory.write_cells, cellGet_cellsWrite_out _ _ _ hs ha]

/-- The unit whose images are now all complete is ready. -/
theorem completeImage_ready {w : Work} (hi : s.imageAt p slot = some i)
    (hw : ((s.part p).sched.resting.find? fun w => w.images.contains slot) = some w)
    (others : ∀ k ∈ w.images, k ≠ slot → ∀ j, s.imageAt p k = some j → j.state = 1) :
    { w with readyAt := s.gcyc } ∈ ((s.completeImage p slot).part p).sched.ready := by
  rw [completeImage_eq, ← markWhole_gcyc hi]
  refine readyWhole_ready (by rw [markWhole_resting hi]; exact hw) fun k hk j hj => ?_
  rw [markWhole_imageAt hi] at hj
  obtain ⟨j', hj', rfl⟩ := Option.map_eq_some_iff.1 hj
  by_cases e : k = slot
  · rw [if_pos (beq_iff_eq.2 e)]
    rfl
  · rw [if_neg (by simpa using e)]
    exact others k hk e j' hj'

end Whole

/-! ### The drain -/

section Drain
variable {s : State} {n b : Nat}

theorem drain_whole {p slot : Nat} (none : s.drainNext n = none) (whole : s.wholeOn n = [(p, slot)]) :
    s.drain n = s.completeImage p slot := by
  simp only [State.drain, none, whole, List.foldl_cons, List.foldl_nil]

theorem drain_block (next : s.drainNext n = some b) : s.drain n =
    ((s.writeOut n b).wholeOn n).foldl (fun s x => s.completeImage x.1 x.2) (s.writeOut n b) := by
  simp only [State.drain, next]

/-- The block that is drained next is owed. -/
theorem drainNext_owed (next : s.drainNext n = some b) : ∃ id, ((s.sp n).owed.find? fun x => x.1 == b) = some (b, id) := by
  have listed := List.mem_of_find?_eq_some (show List.find? _ _ = some b from next)
  obtain ⟨x, hx, rfl⟩ := List.mem_map.1 listed
  have found : ((s.sp n).owed.find? fun y => y.1 == x.1).isSome = true :=
    List.find?_isSome.2 ⟨x, (List.mem_filter.1 hx).1, beq_self_eq_true x.1⟩
  obtain ⟨⟨b', id⟩, hy⟩ := Option.isSome_iff_exists.1 found
  obtain rfl : b' = x.1 := by simpa using List.find?_some hy
  exact ⟨id, hy⟩

theorem drain_keeps {id : Nat} (next : s.drainNext n = some b) (owed : ((s.sp n).owed.find? fun x => x.1 == b) = some (b, id)) :
    State.keepsSlots (b < 310) (s.setSp n ((s.sp n).paid b id)) (s.drain n) := by
  rw [drain_block next]
  exact (writeOut_keeps owed).trans (keepsSlots_foldl _ (fun _ _ => keepsSlots_completeImage ..) _)

end Drain

end Sys2Proof.Machine
end

section
/-!
PROOFS. The entry of a task (R18, R21), and the settlement of O47.
-/

namespace Sys2Proof.Machine

theorem exec_segmentLoad (n : Nat) (s : State) : exec (.segmentLoad n) s = .next (s.loadTask n) := rfl

/-! ### The slice of a newcomer -/

section Enter
variable {s : State} {n p : Nat}

theorem stash_spindles (s : State) (n : Nat) : (s.stash n).spindles = s.spindles := by
  simp only [State.stash]
  split
  · split <;> rfl
  · rfl

theorem settleMap_spindles (s : State) (n : Nat) : (s.settleMap n).spindles = s.spindles := by
  simp only [State.settleMap]
  exact List.foldlRecOn (motive := fun t : State => t.spindles = s.spindles) _ _ rfl fun _ h _ _ => h

theorem freshSlice_spindles (s : State) (n : Nat) : (s.freshSlice n).spindles = s.spindles := rfl

/-- The slice is prepared without a change of the context. -/
theorem enterSlice_ctx (s : State) (n p : Nat) (fresh : Bool) : ((s.enterSlice n p fresh).sp n).ctx = s.ctxOf n := by
  simp only [State.enterSlice, sp_modSp]
  rw [State.sp]
  refine congrArg (fun t : Tbl Spindle => (tget {} n t).ctx) (Eq.trans ?_ (stash_spindles s n))
  split
  · rfl
  · split
    · rw [freshSlice_spindles, settleMap_spindles]
    · rfl

/-- The context with which a fresh task enters. -/
theorem enterTask_sp (s : State) (n k : Nat) (nd : Node) (g : Segment) : ((s.enterTask n k nd g).sp n).run = .running ∧
    ∃ frz ckpt, (s.enterTask n k nd g).ctxOf n = { entryCtx (s.ctxOf n) nd k g frz with ckpt := ckpt } := by
  simp only [State.enterTask, State.ctxOf, sp_modSp, enterSlice_ctx]
  exact ⟨trivial, _, _, rfl⟩

/-! ### The registers of a task that enters (R18) -/

/-- The registers and the control state that R18 gives task q of a node at its entry, its segment being g. -/
structure Ctx.enters (d : Ctx) (nd : Node) (k q : Nat) (g : Segment) : Prop where
  pc : d.pc = BitVec.ofNat 64 nd.entry
  x1 : d.regs.rx 1 = BitVec.ofNat 64 (nd.i0 + q / nd.jcount)
  x2 : d.regs.rx 2 = BitVec.ofNat 64 (nd.j0 + q % nd.jcount)
  x3 : d.regs.rx 3 = nd.param
  x4 : d.regs.rx 4 = BitVec.ofNat 64 k
  x5 : d.regs.rx 5 = BitVec.ofNat 64 q
  x : ∀ r : BitVec 5, 5 < r.toNat → d.regs.rx r = 0
  y : ∀ r, d.regs.ry r = 0
  p : ∀ r, d.regs.rp r = (r == 0)
  q : d.regs.q = 0
  ctl : d.ctl = { fixed := nd.fixed, strict := nd.strict, det := nd.det, estr := nd.estimate, seglo := g.seglo, seghi := g.seghi }
  k : ∀ i : Fin 256, d.regs.k[i] = g.cbank.getD i.val 0

theorem entryCtx_enters (c : Ctx) (nd : Node) (k : Nat) (g : Segment) (frz : BitVec 32) (ckpt : Bool) :
    Ctx.enters { entryCtx c nd k g frz with ckpt := ckpt } nd k c.ident.t.toNat g where
  pc := rfl
  x1 := by simp [entryCtx, Regs.rx]
  x2 := by simp [entryCtx, Regs.rx]
  x3 := by simp [entryCtx, Regs.rx]
  x4 := by simp [entryCtx, Regs.rx]
  x5 := by simp [entryCtx, Regs.rx]
  x r h := by
    simp only [entryCtx, Regs.rx]
    split
    · rfl
    · repeat rw [Vector.getElem_set_ne _ _ (by omega)]
      exact Vector.getElem_replicate _
  y r := by
    simp only [entryCtx, Regs.ry]
    split
    · rfl
    · exact Vector.getElem_replicate _
  p r := by
    simp only [entryCtx, Regs.rp]
    rw [Vector.getElem_replicate, Bool.or_false]
  q := rfl
  ctl := rfl
  k i := by
    simp [entryCtx]

end Enter

/-! ### What the supervisor finds (R21) -/

section Load
variable {s s' : State} {n id : Nat} {nd : Node} {g : Segment}

/-- What a load of a single task meets: it is placed alone, it waits for no write that its start acquires, and its segment is
found, with name id. -/
structure State.loadsAlone (s s' : State) (n id : Nat) (nd : Node) (g : Segment) : Prop where
  loading : (s.sp n).run = .loading
  node : s.nodeAt (s.ctxOf n).partN (s.ctxOf n).ident.handle.toNat (s.ctxOf n).ident.node.toNat = some nd
  alone : s.loadSet n = [n]
  queue : ∀ q ∈ (s.part (s.ctxOf n).partN).sched.queue, q.2 ≠ (s.ctxOf n).gang
  acquires : ∀ gr, s.graph (s.ctxOf n).partN (s.ctxOf n).ident.handle.toNat = some gr →
    s.mayAcquire n (gr.startClock (s.ctxOf n).ident.node.toNat) = true
  segment : s.segmentFor (standOf n) (s.ctxOf n).partN nd.seg = (some (some id), s')
  found : ((s'.stand (standOf n)).segs.find? fun g => g.id == id) = some g

/-- A load check that has come to its segment. -/
theorem loadCheck_entry (h : s.loadsAlone s' n id nd g) : s.loadCheck n =
    if decide (g.code.length ≤ nd.entry) || !g.heads.getD nd.entry false then (.refuse, s')
    else match (s'.sp n).image.bind fun k => (s'.imageAt (s.ctxOf n).partN k).map fun i => (k, i) with
      | some (k, i) => (if i.rev != s'.sec.rev then .kill else .enter nd g (some (k, i)), s')
      | none => (.enter nd g none, s') := by
  obtain ⟨gr, graph, -⟩ := Option.bind_eq_some_iff.1 h.node
  simp only [State.loadCheck, graph, h.node, h.acquires gr graph, h.segment, h.found]
  rfl

theorem loadCheck_enter (h : s.loadsAlone s' n id nd g) (inside : nd.entry < g.code.length)
    (head : g.heads.getD nd.entry false = true) (fresh : (s'.sp n).image = none) : s.loadCheck n = (.enter nd g none, s') := by
  rw [loadCheck_entry h, if_neg (by rw [head, decide_eq_false (by omega)]; exact Bool.false_ne_true), fresh]
  rfl

theorem loadCheck_refuse (h : s.loadsAlone s' n id nd g)
    (bad : g.code.length ≤ nd.entry ∨ g.heads.getD nd.entry false = false) : s.loadCheck n = (.refuse, s') := by
  rw [loadCheck_entry h, if_pos]
  rcases bad with bad | bad
  · rw [decide_eq_true bad, Bool.true_or]
  · rw [bad, Bool.not_false, Bool.or_true]

theorem loadChecks_one (s : State) (n : Nat) : s.loadChecks [n] = ([(n, (s.loadCheck n).1)], (s.loadCheck n).2) := rfl

theorem refuseTask_run (s : State) (n : Nat) : ((s.refuseTask n).sp n).run = .empty :=
  ((keeps_finishGraph (ns := []) ..).run n List.not_mem_nil).trans (vacate_run ..)

theorem queue_free (h : s.loadsAlone s' n id nd g) :
    ((s.part (s.ctxOf n).partN).sched.queue.any fun q => q.2 == (s.ctxOf n).gang) = false :=
  List.any_eq_false.2 fun q hq => by simpa using h.queue q hq

/-- A fresh task enters. -/
theorem loadTask_enter (h : s.loadsAlone s' n id nd g) (check : s.loadCheck n = (.enter nd g none, s'))
    (still : (s'.sp n).run = .loading) :
    ∃ clock, s.loadTask n = (s'.enterTask n (s.ctxOf n).ident.node.toNat nd g).mergeClock (dieOf n) clock := by
  simp [State.loadTask, h.loading, h.alone, loadChecks_one, check, queue_free h, still]

/-- A task whose entry is bad is refused. -/
theorem loadTask_refuse (h : s.loadsAlone s' n id nd g) (check : s.loadCheck n = (.refuse, s')) :
    s.loadTask n = s'.refuseTask n := by
  rw [State.loadTask, h.loading, h.alone, loadChecks_one, check]
  simp [queue_free h, refuseTask_run]

end Load

/-! ### The clauses of O47 -/

section Clauses
variable {s : State} {n b : Nat}

/-- A pull without an error: the block is there, with the bytes of its source. -/
theorem pull_brings {src : BlockSrc} (hs : s.sound) (absent : ((s.sp n).absent.find? fun x => x.1 == b) = some (b, src))
    (unowed : ((s.sp n).owed.any fun x => x.1 == b && x.2 != (s.ctxOf n).id) = false) (hr : b < 294) (ok : s.pullError n b = none) :
    let key := blockKey (s.ctxOf n).eng.bmap n b
    let saved := tget {} b (s.sp n).saved
    ∃ t, exec (.blockPullComplete n b) s = .next t ∧ (t.sp n).absent = (s.sp n).absent.filter (fun x => x.1 != b)
      ∧ b ∉ (t.sp n).want ∧ (src ≠ .segment → t.ctxOf n = s.ctxOf n)
      ∧ (src = .segment → ∀ g, s.segOf n = some g → ∀ i : Fin 256, (t.ctxOf n).regs.k[i] = g.cbank.getD i.val 0)
      ∧ (6 ≤ b → (∀ x ∈ saved.bytes, x.1 < 65536) → (∀ a, a < key ∨ key + 65536 ≤ a → cellGet t.mem.cells a = cellGet s.mem.cells a)
          ∧ (src = .zero → ∀ i, i < 65536 → cellGet t.mem.cells (key + i) = 0)
          ∧ (src = .image → cellsWf saved.bytes = true →
              ∀ i, i < 65536 → cellGet t.mem.cells (key + i) = cellGet saved.bytes i))
      ∧ (b < 6 → b ≠ 3 → s.sameMem t) := by
  intro key saved
  have pulled := pullDone_fills ok absent unowed
  have spindle : ((s.pullDone n b).sp n) = ((s.fillBlock n b src).sp n).gotBlock b := by rw [pulled, sp_modSp]
  have context : (s.pullDone n b).ctxOf n = (s.fillBlock n b src).ctxOf n := by rw [State.ctxOf, spindle]; rfl
  have memory : (s.pullDone n b).mem = (s.fillBlock n b src).mem := by rw [pulled]; rfl
  refine ⟨_, exec_blockPullComplete n b s, ?_, ?_, fun hsrc => ?_, fun hsrc g hg i => ?_, fun hb inside => ?_, fun hb h3 => ?_⟩
  · rw [spindle, Spindle.gotBlock, fillBlock_absent]
  · rw [spindle]
    simp [Spindle.gotBlock, delN]
  · rw [context, fillBlock_ctxOf hsrc]
  · subst hsrc
    rw [context, fillBlock_constants _ _ _ hr hg, State.modCtx, State.ctxOf, sp_modSp]
    simp
  · rw [memory]
    exact fillBlock_bytes hs hb hr inside
  · rw [State.sameMem, memory, fillBlock_mem_register _ _ _ _ (by simp [isMemBlock]; omega) h3 hr]
    exact fun _ => rfl

/-- An owed block is written out. -/
theorem writeOut_pays {id : Nat} (owed : ((s.sp n).owed.find? fun x => x.1 == b) = some (b, id)) :
    (b, id) ∉ ((s.writeOut n b).sp n).owed ∧ (s.writeOut n b).ctxOf n = s.ctxOf n := by
  rw [State.ctxOf, writeOut_sp owed]
  exact ⟨paid_owed b id _, rfl⟩

/-- A load of a single task enters with the registers of R18. -/
theorem load_enters {s' : State} {id : Nat} {nd : Node} {g : Segment} (h : s.loadsAlone s' n id nd g)
    (inside : nd.entry < g.code.length) (head : g.heads.getD nd.entry false = true) (fresh : (s'.sp n).image = none)
    (still : (s'.sp n).run = .loading) : ((s.loadTask n).sp n).run = .running
      ∧ ((s.loadTask n).ctxOf n).enters nd (s.ctxOf n).ident.node.toNat (s'.ctxOf n).ident.t.toNat g := by
  obtain ⟨clock, entered⟩ := loadTask_enter h (loadCheck_enter h inside head fresh) still
  obtain ⟨running, frz, ckpt, context⟩ := enterTask_sp s' n (s.ctxOf n).ident.node.toNat nd g
  have spindle : (s.loadTask n).sp n = (s'.enterTask n (s.ctxOf n).ident.node.toNat nd g).sp n := by
    rw [entered, State.sp, mergeClock_spindles]
    rfl
  rw [State.ctxOf, spindle]
  refine ⟨running, ?_⟩
  rw [← State.ctxOf, context]
  exact entryCtx_enters ..

/-- A bad entry refuses the task. -/
theorem load_refuses {s' : State} {id : Nat} {nd : Node} {g : Segment} (h : s.loadsAlone s' n id nd g)
    (bad : g.code.length ≤ nd.entry ∨ g.heads.getD nd.entry false = false) : ((s.loadTask n).sp n).run = .empty := by
  rw [loadTask_refuse h (loadCheck_refuse h bad), refuseTask_run]

end Clauses

end Sys2Proof.Machine

open Sys2Proof Sys2Proof.Machine

/-- Settles O47: pulls, write-outs, the end of an image and the entry of a task, each by the lemmas on its event. -/
theorem imageEvents : Obligations.ImageEvents := by
  unfold Obligations.ImageEvents
  refine ⟨fun n b src s hs absent unowed hr => ⟨fun a err => ?_, pull_brings hs absent unowed hr⟩, fun n b id s owed => ?_,
    fun n p slot i s none whole hi => ?_, fun n b s next => ?_, fun n id nd g s s' loading => ?_⟩
  · rw [exec_blockPullComplete, pullDone_error err]
  · have kept := writeOut_keeps owed
    obtain ⟨unowed, context⟩ := writeOut_pays owed
    refine ⟨_, exec_owedBlockWriteout n b s, unowed, context, fun hs hb hp => kept.only hb hs hp, fun p slot i hi mine writing => ?_⟩
    obtain ⟨i', hi', ctx, -, entry⟩ := writeOut_image owed hi mine writing
    exact ⟨i', hi', ctx, entry trivial⟩
  · rw [exec_imageDrainBlock, drain_whole none whole]
    exact ⟨_, _, rfl, completeImage_imageAt hi, rfl, fun hs => completeImage_bytes hs hi, fun w hw others =>
      completeImage_ready hi hw others⟩
  · obtain ⟨id, owed⟩ := drainNext_owed next
    have kept := drain_keeps next owed
    refine ⟨_, id, exec_imageDrainBlock n s, fun hs hb hp => kept.only hb hs hp, owed, ?_⟩
    rw [State.sp, kept.spindles, ← State.sp, sp_setSp]
    exact paid_owed b id _
  · intro c node alone queue acquires segment found
    have loads : s.loadsAlone s' n id nd g := ⟨loading, node, alone, queue, acquires, segment, found⟩
    rw [exec_segmentLoad]
    refine ⟨fun inside head fresh still => ?_, fun bad => ⟨_, rfl, load_refuses loads bad⟩⟩
    obtain ⟨running, enters⟩ := load_enters loads inside head fresh still
    obtain ⟨pc, x1, x2, x3, x4, x5, x, y, p, q, ctl, k⟩ := enters
    refine ⟨_, rfl, running, pc, x1, x2, x3, x4, x5, x, y, p, q, ?_⟩
    rw [ctl]
    exact ⟨rfl, rfl, rfl, rfl, rfl, rfl, rfl, rfl, rfl, rfl, rfl, rfl, rfl, rfl, rfl, k⟩
end

section
/-!
PROOFS. The words of a task that start a scheduler transaction (`Obligations.TransactionWords`).
-/

namespace Sys2Proof.Machine

/-! ### A result that awaits a reply (R191) -/

/-- The entry of a result that awaits one message. -/
def State.awaiting (s : State) (id lat bound : Nat) : Pending :=
  { left := lat, await := some id, bound := if s.c.ctl.strict then some bound else none }

theorem await_c (s : State) (id lat bound : Nat) :
    (s.await id lat bound).c = if s.c.ctl.hmode then { s.c with hpipe := s.c.hpipe ++ [s.awaiting id lat bound] }
      else { s.c with pipe := s.c.pipe ++ [s.awaiting id lat bound] } := modC_c s _

/-- The result is the last of those that count (R315). -/
theorem await_active (s : State) (id lat bound : Nat) :
    (s.await id lat bound).c.active = s.c.active ++ [s.awaiting id lat bound] := by
  rw [await_c, Ctx.active, Ctx.active]
  cases mode : s.c.ctl.hmode <;> simp [mode]

theorem await_sameRegs (s : State) (id lat bound : Nat) : (s.await id lat bound).c.sameRegs s.c := by
  rw [await_c]
  split <;> exact ⟨rfl, rfl, rfl, rfl⟩

/-! ### Transactions that a task waits for (R37, R40, R42, R338) -/

/-- A transaction is queued, and the task waits for its result in rd. -/
def State.startTx (s : State) (rd : BitVec 5) (k : TxKind) : State :=
  (s.queueTx k).modC fun c => { c with tx := .waiting rd }

/-- The words other than TLAUNCH that wait for a transaction, with its kind. -/
def txWords (rd ra : BitVec 5) (g : BitVec 4) (v : Word) : List (Instr × TxKind) :=
  [(.tjoinW rd ra g, .join v), (.admitC rd ra g, .admitC v), (.admitX rd ra g, .withdraw v), (.cut rd ra g, .cut v)]

section Words
variable {s : State} {g : BitVec 4} (rd ra : BitVec 5)

theorem txWord_plain (k : TxKind) (w : Word) (h : s.c.ctl.strict = false) : s.txWord rd k w = .ok (s.startTx rd k) :=
  if_neg (by simp [h])

theorem txWord_strict (k : TxKind) (w : Word) (h : s.c.ctl.strict = true) : s.txWord rd k w = s.raise tILLEGAL 0 w := if_pos h

/-- Such a word with a true guard is the transaction of its kind with the word of ra. -/
theorem exec_txWords (acts : s.acts g [0]) :
    ∀ x ∈ txWords rd ra g (s.c.regs.rx ra), exec x.1 s = commit 0 s (s.txWord rd x.2 (wordOf x.1)) := by
  have goes : ∀ k, commit 0 s (s.guarded g [0] k) = commit 0 s k := fun k => by rw [guarded_acts acts]
  simp only [txWords, List.forall_mem_cons, List.not_mem_nil, false_implies, implies_true, and_true]
  exact ⟨goes _, goes _, goes _, goes _⟩

theorem exec_txWords_plain (acts : s.acts g [0]) (h : s.c.ctl.strict = false) :
    ∀ x ∈ txWords rd ra g (s.c.regs.rx ra), exec x.1 s = .next (s.startTx rd x.2) := fun x hx => by
  rw [exec_txWords rd ra acts x hx, txWord_plain rd _ _ h, commit_ok]

theorem exec_txWords_strict (acts : s.acts g [0]) (h : s.c.ctl.strict = true) :
    ∀ x ∈ txWords rd ra g (s.c.regs.rx ra), exec x.1 s = traps s tILLEGAL 0 (wordOf x.1) := fun x hx => by
  rw [exec_txWords rd ra acts x hx, txWord_strict rd _ _ h, commit_raise, traps]

/-- TLAUNCH once the conditions of a PART fence hold (R37). -/
theorem exec_tlaunch_plain (acts : s.acts g [0]) (h : s.c.ctl.strict = false) (ordered : s.ordered 4) :
    exec (.tlaunch rd ra g) s = .next (s.startTx rd (.launch (s.c.regs.rx ra))) := by
  show commit 0 s (s.guarded g [0] (s.launchWord rd ra _)) = _
  rw [guarded_acts acts, State.launchWord, if_neg (by simp [h]), fenced_ordered ordered, txWord_plain rd _ _ h, commit_ok]

theorem exec_tlaunch_strict (acts : s.acts g [0]) (h : s.c.ctl.strict = true) :
    exec (.tlaunch rd ra g) s = traps s tILLEGAL 0 (wordOf (.tlaunch rd ra g)) := by
  show commit 0 s (s.guarded g [0] (s.launchWord rd ra _)) = _
  rw [guarded_acts acts, State.launchWord, if_pos h, commit_raise, traps]

/-! ### The poll of TJOIN (R40) -/

/-- The message of a poll. -/
def State.pollMsg (s : State) (rd ra : BitVec 5) : Msg :=
  { id := s.nextId, ctx := s.c.id, spin := s.cur, part := s.c.partN, loc := .phys 0, op := .join (s.c.regs.rx ra).toNat
    dest := if rd = 0 then .none else .x rd, waits := true, grp := s.nextId, val := s.c.regs.rx ra, slot := 0
    clock := s.clockOf (dieOf s.cur) }

/-- The poll is sent and queued. -/
def State.polls (s : State) (rd ra : BitVec 5) : State :=
  { s with nextId := s.nextId + 1, msgs := s.msgs ++ [s.pollMsg rd ra] }.queueTx (.poll (s.c.regs.rx ra) s.nextId)

theorem exec_tjoin (acts : s.acts g [0]) : exec (.tjoin rd ra g) s = .next ((s.polls rd ra).await s.nextId 6 400) := by
  show commit 0 s (s.guarded g [0] (.ok ((s.polls rd ra).await s.nextId 6 400))) = _
  exact commit_guarded acts

theorem polls_txq : ((s.polls rd ra).part s.c.partN).sched.txq = (s.part s.c.partN).sched.txq
    ++ [{ ctx := s.c.id, kind := .poll (s.c.regs.rx ra) s.nextId, clock := s.clockOf (dieOf s.cur) }] :=
  congrArg (fun x : Part => x.sched.txq) (part_modPart_self ..)

end Words

end Sys2Proof.Machine

open Sys2Proof Sys2Proof.Machine

/-- Settles O21: each word that waits starts its transaction or is illegal under STRICT, and the poll of TJOIN is a message
whose reply is awaited. -/
theorem transactionWords : Obligations.TransactionWords := by
  unfold Obligations.TransactionWords
  intro rd ra g s acts v queued waits
  refine ⟨fun plain => ?_, fun strict => ?_, _, exec_tjoin rd ra acts, await_sameRegs .., fun _ => rfl, polls_txq rd ra,
    s.pollMsg rd ra, rfl, rfl, rfl, rfl, _, await_active .., rfl, rfl, rfl⟩
  · have words := exec_txWords_plain rd ra acts plain
    simp only [txWords, List.forall_mem_cons] at words
    obtain ⟨joins, admits, withdraws, cuts, -⟩ := words
    exact ⟨exec_tlaunch_plain rd ra acts plain, joins, admits, withdraws, cuts⟩
  · have words := exec_txWords_strict rd ra acts strict
    simp only [txWords, List.forall_mem_cons, List.not_mem_nil, false_implies, implies_true, and_true] at words ⊢
    exact ⟨exec_tlaunch_strict rd ra acts strict, words⟩
end

section
/-!
PROOFS. The lease, host gate operations and access lists: what each event of a host does (`Obligations.HostAccesses`).
-/

namespace Sys2Proof.Machine

/-! ### Outputs and gates after an update -/

/-- Outputs that follow one another. -/
theorem foldl_emit {α : Type} (f : α → HostOut) (l : List α) (s : State) :
    l.foldl (fun s x => s.emit (f x)) s = { s with out := s.out ++ l.map f } := by
  induction l generalizing s with
  | nil => simp
  | cons x l ih => rw [List.foldl_cons, ih, State.emit, List.map_cons, List.append_assoc]; rfl

theorem gate_modGate_self (s : State) (n : Nat) (f : Gate → Gate) : (s.modGate n f).gate n = f (s.gate n) := tget_tput_self ..

theorem gate_modGate_ne (s : State) {m n : Nat} (h : m ≠ n) (f : Gate → Gate) : (s.modGate n f).gate m = s.gate m :=
  tget_tput_ne _ _ h _

theorem gate_congr {s t : State} (h : t.gates = s.gates) (n : Nat) : t.gate n = s.gate n := by rw [State.gate, State.gate, h]

/-! ### The lease (R34) -/

/-- The lease with a new holder at a count. -/
def Lease.heldBy (l : Lease) (h : BitVec 2) (at_ : Nat) : Lease :=
  { l with
    holder := h
    since := at_
    epoch := if h = l.holder then l.epoch else l.epoch + 1
    pending := if h = 0 then l.pending else []
    writes := if h = 0 then l.writes else [] }

/-- What waits for a holder and goes out to it: writes, then interrupts. -/
def Lease.sends (l : Lease) (h : BitVec 2) : List HostOut :=
  if h = 0 then []
  else l.writes.map (fun x => .memWrite (h.toNat - 1) x.1 x.2) ++ l.pending.map fun x => .msix x.1 x.2 (h.toNat - 1)

theorem heldBy_new {l : Lease} {h : BitVec 2} (named : h ≠ 0) (new : h ≠ l.holder) (at_ : Nat) :
    l.heldBy h at_ = { l with holder := h, since := at_, epoch := l.epoch + 1, pending := [], writes := [] } := by
  simp only [Lease.heldBy, if_neg named, if_neg new]

theorem sends_none (l : Lease) : l.sends 0 = [] := rfl

theorem sends_port {l : Lease} {h : BitVec 2} (named : h ≠ 0) : l.sends h =
    l.writes.map (fun x => .memWrite (h.toNat - 1) x.1 x.2) ++ l.pending.map fun x => .msix x.1 x.2 (h.toNat - 1) := if_neg named

/-- From a state whose lease has become l to one in which it has a new holder: what changes but the black box, and what does
not. -/
structure State.handsOver (s : State) (l : Lease) (h : BitVec 2) (t : State) : Prop where
  lease : t.lease = l.heldBy h s.gcyc
  out : t.out = s.out ++ l.sends h
  mem : t.mem = s.mem
  spindles : t.spindles = s.spindles

theorem setHolder_handsOver (s : State) (l : Lease) (h : BitVec 2) : s.handsOver l h ({ s with lease := l }.setHolder h) := by
  have noted : ∀ (t : State) (c : Prop) [Decidable c] (a b d : Nat) (x : List Byte),
      ∃ e, (if c then t else t.blackBox a b d x) = { t with errors := e } := fun t c _ a b d x => by
    split
    · exact ⟨t.errors, rfl⟩
    · exact ⟨_, rfl⟩
  have eq : ∃ e, { s with lease := l }.setHolder h =
      { s with lease := l.heldBy h s.gcyc, out := s.out ++ l.sends h, errors := e } := by
    rw [State.setHolder]
    dsimp only
    obtain ⟨e, he⟩ := noted _ (h = l.holder) 5 8 0xFF _
    rw [he]
    refine ⟨e, ?_⟩
    by_cases h0 : h = 0
    · subst h0
      rw [sends_none, List.append_nil]
      rfl
    · rw [sends_port h0, ← List.append_assoc]
      refine (if_neg h0).trans ?_
      rw [foldl_emit, foldl_emit]
      rfl
  obtain ⟨e, eq⟩ := eq
  rw [eq]
  exact ⟨rfl, rfl, rfl, rfl⟩

theorem exec_leaseExpiry (s : State) : exec .leaseExpiry s = .next s.expireLease := rfl

/-- The lease stays within its window, and without a holder. -/
theorem expireLease_within {s : State} (h : ¬ (s.lease.holder ≠ 0 ∧ msCounts ≤ s.gcyc - s.lease.since)) :
    s.expireLease = s := by
  have within : ¬ s.leaseOver = true := by simpa [State.leaseOver] using h
  rw [State.expireLease, if_neg within]

/-- A lease past its window goes to the standby port. -/
theorem expireLease_past {s : State} (h : s.lease.holder ≠ 0 ∧ msCounts ≤ s.gcyc - s.lease.since) :
    s.expireLease = { s with lease := { s.lease with expired := true, standby := 0 } }.setHolder s.lease.standby := by
  have past : s.leaseOver = true := by simpa [State.leaseOver] using h
  rw [State.expireLease, if_pos past]

section Claim
variable {s : State} {port : Nat} {claim : BitVec 2}

theorem exec_leaseClaim : exec (.leaseClaim port claim) s = .next (s.claimLease port claim) := rfl

/-- The number of a port in the fields of the lease. -/
theorem portNumber (hp : port < 2) : (BitVec.ofNat 2 (port + 1)).toNat = port + 1 := by
  rw [BitVec.toNat_ofNat]; omega

theorem portNumber_ne_zero (hp : port < 2) : BitVec.ofNat 2 (port + 1) ≠ 0 := fun h => by
  have := portNumber hp; rw [h] at this; simp at this

theorem claimLease_noPort (hp : 2 ≤ port) : s.claimLease port claim = s := if_pos hp

theorem claimLease_other (hp : port < 2) (h : claim ≠ BitVec.ofNat 2 (port + 1)) :
    s.claimLease port claim = { s with lease := { s.lease with claim := claim } } := by
  rw [State.claimLease, if_neg (by omega), if_pos (bne_iff_ne.2 h)]

/-- A port that claims the lease for itself. -/
theorem claimLease_own (hp : port < 2) (h : claim = BitVec.ofNat 2 (port + 1)) :
    s.claimLease port claim =
      if s.lease.holder = 0 then { s with lease := { s.lease with claim := claim } }.setHolder claim
      else if s.lease.holder = claim then { s with lease := { s.lease with claim := claim, since := s.gcyc } }
      else { s with lease := { s.lease with claim := claim, standby := claim } } := by
  subst h
  rw [State.claimLease, if_neg (by omega), if_neg (by simp)]

theorem claimLease_renews (hp : port < 2) (h : claim = BitVec.ofNat 2 (port + 1)) (held : s.lease.holder = claim) :
    s.claimLease port claim = { s with lease := { s.lease with claim := claim, since := s.gcyc } } := by
  have taken : s.lease.holder ≠ 0 := by rw [held, h]; exact portNumber_ne_zero hp
  rw [claimLease_own hp h, if_neg taken, if_pos held]

theorem claimLease_standby (hp : port < 2) (h : claim = BitVec.ofNat 2 (port + 1)) (taken : s.lease.holder ≠ 0)
    (other : s.lease.holder ≠ claim) :
    s.claimLease port claim = { s with lease := { s.lease with claim := claim, standby := claim } } := by
  rw [claimLease_own hp h, if_neg taken, if_neg other]

theorem claimLease_takes (hp : port < 2) (h : claim = BitVec.ofNat 2 (port + 1)) (free : s.lease.holder = 0) :
    s.claimLease port claim = { s with lease := { s.lease with claim := claim } }.setHolder claim := by
  rw [claimLease_own hp h, if_pos free]

/-- A free lease goes to the port that claims it, and so does what waits for a holder; memory and contexts stay. -/
theorem claimLease_free (hp : port < 2) (h : claim = BitVec.ofNat 2 (port + 1)) (free : s.lease.holder = 0) :
    let t := s.claimLease port claim
    t.lease = { s.lease with
        claim := claim, holder := claim, since := s.gcyc, epoch := s.lease.epoch + 1, pending := [], writes := [] }
      ∧ t.out = s.out ++ s.lease.writes.map (fun x => HostOut.memWrite port x.1 x.2)
          ++ s.lease.pending.map (fun x => HostOut.msix x.1 x.2 port)
      ∧ s.sameMem t ∧ ∀ n, t.ctxOf n = s.ctxOf n := by
  intro t
  have hands : s.handsOver { s.lease with claim := claim } claim t := by
    rw [show t = _ from claimLease_takes hp h free]
    exact setHolder_handsOver ..
  have number : claim.toNat - 1 = port := by rw [h, portNumber hp]; rfl
  have named : claim ≠ 0 := h ▸ portNumber_ne_zero hp
  have new : claim ≠ s.lease.holder := fun e => named (e.trans free)
  refine ⟨?_, ?_, fun a => ?_, fun n => ?_⟩
  · rw [hands.lease, heldBy_new named (l := { s.lease with claim := claim }) new]
  · rw [hands.out, sends_port named, number, ← List.append_assoc]
  · rw [hands.mem]
  · rw [State.ctxOf, State.sp, hands.spindles]
    rfl

end Claim

/-! ### Wakes (R307) -/

/-- What every wake of a gate keeps, all of them keep. -/
theorem wake_induction {P : State → Prop} {s : State} (n : Nat) (h : P s)
    (step : ∀ t q x, x < 256 → P t → P (t.wakeOne n (s.gate n).gcnt q x)) : P (s.wake n) := by
  rw [wake_eq]
  refine List.foldlRecOn _ _ h fun t ht q _ => ?_
  rw [State.wakePart]
  exact List.foldlRecOn _ _ ht fun u hu x hx => step u q x (List.mem_range.1 hx) hu

/-- The wake of binding x of partition q fires. -/
def State.fireWake (s : State) (q : Nat) {x : Nat} (hx : x < 256) : State :=
  (s.modPHost q fun y => { y with hwake := y.hwake.set x 0 hx }).interrupt q x

/-- A wake that fires was armed with a value that the gate has reached. -/
theorem wakeOne_cases (s : State) (n : Nat) (c : Word) (q : Nat) {x : Nat} (hx : x < 256) :
    s.wakeOne n c q x = s ∨ (∃ h, (s.part q).host.hwake[x]? = some h ∧ h.toNat ≤ c.toNat) ∧ s.wakeOne n c q x = s.fireWake q hx := by
  have hm : x % 256 = x := Nat.mod_eq_of_lt hx
  rw [State.wakeOne]
  split
  · next due =>
    simp only [hm, Bool.and_eq_true, decide_eq_true_eq] at due
    refine .inr ⟨⟨_, Vector.getElem?_eq_getElem hx, due.2⟩, ?_⟩
    simp only [hm, State.fireWake]
  · exact .inl rfl

/-- An interrupt changes the lease's queue or the outputs. -/
theorem interrupt_cases (s : State) (p x : Nat) :
    (s.lease.holder = 0 ∧ s.interrupt p x = { s with lease := { s.lease with pending := s.lease.pending ++ [(p, x)] } })
    ∨ (s.lease.holder ≠ 0 ∧ s.interrupt p x = s.emit (.msix p x (s.lease.holder.toNat - 1))) := by
  rw [State.interrupt]
  split
  · next h => exact .inl ⟨h, rfl⟩
  · next h => exact .inr ⟨h, rfl⟩

/-- The wakes of other bindings stay. -/
theorem fireWake_hwake {s : State} {p b q x : Nat} (hx : x < 256) (other : ¬ (p = q ∧ b = x)) :
    ((s.fireWake q hx).part p).host.hwake[b]? = (s.part p).host.hwake[b]? := by
  rw [State.fireWake, interrupt_part]
  by_cases hq : p = q
  · subst hq
    rw [part_modPHost_self, Vector.getElem?_set, if_neg fun e => other ⟨rfl, e.symm⟩]
  · rw [part_modPHost_ne s hq]

/-- Gates, memory and the holder of the lease, which wakes keep. -/
structure State.wakesKeep (s t : State) : Prop where
  gates : t.gates = s.gates
  mem : t.mem = s.mem
  holder : t.lease.holder = s.lease.holder

theorem wakeOne_wakesKeep (s : State) (n : Nat) (c : Word) (q : Nat) {x : Nat} (hx : x < 256) :
    s.wakesKeep (s.wakeOne n c q x) := by
  rcases wakeOne_cases s n c q hx with e | ⟨-, e⟩ <;> rw [e]
  · exact ⟨rfl, rfl, rfl⟩
  · rw [State.fireWake]
    rcases interrupt_cases (s.modPHost q fun y => { y with hwake := y.hwake.set x 0 hx }) q x with ⟨-, e⟩ | ⟨-, e⟩ <;> rw [e]
    · exact ⟨rfl, rfl, rfl⟩
    · exact ⟨rfl, rfl, rfl⟩

theorem wake_wakesKeep (s : State) (n : Nat) : s.wakesKeep (s.wake n) :=
  wake_induction n ⟨rfl, rfl, rfl⟩ fun t q _ hx h =>
    have k := wakeOne_wakesKeep t n _ q hx
    ⟨k.gates.trans h.gates, k.mem.trans h.mem, k.holder.trans h.holder⟩

/-- A wake armed above the counter stays armed. -/
theorem wake_above {s : State} {n p b : Nat} {v : Word} (armed : (s.part p).host.hwake[b]? = some v)
    (above : (s.gate n).gcnt.toNat < v.toNat) : ((s.wake n).part p).host.hwake[b]? = some v := by
  refine wake_induction (P := fun t => (t.part p).host.hwake[b]? = some v) n armed fun t q x hx h => ?_
  rcases wakeOne_cases t n (s.gate n).gcnt q hx with e | ⟨⟨w, hw, reached⟩, e⟩ <;> rw [e]
  · exact h
  · rw [fireWake_hwake hx, h]
    rintro ⟨rfl, rfl⟩
    rw [hw, Option.some.injEq] at h
    subst h
    omega

/-- Of binding b of p: the port has the lease, and if the wake is 0 the port has been told. -/
structure State.toldIfFired (s : State) (port p b : Nat) : Prop where
  holder : s.lease.holder.toNat = port + 1
  told : (s.part p).host.hwake[b]? = some 0 → .msix p b port ∈ s.out

theorem fireWake_toldIfFired {s : State} {port p b q x : Nat} (hx : x < 256) (h : s.toldIfFired port p b) :
    (s.fireWake q hx).toldIfFired port p b := by
  have port_eq : s.lease.holder.toNat - 1 = port := by rw [h.holder]; rfl
  have emits : s.fireWake q hx = (s.modPHost q fun y => { y with hwake := y.hwake.set x 0 hx }).emit (.msix q x port) := by
    rw [← port_eq]
    refine ((interrupt_cases _ q x).resolve_left fun w => ?_).2
    have none_holds : s.lease.holder = 0 := w.1
    have := h.holder
    rw [none_holds] at this
    simp at this
  by_cases same : p = q ∧ b = x
  · obtain ⟨rfl, rfl⟩ := same
    rw [emits]
    exact ⟨h.holder, fun _ => List.mem_append_right _ List.mem_cons_self⟩
  · refine ⟨by rw [emits]; exact h.holder, fun fired => ?_⟩
    rw [fireWake_hwake hx same] at fired
    rw [emits]
    exact List.mem_append_left _ (h.told fired)

theorem wake_toldIfFired {s : State} {port p b : Nat} (n : Nat) (h : s.toldIfFired port p b) :
    (s.wake n).toldIfFired port p b := by
  refine wake_induction (P := fun t => t.toldIfFired port p b) n h fun t q x hx ht => ?_
  rcases wakeOne_cases t n (s.gate n).gcnt q hx with e | ⟨-, e⟩ <;> rw [e]
  · exact ht
  · exact fireWake_toldIfFired hx ht

/-! ### Signals (R306) -/

theorem foldl_answer_gates (ids : List Nat) (tag : List Nat) (s : State) :
    (ids.foldl (fun s id => s.answer id 0 0 [] 0 tag) s).gates = s.gates :=
  List.foldlRecOn (motive := fun t : State => t.gates = s.gates) ids _ rfl fun _ h _ _ => h

theorem foldl_answer_mem (ids : List Nat) (tag : List Nat) (s : State) :
    (ids.foldl (fun s id => s.answer id 0 0 [] 0 tag) s).mem = s.mem :=
  List.foldlRecOn (motive := fun t : State => t.mem = s.mem) ids _ rfl fun _ h _ _ => h

theorem testWaits_gcnt (s : State) (n : Nat) : ((s.testWaits n).gate n).gcnt = (s.gate n).gcnt := by
  rw [State.testWaits, gate_congr (wake_wakesKeep _ n).gates, gate_congr (foldl_answer_gates ..), gate_modGate_self]

theorem testWaits_mem (s : State) (n : Nat) : (s.testWaits n).mem = s.mem := by
  rw [State.testWaits, (wake_wakesKeep _ n).mem, foldl_answer_mem]
  rfl

/-- The counter saturates. -/
theorem signal_gcnt (s : State) (n : Nat) (v : Word) (clock : List Nat) :
    ((s.signal n v clock).gate n).gcnt = BitVec.ofNat 64 (min ((s.gate n).gcnt.toNat + v.toNat) (2 ^ 64 - 1)) := by
  rw [State.signal, testWaits_gcnt, gate_modGate_self]

theorem signal_mem (s : State) (n : Nat) (v : Word) (clock : List Nat) : (s.signal n v clock).mem = s.mem := by
  rw [State.signal, testWaits_mem]
  rfl

/-! ### Host gate operations (R307) -/

theorem exec_hgsig (port p b : Nat) (v : Word) (s : State) : exec (.hgsig port p b v) s = .next (s.hostSignal port p b v) := rfl

theorem exec_hwakeWrite (port p b : Nat) (v : Word) (s : State) :
    exec (.hwakeWrite port p b v) s = .next (s.hostWake port p b v) := rfl

/-- A read of HGCNT, by its offset in the register block or not, is the read of the counter. -/
theorem exec_hgcnt (port p b : Nat) (s : State) : exec (.hgcnt port p b) s = .next (s.hostCount port p b) := by
  have read : (if b < 256 then s.hostRegRead port p (0x0C00 + 8 * b) else s.hostCount port p b) = s.hostCount port p b := by
    split
    · have block : (decide (0x0C00 ≤ 0x0C00 + 8 * b) && decide (0x0C00 + 8 * b < 0x1400)) = true := by simp; omega
      rw [State.hostRegRead, if_pos block]
      congr 1
      omega
    · rfl
  exact congrArg Host.Outcome.next read

/-- What a refused operation leaves: BIND, and DENIED or RATE. -/
theorem hostRefused_spec (s : State) (p b : Nat) (rate : Bool) :
    ((s.hostRefused p b rate).part p).host.bind = BitVec.ofNat 8 b ∧ (s.hostRefused p b rate).gates = s.gates
      ∧ ((s.hostRefused p b rate).part p).host.denied = ((s.part p).host.denied || !rate)
      ∧ ((s.hostRefused p b rate).part p).host.rate = ((s.part p).host.rate || rate) := by
  rw [State.hostRefused, part_modPHost_self]
  exact ⟨rfl, rfl, rfl, rfl⟩

section Operations
variable {port p b : Nat} {v : Word} {s : State}

/-! Of a port without the lease. -/

theorem hostSignal_stranger (h : s.hostParty port p b = false) : s.hostSignal port p b v = s.unsupported port := by
  rw [State.hostSignal, if_pos (by simp [h])]

theorem hostCount_stranger (h : s.hostParty port p b = false) : s.hostCount port p b = s.unsupported port := by
  rw [State.hostCount, if_pos (by simp [h])]

theorem hostWake_stranger (h : s.hostParty port p b = false) : s.hostWake port p b v = s.unsupported port := by
  rw [State.hostWake, if_pos (by simp [h])]

/-! Of the holder. -/

/-- The value that a refused read of HGCNT answers. -/
def State.countRefused (s : State) (port p b : Nat) : State := (s.hostRefused p b false).emit (.value port 0xFFFFFFFFFFFFFFFF)

variable (party : s.hostParty port p b = true)
include party

theorem hostParty_bounds : b < 256 ∧ s.lease.holder.toNat = port + 1 := by
  simp only [State.hostParty, Bool.and_eq_true, decide_eq_true_eq] at party
  obtain ⟨⟨⟨⟨⟨-, hb⟩, holder⟩, -⟩, -⟩, -⟩ := party
  exact ⟨hb, holder⟩

theorem hostSignal_unbound (h : bindV (s.binding p b) = false) : s.hostSignal port p b v = s.hostRefused p b false := by
  simp only [State.hostSignal, party, h, Bool.not_true, Bool.not_false, Bool.false_eq_true, if_true, if_false]

theorem hostCount_unbound (h : bindV (s.binding p b) = false) : s.hostCount port p b = s.countRefused port p b := by
  simp only [State.hostCount, party, h, Bool.not_true, Bool.not_false, Bool.false_eq_true, if_true, if_false]
  rfl

theorem hostWake_unbound (h : bindV (s.binding p b) = false) : s.hostWake port p b v = s.hostRefused p b false := by
  simp only [State.hostWake, party, h, Bool.not_true, Bool.not_false, Bool.false_eq_true, if_true, if_false]

/-! At a gate of this module. -/

variable (valid : bindV (s.binding p b) = true) (own : bindMod (s.binding p b) = s.pf.modid.toNat)
include valid own

theorem hostSignal_denied (h : (s.gate (bindGate (s.binding p b))).check s.pf.modid.toNat p true true false = .denied) :
    s.hostSignal port p b v = s.hostRefused p b false := by
  simp only [State.hostSignal, party, valid, own, h, bne_self_eq_false, Bool.not_true, Bool.false_eq_true, if_false]

theorem hostSignal_rate (h : (s.gate (bindGate (s.binding p b))).check s.pf.modid.toNat p true true false = .rate) :
    s.hostSignal port p b v = s.hostRefused p b true := by
  simp only [State.hostSignal, party, valid, own, h, bne_self_eq_false, Bool.not_true, Bool.false_eq_true, if_false]

theorem hostSignal_ok {g : Gate}
    (h : (s.gate (bindGate (s.binding p b))).check s.pf.modid.toNat p true true false = .ok g) :
    s.hostSignal port p b v = ((s.modGate (bindGate (s.binding p b)) fun _ => g).noteGate (bindGate (s.binding p b))
      (s.hostRank p)).signal (bindGate (s.binding p b)) v [] := by
  simp only [State.hostSignal, party, valid, own, h, bne_self_eq_false, Bool.not_true, Bool.false_eq_true, if_false]

theorem hostCount_denied (h : (s.gate (bindGate (s.binding p b))).check s.pf.modid.toNat p true false true = .denied) :
    s.hostCount port p b = s.countRefused port p b := by
  simp only [State.hostCount, party, valid, own, h, bne_self_eq_false, Bool.not_true, Bool.false_eq_true, if_false]
  rfl

theorem hostCount_ok {g : Gate}
    (h : (s.gate (bindGate (s.binding p b))).check s.pf.modid.toNat p true false true = .ok g) :
    s.hostCount port p b = (s.noteGate (bindGate (s.binding p b)) (s.hostRank p)).emit (.value port g.gcnt) := by
  simp only [State.hostCount, party, valid, own, h, bne_self_eq_false, Bool.not_true, Bool.false_eq_true, if_false]

theorem hostWake_denied (h : (s.gate (bindGate (s.binding p b))).check s.pf.modid.toNat p true false true = .denied) :
    s.hostWake port p b v = s.hostRefused p b false := by
  simp only [State.hostWake, party, valid, own, h, bne_self_eq_false, Bool.not_true, Bool.false_eq_true, if_false]

end Operations

/-- The wake of a binding is armed with a value. -/
def State.armWake (s : State) (p b : Nat) (v : Word) : State :=
  s.modPHost p fun h => { h with hwake := h.hwake.set (b % 256) v (Nat.mod_lt _ (by decide)) }

theorem armWake_hwake (s : State) (p : Nat) {b : Nat} (hb : b < 256) (v : Word) :
    ((s.armWake p b v).part p).host.hwake[b]? = some v := by
  rw [State.armWake, part_modPHost_self]
  exact getElem?_set_mod _ _ hb (Nat.mod_lt b (by decide))

theorem armWake_binding (s : State) (p b : Nat) (v : Word) (x : Nat) : (s.armWake p b v).binding p x = s.binding p x :=
  binding_of_cfg (by rw [State.armWake, part_modPHost_self]) x

section Wake
variable {port p b : Nat} {v : Word} {s : State}

/-- An admitted HWAKE arms the wake, and the gate's wakes are tested. -/
theorem hostWake_ok (party : s.hostParty port p b = true) (valid : bindV (s.binding p b) = true)
    (own : bindMod (s.binding p b) = s.pf.modid.toNat) {g : Gate}
    (h : (s.gate (bindGate (s.binding p b))).check s.pf.modid.toNat p true false true = .ok g) :
    s.hostWake port p b v = ((s.armWake p b v).noteGate (bindGate (s.binding p b)) (s.hostRank p)).wake
      (bindGate (s.binding p b)) := by
  simp only [State.hostWake, party, valid, own, h, bne_self_eq_false, Bool.not_true, Bool.false_eq_true, if_false]
  rfl

/-- A value that the counter has reached already fires at once, and its port is told. -/
theorem armWake_fires {n r : Nat} (hb : b < 256) (holder : s.lease.holder.toNat = port + 1)
    (valid : bindV (s.binding p b) = true) (own : bindMod (s.binding p b) = s.pf.modid.toNat)
    (gate : bindGate (s.binding p b) = n) (armed : v ≠ 0) (reached : v.toNat ≤ (s.gate n).gcnt.toNat) :
    let t := ((s.armWake p b v).noteGate n r).wake n
    (t.part p).host.hwake[b]? = some 0 ∧ .msix p b port ∈ t.out := by
  intro t
  have hwake : (((s.armWake p b v).noteGate n r).part p).host.hwake[b]? = some v := armWake_hwake s p hb v
  have binding : ((s.armWake p b v).noteGate n r).binding p b = s.binding p b := armWake_binding s p b v b
  have due : ((s.armWake p b v).noteGate n r).wakeDue n (s.gate n).gcnt p b := by
    refine ⟨binding ▸ valid, binding ▸ own, binding ▸ gate, fun h e => ?_⟩
    rw [hwake, Option.some.injEq] at e
    exact e ▸ reached
  have fired : (t.part p).host.hwake[b]? = some 0 := wake_fires (mem_keys_tput ..) hb due
  have untold : ((s.armWake p b v).noteGate n r).toldIfFired port p b := by
    refine ⟨holder, fun e => ?_⟩
    rw [hwake, Option.some.injEq] at e
    exact absurd e armed
  exact ⟨fired, (wake_toldIfFired n untold).told fired⟩

end Wake

/-! ### Access lists (R298, R299) -/

/-- A gate with its entry i written and its bucket filled. -/
def Gate.withEntry (g : Gate) (i : Nat) (v : Word) : Gate :=
  { g with acl := g.acl.set (i % 8) (v &&& aclMask) (Nat.mod_lt _ (by decide)) }.setTokens i (BitVec.ofNat 8 (aclBurst v))

theorem entry_withEntry_self (g : Gate) (i : Nat) (v : Word) : (g.withEntry i v).entry i = v &&& aclMask :=
  Vector.getElem_set_self _

theorem tokensOf_withEntry_self (g : Gate) (i : Nat) (v : Word) :
    (g.withEntry i v).tokensOf i = BitVec.ofNat 8 (aclBurst v) := Vector.getElem_set_self _

theorem entry_withEntry_ne (g : Gate) {i j : Nat} (hi : i < 8) (hj : j < 8) (h : j ≠ i) (v : Word) :
    (g.withEntry i v).entry j = g.entry j := Vector.getElem_set_ne (Nat.mod_lt i (by decide)) _ (by omega)

theorem enterError_gates (s : State) (p cause : Nat) : (s.enterError p cause).gates = s.gates := by
  have told : ∀ (c : Prop) [Decidable c] (o : HostOut), (if c then s.emit o else s).gates = s.gates := fun c _ o => by
    split <;> rfl
  rw [State.enterError]
  dsimp only
  split
  · exact told _ _
  · rfl

theorem lockedWrite_gates (s : State) (ps : List Nat) (port : Nat) : (s.lockedWrite ps port).gates = s.gates :=
  List.foldlRecOn (motive := fun t : State => t.gates = s.gates) ps _ rfl fun t h p _ => (enterError_gates t p 3).trans h

section Acl
variable {s : State} {n i : Nat} (port : Nat) (v : Word)

theorem exec_aclEntryWrite : exec (.aclEntryWrite port n i v) s = .next (s.writeAcl port n i v) := rfl

theorem writeAcl_unlocked (hn : n < 4096) (hi : i < 8) (h : s.gateLockers n = []) :
    s.writeAcl port n i v = s.modGate n fun g => g.withEntry i v := by
  have range : ¬ (decide (4096 ≤ n) || decide (8 ≤ i)) = true := by simp; omega
  rw [State.writeAcl, if_neg range, if_neg (by simp [h])]
  rfl

theorem writeAcl_locked (hn : n < 4096) (hi : i < 8) (h : s.gateLockers n ≠ []) :
    s.writeAcl port n i v = s.lockedWrite (s.gateLockers n) port := by
  have range : ¬ (decide (4096 ≤ n) || decide (8 ≤ i)) = true := by simp; omega
  rw [State.writeAcl, if_neg range, if_pos (by simp [h])]

end Acl

end Sys2Proof.Machine
end

section
/-!
PROOFS. Accesses of hosts to device memory through BAR2, and what hosts do to the module (`Obligations.HostAccesses`).
-/

namespace Sys2Proof.Machine

/-! ### Memory at a physical address -/

theorem noteServed_phys (s : State) (w pa len : Nat) (wr : Bool) :
    ∃ v, s.noteServed w (.phys pa) len wr = { s with served := v } := ⟨_, rfl⟩

theorem soften_cells (m : Memory) (w a : Nat) (bs : List Byte) : (m.soften w a bs).cells = m.cells := by
  rw [Memory.soften]
  split <;> rfl

/-- A write at a physical address is one of its bytes. -/
theorem homeWrite_phys_cells (s : State) (w pa : Nat) (bs : List Byte) (tag : List Nat) :
    (s.homeWrite w (.phys pa) bs tag).mem.cells = cellsWrite s.mem.cells pa bs := by
  obtain ⟨v, noted⟩ := noteServed_phys (s.writeLoc w (.phys pa) bs) w pa bs.length true
  have written : (s.homeWrite w (.phys pa) bs tag).mem.cells = cellsWrite (s.mem.soften w pa bs).cells pa bs := by
    rw [State.homeWrite, noted]
    rfl
  rw [written, soften_cells]

theorem homeWrite_phys_out (s : State) (w pa : Nat) (bs : List Byte) (tag : List Nat) :
    (s.homeWrite w (.phys pa) bs tag).out = s.out := by
  obtain ⟨v, noted⟩ := noteServed_phys (s.writeLoc w (.phys pa) bs) w pa bs.length true
  rw [State.homeWrite, noted]
  rfl

/-! ### The pages of an access (R267) -/

/-- An access inside one page is one piece. -/
theorem pagesOf_inside {off len : Nat} (pos : 0 < len) (inside : off % 65536 + len ≤ 65536) :
    pagesOf off len = [(0, len)] := by
  have one : (off + len - 1) / 65536 - off / 65536 + 1 = 1 := by omega
  have start : max off (off / 65536 * 65536) = off := by omega
  have stop : min (off + len) ((off / 65536 + 1) * 65536) = off + len := by omega
  rw [pagesOf, one]
  simp [rangeFrom, start, stop]

/-- The first page of an access begins at its offset. -/
theorem pagesOf_first (off len : Nat) : ∃ n ps, pagesOf off len = (0, n) :: ps := by
  have start : max off (off / 65536 * 65536) = off := by omega
  rw [pagesOf, rangeFrom, List.range_succ_eq_map]
  simp [start]

section Access
variable {s : State} {p off len : Nat}

theorem bar2_pos (h : s.bar2 p off len = true) : 0 < len := by
  simp only [State.bar2, Bool.and_eq_true, decide_eq_true_eq] at h
  obtain ⟨⟨⟨⟨⟨-, pos⟩, -⟩, -⟩, -⟩, -⟩ := h
  exact pos

/-- While no unit holds a translation, a host access has that of the table. -/
theorem hostLeaf_table (bare : s.held = []) {l : Leaf} (found : s.walk p off = some l) (write : Bool) :
    s.hostLeaf p off write =
      (if !leafSHP l.entry && (!write || leafW l.entry) && (s.part p).cfg.en then some (leafLoc l.entry l.base off) else none, s) := by
  have one : [some l].eraseDups = [some l] := rfl
  simp only [State.hostLeaf, bare, found, List.filter_nil, List.map_nil, List.append_nil, one, State.choose,
    List.length_singleton, Nat.le_refl, if_true, List.getD_cons_zero]

/-- A leaf that maps a page to device memory serves reads, and writes if it has W. -/
theorem hostLeaf_device (bare : s.held = []) {l : Leaf} {pa : Nat} (found : s.walk p off = some l)
    (enabled : (s.part p).cfg.en = true) (plain : leafSHP l.entry = false) (place : leafLoc l.entry l.base off = .phys pa)
    (write : Bool) : s.hostLeaf p off write = (if !write || leafW l.entry then some (.phys pa) else none, s) := by
  rw [hostLeaf_table bare found, plain, enabled, place, Bool.not_false, Bool.true_and, Bool.and_true]

theorem hostLeaf_none (bare : s.held = []) (absent : s.walk p off = none) (write : Bool) : s.hostLeaf p off write = (none, s) := by
  have one : [(none : Option Leaf)].eraseDups = [none] := rfl
  simp only [State.hostLeaf, bare, absent, List.filter_nil, List.map_nil, List.append_nil, one, State.choose,
    List.length_singleton, Nat.le_refl, if_true, List.getD_cons_zero]

/-- An access whose first page has no translation has none. -/
theorem hostPieces_none {write : Bool} (len : Nat) (absent : s.hostLeaf p off write = (none, s)) :
    s.hostPieces p off write (pagesOf off len) = (none, s) := by
  obtain ⟨n, ps, first⟩ := pagesOf_first off len
  simp only [first, State.hostPieces, Nat.add_zero, absent]

/-- The piece of an access inside one page. -/
theorem hostPieces_inside {write : Bool} {l : Loc} (pos : 0 < len) (inside : off % 65536 + len ≤ 65536)
    (found : s.hostLeaf p off write = (some l, s)) : s.hostPieces p off write (pagesOf off len) = (some [(0, len, l)], s) := by
  simp only [pagesOf_inside pos inside, State.hostPieces, Nat.add_zero, found]

/-! ### Accesses that are not answered -/

variable (port : Nat) (data : List Byte)

theorem exec_hostMemoryWrite : exec (.hostMemoryWrite port p off data) s = .next (s.hostWrite port p off data) := rfl

theorem exec_hostMemoryRead : exec (.hostMemoryRead port p off len) s = .next (s.hostRead port p off len) := rfl

theorem hostWrite_outside (h : s.bar2 p off data.length = false) : s.hostWrite port p off data = s.unsupported port := by
  rw [State.hostWrite, if_pos (by simp [h])]

theorem hostRead_outside (h : s.bar2 p off len = false) : s.hostRead port p off len = s.unsupported port := by
  rw [State.hostRead, if_pos (by simp [h])]

theorem hostWrite_untranslated (h : s.bar2 p off data.length = true) (absent : s.hostLeaf p off true = (none, s)) :
    s.hostWrite port p off data = s.unsupported port := by
  rw [State.hostWrite, if_neg (by simp [h]), hostPieces_none _ absent]

theorem hostRead_untranslated (h : s.bar2 p off len = true) (absent : s.hostLeaf p off false = (none, s)) :
    s.hostRead port p off len = s.unsupported port := by
  rw [State.hostRead, if_neg (by simp [h]), hostPieces_none _ absent]

theorem hostAccess_refused (length : data.length = len)
    (h : s.bar2 p off len = false ∨ (s.walk p off = none ∧ s.held = [])) :
    s.hostWrite port p off data = s.unsupported port ∧ s.hostRead port p off len = s.unsupported port := by
  subst length
  cases window : s.bar2 p off data.length with
  | false => exact ⟨hostWrite_outside port data window, hostRead_outside port window⟩
  | true =>
    obtain ⟨absent, bare⟩ := h.resolve_left (by simp [window])
    exact ⟨hostWrite_untranslated port data window (hostLeaf_none bare absent true),
      hostRead_untranslated port window (hostLeaf_none bare absent false)⟩

/-! ### Accesses of one page of device memory -/

/-- The numbers of the 64-byte completions of a read at a physical address that are poisoned (R381). -/
def State.badCompletions (s : State) (off pa len : Nat) : List Nat :=
  ((s.linesAt (.phys pa) len).filter fun l => s.mem.poison.contains l.2).map fun l =>
    ((off + (0 : Nat) : Int) + l.1).toNat / 64 - off / 64

/-- A completion is named exactly when a line of the bytes is poisoned. -/
theorem badCompletions_eq_nil_iff (s : State) (off pa len : Nat) :
    s.badCompletions off pa len = [] ↔ s.mem.poisonIn pa len = none := by
  simp only [State.badCompletions, State.linesAt, State.keyOf, Memory.poisonIn, List.map_eq_nil_iff, Option.map_eq_none_iff,
    List.filter_eq_nil_iff, List.find?_eq_none, List.forall_mem_map]

theorem hostWrite_inside {l : Loc} (h : s.bar2 p off data.length = true) (inside : off % 65536 + data.length ≤ 65536)
    (found : s.hostLeaf p off true = (some l, s)) :
    s.hostWrite port p off data = s.homeWrite 320 l data (List.replicate 8 0) := by
  rw [State.hostWrite, if_neg (by simp [h]), hostPieces_inside (bar2_pos h) inside found]
  simp only [List.foldl_cons, List.foldl_nil, List.drop_zero, List.take_length]

theorem hostRead_inside {pa : Nat} (h : s.bar2 p off len = true) (inside : off % 65536 + len ≤ 65536)
    (found : s.hostLeaf p off false = (some (.phys pa), s)) :
    ∃ v, s.hostRead port p off len =
      { s with served := v, out := s.out ++ [.readData port (s.mem.read pa len) (s.badCompletions off pa len)] } := by
  obtain ⟨v, noted⟩ := noteServed_phys s 320 pa len false
  refine ⟨v, ?_⟩
  rw [State.hostRead, if_neg (by simp [h]), hostPieces_inside (bar2_pos h) inside found]
  simp only [List.foldl_cons, List.foldl_nil, List.flatMap_cons, List.flatMap_nil, noted, List.nil_append, List.append_nil]
  rfl

end Access

end Sys2Proof.Machine

open Sys2Proof Sys2Proof.Machine

/-- Settles O51: the lease, the host gate operations, the access lists and BAR2, each by the lemmas on its event. -/
theorem hostAccesses : Obligations.HostAccesses := by
  unfold Obligations.HostAccesses
  refine ⟨?_, ?_, ?_, ?_, ?_, ?_⟩
  -- claims of the lease
  · intro port claim s me l
    simp only [exec_leaseClaim]
    refine ⟨fun hp => congrArg _ (claimLease_noPort hp), fun hp other => congrArg _ (claimLease_other hp other),
      fun hp own held => ?_, fun hp own taken other => ?_, fun hp own free => ?_⟩
    · rw [claimLease_renews hp own (held.trans own.symm), own]
    · rw [claimLease_standby hp own taken (own ▸ other), own]
    · obtain ⟨lease, out, mem, contexts⟩ := claimLease_free hp own free
      exact ⟨_, rfl, own ▸ lease, out, mem, contexts⟩
  -- its expiry
  · intro s l past
    simp only [exec_leaseExpiry]
    refine ⟨fun within => congrArg _ (expireLease_within within), fun h => ⟨_, congrArg _ (expireLease_past h), ?_⟩⟩
    have hands := setHolder_handsOver s { l with expired := true, standby := 0 } l.standby
    rw [hands.lease, hands.out]
    refine ⟨rfl, rfl, rfl, rfl, rfl, fun none_ => ⟨if_pos none_, if_pos none_, ?_⟩, fun next => ⟨if_neg next, if_neg next, ?_⟩⟩
    · rw [show s.lease.standby = 0 from none_, sends_none, List.append_nil]
    · rw [sends_port next, ← List.append_assoc]
  -- host gate operations
  · intro port p b v s unsupported e n refused check
    simp only [unsupported, exec_hgsig, exec_hgcnt, exec_hwakeWrite]
    refine ⟨fun stranger => ⟨congrArg _ (hostSignal_stranger stranger), congrArg _ (hostCount_stranger stranger),
      congrArg _ (hostWake_stranger stranger)⟩, fun party unbound => ?_, fun party valid own => ?_⟩
    · exact ⟨⟨_, congrArg _ (hostSignal_unbound party unbound), hostRefused_spec s p b false⟩,
        ⟨_, congrArg _ (hostCount_unbound party unbound), hostRefused_spec s p b false, rfl⟩,
        ⟨_, congrArg _ (hostWake_unbound party unbound), hostRefused_spec s p b false⟩⟩
    · obtain ⟨hb, holder⟩ := hostParty_bounds party
      refine ⟨fun denied => ⟨_, congrArg _ (hostSignal_denied party valid own denied), hostRefused_spec s p b false⟩,
        fun rate => ⟨_, congrArg _ (hostSignal_rate party valid own rate), hostRefused_spec s p b true⟩,
        fun g ok => ⟨_, congrArg _ (hostSignal_ok party valid own ok), ?_, ?_⟩,
        fun g ok => ⟨_, congrArg _ (hostCount_ok party valid own ok), rfl, rfl, rfl⟩,
        fun denied => ⟨_, congrArg _ (hostCount_denied party valid own denied), hostRefused_spec s p b false, rfl⟩,
        fun g ok => ⟨_, congrArg _ (hostWake_ok party valid own ok), fun above => ?_, fun armed reached => ?_⟩,
        fun denied => ⟨_, congrArg _ (hostWake_denied party valid own denied), hostRefused_spec s p b false⟩⟩
      · have admitted : ((s.modGate n fun _ => g).noteGate n (s.hostRank p)).gate n = g := gate_modGate_self s n fun _ => g
        exact (signal_gcnt ..).trans (by rw [admitted])
      · intro a
        rw [signal_mem]
        rfl
      · exact wake_above (armWake_hwake s p hb v) above
      · exact armWake_fires hb holder valid own rfl armed reached
  -- access lists
  · intro port n i v s hn hi
    simp only [exec_aclEntryWrite]
    refine ⟨fun free => ⟨_, congrArg _ (writeAcl_unlocked port v hn hi free), ?_⟩,
      fun locked => ⟨_, congrArg _ (writeAcl_locked port v hn hi locked), lockedWrite_gates .., ?_⟩⟩
    · rw [gate_modGate_self]
      exact ⟨entry_withEntry_self .., tokensOf_withEntry_self .., rfl, fun j hj ne => entry_withEntry_ne _ hi hj ne v,
        fun m ne => gate_modGate_ne s ne _⟩
    · exact List.mem_append_right _ List.mem_cons_self
  -- BAR2 inside one page
  · intro port p off len pa data l s sound window inside bare found enabled plain place
    have leaf := hostLeaf_device bare found enabled plain place
    obtain ⟨v, reads⟩ := hostRead_inside port window inside (leaf false)
    simp only [exec_hostMemoryWrite, exec_hostMemoryRead]
    refine ⟨fun length readOnly => ?_, fun d poisoned => ?_, fun length writable => ?_, fun clean => ?_⟩
    · subst length
      have refused := hostWrite_untranslated port data window ((leaf true).trans (by rw [readOnly]; rfl))
      exact ⟨_, congrArg _ refused, fun _ => rfl, rfl⟩
    · obtain ⟨x, bad, named⟩ := List.exists_cons_of_ne_nil (mt (badCompletions_eq_nil_iff s off pa len).1 (by simp [poisoned]))
      exact ⟨_, _, x, bad, congrArg _ reads, fun _ => rfl, by rw [named]⟩
    · subst length
      have written := hostWrite_inside port data window inside ((leaf true).trans (by rw [writable]; rfl))
      refine ⟨_, congrArg _ written, fun i hi => ?_, fun a outside => ?_, homeWrite_phys_out ..⟩
      · rw [homeWrite_phys_cells, cellGet_cellsWrite sound, if_pos (by omega), Nat.add_sub_cancel_left]
      · rw [homeWrite_phys_cells, cellGet_cellsWrite_out _ _ _ sound outside]
    · exact ⟨_, congrArg _ reads, fun _ => rfl, by rw [(badCompletions_eq_nil_iff s off pa len).2 clean]⟩
  -- BAR2 without an answer
  · intro port p off len data s length refused
    obtain ⟨write, read⟩ := hostAccess_refused port data length refused
    exact ⟨congrArg _ write, congrArg _ read⟩
end

section
/-!
PROOFS. The messages of an interface (R371, R373): what each TDISP message of a secured session does
(`Obligations.InterfaceEvents`).
-/

namespace Sys2Proof.Machine

/-! ### A message of a session (R366) -/

/-- A message of session n has been heard: its period starts anew. -/
def State.heard (s : State) (n : Nat) (x : Session) : State := s.setSession n { x with last := s.gcyc }

/-- Session n of a module that has started is finished. -/
structure State.secures (s : State) (n : Nat) (x : Session) : Prop where
  stage : s.sec.stage = 7
  session : s.session n = some x
  finished : x.finished = true

/-- Its messages may concern partition p. -/
structure State.reaches (s : State) (n p : Nat) (x : Session) : Prop extends s.secures n x where
  period : x.period ≠ 0
  part : p < 64

@[simp] theorem heard_part (s : State) (n : Nat) (x : Session) (q : Nat) : (s.heard n x).part q = s.part q := rfl

@[simp] theorem tdisp_part (s : State) (n code : Nat) (d : List Byte) (q : Nat) : (s.tdisp n code d).part q = s.part q := rfl

theorem tdisp_told (s : State) (n code : Nat) (d : List Byte) : .tdisp n code d ∈ (s.tdisp n code d).out :=
  List.mem_append_right _ List.mem_cons_self

section Messages
variable {s : State} {n p : Nat} {x : Session} {k : State → State}

theorem onInterface_eq (h : s.secures n x) :
    s.onInterface n p k = if x.period = 0 || 64 ≤ p then (s.heard n x).tdispError n else k (s.heard n x) := by
  rw [State.onInterface, State.secured, if_neg (by simp [h.stage]), h.session]
  dsimp only
  rw [if_neg (by simp [h.finished])]
  rfl

theorem onInterface_barred (h : s.secures n x) (bad : x.period = 0 ∨ 64 ≤ p) :
    s.onInterface n p k = (s.heard n x).tdispError n := by
  rw [onInterface_eq h, if_pos (by simpa using bad)]

theorem onInterface_reaches (h : s.reaches n p x) : s.onInterface n p k = k (s.heard n x) := by
  rw [onInterface_eq h.tosecures, if_neg (by simpa using ⟨h.period, h.part⟩)]

/-- Each TDISP message is one of a secured session. -/
theorem exec_interfaceMessage (s : State) {i : Instr} (hi : i ∈ [Instr.lockInterfaceRequest n p, .getDeviceInterfaceReport n p,
    .getDeviceInterfaceState n p, .startInterfaceRequest n p, .stopInterfaceRequest n p]) :
    ∃ k, exec i s = .next (s.onInterface n p k) := by
  simp only [List.mem_cons, List.not_mem_nil, or_false] at hi
  rcases hi with rfl | rfl | rfl | rfl | rfl <;> exact ⟨_, rfl⟩

/-! ### LOCK_INTERFACE_REQUEST -/

theorem exec_lockInterfaceRequest : exec (.lockInterfaceRequest n p) s = .next (s.lockInterface n p) := rfl

/-- A partition whose interface locks for session n, with an image key and a report. -/
def Part.lockedFor (x : Part) (n key : Nat) (report : List Byte) : Part :=
  { x with
    bars := Vector.replicate 64 {}
    sched := { x.sched with psns := pspinList x.cfg.pspin }
    trust := { x.trust with state := .locked, bound := some (BitVec.ofNat 3 n), imgkey := some key, report := report } }

theorem lockInterface_locks (h : s.reaches n p x) (unlocked : (s.part p).trust.state = .unlocked)
    (unbound : (s.part p).trust.bound = none) : ∃ (t : State) (d : List Byte),
      s.lockInterface n p = t.tdisp n 0x03 d ∧ t.part p = (s.part p).lockedFor n s.nextId (s.reportBytes p) := by
  have free : ¬ ((s.part p).trust.state != .unlocked || (s.part p).trust.bound.isSome) = true := by simp [unlocked, unbound]
  rw [State.lockInterface, onInterface_reaches h]
  refine ⟨_, _, if_neg free, ?_⟩
  rw [setIf_part, part_modPart_self]
  rfl

theorem lockInterface_refused (h : s.reaches n p x)
    (taken : (s.part p).trust.state ≠ .unlocked ∨ (s.part p).trust.bound ≠ none) :
    s.lockInterface n p = (s.heard n x).tdispError n := by
  rw [State.lockInterface, onInterface_reaches h]
  exact if_pos (by simpa [Option.isSome_iff_ne_none] using taken)

/-! ### GET_DEVICE_INTERFACE_REPORT and GET_DEVICE_INTERFACE_STATE -/

theorem exec_getDeviceInterfaceReport : exec (.getDeviceInterfaceReport n p) s = .next (s.interfaceReport n p) := rfl

theorem exec_getDeviceInterfaceState : exec (.getDeviceInterfaceState n p) s = .next (s.interfaceState n p) := rfl

theorem interfaceReport_told (h : s.reaches n p x) (bound : (s.part p).trust.state = .locked ∨ (s.part p).trust.state = .run)
    (own : (s.part p).trust.allows n = true) :
    s.interfaceReport n p = (s.heard n x).tdisp n 0x04 (s.part p).trust.report := by
  rw [State.interfaceReport, onInterface_reaches h]
  exact if_pos (by simpa [own] using bound)

theorem interfaceReport_refused (h : s.reaches n p x) (bad : (s.part p).trust.state = .unlocked ∨ (s.part p).trust.state = .error
    ∨ (s.part p).trust.allows n = false) : s.interfaceReport n p = (s.heard n x).tdispError n := by
  rw [State.interfaceReport, onInterface_reaches h]
  refine if_neg ?_
  rcases bad with e | e | e <;> simp [e]

/-- Whether the state of an interface is told to session n. -/
def PartTrust.tells (t : PartTrust) (n : Nat) : Bool :=
  match t.state with | .unlocked => false | .error => t.bound.isNone | _ => t.allows n

theorem interfaceState_eq (h : s.reaches n p x) : s.interfaceState n p =
    if (s.part p).trust.tells n then (s.heard n x).tdisp n 0x05 [BitVec.ofNat 8 (s.part p).trust.state.code]
    else (s.heard n x).tdispError n := by
  rw [State.interfaceState, onInterface_reaches h]
  rfl

/-- A session that an interface does not allow is another one than that to which it is bound. -/
theorem bound_of_not_allows {t : PartTrust} (foreign : t.allows n = false) : t.bound ≠ none := fun unbound => by
  simp [PartTrust.allows, unbound] at foreign

theorem interfaceState_told (h : s.reaches n p x)
    (open_ : ((s.part p).trust.state = .locked ∨ (s.part p).trust.state = .run) ∧ (s.part p).trust.allows n = true
      ∨ (s.part p).trust.state = .error ∧ (s.part p).trust.bound = none) :
    s.interfaceState n p = (s.heard n x).tdisp n 0x05 [BitVec.ofNat 8 (s.part p).trust.state.code] := by
  rw [interfaceState_eq h, if_pos]
  rcases open_ with ⟨e | e, own⟩ | ⟨e, unbound⟩
  · simp [PartTrust.tells, e, own]
  · simp [PartTrust.tells, e, own]
  · simp [PartTrust.tells, e, unbound]

theorem interfaceState_refused (h : s.reaches n p x)
    (shut : (s.part p).trust.state = .unlocked ∨ (s.part p).trust.allows n = false
      ∨ (s.part p).trust.state = .error ∧ (s.part p).trust.bound ≠ none) :
    s.interfaceState n p = (s.heard n x).tdispError n := by
  rw [interfaceState_eq h, if_neg]
  rcases shut with e | foreign | ⟨e, bound⟩
  · simp [PartTrust.tells, e]
  · cases e : (s.part p).trust.state <;> simp [PartTrust.tells, e, foreign, bound_of_not_allows foreign]
  · simp [PartTrust.tells, e, bound]

/-! ### START_INTERFACE_REQUEST -/

theorem exec_startInterfaceRequest : exec (.startInterfaceRequest n p) s = .next (s.startInterface n p) := rfl

theorem startInterface_starts (h : s.reaches n p x) (locked : (s.part p).trust.state = .locked)
    (fresh : (s.part p).trust.starting = false) (stays : (s.part p).trust.stopping = none)
    (own : (s.part p).trust.allows n = true) :
    s.startInterface n p = ((s.heard n x).modTrust p fun t => { t with starting := true }).schedDue p := by
  rw [State.startInterface, onInterface_reaches h]
  exact if_pos (by simp [locked, fresh, stays, own])

theorem startInterface_refused (h : s.reaches n p x) (bad : (s.part p).trust.state ≠ .locked ∨ (s.part p).trust.starting = true
    ∨ (s.part p).trust.stopping ≠ none ∨ (s.part p).trust.allows n = false) :
    s.startInterface n p = (s.heard n x).tdispError n := by
  rw [State.startInterface, onInterface_reaches h]
  refine if_neg ?_
  rcases bad with e | e | e | e <;> simp [e]

/-! ### STOP_INTERFACE_REQUEST -/

theorem exec_stopInterfaceRequest : exec (.stopInterfaceRequest n p) s = .next (s.stopInterface n p) := rfl

/-- The interface is unlocked, which answers the STOP of session n. -/
def State.unlocksFor (s : State) (n p : Nat) : State := (s.setIf p .unlocked).tdisp n 0x07 []

theorem unlocksFor_trust (s : State) (n p : Nat) :
    ((s.unlocksFor n p).part p).trust = { (s.part p).trust with state := .unlocked } := by
  rw [State.unlocksFor, tdisp_part, setIf_part]

theorem unlocksFor_told (s : State) (n p : Nat) : .tdisp n 0x07 [] ∈ (s.unlocksFor n p).out := tdisp_told ..

/-- A STOP of session n that waits for the end of the scrub; a START does not go on. -/
def PartTrust.stopsFor (t : PartTrust) (n : Nat) : PartTrust := { t with starting := false, stopping := some n }

theorem stopInterface_refused (h : s.reaches n p x) (bad : (s.part p).trust.state = .unlocked ∨ (s.part p).trust.stopping ≠ none
    ∨ (s.part p).trust.allows n = false) : s.stopInterface n p = (s.heard n x).tdispError n := by
  rw [State.stopInterface, onInterface_reaches h]
  dsimp only
  split
  · rfl
  · next allowed =>
    have unlocked : (s.part p).trust.state = .unlocked := bad.resolve_right fun bad => allowed (by
      simpa [Option.isSome_iff_ne_none] using bad.symm)
    rw [heard_part, unlocked]

section Allowed
variable (h : s.reaches n p x) (stays : (s.part p).trust.stopping = none) (own : (s.part p).trust.allows n = true)
include h stays own

theorem stopInterface_teardown (bound : (s.part p).trust.state = .locked ∨ (s.part p).trust.state = .run)
    (idle : (s.part p).trust.starting = false) :
    s.stopInterface n p = ((s.heard n x).modTrust p fun t => t.stopsFor n).startTeardown p := by
  rw [State.stopInterface, onInterface_reaches h]
  rcases bound with e | e <;> simp only [heard_part, e, idle, stays, own] <;> rfl

theorem stopInterface_unlocks (e : (s.part p).trust.state = .error) (done : (s.part p).trust.scrub = false) :
    s.stopInterface n p = ((s.heard n x).modTrust p fun t => { t with bound := none }).unlocksFor n p := by
  rw [State.stopInterface, onInterface_reaches h]
  simp only [heard_part, e, done, stays, own]
  rfl

theorem stopInterface_waits (e : (s.part p).trust.state = .error) (scrub : (s.part p).trust.scrub = true) :
    s.stopInterface n p = (s.heard n x).modTrust p fun t => { t with stopping := some n } := by
  rw [State.stopInterface, onInterface_reaches h]
  simp only [heard_part, e, scrub, stays, own]
  rfl

end Allowed

/-! ### The cuts of a teardown (R374) -/

theorem psns_modTrust_self (s : State) (p : Nat) (f : PartTrust → PartTrust) : (s.modTrust p f).psns p = s.psns p := by
  rw [State.psns, part_modTrust_self]
  rfl

/-- The cut that a teardown makes of spindles. -/
def State.killCut (s : State) (ns : List Nat) : Cut := { c := s.gcyc + 64, kind := 2, spins := ns }

theorem killCut_mem (some_ : s.psns p ≠ []) : s.killCut (s.psns p) ∈ (s.startTeardown p).cuts := by
  refine List.mem_append_right _ ?_
  rw [if_neg (by simpa using some_)]
  exact List.mem_singleton_self _

/-- No other cut of the partition's spindles is pending. -/
theorem startTeardown_cuts {c : Cut} (h : c ∈ (s.startTeardown p).cuts) :
    (∀ m ∈ c.spins, m ∉ s.psns p) ∨ c = s.killCut (s.psns p) := by
  rcases List.mem_append.1 h with kept | made
  · obtain ⟨y, -, rfl⟩ := List.mem_map.1 (List.mem_filter.1 kept).1
    exact .inl fun m hm => by simpa using (List.mem_filter.1 hm).2
  · split at made
    · cases made
    · exact .inr (List.mem_singleton.1 made)

end Messages

end Sys2Proof.Machine
end

section
/-!
PROOFS. The end of a teardown (R374): what the end of a partition's work keeps, what is zeroised, and the STOP that waits
(`Obligations.InterfaceEvents`).
-/

namespace Sys2Proof.Machine

/-! ### What the end of work keeps

Ended work changes graphs, queues, contracts, images and barriers of a partition; no function that ends work changes an interface or
the spindle numbers that it fixed. -/

/-- Of each partition, its interface and its spindle numbers. -/
def State.posts (s : State) (q : Nat) : PartTrust × List Nat := ((s.part q).trust, s.psns q)

section Posts
variable {s t : State}

theorem posts_of_parts (h : t.parts = s.parts) : t.posts = s.posts := by
  funext q
  rw [State.posts, State.posts, State.psns, State.psns, part_congr h]

@[simp] theorem posts_withSpindles (s : State) (l : Tbl Spindle) : ({ s with spindles := l } : State).posts = s.posts :=
  posts_of_parts rfl

@[simp] theorem posts_withMsgs (s : State) (l : List Msg) : ({ s with msgs := l } : State).posts = s.posts := posts_of_parts rfl

@[simp] theorem posts_modPart (s : State) (p : Nat) {f : Part → Part}
    (hf : ∀ x, (f x).trust = x.trust ∧ (f x).sched.psns = x.sched.psns) : (s.modPart p f).posts = s.posts := by
  funext q
  rw [State.posts, State.posts, State.psns, State.psns]
  by_cases e : q = p
  · subst e
    rw [part_modPart_self, (hf _).1, (hf _).2]
  · rw [part_modPart_ne s e]

@[simp] theorem posts_modSched (s : State) (p : Nat) {f : PartSched → PartSched}
    (hf : ∀ d, (f d).psns = d.psns := by exact fun _ => rfl) : (s.modSched p f).posts = s.posts :=
  posts_modPart s p fun _ => ⟨rfl, hf _⟩

@[simp] theorem posts_foldl {α : Type} {f : State → α → State} (hf : ∀ t x, (f t x).posts = t.posts) (l : List α)
    (s : State) : (l.foldl f s).posts = s.posts :=
  List.foldlRecOn (motive := fun t => t.posts = s.posts) l f rfl fun _ h x _ => (hf _ x).trans h

@[simp] theorem posts_schedDue (s : State) (p : Nat) : (s.schedDue p).posts = s.posts := posts_modSched s p

@[simp] theorem posts_writeRecord (s : State) (p : Nat) (a : Word) (off : Nat) (bs : List Byte) :
    (s.writeRecord p a off bs).posts = s.posts := posts_of_parts (writeRecord_parts ..)

@[simp] theorem posts_writeHead (s : State) (p slot : Nat) : (s.writeHead p slot).posts = s.posts := by
  rw [State.writeHead]
  split
  · rw [State.writeSlot]
    exact posts_of_parts (modMem_parts ..)
  · rfl

@[simp] theorem posts_discardImages (s : State) (p : Nat) (slots : List Nat) : (s.discardImages p slots).posts = s.posts := by
  simp [State.discardImages]

/-! Graphs and contracts. -/

@[simp] theorem posts_modGraph (s : State) (p h : Nat) (f : Graph → Graph) : (s.modGraph p h f).posts = s.posts := by
  rw [State.modGraph]
  split <;> simp

@[simp] theorem posts_openNode (s : State) (p h k : Nat) : (s.openNode p h k).posts = s.posts := by
  rw [State.openNode]
  split
  · rfl
  · simp only [apply_ite State.posts, State.retireNode, posts_schedDue, posts_modGraph, posts_modSched, implies_true, ite_self]

@[simp] theorem posts_openReady (s : State) (p h : Nat) : (s.openReady p h).posts = s.posts := by
  rw [State.openReady]
  split
  · rfl
  · refine posts_foldl (fun t k => ?_) _ s
    split
    · simp only [apply_ite State.posts, posts_openNode, ite_self]
    · rfl

@[simp] theorem posts_finishGraph (s : State) (p h : Nat) : (s.finishGraph p h).posts = s.posts := by
  rw [State.finishGraph]
  split
  · rfl
  · simp only [apply_ite State.posts, posts_modSched, posts_modGraph, posts_writeRecord, implies_true, ite_self]

@[simp] theorem posts_endContract (s : State) (p a state : Nat) : (s.endContract p a state).posts = s.posts := by
  rw [State.endContract]
  split
  · rfl
  · simp [State.writeContract]

@[simp] theorem posts_modContract (s : State) (p a : Nat) (f : Contract → Contract) : (s.modContract p a f).posts = s.posts :=
  posts_modSched s p

@[simp] theorem posts_countJob (s : State) (p a : Nat) (missed : Bool) : (s.countJob p a missed).posts = s.posts := by
  rw [State.countJob]
  dsimp only
  split
  · exact posts_modContract ..
  · simp [apply_ite State.posts, State.retireNode, State.writeContract]

@[simp] theorem posts_jobEnds (s : State) (p a : Nat) : (s.jobEnds p a).posts = s.posts := by
  rw [State.jobEnds]
  split
  · rfl
  · split
    · rfl
    · rw [posts_countJob, posts_modContract]

/-! How a task leaves. -/

@[simp] theorem posts_leaveUnit (s : State) (p n : Nat) (u : Placed) : (s.leaveUnit p n u).posts = s.posts := by
  rw [State.leaveUnit]
  dsimp only
  split
  · simp only [apply_ite State.posts, posts_jobEnds, posts_modSched, implies_true, ite_self]
  · exact posts_modSched s p

@[simp] theorem posts_dropQueued (s : State) (p : Nat) (mine : Work → Bool) : (s.dropQueued p mine).posts = s.posts := by
  refine (posts_foldl (fun t q => ?_) _ _).trans (posts_modSched s p)
  split
  · exact posts_leaveUnit ..
  · rfl

@[simp] theorem posts_failNode (s : State) (p h k : Nat) (status : BitVec 32) : (s.failNode p h k status).posts = s.posts := by
  rw [State.failNode]
  split
  · rfl
  · simp only [apply_ite State.posts, posts_finishGraph, posts_dropQueued, posts_modSched, posts_discardImages, posts_writeRecord,
      implies_true, ite_self]

@[simp] theorem posts_endWaits (s : State) (p id : Nat) : (s.endWaits p id).posts = s.posts :=
  (posts_modSched _ p).trans (posts_withMsgs ..)

@[simp] theorem posts_domainGone (s : State) (c : Ctx) : (s.domainGone c).posts = s.posts := by
  rw [State.domainGone]
  split
  · rfl
  · exact posts_modPart s _ fun _ => ⟨rfl, rfl⟩

@[simp] theorem posts_leaveStand (s : State) (n seg gid : Nat) : (s.leaveStand n seg gid).posts = s.posts := posts_of_parts rfl

@[simp] theorem posts_modSp (s : State) (n : Nat) (f : Spindle → Spindle) : (s.modSp n f).posts = s.posts := posts_of_parts rfl

@[simp] theorem posts_killSusp (s : State) (p : Nat) (u : Susp) : (s.killSusp p u).posts = s.posts := by
  rw [State.killSusp]
  split <;> simp

@[simp] theorem posts_revoke (s : State) (p a : Nat) : (s.revoke p a).posts = s.posts := by simp [State.revoke]

/-- A node that is not done fails as its graph ends. -/
def State.endNode (p h : Nat) (s : State) (k : Nat) : State :=
  match s.graph p h with
  | some g => if g.nodeDone k then s else s.failNode p h k 3
  | none => s

@[simp] theorem posts_endNode (s : State) (p h k : Nat) : (s.endNode p h k).posts = s.posts := by
  rw [State.endNode]
  split
  · simp only [apply_ite State.posts, posts_failNode, ite_self]
  · rfl

/-- A graph ends: the nodes that are not done fail, and its status is written. -/
def State.endGraph (p : Nat) (s : State) (x : Nat × Graph) : State :=
  ((List.range x.2.nodes.length).foldl (State.endNode p x.1) s).finishGraph p x.1

@[simp] theorem posts_endGraph (s : State) (p : Nat) (x : Nat × Graph) : (s.endGraph p x).posts = s.posts := by
  simp [State.endGraph]

/-- The end of a partition's work in terms of the two definitions above. -/
theorem endWork_eq (s : State) (p : Nat) : s.endWork p =
    (s.part p).sched.contracts.foldl (fun s k => s.revoke p k.addr.toNat)
      ((s.part p).sched.graphs.foldl (State.endGraph p)
        ((((s.part p).sched.susp.foldl (fun s u => s.killSusp p u) s).discardImages p
          ((s.part p).sched.images.map Prod.fst)).modSched p fun d =>
            { d with ready := [], resting := [], queue := [], placed := [] })) := rfl

/-- The end of a partition's work leaves interfaces and spindle numbers (R374). -/
theorem posts_endWork (s : State) (p : Nat) : (s.endWork p).posts = s.posts := by
  simp [endWork_eq]

theorem endWork_trust (s : State) (p q : Nat) : ((s.endWork p).part q).trust = (s.part q).trust :=
  congrArg Prod.fst (congrFun (posts_endWork s p) q)

theorem endWork_psns (s : State) (p q : Nat) : (s.endWork p).psns q = s.psns q :=
  congrArg Prod.snd (congrFun (posts_endWork s p) q)

end Posts

/-! ### What is zeroised (R374) -/

section Zeroise
variable {m : Memory} {s : State} {p : Nat}

/-- What one step of a fold establishes and every step keeps holds after the fold. -/
theorem foldl_establishes {α β : Type} {P : β → Prop} {f : β → α → β} {l : List α} {x : α} (hx : x ∈ l)
    (sets : ∀ b, P (f b x)) (keeps : ∀ b y, P b → P (f b y)) (b : β) : P (l.foldl f b) := by
  obtain ⟨l₁, l₂, rfl⟩ := List.append_of_mem hx
  rw [List.foldl_append, List.foldl_cons]
  exact List.foldlRecOn l₂ f (sets _) fun _ h y _ => keeps _ y h

/-- A line of form 0 whose number is one of a page of n bytes from address a. -/
def Memory.plainLine (m : Memory) (a n l : Nat) : Bool := decide (a ≤ 64 * l) && decide (64 * l < a + n) && !m.form.contains l

theorem scrubPlain_cells (m : Memory) (a n k : Nat) :
    cellGet (m.scrubPlain a n).cells k = if m.plainLine a n (k / 64) then 0 else cellGet m.cells k := by
  refine (cellGet_filter (fun x => !m.plainLine a n (x / 64)) m.cells k).trans ?_
  cases m.plainLine a n (k / 64) <;> rfl

theorem scrub_zero (n : Nat) {key a : Nat} (h : cellGet m.cells a = 0) : cellGet (m.scrub key n).cells a = 0 := by
  rw [scrub_cells]
  split
  · rfl
  · exact h

theorem scrubPlain_zero (a n : Nat) {k : Nat} (h : cellGet m.cells k = 0) : cellGet (m.scrubPlain a n).cells k = 0 := by
  rw [scrubPlain_cells]
  split
  · rfl
  · exact h

/-- Spindles' slices, then the plaintext of pages. -/
def Memory.zeroise (m : Memory) (ns : List Nat) (pages : List LeafAt) : Memory :=
  pages.foldl (fun m l => m.scrubPlain (leafAddr l.entry) l.size) (ns.foldl (fun m n => m.scrub (sliceKey n 0) 0x2000000) m)

/-- Every byte of a slice reads as zero. -/
theorem zeroise_slice (m : Memory) {ns : List Nat} (pages : List LeafAt) {n a : Nat} (hn : n ∈ ns) (lo : sliceKey n 0 ≤ a)
    (hi : a < sliceKey n 0 + 0x2000000) : cellGet (m.zeroise ns pages).cells a = 0 := by
  refine List.foldlRecOn (motive := fun m : Memory => cellGet m.cells a = 0) pages _ ?_ fun m h l _ => scrubPlain_zero _ _ h
  refine foldl_establishes (P := fun m : Memory => cellGet m.cells a = 0) hn (fun m => ?_) (fun m k h => scrub_zero _ h) m
  rw [scrub_cells, if_pos ⟨lo, hi⟩]
  rfl

/-- A byte of a page of whole lines reads as zero, unless its line is ciphertext. -/
theorem zeroise_page (m : Memory) (ns : List Nat) {pages : List LeafAt} {l : LeafAt} {a : Nat} (hl : l ∈ pages)
    (lo : leafAddr l.entry ≤ a) (hi : a < leafAddr l.entry + l.size) (start : leafAddr l.entry % 64 = 0) (size : l.size % 64 = 0)
    (plain : a / 64 ∉ (m.zeroise ns pages).form) : cellGet (m.zeroise ns pages).cells a = 0 := by
  refine foldl_establishes (P := fun m : Memory => a / 64 ∉ m.form → cellGet m.cells a = 0) hl (fun m form => ?_)
    (fun m k h form => scrubPlain_zero _ _ (h form)) _ plain
  have inside : leafAddr l.entry ≤ 64 * (a / 64) ∧ 64 * (a / 64) < leafAddr l.entry + l.size := by omega
  have form : a / 64 ∉ m.form := form
  rw [scrubPlain_cells, if_pos (by simp [Memory.plainLine, inside, form])]

/-- Updates of memory that follow one another. -/
theorem foldl_modMem {α : Type} (f : Memory → α → Memory) (l : List α) (s : State) :
    l.foldl (fun s x => s.modMem fun m => f m x) s = s.modMem fun m => l.foldl f m := by
  induction l generalizing s with
  | nil => rfl
  | cons x l ih => exact ih _

theorem zeroise_mem (s : State) (p : Nat) :
    (s.zeroise p).mem = s.mem.zeroise (s.psns p) ((s.leaves p).filter fun l => leafTR l.entry) := by
  simp only [State.zeroise, foldl_modMem]
  rfl

/-- An interface without keys and signers. -/
def PartTrust.noKeys (t : PartTrust) : PartTrust := { t with keys := [], olds := [], signers := [], imgkey := none }

theorem zeroise_trust (s : State) (p : Nat) : ((s.zeroise p).part p).trust = (s.part p).trust.noKeys := by
  simp only [State.zeroise, foldl_modMem]
  exact congrArg Part.trust (part_modTrust_self _ p PartTrust.noKeys)

theorem zeroise_segs (s : State) (p k : Nat) : ((s.zeroise p).stand k).segs = (s.stand k).segs.filter fun g => g.part != p := by
  simp only [State.zeroise, foldl_modMem]
  exact congrArg Stand.segs (tget_map {} (fun x : Stand => { x with segs := x.segs.filter fun g => g.part != p }) rfl k s.stands)

end Zeroise

/-! ### The end of a scrub (R374) -/

section Scrub
variable {s : State} {p : Nat}

theorem exec_teardownScrubComplete : exec (.teardownScrubComplete p) s = .next (s.scrubDone p) := rfl

/-- Nothing of partition p is left but its interface, which no longer is scrubbed. -/
def State.cleared (s : State) (p : Nat) : State := ((s.endWork p).zeroise p).modTrust p fun t => { t with scrub := false }

theorem cleared_trust (s : State) (p : Nat) : ((s.cleared p).part p).trust = { (s.part p).trust.noKeys with scrub := false } := by
  rw [State.cleared, part_modTrust_self, zeroise_trust, endWork_trust]

theorem scrubDone_waits (h : s.scrubReady p = false) : s.scrubDone p = s := by
  rw [State.scrubDone, if_pos (by rw [h]; rfl)]

theorem scrubDone_records (h : s.scrubReady p = true) (waits : (s.endWork p).recWaits p = true) :
    s.scrubDone p = s.endWork p := by
  rw [State.scrubDone, if_neg (by rw [h]; decide)]
  exact if_pos waits

/-- The STOP that waits is answered, if there is one. -/
theorem scrubDone_cleared (h : s.scrubReady p = true) (done : (s.endWork p).recWaits p = false) :
    s.scrubDone p = match (s.part p).trust.stopping with
      | none => s.cleared p
      | some n => ((s.cleared p).modTrust p fun t => { t with stopping := none, bound := none }).unlocksFor n p := by
  have kept : (((s.endWork p).zeroise p).part p).trust.stopping = (s.part p).trust.stopping := by
    rw [zeroise_trust, endWork_trust]
    rfl
  rw [State.scrubDone, if_neg (by rw [h]; decide), if_neg (by rw [done]; decide)]
  dsimp only
  rw [kept]
  rfl

/-- What is left in memory, in stands and of keys, whether a STOP waits or not. -/
structure State.wipedOf (s : State) (p : Nat) (t : State) : Prop where
  mem : t.mem = ((s.endWork p).zeroise p).mem
  stands : t.stands = ((s.endWork p).zeroise p).stands
  trust : (t.part p).trust = { (s.part p).trust.noKeys with
    scrub := false
    state := if (s.part p).trust.stopping = none then (s.part p).trust.state else .unlocked
    bound := if (s.part p).trust.stopping = none then (s.part p).trust.bound else none
    stopping := none }
  told : ∀ n, (s.part p).trust.stopping = some n → .tdisp n 0x07 [] ∈ t.out

theorem scrubDone_wiped (h : s.scrubReady p = true) (done : (s.endWork p).recWaits p = false) : s.wipedOf p (s.scrubDone p) := by
  rw [scrubDone_cleared h done]
  cases stop : (s.part p).trust.stopping with
  | none =>
    refine ⟨rfl, rfl, ?_, fun n e => ?_⟩
    · rw [cleared_trust, stop]
      simp [PartTrust.noKeys, stop]
    · rw [stop] at e
      cases e
  | some k =>
    refine ⟨rfl, rfl, ?_, fun n e => ?_⟩
    · rw [unlocksFor_trust, part_modTrust_self, cleared_trust, stop]
      simp
    · obtain rfl : k = n := Option.some.inj (stop.symm.trans e)
      exact unlocksFor_told ..

end Scrub

end Sys2Proof.Machine

open Sys2Proof Sys2Proof.Machine

/-- Settles O56: each TDISP message by the lemma on its case, and the end of a teardown by what the end of work keeps and what is
zeroised. -/
theorem interfaceEvents : Obligations.InterfaceEvents := by
  unfold Obligations.InterfaceEvents
  refine ⟨?_, ?_⟩
  -- the messages
  · intro n p x s stage session finished _ t0 error all
    have secured : s.secures n x := ⟨stage, session, finished⟩
    have refused : ∀ i, exec i s = .next ((s.heard n x).tdispError n) → error i := fun i e => ⟨_, e, rfl, rfl⟩
    refine ⟨fun barred i hi => ?_, fun period part => ?_⟩
    · obtain ⟨k, e⟩ := exec_interfaceMessage s hi
      exact refused i (e.trans (congrArg _ (onInterface_barred secured barred)))
    have h : s.reaches n p x := ⟨secured, period, part⟩
    simp only [exec_lockInterfaceRequest, exec_getDeviceInterfaceReport, exec_getDeviceInterfaceState, exec_startInterfaceRequest,
      exec_stopInterfaceRequest]
    refine ⟨fun unlocked unbound => ?_, fun taken => refused _ (congrArg _ (lockInterface_refused h taken)),
      fun bound own => ⟨_, congrArg _ (interfaceReport_told h bound own), rfl, rfl⟩,
      fun shut => refused _ (congrArg _ (interfaceReport_refused h shut)),
      fun told => ⟨_, congrArg _ (interfaceState_told h told), rfl, rfl⟩,
      fun shut => refused _ (congrArg _ (interfaceState_refused h shut)),
      fun locked fresh stays own => ⟨_, congrArg _ (startInterface_starts h locked fresh stays own), ?_, ?_, rfl⟩,
      fun bad => refused _ (congrArg _ (startInterface_refused h bad)), fun bound idle stays own => ?_,
      fun e stays own done => ⟨_, congrArg _ (stopInterface_unlocks h stays own e done), ?_, ?_, unlocksFor_told ..⟩,
      fun e stays own scrub => ⟨_, congrArg _ (stopInterface_waits h stays own e scrub), ?_, rfl⟩,
      fun bad => refused _ (congrArg _ (stopInterface_refused h bad))⟩
    -- LOCK
    · obtain ⟨t, d, locks, left⟩ := lockInterface_locks h unlocked unbound
      refine ⟨_, d, congrArg _ locks, ?_⟩
      rw [tdisp_part, left]
      exact ⟨rfl, rfl, rfl, rfl, rfl, tdisp_told .., rfl⟩
    -- START
    · rw [State.schedDue, part_modSched_self, part_modTrust_self]
      rfl
    · rw [State.schedDue, part_modSched_self]
    -- STOP of a locked or running interface
    · let u := (s.heard n x).modTrust p fun t => t.stopsFor n
      have numbers : u.psns p = s.psns p := psns_modTrust_self ..
      refine ⟨_, congrArg _ (stopInterface_teardown h stays own bound idle), ?_, rfl, fun some_ => ?_,
        fun c hc => .inr (numbers ▸ startTeardown_cuts hc)⟩
      · rw [startTeardown_part, part_modTrust_self]
        rfl
      · exact numbers ▸ killCut_mem (s := u) (numbers ▸ some_)
    -- STOP of one in ERROR
    · rw [unlocksFor_trust]
    · rw [unlocksFor_trust, part_modTrust_self]
    · rw [part_modTrust_self]
      rfl
  -- the end of a teardown
  · intro p s
    simp only [exec_teardownScrubComplete]
    refine ⟨fun h => congrArg _ (scrubDone_waits h), fun h waits => congrArg _ (scrubDone_records h waits),
      fun h done => ⟨_, rfl, ?_⟩⟩
    obtain ⟨memory, stands, trust, told⟩ := scrubDone_wiped h done
    rw [zeroise_mem] at memory
    rw [trust]
    refine ⟨rfl, rfl, rfl, rfl, fun n hn a lo hi => ?_, fun k g hg => ?_, fun l hl tr a lo hi plain start size => ?_,
      fun stop => if_pos stop, fun n stop => ⟨if_neg (by simp [stop]), if_neg (by simp [stop]), rfl, told n stop⟩⟩
    · rw [memory]
      exact zeroise_slice _ _ (endWork_psns s p p ▸ hn) lo hi
    · rw [State.stand, stands, ← State.stand, zeroise_segs] at hg
      simpa using (List.mem_filter.1 hg).2
    · rw [memory] at plain ⊢
      exact zeroise_page _ _ (List.mem_filter.2 ⟨hl, tr⟩) lo hi start size plain
end

section
/-!
PROOFS. The results of the scalar words: integers, comparisons, predicates, selections, immediates, counts and addresses
(`Obligations.IntegerResults`, `Obligations.ComparisonResults`, `Obligations.PredicateLogic`, `Obligations.SelAndXmov`,
`Obligations.ImmediatesCountsAndHash`).
-/

namespace Sys2Proof.Machine

/-! ### Presence of several blocks (R346) -/

/-- Blocks that are there are there in any order and number. -/
theorem there_of_subset {s : State} {bs cs : List Nat} (h : s.there bs) (sub : cs ⊆ bs) : s.there cs := by
  unfold State.there State.missingOf at *
  dsimp only at *
  split at h
  · next e => rw [if_pos e]
  · next e =>
    rw [if_neg e, List.filter_eq_nil_iff] at *
    exact fun b hb => h b (sub hb)

theorem acts_of_subset {s : State} {g : BitVec 4} {bs cs : List Nat} (h : s.acts g bs) (sub : cs ⊆ bs) : s.acts g cs :=
  ⟨h.1, h.2.1, there_of_subset h.2.2 sub⟩

/-! ### A word with one result -/

section Results
variable {s : State} {g : BitVec 4} {bs : List Nat} {sl lat : Nat} {cl : Cluster} {rd : BitVec 5} {v w : Word}

/-- A guarded word with a register result leaves it in flight. -/
theorem commit_guarded_toReg (h : s.acts g bs) (e : v = w) :
    commit sl s (s.guarded g bs (s.toReg cl rd lat v)) = inFlight s lat (landReg cl rd w) :=
  e ▸ commit_guarded h

/-- A word without a guard does so too. -/
theorem commit_touching_toReg (h : s.there bs) (e : v = w) :
    commit sl s (Issue.touching s bs (s.toReg cl rd lat v)) = inFlight s lat (landReg cl rd w) :=
  e ▸ commit_touching h

end Results

/-! ### Integer results (R108, R110, R111) -/

theorem boolWord_slt (a b : Word) : boolWord (BitVec.slt a b) = if a.toInt < b.toInt then 1 else 0 := by
  simp only [boolWord, BitVec.slt_eq_decide, decide_eq_true_eq]

theorem boolWord_ult (a b : Word) : boolWord (BitVec.ult a b) = if a.toNat < b.toNat then 1 else 0 := by
  simp only [boolWord, BitVec.ult_eq_decide, decide_eq_true_eq]

theorem ite_slt {n : Nat} {α : Type} (a b : BitVec n) (x y : α) :
    (if BitVec.slt a b then x else y) = if a.toInt < b.toInt then x else y := by
  simp only [BitVec.slt_eq_decide, decide_eq_true_eq]

theorem ite_ult {n : Nat} {α : Type} (a b : BitVec n) (x y : α) :
    (if BitVec.ult a b then x else y) = if a.toNat < b.toNat then x else y := by
  simp only [BitVec.ult_eq_decide, decide_eq_true_eq]

/-- The upper half of the product of two naturals. -/
theorem mulHigh_natCast (a b : Nat) : mulHigh a b = BitVec.ofNat 64 (a * b / 2 ^ 64) := by
  rw [mulHigh, ← BitVec.ofInt_natCast]
  push_cast
  rfl

/-- The most negative number by -1 wraps around, with no remainder. -/
theorem divS_intMin : divS (BitVec.intMin 64) (BitVec.allOnes 64) = BitVec.intMin 64 := by decide

theorem remS_intMin : remS (BitVec.intMin 64) (BitVec.allOnes 64) = 0 := by decide

/-! ### Comparisons (R112) -/

/-- The six conditions by their numbers. -/
theorem condOf_iff {k : Nat} (hk : k ≤ 5) (a b : Word) : condOf k a b = true ↔
    (k = 0 ∧ a = b) ∨ (k = 1 ∧ a ≠ b) ∨ (k = 2 ∧ a.toInt < b.toInt) ∨ (k = 3 ∧ b.toInt ≤ a.toInt)
      ∨ (k = 4 ∧ a.toNat < b.toNat) ∨ (k = 5 ∧ b.toNat ≤ a.toNat) := by
  interval_cases k <;> simp [condOf, BitVec.slt_eq_decide, BitVec.ult_eq_decide]

/-! ### Constants (R96, R97) -/

/-- LIMMH puts its immediate above the low bits of the register. -/
theorem limmh_eq (i : BitVec 20) (v : Word) :
    (i.signExtend 64 <<< 20) ||| ((v.setWidth 20).setWidth 64) = (i.signExtend 44 ++ v.setWidth 20 : BitVec 64) := by
  refine BitVec.eq_of_getLsbD_eq fun k hk => ?_
  simp only [BitVec.getLsbD_or, BitVec.getLsbD_shiftLeft, BitVec.getLsbD_append, BitVec.getLsbD_setWidth, BitVec.getLsbD_signExtend]
  by_cases low : k < 20
  · simp [low, hk]
  · simp [low, hk, show k - 20 < 44 by omega, show k - 20 < 64 by omega]

theorem fimm_eq (i : BitVec 20) : i.setWidth 64 <<< 12 = BitVec.ofNat 64 (i.toNat * 2 ^ 12) := by
  refine BitVec.eq_of_toNat_eq ?_
  rw [BitVec.toNat_shiftLeft, BitVec.toNat_setWidth, BitVec.toNat_ofNat, Nat.shiftLeft_eq, Nat.mod_mul_mod]

/-- LIT.D puts two literal words side by side. -/
theorem litD_eq (hi lo : BitVec 32) : hi.setWidth 64 <<< 32 ||| lo.setWidth 64 = (hi ++ lo : BitVec 64) := by
  refine BitVec.eq_of_getLsbD_eq fun k hk => ?_
  simp only [BitVec.getLsbD_or, BitVec.getLsbD_shiftLeft, BitVec.getLsbD_append, BitVec.getLsbD_setWidth]
  by_cases low : k < 32
  · simp [low, hk]
  · simp [low, hk, show k - 32 < 64 by omega, BitVec.getLsbD_of_ge lo k (by omega)]

/-! ### Counts (R108) -/

/-- CLZ counts the zeros above the highest 1. -/
theorem clz64_spec (a : Word) : ∃ n : Nat, clz64 a = BitVec.ofNat 64 n ∧ n ≤ 64 ∧ a.toNat < 2 ^ (64 - n)
    ∧ (n < 64 → 2 ^ (63 - n) ≤ a.toNat) := by
  by_cases zero : a = 0
  · exact ⟨64, if_pos zero, le_rfl, by simp [zero], fun h => absurd h (lt_irrefl _)⟩
  · have pos : a.toNat ≠ 0 := fun e => zero (BitVec.eq_of_toNat_eq e)
    have top : a.toNat.log2 < 64 := (Nat.log2_lt pos).2 a.isLt
    refine ⟨63 - a.toNat.log2, if_neg zero, by omega, ?_, fun _ => ?_⟩
    · rw [show 64 - (63 - a.toNat.log2) = a.toNat.log2 + 1 by omega]
      exact Nat.lt_log2_self
    · rw [show 63 - (63 - a.toNat.log2) = a.toNat.log2 by omega]
      exact Nat.log2_self_le pos

theorem popc64_eq (a : Word) : popc64 a = BitVec.ofNat 64 ((List.range 64).filter fun i => a.getLsbD i).length := by
  rw [popc64, List.countP_eq_length_filter]

/-- A word with a shift of itself folded in. -/
theorem toNat_xorShift {n : Nat} (h : BitVec n) (k : Nat) : (h ^^^ (h >>> k)).toNat = h.toNat ^^^ (h.toNat >>> k) := by
  rw [BitVec.toNat_xor, BitVec.toNat_ushiftRight]

/-- Hash32 on numbers (R109). -/
theorem hash32_toNat (u v : BitVec 32) : (hash32 u v).toNat =
    (let step := fun (h k : Nat) => h ^^^ (h >>> k)
     step (step ((u.toNat ^^^ v.toNat) * 0x9E3779B1 % 2 ^ 32) 15 * 0x85EBCA77 % 2 ^ 32) 13) := by
  have first : (0x9E3779B1#32).toNat = 0x9E3779B1 := rfl
  have second : (0x85EBCA77#32).toNat = 0x85EBCA77 := rfl
  rw [hash32]
  dsimp only
  rw [toNat_xorShift, BitVec.toNat_mul, toNat_xorShift, BitVec.toNat_mul, BitVec.toNat_xor, first, second]

/-! ### Addresses (R118, R119) -/

theorem inShared_iff (np a : Nat) : inShared np a = true ↔
    ∃ psn off, psn < np ∧ off < 0x1200000 ∧ a = 0x10000000000 + psn * 0x2000000 + off := by
  simp only [inShared, Option.isSome_iff_exists, Prod.exists, asShared_iff]

theorem inCluster_iff (nm a : Nat) : inCluster nm a = true ↔
    ∃ m off, m < nm ∧ off < 2 ^ 44 ∧ a = 0x100000000000000 + m * 2 ^ 44 + off := by
  simp only [inCluster, Option.isSome_iff_exists, Prod.exists, asCluster_iff]

section Acvt
variable (np nm a : Nat)

theorem acvt_local : acvt np nm 0 a = if a < 0x1200000 then a else 0xFFFFFFFFFFFFFFFF := by
  rw [acvt, ← ite_congr (propext (inLocal_iff a)) (fun _ => rfl) fun _ => rfl]
  rfl

theorem acvt_fromLocal : acvt np nm 3 a = if a < 0x1200000 then a else 0xFFFFFFFFFFFFFFFF := acvt_local np nm a

variable {np nm a}

theorem acvt_shared {psn off : Nat} (h : psn < np ∧ off < 0x1200000 ∧ a = 0x10000000000 + psn * 0x2000000 + off) :
    acvt np nm 1 a = psn * 2 ^ 32 + off := by
  rw [acvt, (asShared_iff ..).2 h]

theorem acvt_notShared (h : ¬ ∃ psn off, psn < np ∧ off < 0x1200000 ∧ a = 0x10000000000 + psn * 0x2000000 + off) :
    acvt np nm 1 a = 0xFFFFFFFFFFFFFFFF := by
  rw [acvt, asShared_none h]
  rfl

theorem acvt_cluster {m off : Nat} (h : m < nm ∧ off < 2 ^ 44 ∧ a = 0x100000000000000 + m * 2 ^ 44 + off) :
    acvt np nm 2 a = m * 2 ^ 48 + off := by
  rw [acvt, (asCluster_iff ..).2 h]

theorem acvt_notCluster (h : ¬ ∃ m off, m < nm ∧ off < 2 ^ 44 ∧ a = 0x100000000000000 + m * 2 ^ 44 + off) :
    acvt np nm 2 a = 0xFFFFFFFFFFFFFFFF := by
  rw [acvt, asCluster_none h]
  rfl

end Acvt

end Sys2Proof.Machine

open Sys2Proof Sys2Proof.Machine

/-- Settles O1: each word commits its result, and the edge cases are those of `divS` and `remS`. -/
theorem integerResults : Obligations.IntegerResults := by
  unfold Obligations.IntegerResults
  refine ⟨?_, fun cl rd ra rb bk g s => ⟨?_, ?_⟩⟩
  · intro cl rd ra rb bk g s acts a b put narrow
    exact ⟨commit_guarded acts, commit_guarded acts, commit_guarded acts, commit_guarded acts, commit_guarded acts,
      commit_guarded acts, commit_guarded acts, commit_guarded acts, commit_guarded acts,
      commit_guarded_toReg acts (boolWord_slt a b), commit_guarded_toReg acts (boolWord_ult a b),
      commit_guarded_toReg acts (ite_slt a b a b), commit_guarded_toReg acts (ite_slt a b b a),
      commit_guarded_toReg acts (ite_ult a b a b), commit_guarded_toReg acts (ite_ult a b b a),
      commit_guarded acts, commit_guarded acts, commit_guarded acts, commit_guarded acts, commit_guarded acts, commit_guarded acts⟩
  · intro acts a b put
    exact ⟨commit_guarded acts, commit_guarded acts, commit_guarded_toReg acts (mulHigh_natCast _ _), commit_guarded acts⟩
  · intro acts a b put
    refine ⟨fun zero => ?_, fun nonzero => ?_, fun min minusOne => ?_, fun nonzero => ?_⟩
    · exact ⟨commit_guarded_toReg acts (if_pos zero), commit_guarded_toReg acts (if_pos zero),
        commit_guarded_toReg acts (if_pos zero), commit_guarded_toReg acts (if_pos zero)⟩
    · exact ⟨commit_guarded_toReg acts (if_neg nonzero), commit_guarded_toReg acts (if_neg nonzero)⟩
    · have wraps : divS a b = a := by rw [min, minusOne, divS_intMin]
      have exact_ : remS a b = 0 := by rw [min, minusOne, remS_intMin]
      exact ⟨commit_guarded_toReg acts wraps, commit_guarded_toReg acts exact_⟩
    · exact ⟨commit_guarded_toReg acts (if_neg nonzero), commit_guarded_toReg acts (if_neg nonzero)⟩

/-- Settles O3: by the truth of the six conditions. -/
theorem comparisonResults : Obligations.ComparisonResults := by
  unfold Obligations.ComparisonResults
  refine ⟨rfl, ?_⟩
  intro cl ra rb bk pd cond cond5 imm g s bit a holds
  exact ⟨fun acts hk => ⟨_, commit_guarded acts, condOf_iff hk ..⟩, fun acts hk => ⟨_, commit_guarded acts, condOf_iff hk ..⟩⟩

/-- Settles O4: p0 reads as true, so PANDN of p0 is a complement. -/
theorem predicateLogic : Obligations.PredicateLogic := by
  unfold Obligations.PredicateLogic
  intro cl pd pa pb g s acts bit p
  exact ⟨commit_guarded acts, commit_guarded acts, commit_guarded acts, commit_guarded acts, commit_guarded acts⟩

/-- Settles O5: both words commit what they read in the issue cycle. -/
theorem selAndXmov : Obligations.SelAndXmov := by
  unfold Obligations.SelAndXmov
  refine ⟨fun cl rd ra rb bk pk g s acts => commit_guarded acts, fun rd ra g s acts => ?_, rfl, by decide +kernel⟩
  have swapped : s.acts g [1, 0] := acts_of_subset acts (by decide)
  exact ⟨commit_guarded swapped, commit_guarded acts, commit_guarded swapped, commit_guarded acts⟩

/-- Settles O2: constants, counts, the hash and the address forms, each by the lemma on its value. -/
theorem immediatesCountsAndHash : Obligations.ImmediatesCountsAndHash := by
  unfold Obligations.ImmediatesCountsAndHash
  refine ⟨?_, ⟨fun cl rd ra g s acts => ⟨?_, ?_⟩, ⟨fun cl rd ra rb bk g s acts => commit_guarded acts, hash32_toNat⟩⟩, ?_⟩
  -- immediates and constants
  · intro cl rd ra imm sh i20 num idx g s put
    refine ⟨fun acts => ?_, fun there => ?_, fun there => commit_touching (there_of_subset there (by simp))⟩
    · exact ⟨commit_guarded acts, commit_guarded acts, commit_guarded acts, commit_guarded acts,
        commit_guarded_toReg acts (boolWord_slt ..), commit_guarded acts, commit_guarded acts, commit_guarded acts⟩
    · exact ⟨commit_touching there, commit_touching_toReg there (limmh_eq ..), commit_touching_toReg there (fimm_eq _),
        commit_touching there, commit_touching there, commit_touching_toReg there (litD_eq ..)⟩
  -- counts
  · obtain ⟨n, e, bounds⟩ := clz64_spec (s.c.rd cl ra)
    exact ⟨n, commit_guarded_toReg acts e, bounds⟩
  · exact commit_guarded_toReg acts (popc64_eq _)
  -- addresses
  · intro cl rd ra pd g s a np nm shared cluster conv fail
    refine ⟨fun acts ap want test => ?_, fun acts => ?_⟩
    · obtain ⟨rfl, h⟩ | ⟨rfl, h⟩ | ⟨rfl, h⟩ | ⟨rfl, h⟩ | ⟨rfl, h⟩ := test
      · exact ⟨_, commit_guarded acts, (inLocal_iff a).trans h.symm⟩
      · exact ⟨_, commit_guarded acts, (inShared_iff np a).trans h.symm⟩
      · exact ⟨_, commit_guarded acts, (inCluster_iff nm a).trans h.symm⟩
      · exact ⟨_, commit_guarded acts, (inAcc_iff np a).trans h.symm⟩
      · exact ⟨_, commit_guarded acts, (inGlobal_iff a).trans h.symm⟩
    · have result : ∀ {i : Instr} {fn v : Nat}, exec i s = commit (slotNo cl) s
          (s.aluA cl rd ra g 1 fun x => BitVec.ofNat 64 (acvt np nm fn x.toNat)) → acvt np nm fn a = v → conv i v :=
        fun word e => word.trans (commit_guarded_toReg acts (congrArg _ e))
      exact ⟨result rfl (acvt_local ..), fun _ _ h => result rfl (acvt_shared h), fun h => result rfl (acvt_notShared h),
        fun _ _ h => result rfl (acvt_cluster h), fun h => result rfl (acvt_notCluster h), result rfl (acvt_fromLocal ..),
        result rfl rfl, result rfl rfl⟩
end

section
/-!
PROOFS. Control registers by number, and what a landing result writes (`Obligations.ControlRegistersAndLanding`).
-/

namespace Sys2Proof.Machine

/-! ### The map of control registers (R117, R134, R312) -/

theorem crAssigned_iff (n : Nat) : crAssigned n = true ↔
    n ≤ 0x00E ∨ 0x010 ≤ n ∧ n ≤ 0x016 ∨ 0x018 ≤ n ∧ n ≤ 0x01B ∨ 0x020 ≤ n ∧ n ≤ 0x022 ∨ 0x030 ≤ n ∧ n ≤ 0x0C7 := by
  simp [crAssigned, or_assoc]

theorem crReadOnly_iff (n : Nat) : crReadOnly n = true ↔
    n = 0x000 ∨ 0x008 ≤ n ∧ n ≤ 0x00D ∨ 0x018 ≤ n ∧ n ≤ 0x01B ∨ n = 0x021 ∨ n = 0x022 ∨ 0x080 ≤ n ∧ n ≤ 0x0BF ∧ 6 ≤ n % 8 := by
  simp [crReadOnly, or_assoc, and_assoc]

theorem crPriv_iff (hmode : Bool) (n : Nat) : crPriv hmode n = true ↔
    n = 0x020 ∨ hmode = false ∧ 0x011 ≤ n ∧ n ≤ 0x014 := by
  simp [crPriv, and_assoc]

theorem detMasked_iff (c : Ctx) (n : Nat) : detMasked c n = true ↔ c.ctl.det = true ∧ 0x009 ≤ n ∧ n ≤ 0x00C := by
  simp [detMasked, and_assoc]

/-! ### CRD and CWR (R116, R117, R139) -/

section Words
variable {s : State} {cl : Cluster} {num : BitVec 16}

theorem exec_crd_plain {rd : BitVec 5} (assigned : crAssigned num.toNat = true)
    (there : s.there [regBlock cl, crBlock num.toNat]) (plain : detMasked s.c num.toNat = false) :
    exec (.crd cl rd num) s = inFlight s 2 (landReg cl rd (s.c.readCr s.gcyc num)) := by
  show commit (slotNo cl) s (issueCrd cl rd num s) = _
  rw [issueCrd, if_neg (by simp [assigned]), touching_there (there_of_subset there (by simp)), if_neg (by simp [plain])]
  exact commit_ok ..

theorem exec_crd_masked {rd : BitVec 5} (assigned : crAssigned num.toNat = true)
    (there : s.there [regBlock cl, crBlock num.toNat]) (masked : detMasked s.c num.toNat = true) :
    exec (.crd cl rd num) s = .next ((s.pend 2 [landReg cl rd 0]).pend 1 [.flags fDETREAD]) := by
  show commit (slotNo cl) s (issueCrd cl rd num s) = _
  rw [issueCrd, if_neg (by simp [assigned]), touching_there (there_of_subset there (by simp)), if_pos masked]
  exact commit_ok ..

theorem exec_crd_unassigned {rd : BitVec 5} (h : crAssigned num.toNat = false) :
    exec (.crd cl rd num) s = traps s tILLEGAL (slotNo cl) (wordOf (.crd cl rd num)) := by
  show commit (slotNo cl) s (issueCrd cl rd num s) = _
  rw [issueCrd, if_pos (by simp [h])]
  rfl

theorem exec_cwr_priv {ra : BitVec 5} (h : crPriv s.c.ctl.hmode num.toNat = true) :
    exec (.cwr cl ra num) s = traps s tPRIV (slotNo cl) (wordOf (.cwr cl ra num)) := by
  show commit (slotNo cl) s (issueCwr cl ra num s) = _
  rw [issueCwr, if_pos h]
  rfl

theorem exec_cwr_illegal {ra : BitVec 5} (open_ : crPriv s.c.ctl.hmode num.toNat = false)
    (h : crAssigned num.toNat = false ∨ crReadOnly num.toNat = true) :
    exec (.cwr cl ra num) s = traps s tILLEGAL (slotNo cl) (wordOf (.cwr cl ra num)) := by
  show commit (slotNo cl) s (issueCwr cl ra num s) = _
  rw [issueCwr, if_neg (by simp [open_]), if_pos (by simpa using h)]
  rfl

theorem exec_cwr_writes {ra : BitVec 5} (open_ : crPriv s.c.ctl.hmode num.toNat = false)
    (assigned : crAssigned num.toNat = true) (writable : crReadOnly num.toNat = false)
    (there : s.there [regBlock cl, crBlock num.toNat]) :
    exec (.cwr cl ra num) s = inFlight s 1 (.creg num (s.c.rd cl ra)) := by
  show commit (slotNo cl) s (issueCwr cl ra num s) = _
  rw [issueCwr, if_neg (by simp [open_]), if_neg (by simp [assigned, writable]), touching_there there]
  exact commit_ok ..

end Words

/-! ### Landing (R73, R106, R136) -/

/-- A write of a register of a cluster. -/
def Regs.write (r : Regs) (cl : Cluster) (k : BitVec 5) (v : Word) : Regs :=
  match cl with
  | .x => r.wx k v
  | .y => r.wy k v

theorem land_landReg (s : State) (n : Nat) (cl : Cluster) (r : BitVec 5) (v : Word) :
    s.land n (landReg cl r v) = s.modCtx n fun c => { c with regs := c.regs.write cl r v } := by
  cases cl <;> rfl

theorem land_p_ctx (s : State) (n : Nat) (k : BitVec 3) (b : Bool) :
    (s.land n (.p k b)).ctxOf n = { s.ctxOf n with regs := (s.ctxOf n).regs.wp k b } := modCtx_self ..

theorem land_creg_ctx (s : State) (n : Nat) (num : BitVec 16) (v : Word) :
    (s.land n (.creg num v)).ctxOf n = (s.ctxOf n).writeCr num v := modCtx_self ..

theorem land_flags_ctx (s : State) (n : Nat) (f : BitVec 9) : (s.land n (.flags f)).ctxOf n = (s.ctxOf n).setFlags f :=
  modCtx_self ..

theorem rd_write_self (c : Ctx) (cl : Cluster) (r : BitVec 5) (v : Word) :
    ({ c with regs := c.regs.write cl r v } : Ctx).rd cl r = if r = 0 then 0 else v := by
  cases cl
  · exact (rx_wx ..).trans (by rw [if_pos rfl])
  · exact (ry_wy ..).trans (by rw [if_pos rfl])

theorem rd_write_other (c : Ctx) {cl d : Cluster} {r q : BitVec 5} (h : (d, q) ≠ (cl, r)) (v : Word) :
    ({ c with regs := c.regs.write cl r v } : Ctx).rd d q = c.rd d q := by
  cases cl <;> cases d
  case x.x =>
    refine (rx_wx ..).trans ?_
    rw [if_neg (c := q = r) fun e => h (by rw [e])]
    exact ite_eq_right_iff.2 fun zero => (if_pos zero).symm
  case y.y =>
    refine (ry_wy ..).trans ?_
    rw [if_neg (c := q = r) fun e => h (by rw [e])]
    exact ite_eq_right_iff.2 fun zero => (if_pos zero).symm
  case x.y => exact ry_wx ..
  case y.x => exact rx_wy ..

theorem write_p (r : Regs) (cl : Cluster) (k : BitVec 5) (v : Word) : (r.write cl k v).p = r.p := by
  cases cl
  · rw [Regs.write, Regs.wx]; split <;> rfl
  · rw [Regs.write, Regs.wy]; split <;> rfl

theorem wp_x (r : Regs) (k : BitVec 3) (b : Bool) : (r.wp k b).x = r.x := by
  rw [Regs.wp]; split <;> rfl

theorem wp_y (r : Regs) (k : BitVec 3) (b : Bool) : (r.wp k b).y = r.y := by
  rw [Regs.wp]; split <;> rfl

theorem writeCr_fstat (c : Ctx) (v : Word) : (c.writeCr 0x001 v).ctl.fstat = c.ctl.fstat &&& ~~~(v.setWidth 9) := rfl

/-- PPBOUND is never below its least value (R335). -/
theorem writeCr_ppbound (c : Ctx) (v : Word) : 0x0400 ≤ (c.writeCr 0x00E v).ctl.ppbound.toNat := by
  show 0x0400 ≤ (if v.toNat % 65536 < 0x0400 then (0x0400 : BitVec 16) else v.setWidth 16).toNat
  split
  · decide
  · next h => rw [BitVec.toNat_setWidth]; omega

theorem writeCr_tdeleg (c : Ctx) (v : Word) : (c.writeCr 0x015 v).trap.tdeleg = v &&& tdelegMask := rfl

end Sys2Proof.Machine

open Sys2Proof Sys2Proof.Machine

/-- Settles O6: the ranges of the map decide what CRD and CWR do, and a landing result changes the context of its spindle alone. -/
theorem controlRegistersAndLanding : Obligations.ControlRegistersAndLanding := by
  unfold Obligations.ControlRegistersAndLanding
  refine ⟨?_, fun s n cl r v k b num f => ?_⟩
  · intro cl rd ra num s n assigned fixed priv masked
    have isAssigned : Machine.crAssigned n = true ↔ assigned := crAssigned_iff n
    have isFixed : Machine.crReadOnly n = true ↔ fixed := crReadOnly_iff n
    have isPriv : crPriv s.c.ctl.hmode n = true ↔ priv := crPriv_iff _ n
    have isMasked : detMasked s.c n = true ↔ masked := detMasked_iff s.c n
    rw [← isAssigned, ← isFixed, ← isPriv, ← isMasked]
    simp only [Bool.not_eq_true]
    exact ⟨fun a there => ⟨exec_crd_plain a there, exec_crd_masked a there, fun w p => exec_cwr_writes p a w there⟩,
      exec_crd_unassigned, exec_cwr_priv, exec_cwr_illegal⟩
  · simp only [land_landReg, land_p_ctx, land_creg_ctx, land_flags_ctx, modCtx_self, modCtx_mem, and_true]
    refine ⟨⟨rd_write_self .., fun d q h => rd_write_other _ h v, write_p ..⟩,
      ⟨?_, fun j h => ?_, wp_x .., wp_y ..⟩, writeCr_fstat .., writeCr_ppbound .., writeCr_tdeleg .., writeCr_fixed, rfl,
      fun m h l => land_other h⟩
    · rw [rp_wp, if_pos rfl]
    · rw [rp_wp, if_neg h]
      exact ite_eq_right_iff.2 fun zero => by rw [zero]; rfl
end

section
/-!
PROOFS. Words with a false guard, and the frames of the scalar words (`Obligations.FalseGuardDoesNothing`,
`Obligations.ScalarFrames`).
-/

namespace Sys2Proof.Machine

/-! ### The shapes of scalar words at issue -/

/-- At issue in s, a word with the scalar guard g is a guarded issue. -/
def Instr.isGuarded (i : Instr) (g : BitVec 4) (s : State) : Prop :=
  ∃ sl bs k, exec i s = commit sl s (s.guarded g bs k)

/-- At issue in s, a word with the LS guard g is a guarded issue. -/
def Instr.isGuardedLs (i : Instr) (g : BitVec 3) (s : State) : Prop :=
  ∃ sl bs k, exec i s = commit sl s (s.guardedLs g bs k)

/-- At issue in s, a word with the scalar guard g does nothing but put results in flight. -/
def Instr.putsGuarded (i : Instr) (g : BitVec 4) (s : State) : Prop :=
  ∃ sl bs lat ls, exec i s = commit sl s (s.guarded g bs (.ok (s.pend lat ls)))

/-- The same of a word without a guard. -/
def Instr.puts (i : Instr) (s : State) : Prop :=
  ∃ sl bs lat ls, exec i s = commit sl s (Issue.touching s bs (.ok (s.pend lat ls)))

/-- At issue in s, a word does nothing but put results in flight, with flags. -/
def Instr.putsWithFlags (i : Instr) (s : State) : Prop :=
  ∃ sl bs lat ls fl, exec i s = commit sl s (Issue.touching s bs (.go fl (wordOf i) false (s.pend lat ls)))

section Shapes
variable {i : Instr} {g : BitVec 4} {s t : State}

theorem Instr.putsGuarded.isGuarded (h : Instr.putsGuarded i g s) : Instr.isGuarded i g s := by
  obtain ⟨sl, bs, lat, ls, e⟩ := h
  exact ⟨sl, bs, _, e⟩

/-- A false guard switches a guarded word off. -/
theorem Instr.isGuarded.off (h : Instr.isGuarded i g s) (there : s.there (guardBlocks g)) (off : s.c.guard g = false) :
    exec i s = .next s := by
  obtain ⟨sl, bs, k, e⟩ := h
  exact e.trans (commit_guarded_off there off)

theorem Instr.isGuardedLs.off {g : BitVec 3} (h : Instr.isGuardedLs i g s) (there : s.there (guardBlocksLs g))
    (off : s.c.guardLs g = false) : exec i s = .next s := by
  obtain ⟨sl, bs, k, e⟩ := h
  rw [e, guardedLs_off there off, commit_ok]

theorem Instr.putsGuarded.onlyPipes (h : Instr.putsGuarded i g s) (next : exec i s = .next t) : s.onlyPipes t := by
  obtain ⟨sl, bs, lat, ls, e⟩ := h
  exact commit_guarded_onlyPipes (onlyPipes_pend s lat ls) (e.symm.trans next)

theorem Instr.puts.onlyPipes (h : Instr.puts i s) (next : exec i s = .next t) : s.onlyPipes t := by
  obtain ⟨sl, bs, lat, ls, e⟩ := h
  exact commit_touching_onlyPipes (onlyPipes_pend s lat ls) (e.symm.trans next)

/-- Without FPX, flags are one more result in flight. -/
theorem Instr.putsWithFlags.onlyPipes (h : Instr.putsWithFlags i s) (next : exec i s = .next t) :
    s.onlyPipes t ∨ ∃ slot fl, ¬ s.noFpx fl ∧ t = s.takeFpx slot (wordOf i) fl := by
  obtain ⟨sl, bs, lat, ls, fl, e⟩ := h
  rw [e] at next
  by_cases missing : s.missingOf s.cur bs = []
  · rw [touching_there missing] at next
    by_cases quiet : s.noFpx fl
    · rw [commit_go (.inr quiet)] at next
      cases next
      exact .inl (onlyPipes_raiseFlags (onlyPipes_pend s lat ls))
    · rw [commit_fpx (Bool.not_eq_false _ ▸ quiet)] at next
      cases next
      exact .inr ⟨sl, fl, quiet, rfl⟩
  · rw [touching_missing missing] at next
    cases next
    exact .inl (onlyPipes_askBlocks s _)

end Shapes

/-! ### The words by shape -/

section Words
variable (cl : Cluster) (rd ra rb : BitVec 5) (bk : BitVec 2) (pd pa pb pk cond : BitVec 3) (c5 : BitVec 5) (imm : BitVec 12)
  (i11 : BitVec 11) (i20 : BitVec 20) (sh : BitVec 6) (num : BitVec 2) (idx : BitVec 8) (g : BitVec 4)

/-- The integer, multiply, divide and immediate words (R108, R110, R111). -/
def integerWords : List Instr :=
  [.add cl rd ra rb bk g, .sub cl rd ra rb bk g, .and cl rd ra rb bk g, .or cl rd ra rb bk g,
   .xor cl rd ra rb bk g, .andn cl rd ra rb bk g, .sll cl rd ra rb bk g, .srl cl rd ra rb bk g, .sra cl rd ra rb bk g,
   .slt cl rd ra rb bk g, .sltu cl rd ra rb bk g, .min cl rd ra rb bk g, .max cl rd ra rb bk g, .minu cl rd ra rb bk g,
   .maxu cl rd ra rb bk g, .clz cl rd ra g, .popc cl rd ra g, .addw cl rd ra rb bk g, .subw cl rd ra rb bk g,
   .sllw cl rd ra rb bk g, .srlw cl rd ra rb bk g, .sraw cl rd ra rb bk g, .hash cl rd ra rb bk g, .mul cl rd ra rb bk g,
   .mulh cl rd ra rb bk g, .mulhu cl rd ra rb bk g, .mulw cl rd ra rb bk g, .div rd ra rb bk g, .divu rd ra rb bk g,
   .rem rd ra rb bk g, .remu rd ra rb bk g, .addi cl rd ra imm g, .andi cl rd ra imm g, .ori cl rd ra imm g,
   .xori cl rd ra imm g, .slli cl rd ra sh g, .srli cl rd ra sh g, .srai cl rd ra sh g, .slti cl rd ra imm g]

/-- The predicate words (R112, R113), SEL and XMOV (R114, R115). -/
def predicateWords : List Instr :=
  [.pcmp cl pd ra rb bk c5 g, .pcmpi cl pd cond ra i11 g, .pand cl pd pa pb g, .por cl pd pa pb g, .pxor cl pd pa pb g,
   .pandn cl pd pa pb g, .sel cl rd ra rb bk pk g, .xmov cl rd ra g]

/-- The address words (R119). -/
def addressWords : List Instr :=
  [.acvtGen2loc cl rd ra g, .acvtGen2shr cl rd ra g, .acvtGen2clu cl rd ra g, .acvtLoc2gen cl rd ra g, .acvtShr2gen cl rd ra g,
   .acvtClu2gen cl rd ra g, .atest cl pd ra c5 g]

/-- The constant words, which have no guard (R96 to R98). -/
def constantWords : List Instr :=
  [.limm cl rd i20, .limmh cl rd i20, .fimm cl rd i20, .lit cl rd num, .litS cl rd num, .litD cl rd num, .kld cl rd idx]

/-- The words that compute under a guard put one result in flight. -/
theorem guardedWords_put (s : State) : ∀ i ∈ integerWords cl rd ra rb bk imm sh g
    ++ (predicateWords cl rd ra rb bk pd pa pb pk cond c5 i11 g ++ addressWords cl rd ra pd c5 g), Instr.putsGuarded i g s := by
  simp only [integerWords, predicateWords, addressWords, List.cons_append, List.nil_append, List.forall_mem_cons,
    List.not_mem_nil, false_implies, implies_true, and_true]
  and_intros <;> exact ⟨_, _, _, _, rfl⟩

theorem constantWords_put (s : State) : ∀ i ∈ constantWords cl rd i20 num idx, Instr.puts i s := by
  simp only [constantWords, List.forall_mem_cons, List.not_mem_nil, false_implies, implies_true, and_true]
  and_intros <;> exact ⟨_, _, _, _, rfl⟩

end Words

section ControlWords
variable (rd ra : BitVec 5) (imm : BitVec 12) (off : BitVec 22) (code : BitVec 12) (bnd : BitVec 8) (bar : BitVec 6) (sc : BitVec 3)
  (g : BitVec 4)

/-- The guarded words of SX that leave a mark on the bundle or the context (R121 to R132, R318). -/
def controlWords : List Instr :=
  [.br off g, .jr ra imm g, .call off g, .ret g, .lbrk g, .frame g, .sysc code g, .brk code g, .tend g, .est ra g, .esc code g]

/-- The words of transactions, gates, barriers and supersteps, and FENCE. -/
def syncWords : List Instr :=
  [.tlaunch rd ra g, .tjoin rd ra g, .tjoinW rd ra g, .admitC rd ra g, .admitX rd ra g, .cut rd ra g, .gsig rd ra bnd g,
   .gwait rd ra bnd g, .gpoll rd ra bnd g, .barra rd ra bar g, .barraQ rd bar g, .barrw ra bar g, .sstep rd g, .fence sc g]

theorem controlWords_guarded (s : State) : ∀ i ∈ controlWords ra imm off code g, Instr.isGuarded i g s := by
  simp only [controlWords, List.forall_mem_cons, List.not_mem_nil, false_implies, implies_true, and_true]
  and_intros <;> exact ⟨_, _, _, rfl⟩

theorem syncWords_guarded (s : State) : ∀ i ∈ syncWords rd ra bnd bar sc g, Instr.isGuarded i g s := by
  simp only [syncWords, List.forall_mem_cons, List.not_mem_nil, false_implies, implies_true, and_true]
  and_intros <;> exact ⟨_, _, _, rfl⟩

end ControlWords

section FloatWords
variable (cl : Cluster) (rd ra rb rc : BitVec 5) (bk : BitVec 2) (pd : BitVec 3) (cond rm : BitVec 2) (dbl zi zo : Bool)

/-- The scalar floating-point words without a guard (R206 to R209). -/
def floatWords : List Instr :=
  [.fadd cl rd ra rb bk dbl zi zo rm, .fsub cl rd ra rb bk dbl zi zo rm, .fmul cl rd ra rb bk dbl zi zo rm,
   .fmin cl rd ra rb bk dbl zi, .fmax cl rd ra rb bk dbl zi, .fabs cl rd ra dbl, .fneg cl rd ra dbl,
   .fcvt cl rd ra dbl zi zo rm, .ftoi cl rd ra dbl zi rm, .fito cl rd ra dbl rm, .fma cl rd ra rb rc dbl zi zo rm,
   .fnma cl rd ra rb rc dbl zi zo rm, .fcmp cl pd cond ra rb dbl]

/-- Those of SY alone. -/
def longFloatWords : List Instr := [.fdiv rd ra rb bk dbl zi zo rm, .fsqrt rd ra dbl zi zo rm]

theorem fclass_puts (g : BitVec 4) (s : State) : Instr.putsGuarded (.fclass cl rd ra dbl g) g s := ⟨_, _, _, _, rfl⟩

theorem floatWords_put (s : State) : ∀ i ∈ floatWords cl rd ra rb rc bk pd cond rm dbl zi zo, Instr.putsWithFlags i s := by
  simp only [floatWords, List.forall_mem_cons, List.not_mem_nil, false_implies, implies_true, and_true]
  and_intros <;> exact ⟨_, _, _, _, _, rfl⟩

theorem longFloatWords_put (s : State) : ∀ i ∈ longFloatWords rd ra rb bk rm dbl zi zo, Instr.putsWithFlags i s := by
  simp only [longFloatWords, List.forall_mem_cons, List.not_mem_nil, false_implies, implies_true, and_true]
  and_intros <;> exact ⟨_, _, _, _, _, rfl⟩

end FloatWords

section LsWords
variable (reg d sr v : BitVec 6) (base dp sp : BitVec 5) (off : BitVec 10) (fmt : BitVec 2) (ord : Bool) (bob : BitVec 4)
  (n : BitVec 8) (g : BitVec 3)

/-- Loads and stores (R190). -/
def memoryWords : List Instr :=
  [.ldb reg base off g, .ldh reg base off g, .ldw reg base off g, .ldd reg base off g, .ldbz reg base off g,
   .ldhz reg base off g, .ldwz reg base off g, .vld reg base off g, .stb reg base off g, .sth reg base off g,
   .stw reg base off g, .std reg base off g, .vst reg base off g]

/-- Atomics (R274 to R277). -/
def atomicWords : List Instr :=
  [.aintAddW d base sr ord g, .aintAddD d base sr ord g, .aintAnd d base sr ord g, .aintOr d base sr ord g,
   .aintXor d base sr ord g, .aintMin d base sr ord g, .aintMax d base sr ord g, .aintMinz d base sr ord g,
   .aintMaxz d base sr ord g, .aintSwapW d base sr ord g, .aintSwapD d base sr ord g, .afpFadd d base sr fmt ord g,
   .afpFmin d base sr fmt ord g, .afpFmax d base sr fmt ord g, .acasW d base sr ord g, .acasD d base sr ord g,
   .acasQ dp base sp ord g, .vaccOvw v base ord g, .vaccAddF32 v base ord g, .vaccAddF64 v base ord g,
   .vaccAddBf16 v base ord g, .vaccAddF16 v base ord g, .vaccAddI32 v base ord g]

/-- Bobbin words (R198 to R201). -/
def bobbinWords : List Instr :=
  [.bpop v bob n g, .bpush v bob n g, .badvC bob n g, .badvP bob n g, .bwaitC bob n g, .bwaitP bob n g]

theorem lsWords_guarded (s : State) : ∀ i ∈ memoryWords reg base off g
    ++ (atomicWords d sr v base dp sp fmt ord g ++ bobbinWords v bob n g), Instr.isGuardedLs i g s := by
  simp only [memoryWords, atomicWords, bobbinWords, List.cons_append, List.nil_append, List.forall_mem_cons,
    List.not_mem_nil, false_implies, implies_true, and_true]
  and_intros <;> exact ⟨_, _, _, rfl⟩

end LsWords

end Sys2Proof.Machine

open Sys2Proof Sys2Proof.Machine

/-- Settles O7: every one of these words is a guarded issue. -/
theorem falseGuardDoesNothing : Obligations.FalseGuardDoesNothing := by
  unfold Obligations.FalseGuardDoesNothing
  refine ⟨?_, ?_⟩
  · intro cl rd ra rb bk pd pa pb pk cond c5 imm i11 sh off code bnd bar sc dbl g s there switched
    show ∀ i ∈ (integerWords cl rd ra rb bk imm sh g ++ (predicateWords cl rd ra rb bk pd pa pb pk cond c5 i11 g
      ++ addressWords cl rd ra pd c5 g)) ++ (.fclass cl rd ra dbl g :: (controlWords ra imm off code g
      ++ syncWords rd ra bnd bar sc g)), exec i s = .next s
    refine List.forall_mem_append.2 ⟨fun i hi => ?_, List.forall_mem_cons.2 ⟨?_, List.forall_mem_append.2
      ⟨fun i hi => ?_, fun i hi => ?_⟩⟩⟩
    · exact (guardedWords_put cl rd ra rb bk pd pa pb pk cond c5 imm i11 sh g s i hi).isGuarded.off there switched
    · exact (fclass_puts cl rd ra dbl g s).isGuarded.off there switched
    · exact (controlWords_guarded ra imm off code g s i hi).off there switched
    · exact (syncWords_guarded rd ra bnd bar sc g s i hi).off there switched
  · intro reg d sr v base dp sp off fmt ord bob n g s there switched i hi
    exact (lsWords_guarded reg d sr v base dp sp off fmt ord bob n g s i hi).off there switched

/-- Settles O8: every one of these words puts results in flight alone, or raises FPX. -/
theorem scalarFrames : Obligations.ScalarFrames := by
  unfold Obligations.ScalarFrames
  have framed : ∀ {s t : State}, s.onlyPipes t → s.onlyPipes t ∧ s.sameRegs t ∧ s.sameMem t := fun h => ⟨h, onlyPipes_frame h⟩
  refine ⟨?_, ?_⟩
  · intro cl rd ra rb bk pd pa pb pk cond c5 imm i11 i20 sh num idx sl g s t
    have guarded := guardedWords_put cl rd ra rb bk pd pa pb pk cond c5 imm i11 sh g s
    rw [List.forall_mem_append] at guarded
    obtain ⟨integers, others⟩ := guarded
    show ∀ i ∈ .nop sl :: (integerWords cl rd ra rb bk imm sh g ++ (constantWords cl rd i20 num idx
      ++ (predicateWords cl rd ra rb bk pd pa pb pk cond c5 i11 g ++ addressWords cl rd ra pd c5 g))), exec i s = .next t → _
    rw [List.forall_mem_cons, List.forall_mem_append, List.forall_mem_append]
    exact ⟨fun next => framed (commit_onlyPipes (Issue.onlyPipes_ok (onlyPipes_refl s)) next),
      fun i hi next => framed ((integers i hi).onlyPipes next),
      fun i hi next => framed ((constantWords_put cl rd i20 num idx s i hi).onlyPipes next),
      fun i hi next => framed ((others i hi).onlyPipes next)⟩
  · intro cl rd ra rb rc bk pd cond dbl zi zo rm g s t
    show ∀ i ∈ floatWords cl rd ra rb rc bk pd cond rm dbl zi zo
      ++ (.fclass cl rd ra dbl g :: longFloatWords rd ra rb bk rm dbl zi zo), exec i s = .next t → _
    rw [List.forall_mem_append, List.forall_mem_cons]
    exact ⟨fun i hi next => ((floatWords_put cl rd ra rb rc bk pd cond rm dbl zi zo s i hi).onlyPipes next).imp_left framed,
      fun next => .inl (framed ((fclass_puts cl rd ra dbl g s).onlyPipes next)),
      fun i hi next => ((longFloatWords_put rd ra rb bk rm dbl zi zo s i hi).onlyPipes next).imp_left framed⟩
end

section
/-!
PROOFS. Transfers, the words of handlers, loops and breaks (`Obligations.TransfersAndHandlers`, `Obligations.LoopsAndBreaks`).
-/

namespace Sys2Proof.Machine

/-! ### Transfers and handlers (R121 to R132, R316) -/

/-- A guarded word that changes the context. -/
theorem commit_onCtx {s : State} {g : BitVec 4} {bs : List Nat} {sl : Nat} {f h : Ctx → Ctx} (acts : s.acts g bs) (e : f s.c = h s.c) :
    commit sl s (s.guarded g bs (s.onCtx f)) = .next (s.modC h) :=
  (commit_guarded acts).trans (congrArg _ (modCtx_congr e))

/-- ESTR holds the estimate capped, one cycle on where cycles count (R57, R132). -/
theorem est_value (v : Word) (handler : Bool) :
    (if handler then estOf v else estNext (estOf v)) =
      if handler = true ∨ min v.toNat 0xFFFFFFFF = 0xFFFFFFFF then min v.toNat 0xFFFFFFFF else min v.toNat 0xFFFFFFFF - 1 := by
  have capped : estOf v = min v.toNat 0xFFFFFFFF := by unfold estOf; split <;> omega
  rw [capped]
  cases handler with
  | true => simp
  | false => simp [estNext]

theorem exec_rfe_handler {s : State} (handler : s.c.ctl.hmode = true) (there : s.there [2]) :
    exec .rfe s = .next (s.modC Ctx.returnFromTrap) := by
  show commit 0 s (issueRfe s) = _
  rw [issueRfe, if_pos handler]
  exact commit_touching there

theorem exec_rfe_outside {s : State} (outside : s.c.ctl.hmode = false) : exec .rfe s = traps s tILLEGAL 0 (wordOf .rfe) := by
  show commit 0 s (issueRfe s) = _
  rw [issueRfe, if_neg (by simp [outside])]
  rfl

/-! ### Loop words (R124, R125) -/

/-- A loop word raises LOOPNEST: a counter of the number or above is active, END lies beyond that of the innermost active loop, or
there are too many trips (R124). -/
def State.loopBars (s : State) (lc : BitVec 2) (sm1 : BitVec 3) (n off : Nat) (r : Bool) : Bool :=
  s.c.regs.activeFrom lc.toNat
    || (s.c.regs.innermost.any fun j =>
      decide (s.hdrAddr s.cur s.c.regs.lc[j].endA.toNat < s.hdrAddr s.cur (s.c.bun.hdr.toNat + off)))
    || decide (0x7FFFFF < tripsOf n r sm1.toNat)

/-- The counter that a loop word with trips starts (R125). -/
def Ctx.loopStart (c : Ctx) (sm1 : BitVec 3) (n off : Nat) (r : Bool) : LoopCtr where
  top := BitVec.ofNat 16 (c.bun.hdr.toNat + c.bun.len)
  endA := BitVec.ofNat 16 (c.bun.hdr.toNat + off)
  remain := BitVec.ofNat 23 (tripsOf n r sm1.toNat - 1)
  rot := r
  trip := 0
  sm1 := sm1
  active := true

section LoopWord
variable {s : State} {lc : BitVec 2} {sm1 : BitVec 3} {n off : Nat} {r : Bool} {w : Word} {bs : List Nat}

theorem loopBars_iff : s.loopBars lc sm1 n off r = true ↔
    (∃ j : Fin 4, lc.toNat ≤ j.val ∧ s.c.regs.lc[j].active = true)
    ∨ (∃ j : Fin 4, s.c.regs.lc[j].active = true ∧ (∀ k : Fin 4, s.c.regs.lc[k].active = true → k ≤ j)
        ∧ s.hdrAddr s.cur s.c.regs.lc[j].endA.toNat < s.hdrAddr s.cur (s.c.bun.hdr.toNat + off))
    ∨ 0x7FFFFF < tripsOf n r sm1.toNat := by
  have beyond : (s.c.regs.innermost.any fun j =>
      decide (s.hdrAddr s.cur s.c.regs.lc[j].endA.toNat < s.hdrAddr s.cur (s.c.bun.hdr.toNat + off))) = true ↔
      ∃ j : Fin 4, s.c.regs.lc[j].active = true ∧ (∀ k : Fin 4, s.c.regs.lc[k].active = true → k ≤ j)
        ∧ s.hdrAddr s.cur s.c.regs.lc[j].endA.toNat < s.hdrAddr s.cur (s.c.bun.hdr.toNat + off) := by
    rw [Option.any_eq_true]
    simp only [innermost_iff, decide_eq_true_eq, and_assoc]
  rw [State.loopBars, Bool.or_eq_true, Bool.or_eq_true, activeFrom_iff, beyond, decide_eq_true_eq, or_assoc]

/-- What a loop word does: LOOPNEST, a jump past END, or a counter. -/
theorem loopWord_eq : s.loopWord lc sm1 n off r w bs = Issue.touching s bs (
    if s.loopBars lc sm1 n off r then s.raise tLOOPNEST 0 w
    else if tripsOf n r sm1.toNat = 0 then Issue.touching s (s.endBlocks s.cur (s.c.bun.hdr.toNat + off))
      (.ok (s.modC fun c => c.jump (BitVec.ofNat 64 (s.endOf s.cur (s.c.bun.hdr.toNat + off)))))
    else .ok (s.modC fun c => { c with bun := { c.bun with newLoop := some (lc, s.c.loopStart sm1 n off r) } })) := by
  rw [State.loopWord, State.loopBars]
  dsimp only
  cases s.c.regs.innermost <;> rfl

theorem loopWord_barred (there : s.there bs) (h : s.loopBars lc sm1 n off r = true) :
    commit 0 s (s.loopWord lc sm1 n off r w bs) = traps s tLOOPNEST 0 w := by
  rw [loopWord_eq, touching_there there, if_pos h]
  rfl

theorem loopWord_skips (there : s.there bs) (h : ¬ s.loopBars lc sm1 n off r = true) (none_ : tripsOf n r sm1.toNat = 0)
    (ends : s.there (s.endBlocks s.cur (s.c.bun.hdr.toNat + off))) :
    commit 0 s (s.loopWord lc sm1 n off r w bs) =
      .next (s.modC fun c => c.jump (BitVec.ofNat 64 (s.endOf s.cur (s.c.bun.hdr.toNat + off)))) := by
  rw [loopWord_eq, touching_there there, if_neg h, if_pos none_, touching_there ends, commit_ok]

theorem loopWord_starts (there : s.there bs) (h : ¬ s.loopBars lc sm1 n off r = true) (some_ : tripsOf n r sm1.toNat ≠ 0) :
    commit 0 s (s.loopWord lc sm1 n off r w bs) =
      .next (s.modC fun c => { c with bun := { c.bun with newLoop := some (lc, s.c.loopStart sm1 n off r) } }) := by
  rw [loopWord_eq, touching_there there, if_neg h, if_neg some_, commit_ok]

end LoopWord

/-! ### LBRK at the end of its bundle (R128) -/

theorem segOf_modCtx (s : State) (n m : Nat) (f : Ctx → Ctx) : (s.modCtx n f).segOf m = s.segOf m :=
  segOf_modSp s n m fun _ => rfl

theorem prefixAt_modCtx (s : State) (n m h a : Nat) (f : Ctx → Ctx) : (s.modCtx n f).prefixAt m h a = s.prefixAt m h a := by
  simp only [State.prefixAt, State.headBit, State.codeWord, segOf_modCtx]

theorem limit_none {r : Regs} (h : ∀ k : Fin 4, r.lc[k].active = false) : r.limit = r := by
  unfold Regs.limit
  rw [(innermost_none_iff r).2 h]

/-- The count that a break leaves at most. -/
def LoopCtr.rest (l : LoopCtr) : BitVec 23 := if l.rot then l.sm1.setWidth 23 else 0

/-- A counter after a break. -/
def LoopCtr.broken (l : LoopCtr) : LoopCtr := { l with remain := if l.rest.toNat < l.remain.toNat then l.rest else l.remain }

theorem broken_remain (l : LoopCtr) :
    l.broken.remain.toNat = min l.remain.toNat (if l.rot then l.sm1.toNat else 0) := by
  have rest : l.rest.toNat = if l.rot then l.sm1.toNat else 0 := by
    unfold LoopCtr.rest
    split
    · exact BitVec.toNat_setWidth_of_le (by decide)
    · rfl
  rw [← rest]
  show (if l.rest.toNat < l.remain.toNat then l.rest else l.remain).toNat = _
  split <;> omega

/-- A break changes the innermost active loop alone. -/
theorem limit_innermost {r : Regs} {k : Fin 4} (active : r.lc[k].active = true)
    (inner : ∀ j : Fin 4, k < j → r.lc[j].active = false) : r.limit = { r with lc := r.lc.set k r.lc[k].broken } := by
  have top : r.innermost = some k := (innermost_iff r k).2 ⟨active, fun j hj => le_of_not_gt fun lt =>
    Bool.false_ne_true ((inner j lt).symm.trans hj)⟩
  unfold Regs.limit
  rw [top]
  rfl

end Sys2Proof.Machine

open Sys2Proof Sys2Proof.Machine

/-- Settles O11: each word marks the bundle or the context, and BRK and RFE outside a handler raise. -/
theorem transfersAndHandlers : Obligations.TransfersAndHandlers := by
  unfold Obligations.TransfersAndHandlers
  refine ⟨?_, fun code g s => ⟨exec_rfe_handler, exec_rfe_outside, fun acts => ?_, fun handler acts => ?_⟩⟩
  · intro off ra o12 code g s h goesTo marks
    refine ⟨fun acts => ⟨commit_guarded acts, commit_guarded acts⟩,
      fun acts => ⟨commit_guarded acts, commit_guarded acts, commit_guarded acts⟩,
      fun acts => ⟨commit_guarded acts, commit_guarded acts, commit_guarded acts, fun outside => ?_⟩, ?_⟩
    · exact commit_onCtx acts (if_neg (by simp [outside]))
    · intro acts v
      exact (commit_guarded acts).trans (congrArg (fun e => inFlight s 1 (.creg 0x00D (BitVec.ofNat 64 e))) (est_value ..))
  · exact (congrArg (commit 0 s) (guarded_acts acts)).trans (commit_raise ..)
  · exact commit_onCtx acts (if_pos handler)

/-- Settles O12: the outcomes of a loop word, and what a break does to the registers with which its bundle ends. -/
theorem loopsAndBreaks : Obligations.LoopsAndBreaks := by
  unfold Obligations.LoopsAndBreaks
  refine ⟨?_, ?_⟩
  · intro lc sm1 xc off15 count off10 s c rule
    have follows : ∀ {i : Instr} {n off : Nat} {r : Bool} {bs : List Nat}, s.there bs →
        exec i s = commit 0 s (s.loopWord lc sm1 n off r (wordOf i) bs) → rule i n off r :=
      fun there word => ⟨fun bars => word.trans (loopWord_barred there (loopBars_iff.2 bars)),
        fun free none_ ends => word.trans (loopWord_skips there (free ∘ loopBars_iff.1) none_ ends),
        fun free some_ => word.trans (loopWord_starts there (free ∘ loopBars_iff.1) some_)⟩
    exact ⟨fun there => ⟨follows there rfl, follows there rfl⟩, fun there => ⟨follows there rfl, follows there rfl⟩⟩
  · intro s n f c limited
    refine ⟨fun broken => ?_, limit_none, fun k active inner => ?_⟩
    · rw [State.bundleEnd, State.bundleEnd, modCtx_self, modCtx_self, modCtx_self]
      simp only [limited, prefixAt_modCtx]
      rw [show (s.ctxOf n).bun.lbrk = true from broken]
      rfl
    · rw [limit_innermost active inner]
      have same : (c.regs.lc.set k c.regs.lc[k].broken)[k] = c.regs.lc[k].broken := Vector.getElem_set_self _
      refine ⟨?_, ?_, fun j other => Vector.getElem_set_ne k.isLt j.isLt fun e => other (Fin.ext e.symm), rfl⟩
      · exact (congrArg (fun l : LoopCtr => l.remain.toNat) same).trans (broken_remain _)
      · rw [same]
        rfl
end

section
/-!
PROOFS. Barrier words, SSTEP and FENCE at issue (`Obligations.BarrierWordsOfGangs`).
-/

namespace Sys2Proof.Machine

section Barriers
variable {s : State} {g : BitVec 4} (rd ra : BitVec 5) (bar : BitVec 6)

/-! ### Messages to the barrier unit (R285, R287) -/

/-- The message of a barrier word. -/
def State.barrierMsg (s : State) (rd : BitVec 5) (op : MsgOp) (w : Word) : Msg :=
  { id := s.nextId, ctx := s.c.id, spin := s.cur, part := s.c.partN, loc := .phys 0, op := op
    dest := if rd = 0 then .none else .x rd, waits := rd != 0, grp := s.nextId, val := w, slot := 0
    clock := s.clockOf (dieOf s.cur) }

/-- The state with the message of a barrier word under way. -/
def State.toBarrier (s : State) (rd : BitVec 5) (op : MsgOp) (w : Word) : State :=
  { s with nextId := s.nextId + 1, msgs := s.msgs ++ [s.barrierMsg rd op w] }

/-- The result of a barrier word is awaited: in a timed domain longer, and never late (R287). -/
def State.barrierResult (s : State) : Pending :=
  { left := if s.c.domain then 12 else 6, await := some s.nextId, late := s.c.domain }

theorem barraWord_eq {op : MsgOp} (reads : op.writes = false) (w : Word) :
    s.barraWord rd op w = .ok (if rd != 0 then
      (s.toBarrier rd op w).awaitBarrier s.nextId (if s.c.domain then 12 else 6) s.c.domain else s.toBarrier rd op w) := by
  unfold State.barraWord State.send
  rw [reads]
  rfl

theorem awaitBarrier_c (t : State) (id lat : Nat) (never : Bool) : (t.awaitBarrier id lat never).c =
    if t.c.ctl.hmode then { t.c with hpipe := t.c.hpipe ++ [{ left := lat, await := some id, late := never }] }
    else { t.c with pipe := t.c.pipe ++ [{ left := lat, await := some id, late := never }] } := modC_c t _

/-- The result is the last of those that count (R315). -/
theorem awaitBarrier_active (t : State) (id lat : Nat) (never : Bool) : (t.awaitBarrier id lat never).c.active =
    t.c.active ++ [{ left := lat, await := some id, late := never }] := by
  rw [awaitBarrier_c, Ctx.active, Ctx.active]
  cases mode : t.c.ctl.hmode <;> simp [mode]

theorem awaitBarrier_sameRegs (t : State) (id lat : Nat) (never : Bool) : (t.awaitBarrier id lat never).c.sameRegs t.c := by
  rw [awaitBarrier_c]
  split <;> exact ⟨rfl, rfl, rfl, rfl⟩

/-- What a barrier word that leaves for the barrier unit does. -/
structure State.leavesFor (s : State) (rd : BitVec 5) (op : MsgOp) (w : Word) (t : State) : Prop where
  regs : t.c.sameRegs s.c
  mem : s.sameMem t
  msgs : t.msgs = s.msgs ++ [s.barrierMsg rd op w]
  acked : rd = 0 → t.c.active = s.c.active
  awaited : rd ≠ 0 → t.c.active = s.c.active ++ [s.barrierResult]

theorem commit_barraWord {op : MsgOp} (reads : op.writes = false) (w : Word) :
    ∃ t, commit 0 s (s.barraWord rd op w) = .next t ∧ s.leavesFor rd op w t := by
  rw [barraWord_eq rd reads, commit_ok]
  refine ⟨_, rfl, ?_⟩
  by_cases zero : rd = 0
  · rw [if_neg (by simp [zero])]
    exact ⟨⟨rfl, rfl, rfl, rfl⟩, fun _ => rfl, rfl, fun _ => rfl, fun h => absurd zero h⟩
  · rw [if_pos (bne_iff_ne.2 zero)]
    exact ⟨awaitBarrier_sameRegs .., fun _ => rfl, rfl, fun h => absurd h zero, fun _ => awaitBarrier_active ..⟩

theorem exec_barra (acts : s.acts g [0]) (sync : s.c.sync = true) (ordered : s.ordered 4) :
    exec (.barra rd ra bar g) s = commit 0 s (s.barraWord rd
      (.barrier bar.toNat (s.c.regs.rx ra) s.c.gangSize s.c.domGang s.c.domCycle) (s.c.regs.rx ra)) := by
  show commit 0 s (s.barra rd ra bar g _) = _
  rw [State.barra, guarded_acts acts]
  exact congrArg _ ((if_neg (by simp [sync])).trans (releasing_ordered fun _ => ordered))

theorem exec_barraQ (acts : s.acts g [0]) (sync : s.c.sync = true) :
    exec (.barraQ rd bar g) s = commit 0 s (s.barraWord rd (.query bar.toNat s.c.domGang) 0) := by
  show commit 0 s (s.barraQuery rd bar g _) = _
  rw [State.barraQuery, guarded_acts acts, if_neg (by simp [sync])]

/-! ### Waits (R286, R288, R293) -/

/-- A BARRW goes on: the phases before w are complete and what they release is applied on the die (R265, R286). -/
def State.barrierPassed (s : State) (bar : BitVec 6) (w : BitVec 32) : Bool :=
  (s.barrier s.c.partN bar.toNat).reached w && s.mayAcquire s.cur (s.barrier s.c.partN bar.toNat).clock

theorem barrierPassed_iff (w : BitVec 32) : s.barrierPassed bar w = true ↔
    ((s.barrier s.c.partN bar.toNat).phase - w).toNat < 2 ^ 31
      ∧ s.mayAcquire s.cur (s.barrier s.c.partN bar.toNat).clock = true := by
  rw [State.barrierPassed, Bool.and_eq_true, Barrier.reached, decide_eq_true_eq]

/-- A BARRW goes on, or waits: idling in a timed domain outside a handler, and frozen elsewhere. -/
theorem exec_barrw (acts : s.acts g [0]) (sync : s.c.sync = true) {w : BitVec 32} (reg : (s.c.regs.rx ra).setWidth 32 = w) :
    exec (.barrw ra bar g) s = .next (
      if s.barrierPassed bar w then s.mergeClock (dieOf s.cur) (s.barrier s.c.partN bar.toNat).clock
      else s.modC fun c => { c with
        barw := if s.c.domain && !s.c.ctl.hmode then .idling bar.toNat w else .frozen bar.toNat w }) := by
  subst reg
  show commit 0 s (s.barrw ra bar g _) = _
  rw [State.barrw, guarded_acts acts]
  show commit 0 s (if !s.c.sync then _ else if s.c.domain && !s.c.ctl.hmode then
    (if s.barrierPassed bar _ then _ else _) else if s.barrierPassed bar _ then _ else _) = _
  rw [if_neg (by simp [sync])]
  cases s.c.domain && !s.c.ctl.hmode <;> cases s.barrierPassed bar ((s.c.regs.rx ra).setWidth 32) <;> exact commit_ok ..

theorem exec_sstep (acts : s.acts g [0]) (sync : s.c.sync = true) : exec (.sstep rd g) s = .next (s.modC fun c =>
    { c with step := .waiting c.domCycle rd, stepH := c.ctl.hmode, stepClock := s.clockOf (dieOf s.cur) }) := by
  show commit 0 s (s.sstepWord rd g _) = _
  rw [State.sstepWord, guarded_acts acts, if_neg (by simp [sync]), commit_ok]

/-- Without SYNC the words of gangs are illegal (R284). -/
theorem gangWords_illegal (acts : s.acts g [0]) (lone : s.c.sync = false) :
    ∀ i ∈ [Instr.barra rd ra bar g, .barraQ rd bar g, .barrw ra bar g, .sstep rd g], exec i s = traps s tILLEGAL 0 (wordOf i) := by
  have illegal : ∀ {i : Instr} {k : Issue}, exec i s = commit 0 s (s.guarded g [0]
      (if !s.c.sync then s.raise tILLEGAL 0 (wordOf i) else k)) → exec i s = traps s tILLEGAL 0 (wordOf i) := fun e => by
    rw [e, guarded_acts acts, if_pos (by simp [lone])]
    rfl
  simp only [List.forall_mem_cons, List.not_mem_nil, false_implies, implies_true, and_true]
  exact ⟨illegal rfl, illegal rfl, illegal rfl, illegal rfl⟩

/-! ### FENCE (R133, R263) -/

/-- SCLAMP is no flag that FEN enables (R136). -/
theorem enabled_high (f : BitVec 5) : enabled fSCLAMP f = false := by
  simp [enabled, fSCLAMP]

theorem exec_fence {scope : BitVec 3} (acts : s.acts g []) (ordered : s.ordered (min scope.toNat 4)) :
    exec (.fence scope g) s = .next (s.raiseFlags (if scope.toNat = 5 then fSCLAMP else 0)) := by
  show commit 0 s (s.fenceWord scope g _) = _
  rw [State.fenceWord, guarded_acts acts, fenced_ordered ordered]
  have quiet : s.noFpx (if scope.toNat = 5 then fSCLAMP else 0) := by
    unfold State.noFpx
    split
    · exact enabled_high s.c.ctl.fen
    · exact enabled_zero _
  exact commit_go (.inr quiet)

end Barriers

end Sys2Proof.Machine

open Sys2Proof Sys2Proof.Machine

/-- Settles O23: the words of a gang at issue, one lemma for each outcome, and FENCE. -/
theorem barrierWordsOfGangs : Obligations.BarrierWordsOfGangs := by
  unfold Obligations.BarrierWordsOfGangs
  intro rd ra bar scope g s v w gid arrives
  have leaves : ∀ {i : Instr} {op : MsgOp} {x : Word}, op.writes = false → exec i s = commit 0 s (s.barraWord rd op x) →
      arrives i op := by
    intro i op x reads word
    obtain ⟨t, next, left⟩ := commit_barraWord (s := s) rd reads x
    exact ⟨t, word.trans next, left.regs, left.mem, ⟨_, left.msgs, rfl, rfl, rfl, rfl, rfl, rfl, rfl⟩, left.acked,
      fun some_ => ⟨_, left.awaited some_, rfl, rfl, rfl, rfl⟩⟩
  refine ⟨fun acts sync => ⟨fun ordered => leaves rfl (exec_barra rd ra bar acts sync ordered),
      leaves rfl (exec_barraQ rd bar acts sync)⟩,
    ?_, exec_sstep rd, gangWords_illegal rd ra bar, fun acts ordered => ⟨fun other => ?_, fun sys => ?_⟩⟩
  · intro acts sync o
    have passes : s.barrierPassed bar w = true ↔ (o.phase - w).toNat < 2 ^ 31 ∧ s.mayAcquire s.cur o.clock = true :=
      barrierPassed_iff bar w
    have word := exec_barrw ra bar acts sync (w := w) rfl
    refine ⟨fun phase acquires => ?_, fun waits => ?_⟩
    · rwa [if_pos (passes.2 ⟨phase, acquires⟩)] at word
    have stays : ¬ s.barrierPassed bar w = true := fun passed => by
      obtain ⟨phase, acquires⟩ := passes.1 passed
      exact waits.elim (Nat.not_le_of_lt phase) (by simp [acquires])
    rw [if_neg stays] at word
    refine ⟨fun lone => ?_, fun domain outside => ?_⟩
    · rwa [if_neg (by rcases lone with h | h <;> simp [h])] at word
    · rwa [if_pos (by simp [domain, outside])] at word
  · have plain : scope.toNat ≠ 5 := fun e => other (BitVec.eq_of_toNat_eq e)
    rw [exec_fence acts ordered, if_neg plain, raiseFlags_zero]
  · rw [exec_fence acts ordered, if_pos (show scope.toNat = 5 by rw [sys]; rfl)]
    rfl
end

section
/-!
PROOFS. The integer words of the vector unit, and VRNG (`Obligations.VectorIntegers`).
-/

namespace Sys2Proof.Machine

/-- No flag raises FPX. -/
theorem noFpx_zero (s : State) : s.noFpx 0 := enabled_zero _

/-- An integer word on reachable rows leaves its lanes in flight, with no flag (R175, R177, R178). -/
theorem commit_viB {s : State} {vd va vb : BitVec 6} {sb : Bool} {q : BitVec 3} {f h : BitVec 32 → BitVec 32 → BitVec 32}
    (acts : s.actsVx q (2 :: if sb then [1] else [])) (rows : s.rowsReachable (va :: if sb then [] else [vb]) vd)
    (e : ∀ a b, f a b = h a b) :
    commit 2 s (s.viB vd va vb sb q f) = rowInFlight s vd 4 (rowOfNats 4
      (List.zipWith (fun a b => (h (BitVec.ofNat 32 a) (BitVec.ofNat 32 b)).toNat) (lanesOf 4 (s.vrow va)) (s.vopB 4 vb sb))) := by
  obtain rfl : f = h := funext fun a => funext (e a)
  exact commit_vx acts rows (.inr (noFpx_zero s))

end Sys2Proof.Machine

open Sys2Proof Sys2Proof.Machine

/-- Settles O31: every word is one function on 32-bit lanes. -/
theorem vectorIntegers : Obligations.VectorIntegers := by
  unfold Obligations.VectorIntegers
  intro vd va vb sb q s acts rows row bs writes
  have word : ∀ {i : Instr} {f h : BitVec 32 → BitVec 32 → BitVec 32}, exec i s = commit 2 s (s.viB vd va vb sb q f) →
      (∀ a b, f a b = h a b) → writes i h := fun e same => e.trans (commit_viB acts rows same)
  have plain : ∀ {i : Instr} (f : BitVec 32 → BitVec 32 → BitVec 32), exec i s = commit 2 s (s.viB vd va vb sb q f) →
      writes i f := fun f e => word e fun _ _ => rfl
  have smaller := word (i := .vimin vd va vb sb q) rfl fun a b => ite_slt a b a b
  have larger := word (i := .vimax vd va vb sb q) rfl fun a b => ite_slt a b b a
  exact ⟨plain _ rfl, plain _ rfl, plain _ rfl, plain _ rfl, plain _ rfl, plain _ rfl, plain (fun a b => a <<< (b.toNat % 32)) rfl,
    plain (fun a b => a >>> (b.toNat % 32)) rfl, plain (fun a b => a.sshiftRight (b.toNat % 32)) rfl, smaller, larger,
    plain hash32 rfl⟩
end

section
/-!
PROOFS. Rounding of an exact value and the integer square root (`Obligations.ExactRounding`).
-/

namespace Sys2Proof.Machine

section Rounding

/-- R148: whether a magnitude `v` rounds to the integer above its floor. -/
def roundsUp (neg : Bool) (rm : Nat) (v : ℚ) : Bool :=
  match rm with
  | 0 => decide (1 / 2 < Int.fract v) || decide (Int.fract v = 1 / 2) && ⌊v⌋₊ % 2 == 1
  | 1 => false
  | 2 => neg && decide (Int.fract v ≠ 0)
  | _ => !neg && decide (Int.fract v ≠ 0)

/-- R148: Int(v, rm) on a magnitude, as a function of the exact value alone; `roundAt_eq_intOf` ties it to the model. -/
def intOf (neg : Bool) (rm : Nat) (v : ℚ) : Nat := if roundsUp neg rm v then ⌊v⌋₊ + 1 else ⌊v⌋₊

theorem intOf_of_roundsUp {neg : Bool} {rm : Nat} {v : ℚ} (up : roundsUp neg rm v = true) : intOf neg rm v = ⌊v⌋₊ + 1 :=
  if_pos up

theorem intOf_of_not_roundsUp {neg : Bool} {rm : Nat} {v : ℚ} (stay : roundsUp neg rm v = false) : intOf neg rm v = ⌊v⌋₊ :=
  if_neg (by simp [stay])

theorem roundsUp_of_fract_eq_zero {v : ℚ} (neg : Bool) (rm : Nat) (whole : Int.fract v = 0) : roundsUp neg rm v = false := by
  unfold roundsUp
  split <;> norm_num [whole]

theorem cast_pow2 {e : Int} (nonneg : 0 ≤ e) : (pow2 e : ℚ) = 2 ^ e := by
  lift e to ℕ using nonneg
  simp [pow2]

theorem decide_div_ne_zero {r k : Nat} (pos : 0 < k) : decide ((r : ℚ) / k ≠ 0) = (r != 0) := by
  rw [Bool.eq_iff_iff]
  simp [pos.ne']

theorem half_lt_div_iff {r k : Nat} (pos : 0 < k) : 1 / 2 < (r : ℚ) / k ↔ k < 2 * r := by
  rw [div_lt_div_iff₀ two_pos (by exact_mod_cast pos), one_mul, mul_comm]
  exact_mod_cast Iff.rfl

theorem div_eq_half_iff {r k : Nat} (pos : 0 < k) : (r : ℚ) / k = 1 / 2 ↔ 2 * r = k := by
  rw [div_eq_div_iff (by exact_mod_cast pos.ne') two_ne_zero, one_mul, mul_comm]
  exact_mod_cast Iff.rfl

/-- The model's rounding depends on the exact value alone: whole values stand, the others round by their fraction. -/
theorem roundAt_eq_intOf (neg : Bool) (man : Nat) (exp qe : Int) (rm : Nat) :
    roundAt neg man exp false qe rm =
      (intOf neg rm (man * 2 ^ (exp - qe)), decide (Int.fract ((man : ℚ) * 2 ^ (exp - qe)) ≠ 0)) := by
  by_cases above : qe ≤ exp
  · have value : (man : ℚ) * 2 ^ (exp - qe) = (man * pow2 (exp - qe) : ℕ) := by
      rw [Nat.cast_mul, cast_pow2 (by omega)]
    rw [value, intOf_of_not_roundsUp (roundsUp_of_fract_eq_zero _ _ (Int.fract_natCast _)), Nat.floor_natCast, Int.fract_natCast]
    simp [roundAt, above]
  · have pos : 0 < pow2 (qe - exp) := Nat.two_pow_pos _
    have value : (man : ℚ) * 2 ^ (exp - qe) = man / pow2 (qe - exp) := by
      rw [cast_pow2 (by omega), ← neg_sub qe exp, zpow_neg, div_eq_mul_inv]
    rw [value]
    match rm with
    | 0 | 1 | 2 | _ + 3 =>
      simp only [roundAt, above, if_false, intOf, roundsUp, Int.fract_div_natCast_eq_div_natCast_mod, Nat.floor_div_eq_div,
        half_lt_div_iff pos, div_eq_half_iff pos, decide_div_ne_zero pos, Bool.or_false, Bool.false_or]

variable {v : ℚ} (nonneg : 0 ≤ v) (neg : Bool)
include nonneg

theorem natFloor_add_fract : (⌊v⌋₊ : ℚ) + Int.fract v = v := by
  rw [natCast_floor_eq_intCast_floor nonneg, Int.floor_add_fract]

/-- A value is reached exactly when it is whole. -/
theorem fract_ne_zero_iff_intOf_ne (rm : Nat) : Int.fract v ≠ 0 ↔ (intOf neg rm v : ℚ) ≠ v := by
  have sum := natFloor_add_fract nonneg
  have below := Int.fract_lt_one v
  by_cases whole : Int.fract v = 0
  · rw [intOf_of_not_roundsUp (roundsUp_of_fract_eq_zero neg rm whole)]
    exact iff_of_false (not_not.2 whole) (not_not.2 (by linarith))
  · refine iff_of_true whole fun reached => ?_
    cases up : roundsUp neg rm v with
    | true =>
      rw [intOf_of_roundsUp up, Nat.cast_succ] at reached
      linarith
    | false =>
      rw [intOf_of_not_roundsUp up] at reached
      exact whole (by linarith)

/-- Mode 0: to the nearest integer, and from a tie to the even one. -/
theorem intOf_nearest : |(intOf neg 0 v : ℚ) - v| ≤ 1 / 2 ∧ (|(intOf neg 0 v : ℚ) - v| = 1 / 2 → intOf neg 0 v % 2 = 0) := by
  have sum := natFloor_add_fract nonneg
  have below := Int.fract_lt_one v
  have above := Int.fract_nonneg v
  cases up : roundsUp neg 0 v with
  | true =>
    have dist : ((⌊v⌋₊ + 1 : ℕ) : ℚ) - v = 1 - Int.fract v := by
      push_cast
      linarith
    rw [intOf_of_roundsUp up, dist, abs_of_nonneg (by linarith)]
    obtain more | ⟨tie, odd⟩ : 1 / 2 < Int.fract v ∨ Int.fract v = 1 / 2 ∧ ⌊v⌋₊ % 2 = 1 := by
      simpa [roundsUp] using up
    · exact ⟨by linarith, fun half => absurd half (by linarith)⟩
    · exact ⟨by linarith, fun _ => by omega⟩
  | false =>
    have dist : (⌊v⌋₊ : ℚ) - v = -Int.fract v := by linarith
    rw [intOf_of_not_roundsUp up, dist, abs_neg, abs_of_nonneg above]
    simpa [roundsUp] using up

/-- A mode that cuts the magnitude answers its floor. -/
theorem intOf_below {rm : Nat} (down : roundsUp neg rm v = false) : (intOf neg rm v : ℚ) ≤ v ∧ v < intOf neg rm v + 1 := by
  rw [intOf_of_not_roundsUp down]
  exact ⟨Nat.floor_le nonneg, Nat.lt_floor_add_one v⟩

/-- A mode that steps up from every value that is not whole answers its ceiling. -/
theorem intOf_above {rm : Nat} (up : roundsUp neg rm v = decide (Int.fract v ≠ 0)) :
    (intOf neg rm v : ℚ) - 1 < v ∧ v ≤ intOf neg rm v := by
  have sum := natFloor_add_fract nonneg
  have below := Int.fract_lt_one v
  have above := Int.fract_nonneg v
  by_cases whole : Int.fract v = 0
  · rw [intOf_of_not_roundsUp (up.trans (by simp [whole]))]
    exact ⟨by linarith, by linarith⟩
  · rw [intOf_of_roundsUp (up.trans (by simp [whole])), Nat.cast_succ]
    exact ⟨by linarith [above.lt_of_ne' whole], by linarith⟩

end Rounding

section SquareRoot

/-- The bits yet to be found keep the root between `r` and `r + 2 ^ k`. -/
theorem isqrtBits_spec {n : Nat} (k r : Nat) (low : r * r ≤ n) (high : n < (r + 2 ^ k) * (r + 2 ^ k)) :
    isqrtBits n k r * isqrtBits n k r ≤ n ∧ n < (isqrtBits n k r + 1) * (isqrtBits n k r + 1) := by
  induction k generalizing r with
  | zero => exact ⟨low, high⟩
  | succ k ih =>
    by_cases fits : (r + 2 ^ k) * (r + 2 ^ k) ≤ n
    · rw [isqrtBits, if_pos fits]
      refine ih _ fits ?_
      rwa [add_assoc, ← two_mul, ← pow_succ']
    · rw [isqrtBits, if_neg fits]
      exact ih _ low (not_le.1 fits)

theorem lt_sq_two_pow_half_log2 (n : Nat) : n < 2 ^ (Nat.log2 n / 2 + 1) * 2 ^ (Nat.log2 n / 2 + 1) :=
  calc n < 2 ^ (Nat.log2 n + 1) := Nat.lt_log2_self
    _ ≤ 2 ^ (Nat.log2 n / 2 + 1 + (Nat.log2 n / 2 + 1)) := Nat.pow_le_pow_right two_pos (by omega)
    _ = _ := pow_add ..

theorem isqrt_spec (n : Nat) : isqrt n * isqrt n ≤ n ∧ n < (isqrt n + 1) * (isqrt n + 1) :=
  isqrtBits_spec _ 0 (Nat.zero_le _) (by simpa using lt_sq_two_pow_half_log2 n)

end SquareRoot

end Sys2Proof.Machine

open Sys2Proof Sys2Proof.Machine

/-- Settles O10: the rounding is a function of the exact value; the root is found by its bits. -/
theorem exactRounding : Obligations.ExactRounding := by
  unfold Obligations.ExactRounding
  refine ⟨fun neg man exp qe rm _ => ?_, isqrt_spec⟩
  rw [roundAt_eq_intOf]
  have nonneg : 0 ≤ (man : ℚ) * 2 ^ (exp - qe) := by positivity
  refine ⟨?_, ?_, fun cut => intOf_below nonneg neg ?_, fun grow => intOf_above nonneg neg ?_⟩
  · exact decide_eq_true_iff.trans (fract_ne_zero_iff_intOf_ne nonneg neg rm)
  · rintro rfl
    exact intOf_nearest nonneg neg
  · obtain rfl | ⟨rfl, rfl⟩ | ⟨rfl, rfl⟩ := cut <;> rfl
  · obtain ⟨rfl, rfl⟩ | ⟨rfl, rfl⟩ := grow <;> rfl
end

section
/-!
PROOFS. VX words on rows that can be accessed: the elementwise float words, compares and moves (`Obligations.VectorFloats`,
`Obligations.VectorComparesAndMoves`).
-/

namespace Sys2Proof.Machine

/-! ### A word on reachable rows (R166, R178, R212) -/

section Runs
variable {s : State} {q : BitVec 3} {bs : List Nat} {reads : List (BitVec 6)} {vd : BitVec 6} {lat : Nat} {w : Word}
  {f r : List Byte × BitVec 9} {i : Instr}

/-- Source rows that can be accessed hold no word up. -/
theorem rows_reachable {k : Issue} (reach : ∀ v ∈ reads, s.reachable (rowOff (s.c.row v)) 512 true false) :
    s.rows reads k = k := by
  induction reads with
  | nil => rfl
  | cons v reads ih =>
    obtain ⟨first, others⟩ := List.forall_mem_cons.1 reach
    exact (ownAccess_reachable first).trans (ih others)

/-- A word whose stage guard is true and whose blocks are there goes on. -/
theorem touchingVx_acts {k : Issue} (acts : s.actsVx q bs) :
    Issue.touching s (if q = 0 then [] else [2]) (if !s.c.guardVx q then .ok s else Issue.touching s bs k) = k := by
  obtain ⟨guardThere, guard, blocks⟩ := acts
  rw [touching_there guardThere, if_neg (by simp [guard]), touching_there blocks]

/-- The state with the row of a VX word in flight. -/
def State.rowPended (s : State) (vd : BitVec 6) (lat : Nat) (row : List Byte) : State :=
  (s.modC Ctx.fusionStep).pend lat [.acc s.c.fusedHere (rowOff (s.c.row vd)) row]

/-- A VX word on reachable rows issues, with its flags and its row. -/
theorem vx_reachable (acts : s.actsVx q (2 :: bs)) (rows : s.rowsReachable reads vd) :
    s.vx q bs reads vd lat w f = .go f.2 w s.c.fusedHere (s.rowPended vd lat f.1) := by
  rw [State.vx, touchingVx_acts acts, rows_reachable rows.1]
  exact ownAccess_reachable rows.2

/-- What it leaves: its row in flight, or FPX where a flag is enabled outside a fused sequence. -/
theorem vx_runs (acts : s.actsVx q (2 :: bs)) (rows : s.rowsReachable reads vd)
    (word : exec i s = commit 2 s (s.vx q bs reads vd lat w f)) (same : f = r) :
    (s.c.fusedHere = true ∨ s.noFpx r.2 → exec i s = rowInFlight s vd lat r)
    ∧ (s.c.fusedHere = false → ¬ s.noFpx r.2 → exec i s = .next (s.takeFpx 2 w r.2)) := by
  subst same
  refine ⟨fun quiet => word.trans (commit_vx acts rows quiet), fun unfused loud => ?_⟩
  rw [word, vx_reachable acts rows, unfused]
  exact commit_fpx (Bool.not_eq_false _ ▸ loud)

/-- A word that raises no flag leaves its row in flight. -/
theorem vx_exact (acts : s.actsVx q (2 :: bs)) (rows : s.rowsReachable reads vd)
    (word : exec i s = commit 2 s (s.vx q bs reads vd lat w f)) (same : f = r) (flagless : r.2 = 0) :
    exec i s = rowInFlight s vd lat r :=
  (vx_runs acts rows word same).1 (.inr (flagless ▸ noFpx_zero s))

end Runs

/-! ### Lanes -/

theorem foldl_or_exact {α : Type} (g : α → Nat) (xs : List α) :
    (xs.map fun x => (⟨g x, 0⟩ : Res)).foldl (fun fl r => fl ||| r.fl) 0 = 0 := by
  induction xs with
  | nil => rfl
  | cons x xs ih => simpa using ih

/-- Lanes without flags make a row without flags. -/
theorem rowOfRes_exact (w : Nat) (g : Nat → Nat) (xs : List Nat) : (rowOfRes w (xs.map fun x => ⟨g x, 0⟩)).2 = 0 :=
  foldl_or_exact g xs

/-- One value in every lane, byte by byte. -/
theorem spread_eq_flatten (w : Nat) (r : Res) :
    spread w r = ((List.replicate (512 / w) (bytesLE r.bits w)).flatten, r.fl) := by
  rw [spread, List.flatMap_def, List.map_replicate]

theorem spread_exact (w v : Nat) : spread w ⟨v, 0⟩ = rowOfNats w (List.replicate (512 / w) v) := rfl

/-- A shift of lanes looks each lane up at its distance, and finds 0 outside the row. -/
theorem shiftLanes_eq (w : Nat) (vs : List Nat) (k : Int) :
    shiftLanes w vs k = rowOfNats w ((do let i ← List.range (512 / w); pure (i : Int)).map fun i =>
      if i + k < 0 then 0 else vs.getD (i + k).toNat 0) := by
  rw [bind_pure_comp]
  simp [shiftLanes, Function.comp_def]

end Sys2Proof.Machine

open Sys2Proof Sys2Proof.Machine

/-- Settles O28: every word is one function of lanes under `State.vx`. -/
theorem vectorFloats : Obligations.VectorFloats := by
  unfold Obligations.VectorFloats
  intro vd va vb ty e8 zi zo sb q s f w f8 rm sat row y bs b8 rd rd8 runs lanes lanes3 lanes8 srcs blocks
  refine ⟨fun acts rows => ?_, fun acts rows => ?_, fun acts rows => ?_⟩
  · have word : ∀ {i : Instr} {lat : Nat} {r : List Byte × BitVec 9},
        exec i s = commit 2 s (s.vx q (if sb then [1] else []) srcs vd lat (wordOf i) r) → runs i lat r :=
      fun word => vx_runs acts rows word rfl
    exact ⟨word rfl, word rfl, word rfl, word rfl, word rfl, word rfl, word rfl, word rfl⟩
  · exact ⟨vx_runs acts rows rfl rfl, vx_runs acts rows rfl rfl⟩
  · exact ⟨vx_exact acts rows rfl rfl (rowOfRes_exact ..), vx_exact acts rows rfl rfl (rowOfRes_exact ..)⟩

/-- Settles O30: the rows as lanes under `State.vx`; VGET and VPUT by their own accesses. -/
theorem vectorComparesAndMoves : Obligations.VectorComparesAndMoves := by
  unfold Obligations.VectorComparesAndMoves
  intro vd va vb r1 r2 n code ty zi zo sb q s f w rm row lanes bs ones runs cmp plain shifted j y1
  refine ⟨fun acts => ⟨fun rows => ⟨vx_runs acts rows rfl rfl, vx_runs acts rows rfl rfl⟩, fun rows => ?vsel⟩,
    fun acts rows => ⟨fun t named => ?vcvt, ?vmov, ?vbcast, ?vlsh⟩, fun acts rows => ?vlshY, fun acts rows => ?vbcastY,
    fun acts rows => ?viota, fun acts reach => ?vget, fun acts reach => ?vput⟩
  case vsel =>
    refine vx_exact acts rows rfl ?_ rfl
    simp only [bne_iff_ne]
    rfl
  case vcvt =>
    refine vx_runs acts rows ?_ rfl
    show commit 2 s (issueVcvt vd va code ty zi zo q s) = _
    rw [issueVcvt, named]
    rfl
  case vmov => exact vx_exact acts rows rfl rfl rfl
  case vbcast => exact vx_exact acts rows rfl (spread_exact w ((lanes va).getD n.toNat 0)) rfl
  case vlsh => exact vx_exact acts rows rfl (shiftLanes_eq w (lanes va) n.toNat) rfl
  case vlshY => exact vx_exact acts rows rfl (shiftLanes_eq w (lanes va) y1.toInt) rfl
  case vbcastY => exact vx_exact acts rows rfl (spread_exact w (y1.toNat % 2 ^ (8 * w))) rfl
  case viota => exact vx_exact acts rows rfl rfl rfl
  case vget =>
    show commit 2 s (issueVget r1 va r2 ty q s) = _
    rw [issueVget, touchingVx_acts acts, rows_reachable (List.forall_mem_singleton.2 reach), commit_ok]
    rfl
  case vput =>
    show commit 2 s (issueVput vd r1 r2 ty q s) = _
    rw [issueVput, touchingVx_acts acts]
    exact (congrArg (commit 2 s) (ownAccess_reachable reach)).trans (commit_ok ..)
end

section
/-!
PROOFS. What the issue of a VX word leaves alone (R166, R179).
-/

namespace Sys2Proof.Machine

/-! ### Results in flight and the fused sequence -/

/-- An update of a context changes its results in flight and its fused sequence alone. -/
def Ctx.changesRows (g : Ctx → Ctx) : Prop := ∀ c, ∃ p h f, g c = { c with pipe := p, hpipe := h, fusion := f }

theorem changesRows_pend (lat : Nat) (ls : List Land) : Ctx.changesRows fun c => c.pend lat ls := by
  intro c
  show ∃ p h f, c.pend lat ls = _
  unfold Ctx.pend
  dsimp only
  split
  · exact ⟨_, _, _, rfl⟩
  · exact ⟨_, _, _, rfl⟩

theorem changesRows_fusionStep : Ctx.changesRows Ctx.fusionStep := by
  intro c
  unfold Ctx.fusionStep
  split
  · split
    · exact ⟨_, _, _, rfl⟩
    · exact ⟨_, _, _, rfl⟩
  · exact ⟨_, _, _, rfl⟩

theorem modSp_congr {s : State} {n : Nat} {f g : Spindle → Spindle} (same : f (s.sp n) = g (s.sp n)) :
    s.modSp n f = s.modSp n g := congrArg (s.setSp n) same

section Rows
variable {s t : State}

theorem onlyRows_refl (s : State) : s.onlyRows s := .inl rfl

theorem onlyRows_of_onlyPipes (h : s.onlyPipes t) : s.onlyRows t := by
  rcases h with rfl | ⟨p, h, w, rfl⟩
  · exact .inl rfl
  · exact .inr ⟨p, h, w, s.c.fusion, modSp_congr rfl⟩

theorem onlyRows_modC {g : Ctx → Ctx} (only : s.onlyRows t) (rows : Ctx.changesRows g) : s.onlyRows (t.modC g) := by
  show s.onlyRows (t.modSp t.cur fun sp => { sp with ctx := g sp.ctx })
  rcases only with rfl | ⟨p, h, w, f, rfl⟩
  · obtain ⟨p', h', f', now⟩ := rows t.c
    refine .inr ⟨p', h', (t.sp t.cur).want, f', ?_⟩
    exact modSp_congr (congrArg (fun c => { t.sp t.cur with ctx := c }) now)
  · obtain ⟨p', h', f', now⟩ := rows { s.c with pipe := p, hpipe := h, fusion := f }
    refine .inr ⟨p', h', w, f', ?_⟩
    refine (modSp_modSp s s.cur _ _).trans ?_
    exact modSp_congr (congrArg (fun c => { s.sp s.cur with ctx := c, want := w }) now)

theorem onlyRows_pend (only : s.onlyRows t) (lat : Nat) (ls : List Land) : s.onlyRows (t.pend lat ls) :=
  onlyRows_modC only (changesRows_pend lat ls)

theorem onlyRows_stepPend (s : State) (lat : Nat) (ls : List Land) : s.onlyRows ((s.modC Ctx.fusionStep).pend lat ls) :=
  onlyRows_pend (onlyRows_modC (onlyRows_refl s) changesRows_fusionStep) lat ls

theorem onlyRows_rowPended (s : State) (vd : BitVec 6) (lat : Nat) (row : List Byte) : s.onlyRows (s.rowPended vd lat row) :=
  onlyRows_stepPend s lat _

theorem onlyRows_raiseFlags (only : s.onlyRows t) (fl : BitVec 9) : s.onlyRows (t.raiseFlags fl) := by
  rw [State.raiseFlags]
  split
  · exact only
  · exact onlyRows_pend only _ _

/-- What differs is no register and no byte of memory. -/
theorem onlyRows_frame (only : s.onlyRows t) : s.sameRegs t ∧ s.sameMem t := by
  rcases only with rfl | ⟨p, h, w, f, rfl⟩
  · exact ⟨⟨⟨rfl, rfl, rfl, rfl⟩, fun _ _ => rfl⟩, fun _ => rfl⟩
  · refine ⟨⟨?_, fun n other => congrArg Spindle.ctx (sp_modSp_ne s other _)⟩, fun _ => rfl⟩
    have now : (s.modSp s.cur fun sp => { sp with ctx := { sp.ctx with pipe := p, hpipe := h, fusion := f }, want := w }).c
        = { s.c with pipe := p, hpipe := h, fusion := f } := congrArg Spindle.ctx (sp_modSp ..)
    rw [now]
    exact ⟨rfl, rfl, rfl, rfl⟩

/-- An issue traps at slot 2 or with the fault of the matrix engine, or leaves all but rows in flight alone. -/
def Issue.onlyRows (s : State) : Issue → Prop
  | .trap tr => tr.slot = 2 ∨ s.mxTrap = some tr
  | .wait _ t | .idle t | .go _ _ _ t => s.onlyRows t

/-- What a VX word may leave: rows in flight with every register and byte as before, FPX, or the trap of a row. -/
def State.afterVx (s t : State) : Prop :=
  (s.onlyRows t ∧ s.sameRegs t ∧ s.sameMem t) ∨ (∃ w fl, ¬ s.noFpx fl ∧ t = s.takeFpx 2 w fl)
    ∨ ∃ tr : Trap, (tr.slot = 2 ∨ s.mxTrap = some tr) ∧ t = s.takeTrap s.cur tr

theorem commit_onlyRows {k : Issue} (only : k.onlyRows s) (next : commit 2 s k = .next t) : s.afterVx t := by
  have rows : ∀ {u : State}, s.onlyRows u → s.afterVx u := fun h => .inl ⟨h, onlyRows_frame h⟩
  cases k with
  | trap tr =>
    cases next
    exact .inr (.inr ⟨tr, only, rfl⟩)
  | wait _ u | idle u =>
    cases next
    exact rows only
  | go fl w fused u =>
    rw [commit] at next
    split at next
    · next loud =>
      cases next
      exact .inr (.inl ⟨w, fl, fun quiet => by simp [show enabled fl s.c.ctl.fen = false from quiet] at loud, rfl⟩)
    · cases next
      exact rows (onlyRows_raiseFlags only fl)

theorem touching_onlyRows {bs : List Nat} {k : Issue} (only : k.onlyRows s) : (Issue.touching s bs k).onlyRows s := by
  rw [Issue.touching]
  split
  · exact only
  · exact onlyRows_of_onlyPipes (onlyPipes_askBlocks s _)

theorem ownAccess_onlyRows {a : Word} {off len : Nat} {r w : Bool} {k : Issue} (only : k.onlyRows s) :
    (s.ownAccess 2 a off len r w k).onlyRows s := by
  unfold State.ownAccess
  dsimp only
  split
  · exact onlyRows_of_onlyPipes (onlyPipes_askBlocks s _)
  split
  · split
    · next tr fault => exact .inr fault
    · exact only
  split
  · exact onlyRows_refl s
  split
  · exact onlyRows_refl s
  split
  · exact onlyRows_refl s
  split
  · exact .inl rfl
  split
  · exact .inl rfl
  · exact only

theorem rows_onlyRows {reads : List (BitVec 6)} {k : Issue} (only : k.onlyRows s) : (s.rows reads k).onlyRows s := by
  induction reads with
  | nil => exact only
  | cons v reads ih => exact ownAccess_onlyRows ih

/-- An issue of a VX word: nothing with a false guard, and otherwise only rows in flight or a trap. -/
def Issue.vxFramed (s : State) (q : BitVec 3) (k : Issue) : Prop :=
  (s.there [2] → s.c.guardVx q = false → k = .ok s) ∧ k.onlyRows s

/-- What stands behind the stage guard decides. -/
theorem touchingVx_framed {q : BitVec 3} {bs : List Nat} {k : Issue} (only : k.onlyRows s) :
    (Issue.touching s (if q = 0 then [] else [2])
      (if !s.c.guardVx q then .ok s else Issue.touching s bs k)).vxFramed s q := by
  refine ⟨fun there off => ?_, touching_onlyRows ?_⟩
  · rw [touching_there (there_of_subset there (by split <;> simp)), if_pos (by simp [off])]
  · split
    · exact onlyRows_refl s
    · exact touching_onlyRows only

theorem vx_framed (q : BitVec 3) (bs : List Nat) (reads : List (BitVec 6)) (vd : BitVec 6) (lat : Nat) (w : Word)
    (f : List Byte × BitVec 9) : (s.vx q bs reads vd lat w f).vxFramed s q :=
  touchingVx_framed (rows_onlyRows (ownAccess_onlyRows (onlyRows_rowPended s vd lat f.1)))

end Rows
end Sys2Proof.Machine
end

section
/-!
PROOFS. The functions and reductions of rows, and the fused softmax (`Obligations.VectorFunctionsAndSoftmax`).
-/

namespace Sys2Proof.Machine

/-! ### Flags of several words -/

theorem enabled_or (a b : BitVec 9) (fen : BitVec 5) :
    enabled (a ||| b) fen = true ↔ enabled a fen = true ∨ enabled b fen = true := by
  simp only [enabled, BitVec.setWidth_or, BitVec.and_or_distrib_right, bne_iff_ne, ne_eq, BitVec.ofNat_eq_ofNat,
    BitVec.or_eq_zero_iff, Classical.not_and_iff_not_or_not]

/-- A flag that is enabled in one of the words is enabled in all of them together. -/
theorem enabled_foldl_or {fen : BitVec 5} (fls : List (BitVec 9)) (a : BitVec 9) :
    enabled (fls.foldl (fun a b => a ||| b) a) fen = true ↔ enabled a fen = true ∨ ∃ fl ∈ fls, enabled fl fen = true := by
  induction fls generalizing a with
  | nil => simp
  | cons fl fls ih => rw [List.foldl_cons, ih, enabled_or, List.exists_mem_cons_iff, or_assoc]

/-! ### The start of a sequence (R182) -/

/-- A write in flight, with what is left to its landing, as a sequence that starts sees it: only the row of its own VRMAX is
a write of the sequence. -/
def Land.ofSequence (row left : Nat) : Land → Land
  | .acc _ off bs => .acc (off == row && left == 6) off bs
  | l => l

/-- The context with a recognised sequence under way. -/
def Ctx.startFusion (c : Ctx) (vd : BitVec 6) (u : Fused) : Ctx :=
  { c with
    fusion := some { starts := u.starts.map (BitVec.ofNat 64), rows := [c.row u.vx, c.row u.vm, c.row u.vy] }
    pipe := c.pipe.map fun p => { p with lands := p.lands.map (Land.ofSequence (rowOff (c.row vd)) p.left) } }

theorem changesRows_startFusion (vd : BitVec 6) (u : Fused) : Ctx.changesRows fun c => c.startFusion vd u :=
  fun _ => ⟨_, _, _, rfl⟩

/-- The row of a VRMAX and its flags (R170). -/
def State.vrmaxRow (s : State) (va : BitVec 6) (ty : BitVec 2) (zi : Bool) : List Byte × BitVec 9 :=
  spread (tyW ty) ((tyFF ty).reduceMinmax true ((lanesOf (tyW ty) (s.vrow va)).map ((tyFF ty).flush zi)))

/-- The flags of the four words of a sequence whose VRMAX reads va. -/
def State.sequenceFlags (s : State) (va : BitVec 6) (ty : BitVec 2) (zi : Bool) : List (BitVec 9) :=
  fusedFlags (tyFF ty) s.c.vrm zi (lanesOf (tyW ty) (s.vrow va))

section Vrmax
variable {s : State} {vd va : BitVec 6} {ty : BitVec 2} {zi : Bool} {q : BitVec 3} {w : Word} {u : Fused}

/-- A VRMAX that is not recognised is one VX word. -/
theorem vrmaxWord_plain (alone : s.c.guardVx q = true → s.recognise vd va ty zi q = none) :
    s.vrmaxWord vd va ty zi q w = s.vx q [] [va] vd 6 w (s.vrmaxRow va ty zi) := by
  have unknown : (if s.c.guardVx q then s.recognise vd va ty zi q else none) = none := by
    split
    · next guard => exact alone guard
    · rfl
  rw [State.vrmaxWord, unknown]
  dsimp only
  split
  · next found => cases found
  · rfl

section Recognised
variable (acts : s.actsVx q [2]) (rows : s.rowsReachable [va] vd) (found : s.recognise vd va ty zi q = some u)
include acts rows found

/-- An enabled flag of any of the four words: VRMAX issues with the flags of all, as the first word that raises one. -/
theorem vrmaxWord_loud {p : Word × BitVec 9}
    (loud : ((w :: u.words).zip (s.sequenceFlags va ty zi)).find? (fun p => enabled p.2 s.c.ctl.fen) = some p) :
    s.vrmaxWord vd va ty zi q w = .go ((s.sequenceFlags va ty zi).foldl (fun a b => a ||| b) 0) p.1 false
      (s.rowPended vd 6 (s.vrmaxRow va ty zi).1) := by
  rw [State.vrmaxWord, vx_reachable acts rows, found, if_pos acts.2.1]
  dsimp only
  rw [State.sequenceFlags] at loud ⊢
  rw [loud]
  rfl

/-- No enabled flag: the sequence is under way. -/
theorem vrmaxWord_quiet
    (quiet : ((w :: u.words).zip (s.sequenceFlags va ty zi)).find? (fun p => enabled p.2 s.c.ctl.fen) = none) :
    s.vrmaxWord vd va ty zi q w = .go (s.vrmaxRow va ty zi).2 w true
      ((s.rowPended vd 6 (s.vrmaxRow va ty zi).1).modC fun c => c.startFusion vd u) := by
  rw [State.vrmaxWord, vx_reachable acts rows, found, if_pos acts.2.1]
  dsimp only
  rw [State.sequenceFlags] at quiet
  rw [quiet]
  rfl

end Recognised

theorem recognise_hmode (found : s.recognise vd va ty zi q = some u) : s.c.ctl.hmode = false := by
  unfold State.recognise at found
  dsimp only at found
  split at found
  · split at found
    · next checks =>
      simp only [Bool.and_eq_true, Bool.not_eq_true'] at checks
      exact checks.1.2
    · cases found
  · cases found

end Vrmax

/-! ### The state that a recognised VRMAX leaves -/

section Started
variable {s : State} {vd : BitVec 6} {row : List Byte}

theorem row_of_ctl {c d : Ctx} (same : c.ctl = d.ctl) (v : BitVec 6) : c.row v = d.row v := by rw [Ctx.row, Ctx.row, same]

theorem rowPended_ctl (lat : Nat) : (s.rowPended vd lat row).c.ctl = s.c.ctl :=
  (onlyRows_frame (onlyRows_rowPended s vd lat row)).1.1.2.1

theorem pend_pipe {c : Ctx} (outside : c.ctl.hmode = false) (lat : Nat) (ls : List Land) :
    (c.pend lat ls).pipe = c.pipe ++ [{ left := lat, lands := ls }] := by
  simp [Ctx.pend, outside]

/-- Outside a handler the row is the last result in flight. -/
theorem rowPended_pipe (outside : s.c.ctl.hmode = false) (lat : Nat) : ∃ before, (s.rowPended vd lat row).c.pipe =
    before ++ [{ left := lat, lands := [.acc s.c.fusedHere (rowOff (s.c.row vd)) row] }] := by
  refine ⟨s.c.fusionStep.pipe, ?_⟩
  obtain ⟨_, _, _, now⟩ := changesRows_fusionStep s.c
  rw [State.rowPended, State.pend, modC_c, modC_c]
  exact pend_pipe (by rw [now]; exact outside) _ _

theorem raiseFlags_fusion (s : State) (fl : BitVec 9) : (s.raiseFlags fl).c.fusion = s.c.fusion := by
  rw [State.raiseFlags]
  split
  · rfl
  · rw [State.pend, modC_c, Ctx.pend]
    split <;> rfl

/-- Flags stand behind what is in flight. -/
theorem mem_raiseFlags_pipe {p : Pending} (flying : p ∈ s.c.pipe) (fl : BitVec 9) : p ∈ (s.raiseFlags fl).c.pipe := by
  rw [State.raiseFlags]
  split
  · exact flying
  · rw [State.pend, modC_c, Ctx.pend]
    split
    · exact flying
    · exact List.mem_append_left _ flying

/-- The state with the row of a recognised VRMAX in flight, its sequence under way, and its flags. -/
def State.sequenceStarted (s : State) (vd : BitVec 6) (u : Fused) (f : List Byte × BitVec 9) : State :=
  ((s.rowPended vd 6 f.1).modC fun c => c.startFusion vd u).raiseFlags f.2

variable (u : Fused) (f : List Byte × BitVec 9)

theorem onlyRows_sequenceStarted : s.onlyRows (s.sequenceStarted vd u f) :=
  onlyRows_raiseFlags (onlyRows_modC (onlyRows_rowPended s vd 6 f.1) (changesRows_startFusion vd u)) f.2

theorem sequenceStarted_fusion : (s.sequenceStarted vd u f).c.fusion =
    some { starts := u.starts.map (BitVec.ofNat 64), rows := [s.c.row u.vx, s.c.row u.vm, s.c.row u.vy] } := by
  rw [State.sequenceStarted, raiseFlags_fusion, modC_c, Ctx.startFusion]
  simp only [row_of_ctl (rowPended_ctl 6)]

/-- The row of the VRMAX itself is a write of the sequence. -/
theorem sequenceStarted_pipe (outside : s.c.ctl.hmode = false) : ∃ p ∈ (s.sequenceStarted vd u f).c.pipe,
    p.left = 6 ∧ p.lands = [.acc true (rowOff (s.c.row vd)) f.1] := by
  obtain ⟨before, pipe⟩ := rowPended_pipe (s := s) (vd := vd) (row := f.1) outside 6
  refine ⟨{ left := 6, lands := [.acc true (rowOff (s.c.row vd)) f.1] }, mem_raiseFlags_pipe ?_ f.2, rfl, rfl⟩
  rw [modC_c, Ctx.startFusion, pipe]
  simp [Land.ofSequence, row_of_ctl (rowPended_ctl 6)]

end Started
end Sys2Proof.Machine

open Sys2Proof Sys2Proof.Machine

/-- Settles O29: unary words and reductions are one function of lanes under `State.vx`; a recognised VRMAX decides for all four
words of its sequence. -/
theorem vectorFunctionsAndSoftmax : Obligations.VectorFunctionsAndSoftmax := by
  unfold Obligations.VectorFunctionsAndSoftmax
  refine ⟨?_, ?_⟩
  · intro vd va ty zi zo q s f w rm xs runs lanes all acts rows
    have unary : ∀ {i : Instr} (op : FF → FVal → Res),
        exec i s = commit 2 s (s.vfU vd va ty zi q 8 (wordOf i) fun f a => op f (f.decode a)) → runs i 8 (lanes (op f)) := by
      intro i op word
      refine vx_runs acts rows word ?_
      simp only [lanes, xs, List.map_map]
      rfl
    have reduction : ∀ {i : Instr} {r : Res}, exec i s = commit 2 s (s.vx q [] [va] vd 6 (wordOf i) (spread w r)) →
        runs i 6 (all r) := fun word => vx_runs acts rows word (spread_eq_flatten w _)
    refine ⟨unary (fun f x => f.expV x rm zo) rfl, unary (fun f x => f.exp2V x rm zo) rfl,
      unary (fun f x => f.log2V x rm zo) rfl, unary (fun f x => f.rcpV x rm zo) rfl,
      unary (fun f x => f.rsqrtV x rm zo) rfl, unary (fun f x => f.sqrtV x rm zo) rfl,
      reduction rfl, reduction rfl, fun alone => reduction ?_⟩
    exact congrArg (commit 2 s) (vrmaxWord_plain fun _ => alone)
  · intro vd va ty zi q u s f x fls words acts rows found
    have outside := recognise_hmode found
    refine ⟨outside, fun quiet => ?_, fun p loud => ?_⟩
    · have silent : words.find? (fun p => enabled p.2 s.c.ctl.fen) = none :=
        List.find?_eq_none.2 fun p hp => Bool.not_eq_true _ ▸ quiet p hp
      obtain ⟨regs, mem⟩ := onlyRows_frame (onlyRows_sequenceStarted (s := s) (vd := vd) u (s.vrmaxRow va ty zi))
      refine ⟨s.sequenceStarted vd u (s.vrmaxRow va ty zi), ?_, regs, mem, sequenceStarted_fusion u _,
        sequenceStarted_pipe u _ outside⟩
      exact (congrArg (commit 2 s) (vrmaxWord_quiet acts rows found silent)).trans (commit_go (.inl rfl))
    · refine (congrArg (commit 2 s) (vrmaxWord_loud acts rows found loud)).trans (commit_fpx ?_)
      have raised : enabled p.2 s.c.ctl.fen = true :=
        List.find?_some (p := fun p : Word × BitVec 9 => enabled p.2 s.c.ctl.fen) loud
      exact (enabled_foldl_or fls 0).2 (.inr ⟨p.2, (List.of_mem_zip (List.mem_of_find?_eq_some loud)).2, raised⟩)
end

section
/-!
PROOFS. A false stage guard, and the frame of the VX words (`Obligations.VectorFrame`).
-/

namespace Sys2Proof.Machine

/-- At issue in s, a word with the stage guard q is framed. -/
def Instr.isVx (i : Instr) (q : BitVec 3) (s : State) : Prop := ∃ k, exec i s = commit 2 s k ∧ k.vxFramed s q

/-- At issue in s, a word is one VX word on rows. -/
def Instr.isRowWord (i : Instr) (q : BitVec 3) (s : State) : Prop :=
  ∃ bs reads vd lat w f, exec i s = commit 2 s (s.vx q bs reads vd lat w f)

section Shapes
variable {i : Instr} {q : BitVec 3} {s t : State}

theorem Instr.isRowWord.isVx (h : Instr.isRowWord i q s) : Instr.isVx i q s := by
  obtain ⟨bs, reads, vd, lat, w, f, word⟩ := h
  exact ⟨_, word, vx_framed q bs reads vd lat w f⟩

/-- A false stage guard switches a VX word off. -/
theorem Instr.isVx.off (h : Instr.isVx i q s) (there : s.there [2]) (off : s.c.guardVx q = false) : exec i s = .next s := by
  obtain ⟨k, word, switched, -⟩ := h
  rw [word, switched there off, commit_ok]

theorem Instr.isVx.after (h : Instr.isVx i q s) (next : exec i s = .next t) : s.afterVx t := by
  obtain ⟨k, word, -, only⟩ := h
  exact commit_onlyRows only (word.symm.trans next)

end Shapes

/-! ### The words by shape -/

section Words
variable (vd va vb : BitVec 6) (r1 r2 : BitVec 5) (code : BitVec 4) (n : BitVec 6) (ty : BitVec 2) (e8 zi zo sb : Bool)
  (q : BitVec 3) (s : State)

/-- The float words on lanes (R167 to R169). -/
def floatRowWords : List Instr :=
  [.vadd vd va vb ty zi zo sb q, .vsub vd va vb ty zi zo sb q, .vmul vd va vb ty zi zo sb q, .vfma vd va vb ty zi zo sb q,
   .vfmac vd va vb ty zi zo sb q, .vmin vd va vb ty zi sb q, .vmax vd va vb ty zi sb q, .vabs vd va ty q, .vneg vd va ty q,
   .vdiv vd va vb ty zi zo sb q, .vexp vd va ty zi zo q, .vexp2 vd va ty zi zo q, .vlog2 vd va ty zi zo q,
   .vrcp vd va ty zi zo q, .vrsqrt vd va ty zi zo q, .vsqrt vd va ty zi zo q]

/-- The reductions but VRMAX, compares and VSEL (R170, R171). -/
def reduceWords : List Instr :=
  [.vrmin vd va ty zi q, .vrsum vd va ty zi zo q, .vcmplt vd va vb ty zi sb q, .vcmpeq vd va vb ty zi sb q,
   .vsel vd va vb ty sb q]

/-- Moves of rows (R173). -/
def moveWords : List Instr :=
  [.vmov vd va q, .vbcast vd va n ty q, .vbcastY vd r1 ty q, .vlsh vd va n ty q, .vlshY vd va r1 ty q]

/-- VIOTA, VRNG, the integer words and those of packed FP8 (R175 to R177). -/
def integerRowWords : List Instr :=
  [.viota vd ty q, .vrng vd va vb sb q, .viadd vd va vb sb q, .visub vd va vb sb q, .vimul vd va vb sb q, .vand vd va vb sb q,
   .vor vd va vb sb q, .vxor vd va vb sb q, .vsll vd va vb sb q, .vsrl vd va vb sb q, .vsra vd va vb sb q,
   .vimin vd va vb sb q, .vimax vd va vb sb q, .vadd8 vd va vb e8 zi zo sb q, .vmul8 vd va vb e8 zi zo sb q]

theorem rowWords_isRowWord : ∀ i ∈ floatRowWords vd va vb ty zi zo sb q ++ (reduceWords vd va vb ty zi zo sb q
    ++ (moveWords vd va r1 n ty q ++ integerRowWords vd va vb ty e8 zi zo sb q)), Instr.isRowWord i q s := by
  simp only [floatRowWords, reduceWords, moveWords, integerRowWords, List.cons_append, List.nil_append, List.forall_mem_cons,
    List.not_mem_nil, false_implies, implies_true, and_true]
  and_intros <;> exact ⟨_, _, _, _, _, _, rfl⟩

theorem vget_isVx : Instr.isVx (.vget r1 va r2 ty q) q s :=
  ⟨_, rfl, touchingVx_framed (rows_onlyRows (onlyRows_stepPend s _ _))⟩

theorem vput_isVx : Instr.isVx (.vput vd r1 r2 ty q) q s :=
  ⟨_, rfl, touchingVx_framed (ownAccess_onlyRows (onlyRows_stepPend s _ _))⟩

/-- Beside what its row leaves, a recognised VRMAX starts the sequence. -/
theorem vrmaxWord_onlyRows (w : Word) : (s.vrmaxWord vd va ty zi q w).onlyRows s := by
  have plain := (vx_framed (s := s) q [] [va] vd 6 w (s.vrmaxRow va ty zi)).2
  unfold State.vrmaxRow at plain
  unfold State.vrmaxWord
  dsimp only
  split
  · next issues _ =>
    rw [issues] at plain
    split
    · exact plain
    · exact onlyRows_modC plain (changesRows_startFusion vd _)
  · exact plain

theorem vrmax_isVx : Instr.isVx (.vrmax vd va ty zi q) q s := by
  refine ⟨_, rfl, fun there off => ?_, vrmaxWord_onlyRows vd va ty zi q s _⟩
  exact (vrmaxWord_plain fun on => absurd on (by simp [off])).trans ((vx_framed ..).1 there off)

theorem vcvt_isVx (named : (Fmt.ofCode code.toNat).isSome = true) : Instr.isVx (.vcvt vd va code ty zi zo q) q s := by
  obtain ⟨t, named⟩ := Option.isSome_iff_exists.1 named
  refine ⟨issueVcvt vd va code ty zi zo q s, rfl, ?_⟩
  rw [issueVcvt, named]
  exact vx_framed ..

/-- With a code that names no format its trap is FMT. -/
theorem vcvt_after {t : State} (next : exec (.vcvt vd va code ty zi zo q) s = .next t) : s.afterVx t := by
  refine commit_onlyRows ?_ (show commit 2 s (issueVcvt vd va code ty zi zo q s) = .next t from next)
  unfold issueVcvt
  split
  · exact (vx_framed ..).2
  · exact .inl rfl

end Words
end Sys2Proof.Machine

open Sys2Proof Sys2Proof.Machine

/-- Settles O32: every word is framed at issue; VCVT is so when its code names a format, and raises FMT otherwise. -/
theorem vectorFrame : Obligations.VectorFrame := by
  unfold Obligations.VectorFrame
  intro vd va vb r1 r2 code n ty e8 zi zo sb q s t
  have framed : ∀ {i : Instr}, Instr.isVx i q s →
      (s.there [2] → s.c.guardVx q = false → (Fmt.ofCode code.toNat).isSome = true → exec i s = .next s)
      ∧ (exec i s = .next t → s.afterVx t) := fun h => ⟨fun there off _ => h.off there off, h.after⟩
  have rowWords := rowWords_isRowWord vd va vb r1 n ty e8 zi zo sb q s
  simp only [List.forall_mem_append] at rowWords
  obtain ⟨floats, reductions, moves, integers⟩ := rowWords
  show ∀ i ∈ floatRowWords vd va vb ty zi zo sb q ++ .vrmax vd va ty zi q :: (reduceWords vd va vb ty zi zo sb q
    ++ .vcvt vd va code ty zi zo q :: (moveWords vd va r1 n ty q ++ .vget r1 va r2 ty q :: .vput vd r1 r2 ty q
    :: integerRowWords vd va vb ty e8 zi zo sb q)), _ ∧ (exec i s = .next t → s.afterVx t)
  simp only [List.forall_mem_append, List.forall_mem_cons]
  exact ⟨fun i hi => framed (floats i hi).isVx, framed (vrmax_isVx vd va ty zi q s), fun i hi => framed (reductions i hi).isVx,
    ⟨fun there off named => (vcvt_isVx vd va code ty zi zo q s named).off there off, vcvt_after vd va code ty zi zo q s⟩,
    fun i hi => framed (moves i hi).isVx, framed (vget_isVx va r1 r2 ty q s), framed (vput_isVx vd r1 r2 ty q s),
    fun i hi => framed (integers i hi).isVx⟩
end

section
/-!
PROOFS. The results and flags of the scalar floating-point words (`Obligations.FloatResults`).
-/

namespace Sys2Proof.Machine

section FloatRuns
variable {i : Instr} {s : State} {bs : List Nat} {sl lat : Nat} {l : Land} {fl : BitVec 9}

/-- What a word with flags leaves (R211, R212): its write and its flags in flight while they are masked, else FPX. -/
theorem runs_of_touching_go (there : s.there bs)
    (word : exec i s = commit sl s (Issue.touching s bs (.go fl (wordOf i) false (s.pend lat [l])))) :
    (s.noFpx fl → exec i s = inFlightWith s lat l fl) ∧ (¬ s.noFpx fl → exec i s = .next (s.takeFpx sl (wordOf i) fl)) := by
  rw [touching_there there] at word
  exact ⟨fun masked => word.trans (commit_go (.inr masked)), fun on => word.trans (commit_fpx (Bool.not_eq_false _ ▸ on))⟩

variable {cl : Cluster} {rd : BitVec 5} {r q : Res}

/-- The same of a word that computes r into a register. -/
theorem runs_of_fpReg (there : s.there bs) (word : exec i s = commit sl s (Issue.touching s bs (s.fpReg cl rd lat (wordOf i) q)))
    (same : q = r) :
    (s.noFpx r.fl → exec i s = inFlightWith s lat (landReg cl rd (BitVec.ofNat 64 r.bits)) r.fl)
    ∧ (¬ s.noFpx r.fl → exec i s = .next (s.takeFpx sl (wordOf i) r.fl)) :=
  runs_of_touching_go there (same ▸ word)

end FloatRuns

/-! ### Operands (R150, R206) -/

/-- Without the flush-input bit a pattern stays as it is. -/
@[simp] theorem flush_false (f : FF) (b : Nat) : f.flush false b = b := by simp [FF.flush]

/-! ### Comparisons (R209) -/

theorem fcmpCond_cases (cond : BitVec 2) : cond = 0 ∨ cond = 1 ∨ cond = 2 ∨ cond = 3 := by decide +revert

/-- The truth of the four conditions by their codes. -/
theorem fcmpTruth_eq (cond : BitVec 2) (p q : FVal) : fcmpTruth cond.toNat p q =
    if cond = 0 then p.eqv q else if cond = 1 then p.lt q else if cond = 2 then p.lt q || p.eqv q else p.isNan || q.isNan := by
  obtain rfl | rfl | rfl | rfl := fcmpCond_cases cond <;> rfl

/-- LT and LE signal on every NaN, EQ and UN on a signalling one. -/
theorem fcmpFlags_eq (cond : BitVec 2) (p q : FVal) : fcmpFlags cond.toNat p q =
    if cond = 1 ∨ cond = 2 then flagIf (p.isNan || q.isNan) fNV else flagIf (p.sig || q.sig) fNV := by
  obtain rfl | rfl | rfl | rfl := fcmpCond_cases cond <;> rfl

end Sys2Proof.Machine

open Sys2Proof Sys2Proof.Machine

/-- Settles O9: every word computes one result with its flags; FPCMP by the codes of its conditions, FCLASS under its guard. -/
theorem floatResults : Obligations.FloatResults := by
  unfold Obligations.FloatResults
  intro cl rd ra rb rc bk pd cond dbl zi zo rm g s f h m a runs reg
  refine ⟨fun there => ?twoOperands, fun there => runs_of_fpReg there rfl rfl, fun there => runs_of_fpReg there rfl rfl,
    fun there => ?oneWidth, fun acts => commit_guarded acts⟩
  case twoOperands =>
    exact ⟨runs_of_fpReg there rfl rfl, runs_of_fpReg there rfl rfl, runs_of_fpReg there rfl rfl, runs_of_fpReg there rfl rfl,
      runs_of_fpReg there rfl rfl⟩
  case oneWidth =>
    intro raw operand p q nan
    have unflushed : f.flush false raw = raw := flush_false f raw
    refine ⟨?fabs, ?fneg, runs_of_fpReg there rfl rfl, runs_of_fpReg there rfl rfl, runs_of_fpReg there rfl rfl,
      runs_of_fpReg there rfl rfl, runs_of_fpReg there rfl rfl, ?fcmp⟩
    case fabs => exact runs_of_fpReg there rfl (congrArg f.absP unflushed)
    case fneg => exact runs_of_fpReg there rfl (congrArg f.negP unflushed)
    case fcmp =>
      intro fl holds
      have flags : fcmpFlags cond.toNat p q = fl := fcmpFlags_eq cond p q
      have truth : fcmpTruth cond.toNat p q = holds := fcmpTruth_eq cond p q
      rw [← flags, ← truth]
      exact runs_of_touching_go there rfl
end

section
/-!
PROOFS. The words of the copy and cipher engines at issue (`Obligations.StreamWords`, `Obligations.EngineWords`).
-/

namespace Sys2Proof.Machine

/-! ### Channels (R214) -/

@[simp] theorem channel_modChannel_self (e : Eng) (c : Nat) (f : Channel → Channel) : (e.modChannel c f).channel c = f (e.channel c) :=
  Vector.getElem_set_self ..

theorem channel_modChannel_ne (e : Eng) {k c : Nat} (other : k % 8 ≠ c % 8) (f : Channel → Channel) :
    (e.modChannel c f).channel k = e.channel k :=
  Vector.getElem_set_ne (Nat.mod_lt _ (by decide)) (Nat.mod_lt _ (by decide)) other.symm

/-- The engines with another number for the next command (R228). -/
def Eng.numbered (e : Eng) (q : Nat) : Eng := { e with seq := q }

@[simp] theorem channel_numbered (e : Eng) (q k : Nat) : (e.numbered q).channel k = e.channel k := rfl
@[simp] theorem seq_numbered (e : Eng) (q : Nat) : (e.numbered q).seq = q := rfl

/-- A channel that has failed raises what it recorded (R226). -/
def State.channelTrap (s : State) (ch : BitVec 3) : Trap :=
  { s.trapHere (s.c.eng.channel ch.toNat).cause.toNat 5 (s.c.eng.channel ch.toNat).addr with source := .channel ch.toNat }

/-- A cipher engine that has failed raises what it recorded (R235). -/
def State.cipherTrap (s : State) (f : Nat × Word) : Trap := { s.trapHere f.1 6 f.2 with source := .cipher }

/-! ### Stream commands (R215 to R222, R224) -/

section StreamCommands
variable {s : State} {k : StreamKind} {ch : BitVec 3} {sa sb : Option (BitVec 6)} {ct sh : Bool} {bob : BitVec 4} {n : Nat} {w : Word}

/-- What a stream command does on a channel that is free, with what it read: the checks in their order, then its shadows, then
its deadline. -/
def State.streamIssue (s : State) (ch : BitVec 3) (st : Stream) (w : Word) : Issue :=
  match s.streamFault s.cur st ((s.c.eng.channel ch.toNat).read 0) w with
  | some f => s.raise f.1 5 f.2
  | none =>
    match s.shadowsFor s.cur ch.toNat (s.dated st) with
    | .error false => s.raise tXLATE 5 st.dst
    | r =>
      if (s.dated st).dl != 0 && !s.admits s.cur (s.dated st) then s.raise tOVERRUN 5 (BitVec.ofNat 64 (s.dated st).dl)
      else
        match r with
        | .ok shs => .ok (s.modC fun c => c.startStream ch.toNat (s.dated st) shs)
        | .error _ => .wait [wSTREAM] s

theorem streamWord_eq (there : s.there (streamBlocks sa sb)) : s.streamWord k ch sa sb ct sh bob n w =
    if (s.c.eng.channel ch.toNat).state = 1 then .wait [wSTREAM] s
    else if (s.c.eng.channel ch.toNat).state = 3 then .trap (s.channelTrap ch)
    else s.streamIssue ch (s.c.streamOf k ch sa sb ct sh bob n) w :=
  touching_there (there_of_subset there fun b hb => by
    rcases List.mem_append.1 hb with regs | last
    · exact List.mem_cons_of_mem _ regs
    · exact List.mem_singleton.1 last ▸ List.mem_cons_self)

variable {st : Stream}

theorem streamIssue_fault {f : Nat × Word} (fault : s.streamFault s.cur st ((s.c.eng.channel ch.toNat).read 0) w = some f) :
    s.streamIssue ch st w = s.raise f.1 5 f.2 := by
  rw [State.streamIssue, fault]

section Passed
variable (passed : s.streamFault s.cur st ((s.c.eng.channel ch.toNat).read 0) w = none)
include passed

theorem streamIssue_shadowless (none_ : s.shadowsFor s.cur ch.toNat (s.dated st) = .error false) :
    s.streamIssue ch st w = s.raise tXLATE 5 st.dst := by
  rw [State.streamIssue, passed]
  simp only [none_]

theorem streamIssue_overrun (shadows : s.shadowsFor s.cur ch.toNat (s.dated st) ≠ .error false) (dated : (s.dated st).dl ≠ 0)
    (refused : s.admits s.cur (s.dated st) = false) :
    s.streamIssue ch st w = s.raise tOVERRUN 5 (BitVec.ofNat 64 (s.dated st).dl) := by
  have late : ((s.dated st).dl != 0 && !s.admits s.cur (s.dated st)) = true := by simp [dated, refused]
  rw [State.streamIssue, passed]
  rcases given : s.shadowsFor s.cur ch.toNat (s.dated st) with (_ | _) | shs
  · exact absurd given shadows
  · simp only [late, if_true]
  · simp only [late, if_true]

theorem streamIssue_enters {shs : List Shadow} (shadows : s.shadowsFor s.cur ch.toNat (s.dated st) = .ok shs)
    (admitted : (s.dated st).dl = 0 ∨ s.admits s.cur (s.dated st) = true) :
    s.streamIssue ch st w = .ok (s.modC fun c => c.startStream ch.toNat (s.dated st) shs) := by
  have inTime : ¬ ((s.dated st).dl != 0 && !s.admits s.cur (s.dated st)) = true := by
    rcases admitted with h | h <;> simp [h]
  rw [State.streamIssue, passed]
  simp only [shadows, if_neg inTime]

end Passed

/-- A stream in its channel (R215, R226): the next command is numbered after it, and the other channels stay. -/
theorem startStream_eng (c : Ctx) (shs : List Shadow) : (c.startStream ch.toNat st shs).eng =
    (c.eng.modChannel ch.toNat fun x => { x with
      state := 1, cause := 0, addr := 0, done := 0, publ := false, shadows := shs
      stream := some { st with seq := c.eng.seq } }).numbered (c.eng.seq + 1) := rfl

end StreamCommands

/-! ### Updates of the current context that concern its engines alone -/

/-- Registers, control registers, results in flight and memory are as before. -/
def State.quietIn (s t : State) : Prop := t.c.regs = s.c.regs ∧ t.c.ctl = s.c.ctl ∧ t.c.pipe = s.c.pipe ∧ s.sameMem t

/-- The current context with other engines. -/
def State.withEng (s : State) (f : Eng → Eng) : State := s.modC fun c => { c with eng := f c.eng }

@[simp] theorem withEng_eng (s : State) (f : Eng → Eng) : (s.withEng f).c.eng = f s.c.eng := by rw [State.withEng, modC_c]

theorem withEng_quiet (s : State) (f : Eng → Eng) : s.quietIn (s.withEng f) := by
  simp only [State.quietIn, State.withEng, modC_c]
  exact ⟨trivial, trivial, trivial, fun _ => rfl⟩

theorem withEng_other (s : State) (f : Eng → Eng) {m : Nat} (other : m ≠ s.cur) : (s.withEng f).ctxOf m = s.ctxOf m :=
  modCtx_other s other _

/-! ### PUBL, CWAIT, SBAR and PERSIST (R225, R228, R229, R232) -/

section Words
variable {s : State} {ch : BitVec 3}

/-- The engines with a publish of a channel queued (R225). -/
def Eng.queuePublish (e : Eng) (c : Nat) : Eng :=
  (e.modChannel c fun x => { x with publ := true, publSeq := e.seq, state := 1 }).numbered (e.seq + 1)

theorem exec_publ_shadows (there : s.there [3]) (idle : (s.c.eng.channel ch.toNat).publ = false)
    (held : (s.c.eng.channel ch.toNat).shadows ≠ []) : exec (.publ ch) s = .next (s.withEng fun e => e.queuePublish ch.toNat) := by
  show commit 5 s (s.publWord ch) = _
  rw [State.publWord, touching_there there]
  simp only [idle, Bool.false_eq_true, if_false, List.isEmpty_iff, held]
  exact commit_ok ..

theorem exec_publ_plain (there : s.there [3]) (idle : (s.c.eng.channel ch.toNat).publ = false)
    (none_ : (s.c.eng.channel ch.toNat).shadows = []) : exec (.publ ch) s = .next s := by
  show commit 5 s (s.publWord ch) = _
  rw [State.publWord, touching_there there]
  simp only [idle, Bool.false_eq_true, if_false, none_, List.isEmpty_nil, if_true]
  exact commit_ok ..

theorem exec_cwait_idle (there : s.there [3]) (running : (s.c.eng.channel ch.toNat).state ≠ 1)
    (failed : (s.c.eng.channel ch.toNat).state ≠ 3) : exec (.cwait ch) s = .next s := by
  show commit 5 s (s.cwaitWord ch) = _
  rw [State.cwaitWord, touching_there there]
  simp only [running, failed, if_false]
  exact commit_ok ..

theorem exec_cwait_failed (there : s.there [3]) (failed : (s.c.eng.channel ch.toNat).state = 3) :
    exec (.cwait ch) s = .next (s.takeTrap s.cur (s.channelTrap ch)) := by
  show commit 5 s (s.cwaitWord ch) = _
  rw [State.cwaitWord, touching_there there]
  simp only [failed, if_true]
  exact commit_trap ..

/-- An SBAR stands before the next commands; those that no earlier command needs leave the list. -/
theorem exec_sbar (there : s.there [3]) (after before : BitVec 3) : exec (.sbar after before) s = .next (s.withEng fun e =>
    { e with sbars := (e.sbars.filter fun b => s.earlier s.cur b.seq 7) ++ [⟨before, after, e.seq⟩] }) := by
  show commit 5 s (s.sbarWord after before) = _
  rw [State.sbarWord, touching_there there]
  exact commit_ok ..

section Persist
variable {sa sb : BitVec 6} (there : s.there [regBlock6 sa, regBlock6 sb])
include there

theorem exec_persist_strict (strict : s.c.ctl.strict = true) :
    exec (.persist sa sb) s = traps s tILLEGAL 5 (wordOf (.persist sa sb)) := by
  show commit 5 s (s.persistWord sa sb _) = _
  rw [State.persistWord, touching_there there]
  simp only [strict, if_true]
  exact commit_raise ..

theorem exec_persist_none (plain : s.c.ctl.strict = false) (none_ : s.c.rd6 sb = 0) : exec (.persist sa sb) s = .next s := by
  show commit 5 s (s.persistWord sa sb _) = _
  rw [State.persistWord, touching_there there]
  simp only [plain, Bool.false_eq_true, if_false, none_, if_true]
  exact commit_ok ..

theorem exec_persist_reached (plain : s.c.ctl.strict = false) (some_ : s.c.rd6 sb ≠ 0) (reached : s.c.persist = .reached) :
    exec (.persist sa sb) s = .next (s.modC fun c => { c with persist := .idle }) := by
  show commit 5 s (s.persistWord sa sb _) = _
  rw [State.persistWord, touching_there there]
  simp only [plain, Bool.false_eq_true, if_false, some_, reached, if_true]
  exact commit_ok ..

end Persist

/-! ### SEAL, OPEN and YWAIT (R234, R235) -/

theorem exec_ywait_idle (there : s.there [3]) (free : s.c.eng.cipher = none) (sound : s.c.eng.cyFault = none) :
    exec .ywait s = .next s := by
  show commit 6 s s.ywaitWord = _
  rw [State.ywaitWord, touching_there there]
  simp only [free, sound]
  exact commit_ok ..

theorem exec_ywait_failed {f : Nat × Word} (there : s.there [3]) (free : s.c.eng.cipher = none) (failed : s.c.eng.cyFault = some f) :
    exec .ywait s = .next (s.takeTrap s.cur (s.cipherTrap f)) := by
  show commit 6 s s.ywaitWord = _
  rw [State.ywaitWord, touching_there there]
  simp only [free, failed]
  exact commit_trap ..

/-- A cipher command with what it reads at issue (R234). -/
def State.cipherOf (s : State) (isOpen : Bool) (sa sb : BitVec 6) (ks n : Nat) : Cipher where
  isOpen := isOpen
  region := s.c.rd6 sa
  tag := s.c.rd6 sb
  key := (s.keySlot s.c.partN ks).key
  ks := ks
  gen := (s.keySlot s.c.partN ks).gen
  n := n
  seq := s.c.eng.seq

section Cipher
variable {sa sb : BitVec 6} {isOpen : Bool} {ks n : Nat} (there : s.there [3, regBlock6 sa, regBlock6 sb])
  (sound : s.c.eng.cyFault = none) (free : s.c.eng.cipher = none)
include there sound free

theorem cipherWord_region_misaligned (misaligned : (s.c.rd6 sa).toNat % 4096 ≠ 0) :
    s.cipherWord isOpen sa sb ks n = s.raise tALIGN 6 (s.c.rd6 sa) := by
  rw [State.cipherWord, touching_there (there_of_subset there (by simp))]
  simp [sound, free, misaligned]

section Region
variable (region : (s.c.rd6 sa).toNat % 4096 = 0)
include region

theorem cipherWord_tag_misaligned (misaligned : (s.c.rd6 sb).toNat % 32 ≠ 0) :
    s.cipherWord isOpen sa sb ks n = s.raise tALIGN 6 (s.c.rd6 sb) := by
  rw [State.cipherWord, touching_there (there_of_subset there (by simp))]
  simp [sound, free, region, misaligned]

/-- With both areas aligned, what the regions answer decides. -/
theorem cipherWord_aligned (tag : (s.c.rd6 sb).toNat % 32 = 0) : s.cipherWord isOpen sa sb ks n =
    match s.untrusted s.cur (s.c.rd6 sa) (4096 * (n + 1)) true, s.untrusted s.cur (s.c.rd6 sb) (32 * (n + 1)) (!isOpen) with
    | some (.ok x), _ => s.raise tXLATE 6 x
    | _, some (.ok x) => s.raise tXLATE 6 x
    | some (.error o), _ => .wait [wXLATE] (s.askWalk (dieOf s.cur) s.c.partN o)
    | none, some (.error o) => .wait [wXLATE] (s.askWalk (dieOf s.cur) s.c.partN o)
    | none, none => .ok (s.withEng fun e => { e with cipher := some (s.cipherOf isOpen sa sb ks n), seq := e.seq + 1 }) := by
  rw [State.cipherWord, touching_there (there_of_subset there (by simp))]
  simp only [sound, free, region, tag]
  rfl

end Region
end Cipher
end Words

end Sys2Proof.Machine

open Sys2Proof Sys2Proof.Machine

/-- Settles O35: the six commands are one word with their operands; its outcomes are those of `State.streamIssue`. -/
theorem streamWords : Obligations.StreamWords := by
  unfold Obligations.StreamWords
  intro sa sb ct sh ch n7 bob s p hp i st bs x
  have word : exec i s = commit 5 s (s.streamWord p.2.1 ch p.2.2.1 p.2.2.2.1 p.2.2.2.2.1 p.2.2.2.2.2.1 p.2.2.2.2.2.2.1
      p.2.2.2.2.2.2.2 (wordOf i)) := by
    fin_cases hp <;> rfl
  have issues (there : s.there bs) (running : x.state ≠ 1) (failed : x.state ≠ 3) :
      exec i s = commit 5 s (s.streamIssue ch st (wordOf i)) := by
    rw [word, streamWord_eq there, if_neg running, if_neg failed]
  refine ⟨fun shs takes => ?enters, fun there failed => ?failed, fun there running failed => ⟨fun f fault => ?fault, fun passed =>
    ⟨fun none_ => ?shadowless, fun given dated refused => ?overrun⟩⟩⟩
  case enters =>
    obtain ⟨there, running, failed, passed, shadows, admitted⟩ := takes
    refine ⟨s.modC fun c => c.startStream ch.toNat (s.dated st) shs, ?_, ?_⟩
    · rw [issues there running failed, streamIssue_enters passed shadows admitted, commit_ok]
    · simp only [modC_c, startStream_eng, channel_numbered, channel_modChannel_self, seq_numbered]
      refine ⟨rfl, trivial, fun k other => ?_, rfl, rfl, rfl, fun _ => rfl, fun m other => modCtx_other s other _⟩
      exact channel_modChannel_ne _ (by rwa [Nat.mod_eq_of_lt ch.isLt]) _
  case failed =>
    rw [word, streamWord_eq there, if_neg (by rw [show (s.c.eng.channel ch.toNat).state = 3 from failed]; decide), if_pos failed]
    exact commit_trap ..
  case fault => rw [issues there running failed, streamIssue_fault fault]; exact commit_raise ..
  case shadowless => rw [issues there running failed, streamIssue_shadowless passed none_]; exact commit_raise ..
  case overrun => rw [issues there running failed, streamIssue_overrun passed given dated refused]; exact commit_raise ..

/-- Settles O36: one lemma for each outcome of each word. -/
theorem engineWords : Obligations.EngineWords := by
  unfold Obligations.EngineWords
  intro sa sb ch after before ks n s x a b quiet
  refine ⟨fun there => ⟨fun idle held => ?publ, exec_publ_plain there, exec_cwait_idle there, exec_cwait_failed there, ?sbar,
      exec_ywait_idle there, fun free f => exec_ywait_failed there free⟩,
    fun there => ⟨exec_persist_strict there, exec_persist_none there, exec_persist_reached there⟩,
    ?cipher⟩
  case publ =>
    refine ⟨_, exec_publ_shadows there idle held, withEng_quiet .., ?_⟩
    rw [withEng_eng, Eng.queuePublish, channel_numbered, channel_modChannel_self]
    exact ⟨rfl, rfl⟩
  case sbar =>
    refine ⟨_, exec_sbar there after before, withEng_quiet .., ?_⟩
    rw [withEng_eng]
    exact ⟨List.mem_append_right _ List.mem_cons_self, rfl⟩
  case cipher =>
    intro there sound free enters
    have word : ∀ {i : Instr} {isOpen : Bool}, exec i s = commit 6 s (s.cipherWord isOpen sa sb ks.toNat n.toNat) →
        enters i isOpen := by
      intro i isOpen word
      refine ⟨fun misaligned => ?_, fun region misaligned => ?_, fun region tag => ?_⟩
      · rw [word, cipherWord_region_misaligned there sound free misaligned]; exact commit_raise ..
      · rw [word, cipherWord_tag_misaligned there sound free region misaligned]; exact commit_raise ..
      rw [word, cipherWord_aligned there sound free region tag]
      refine ⟨fun v bad => ?_, fun v good bad => ?_, fun good trusted => ?_⟩
      · rw [bad]; exact commit_raise ..
      · rw [good, bad]; exact commit_raise ..
      · rw [good, trusted]
        refine ⟨_, commit_ok .., withEng_quiet .., ?_⟩
        rw [withEng_eng]
        exact ⟨rfl, rfl⟩
    exact ⟨word rfl, word rfl⟩
end

section
/-!
PROOFS. What the engines write: the bytes of a line, its form bits, and what a write leaves of the spindles
(`Obligations.StreamAndCipherEvents`).
-/

namespace Sys2Proof.Machine

/-! ### Bytes at a location -/

/-- The key of a byte of a location in the memory of the module. -/
def State.byteKey (s : State) (l : Loc) (i : Nat) : Nat :=
  match l with
  | .slice m o => s.sliceAt m (o + i)
  | .phys pa => pa + i
  | _ => 0

/-- The block map of every spindle stays. -/
def State.sameMaps (s t : State) : Prop := ∀ m, (t.ctxOf m).eng.bmap = (s.ctxOf m).eng.bmap

theorem sameMaps_sliceAt {s t : State} (maps : s.sameMaps t) (m o : Nat) : t.sliceAt m o = s.sliceAt m o := by
  rw [State.sliceAt, maps]
  rfl

/-- What is read at a location of the module is a matter of the bytes and the block maps. -/
theorem readLoc_congr {s t : State} (cells : t.mem.cells = s.mem.cells) (maps : s.sameMaps t) {l : Loc} (inside : l.outside = false)
    (len : Nat) : (t.readLoc l len).1 = (s.readLoc l len).1 := by
  cases l with
  | slice n off => simp only [State.readLoc, State.readSlice, cells, sameMaps_sliceAt maps]
  | phys pa => simp only [State.readLoc, Memory.read, cells]
  | host a => cases inside
  | far m off => cases inside

theorem readLoc_length (s : State) (l : Loc) (len : Nat) : (s.readLoc l len).1.length = len := by
  cases l <;> simp [State.readLoc, State.readSlice, Memory.read, cellsRead, freeBytes_length]

section Writes
variable {s : State} {w : Nat} {l : Loc} {bs : List Byte}

theorem writeLoc_sound (sound : s.sound) (inside : l.outside = false) : (s.writeLoc w l bs).sound := by
  cases l with
  | slice n off => exact writeSlice_sound n off bs sound
  | phys pa => exact Memory.write_wf pa bs (Memory.soften_wf w pa bs sound)
  | host a => cases inside
  | far m off => cases inside

/-- Bytes written at a location are read back. -/
theorem readLoc_writeLoc (sound : s.sound) (inside : l.outside = false) (short : bs.length ≤ 65536) :
    ((s.writeLoc w l bs).readLoc l bs.length).1 = bs := by
  cases l with
  | slice n off => exact readSlice_writeSlice n off bs sound short
  | phys pa => exact Memory.read_write pa bs (Memory.soften_wf w pa bs sound)
  | host a => cases inside
  | far m off => cases inside

/-- A write leaves every byte but its own. -/
theorem writeLoc_out (sound : s.sound) (inside : l.outside = false) {a : Nat} (apart : ∀ i, i < bs.length → s.byteKey l i ≠ a) :
    cellGet (s.writeLoc w l bs).mem.cells a = cellGet s.mem.cells a := by
  cases l with
  | slice n off => exact writeSlice_out n off bs a sound apart
  | phys pa =>
    have beyond : a < pa ∨ pa + bs.length ≤ a := by
      by_contra among
      exact apart (a - pa) (by omega) (show pa + (a - pa) = a by omega)
    refine (cellGet_cellsWrite_out pa a bs (Memory.soften_wf w pa bs sound) beyond).trans ?_
    rw [soften_cells]
  | host a => cases inside
  | far m off => cases inside

end Writes

/-! ### What a write leaves of the spindles

A write of an engine changes nothing of a spindle but that it may end a fused sequence (R182). -/

/-- No spindle changes but in its fused sequence. -/
def State.onlyFusion (s t : State) : Prop := ∀ m, ∃ f, t.sp m = { s.sp m with ctx := { (s.sp m).ctx with fusion := f } }

section Fusion
variable {s t u : State}

theorem onlyFusion_of_spindles (same : t.spindles = s.spindles) : s.onlyFusion t := fun m => ⟨(s.sp m).ctx.fusion, by
  rw [State.sp, same]
  rfl⟩

theorem State.onlyFusion.trans (h : s.onlyFusion t) (k : t.onlyFusion u) : s.onlyFusion u := fun m => by
  obtain ⟨f, first⟩ := h m
  obtain ⟨g, second⟩ := k m
  exact ⟨g, by rw [second, first]⟩

theorem State.onlyFusion.eng (h : s.onlyFusion t) (m : Nat) : (t.ctxOf m).eng = (s.ctxOf m).eng := by
  obtain ⟨f, same⟩ := h m
  rw [State.ctxOf, same]
  rfl

theorem State.onlyFusion.regs (h : s.onlyFusion t) (m : Nat) : (t.ctxOf m).regs = (s.ctxOf m).regs := by
  obtain ⟨f, same⟩ := h m
  rw [State.ctxOf, same]
  rfl

theorem State.onlyFusion.moved (h : s.onlyFusion t) (m : Nat) : (t.sp m).moved = (s.sp m).moved := by
  obtain ⟨f, same⟩ := h m
  rw [same]

theorem State.onlyFusion.maps (h : s.onlyFusion t) : s.sameMaps t := fun m => by rw [h.eng]

theorem writeSlice_onlyFusion (s : State) (n off : Nat) (bs : List Byte) : s.onlyFusion (s.writeSlice n off bs) := by
  have put : s.onlyFusion (s.putSlice n off bs (bs.length / 65536 + 2)) := onlyFusion_of_spindles (putSlice_spindles ..)
  refine put.trans fun m => ?_
  by_cases own : m = n
  · subst own
    exact ⟨_, sp_modSp ..⟩
  · exact ⟨_, sp_modSp_ne _ own _⟩

theorem writeLoc_onlyFusion (s : State) (w : Nat) (l : Loc) (bs : List Byte) : s.onlyFusion (s.writeLoc w l bs) := by
  cases l with
  | slice n off => exact writeSlice_onlyFusion s n off bs
  | phys pa => exact onlyFusion_of_spindles rfl
  | host a =>
    rw [State.writeLoc]
    split <;> exact onlyFusion_of_spindles rfl
  | far m off => exact onlyFusion_of_spindles rfl

/-- An access applied in a count leaves only its mark. -/
theorem noteServed_eq (s : State) (w : Nat) (l : Loc) (len : Nat) (wr : Bool) :
    ∃ v, s.noteServed w l len wr = { s with served := v } := by
  have marks {c : Prop} [Decidable c] (v : Tbl Nat) : ∃ u, (if c then s else { s with served := v }) = { s with served := u } := by
    split
    · exact ⟨s.served, rfl⟩
    · exact ⟨v, rfl⟩
  by_cases outside : l.outside = true
  · exact ⟨s.served, if_pos outside⟩
  · unfold State.noteServed
    rw [if_neg outside]
    exact marks _

end Fusion

/-! ### Form bits (R233) -/

theorem formOf_eq_none_iff (s : State) (l : Loc) (len : Nat) :
    s.formOf l len = none ↔ ∀ x ∈ s.linesAt l len, x.2 ∉ s.mem.form := by
  rw [State.formOf]
  split
  · next empty => simp [List.isEmpty_iff.1 empty]
  · simp

theorem formOf_congr {s t : State} (form : t.mem.form = s.mem.form) (maps : s.sameMaps t) (l : Loc) (len : Nat) :
    t.formOf l len = s.formOf l len := by
  have lines : t.linesAt l len = s.linesAt l len := by
    cases l with
    | slice n off => simp only [State.linesAt, sameMaps_sliceAt maps]
    | _ => rfl
  rw [State.formOf, State.formOf, form, lines]

theorem mem_insN_of_mem {a k : Nat} {l : List Nat} (h : a ∈ l) : a ∈ insN k l := by
  induction l with
  | nil => cases h
  | cons j t ih =>
    rw [insN]
    split
    · exact List.mem_cons_of_mem _ h
    · split
      · exact h
      · rcases List.mem_cons.1 h with rfl | tail
        · exact List.mem_cons_self
        · exact List.mem_cons_of_mem _ (ih tail)

/-- Every line that the bytes touch gets its form bit. -/
theorem mem_setForm {m : Memory} {a n l : Nat} (h : l ∈ linesOf a n) : l ∈ (m.setForm a n true).form :=
  foldl_establishes (P := fun form => l ∈ form) h (fun form => mem_insN_self l form) (fun _ _ => mem_insN_of_mem) m.form

theorem mem_linesOf {a n k : Nat} : k ∈ linesOf a n ↔ ∃ i, i < n ∧ (a + i) / 64 = k := by
  rw [linesOf]
  split
  · next none_ => simp [none_]
  · next some_ =>
    simp only [rangeFrom, List.mem_map, List.mem_range]
    constructor
    · rintro ⟨j, hj, rfl⟩
      exact ⟨64 * (a / 64 + j) - a, by omega, by omega⟩
    · rintro ⟨i, hi, rfl⟩
      exact ⟨(a + i) / 64 - a / 64, by omega, by omega⟩

/-- Lines of a slice are lines of memory (R188). -/
theorem sliceAt_mod (s : State) (n o : Nat) : s.sliceAt n o % 64 = o % 64 := by
  unfold State.sliceAt sliceKey mapOff
  split <;> omega

theorem sliceAt_line (s : State) (n o : Nat) : s.sliceAt n (64 * (o / 64)) / 64 = s.sliceAt n o / 64 := by
  have within := sliceAt_block s n (off := 64 * (o / 64)) (j := o % 64) (by omega)
  have aligned := sliceAt_mod s n (64 * (o / 64))
  rw [Nat.div_add_mod] at within
  omega

/-- The lines of bytes at a location are those of their keys. -/
theorem mem_linesAt {s : State} {l : Loc} (inside : l.outside = false) {len k : Nat} :
    (∃ x ∈ s.linesAt l len, x.2 = k) ↔ ∃ i, i < len ∧ s.byteKey l i / 64 = k := by
  cases l with
  | slice n off =>
    simp only [State.linesAt, List.mem_map, mem_linesOf, State.byteKey]
    constructor
    · rintro ⟨_, ⟨_, ⟨i, hi, rfl⟩, rfl⟩, rfl⟩
      exact ⟨i, hi, (sliceAt_line s n (off + i)).symm⟩
    · rintro ⟨i, hi, rfl⟩
      exact ⟨_, ⟨_, ⟨i, hi, rfl⟩, rfl⟩, sliceAt_line s n (off + i)⟩
  | phys pa =>
    simp only [State.linesAt, List.mem_map, mem_linesOf, State.byteKey, State.keyOf]
    constructor
    · rintro ⟨_, ⟨_, ⟨i, hi, rfl⟩, rfl⟩, rfl⟩
      exact ⟨i, hi, rfl⟩
    · rintro ⟨i, hi, rfl⟩
      exact ⟨_, ⟨_, ⟨i, hi, rfl⟩, rfl⟩, rfl⟩
  | host a => cases inside
  | far m off => cases inside

/-- No byte is in a line of form 1. -/
theorem formOf_eq_none_iff_bytes {s : State} {l : Loc} (inside : l.outside = false) (len : Nat) :
    s.formOf l len = none ↔ ∀ i, i < len → s.byteKey l i / 64 ∉ s.mem.form := by
  rw [formOf_eq_none_iff]
  refine ⟨fun none_ i hi => ?_, fun none_ x hx => ?_⟩
  · obtain ⟨x, hx, e⟩ := (mem_linesAt (s := s) inside).2 ⟨i, hi, rfl⟩
    exact e ▸ none_ x hx
  · obtain ⟨i, hi, e⟩ := (mem_linesAt (s := s) inside).1 ⟨x, hx, rfl⟩
    exact e ▸ none_ i hi

/-- What a write leaves of form 1: lines that were so and that it does not touch. -/
theorem Memory.write_form {m : Memory} {a k : Nat} {bs : List Byte} (h : k ∈ (m.write a bs).form) :
    k ∈ m.form ∧ k ∉ linesOf a bs.length := by
  simpa [Memory.write] using h

theorem putSlice_form {s : State} {n off k j : Nat} {bs : List Byte} (h : j ∈ (s.putSlice n off bs k).mem.form) : j ∈ s.mem.form := by
  induction k generalizing s off bs with
  | zero => exact h
  | succ k ih =>
    rw [State.putSlice] at h
    split at h
    · exact h
    · exact (Memory.write_form (ih h)).1

/-- A write to a slice makes every line that it touches one of form 0, block by block. -/
theorem putSlice_plain {s : State} {n off k i : Nat} {bs : List Byte} (fuel : bs.length + off % 65536 ≤ 65536 * k)
    (hi : i < bs.length) :
    s.sliceAt n (off + i) / 64 ∉ (s.putSlice n off bs k).mem.form := by
  induction k generalizing s off bs i with
  | zero => omega
  | succ k ih =>
    rw [State.putSlice, if_neg (by rw [List.isEmpty_iff]; intro e; rw [e] at hi; simp at hi)]
    by_cases here : i < 65536 - off % 65536
    · intro form
      refine (Memory.write_form (putSlice_form form)).2 (mem_linesOf.2 ⟨i, ?_, ?_⟩)
      · rw [List.length_take]; omega
      · rw [sliceAt_block s n here]
    · have rest := ih (s := s.modMem fun m => m.write (s.sliceAt n off) (bs.take (65536 - off % 65536)))
        (off := off + (65536 - off % 65536)) (bs := bs.drop (65536 - off % 65536)) (i := i - (65536 - off % 65536))
        (by rw [List.length_drop]; omega) (by rw [List.length_drop]; omega)
      rwa [show off + (65536 - off % 65536) + (i - (65536 - off % 65536)) = off + i by omega] at rest

/-- The same at any location. -/
theorem writeLoc_plain {s : State} {w : Nat} {l : Loc} {bs : List Byte} (inside : l.outside = false) {i : Nat} (hi : i < bs.length) :
    s.byteKey l i / 64 ∉ (s.writeLoc w l bs).mem.form := by
  cases l with
  | slice n off => exact putSlice_plain (by omega) hi
  | phys pa => exact fun form => (Memory.write_form form).2 (mem_linesOf.2 ⟨i, hi, rfl⟩)
  | host a => cases inside
  | far m off => cases inside

/-! ### Lines of an engine -/

/-- The memory once the lines of bytes are the engine's: without clock tags, and with form bits where it carries them. -/
def Memory.engineLines (m : Memory) (k n : Nat) (form : Bool) : Memory :=
  let m := { m with tags := (wholeLines k n).foldl (fun t l => tdel l t) m.tags }
  if form then m.setForm k n true else m

section Lines
variable {s : State} {w : Nat} {x : Place} {bs : List Byte} {form : Bool}

theorem putLine_eq (inside : x.loc.outside = false) : ∃ v, s.putLine w x bs form =
    (({ s.writeLoc w x.loc bs with served := v }).modMem fun m => m.engineLines (s.keyOf x.loc) bs.length (x.kept && form)) := by
  obtain ⟨v, noted⟩ := noteServed_eq (s.writeLoc w x.loc bs) w x.loc bs.length true
  refine ⟨v, ?_⟩
  rw [State.putLine]
  simp only [noted, inside]
  rfl

theorem engineLines_cells (m : Memory) (k n : Nat) (form : Bool) : (m.engineLines k n form).cells = m.cells := by
  cases form <;> rfl

theorem putLine_cells (inside : x.loc.outside = false) : (s.putLine w x bs form).mem.cells = (s.writeLoc w x.loc bs).mem.cells := by
  obtain ⟨v, put⟩ := putLine_eq (s := s) (w := w) (bs := bs) (form := form) inside
  rw [put]
  exact engineLines_cells ..

theorem putLine_onlyFusion (s : State) (w : Nat) (x : Place) (bs : List Byte) (form : Bool) : s.onlyFusion (s.putLine w x bs form) := by
  obtain ⟨v, noted⟩ := noteServed_eq (s.writeLoc w x.loc bs) w x.loc bs.length true
  refine (writeLoc_onlyFusion s w x.loc bs).trans (onlyFusion_of_spindles ?_)
  rw [State.putLine]
  simp only [noted]
  split <;> rfl

theorem putLine_sound (sound : s.sound) (inside : x.loc.outside = false) : (s.putLine w x bs form).sound := by
  have written : (s.writeLoc w x.loc bs).sound := writeLoc_sound sound inside
  rwa [State.sound, Memory.wf, putLine_cells inside]

theorem readLoc_putLine (sound : s.sound) (inside : x.loc.outside = false) (short : bs.length ≤ 65536) :
    ((s.putLine w x bs form).readLoc x.loc bs.length).1 = bs := by
  have maps : (s.writeLoc w x.loc bs).sameMaps (s.putLine w x bs form) := fun m => by
    rw [(putLine_onlyFusion s w x bs form).eng, (writeLoc_onlyFusion s w x.loc bs).eng]
  rw [readLoc_congr (putLine_cells inside) maps inside]
  exact readLoc_writeLoc sound inside short

theorem putLine_out (sound : s.sound) (inside : x.loc.outside = false) {a : Nat}
    (apart : ∀ i, i < bs.length → s.byteKey x.loc i ≠ a) : cellGet (s.putLine w x bs form).mem.cells a = cellGet s.mem.cells a := by
  rw [putLine_cells inside, writeLoc_out sound inside apart]

/-- A line carried in ciphertext is one of form 1 where the place keeps form bits. -/
theorem putLine_sealed (inside : x.loc.outside = false) (kept : x.kept = true) (sealed : form = true) {l : Nat}
    (hl : l ∈ linesOf (s.keyOf x.loc) bs.length) : l ∈ (s.putLine w x bs form).mem.form := by
  obtain ⟨v, put⟩ := putLine_eq (s := s) (w := w) (bs := bs) (form := form) inside
  rw [put, kept, sealed]
  exact mem_setForm hl

/-- A line carried in plaintext is one of form 0. -/
theorem putLine_plain (inside : x.loc.outside = false) (plain : form = false) :
    (s.putLine w x bs form).formOf x.loc bs.length = none := by
  have keys (i : Nat) : (s.putLine w x bs form).byteKey x.loc i = s.byteKey x.loc i := by
    cases x.loc with
    | slice n o => exact sameMaps_sliceAt (putLine_onlyFusion s w x bs form).maps n (o + i)
    | _ => rfl
  rw [formOf_eq_none_iff_bytes inside]
  intro i hi
  obtain ⟨v, put⟩ := putLine_eq (s := s) (w := w) (bs := bs) (form := form) inside
  rw [keys, put, plain, Bool.and_false]
  exact writeLoc_plain inside hi

/-- Where a place keeps form bits, a written line has the one that it is carried with. -/
theorem putLine_formOf (inside : x.loc.outside = false) (kept : x.kept = true) (some_ : 0 < bs.length) :
    ((s.putLine w x bs form).formOf x.loc bs.length).isSome = form := by
  cases carried : form with
  | false => rw [putLine_plain inside rfl]; rfl
  | true =>
    have first : s.byteKey x.loc 0 / 64 ∈ (s.putLine w x bs true).mem.form := by
      refine putLine_sealed inside kept rfl (mem_linesOf.2 ⟨0, some_, ?_⟩)
      cases at_ : x.loc with
      | host a => rw [at_] at inside; cases inside
      | far m off => rw [at_] at inside; cases inside
      | _ => rfl
    rw [Option.isSome_iff_ne_none, Ne, formOf_eq_none_iff_bytes inside]
    intro none_
    refine none_ 0 some_ ?_
    have keys : (s.putLine w x bs true).byteKey x.loc 0 = s.byteKey x.loc 0 := by
      cases x.loc with
      | slice n o => exact sameMaps_sliceAt (putLine_onlyFusion s w x bs true).maps n (o + 0)
      | _ => rfl
    rwa [keys]

end Lines

end Sys2Proof.Machine
end

section
/-!
PROOFS. One line of a stream: what the copy engine reads, and what it leaves of the channel
(`Obligations.StreamAndCipherEvents`).
-/

namespace Sys2Proof.Machine

/-! ### Reading at a home (R252, R260) -/

/-- A place in the memory of this module with no routine at work there. -/
def State.quietAt (s : State) (l : Loc) : Prop :=
  l.outside = false ∧ ∀ m o, l = .slice m o → (s.ctxOf m).eng.mx.run = none

theorem homeRead_quiet {s : State} {l : Loc} (quiet : s.quietAt l) (len : Nat) :
    s.homeRead l len = ((s.readLoc l len).1, s.tagsOf l len, s) := by
  obtain ⟨inside, idle⟩ := quiet
  cases l with
  | slice m o =>
    have outer : s.outerRead m o len = (s.readSlice m o len, s) := by
      unfold State.outerRead
      rw [idle m o rfl]
    rw [State.homeRead, if_neg (by simp [Loc.outside])]
    simp only [outer]
    rfl
  | phys pa => rfl
  | host a => cases inside
  | far m off => cases inside

theorem farFails_inside {s : State} {p q : Place} (from_ : p.loc.outside = false) (to_ : q.loc.outside = false) :
    s.farFails p q = (0, s) := by
  have near {l : Loc} (inside : l.outside = false) : l.isFar = false := by
    cases l with
    | far m off => cases inside
    | _ => rfl
  simp [State.farFails, near from_, near to_]

@[simp] theorem plus_zero (l : Loc) : l.plus 0 = l := by cases l <;> rfl

/-! ### Channels after an update -/

section Channels
variable {s : State} {n c : Nat}

@[simp] theorem modChan_ctxOf (s : State) (n c : Nat) (f : Channel → Channel) : (s.modChan n c f).ctxOf n =
    { s.ctxOf n with eng := (s.ctxOf n).eng.modChannel c f } := modCtx_self ..

@[simp] theorem failStream_channel (s : State) (n c code : Nat) (a : Word) : ((s.failStream n c code a).ctxOf n).eng.channel c =
    { (s.ctxOf n).eng.channel c with
      state := 3, cause := BitVec.ofNat 8 code, addr := a, stream := none, publ := false, shadows := [] } := by
  rw [State.failStream, modChan_ctxOf]
  exact channel_modChannel_self ..

theorem modChan_sameMaps (s : State) (n c : Nat) (f : Channel → Channel) : s.sameMaps (s.modChan n c f) := fun m => by
  by_cases own : m = n
  · subst own
    rw [modChan_ctxOf]
    rfl
  · rw [State.modChan, modCtx_other _ own]

theorem failStream_sameMem (s : State) (n c code : Nat) (a : Word) : s.sameMem (s.failStream n c code a) := fun _ => rfl

/-- Without a shadow the bytes of a stream go to their own place. -/
theorem streamPut_plain (none_ : ((s.ctxOf n).eng.channel c).shadows = []) (a : Word) (p : Place) (bs : List Byte) (form : Bool)
    (fl : BitVec 9) : s.streamPut n c a p bs form fl = (s.putLine n p bs form).lineDone n c bs.length fl := by
  have unshadowed : ((s.ctxOf n).eng.channel c).shadowKey (s.aim (s.ctxOf n) a.toNat) n = none := by
    unfold Channel.shadowKey
    rw [none_]
    cases s.aim (s.ctxOf n) a.toNat <;> rfl
  rw [State.streamPut]
  simp only [unshadowed]

/-- With all the bytes of a line done, the next line is due (R214). -/
theorem lineMoved_whole {st : Stream} (whole : st.part = 0) (fl : BitVec 9) : (st.lineMoved 64 fl).done = st.done + 1 := by
  have short : ¬ st.part + 64 < st.lineLen (st.done % st.lines) := by
    unfold Stream.lineLen
    omega
  exact congrArg Stream.done (if_neg short)

end Channels

/-! ### A line of CPY between places of the module (R217, R219, R233) -/

section Line
variable {s : State} {n c : Nat} {st : Stream} {p q : Place}

/-- The addresses of the next line of a copy: where it is read, and where it is written. -/
def State.lineFrom (s : State) (n : Nat) (st : Stream) : Word :=
  BitVec.ofNat 64 (s.srcRow n st (st.done / st.lines) + 64 * (st.done % st.lines))
def State.lineTo (s : State) (n : Nat) (st : Stream) : Word :=
  BitVec.ofNat 64 (s.dstRow n st (st.done / st.lines) + 64 * (st.done % st.lines))

/-- Whether the line is ciphertext: by its form bit, or by the word where its place keeps none (R233). -/
def State.lineSealed (s : State) (st : Stream) (p : Place) : Bool := if p.kept then (s.formOf p.loc 64).isSome else st.ct

/-- A line of CPY can move from p to q: nothing is in its way. -/
structure State.cpyLine (s : State) (n c : Nat) (st : Stream) (p q : Place) : Prop where
  stream : ((s.ctxOf n).eng.channel c).stream = some st
  kind : st.kind = .cpy
  whole : st.part = 0
  more : st.done < st.total
  free : s.barred n st.seq (s.classAt (s.ctxOf n) (s.lineFrom n st) false ||| s.classAt (s.ctxOf n) (s.lineTo n st) true) = false
  read : s.lineReach n (s.lineFrom n st) 64 false = .at_ p
  written : s.lineReach n (s.lineTo n st) 64 true = .at_ q
  quiet : s.quietAt p.loc
  home : q.loc.outside = false
  clean : s.poisonOf p.loc 64 = none

theorem moveLine_cpy (h : s.cpyLine n c st p q) : s.moveLine n c =
    if !s.lineSealed st p && !q.trusted then ((s.noteServed n p.loc 64 false).failStream n c tFORM (s.lineTo n st), true)
    else ((s.noteServed n p.loc 64 false).streamPut n c (s.lineTo n st) q (s.readLoc p.loc 64).1 (s.lineSealed st p) 0, true) := by
  obtain ⟨stream, kind, whole, more, free, read, written, quiet, home, clean⟩ := h
  obtain ⟨v, noted⟩ := noteServed_eq s n p.loc 64 false
  have plain : st.indexed = false := by simp [Stream.indexed, kind]
  have sealed : (if p.kept then lineOf (s.lineFrom n st) p.loc s.formOf [(0, 64)]
      else if st.ct then some (s.lineFrom n st) else none).isSome = s.lineSealed st p := by
    unfold State.lineSealed
    cases p.kept <;> cases st.ct <;> simp [lineOf]
  have bytes : (({ s with served := v } : State).readLoc p.loc 64).1 = (s.readLoc p.loc 64).1 :=
    readLoc_congr (s := s) (t := { s with served := v }) rfl (fun _ => rfl) quiet.1 64
  have read_ := homeRead_quiet (s := { s with served := v }) quiet 64
  have away : ({ s with served := v } : State).farFails p q = (0, { s with served := v }) := farFails_inside quiet.1 home
  have clean_ : lineOf (s.lineFrom n st) p.loc ({ s with served := v } : State).poisonOf [(0, 64)] = none := by
    have same : ({ s with served := v } : State).poisonOf p.loc 64 = none := clean
    simp [lineOf, same]
  unfold State.lineFrom State.lineTo at *
  unfold State.moveLine
  simp only [stream, if_neg (Nat.not_le_of_lt more), plain, kind, whole, Bool.false_and, Bool.false_eq_true, if_false, List.isEmpty_nil,
    Bool.not_true, show (StreamKind.cpy == StreamKind.bdrain) = false from rfl, show (StreamKind.cpy == StreamKind.coll) = false from rfl,
    Nat.add_zero, Nat.or_zero, free, read, written, noted, away, clean_, sealed, read_, bytes]
  simp

/-- The line moves: its bytes and its form bit are at its destination, and it is counted (R214). -/
theorem moveLine_moves (h : s.cpyLine n c st p q) (sound : s.sound) (none_ : ((s.ctxOf n).eng.channel c).shadows = [])
    (goes : s.lineSealed st p = true ∨ q.trusted = true) :
    ∃ t, s.moveLine n c = (t, true) ∧ (t.readLoc q.loc 64).1 = (s.readLoc p.loc 64).1
      ∧ (q.kept = true → (t.formOf q.loc 64).isSome = s.lineSealed st p)
      ∧ (∀ x, (∀ i, i < 64 → s.byteKey q.loc i ≠ x) → cellGet t.mem.cells x = cellGet s.mem.cells x)
      ∧ ((t.ctxOf n).eng.channel c).done = ((s.ctxOf n).eng.channel c).done + 64 ∧ (t.ctxOf n).regs = (s.ctxOf n).regs
      ∧ ∃ st', ((t.ctxOf n).eng.channel c).stream = some st' ∧ st'.done = st.done + 1 := by
  obtain ⟨v, noted⟩ := noteServed_eq s n p.loc 64 false
  have length : (s.readLoc p.loc 64).1.length = 64 := readLoc_length ..
  have moved := moveLine_cpy h
  rw [if_neg (by rcases goes with h | h <;> simp [h]), noted,
    streamPut_plain (s := { s with served := v }) none_, length] at moved
  generalize (s.readLoc p.loc 64).1 = bs at moved length ⊢
  generalize s.lineSealed st p = sealed at moved ⊢
  have fusion := putLine_onlyFusion { s with served := v } n q bs sealed
  have read := readLoc_putLine (s := { s with served := v }) (w := n) (bs := bs) (form := sealed) sound h.home (by omega)
  have form := putLine_formOf (s := { s with served := v }) (w := n) (bs := bs) (form := sealed) h.home (x := q)
  have out := fun a => putLine_out (s := { s with served := v }) (w := n) (bs := bs) (form := sealed) sound h.home (a := a)
  rw [length] at read form out
  generalize ({ s with served := v } : State).putLine n q bs sealed = u at moved fusion read form out
  have chan : (u.lineDone n c 64 0).ctxOf n = _ := modChan_ctxOf ..
  have maps : u.sameMaps (u.lineDone n c 64 0) := modChan_sameMaps u n c _
  have mem : (u.lineDone n c 64 0).mem = u.mem := rfl
  refine ⟨_, moved, (readLoc_congr (congrArg Memory.cells mem) maps h.home 64).trans read, fun kept => ?_, out, ?_⟩
  · rw [← form kept (by omega)]
    exact congrArg _ (formOf_congr (congrArg Memory.form mem) maps q.loc 64)
  · rw [chan, channel_modChannel_self, fusion.eng]
    refine ⟨rfl, fusion.regs n, st.lineMoved 64 0, ?_, lineMoved_whole h.whole 0⟩
    exact congrArg (Option.map _) h.stream

/-- Plaintext for a place that is not trusted ends the stream (R233, R236). -/
theorem moveLine_refused (h : s.cpyLine n c st p q) (plain : s.lineSealed st p = false) (untrusted : q.trusted = false) :
    ∃ t, s.moveLine n c = (t, true) ∧ s.sameMem t ∧ (t.ctxOf n).eng.channel c = { (s.ctxOf n).eng.channel c with
      state := 3, cause := BitVec.ofNat 8 tFORM, addr := s.lineTo n st, stream := none, publ := false, shadows := [] } := by
  obtain ⟨v, noted⟩ := noteServed_eq s n p.loc 64 false
  have moved := moveLine_cpy h
  rw [if_pos (by simp [plain, untrusted]), noted] at moved
  exact ⟨_, moved, fun _ => rfl, failStream_channel ..⟩

end Line

end Sys2Proof.Machine
end

section
/-!
PROOFS. The lines of one event of the copy engine, over its channels in turn (R223), and the ends of streams
(`Obligations.StreamAndCipherEvents`).
-/

namespace Sys2Proof.Machine

/-! ### What the copy engine leaves of the spindles -/

/-- The registers of every spindle stay, and so does the mark that its engine has moved lines in this cycle. -/
structure State.steady (s t : State) : Prop where
  moved : ∀ m, (t.sp m).moved = (s.sp m).moved
  regs : ∀ m, (t.ctxOf m).regs = (s.ctxOf m).regs

section Steady
variable {s t u : State}

theorem State.steady.refl (s : State) : s.steady s := ⟨fun _ => rfl, fun _ => rfl⟩

theorem State.steady.trans (h : s.steady t) (k : t.steady u) : s.steady u :=
  ⟨fun m => (k.moved m).trans (h.moved m), fun m => (k.regs m).trans (h.regs m)⟩

theorem State.onlyFusion.steady (h : s.onlyFusion t) : s.steady t := ⟨h.moved, h.regs⟩

theorem steady_of_spindles (same : t.spindles = s.spindles) : s.steady t := (onlyFusion_of_spindles same).steady

theorem steady_ite {c : Prop} [Decidable c] (ht : s.steady t) (hu : s.steady u) : s.steady (if c then t else u) := by
  split
  · exact ht
  · exact hu

/-- The same of a state with an answer. -/
theorem steady_fst_ite {c : Prop} [Decidable c] {x y : State × Bool} (hx : s.steady x.1) (hy : s.steady y.1) :
    s.steady (if c then x else y).1 := by
  split
  · exact hx
  · exact hy

theorem steady_foldl {α : Type} {f : State → α → State} (l : List α) (hf : ∀ t x, State.steady t (f t x)) (s : State) :
    s.steady (l.foldl f s) :=
  List.foldlRecOn l f (.refl s) fun _ h x _ => h.trans (hf _ x)

theorem steady_modSp (s : State) (n : Nat) {f : Spindle → Spindle} (hf : ∀ x, (f x).moved = x.moved ∧ (f x).ctx.regs = x.ctx.regs) :
    s.steady (s.modSp n f) := by
  have key (m : Nat) : ((s.modSp n f).sp m).moved = (s.sp m).moved ∧ ((s.modSp n f).sp m).ctx.regs = (s.sp m).ctx.regs := by
    by_cases own : m = n
    · subst own
      rw [sp_modSp]
      exact hf _
    · rw [sp_modSp_ne _ own]
      exact ⟨rfl, rfl⟩
  exact ⟨fun m => (key m).1, fun m => (key m).2⟩

theorem steady_modCtx (s : State) (n : Nat) {f : Ctx → Ctx} (hf : ∀ x, (f x).regs = x.regs) : s.steady (s.modCtx n f) :=
  steady_modSp s n fun x => ⟨rfl, hf x.ctx⟩

theorem steady_modChan (s : State) (n c : Nat) (f : Channel → Channel) : s.steady (s.modChan n c f) := steady_modCtx s n fun _ => rfl

theorem steady_askBlocks (s : State) (n : Nat) (bs : List Nat) : s.steady (s.askBlocks n bs) :=
  steady_foldl bs (fun t b => steady_modSp t n fun x => by split <;> exact ⟨rfl, rfl⟩) s

theorem steady_askWalk (s : State) (die p o : Nat) : s.steady (s.askWalk die p o) := by
  unfold State.askWalk
  exact steady_ite (.refl s) (steady_of_spindles rfl)

theorem steady_failStream (s : State) (n c code : Nat) (a : Word) : s.steady (s.failStream n c code a) :=
  State.steady.trans (steady_of_spindles (t := s.clearWalks n) rfl) (steady_modChan _ n c _)

theorem steady_lineDone (s : State) (n c len : Nat) (fl : BitVec 9) : s.steady (s.lineDone n c len fl) := steady_modChan ..

theorem choose_eq (s : State) (k : Nat) : ∃ v, (s.choose k).2 = { s with free := v } := by
  unfold State.choose
  split
  · exact ⟨s.free, rfl⟩
  · exact ⟨_, rfl⟩

theorem steady_choose (s : State) (k : Nat) : s.steady (s.choose k).2 := by
  obtain ⟨v, chosen⟩ := choose_eq s k
  rw [chosen]
  exact steady_of_spindles rfl

theorem steady_readLoc (s : State) (l : Loc) (len : Nat) : s.steady (s.readLoc l len).2 := by
  cases l with
  | slice n off => exact .refl s
  | phys pa => exact .refl s
  | host a => exact steady_of_spindles rfl
  | far m off => exact steady_of_spindles rfl

theorem steady_noteServed (s : State) (w : Nat) (l : Loc) (len : Nat) (wr : Bool) : s.steady (s.noteServed w l len wr) := by
  obtain ⟨v, noted⟩ := noteServed_eq s w l len wr
  rw [noted]
  exact steady_of_spindles rfl

theorem steady_farFails (s : State) (p q : Place) : s.steady (s.farFails p q).2 := by
  unfold State.farFails
  split
  · exact steady_choose s 3
  · split
    · exact steady_choose s 2
    · exact .refl s

/-- A read of a tile in the course of a routine notes what has been seen of it. -/
theorem steady_outerRead (s : State) (m off len : Nat) : s.steady (s.outerRead m off len).2 := by
  unfold State.outerRead
  split
  · exact .refl s
  · split
    · exact .refl s
    · refine List.foldlRecOn (motive := fun x : List Byte × State => s.steady x.2) _ _ (.refl s) fun x h i _ => ?_
      dsimp only
      exact State.steady.trans (State.steady.trans h (steady_choose x.2 _)) (steady_modCtx _ m fun _ => rfl)

theorem steady_homeRead (s : State) (l : Loc) (len : Nat) : s.steady (s.homeRead l len).2.2 := by
  unfold State.homeRead
  split
  · exact steady_readLoc s l len
  · split
    · exact steady_outerRead ..
    · exact .refl s

theorem steady_streamPut (s : State) (n c : Nat) (a : Word) (p : Place) (bs : List Byte) (form : Bool) (fl : BitVec 9) :
    s.steady (s.streamPut n c a p bs form fl) := by
  unfold State.streamPut
  dsimp only
  split
  · refine State.steady.trans ?_ (steady_lineDone _ n c _ fl)
    refine State.steady.trans ?_ (steady_modChan _ n c _)
    exact steady_of_spindles rfl
  · exact State.steady.trans (putLine_onlyFusion s n p bs form).steady (steady_lineDone _ n c _ fl)

/-- Bytes that are not reached have at most asked for blocks or a walk. -/
def LineReach.steady (s : State) : LineReach → Prop
  | .wait t => s.steady t
  | _ => True

theorem reach_ite {c : Prop} [Decidable c] {x y : LineReach} (hx : x.steady s) (hy : y.steady s) : (if c then x else y).steady s := by
  split
  · exact hx
  · exact hy

theorem lineSlice_steady (s : State) (n m off len : Nat) (wr trusted : Bool) : (s.lineSlice n m off len wr trusted).steady s :=
  reach_ite trivial (reach_ite (steady_askBlocks s m _) (reach_ite (.refl s) trivial))

theorem lineReach_steady (s : State) (n : Nat) (a : Word) (len : Nat) (wr : Bool) : (s.lineReach n a len wr).steady s := by
  have waits {c : Prop} [Decidable c] {p : Place} : (if c then LineReach.wait s else .at_ p).steady s := reach_ite (.refl s) trivial
  unfold State.lineReach
  dsimp only
  cases s.aim (s.ctxOf n) a.toNat with
  | bad => trivial
  | own off => exact lineSlice_steady s n n off len wr true
  | remote m off => exact lineSlice_steady s n m off len wr true
  | global o =>
    dsimp only
    cases s.xlate (dieOf n) (s.ctxOf n).partN o wr (s.ctxOf n).ctl.strict with
    | miss => exact steady_askWalk ..
    | fault => trivial
    | hit l e => cases l <;> exact waits
  | cluster m off =>
    refine reach_ite trivial (reach_ite (reach_ite trivial trivial) ?_)
    cases s.farPlace (s.farPart (s.ctxOf n).partN m) off wr with
    | none => trivial
    | some l =>
      cases l with
      | slice k o => exact reach_ite (steady_askBlocks s k _) waits
      | _ => exact waits

theorem steady_of_wait {n len : Nat} {a : Word} {wr : Bool} (wait : s.lineReach n a len wr = .wait t) : s.steady t := by
  have steady := lineReach_steady s n a len wr
  rwa [wait] at steady

/-! ### The lines of one event (R223) -/

theorem steady_moveLine (s : State) (n c : Nat) : s.steady (s.moveLine n c).1 := by
  unfold State.moveLine
  dsimp only
  split
  · exact .refl s
  next st stream =>
  refine steady_fst_ite (.refl s) (steady_fst_ite (steady_askBlocks ..) (steady_fst_ite (.refl s) (steady_fst_ite (steady_failStream ..)
    (steady_fst_ite (steady_failStream ..) ?_))))
  obtain ⟨u, indexed, noted⟩ : ∃ u, (if st.indexed && st.done % st.lines == 0 then
      s.modChan n c fun ch => { ch with stream := some { st with ix := s.idxEntry n st (st.done / st.lines) } } else s) = u
      ∧ s.steady u :=
    ⟨_, rfl, steady_ite (steady_modChan ..) (.refl s)⟩
  rw [indexed]
  refine noted.trans ?_
  refine steady_fst_ite (.refl u) ?_
  split
  · next wait => exact steady_of_wait wait
  · exact steady_failStream ..
  split
  · next wait => exact steady_of_wait wait
  · exact steady_failStream ..
  next p _ _ q _ =>
  generalize (if st.kind == .bdrain then st.readLen else 64) = rl
  refine State.steady.trans ((steady_noteServed u n p.loc rl false).trans (steady_farFails _ p q)) ?_
  generalize ((u.noteServed n p.loc rl false).farFails p q).2 = v
  refine steady_fst_ite (steady_failStream ..) (steady_fst_ite (steady_failStream ..) (steady_fst_ite (steady_failStream ..)
    (steady_fst_ite (steady_fst_ite (steady_failStream ..) ?coll) (steady_fst_ite (steady_failStream ..) (steady_fst_ite ?drain ?copy)))))
  case coll =>
    refine State.steady.trans ?_ (steady_lineDone _ n c _ _)
    exact ((steady_homeRead v p.loc _).trans (steady_readLoc _ q.loc _)).trans (putLine_onlyFusion _ n q _ false).steady
  case drain => exact steady_streamPut ..
  case copy => exact (steady_homeRead v p.loc 64).trans (steady_streamPut ..)

/-- The engine turns to the next channel (R223). -/
def State.turned (s : State) (n : Nat) : State :=
  s.modCtx n fun x => { x with eng := { x.eng with rot := ((s.ctxOf n).eng.rot % 8 + 1) % 8 } }

theorem steady_moveLines (n fuel budget idle : Nat) (s : State) : s.steady (s.moveLines n fuel budget idle) := by
  induction fuel generalizing s budget idle with
  | zero => exact .refl s
  | succ fuel ih =>
    cases budget with
    | zero => exact .refl s
    | succ budget =>
      rw [State.moveLines]
      have turned : s.steady (s.turned n) := steady_modCtx s n fun _ => rfl
      refine steady_ite (.refl s) (steady_ite ?_ (turned.trans (ih ..)))
      exact steady_ite ((turned.trans (steady_moveLine ..)).trans (ih ..)) ((turned.trans (steady_moveLine ..)).trans (ih ..))

end Steady

section Moves
variable {s : State} {n : Nat}

theorem exec_streamLineMove_done (done : (s.sp n).moved = true) : exec (.streamLineMove n) s = .next s := by
  show Host.Outcome.next (s.streamMoves n) = _
  rw [State.streamMoves, if_pos done]

/-- One event moves at most one to four lines (log 1). -/
theorem exec_streamLineMove (idle : (s.sp n).moved = false) (there : s.missingOf n [3] = []) : ∃ k f, 1 ≤ k ∧ k ≤ 4
    ∧ exec (.streamLineMove n) s = .next ((({ s with free := f }).modSp n fun sp => { sp with moved := true }).moveLines n 64 k 0) := by
  have chosen : s.choose 4 = (Config.freeNat s.free % 4, { s with free := s.free + 1 }) := if_neg (by decide)
  refine ⟨Config.freeNat s.free % 4 + 1, s.free + 1, by omega, by omega, ?_⟩
  show Host.Outcome.next (s.streamMoves n) = _
  rw [State.streamMoves, if_neg (by simp [idle]), if_neg (by simp [there]), chosen]

theorem moveLines_noBudget (fuel idle : Nat) : s.moveLines n fuel 0 idle = s := by cases fuel <;> rfl

theorem moveLines_allIdle {idle : Nat} (all : 8 ≤ idle) (fuel k : Nat) : s.moveLines n fuel k idle = s := by
  cases fuel with
  | zero => rfl
  | succ fuel =>
    cases k with
    | zero => rfl
    | succ k => rw [State.moveLines, if_pos all]

/-- The turn of a channel: a line, if one can move. -/
theorem moveLines_turn {idle : Nat} (some_ : idle < 8) (fuel k : Nat) : s.moveLines n (fuel + 1) (k + 1) idle =
    if s.streamGoes n ((s.ctxOf n).eng.channel ((s.ctxOf n).eng.rot % 8)) then
      if ((s.turned n).moveLine n ((s.ctxOf n).eng.rot % 8)).2 then
        ((s.turned n).moveLine n ((s.ctxOf n).eng.rot % 8)).1.moveLines n fuel k 0
      else ((s.turned n).moveLine n ((s.ctxOf n).eng.rot % 8)).1.moveLines n fuel (k + 1) (idle + 1)
    else (s.turned n).moveLines n fuel (k + 1) (idle + 1) := by
  have goes (ch : Channel) : (s.turned n).streamGoes n ch = s.streamGoes n ch := by
    unfold State.streamGoes
    rw [State.turned, State.modCtx, sp_modSp]
  have same (i : Nat) : ((s.turned n).ctxOf n).eng.channel i = (s.ctxOf n).eng.channel i := by
    rw [State.turned, modCtx_self]
    rfl
  rw [State.moveLines, if_neg (Nat.not_le_of_lt some_)]
  show (if (s.turned n).streamGoes n (((s.turned n).ctxOf n).eng.channel ((s.ctxOf n).eng.rot % 8)) then _ else _) = _
  rw [goes, same]
  rfl

end Moves

/-! ### Flags of an engine (R136) -/

section Flags
variable (c : Ctx)

theorem flagLater_eng (runs : Bool) (f : BitVec 9) : (c.flagLater runs f).eng = c.eng := by
  unfold Ctx.flagLater
  split
  · rfl
  · split <;> rfl

theorem flagLater_running {f : BitVec 9} (some_ : f ≠ 0) :
    c.flagLater true f = { c with pipe := c.pipe ++ [{ left := 1, lands := [.flags f] }] } := by
  rw [Ctx.flagLater, if_neg some_, if_pos rfl]

theorem flagLater_now {runs : Bool} {f : BitVec 9} (now : runs = false ∨ f = 0) :
    (c.flagLater runs f).ctl.fstat = c.ctl.fstat ||| f ∧ (c.flagLater runs f).pipe = c.pipe := by
  by_cases none_ : f = 0
  · rw [Ctx.flagLater, if_pos none_, none_]
    exact ⟨(BitVec.or_zero).symm, rfl⟩
  · rw [Ctx.flagLater, if_neg none_, now.resolve_right none_]
    exact ⟨rfl, rfl⟩

end Flags

/-! ### The end of a stream (R217, R229) -/

/-- A channel changes with the flags of its stream set: at the end of the cycle for a context that runs. -/
def State.flagged (s : State) (n c : Nat) (fl : BitVec 9) (f : Channel → Channel) : State :=
  (s.modCtx n fun x => x.flagLater ((s.sp n).run == .running) fl).modChan n c f

section Ends
variable {s : State} {n c : Nat} {st : Stream}

theorem flagged_ctxOf (fl : BitVec 9) (f : Channel → Channel) : (s.flagged n c fl f).ctxOf n =
    { (s.ctxOf n).flagLater ((s.sp n).run == .running) fl with eng := (s.ctxOf n).eng.modChannel c f } := by
  rw [State.flagged, modChan_ctxOf, modCtx_self, flagLater_eng]

theorem flagged_channel (fl : BitVec 9) (f : Channel → Channel) :
    ((s.flagged n c fl f).ctxOf n).eng.channel c = f ((s.ctxOf n).eng.channel c) := by
  rw [flagged_ctxOf]
  exact channel_modChannel_self ..

theorem exec_streamComplete (stream : ((s.ctxOf n).eng.channel c).stream = some st) (done : st.total ≤ st.done)
    (alone : ((s.ctxOf n).eng.channel c).publ = false ∨ ((s.ctxOf n).eng.channel c).shadows = []) :
    exec (.streamComplete n c) s = .next (s.flagged n c st.flags fun ch =>
      { ch with stream := none, publ := false, state := if ch.shadows.isEmpty then 0 else 2 }) := by
  have ends : (decide (st.total ≤ st.done)
      && !(((s.ctxOf n).eng.channel c).publ && !((s.ctxOf n).eng.channel c).shadows.isEmpty)) = true := by
    rcases alone with h | h <;> simp [h, done]
  show Host.Outcome.next (s.streamEnds n c) = _
  rw [State.streamEnds]
  simp only [stream, ends, if_true]
  rfl

/-- A strict stream at its deadline fails with OVERRUN; the address is free (log 22). -/
theorem exec_streamDeadlineExpiry (stream : ((s.ctxOf n).eng.channel c).stream = some st) (dated : st.dl ≠ 0)
    (late : st.dl ≤ st.bound) : exec (.streamDeadlineExpiry n c) s = .next (s.freeWord.2.failStream n c tOVERRUN s.freeWord.1) := by
  have due : (st.dl != 0 && decide (st.dl ≤ st.bound)) = true := by simp [dated, late]
  show Host.Outcome.next (s.deadline n c) = _
  rw [State.deadline]
  simp only [stream, due, if_true]

end Ends

end Sys2Proof.Machine
end

section
/-!
PROOFS. A publish: what the fill copies, and what the swap names (R225, R331) (`Obligations.StreamAndCipherEvents`).
-/

namespace Sys2Proof.Machine

/-! ### Bytes in memory -/

theorem ofBytesLE_bytesLE (v n : Nat) : ofBytesLE (bytesLE v n) = v % 256 ^ n := by
  induction n generalizing v with
  | zero => simp [bytesLE, ofBytesLE, Nat.mod_one]
  | succ n ih =>
    have low : v % 256 ^ (n + 1) = v % 256 + 256 * (v / 256 % 256 ^ n) := by rw [Nat.pow_succ', Nat.mod_mul]
    rw [bytesLE, ofBytesLE, ih, BitVec.toNat_ofNat, low]

theorem ofBytesLE_word (w : Word) : ofBytesLE (bytesLE w.toNat 8) = w.toNat := by
  rw [ofBytesLE_bytesLE]
  exact Nat.mod_eq_of_lt w.isLt

theorem Memory.read_write_apart {m : Memory} {a b n : Nat} {bs : List Byte} (wf : m.wf = true)
    (apart : b + n ≤ a ∨ a + bs.length ≤ b) : (m.write a bs).read b n = m.read b n :=
  List.map_congr_left fun i hi => cellGet_cellsWrite_out a (b + i) bs wf (by have := List.mem_range.1 hi; omega)

/-! ### The fill (R225, R232) -/

/-- One line with its bits and its tag. -/
def Memory.copyLine (m : Memory) (w src dst l : Nat) : Memory :=
  m.copyLines w src dst [l]

theorem copyLines_cons (m : Memory) (w src dst l : Nat) (ls : List Nat) :
    m.copyLines w src dst (l :: ls) = (m.copyLine w src dst l).copyLines w src dst ls := rfl

theorem copyLine_cells (m : Memory) (w src dst l : Nat) :
    (m.copyLine w src dst l).cells = cellsWrite m.cells (dst + 64 * l) (m.read (src + 64 * l) 64) := by
  rw [Memory.copyLine, Memory.copyLines]
  simp only [List.foldl_cons, List.foldl_nil]
  generalize m.read (src + 64 * l) 64 = bs
  have written : ((m.soften w (dst + 64 * l) bs).write (dst + 64 * l) bs).cells = cellsWrite m.cells (dst + 64 * l) bs := by
    rw [Memory.write_cells, soften_cells]
  cases m.poison.contains ((src + 64 * l) / 64) with
  | true => exact written
  | false => exact written

theorem copyLine_wf {m : Memory} (w src dst l : Nat) (wf : m.wf = true) : (m.copyLine w src dst l).wf = true :=
  Memory.copyLines_wf w src dst [l] wf

section Fill
variable {m : Memory} {w src dst size : Nat} {ls : List Nat}

/-- Copied lines are those of the source, where source and destination lie apart; nothing else changes. -/
theorem copyLines_get (wf : m.wf = true) (apart : src + size ≤ dst ∨ dst + size ≤ src) (within : ∀ l ∈ ls, 64 * l + 64 ≤ size)
    (a : Nat) :
    cellGet (m.copyLines w src dst ls).cells a =
      if dst ≤ a ∧ (a - dst) / 64 ∈ ls then cellGet m.cells (src + (a - dst)) else cellGet m.cells a := by
  induction ls generalizing m with
  | nil => simp [Memory.copyLines]
  | cons l ls ih =>
    have fits := within l List.mem_cons_self
    have once (b : Nat) : cellGet (m.copyLine w src dst l).cells b =
        if dst ≤ b ∧ (b - dst) / 64 = l then cellGet m.cells (src + (b - dst)) else cellGet m.cells b := by
      rw [copyLine_cells, cellGet_cellsWrite wf]
      have length : (m.read (src + 64 * l) 64).length = 64 := by simp [Memory.read, cellsRead]
      by_cases here : dst ≤ b ∧ (b - dst) / 64 = l
      · rw [if_pos here, if_pos (by omega), List.getD_eq_getElem _ _ (by omega)]
        simp only [Memory.read, cellsRead, List.getElem_map, List.getElem_range]
        congr 1
        omega
      · rw [if_neg here, if_neg (by omega)]
    have source (listed : (a - dst) / 64 ∈ ls) :
        cellGet (m.copyLine w src dst l).cells (src + (a - dst)) = cellGet m.cells (src + (a - dst)) := by
      have fits := within _ (List.mem_cons_of_mem _ listed)
      rw [once, if_neg (by omega)]
    rw [copyLines_cons, ih (copyLine_wf w src dst l wf) fun k hk => within k (List.mem_cons_of_mem _ hk)]
    by_cases listed : dst ≤ a ∧ (a - dst) / 64 ∈ ls
    · rw [if_pos listed, if_pos ⟨listed.1, List.mem_cons_of_mem _ listed.2⟩, source listed.2]
    rw [if_neg listed, once]
    by_cases first : dst ≤ a ∧ (a - dst) / 64 = l
    · rw [if_pos first, if_pos ⟨first.1, first.2 ▸ List.mem_cons_self⟩]
    · have unlisted : ¬ (dst ≤ a ∧ (a - dst) / 64 ∈ l :: ls) := fun ⟨low, mem⟩ =>
        (List.mem_cons.1 mem).elim (fun e => first ⟨low, e⟩) fun e => listed ⟨low, e⟩
      rw [if_neg first, if_neg unlisted]

end Fill

section Publish
variable {s : State} {n c p : Nat}

theorem fill_eq (s : State) (n p : Nat) (x : Shadow) : ∃ m, s.fill n p x = { s with mem := m } := by
  unfold State.fill
  split
  · exact ⟨_, rfl⟩
  · exact ⟨s.mem, rfl⟩

theorem fill_ctxOf (s : State) (n p m : Nat) (x : Shadow) : (s.fill n p x).ctxOf m = s.ctxOf m := by
  obtain ⟨v, filled⟩ := fill_eq s n p x
  rw [filled]
  rfl

theorem fill_sound (sound : s.sound) (x : Shadow) : (s.fill n p x).sound := by
  unfold State.fill
  split
  · exact Memory.copyLines_wf _ _ _ _ sound
  · exact sound

/-- The lines of a mapped storage that its shadow misses. -/
def Shadow.missed (x : Shadow) (size : Nat) : List Nat := (List.range (size / 64)).filter fun l => !x.lines.contains l

theorem mem_missed {x : Shadow} {size l : Nat} : l ∈ x.missed size ↔ l < size / 64 ∧ l ∉ x.lines := by
  simp [Shadow.missed]

section Page
variable {o pa pool : Nat} {ls : List Nat} {l : LeafAt}

theorem fill_page (leaf : s.pageLeaf p o = some l) : (s.fill n p ⟨.page o pa pool, ls⟩).mem =
    s.mem.copyLines n (leafAddr l.entry) pa (Shadow.missed ⟨.page o pa pool, ls⟩ (2 ^ 21)) := by
  rw [State.fill, State.shadowSpan]
  simp only [leaf, Option.map_some, State.modMem, Shadow.missed]

variable (sound : s.sound) (leaf : s.pageLeaf p o = some l)
  (apart : leafAddr l.entry + 2 ^ 21 ≤ pa ∨ pa + 2 ^ 21 ≤ leafAddr l.entry)
include sound leaf apart

theorem fill_page_get (a : Nat) : cellGet (s.fill n p ⟨.page o pa pool, ls⟩).mem.cells a =
    if pa ≤ a ∧ (a - pa) / 64 ∈ Shadow.missed ⟨.page o pa pool, ls⟩ (2 ^ 21) then
      cellGet s.mem.cells (leafAddr l.entry + (a - pa))
    else cellGet s.mem.cells a := by
  rw [fill_page leaf]
  refine copyLines_get sound apart (fun k hk => ?_) a
  have listed := (mem_missed.1 hk).1
  omega

/-- A byte of the shadow page is the stream's where it wrote the line, and the page's elsewhere. -/
theorem fill_page_inside {i : Nat} (hi : i < 2 ^ 21) : cellGet (s.fill n p ⟨.page o pa pool, ls⟩).mem.cells (pa + i) =
    if ls.contains (i / 64) then cellGet s.mem.cells (pa + i) else cellGet s.mem.cells (leafAddr l.entry + i) := by
  have missed : (pa ≤ pa + i ∧ i / 64 ∈ Shadow.missed ⟨.page o pa pool, ls⟩ (2 ^ 21)) ↔ ls.contains (i / 64) = false := by
    rw [mem_missed, Bool.eq_false_iff, Ne, List.contains_iff_mem]
    exact ⟨fun h => h.2.2, fun h => ⟨by omega, by omega, h⟩⟩
  rw [fill_page_get sound leaf apart, Nat.add_sub_cancel_left]
  cases written : ls.contains (i / 64) with
  | true => rw [if_pos rfl, if_neg (by rw [missed, written]; decide)]
  | false => rw [if_pos (missed.2 written), if_neg Bool.false_ne_true]

theorem fill_page_outside {a : Nat} (out : a < pa ∨ pa + 2 ^ 21 ≤ a) :
    cellGet (s.fill n p ⟨.page o pa pool, ls⟩).mem.cells a = cellGet s.mem.cells a := by
  rw [fill_page_get sound leaf apart, if_neg]
  rintro ⟨low, missed⟩
  have listed := (mem_missed.1 missed).1
  omega

end Page

/-! ### The swap (R188, R331) -/

theorem swap_block (s : State) (p m lb pb : Nat) (ls : List Nat) : s.swap p ⟨.block m lb pb, ls⟩ =
    s.modCtx m fun c => { c with eng := { c.eng with
      bmap := c.eng.bmap.set (lb % 256) (BitVec.ofNat 9 pb) (Nat.mod_lt _ (by decide)) } } := rfl

theorem redirect_spindles (s : State) (p old new : Nat) : (s.redirect p old new).spindles = s.spindles := rfl
theorem redirect_mem (s : State) (p old new : Nat) : (s.redirect p old new).mem = s.mem := rfl
theorem redirect_msgs (s : State) (m : Memory) (h : List Held) (p old new : Nat) :
    (({ s with mem := m, held := h } : State).redirect p old new).msgs = (s.redirect p old new).msgs := rfl

theorem swap_page_spindles (s : State) (p o pa pool : Nat) (ls : List Nat) :
    (s.swap p ⟨.page o pa pool, ls⟩).spindles = s.spindles := by
  rw [State.swap]
  dsimp only
  cases s.pageLeaf p o with
  | none => rfl
  | some l => simp only [redirect_spindles, modMem_spindles]

theorem swap_page_ctxOf (s : State) (p o pa pool : Nat) (ls : List Nat) (m : Nat) :
    (s.swap p ⟨.page o pa pool, ls⟩).ctxOf m = s.ctxOf m := by
  rw [State.ctxOf, State.sp, swap_page_spindles]
  rfl

section PageSwap
variable {o pa pool : Nat} {ls : List Nat} {v : LeafAt}

/-- The entry that the pool keeps for a shadow page. -/
def State.poolEntry (s : State) (pool : Nat) : Word := BitVec.ofNat 64 (ofBytesLE (s.mem.read pool 8))

theorem swap_page_mem (leaf : s.pageLeaf p o = some v) : (s.swap p ⟨.page o pa pool, ls⟩).mem =
    (s.mem.write v.key (bytesLE (withAddr v.entry (s.poolEntry pool)).toNat 8)).write pool
      (bytesLE (withAddr (s.poolEntry pool) v.entry).toNat 8) := by
  rw [State.swap]
  simp only [leaf, redirect_mem, State.modMem, State.poolEntry]

theorem swap_page_msgs (leaf : s.pageLeaf p o = some v) : (s.swap p ⟨.page o pa pool, ls⟩).msgs =
    (s.redirect p (leafAddr v.entry) (leafAddr (s.poolEntry pool))).msgs := by
  rw [State.swap]
  simp only [leaf, State.poolEntry, State.modMem, redirect_msgs]

variable (sound : s.sound) (leaf : s.pageLeaf p o = some v)
include sound leaf

/-- The entries of the page and of the pool change places. -/
theorem swap_page_entries (apart : v.key + 8 ≤ pool ∨ pool + 8 ≤ v.key) :
    ofBytesLE ((s.swap p ⟨.page o pa pool, ls⟩).mem.read v.key 8) = (withAddr v.entry (s.poolEntry pool)).toNat
    ∧ ofBytesLE ((s.swap p ⟨.page o pa pool, ls⟩).mem.read pool 8) = (withAddr (s.poolEntry pool) v.entry).toNat := by
  have length (w : Word) : (bytesLE w.toNat 8).length = 8 := bytesLE_length ..
  have own {m : Memory} (wf : m.wf = true) (a : Nat) (w : Word) : ofBytesLE ((m.write a (bytesLE w.toNat 8)).read a 8) = w.toNat := by
    have read := Memory.read_write a (bytesLE w.toNat 8) wf
    rw [length] at read
    rw [read, ofBytesLE_word]
  have first := Memory.write_wf v.key (bytesLE (withAddr v.entry (s.poolEntry pool)).toNat 8) sound
  rw [swap_page_mem leaf]
  refine ⟨?_, own first pool _⟩
  rw [Memory.read_write_apart first (by rw [length]; exact apart)]
  exact own sound v.key _

theorem swap_page_out {a : Nat} (page : a < v.key ∨ v.key + 8 ≤ a) (entry : a < pool ∨ pool + 8 ≤ a) :
    cellGet (s.swap p ⟨.page o pa pool, ls⟩).mem.cells a = cellGet s.mem.cells a := by
  have length (w : Word) : (bytesLE w.toNat 8).length = 8 := bytesLE_length ..
  rw [swap_page_mem leaf, Memory.write_cells,
    cellGet_cellsWrite_out _ _ _ (Memory.write_wf v.key _ sound) (by rw [length]; exact entry), Memory.write_cells,
    cellGet_cellsWrite_out _ _ _ sound (by rw [length]; exact page)]

end PageSwap

/-! ### The event (R225) -/

/-- The flags of the stream behind which a publish was queued. -/
def Channel.streamFlags (ch : Channel) : BitVec 9 := match ch.stream with | some st => st.flags | none => 0

/-- A publish of one shadow: the fill, the swap, and the flags of its stream. -/
theorem exec_publishSwap {x : Shadow} (may : s.mayPublish n c = true) (one : ((s.ctxOf n).eng.channel c).shadows = [x])
    (there : s.missingOf n [3] = []) (fills : s.fillMiss x = []) : exec (.publishSwap n c) s = .next
      (((s.fill n (s.ctxOf n).partN x).swap (s.ctxOf n).partN x).flagged n c ((s.ctxOf n).eng.channel c).streamFlags fun ch =>
        { ch with state := 0, stream := none, publ := false, shadows := [] }) := by
  show Host.Outcome.next (s.publish n c) = _
  rw [State.publish]
  simp only [may, one, there, fills, List.map_nil, List.flatMap_cons, List.flatMap_nil, List.append_nil, List.isEmpty_nil, Bool.not_true,
    Bool.false_eq_true, if_false, List.foldl_cons, List.foldl_nil]
  rfl

end Publish

end Sys2Proof.Machine
end

section
/-!
PROOFS. A chunk of the cipher engine (R233 to R236, R369) and the end of a PERSIST (R232) (`Obligations.StreamAndCipherEvents`).
-/

namespace Sys2Proof.Machine

section Cipher
variable {s : State} {n : Nat} {cy : Cipher} {p q : Place} {a b : Word}

/-! ### The key of a command (R234, R369) -/

/-- The slot of a command still holds the command's key. -/
def PartTrust.holds (t : PartTrust) (cy : Cipher) : Prop :=
  (tget {} cy.ks t.keys).key.isSome = true ∧ (tget {} cy.ks t.keys).gen = cy.gen

theorem takeIv_held {t : PartTrust} (held : t.holds cy) : t.takeIv cy = ((tget {} cy.ks t.keys).iv,
    { t with keys := tput cy.ks { tget {} cy.ks t.keys with iv := (tget {} cy.ks t.keys).iv + 1 } t.keys }) :=
  if_pos ((Bool.and_eq_true ..).mpr ⟨held.1, decide_eq_true held.2⟩)

theorem takeIv_old {t : PartTrust} (gone : ¬ t.holds cy) : t.takeIv cy = (tget 0 cy.gen t.olds,
    { t with olds := tput cy.gen (tget 0 cy.gen t.olds + 1) t.olds }) :=
  if_neg fun both => gone ⟨((Bool.and_eq_true ..).mp both).1, of_decide_eq_true ((Bool.and_eq_true ..).mp both).2⟩

/-! ### What a chunk becomes (R234, R235) -/

/-- A chunk at places of the module, in the form that its command converts from, with no poisoned line. -/
structure State.chunkAt (s : State) (cy : Cipher) (p q : Place) : Prop where
  text : s.quietAt p.loc
  entry : s.quietAt q.loc
  clean : s.mem.poisonIn (s.keyOf p.loc) 4096 = none
  form : ∀ l ∈ linesOf (s.keyOf p.loc) 4096, (p.kept && s.mem.form.contains l) = cy.isOpen

/-- The text of a sealed chunk, if its record matches (R234). -/
def State.opened (s : State) (n : Nat) (key : List Byte) (p q : Place) : Option (List Byte) :=
  gcmOpen key ((s.readLoc q.loc 32).1.take 12) (bytesLE (s.ctxOf n).partN 8) (s.readLoc p.loc 4096).1 ((s.readLoc q.loc 32).1.drop 16)

/-- The IV of a SEAL's chunk, the ciphertext with its tag, and the state with the IV taken (R234, R369). -/
def State.invocation (s : State) (n : Nat) (cy : Cipher) : List Byte :=
  ivOf (s.ctxOf n).partN cy.ks ((s.part (s.ctxOf n).partN).trust.takeIv cy).1
def State.sealedText (s : State) (n : Nat) (cy : Cipher) (key : List Byte) (p : Place) : List Byte × List Byte :=
  gcmSeal key (s.invocation n cy) (bytesLE (s.ctxOf n).partN 8) (s.readLoc p.loc 4096).1
def State.tookIv (s : State) (n : Nat) (cy : Cipher) : State :=
  s.modTrust (s.ctxOf n).partN fun _ => ((s.part (s.ctxOf n).partN).trust.takeIv cy).2

section Convert
variable (at_ : s.chunkAt cy p q)
include at_

theorem chunkAt_rightForm :
    ((linesOf (s.keyOf p.loc) 4096).find? fun l => (p.kept && s.mem.form.contains l) != cy.isOpen) = none :=
  List.find?_eq_none.2 fun l hl => by rw [at_.form l hl, bne_self_eq_false]; exact Bool.false_ne_true

theorem cipherConvert_keyless (none_ : cy.key = none) : s.cipherConvert n cy a b p q = (.error (tFORM, a), s) := by
  unfold State.cipherConvert
  simp only [at_.clean, chunkAt_rightForm at_, none_]

section Keyed
variable {key : List Byte} (keyed : cy.key = some key)
include keyed

section Open
variable (opens : cy.isOpen = true) (clean : s.linePoison q 32 = false)
include opens clean

theorem cipherConvert_opens {pt : List Byte} (right : s.opened n key p q = some pt) :
    s.cipherConvert n cy a b p q = (.ok (pt, []), s) := by
  unfold State.opened at right
  unfold State.cipherConvert
  simp only [at_.clean, chunkAt_rightForm at_, keyed]
  simp only [homeRead_quiet at_.text, homeRead_quiet at_.entry, opens, clean, if_true, Bool.false_eq_true, if_false, right]

theorem cipherConvert_forged (wrong : s.opened n key p q = none) : s.cipherConvert n cy a b p q = (.error (tFORM, a), s) := by
  unfold State.opened at wrong
  unfold State.cipherConvert
  simp only [at_.clean, chunkAt_rightForm at_, keyed]
  simp only [homeRead_quiet at_.text, homeRead_quiet at_.entry, opens, clean, if_true, Bool.false_eq_true, if_false, wrong]

end Open

section Seal
variable (seals : cy.isOpen = false)
include seals

theorem cipherConvert_spent (spent : 0x100000000 ≤ ((s.part (s.ctxOf n).partN).trust.takeIv cy).1.toNat) :
    s.cipherConvert n cy a b p q = (.error (tFORM, a), s) := by
  unfold State.cipherConvert
  simp only [at_.clean, chunkAt_rightForm at_, keyed]
  simp only [homeRead_quiet at_.text, seals, Bool.false_eq_true, if_false, spent, if_true]

theorem cipherConvert_seals (fresh : ((s.part (s.ctxOf n).partN).trust.takeIv cy).1.toNat < 0x100000000) :
    s.cipherConvert n cy a b p q = (.ok ((s.sealedText n cy key p).1, s.invocation n cy ++ bytesLE 0 4 ++ (s.sealedText n cy key p).2),
      s.tookIv n cy) := by
  unfold State.cipherConvert
  simp only [at_.clean, chunkAt_rightForm at_, keyed]
  simp only [homeRead_quiet at_.text, seals, Bool.false_eq_true, if_false, Nat.not_le_of_lt fresh]
  rfl

end Seal

end Keyed
end Convert

/-! ### The event -/

/-- The bytes of the chunk that a command is at, and of its record. -/
def Cipher.at_ (cy : Cipher) : Word := cy.region + BitVec.ofNat 64 (4096 * cy.chunk)
def Cipher.entry (cy : Cipher) : Word := cy.tag + BitVec.ofNat 64 (32 * cy.chunk)

/-- The cipher engine is at the start of a chunk whose bytes it reaches, with nothing in its way (R228). -/
structure State.chunkReached (s : State) (n : Nat) (cy : Cipher) (p q : Place) : Prop where
  command : (s.ctxOf n).eng.cipher = some cy
  start : cy.line = 0
  goes : s.cipherGoes n = true
  there : s.missingOf n [3] = []
  free : s.barred n cy.seq (s.classAt (s.ctxOf n) cy.at_ false ||| s.classAt (s.ctxOf n) cy.at_ true
    ||| s.classAt (s.ctxOf n) cy.entry (!cy.isOpen)) = false
  text : s.lineReach n cy.at_ 4096 true = .at_ p
  record : s.lineReach n cy.entry 32 (!cy.isOpen) = .at_ q

theorem exec_cipher (h : s.chunkReached n cy p q) :
    exec (.cipherCommandComplete n) s = .next (s.cipherChunk n cy cy.at_ cy.entry p q) := by
  obtain ⟨command, start, goes, there, free, text, record⟩ := h
  unfold Cipher.at_ Cipher.entry at *
  show Host.Outcome.next (s.cipherStep n) = _
  rw [State.cipherStep, State.cipherAt]
  simp only [command, goes, free, there, text, record, Bool.not_true, Bool.or_false, Bool.false_eq_true, if_false, List.isEmpty_nil]

theorem tookIv_trust (s : State) (n : Nat) (cy : Cipher) :
    ((s.tookIv n cy).part (s.ctxOf n).partN).trust = ((s.part (s.ctxOf n).partN).trust.takeIv cy).2 := by
  rw [State.tookIv, part_modTrust_self]

section Chunk
variable {u : State} (start : cy.line = 0)
include start

theorem cipherChunk_fails {f : Nat × Word} (fails : s.cipherConvert n cy a b p q = (.error f, u)) :
    s.cipherChunk n cy a b p q = u.failCipher n f.1 f.2 := by
  rw [State.cipherChunk, State.cipherBytes, if_pos start]
  simp only [fails]

theorem cipherChunk_writes {bytes rec_ : List Byte} (writes : s.cipherConvert n cy a b p q = (.ok (bytes, rec_), u)) :
    s.cipherChunk n cy a b p q = (if cy.isOpen then u.putLine n p bytes (!cy.isOpen)
      else (u.putLine n p bytes (!cy.isOpen)).putLine n q rec_ false).cipherNext n cy := by
  have first : p.plus 0 = p := by simp [Place.plus]
  rw [State.cipherChunk, State.cipherBytes, if_pos start, start, Nat.mul_zero, first]
  simp only [writes, List.drop_zero]

end Chunk

theorem failCipher_eng (s : State) (n code : Nat) (a : Word) : ((s.failCipher n code a).ctxOf n).eng =
    { (s.ctxOf n).eng with cipher := none, cyFault := some (code, a) } := by
  rw [State.failCipher, modCtx_self]

/-- What a chunk that fails leaves. -/
theorem exec_cipher_fails {f : Nat × Word} (h : s.chunkReached n cy p q)
    (fails : s.cipherConvert n cy cy.at_ cy.entry p q = (.error f, s)) :
    ∃ t, exec (.cipherCommandComplete n) s = .next t ∧ s.sameMem t
      ∧ (t.ctxOf n).eng = { (s.ctxOf n).eng with cipher := none, cyFault := some f } := by
  refine ⟨_, exec_cipher h, ?_⟩
  rw [cipherChunk_fails h.start fails]
  exact ⟨fun _ => rfl, failCipher_eng ..⟩

/-- The command goes on with its next chunk, or is done. -/
theorem cipherNext_cipher (s : State) (n : Nat) (cy : Cipher) : ((s.cipherNext n cy).ctxOf n).eng.cipher =
    if cy.chunk < cy.n then some { cy with chunk := cy.chunk + 1, line := 0, text := [] } else none := by
  rw [State.cipherNext, modCtx_self]

end Cipher

/-! ### PERSIST (R232) -/

/-- The durable value of a byte comes before no write of the spindle. -/
theorem hardened_tail (w : Nat) (l : List (Nat × Byte)) : ∀ x ∈ (hardened w l).tail, x.1 ≠ w := by
  induction l with
  | nil => simp [hardened]
  | cons y l ih =>
    rw [hardened]
    split
    · exact ih
    · next none_ => exact fun x hx e => none_ (List.any_eq_true.2 ⟨x, hx, by simp [e]⟩)

theorem mem_harden {m : Memory} {w : Nat} {ks : List Nat} {e : Nat × List (Nat × Byte)} : e ∈ (m.harden w ks).soft ↔
    (∃ x ∈ m.soft, (if ks.contains x.1 then (x.1, hardened w x.2) else x) = e) ∧ 1 < e.2.length := by
  simp [Memory.harden]

/-- Of a byte that is covered no earlier value than the last write of the spindle can be left. -/
theorem harden_covered {m : Memory} {w : Nat} {ks : List Nat} {e : Nat × List (Nat × Byte)} (he : e ∈ (m.harden w ks).soft)
    (covered : e.1 ∈ ks) : ∀ x ∈ e.2.tail, x.1 ≠ w := by
  obtain ⟨⟨x, -, rfl⟩, -⟩ := mem_harden.1 he
  by_cases listed : ks.contains x.1 = true
  · rw [if_pos listed]
    exact hardened_tail w x.2
  · rw [if_neg listed] at covered
    exact absurd (List.contains_iff_mem.2 covered) listed

/-- A byte that is not covered keeps its values. -/
theorem harden_other {m : Memory} {w : Nat} {ks : List Nat} {e : Nat × List (Nat × Byte)} (other : e.1 ∉ ks)
    (some_ : 1 < e.2.length) : e ∈ (m.harden w ks).soft ↔ e ∈ m.soft := by
  rw [mem_harden]
  constructor
  · rintro ⟨⟨x, hx, rfl⟩, -⟩
    split at other
    · next covered => exact absurd (List.contains_iff_mem.1 covered) other
    · next plain => rwa [if_neg plain]
  · exact fun he => ⟨⟨e, he, if_neg (by simpa using other)⟩, some_⟩

section Persist
variable {s : State} {n a len : Nat} (asked : (s.ctxOf n).persist = .asked a len)
include asked

theorem exec_persistenceReached_waits (held : s.hostHeld n = true) : exec (.persistenceReached n) s = .next s := by
  show Host.Outcome.next (s.persistReached n) = _
  rw [State.persistReached]
  simp only [asked, held, if_true]

theorem exec_persistenceReached (free : s.hostHeld n = false) : exec (.persistenceReached n) s = .next
    ((s.modMem fun m => m.harden n (s.persistCovers n (s.ctxOf n) a len)).modCtx n fun c => { c with persist := .reached }) := by
  show Host.Outcome.next (s.persistReached n) = _
  rw [State.persistReached]
  simp only [asked, free, Bool.false_eq_true, if_false]

end Persist

end Sys2Proof.Machine

open Sys2Proof Sys2Proof.Machine

/-- Settles O37: a line by `State.cpyLine`, a chunk by `State.chunkReached`, and one lemma for each other event. -/
theorem streamAndCipherEvents : Obligations.StreamAndCipherEvents := by
  unfold Obligations.StreamAndCipherEvents
  intro n c s eng ch inside keyAt
  have key (l : Loc) (i : Nat) : keyAt l i = s.byteKey l i := by cases l <;> rfl
  refine ⟨?line, ?event, exec_streamLineMove_done, ?turns, ?ends, ?deadline, ?block, ?page, ?chunk, ?put, ?persist⟩
  case line =>
    intro st p q sound stream kind whole none_ more r l a b sealed free read written quiet home clean
    have h : s.cpyLine n c st p q := ⟨stream, kind, whole, more, free, read, written, quiet, home, clean⟩
    simp only [key]
    exact ⟨moveLine_moves h sound none_, moveLine_refused h⟩
  case event =>
    intro idle there
    obtain ⟨k, f, low, high, word⟩ := exec_streamLineMove idle there
    have steady := steady_moveLines n 64 k 0 (({ s with free := f }).modSp n fun sp => { sp with moved := true })
    refine ⟨_, k, f, word, low, high, (steady.moved n).trans ?_, (steady.regs n).trans ?_, rfl⟩
    · rw [sp_modSp]
    · exact congrArg Ctx.regs (ctxOf_modSp { s with free := f } n n fun _ => rfl)
  case turns =>
    intro fuel k idle
    refine ⟨moveLines_noBudget fuel idle, fun all => moveLines_allIdle all fuel k, fun some_ => ?_⟩
    intro i s'
    have turn := moveLines_turn (s := s) (n := n) some_ fuel k
    refine ⟨fun stays => ?_, fun u goes moves => ?_, fun u goes stays => ?_⟩
    · rwa [if_neg (by rw [stays]; decide)] at turn
    · have line : (s.turned n).moveLine n ((s.ctxOf n).eng.rot % 8) = (u, true) := moves
      rwa [if_pos goes, line, if_pos rfl] at turn
    · have line : (s.turned n).moveLine n ((s.ctxOf n).eng.rot % 8) = (u, false) := stays
      rwa [if_pos goes, line, if_neg Bool.false_ne_true] at turn
  case ends =>
    intro st stream done alone
    refine ⟨_, exec_streamComplete stream done alone, fun _ => rfl, fun runs some_ => ?_, fun now => ?_, ?_⟩
    · have running : ((s.sp n).run == .running) = true := beq_iff_eq.2 runs
      rw [flagged_ctxOf, running, flagLater_running _ some_]
      exact ⟨rfl, rfl⟩
    · rw [flagged_ctxOf]
      exact flagLater_now _ (now.imp_left beq_eq_false_iff_ne.2)
    · rw [flagged_channel]
      simp only [List.isEmpty_iff]
      rfl
  case deadline =>
    intro st stream dated late
    exact ⟨_, _, exec_streamDeadlineExpiry stream dated late, fun _ => rfl, failStream_channel ..⟩
  case block =>
    intro lb pb ls may one small there pulled
    have fills : s.fillMiss ⟨.block n lb pb, ls⟩ = [] := congrArg (List.map fun b => (n, b)) pulled
    refine ⟨_, exec_publishSwap may one there fills, ?_, ?_⟩
    · rw [flagged_ctxOf, swap_block, modCtx_self, fill_ctxOf]
      rfl
    · rw [flagged_channel, swap_block, modCtx_self, fill_ctxOf]
      rfl
  case page =>
    intro o pa pool ls l sound may one there p x u leaf old
    have same : (u.swap p x).ctxOf n = s.ctxOf n := (swap_page_ctxOf ..).trans (fill_ctxOf ..)
    have filled : u.sound := fill_sound sound x
    refine ⟨fun apart => ⟨fun i => fill_page_inside sound leaf apart, fun a => fill_page_outside sound leaf apart⟩,
      _, exec_publishSwap may one there rfl, ?_, ?_, fun v renamed apart => ?_⟩
    · rw [flagged_channel, same]
    · rw [flagged_ctxOf, same]
      rfl
    · obtain ⟨page, entry⟩ := swap_page_entries (pa := pa) (ls := ls) filled renamed apart
      exact ⟨page, entry, fun a => swap_page_out filled renamed, swap_page_msgs renamed⟩
  case chunk =>
    intro cy p q command start a b text entry aad stops goes there free read record quiet quietEntry clean form
    have h : s.chunkReached n cy p q := ⟨command, start, goes, there, free, read, record⟩
    have at_ : s.chunkAt cy p q := ⟨quiet, quietEntry, clean, form⟩
    refine ⟨fun none_ => exec_cipher_fails h (cipherConvert_keyless at_ none_), fun key keyed opens clean => ⟨fun pt right => ?opens,
      fun wrong => exec_cipher_fails h (cipherConvert_forged at_ keyed opens clean wrong)⟩, fun key keyed seals => ?seals⟩
    case opens =>
      rw [exec_cipher h, cipherChunk_writes start (cipherConvert_opens at_ keyed opens clean right), if_pos opens, opens]
      rfl
    case seals =>
      intro part k live iv i out
      have taken : ((s.part part).trust.takeIv cy).1 = iv := by
        by_cases held : (s.part part).trust.holds cy
        · rw [takeIv_held held]; exact (if_pos (c := live) held).symm
        · rw [takeIv_old held]; exact (if_neg (c := live) held).symm
      have invocation : s.invocation n cy = i := congrArg (ivOf part cy.ks) taken
      refine ⟨fun spent => exec_cipher_fails h (cipherConvert_spent at_ keyed seals (taken ▸ spent)), fun fresh => ?_⟩
      have sealed := cipherConvert_seals at_ keyed seals (a := cy.at_) (b := cy.entry) (taken ▸ fresh)
      refine ⟨_, s.tookIv n cy, (exec_cipher h).trans (congrArg _ (cipherChunk_writes start sealed)), ?_, ?_, fun held => ?_,
        fun gone => ⟨?_, ?_⟩, cipherNext_cipher ..⟩
      · rw [if_neg (by rw [seals]; exact Bool.false_ne_true), State.sealedText, invocation, seals]
        rfl
      · rw [tookIv_trust]
        rfl
      · rw [State.keySlot, tookIv_trust, takeIv_held held, tget_tput_self, ← taken, takeIv_held held]
      · rw [tookIv_trust, takeIv_old gone, tget_tput_self, ← taken, takeIv_old gone]
      · rw [State.keySlot, tookIv_trust, takeIv_old gone]
        rfl
  case put =>
    intro x bs form sound inside short t
    simp only [key]
    exact ⟨readLoc_putLine sound inside short, fun a => putLine_out sound inside,
      fun kept sealed l => putLine_sealed inside kept sealed, fun plain _ => putLine_plain inside plain⟩
  case persist =>
    intro a len asked
    refine ⟨exec_persistenceReached_waits asked, fun free => ⟨_, exec_persistenceReached asked free, ?_, fun _ => rfl,
      fun e => harden_covered, fun e => harden_other⟩⟩
    rw [modCtx_self]
end

section
/-!
PROOFS. The live update of the scheduler firmware (`Obligations.UpdateEvents`).
-/

namespace Sys2Proof.Machine

/-! ### The black box and a fatal error (R380, R383, R384) -/

/-- A record of a switch, a commit or a roll-back changes the error registers alone (R384). -/
theorem noteFirmware_frame (s : State) : ∃ e, s.noteFirmware = { s with errors := e } := ⟨_, rfl⟩

theorem fatalNow_again {s : State} (row : Nat) (h : s.errors.fatal = true) : s.fatalNow row = s := if_pos h

/-- A first fatal error is recorded, and stops the module 64 counts later (R383). -/
theorem fatalNow_first {s : State} (row : Nat) (h : s.errors.fatal = false) : ∃ e, s.fatalNow row = { s with errors := e }
    ∧ e.fatal = true ∧ e.fatalAt = some (s.gcyc + 64) := by
  rw [State.fatalNow, if_neg (by simp [h])]
  exact ⟨_, rfl, rfl, rfl⟩

/-! ### The switch (R362, R385) -/

/-- The update ends with the code of a check that fails. -/
def State.updateFails (s : State) (code : BitVec 8) : State := { s with update := { s.update with phase := 0, failcode := code } }

/-- A good image: the switch waits for the transactions in flight. -/
def State.updateGood (s : State) : State :=
  { s with update := { s.update with
      switching := true, rev := BitVec.ofNat 32 (fieldAt s.updateBytes 4 4), digest := sha256 (sectionOf s.updateBytes 1 2)
      svn := BitVec.ofNat 16 (fieldAt s.updateBytes 8 2) } }

section Switch
variable {s : State}

theorem switchUpdate_idle (h : s.update.phase ≠ 1) : s.switchUpdate = s := if_pos (bne_iff_ne.2 h)

/-- The checks of an update image, in their order (R362). -/
theorem switchUpdate_checks (phase : s.update.phase = 1) (fresh : s.update.switching = false) : s.switchUpdate =
    if !headerGood s.updateBytes [2] then s.updateFails 0x03
    else if fieldAt s.updateBytes 8 2 < s.sec.running.toNat then s.updateFails 0x04
    else if !digestsGood s.updateBytes 1 then s.updateFails 0x05
    else s.updateGood :=
  (if_neg (by simp [phase])).trans (if_neg (by simp [fresh]))

/-- Once the transactions in flight are done, the other slot is active. -/
theorem switchUpdate_switches (phase : s.update.phase = 1) (ready : s.update.switching = true) : ∃ e, s.switchUpdate =
    { s with
      errors := e
      update := { s.update with active := !s.update.active, phase := 2, switching := false, switchedAt := s.gcyc
                                lastBeat := s.gcyc, beating := false, was := s.update.beating } } := by
  have switched := (if_neg (by simp [phase])).trans (if_pos ready) (a := s.switchUpdate)
  rw [switched]
  exact noteFirmware_frame _

end Switch

/-! ### Heartbeats (R385) -/

theorem commitDue_iff (s : State) : s.commitDue = true ↔
    s.update.phase = 2 ∧ s.update.beating = true ∧ 100 * msCounts ≤ s.gcyc - s.update.since := by
  rw [State.commitDue, Bool.and_eq_true, Bool.and_eq_true, beq_iff_eq, decide_eq_true_eq, and_assoc]

theorem commitUpdate_early {s : State} (h : ¬ s.commitDue = true) : s.commitUpdate = s := if_pos (by simpa using h)

theorem commitUpdate_due {s : State} (h : s.commitDue = true) : ∃ e, s.commitUpdate =
    { s with
      errors := e
      update := { s.update with phase := 0 }
      sec := { s.sec with meas := s.sec.meas.set 3 s.update.digest, running := s.update.svn } } := by
  rw [State.commitUpdate, if_neg (by simp [h])]
  exact noteFirmware_frame _

theorem beatMissed_iff (s : State) : s.beatMissed = true ↔
    if s.update.beating = true then msCounts < s.gcyc - s.update.lastBeat
    else s.update.phase = 2 ∧ 10 * msCounts < s.gcyc - s.update.switchedAt := by
  rw [State.beatMissed]
  cases s.update.beating <;> simp

theorem missBeat_kept {s : State} (h : ¬ s.beatMissed = true) : s.missBeat = s := if_pos (by simpa using h)

theorem missBeat_rollsBack {s : State} (h : s.beatMissed = true) (phase : s.update.phase = 2) : ∃ e, s.missBeat =
    { s with
      errors := e
      update := { s.update with active := !s.update.active, phase := 0, rollback := true, beating := s.update.was
                                lastBeat := s.gcyc } } := by
  rw [State.missBeat, if_neg (by simp [h]), if_pos phase]
  exact noteFirmware_frame _

theorem missBeat_fatal {s : State} (h : s.beatMissed = true) (phase : s.update.phase ≠ 2) : s.missBeat = s.fatalNow 6 := by
  rw [State.missBeat, if_neg (by simp [h]), if_neg phase]

end Sys2Proof.Machine

open Sys2Proof Sys2Proof.Machine

/-- Settles O57: the checks of the image in their order, and the three things that heartbeats decide. -/
theorem updateEvents : Obligations.UpdateEvents := by
  unfold Obligations.UpdateEvents
  refine ⟨fun v s => ⟨fun busy => congrArg _ (if_pos (bne_iff_ne.2 busy)), fun idle => congrArg _ (if_neg (by simp [idle]))⟩,
    fun s => ?switch, fun s => rfl, fun s => ?commit, fun s => ?missed⟩
  case switch =>
    intro b fails svn
    refine ⟨fun h => congrArg _ (switchUpdate_idle h), fun phase fresh => ?_, fun phase ready => ?_⟩
    · have checks := switchUpdate_checks phase fresh
      refine ⟨fun header => ?_, fun header old => ?_, fun header new digests => ?_, fun header new digests => ?_⟩
      · exact congrArg _ (checks.trans (if_pos (by rw [header]; rfl)))
      · rw [if_neg (by rw [header]; decide), if_pos old] at checks
        exact congrArg _ checks
      · rw [if_neg (by rw [header]; decide), if_neg (Nat.not_lt.2 new), if_pos (by rw [digests]; rfl)] at checks
        exact congrArg _ checks
      · rw [if_neg (by rw [header]; decide), if_neg (Nat.not_lt.2 new),
          if_neg (by rw [digests]; decide)] at checks
        exact congrArg _ checks
    · obtain ⟨e, switched⟩ := switchUpdate_switches phase ready
      exact ⟨_, congrArg Host.Outcome.next switched, rfl, rfl, rfl, rfl, fun _ => rfl⟩
  case commit =>
    intro due
    refine ⟨fun early => congrArg _ (commitUpdate_early (mt (commitDue_iff s).1 early)), fun h => ?_⟩
    obtain ⟨e, committed⟩ := commitUpdate_due ((commitDue_iff s).2 h)
    exact ⟨_, congrArg Host.Outcome.next committed, rfl, rfl, rfl, rfl⟩
  case missed =>
    intro u missed
    refine ⟨fun kept => congrArg _ (missBeat_kept (mt (beatMissed_iff s).1 kept)), fun h phase => ?_, fun h phase alive => ?_⟩
    · obtain ⟨e, back⟩ := missBeat_rollsBack ((beatMissed_iff s).2 h) phase
      exact ⟨_, congrArg Host.Outcome.next back, rfl, rfl⟩
    · obtain ⟨e, stopped, fatal, at_⟩ := fatalNow_first 6 alive
      exact ⟨_, congrArg Host.Outcome.next ((missBeat_fatal ((beatMissed_iff s).2 h) phase).trans stopped), fatal, at_⟩
end

section
/-!
PROOFS. Reset, boot and fatal errors (`Obligations.BootEvents`).
-/

namespace Sys2Proof.Machine

/-! ### What a reset keeps of memory (R383) -/

theorem keep_cells (m : Memory) (f : Nat → Bool) (a : Nat) :
    cellGet (m.keep f).cells a = if f a then cellGet m.cells a else 0 := cellGet_filter f m.cells a

theorem warmReset_halted {s : State} (h : s.sec.stage = 0xF) : s.warmReset = s := if_pos h

theorem warmReset_restarts {s : State} (h : s.sec.stage ≠ 0xF) : s.warmReset =
    { s.restart (s.mem.keep fun k => isHbm k || isSecondTier k) with
      sec := { stage := 1 }
      errors := { bb := s.errors.bb, bbhead := s.errors.bbhead } } := if_neg h

/-! ### The stages of the boot (R361, R363) -/

/-- A stage that fails gives its code: after the first failure the other port is tried, after the second the module halts. -/
theorem bootFail_spec (s : State) (stage code : Nat) :
    (s.bootFail stage code).sec.failcode = BitVec.ofNat 8 code
    ∧ (s.sec.retried = true → (s.bootFail stage code).sec.stage = 0xF)
    ∧ (s.sec.retried = false → (s.bootFail stage code).sec.stage = 1 ∧ (s.bootFail stage code).sec.retried = true
        ∧ (s.bootFail stage code).sec.port = !s.sec.port ∧ (s.bootFail stage code).sec.began = s.gcyc) := by
  have sec : (s.blackBox 3 8 0xFF (bytesLE stage 1 ++ bytesLE code 1)).sec = s.sec := rfl
  rw [State.bootFail]
  simp only [sec]
  cases h : s.sec.retried with
  | true => exact ⟨rfl, fun _ => rfl, fun no => absurd no (by decide)⟩
  | false => exact ⟨rfl, fun no => absurd no (by decide), fun _ => ⟨rfl, rfl, rfl, rfl⟩⟩

theorem bootFail_mem (s : State) (stage code : Nat) : (s.bootFail stage code).mem = s.mem := by
  unfold State.bootFail
  dsimp only
  split <;> rfl

section Link
variable {s : State}

theorem locator_awaited {port : Bool} (stage : s.sec.stage = 1) (h : port = s.sec.port) :
    s.locator port = { s with sec := { s.sec with stage := 2 } } := if_pos (by simp [stage, h])

theorem locator_ignored {port : Bool} (h : s.sec.stage ≠ 1 ∨ port ≠ s.sec.port) : s.locator port = s :=
  if_neg (by simpa [imp_iff_not_or] using h)

theorem noLink_past (stage : s.sec.stage ≠ 1) : s.noLink = s := if_pos (bne_iff_ne.2 stage)

theorem noLink_otherPort (stage : s.sec.stage = 1) (port : s.sec.port = false) :
    s.noLink = { s with sec := { s.sec with port := true } } :=
  (if_neg (by simp [stage])).trans (if_neg (by simp [port]))

theorem noLink_fails (stage : s.sec.stage = 1) (port : s.sec.port = true) : s.noLink = s.bootFail 1 0x01 :=
  (if_neg (by simp [stage])).trans (if_pos port)

end Link

/-! ### The fetched image (R361, R362) -/

/-- A free choice among at least one lies below their number. -/
theorem choose_lt (s : State) {k : Nat} (h : 0 < k) : (s.choose k).1 < k := by
  rw [State.choose]
  split
  · exact h
  · exact Nat.mod_lt _ h

/-- A stored image stands in HBM stack 0, and nothing but memory and the free choice that was taken differs. -/
theorem storeImage_spec (s : State) {b : List Byte} : ∃ a v, s.storeImage b = { s with free := v, mem := s.mem.write a b }
    ∧ (b.length ≤ 2 ^ 36 → a + b.length ≤ 2 ^ 36) := by
  have below := choose_lt s (Nat.succ_pos (2 ^ 36 - b.length))
  obtain ⟨v, frame⟩ := choose_eq s (2 ^ 36 - b.length + 1)
  rw [State.storeImage]
  generalize s.choose (2 ^ 36 - b.length + 1) = x at below frame ⊢
  obtain ⟨a, t⟩ := x
  obtain rfl : t = { s with free := v } := frame
  refine ⟨a, v, rfl, fun fits => ?_⟩
  dsimp only at below
  omega

theorem bootImage_elsewhere {s : State} {b : List Byte} (h : s.sec.stage ≠ 2) : s.bootImage b = s := if_pos (bne_iff_ne.2 h)

theorem bootImage_none {s : State} (h : s.sec.stage = 2) : s.bootImage [] = s.bootFail 2 0x02 :=
  if_neg (by simp [h])

theorem bootImage_some {s : State} {b : List Byte} (h : s.sec.stage = 2) (some_ : b ≠ []) :
    s.bootImage b = (s.storeImage b).checkImage b :=
  (if_neg (by simp [h])).trans (if_neg (by simpa using some_))

theorem checkImage_mem (s : State) (b : List Byte) : (s.checkImage b).mem = s.mem := by
  unfold State.checkImage
  split
  · exact bootFail_mem ..
  · split
    · exact bootFail_mem ..
    · split
      · exact bootFail_mem ..
      · split
        · exact bootFail_mem ..
        · rfl

/-- The checks of a boot image in their order: the code of the first that fails, or the start of the module. -/
theorem checkImage_spec (s : State) (b : List Byte) : s.checkImage b =
    if headerGood b bootTypes = false then s.bootFail 3 0x03
    else if fieldAt b 8 2 < Config.svnMin.toNat then s.bootFail 4 0x04
    else if digestsGood b 5 = false then s.bootFail 5 0x05
    else if Config.chainEndsIn (sectionOf b 5 5) (Config.deviceKey Config.uds).1 = false then s.bootFail 6 0x06
    else { s with sec := { s.sec with
        stage := 7, svn := BitVec.ofNat 16 (fieldAt b 8 2), running := BitVec.ofNat 16 (fieldAt b 8 2)
        rev := BitVec.ofNat 32 (fieldAt b 4 4), image := b, device := Config.deviceKey Config.uds, meas := measure b } } := by
  rw [State.checkImage]
  simp only [Bool.not_eq_true']

/-- How a fetched image that is stored and then fails a check leaves the boot. -/
theorem bootImage_fails {s : State} {b : List Byte} {stage code : Nat} (at_ : s.sec.stage = 2) (some_ : b ≠ [])
    (check : ∀ t : State, t.checkImage b = t.bootFail stage code) : ∃ t, exec (.imageFetchComplete b) s = .next t
      ∧ t.sec.failcode = BitVec.ofNat 8 code
      ∧ (s.sec.retried = true → t.sec.stage = 0xF)
      ∧ (s.sec.retried = false → t.sec.stage = 1 ∧ t.sec.retried = true ∧ t.sec.port = !s.sec.port ∧ t.sec.began = s.gcyc) := by
  obtain ⟨a, v, stored, -⟩ := storeImage_spec s (b := b)
  refine ⟨_, congrArg Host.Outcome.next ((bootImage_some at_ some_).trans (check _)), ?_⟩
  rw [stored]
  exact bootFail_spec ..

/-! ### The end of the module (R383) -/

section Dump

/-- What a spindle gives to the dump has a bounded length, and takes free values alone. -/
theorem dumpOf_spec (s : State) (n : Nat) : (s.dumpOf n).1.length ≤ 29216 ∧ ∃ v, (s.dumpOf n).2 = { s with free := v } := by
  have record : (((s.sp n).lastTrap ++ List.replicate 32 0).take 32).length = 32 := by
    rw [List.length_take, List.length_append, List.length_replicate]
    omega
  have registers : (((s.sp n).ctx.regs.x.toList ++ (s.sp n).ctx.regs.y.toList).flatMap
      fun v => bytesLE v.toNat 8).length = 512 := by
    simp [List.length_flatMap, bytesLE_length]
  rw [State.dumpOf]
  dsimp only
  split
  · exact ⟨record.le.trans (by decide), s.free, rfl⟩
  · refine ⟨?_, _, rfl⟩
    simp only [List.length_append, freeBytes_length, record] at registers ⊢
    omega

theorem foldl_dumpOf (l : List Nat) (x : List Byte × State) :
    let r := l.foldl (fun (x : List Byte × State) n => let d := x.2.dumpOf n; (x.1 ++ d.1, d.2)) x
    r.1.length ≤ x.1.length + 29216 * l.length ∧ ∃ v, r.2 = { x.2 with free := v } := by
  induction l generalizing x with
  | nil => exact ⟨Nat.le_refl _, _, rfl⟩
  | cons n l ih =>
    obtain ⟨short, v, frame⟩ := dumpOf_spec x.2 n
    obtain ⟨shorts, w, frames⟩ := ih (x.1 ++ (x.2.dumpOf n).1, (x.2.dumpOf n).2)
    refine ⟨?_, w, ?_⟩
    · simp only [List.foldl_cons, List.length_cons, List.length_append] at shorts ⊢
      omega
    · rw [List.foldl_cons, frames, frame]

theorem blackBoxBytes_length (t : Tbl (List Byte)) (l : List Nat) :
    (l.flatMap fun i => (tget [] i t ++ List.replicate 32 0).take 32).length = 32 * l.length := by
  simp [List.length_flatMap, Nat.mul_comm]

theorem errorBytes_length (e : Errors) : e.bytes.length = 32 := by
  simp [Errors.bytes, bytesLE_length]

/-- The dump is 64 MiB long, and takes free values alone. -/
theorem dumpBytes_spec (s : State) : s.dumpBytes.1.length = dumpSize ∧ ∃ v, s.dumpBytes.2 = { s with free := v } := by
  obtain ⟨short, v, frame⟩ := foldl_dumpOf (List.range 320)
    ((List.range 4096).flatMap (fun i => (tget [] i s.errors.bb ++ List.replicate 32 0).take 32) ++ s.errors.bytes, s)
  rw [List.length_append, blackBoxBytes_length, errorBytes_length, List.length_range, List.length_range] at short
  have room : 32 * 4096 + 32 + 29216 * 320 ≤ dumpSize := by decide
  refine ⟨?_, s.dumpBytes.2.free, ?_⟩
  · rw [State.dumpBytes]
    dsimp only at short ⊢
    rw [List.length_append, freeBytes_length]
    omega
  · rw [State.dumpBytes]
    dsimp only at frame ⊢
    rw [frame]
    rfl

theorem stopAll_alive {s : State} (h : s.errors.fatalAt = none) : s.stopAll = s := by
  rw [State.stopAll, h]

theorem stopAll_early {s : State} {c : Nat} (h : s.errors.fatalAt = some c) (early : s.gcyc < c) : s.stopAll = s := by
  rw [State.stopAll, h]
  exact if_pos early

/-- How a spindle is stopped. -/
def Spindle.halt (x : Spindle) : Spindle := { x with run := if x.run == .empty then .empty else .stopped }

/-- Every spindle stopped, and the stop not due any more. -/
def State.halted (s : State) : State :=
  { s with errors := { s.errors with fatalAt := none }, spindles := s.spindles.map fun x => (x.1, x.2.halt) }

theorem stopAll_due {s : State} {c : Nat} (h : s.errors.fatalAt = some c) (due : c ≤ s.gcyc) : ∃ bs v m, s.stopAll =
    { s.halted with free := v, mem := m, out := s.out ++ [.dump bs] } ∧ bs.length = dumpSize := by
  obtain ⟨full, v, frame⟩ := dumpBytes_spec s.halted
  have dumped : s.stopAll = (s.halted.dumpBytes.2.modMem fun m =>
      m.write (s.halted.dumpBytes.2.errors.dumpbase.toNat * 0x200000) s.halted.dumpBytes.1).emit (.dump s.halted.dumpBytes.1) := by
    rw [State.stopAll, h]
    dsimp only
    rw [if_neg (Nat.not_lt.2 due)]
    simp only [State.halted, Spindle.halt]
  rw [frame] at dumped
  exact ⟨_, v, _, dumped, full⟩

theorem halted_run (s : State) (n : Nat) : (s.halted.sp n).run =
    if (s.sp n).run = .empty then RunState.empty else RunState.stopped := by
  rw [State.sp, State.halted, tget_map {} Spindle.halt rfl]
  simp only [Spindle.halt, beq_iff_eq]
  rfl

end Dump

end Sys2Proof.Machine

open Sys2Proof Sys2Proof.Machine

/-- Settles O54: what each reset keeps, the stages of the boot in their order, and the stop of the module with its dump. -/
theorem bootEvents : Obligations.BootEvents := by
  unfold Obligations.BootEvents
  refine ⟨fun s => ?resets, fun port s => ?locator, fun s => ?link, fun b s => ?image, fun row s => ?fatal, fun s => ?stop⟩
  case resets =>
    intro fresh
    refine ⟨⟨_, rfl, ⟨rfl, rfl, rfl, rfl, rfl, rfl, rfl, rfl, rfl, rfl, rfl⟩, rfl, fun _ a => keep_cells ..⟩,
      fun halted => congrArg _ (warmReset_halted halted), fun runs => ?_⟩
    exact ⟨_, congrArg Host.Outcome.next (warmReset_restarts runs), ⟨rfl, rfl, rfl, rfl, rfl, rfl, rfl, rfl, rfl, rfl, rfl⟩,
      rfl, rfl, rfl, rfl, fun _ a => keep_cells ..⟩
  case locator =>
    exact ⟨fun stage awaited => congrArg _ (locator_awaited stage awaited), fun other => congrArg _ (locator_ignored other)⟩
  case link =>
    refine ⟨fun past => congrArg _ (noLink_past past), fun stage port => congrArg _ (noLink_otherPort stage port),
      fun stage port => ⟨_, congrArg Host.Outcome.next (noLink_fails stage port), ?_⟩⟩
    obtain ⟨code, halts, retries⟩ := bootFail_spec s 1 0x01
    refine ⟨code, ?_⟩
    cases h : s.sec.retried with
    | true => exact halts h
    | false => exact (retries h).1
  case image =>
    intro fails h svn
    refine ⟨fun elsewhere => congrArg _ (bootImage_elsewhere elsewhere), fun stage none_ => ?_, fun stage some_ header => ?_,
      fun stage some_ header old => ?_, fun stage some_ header new digests => ?_, fun stage some_ header new digests => ?_,
      fun stage some_ fits sound => ?_⟩
    · subst none_
      exact ⟨_, congrArg Host.Outcome.next (bootImage_none stage), bootFail_spec ..⟩
    · exact bootImage_fails (stage := 3) (code := 0x03) stage some_ fun t => by rw [checkImage_spec, if_pos header]
    · exact bootImage_fails (stage := 4) (code := 0x04) stage some_ fun t => by
        rw [checkImage_spec, if_neg (ne_false_of_eq_true header), if_pos old]
    · exact bootImage_fails (stage := 5) (code := 0x05) stage some_ fun t => by
        rw [checkImage_spec, if_neg (ne_false_of_eq_true header), if_neg (Nat.not_lt.2 new), if_pos digests]
    · refine ⟨fun bad => ?_, fun good => ⟨_, congrArg Host.Outcome.next (bootImage_some stage some_), ?_⟩⟩
      · exact bootImage_fails (stage := 6) (code := 0x06) stage some_ fun t => by
          rw [checkImage_spec, if_neg (ne_false_of_eq_true header), if_neg (Nat.not_lt.2 new),
            if_neg (ne_false_of_eq_true digests), if_pos bad]
      · rw [checkImage_spec, if_neg (ne_false_of_eq_true header), if_neg (Nat.not_lt.2 new),
          if_neg (ne_false_of_eq_true digests), if_neg (ne_false_of_eq_true good)]
        exact ⟨rfl, rfl, rfl, rfl, rfl, rfl, rfl⟩
    · obtain ⟨a, v, stored, inside⟩ := storeImage_spec s (b := b)
      refine ⟨_, a, congrArg Host.Outcome.next (bootImage_some stage some_), inside fits, fun i hi => ?_⟩
      rw [checkImage_mem, stored]
      exact (cellGet_cellsWrite sound a (a + i) b).trans (by rw [if_pos (by omega), Nat.add_sub_cancel_left])
  case fatal =>
    refine ⟨fun again => congrArg _ (fatalNow_again row again), fun first => ?_⟩
    obtain ⟨e, stopped, fatal, at_⟩ := fatalNow_first row first
    exact ⟨_, congrArg Host.Outcome.next stopped, fatal, at_, rfl, fun _ => rfl⟩
  case stop =>
    refine ⟨fun alive => congrArg _ (stopAll_alive alive), fun c at_ early => congrArg _ (stopAll_early at_ early),
      fun c at_ due => ?_⟩
    obtain ⟨bs, v, m, stopped, full⟩ := stopAll_due at_ due
    exact ⟨_, bs, congrArg Host.Outcome.next stopped, rfl, rfl, full, halted_run s⟩
end

section
/-!
PROOFS. The words of the matrix engine (`Obligations.MatrixWords`).
-/

namespace Sys2Proof.Machine

/-! ### MCALL and MZERO (R240, R243, R248, R249, R254) -/

/-- What the checks of R248 raise, in their order: the code and the value of the trap. -/
def State.mcallFault (s : State) (r : MxRun) : Option (Nat × Word) :=
  (if r.fmtBad then some (tFMT, r.fmt) else none)
  |>.or (r.paramBad.map fun x => (tILLEGAL, x))
  |>.or ((r.areas.find? fun a => a.start % 64 ≠ 0).map fun a => (tALIGN, BitVec.ofNat 64 a.start))
  |>.or ((r.areas.find? fun a => decide (0x1000000 < a.start + a.len ∨ 0x1000000 ≤ a.start)).map fun a =>
      (tXLATE, BitVec.ofNat 64 a.start))
  |>.or ((r.areas.find? fun a => decide (a.start < s.c.ctl.seglo.toNat ∨ s.c.ctl.seghi.toNat < a.start + a.len)).map fun a =>
      (tSEGBOUND, BitVec.ofNat 64 a.start))
  |>.or (r.misplaced.map fun x => (tMBANK, BitVec.ofNat 64 x))

section Mcall
variable {s : State} {r : MxRun} {bs : List Nat} (there : s.there bs) (quiet : s.mxTrap = none)
include there quiet

/-- An MCALL whose blocks are there, with no fault of the engine to raise. -/
theorem mcall_eq : s.mcall r bs = Issue.alsoEngine s.c.eng.mx.full (
    match s.mcallFault r with
    | some f => s.raise f.1 4 f.2
    | none =>
      Issue.touching s (areaBlocks r.areas ++ r.locks.map (6 + ·)) <|
        if s.c.eng.mx.full then .wait [wENGINE] s
        else if s.mxCrosses s.cur r then .wait [wBANK] s
        else .ok (s.modC fun c => c.startRoutine r)) := by
  have aligned : (fun a : Area => a.start % 64 != 0) = fun a => decide (a.start % 64 ≠ 0) := by
    funext a; rw [Bool.eq_iff_iff]; simp
  unfold State.mcall State.mcallFault
  dsimp only
  rw [touching_there there, quiet, aligned]
  simp only [Bool.decide_or]
  cases r.fmtBad with
  | true => rfl
  | false =>
    cases r.paramBad with
    | some x => rfl
    | none =>
      cases r.areas.find? fun a => decide (a.start % 64 ≠ 0) with
      | some a => rfl
      | none =>
        cases r.areas.find? fun a => decide (0x1000000 < a.start + a.len) || decide (0x1000000 ≤ a.start) with
        | some a => rfl
        | none =>
          cases r.areas.find? fun a => decide (a.start < s.c.ctl.seglo.toNat) || decide (s.c.ctl.seghi.toNat < a.start + a.len) with
          | some a => rfl
          | none => cases r.misplaced <;> rfl

/-- A check that fails is raised at slot 4. -/
theorem commit_mcall_fault {code : Nat} {v : Word} (h : s.mcallFault r = some (code, v)) :
    commit 4 s (s.mcall r bs) = traps s code 4 v := by
  rw [mcall_eq there quiet, h]
  rfl

/-- The routine enters the engine. -/
theorem commit_mcall_enters (h : s.mcallFault r = none) (areas : s.there (areaBlocks r.areas ++ r.locks.map (6 + ·)))
    (room : s.c.eng.mx.full = false) (free : s.mxCrosses s.cur r = false) :
    commit 4 s (s.mcall r bs) = .next (s.modC fun c => c.startRoutine r) := by
  rw [mcall_eq there quiet, h, room, free]
  dsimp only
  rw [touching_there areas]
  exact commit_ok ..

end Mcall

section Checks
variable {s : State} {r : MxRun}

theorem find?_none_of {α : Type} {l : List α} {p : α → Bool} (h : ∀ a ∈ l, p a = false) : l.find? p = none :=
  List.find?_eq_none.2 fun a ha e => by rw [h a ha] at e; exact Bool.false_ne_true e

theorem find_unaligned (h : ∀ a ∈ r.areas, a.start % 64 = 0) : (r.areas.find? fun a => a.start % 64 ≠ 0) = none :=
  find?_none_of fun a ha => by simp [h a ha]

theorem find_outside (h : ∀ a ∈ r.areas, a.start < 0x1000000 ∧ a.start + a.len ≤ 0x1000000) :
    (r.areas.find? fun a => decide (0x1000000 < a.start + a.len ∨ 0x1000000 ≤ a.start)) = none :=
  find?_none_of fun a ha => decide_eq_false (by have := h a ha; omega)

theorem find_unbounded (h : ∀ a ∈ r.areas, s.c.ctl.seglo.toNat ≤ a.start ∧ a.start + a.len ≤ s.c.ctl.seghi.toNat) :
    (r.areas.find? fun a => decide (a.start < s.c.ctl.seglo.toNat ∨ s.c.ctl.seghi.toNat < a.start + a.len)) = none :=
  find?_none_of fun a ha => decide_eq_false (by have := h a ha; omega)

end Checks

/-- A routine that the engine takes is started with what it read at issue (R247 to R250). -/
theorem commit_mcall_takes {s : State} {r : MxRun} {bs : List Nat} (h : s.mxTakes r bs) :
    commit 4 s (s.mcall r bs) = .next (s.modC fun c => c.startRoutine r) := by
  obtain ⟨there, quiet, fmt, param, areas, placed, free, blocks, room⟩ := h
  refine commit_mcall_enters there quiet ?_ blocks room free
  have aligned : ∀ a ∈ r.areas, a.start % 64 = 0 := fun a ha => (areas a ha).1
  have inside : ∀ a ∈ r.areas, a.start < 0x1000000 ∧ a.start + a.len ≤ 0x1000000 := fun a ha => by
    obtain ⟨-, start, stop, -⟩ := areas a ha
    exact ⟨start, stop⟩
  have bounds : ∀ a ∈ r.areas, s.c.ctl.seglo.toNat ≤ a.start ∧ a.start + a.len ≤ s.c.ctl.seghi.toNat := fun a ha => by
    obtain ⟨-, -, -, bounds⟩ := areas a ha
    exact bounds
  rw [State.mcallFault, fmt, param, find_unaligned aligned, find_outside inside, find_unbounded bounds, placed]
  rfl

/-! ### The busy time (R247) -/

/-- The cycles of a routine, by its name. -/
theorem busy_eq (r : MxRun) : r.busy = (match r.rt with
    | .mzero => 32
    | .dgemm => 16 + 4 * r.klen
    | .gemm | .gemmt | .gemmz | .gemv =>
      16 + (2 * r.klen + min (kstep2 r.af) (kstep2 r.bf) - 1) / min (kstep2 r.af) (kstep2 r.bf)
    | .outer => 16 + (2 + min (kstep2 r.af) (kstep2 r.bf) - 1) / min (kstep2 r.af) (kstep2 r.bf)
    | _ => 16 + (r.m + 3) / 4) := by
  unfold MxRun.busy MxRun.k ceilDiv
  cases r.rt <;> rfl

/-! ### MWAIT (R254) -/

/-- Whether a routine writes the tile that an MWAIT names, or any for one that names none. -/
def MxRun.awaitedBy (tile : Option Nat) (r : MxRun) : Bool :=
  match tile with
  | none => true
  | some t => if r.rt == .mzero then r.tiles.contains t else r.ct == t

/-- Whether the engine runs or queues a routine that an MWAIT waits for. -/
def Matrix.awaitedBy (tile : Option Nat) (mx : Matrix) : Bool := mx.run.any (MxRun.awaitedBy tile) || mx.queue.any (MxRun.awaitedBy tile)

section Mwait
variable {s : State} {tile : Option Nat} (there : s.there [3])
include there

theorem mwaitWord_eq : s.mwaitWord tile = Issue.alsoEngine (s.c.eng.mx.awaitedBy tile) (
    match s.mxTrap with
    | some t => .trap t
    | none => if s.c.eng.mx.awaitedBy tile then .wait [wENGINE] s else .ok s) := by
  unfold State.mwaitWord Matrix.awaitedBy
  dsimp only
  rw [touching_there there]
  cases s.c.eng.mx.run <;> cases s.c.eng.mx.queue <;> rfl

/-- With nothing to wait for, MWAIT changes nothing. -/
theorem commit_mwait (quiet : s.mxTrap = none) (h : s.c.eng.mx.awaitedBy tile = false) :
    commit 4 s (s.mwaitWord tile) = .next s := by
  rw [mwaitWord_eq there, quiet, h]
  exact commit_ok ..

/-- A recorded fault is raised by MWAIT as by every word of the slot (R253). -/
theorem commit_mwait_trap {t : Trap} (h : s.mxTrap = some t) : commit 4 s (s.mwaitWord tile) = .next (s.takeTrap s.cur t) := by
  rw [mwaitWord_eq there, h]
  rfl

end Mwait

end Sys2Proof.Machine

open Sys2Proof Sys2Proof.Machine

/-- Settles O33: every word is an MCALL of its routine; the checks in their order, the busy times, and MWAIT. -/
theorem matrixWords : Obligations.MatrixWords := by
  unfold Obligations.MatrixWords
  intro sa sb f0 neg tile s words
  have word : ∀ p ∈ words, exec p.1 s = commit 4 s (s.mcall p.2.1 p.2.2) := by
    simp only [words, List.map_cons, List.map_nil, List.forall_mem_cons, List.not_mem_nil, false_implies, implies_true, and_true]
    exact ⟨rfl, rfl, rfl, rfl, rfl, rfl, rfl, rfl, rfl, rfl, rfl, rfl⟩
  refine ⟨fun p hp => ?_, fun there quiet => ⟨fun run queue => ?_, fun others => ?_⟩,
    fun t fault there => commit_mwait_trap (tile := none) there fault, busy_eq⟩
  · intro r
    refine ⟨fun takes => (word p hp).trans (commit_mcall_takes takes), fun there quiet => ?_⟩
    have raises {code : Nat} {v : Word} (h : s.mcallFault r = some (code, v)) : exec p.1 s = traps s code 4 v :=
      (word p hp).trans (commit_mcall_fault there quiet h)
    refine ⟨fun fmt => raises ?_, fun fmt x param => raises ?_, fun fmt param => ⟨fun a unaligned => raises ?_,
      fun aligned => ⟨fun a outside => raises ?_, fun inside => ⟨fun a unbounded => raises ?_,
        fun bounds x misplaced => raises ?_⟩⟩⟩⟩
    · rw [State.mcallFault, fmt]; rfl
    · rw [State.mcallFault, fmt, param]; rfl
    · rw [State.mcallFault, fmt, param, unaligned]; rfl
    · rw [State.mcallFault, fmt, param, find_unaligned aligned, outside]; rfl
    · rw [State.mcallFault, fmt, param, find_unaligned aligned, find_outside inside, unbounded]; rfl
    · rw [State.mcallFault, fmt, param, find_unaligned aligned, find_outside inside, find_unbounded bounds, misplaced]; rfl
  · exact commit_mwait (tile := none) there quiet (by rw [Matrix.awaitedBy, run, queue]; rfl)
  · have leaves (r : MxRun) (h : s.c.eng.mx.run = some r ∨ s.c.eng.mx.queue = some r) :
        r.awaitedBy (some tile.toNat) = false := by
      obtain ⟨zero, other⟩ := others r h
      unfold MxRun.awaitedBy
      by_cases rt : r.rt = .mzero
      · simpa [rt] using zero rt
      · have ct : r.ct ≠ tile.toNat := other rt
        simpa [rt] using ct
    refine commit_mwait (tile := some tile.toNat) there quiet ?_
    rw [Matrix.awaitedBy, Bool.or_eq_false_iff, Option.any_eq_false, Option.any_eq_false]
    exact ⟨fun r h => by simp [leaves r (.inl h)], fun r h => by simp [leaves r (.inr h)]⟩
end

section
/-!
PROOFS. Messages of a word whose reply is awaited or only acknowledged (R191), and the gate words
(`Obligations.GateWords`).
-/

namespace Sys2Proof.Machine

/-! ### A message leaves (R191, R260) -/

/-- The state whose clock a message takes: a write counts in the clock of its die as it leaves (R260). -/
def State.departs (s : State) (op : MsgOp) : State := if op.writes then s.tick (dieOf s.cur) else s

/-- A message of the current context. -/
def State.message (s : State) (l : Loc) (op : MsgOp) (dest : Dest) (waits : Bool) (val : Word) (slot : Nat) : Msg :=
  { id := s.nextId, ctx := s.c.id, spin := s.cur, part := s.c.partN, loc := l, op := op, dest := dest, waits := waits
    grp := s.nextId, val := val, slot := slot, clock := (s.departs op).clockOf (dieOf s.cur) }

/-- The state in which a message is on its way. -/
def State.underWayWith (s : State) (m : Msg) : State :=
  { s.departs m.op with nextId := s.nextId + 1, msgs := s.msgs ++ [m] }

theorem send_eq (s : State) (l : Loc) (op : MsgOp) (dest : Dest) (waits : Bool) (val : Word) (slot : Nat) :
    s.send l op dest waits s.nextId val slot = (s.nextId, s.underWayWith (s.message l op dest waits val slot)) := by
  unfold State.send State.underWayWith State.message State.departs
  dsimp only
  cases op.writes <;> rfl

theorem underWayWith_c (s : State) (m : Msg) : (s.underWayWith m).c = s.c := by
  unfold State.underWayWith State.departs
  split <;> rfl

theorem underWayWith_mem (s : State) (m : Msg) : (s.underWayWith m).mem = s.mem := by
  unfold State.underWayWith State.departs
  split <;> rfl

/-- What a word does that sends one message and awaits its reply, or goes on at once. -/
structure State.sends (s : State) (m : Msg) (waits : Bool) (bound : Nat) (t : State) : Prop where
  regs : t.c.sameRegs s.c
  mem : s.sameMem t
  msgs : t.msgs = s.msgs ++ [m]
  acked : waits = false → t.c.active = s.c.active
  awaited : waits = true → t.c.active = s.c.active ++ [s.awaiting s.nextId 6 bound]

/-- The message of a word, whose reply has its place among the results in flight where it is awaited. -/
def State.sent (s : State) (m : Msg) (waits : Bool) (bound : Nat) : State :=
  if waits then (s.underWayWith m).await s.nextId 6 bound else s.underWayWith m

theorem sent_sends (s : State) (m : Msg) (waits : Bool) (bound : Nat) : s.sends m waits bound (s.sent m waits bound) := by
  have context := underWayWith_c s m
  cases waits with
  | false =>
    exact ⟨by rw [State.sent, if_neg Bool.false_ne_true, context]; exact ⟨rfl, rfl, rfl, rfl⟩,
      fun a => congrArg (fun x : Memory => cellGet x.cells a) (underWayWith_mem s m), rfl,
      fun _ => by rw [State.sent, if_neg Bool.false_ne_true, context], fun no => absurd no Bool.false_ne_true⟩
  | true =>
    refine ⟨?_, fun a => congrArg (fun x : Memory => cellGet x.cells a) (underWayWith_mem s m), rfl,
      fun no => absurd no.symm Bool.false_ne_true, fun _ => ?_⟩
    · rw [← context]
      exact await_sameRegs ..
    · rw [State.sent, if_pos rfl, await_active, State.awaiting, State.awaiting, context]

/-! ### Gate words (R300 to R303) -/

/-- The message of a gate word. -/
def State.gateMsg (s : State) (op : Nat) (rd ra : BitVec 5) (b : BitVec 8) : Msg :=
  s.message (.phys 0) (.gate op (s.c.regs.rx ra) b.toNat (bindLim (s.binding s.c.partN b.toNat)) false)
    (if rd = 0 then .none else .x rd) (rd != 0 || op == 1) (b.setWidth 64) 0

section Words
variable {s : State} {g : BitVec 4} {op : Nat} {rd ra : BitVec 5} {b : BitVec 8} {w : Word} (acts : s.acts g [0])
include acts

/-- A gate word with an invalid binding. -/
theorem commit_gateWord_invalid (invalid : bindV (s.binding s.c.partN b.toNat) = false) :
    commit 0 s (s.gateWord op rd ra b g w) = traps s tGATE 0 (b.setWidth 64) := by
  rw [State.gateWord, guarded_acts acts]
  dsimp only
  rw [if_pos (by simp [invalid])]
  rfl

/-- Under STRICT a gate of another module, or a wait without a limit, is illegal (R303). -/
theorem commit_gateWord_illegal (valid : bindV (s.binding s.c.partN b.toNat) = true) (strict : s.c.ctl.strict = true)
    (h : bindMod (s.binding s.c.partN b.toNat) ≠ s.pf.modid.toNat ∨ op = 1 ∧
      (bindLim (s.binding s.c.partN b.toNat) = 0 ∨ 65535 < bindLim (s.binding s.c.partN b.toNat))) :
    commit 0 s (s.gateWord op rd ra b g w) = traps s tILLEGAL 0 w := by
  rw [State.gateWord, guarded_acts acts]
  dsimp only
  rw [if_neg (by simp [valid]), if_pos (by simpa [strict] using h)]
  rfl

/-- Otherwise the operation leaves for its gate, a signal once the conditions of a PART fence hold. -/
theorem commit_gateWord_goes (valid : bindV (s.binding s.c.partN b.toNat) = true)
    (h : ¬ (s.c.ctl.strict = true ∧ (bindMod (s.binding s.c.partN b.toNat) ≠ s.pf.modid.toNat ∨ op = 1 ∧
      (bindLim (s.binding s.c.partN b.toNat) = 0 ∨ 65535 < bindLim (s.binding s.c.partN b.toNat)))))
    (ordered : op = 0 → s.ordered 4) :
    commit 0 s (s.gateWord op rd ra b g w) = .next (s.sent (s.gateMsg op rd ra b) (rd != 0 || op == 1)
      (if op = 1 then 400 + bindLim (s.binding s.c.partN b.toNat) else 400)) := by
  have released : ∀ k, s.releasingBy [wORDER, wUNBOUND] (op == 0) k = k := fun k => by
    rw [State.releasingBy]
    split
    · next signal => exact fencedBy_ordered (ordered (beq_iff_eq.1 signal))
    · rfl
  rw [State.gateWord, guarded_acts acts]
  dsimp only
  rw [if_neg (by simp [valid]), if_neg (by simpa using h), released, send_eq]
  exact commit_ok ..

end Words

end Sys2Proof.Machine

open Sys2Proof Sys2Proof.Machine

/-- Settles O22: an invalid binding, an illegal word under STRICT, and otherwise one message to the gate. -/
theorem gateWords : Obligations.GateWords := by
  unfold Obligations.GateWords
  intro rd ra b g s acts e valid lim away unlimited goes
  have valid_iff : valid ↔ bindV (s.binding s.c.partN b.toNat) = true := by
    simp only [valid, e, bindV, bitOf, bitsOf, beq_iff_eq]
    rfl
  have leaves {i : Instr} {op : Nat} (word : exec i s = commit 0 s (s.gateWord op rd ra b g (wordOf i))) (bound : valid)
      (h : ¬ (s.c.ctl.strict = true ∧ (bindMod (s.binding s.c.partN b.toNat) ≠ s.pf.modid.toNat ∨ op = 1 ∧
        (bindLim (s.binding s.c.partN b.toNat) = 0 ∨ 65535 < bindLim (s.binding s.c.partN b.toNat)))))
      (ordered : op = 0 → s.ordered 4) : goes i op := by
    have sent := sent_sends s (s.gateMsg op rd ra b) (rd != 0 || op == 1)
      (if op = 1 then 400 + bindLim (s.binding s.c.partN b.toNat) else 400)
    refine ⟨_, word.trans (commit_gateWord_goes acts (valid_iff.1 bound) h ordered), sent.regs, sent.mem,
      ⟨_, sent.msgs, rfl, rfl, rfl, rfl, rfl, rfl⟩, fun none_ other => sent.acked ?_,
      fun some_ => ⟨_, sent.awaited ?_, rfl, rfl, rfl⟩⟩
    · simp [none_, other]
    · simpa using some_
  refine ⟨fun invalid => ?_, fun bound elsewhere => ?_, fun bound here => ⟨fun ordered => ?_, fun endless => ?_, fun limited => ?_, ?_⟩⟩
  · have no : bindV (s.binding s.c.partN b.toNat) = false := Bool.eq_false_iff.2 (mt valid_iff.2 invalid)
    have traps_ (op : Nat) (w : Word) := commit_gateWord_invalid (op := op) (rd := rd) (ra := ra) (w := w) acts no
    simp only [List.forall_mem_cons, List.not_mem_nil, false_implies, implies_true, and_true]
    exact ⟨traps_ 0 _, traps_ 1 _, traps_ 2 _⟩
  · have illegal (op : Nat) (w : Word) := commit_gateWord_illegal (op := op) (rd := rd) (ra := ra) (w := w) acts
      (valid_iff.1 bound) elsewhere.1 (.inl elsewhere.2)
    simp only [List.forall_mem_cons, List.not_mem_nil, false_implies, implies_true, and_true]
    exact ⟨illegal 0 _, illegal 1 _, illegal 2 _⟩
  · exact leaves (op := 0) rfl bound (fun ⟨strict, h⟩ => h.elim (fun h => here ⟨strict, h⟩) fun h => absurd h.1 (by decide))
      fun _ => ordered
  · exact commit_gateWord_illegal acts (valid_iff.1 bound) endless.1 (.inr ⟨rfl, endless.2⟩)
  · exact leaves (op := 1) rfl bound
      (fun ⟨strict, h⟩ => h.elim (fun h => here ⟨strict, h⟩) fun h => limited ⟨strict, h.2⟩) fun no => absurd no (by decide)
  · exact leaves (op := 2) rfl bound (fun ⟨strict, h⟩ => h.elim (fun h => here ⟨strict, h⟩) fun h => absurd h.1 (by decide))
      fun no => absurd no (by decide)
end

section
/-!
PROOFS. Atomics of a remote home (`Obligations.RemoteAtomics`).
-/

namespace Sys2Proof.Machine

/-- A request is one message whose reply is awaited at latency 6, or that is only acknowledged. -/
theorem request_eq (s : State) (l : Loc) (op : MsgOp) (dest : Dest) (waits : Bool) (val : Word) (slot : Nat) :
    s.request l op dest waits val slot = s.sent (s.message l op dest waits val slot) waits 6 := by
  rw [State.request, send_eq]
  rfl

/-- The source row of a VACC that can be read changes nothing of the access (R277). -/
theorem atomic_row {s : State} {base : BitVec 5} {ord : Bool} {g : BitVec 3} {size r : Nat} {bs : List Nat} {at_ : Atomic}
    {dest : Dest} {mw : Bool} (acts : s.actsLs g (0 :: bs)) (ha : (s.c.regs.rx base).toNat % size = 0)
    (hacc : s.targetsAcc (s.c.regs.rx base).toNat = true) (src : s.reachable (rowOff r) 512 true false) :
    s.atomic base ord g size bs (some r) at_ dest mw = s.atomic base ord g size bs none at_ dest mw := by
  have aimed : ¬ s.aim s.c (s.c.regs.rx base).toNat = .bad := by
    intro bad
    rw [State.targetsAcc, bad] at hacc
    exact Bool.false_ne_true hacc
  have even : ¬ ((s.c.regs.rx base).toNat % size != 0) = true := by simp [ha]
  have inAcc : ¬ (!s.targetsAcc (s.c.regs.rx base).toNat) = true := by simp [hacc]
  rw [State.atomic, State.atomic, guardedLs_acts acts, guardedLs_acts acts]
  dsimp only
  rw [if_neg even, if_neg aimed, if_neg inAcc, if_neg even, if_neg aimed, if_neg inAcc, ownAccess_reachable src]

/-- The destination of a 6-bit field is none for x0 and y0. -/
theorem dest6_isSome (d : BitVec 6) : (dest6 d != .none) = decide (d.toNat % 32 ≠ 0) := by
  unfold dest6
  split
  · next zero => simp [zero]
  · next some_ => split <;> simp [some_]

/-- The number of a pair of registers, halved in the word (R85). -/
theorem pairField (d : BitVec 5) : d.setWidth 6 <<< 1 = BitVec.ofNat 6 (2 * d.toNat) := by
  revert d; decide

theorem pairField_toNat (d : BitVec 5) : (BitVec.ofNat 6 (2 * d.toNat)).toNat = 2 * d.toNat := by
  revert d; decide

section Away
variable {s : State} {base : BitVec 5} {ord : Bool} {g : BitVec 3} {size : Nat} {l : Loc}

/-- An aligned atomic on accumulator SRAM of a reachable remote home (R272, R278). -/
structure State.atomicAway (s : State) (base : BitVec 5) (size : Nat) (l : Loc) : Prop where
  aligned : (s.c.regs.rx base).toNat % size = 0
  acc : s.targetsAcc (s.c.regs.rx base).toNat = true
  remote : ∀ o, s.aim s.c (s.c.regs.rx base).toNat ≠ .own o
  home : s.reach 3 (s.c.regs.rx base) (s.aim s.c (s.c.regs.rx base).toNat) true = .home l

/-- The request of an atomic. -/
def State.atomicMsg (s : State) (base : BitVec 5) (l : Loc) (at_ : Atomic) (dest : Dest) (waits : Bool) : Msg :=
  s.message l (.atomic at_) dest waits (s.c.regs.rx base) 3

variable (away : s.atomicAway base size l) (ordered : ord = true → s.ordered 4) {dest : Dest}
include away ordered

theorem atomic_leaves {bs : List Nat} {at_ : Atomic} {mw : Bool} (acts : s.actsLs g (0 :: bs))
    (below : s.below (dest != .none || ord || mw)) : commit 3 s (s.atomic base ord g size bs none at_ dest mw) =
      .next (s.sent (s.atomicMsg base l at_ dest (dest != .none || ord || mw)) (dest != .none || ord || mw) 6) := by
  rw [atomic_far acts away.aligned away.acc away.remote away.home below ordered, commit_ok, request_eq]
  rfl

/-- AINT, AFP and ACAS on registers. -/
theorem atomicReg_leaves {d sr : BitVec 6} {op : AtomOp} (acts : s.actsLs g [0, regBlock6 d, regBlock6 sr, 2])
    (below : s.below (decide (d.toNat % 32 ≠ 0) || ord)) : commit 3 s (s.atomicReg d base sr ord g size op) =
      .next (s.sent (s.atomicMsg base l { op := op, sv := s.c.rd6 sr, dv := s.c.rd6 d, vctl := s.c.ctl.vctl } (dest6 d)
        (decide (d.toNat % 32 ≠ 0) || ord)) (decide (d.toNat % 32 ≠ 0) || ord) 6) := by
  have waits : (dest6 d != .none || ord || false) = (decide (d.toNat % 32 ≠ 0) || ord) := by
    rw [Bool.or_false, dest6_isSome]
  rw [State.atomicReg, atomic_leaves away ordered acts (by rwa [waits]), waits]

end Away

/-- A VACC takes its row with it. -/
theorem vacc_leaves {s : State} {d : BitVec 6} {base : BitVec 5} {ord : Bool} {g : BitVec 3} {fn : Nat} {l : Loc}
    (away : s.atomicAway base 512 l) (ordered : ord = true → s.ordered 4) (acts : s.actsLs g [0, 2])
    (src : s.reachable (rowOff (s.c.row d)) 512 true false) (below : s.below ord) :
    commit 3 s (s.vaccWord d base ord g fn) = .next (s.sent (s.atomicMsg base l
      { op := .vacc fn, row := s.readSlice s.cur (rowOff (s.c.row d)) 512, vctl := s.c.ctl.vctl } .none ord) ord 6) := by
  have waits : (Dest.none != .none || ord || false) = ord := by simp
  rw [State.vaccWord, atomic_row acts away.aligned away.acc src, atomic_leaves away ordered acts (by rwa [waits]), waits]
  rfl

/-- ACAS.Q awaits both words of its pair. -/
theorem atomicQ_leaves {s : State} {dp sp base : BitVec 5} {ord : Bool} {g : BitVec 3} {l : Loc}
    (away : s.atomicAway base 16 l) (ordered : ord = true → s.ordered 4)
    (acts : s.actsLs g [0, regBlock6 (BitVec.ofNat 6 (2 * dp.toNat)), regBlock6 (BitVec.ofNat 6 (2 * sp.toNat))])
    (below : s.below true) : exec (.acasQ dp base sp ord g) s = .next (s.sent (s.atomicMsg base l
      { op := .cas 16, sv := s.c.rd6 (BitVec.ofNat 6 (2 * sp.toNat)), sv2 := s.c.rd6 (BitVec.ofNat 6 (2 * sp.toNat) + 1)
        dv := s.c.rd6 (BitVec.ofNat 6 (2 * dp.toNat)), dv2 := s.c.rd6 (BitVec.ofNat 6 (2 * dp.toNat) + 1) }
      (.pair (decide (16 ≤ dp.toNat)) (BitVec.ofNat 5 (BitVec.ofNat 6 (2 * dp.toNat)).toNat)) true) true 6) := by
  have high : decide (32 ≤ (BitVec.ofNat 6 (2 * dp.toNat)).toNat) = decide (16 ≤ dp.toNat) := by
    rw [pairField_toNat]
    exact decide_eq_decide.2 (by omega)
  show commit 3 s (s.atomicQ (dp.setWidth 6 <<< 1) base (sp.setWidth 6 <<< 1) ord g) = _
  rw [pairField, pairField, State.atomicQ, high, atomic_leaves away ordered acts (by rwa [Bool.or_true]), Bool.or_true]

end Sys2Proof.Machine

open Sys2Proof Sys2Proof.Machine

/-- Settles O25: every atomic is one request, with what its kind of word read at issue. -/
theorem remoteAtomics : Obligations.RemoteAtomics := by
  unfold Obligations.RemoteAtomics
  intro d base sr fmt ord g dp sp l s ordered a away goes d2 s2
  have home {size : Nat} (h : away size) : s.atomicAway base size l := by
    obtain ⟨aligned, acc, remote, reach⟩ := h
    exact ⟨aligned, acc, remote, reach⟩
  have leaves {i : Instr} {at_ : Atomic} {dest : Dest} {waits : Bool}
      (word : s.below waits → exec i s = .next (s.sent (s.atomicMsg base l at_ dest waits) waits 6)) : goes i at_ dest waits := by
    intro below
    have sent := sent_sends s (s.atomicMsg base l at_ dest waits) waits 6
    exact ⟨_, word below, sent.regs, sent.mem, ⟨_, sent.msgs, rfl, rfl, rfl, rfl, rfl, rfl, rfl, rfl, rfl, rfl⟩, sent.acked,
      fun awaits => ⟨_, sent.awaited awaits, rfl, rfl, rfl, rfl⟩⟩
  refine ⟨fun acts => ?_, fun acts far => leaves fun below => atomicQ_leaves (home far) ordered acts below,
    fun acts far src => ?_⟩
  · have reg (size : Nat) (op : AtomOp) (i : Instr) (word : exec i s = commit 3 s (s.atomicReg d base sr ord g size op)) :
        away size → goes i { op := op, sv := s.c.rd6 sr, dv := s.c.rd6 d, vctl := s.c.ctl.vctl } (dest6 d)
          (decide (d.toNat % 32 ≠ 0) || ord) :=
      fun far => leaves fun below => word.trans (atomicReg_leaves (home far) ordered acts below)
    simp only [List.forall_mem_cons, List.not_mem_nil, false_implies, implies_true, and_true]
    exact ⟨reg 4 (.int 0) _ rfl, reg 8 (.int 1) _ rfl, reg 8 (.int 2) _ rfl, reg 8 (.int 3) _ rfl, reg 8 (.int 4) _ rfl,
      reg 8 (.int 5) _ rfl, reg 8 (.int 6) _ rfl, reg 8 (.int 7) _ rfl, reg 8 (.int 8) _ rfl, reg 4 (.int 9) _ rfl,
      reg 8 (.int 10) _ rfl, reg 4 (.cas 4) _ rfl, reg 8 (.cas 8) _ rfl, reg _ (.fp 0 fmt.toNat) _ rfl,
      reg _ (.fp 1 fmt.toNat) _ rfl, reg _ (.fp 2 fmt.toNat) _ rfl⟩
  · have row (fn : Nat) (i : Instr) (word : exec i s = commit 3 s (s.vaccWord d base ord g fn)) :
        goes i { op := .vacc fn, row := s.readSlice s.cur (rowOff (s.c.row d)) 512, vctl := s.c.ctl.vctl } .none ord :=
      leaves fun below => word.trans (vacc_leaves (home far) ordered acts src below)
    simp only [List.forall_mem_cons, List.not_mem_nil, false_implies, implies_true, and_true]
    exact ⟨row 0 _ rfl, row 1 _ rfl, row 2 _ rfl, row 3 _ rfl, row 4 _ rfl, row 5 _ rfl⟩
end

section
/-!
PROOFS. Atomics on the own accumulator SRAM (`Obligations.OwnAtomicsAll`).
-/

namespace Sys2Proof.Machine

/-! ### Results put in flight -/

theorem ctxPend_active (c : Ctx) (lat : Nat) (ls : List Land) :
    (c.pend lat ls).active = c.active ++ [{ left := lat, lands := ls }] := by
  rw [Ctx.pend, Ctx.active, Ctx.active]
  cases mode : c.ctl.hmode <;> simp [mode]

theorem ctxPend_sameRegs (c : Ctx) (lat : Nat) (ls : List Land) : (c.pend lat ls).sameRegs c := by
  rw [Ctx.pend]
  split <;> exact ⟨rfl, rfl, rfl, rfl⟩

theorem ctxPend_pc (c : Ctx) (lat : Nat) (ls : List Land) : (c.pend lat ls).pc = c.pc := by
  rw [Ctx.pend]
  split <;> rfl

/-- From s to t only results were put in flight for the current context, and these are `ps`. -/
structure State.flies (s : State) (ps : List Pending) (t : State) : Prop where
  regs : t.c.sameRegs s.c
  pc : t.c.pc = s.c.pc
  active : t.c.active = s.c.active ++ ps
  others : ∀ n, n ≠ s.cur → t.ctxOf n = s.ctxOf n
  mem : t.mem = s.mem
  msgs : t.msgs = s.msgs
  cur : t.cur = s.cur

theorem Ctx.sameRegs.trans {a b c : Ctx} (h : c.sameRegs b) (k : b.sameRegs a) : c.sameRegs a := by
  obtain ⟨regs, ctl, trap, eng⟩ := h
  obtain ⟨regs', ctl', trap', eng'⟩ := k
  exact ⟨regs.trans regs', ctl.trans ctl', trap.trans trap', eng.trans eng'⟩

section Flies
variable {s t u : State} {ps qs : List Pending}

theorem State.flies.refl (s : State) : s.flies [] s :=
  ⟨⟨rfl, rfl, rfl, rfl⟩, rfl, (List.append_nil _).symm, fun _ _ => rfl, rfl, rfl, rfl⟩

theorem State.flies.trans (h : s.flies ps t) (k : t.flies qs u) : s.flies (ps ++ qs) u :=
  ⟨k.regs.trans h.regs, k.pc.trans h.pc, by rw [k.active, h.active, List.append_assoc],
    fun n hn => (k.others n (by rwa [h.cur])).trans (h.others n hn), k.mem.trans h.mem, k.msgs.trans h.msgs, k.cur.trans h.cur⟩

theorem pend_flies (s : State) (lat : Nat) (ls : List Land) : s.flies [{ left := lat, lands := ls }] (s.pend lat ls) := by
  refine ⟨?_, ?_, ?_, fun n hn => modCtx_other s hn _, rfl, rfl, rfl⟩
  · rw [State.pend, modC_c]; exact ctxPend_sameRegs ..
  · rw [State.pend, modC_c]; exact ctxPend_pc ..
  · rw [State.pend, modC_c]; exact ctxPend_active ..

/-- Flags that are raised are in flight for one cycle (R136). -/
theorem raiseFlags_flies (s : State) (fl : BitVec 9) :
    s.flies (if fl = 0 then [] else [{ left := 1, lands := [.flags fl] }]) (s.raiseFlags fl) := by
  rw [State.raiseFlags]
  split
  · exact .refl s
  · exact pend_flies ..

end Flies

/-! ### What an atomic writes (R273, R278) -/

/-- Bytes of a slice depend on memory and on the block map alone. -/
theorem readSlice_congr {s t : State} {n : Nat} (mem : t.mem = s.mem) (eng : (t.ctxOf n).eng = (s.ctxOf n).eng) (o len : Nat) :
    t.readSlice n o len = s.readSlice n o len := by
  simp only [State.readSlice, State.sliceAt, mem, eng]

/-- The bytes of an atomic's update and what it leaves: of the own context at most a fused sequence ends (R182). -/
structure State.updates (s : State) (o size : Nat) (new : List Byte) (t : State) : Prop where
  read : t.readSlice s.cur o size = new
  only : s.sameMemBut t (s.ownKeys o size)
  ctx : ∃ f, t.c = { s.c with fusion := f }
  others : ∀ n, n ≠ s.cur → t.ctxOf n = s.ctxOf n
  msgs : t.msgs = s.msgs
  cur : t.cur = s.cur

theorem mergeClock_ctxOf (s : State) (d : Nat) (v : List Nat) (n : Nat) : (s.mergeClock d v).ctxOf n = s.ctxOf n := by
  simp only [State.ctxOf, State.sp, mergeClock_spindles]

theorem localWrite_other (s : State) {m n : Nat} (h : m ≠ n) (off : Nat) (bs : List Byte) :
    (s.localWrite n off bs).ctxOf m = s.ctxOf m := by
  have same : (s.localWrite n off bs).ctxOf m = (s.writeSlice n off bs).ctxOf m := rfl
  rw [same, State.writeSlice, modCtx_other _ h, putSlice_ctxOf]

theorem localWrite_cur (s : State) (n off : Nat) (bs : List Byte) : (s.localWrite n off bs).cur = s.cur := by
  obtain ⟨m, put⟩ := putSlice_frame s n off bs (bs.length / 65536 + 2)
  show (s.putSlice n off bs _).cur = _
  rw [put]

theorem localWrite_msgs (s : State) (n off : Nat) (bs : List Byte) : (s.localWrite n off bs).msgs = s.msgs := by
  obtain ⟨m, put⟩ := putSlice_frame s n off bs (bs.length / 65536 + 2)
  show (s.putSlice n off bs _).msgs = _
  rw [put]

theorem localWrite_readSlice {s : State} (n off : Nat) (bs : List Byte) (h : s.sound) (short : bs.length ≤ 65536) :
    (s.localWrite n off bs).readSlice n off bs.length = bs := by
  have same : (s.localWrite n off bs).readSlice n off bs.length = (s.writeSlice n off bs).readSlice n off bs.length := rfl
  rw [same, readSlice_writeSlice n off bs h short]

theorem mem_ownKeys {s : State} {o len i : Nat} (hi : i < len) : s.sliceAt s.cur (o + i) ∈ s.ownKeys o len :=
  List.mem_map.2 ⟨i, List.mem_range.2 hi, rfl⟩

theorem localWrite_updates {s : State} (o : Nat) (bs : List Byte) (sound : s.sound) (short : bs.length ≤ 65536) :
    s.updates o bs.length bs (s.localWrite s.cur o bs) := by
  have cur := localWrite_cur s s.cur o bs
  refine ⟨localWrite_readSlice _ _ _ sound short, fun a out => ?_, ⟨Fusion.after s.c.fusion o bs.length, ?_⟩,
    fun n hn => localWrite_other s hn o bs, localWrite_msgs .., cur⟩
  · rw [localWrite_cells]
    exact writeSlice_out _ _ _ _ sound fun i hi e => out (e ▸ mem_ownKeys hi)
  · rw [State.c, cur, localWrite_ctx, ← State.c]

theorem updates_nothing (s : State) (o size : Nat) : s.updates o size (s.readSlice s.cur o size) s :=
  ⟨rfl, fun _ _ => rfl, ⟨s.c.fusion, rfl⟩, fun _ _ => rfl, rfl, rfl⟩

/-- A read merges clocks before the update (R260). -/
theorem State.updates.afterMerge {s t : State} {d o size : Nat} {v : List Nat} {new : List Byte}
    (h : (s.mergeClock d v).updates o size new t) : s.updates o size new t := by
  obtain ⟨c, merged⟩ := mergeClock_frame s d v
  rw [merged] at h
  exact ⟨h.read, h.only, h.ctx, h.others, h.msgs, h.cur⟩

/-- What an atomic on the own slice does: its bytes, its result and its flags in flight, and nothing else. -/
structure State.atomicDoes (s : State) (o size : Nat) (new : List Byte) (ps : List Pending) (t : State) : Prop where
  read : t.readSlice s.cur o size = new
  only : s.sameMemBut t (s.ownKeys o size)
  regs : s.sameRegs t
  pc : t.c.pc = s.c.pc
  msgs : t.msgs = s.msgs
  active : t.c.active = s.c.active ++ ps

theorem State.updates.flies {s t u : State} {o size : Nat} {new : List Byte} {ps : List Pending} (h : s.updates o size new t)
    (k : t.flies ps u) : s.atomicDoes o size new ps u := by
  obtain ⟨f, ctx⟩ := h.ctx
  have regs : t.c.sameRegs s.c := by rw [ctx]; exact ⟨rfl, rfl, rfl, rfl⟩
  have eng : (u.ctxOf s.cur).eng = (t.ctxOf s.cur).eng := by
    obtain ⟨-, -, -, eng⟩ := k.regs
    rwa [State.c, State.c, k.cur, h.cur] at eng
  refine ⟨(readSlice_congr k.mem eng o size).trans h.read, fun a out => ?_, ⟨k.regs.trans regs, fun n hn => ?_⟩, ?_,
    k.msgs.trans h.msgs, ?_⟩
  · rw [k.mem]; exact h.only a out
  · exact (k.others n (by rwa [h.cur])).trans (h.others n hn)
  · rw [k.pc, ctx]
  · rw [k.active, ctx]
    rfl

/-- An atomic on the own slice, by what its update gives for the bytes there. -/
theorem atomicDone_does {s : State} {o size : Nat} {at_ : Atomic} {dest : Dest} (sound : s.sound) (short : size ≤ 65536)
    (full : ∀ b, (at_.update (s.readSlice s.cur o size)).bytes = some b → b.length = size) :
    let u := at_.update (s.readSlice s.cur o size)
    s.atomicDoes o size (u.bytes.getD (s.readSlice s.cur o size))
      ((if dest = .none then [] else [{ left := 6, lands := dest.lands u.v u.v2 [] }])
        ++ if u.fl = 0 then [] else [{ left := 1, lands := [.flags u.fl] }]) (s.atomicDone o size at_ dest) := by
  intro u
  have result (t : State) : t.flies (if dest = .none then [] else [{ left := 6, lands := dest.lands u.v u.v2 [] }])
      (if dest = .none then t else t.pend 6 (dest.lands u.v u.v2 [])) := by
    split
    · exact .refl t
    · exact pend_flies ..
  have flies (t : State) := (result t).trans (raiseFlags_flies _ u.fl)
  have merged : ((s.mergeClock (dieOf s.cur) (s.tagsOf (.slice s.cur o) size))).cur = s.cur := mergeClock_cur ..
  rw [State.atomicDone]
  cases bytes : u.bytes with
  | none =>
    refine State.updates.flies (t := s.mergeClock (dieOf s.cur) (s.tagsOf (.slice s.cur o) size)) ?_ ?_
    · refine State.updates.afterMerge (d := dieOf s.cur) (v := s.tagsOf (.slice s.cur o) size) ?_
      have same : (s.mergeClock (dieOf s.cur) (s.tagsOf (.slice s.cur o) size)).readSlice s.cur o size = s.readSlice s.cur o size :=
        readSlice_congr (mergeClock_mem ..) (by rw [mergeClock_ctxOf]) o size
      have nothing := updates_nothing (s.mergeClock (dieOf s.cur) (s.tagsOf (.slice s.cur o) size)) o size
      rwa [merged, same] at nothing
    · simp only [show at_.update (s.readSlice s.cur o size) = u from rfl]
      exact flies _
  | some b =>
    have length : b.length = size := full b bytes
    subst length
    refine State.updates.flies
      (t := (s.mergeClock (dieOf s.cur) (s.tagsOf (.slice s.cur o) b.length)).localWrite s.cur o b) ?_ ?_
    · refine State.updates.afterMerge (d := dieOf s.cur) (v := s.tagsOf (.slice s.cur o) b.length) ?_
      have sound' : (s.mergeClock (dieOf s.cur) (s.tagsOf (.slice s.cur o) b.length)).sound := by
        rw [State.sound, mergeClock_mem]; exact sound
      have written := localWrite_updates o b sound' short
      rwa [merged] at written
    · simp only [show at_.update (s.readSlice s.cur o b.length) = u from rfl]
      exact flies _

/-! ### Elements of an update (R275, R277) -/

theorem chunksOf_length {α : Type} {w : Nat} (hw : 0 < w) : ∀ (k fuel : Nat) (l : List α), l.length = w * k → k ≤ fuel →
    (chunksOf w fuel l).length = k
  | 0, fuel, l, hl, _ => by
    obtain rfl : l = [] := List.length_eq_zero_iff.1 (by rw [hl, Nat.mul_zero])
    cases fuel <;> rfl
  | k + 1, 0, l, _, hf => absurd hf (by omega)
  | k + 1, fuel + 1, [], hl, _ => by
    rw [List.length_nil, Nat.mul_succ] at hl
    omega
  | k + 1, fuel + 1, x :: l, hl, hf => by
    rw [chunksOf, List.length_cons, chunksOf_length hw k fuel _ (by rw [List.length_drop, hl, Nat.mul_succ]; omega) (by omega)]
    nofun

/-- Element by element an update keeps the length of whole elements. -/
theorem mapElems_length {w k : Nat} (hw : 0 < w) (f : Nat → Nat → Res) {a b : List Byte} (ha : a.length = w * k)
    (hb : b.length = w * k) : (mapElems w f a b).1.length = w * k := by
  have le : k ≤ w * k := Nat.le_mul_of_pos_left k hw
  simp only [mapElems, List.length_flatMap, List.map_map, Function.comp_def, bytesLE_length, List.map_const',
    List.sum_replicate, List.length_zip, smul_eq_mul]
  rw [chunksOf_length hw k _ a ha (by omega), chunksOf_length hw k _ b hb (by omega), Nat.min_self, Nat.mul_comm]

/-- Integer lanes raise no flag. -/
theorem mapElems_quiet {w : Nat} {f : Nat → Nat → Res} (hf : ∀ x y, (f x y).fl = 0) (a b : List Byte) :
    (mapElems w f a b).2 = 0 := by
  have quiet : ∀ (l : List Res), (∀ r ∈ l, r.fl = 0) → l.foldl (fun fl r => fl ||| r.fl) (0 : BitVec 9) = 0 := by
    intro l hl
    induction l with
    | nil => rfl
    | cons r l ih =>
      rw [List.foldl_cons, hl r List.mem_cons_self]
      exact ih fun x hx => hl x (List.mem_cons_of_mem _ hx)
  refine quiet _ fun r hr => ?_
  obtain ⟨p, -, rfl⟩ := List.mem_map.1 hr
  exact hf _ _

theorem readSlice_length (s : State) (n o len : Nat) : (s.readSlice n o len).length = len := by
  rw [State.readSlice, List.length_map, List.length_range]

/-! ### The words -/

/-- The write of a returned value to a register, and none for x0 and y0. -/
theorem dest6_lands (d : BitVec 6) (v w : Word) :
    (if dest6 d = .none then ([] : List Pending) else [{ left := 6, lands := (dest6 d).lands v w [] }])
      = if d.toNat % 32 = 0 then [] else [{ left := 6, lands := [landReg6 d v] }] := by
  unfold dest6 landReg6
  by_cases zero : d.toNat % 32 = 0
  · simp [zero]
  · by_cases low : d.toNat < 32 <;> simp [zero, low, Dest.lands]

/-- The old words of a pair. -/
theorem pair_lands (dp : BitVec 5) (v w : Word) :
    (Dest.pair (decide (32 ≤ (BitVec.ofNat 6 (2 * dp.toNat)).toNat)) (BitVec.ofNat 5 (BitVec.ofNat 6 (2 * dp.toNat)).toNat)).lands v w []
      = [landReg6 (BitVec.ofNat 6 (2 * dp.toNat)) v, landReg6 (BitVec.ofNat 6 (2 * dp.toNat) + 1) w] := by
  have low : ∀ d : BitVec 5, (BitVec.ofNat 6 (2 * d.toNat)).toNat < 32 ↔ (BitVec.ofNat 6 (2 * d.toNat) + 1).toNat < 32 := by decide
  have second : ∀ d : BitVec 5, BitVec.ofNat 5 (BitVec.ofNat 6 (2 * d.toNat)).toNat + 1
      = BitVec.ofNat 5 (BitVec.ofNat 6 (2 * d.toNat) + 1).toNat := by decide
  unfold landReg6
  by_cases h : (BitVec.ofNat 6 (2 * dp.toNat)).toNat < 32
  · rw [decide_eq_false (by omega), if_pos h, if_pos ((low dp).1 h), ← second]
    rfl
  · rw [decide_eq_true (by omega), if_neg h, if_neg (mt (low dp).2 h), ← second]
    rfl

theorem ite_some_getD {α : Type} (c : Prop) [Decidable c] (x y : α) : (if c then some x else none).getD y = if c then x else y := by
  split <;> rfl

/-- The update of ACAS.Q writes the pair where both words are equal (R276). -/
theorem cas16_bytes (at_ : Atomic) (m : List Byte) : (Atomic.update { at_ with op := .cas 16 } m).bytes =
    if BitVec.ofNat 64 (ofBytesLE (m.take 8)) = at_.dv ∧ BitVec.ofNat 64 (ofBytesLE (m.drop 8)) = at_.dv2
    then some (bytesLE at_.sv.toNat 8 ++ bytesLE at_.sv2.toNat 8) else none := rfl

/-- An aligned atomic on reachable own accumulator SRAM (R272, R278). -/
structure State.atomicHere (s : State) (base : BitVec 5) (o size : Nat) (rd : Bool) : Prop where
  aligned : (s.c.regs.rx base).toNat % size = 0
  own : s.aim s.c (s.c.regs.rx base).toNat = .own o
  acc : 0x1000000 ≤ o
  reach : s.reachable o size rd true

/-- What the update of an atomic gives, and how long the bytes are that it writes. -/
structure Atomic.gives (at_ : Atomic) (m new : List Byte) (old : Word) (fl : BitVec 9) : Prop where
  new : (at_.update m).bytes.getD m = new
  old : (at_.update m).v = old
  flags : (at_.update m).fl = fl
  length : ∀ b, (at_.update m).bytes = some b → b.length = m.length

section Updates
variable (at_ : Atomic) (m : List Byte) {row : List Byte} {vctl : BitVec 5}

theorem int_gives (fn : Nat) : Atomic.gives { at_ with op := .int fn } m
    (bytesLE (aintNew fn (BitVec.ofNat 64 (ofBytesLE m)) at_.sv).toNat m.length)
    (if m.length = 4 then loadValue true m else BitVec.ofNat 64 (ofBytesLE m)) 0 := by
  refine ⟨rfl, rfl, rfl, fun b hb => ?_⟩
  cases hb
  exact bytesLE_length ..

theorem fp_gives (op k : Nat) {n : Nat} (some_ : 0 < (afpFmt k).2) (whole : m.length = (afpFmt k).2 * n) :
    Atomic.gives { at_ with op := .fp op k } m
      (mapElems (afpFmt k).2 (fun x y => fpUpdate (afpFmt k).1 op x y (at_.vctl.toNat % 4) false false) m
        (bytesLE at_.sv.toNat m.length)).1 (BitVec.ofNat 64 (ofBytesLE m))
      (mapElems (afpFmt k).2 (fun x y => fpUpdate (afpFmt k).1 op x y (at_.vctl.toNat % 4) false false) m
        (bytesLE at_.sv.toNat m.length)).2 := by
  refine ⟨rfl, rfl, rfl, fun b hb => ?_⟩
  cases hb
  exact (mapElems_length some_ _ whole ((bytesLE_length ..).trans whole)).trans whole.symm

theorem cas_gives {size : Nat} (plain : size ≠ 16) (length : m.length = size) :
    Atomic.gives { at_ with op := .cas size } m
      (if bytesLE at_.dv.toNat size = m then bytesLE at_.sv.toNat size else m)
      (if size = 4 then loadValue true m else BitVec.ofNat 64 (ofBytesLE m)) 0 := by
  have update : Atomic.update { at_ with op := .cas size } m =
      ⟨if bytesLE at_.dv.toNat size = m then some (bytesLE at_.sv.toNat size) else none,
        if size = 4 then loadValue true m else BitVec.ofNat 64 (ofBytesLE m), 0, 0⟩ := if_neg plain
  refine ⟨by rw [update]; exact ite_some_getD .., by rw [update], by rw [update], fun b hb => ?_⟩
  rw [update] at hb
  dsimp only at hb
  split at hb
  · cases hb; rw [bytesLE_length, length]
  · cases hb

theorem cas16_gives (length : m.length = 16) : Atomic.gives { at_ with op := .cas 16 } m
    (if BitVec.ofNat 64 (ofBytesLE (m.take 8)) = at_.dv ∧ BitVec.ofNat 64 (ofBytesLE (m.drop 8)) = at_.dv2
      then bytesLE at_.sv.toNat 8 ++ bytesLE at_.sv2.toNat 8 else m) (BitVec.ofNat 64 (ofBytesLE (m.take 8))) 0 := by
  refine ⟨ite_some_getD .., rfl, rfl, fun b hb => ?_⟩
  have bytes := (cas16_bytes at_ m).symm.trans hb
  split at bytes
  · cases bytes; rw [List.length_append, bytesLE_length, bytesLE_length, length]
  · cases bytes

theorem vacc0_gives (length : row.length = m.length) : Atomic.gives { op := .vacc 0, row := row, vctl := vctl } m row 0 0 := by
  refine ⟨rfl, rfl, rfl, fun b hb => ?_⟩
  cases hb
  exact length

/-- A VACC.ADD updates the lanes of its type (R277). -/
theorem vacc_gives {fn w n : Nat} {f : Nat → Nat → Res} (adds : fn ≠ 0)
    (lane : laneUpdate fn 0 (vctl.toNat % 4) (vctl.getLsbD 3) (vctl.getLsbD 4) = (w, f)) (some_ : 0 < w)
    (whole : m.length = w * n) (length : row.length = m.length) :
    Atomic.gives { op := .vacc fn, row := row, vctl := vctl } m (mapElems w f m row).1 0 (mapElems w f m row).2 := by
  have update : Atomic.update { op := .vacc fn, row := row, vctl := vctl } m = ⟨some (mapElems w f m row).1, 0, 0, (mapElems w f m row).2⟩ := by
    cases fn with
    | zero => exact absurd rfl adds
    | succ fn => rw [Atomic.update]; simp only [lane]
  refine ⟨by rw [update]; rfl, by rw [update], by rw [update], fun b hb => ?_⟩
  rw [update] at hb
  cases hb
  rw [mapElems_length some_ _ whole (length.trans whole), whole]

end Updates

theorem aintNew_min (m v : Word) : aintNew 5 m v = if m.toInt < v.toInt then m else v := by
  simp only [aintNew, BitVec.slt, decide_eq_true_eq]

theorem aintNew_max (m v : Word) : aintNew 6 m v = if m.toInt < v.toInt then v else m := by
  simp only [aintNew, BitVec.slt, decide_eq_true_eq]

theorem aintNew_minz (m v : Word) : aintNew 7 m v = if m.toNat < v.toNat then m else v := by
  simp only [aintNew, BitVec.ult, decide_eq_true_eq]

theorem aintNew_maxz (m v : Word) : aintNew 8 m v = if m.toNat < v.toNat then v else m := by
  simp only [aintNew, BitVec.ult, decide_eq_true_eq]

/-- An AFP updates whole elements of its format (R275). -/
theorem afpFmt_whole (fmt : BitVec 2) : ∃ k, 0 < (afpFmt fmt.toNat).2 ∧ (if fmt = 3 then 8 else 4) ≤ 65536
    ∧ (if fmt = 3 then 8 else 4) = (afpFmt fmt.toNat).2 * k :=
  match fmt with
  | 0 => ⟨2, by decide, by decide, rfl⟩
  | 1 => ⟨2, by decide, by decide, rfl⟩
  | 2 => ⟨1, by decide, by decide, rfl⟩
  | 3 => ⟨1, by decide, by decide, rfl⟩

/-- A returned value in flight to a register (R278). -/
def oldTo (d : BitVec 6) (v : Word) : List Pending := if d.toNat % 32 = 0 then [] else [{ left := 6, lands := [landReg6 d v] }]

/-- The flags of an atomic in flight (R275). -/
def flagsOut (fl : BitVec 9) : List Pending := if fl = 0 then [] else [{ left := 1, lands := [.flags fl] }]

/-- ACAS.Q with what it reads at issue (R276). -/
def State.pairOf (s : State) (dp sp : BitVec 5) : Atomic :=
  { op := .cas 16, sv := s.c.rd6 (BitVec.ofNat 6 (2 * sp.toNat)), sv2 := s.c.rd6 (BitVec.ofNat 6 (2 * sp.toNat) + 1)
    dv := s.c.rd6 (BitVec.ofNat 6 (2 * dp.toNat)), dv2 := s.c.rd6 (BitVec.ofNat 6 (2 * dp.toNat) + 1) }

section Here
variable {s : State} {base : BitVec 5} {ord : Bool} {g : BitVec 3} {o : Nat} (sound : s.sound)
  (ordered : ord = true → s.ordered 4)
include sound ordered

/-- AINT, AFP and ACAS on registers. -/
theorem atomicReg_does {d sr : BitVec 6} {op : AtomOp} {size : Nat} (short : size ≤ 65536)
    (acts : s.actsLs g [0, regBlock6 d, regBlock6 sr, 2]) (here : s.atomicHere base o size true) (scalar : op ≠ .vacc 0)
    {new : List Byte} {old : Word} {fl : BitVec 9}
    (gives : Atomic.gives { op := op, sv := s.c.rd6 sr, dv := s.c.rd6 d, vctl := s.c.ctl.vctl } (s.readSlice s.cur o size) new old fl) :
    ∃ t, commit 3 s (s.atomicReg d base sr ord g size op) = .next t
      ∧ s.atomicDoes o size new (oldTo d old ++ flagsOut fl) t := by
  obtain ⟨rfl, rfl, rfl, length⟩ := gives
  have reads : (op != .vacc 0) = true := bne_iff_ne.2 scalar
  rw [State.atomicReg, atomic_own acts here.aligned here.own here.acc (by rw [reads]; exact here.reach) ordered, commit_ok, oldTo,
    ← dest6_lands d _ (Atomic.update { op := op, sv := s.c.rd6 sr, dv := s.c.rd6 d, vctl := s.c.ctl.vctl }
      (s.readSlice s.cur o size)).v2]
  exact ⟨_, rfl, atomicDone_does sound short fun b hb => (length b hb).trans (readSlice_length ..)⟩

/-- ACAS.Q returns both old words to its pair (R276). -/
theorem atomicQ_does {dp sp : BitVec 5}
    (acts : s.actsLs g [0, regBlock6 (BitVec.ofNat 6 (2 * dp.toNat)), regBlock6 (BitVec.ofNat 6 (2 * sp.toNat))])
    (here : s.atomicHere base o 16 true) {d sr : BitVec 6} (hd : d = BitVec.ofNat 6 (2 * dp.toNat))
    (hs : sr = BitVec.ofNat 6 (2 * sp.toNat)) {lo hi : Word}
    (hlo : BitVec.ofNat 64 (ofBytesLE ((s.readSlice s.cur o 16).take 8)) = lo)
    (hhi : BitVec.ofNat 64 (ofBytesLE ((s.readSlice s.cur o 16).drop 8)) = hi) :
    ∃ t, exec (.acasQ dp base sp ord g) s = .next t ∧ s.atomicDoes o 16
      (if lo = s.c.rd6 d ∧ hi = s.c.rd6 (d + 1) then bytesLE (s.c.rd6 sr).toNat 8 ++ bytesLE (s.c.rd6 (sr + 1)).toNat 8
        else s.readSlice s.cur o 16)
      [{ left := 6, lands := [landReg6 d lo, landReg6 (d + 1) hi] }] t := by
  subst hd hs hlo hhi
  have word : exec (.acasQ dp base sp ord g) s = commit 3 s (s.atomic base ord g 16
      [regBlock6 (BitVec.ofNat 6 (2 * dp.toNat)), regBlock6 (BitVec.ofNat 6 (2 * sp.toNat))] none (s.pairOf dp sp)
      (.pair (decide (32 ≤ (BitVec.ofNat 6 (2 * dp.toNat)).toNat)) (BitVec.ofNat 5 (BitVec.ofNat 6 (2 * dp.toNat)).toNat)) true) := by
    show commit 3 s (s.atomicQ (dp.setWidth 6 <<< 1) base (sp.setWidth 6 <<< 1) ord g) = _
    rw [pairField, pairField]
    rfl
  have issues := atomic_own (dest := .pair (decide (32 ≤ (BitVec.ofNat 6 (2 * dp.toNat)).toNat))
    (BitVec.ofNat 5 (BitVec.ofNat 6 (2 * dp.toNat)).toNat)) (mw := true) (at_ := s.pairOf dp sp) acts here.aligned here.own here.acc
    here.reach ordered
  rw [word, issues, commit_ok]
  refine ⟨_, rfl, ?_⟩
  obtain ⟨new, old, flags, length⟩ := cas16_gives (s.pairOf dp sp) (s.readSlice s.cur o 16) (readSlice_length ..)
  have done := atomicDone_does (dest := .pair (decide (32 ≤ (BitVec.ofNat 6 (2 * dp.toNat)).toNat))
    (BitVec.ofNat 5 (BitVec.ofNat 6 (2 * dp.toNat)).toNat)) (at_ := s.pairOf dp sp) (o := o) (size := 16) sound (by decide)
    fun b hb => (length b hb).trans (readSlice_length ..)
  dsimp only at done
  rw [pair_lands] at done
  exact new ▸ done

/-- VACC writes no register (R277). -/
theorem vacc_does {v : BitVec 6} {fn : Nat} (acts : s.actsLs g [0, 2]) (src : s.reachable (rowOff (s.c.row v)) 512 true false)
    {rd : Bool} (here : s.atomicHere base o 512 rd) (reads : (AtomOp.vacc fn != .vacc 0) = rd) {new : List Byte} {old : Word}
    {fl : BitVec 9} (gives : Atomic.gives { op := .vacc fn, row := s.readSlice s.cur (rowOff (s.c.row v)) 512, vctl := s.c.ctl.vctl }
      (s.readSlice s.cur o 512) new old fl) :
    ∃ t, commit 3 s (s.vaccWord v base ord g fn) = .next t ∧ s.atomicDoes o 512 new (flagsOut fl) t := by
  obtain ⟨rfl, rfl, rfl, length⟩ := gives
  rw [State.vaccWord, atomic_row_own acts here.aligned here.own here.acc (by rw [reads]; exact here.reach) src ordered, commit_ok]
  exact ⟨_, rfl, atomicDone_does (dest := .none) sound (by decide) fun b hb => (length b hb).trans (readSlice_length ..)⟩

end Here

end Sys2Proof.Machine

open Sys2Proof Sys2Proof.Machine

/-- Settles O24: each word by the update that its function gives for the bytes of the slice. -/
theorem ownAtomicsAll : Obligations.OwnAtomicsAll := by
  unfold Obligations.OwnAtomicsAll
  refine ⟨fun d base sr ord g o s sound acts ordered => ?regs, fun dp sp v base ord g o s sound ordered => ?rows⟩
  case regs =>
    intro a v dv on m word does old32 elems
    have length (size : Nat) : (m size).length = size := readSlice_length ..
    let at_ : Atomic := { op := .int 0, sv := v, dv := dv, vctl := s.c.ctl.vctl }
    have reg {i : Instr} {size : Nat} (op : AtomOp) {new : List Byte} {old : Word} {fl : BitVec 9} (short : size ≤ 65536)
        (is : exec i s = commit 3 s (s.atomicReg d base sr ord g size op)) (scalar : op ≠ .vacc 0)
        (gives : Atomic.gives { at_ with op := op } (m size) new old fl) : does i size new old fl := by
      intro ⟨aligned, own, acc, reach⟩
      obtain ⟨t, next, done⟩ := atomicReg_does sound ordered short acts ⟨aligned, own, acc, reach⟩ scalar gives
      exact ⟨t, is.trans next, done.read, done.only, done.regs, done.pc, done.msgs, done.active.trans (List.append_assoc ..).symm⟩
    have int (size fn : Nat) (short : size ≤ 65536) {i : Instr} {new old : Word}
        (is : exec i s = commit 3 s (s.atomicReg d base sr ord g size (.int fn)))
        (returns : (if size = 4 then loadValue true (m size) else word size) = old) (e : aintNew fn (word size) v = new) :
        does i size (bytesLE new.toNat size) old 0 := by
      have gives := int_gives at_ (m size) fn
      rw [length] at gives
      exact e ▸ returns ▸ reg (.int fn) short is nofun gives
    have cas (size : Nat) (short : size ≤ 65536) (plain : size ≠ 16) {i : Instr} {old : Word}
        (is : exec i s = commit 3 s (s.atomicReg d base sr ord g size (.cas size)))
        (returns : (if size = 4 then loadValue true (m size) else word size) = old) :
        does i size (if bytesLE dv.toNat size = m size then bytesLE v.toNat size else m size) old 0 :=
      returns ▸ reg (.cas size) short is nofun (cas_gives at_ (m size) plain (length size))
    have fp (op : Nat) (fmt : BitVec 2) {i : Instr}
        (is : exec i s = commit 3 s (s.atomicReg d base sr ord g (if fmt = 3 then 8 else 4) (.fp op fmt.toNat))) :
        does i (if fmt = 3 then 8 else 4) (elems op (if fmt = 3 then 8 else 4) fmt).1 (word (if fmt = 3 then 8 else 4))
          (elems op (if fmt = 3 then 8 else 4) fmt).2 := by
      obtain ⟨k, some_, short, whole⟩ := afpFmt_whole fmt
      generalize (if fmt = 3 then 8 else 4) = size at is whole short ⊢
      have gives := fp_gives at_ (m size) op fmt.toNat some_ ((length size).trans whole)
      rw [length] at gives
      exact reg (.fp op fmt.toNat) short is nofun gives
    refine ⟨?_, int 4 0 (by decide) rfl (if_pos rfl) rfl, int 4 9 (by decide) rfl (if_pos rfl) rfl,
      fun fmt => ?_,
      cas 4 (by decide) (by decide) rfl (if_pos rfl), cas 8 (by decide) (by decide) rfl (if_neg (by decide))⟩
    · have eight : 8 ≤ 65536 := by decide
      simp only [List.forall_mem_cons, List.not_mem_nil, false_implies, implies_true, and_true]
      have int8 (fn : Nat) {i : Instr} (is : exec i s = commit 3 s (s.atomicReg d base sr ord g 8 (.int fn))) {new : Word} :=
        int 8 fn eight (new := new) is (if_neg (by decide))
      exact ⟨int8 1 rfl rfl, int8 2 rfl rfl, int8 3 rfl rfl, int8 4 rfl rfl, int8 5 rfl (aintNew_min ..), int8 6 rfl (aintNew_max ..),
        int8 7 rfl (aintNew_minz ..), int8 8 rfl (aintNew_maxz ..), int8 10 rfl rfl⟩
    · simp only [List.forall_mem_cons, List.not_mem_nil, false_implies, implies_true, and_true]
      exact ⟨fp 0 fmt rfl, fp 1 fmt rfl, fp 2 fmt rfl⟩
  case rows =>
    intro a d sr on m leaves lo hi r row flags rm lanes
    have does {i : Instr} {size : Nat} {new : List Byte} {ps : List Pending}
        (h : ∃ t, exec i s = .next t ∧ s.atomicDoes o size new ps t) : leaves i size new ps := by
      obtain ⟨t, next, done⟩ := h
      exact ⟨t, next, done.read, done.only, done.regs, done.msgs, done.active⟩
    have length : (m 512).length = 512 := readSlice_length ..
    have rowLength : row.length = 512 := readSlice_length ..
    have same : row.length = (m 512).length := by rw [rowLength, length]
    refine ⟨fun acts ⟨aligned, own, acc, reach⟩ => does ?_, fun acts src => ⟨fun ⟨aligned, own, acc, reach⟩ => does ?_,
      fun ⟨aligned, own, acc, reach⟩ => ?_⟩⟩
    · exact atomicQ_does sound ordered acts ⟨aligned, own, acc, reach⟩ rfl rfl rfl rfl
    · exact vacc_does (fn := 0) sound ordered acts src ⟨aligned, own, acc, reach⟩ rfl
        (vacc0_gives (m 512) same)
    have add (fn : Nat) {w : Nat} (k : Nat) {f : Nat → Nat → Res} (adds : fn ≠ 0) {i : Instr}
        (is : exec i s = commit 3 s (s.vaccWord v base ord g fn)) (some_ : 0 < w) (h : 512 = w * k)
        (lane : laneUpdate fn 0 rm (s.c.ctl.vctl.getLsbD 3) (s.c.ctl.vctl.getLsbD 4) = (w, f)) :
        leaves i 512 (mapElems w f (m 512) row).1 (flags (mapElems w f (m 512) row).2) := by
      obtain ⟨t, next, done⟩ := vacc_does sound ordered acts src ⟨aligned, own, acc, reach⟩
        (bne_iff_ne.2 fun e => adds (AtomOp.vacc.inj e)) (vacc_gives (m 512) adds lane some_ (length.trans h) same)
      exact does ⟨t, is.trans next, done⟩
    refine ⟨?_, ?_⟩
    · simp only [List.forall_mem_cons, List.not_mem_nil, false_implies, implies_true, and_true]
      exact ⟨add 1 128 (by decide) rfl (by decide) rfl rfl, add 2 64 (by decide) rfl (by decide) rfl rfl,
        add 3 256 (by decide) rfl (by decide) rfl rfl, add 4 256 (by decide) rfl (by decide) rfl rfl⟩
    · have quiet : flags (mapElems 4 (fun x y => ⟨(x + y) % 2 ^ 32, 0⟩) (m 512) row).2 = [] :=
        if_pos (mapElems_quiet (fun _ _ => rfl) _ _)
      exact quiet ▸ add 5 128 (by decide) rfl (by decide) rfl rfl
end

section
/-!
PROOFS. Gate operations at the gate unit (`Obligations.GateEvents`).
-/

namespace Sys2Proof.Machine

/-! ### Messages by their number -/

theorem msg_congr {s t : State} (h : t.msgs = s.msgs) (id : Nat) : t.msg id = s.msg id := by rw [State.msg, State.msg, h]

/-- The number of a message that is found. -/
theorem msg_id {s : State} {id : Nat} {m : Msg} (h : s.msg id = some m) : m.id = id := by
  have := List.find?_some h
  exact beq_iff_eq.1 this

/-- A change that keeps the numbers of messages acts on what is found. -/
theorem msg_modMsg {s : State} {id : Nat} {m : Msg} (h : s.msg id = some m) {f : Msg → Msg} (keeps : ∀ e, (f e).id = e.id) (k : Nat) :
    (s.modMsg k f).msg id = some (if m.id == k then f m else m) := by
  have same : ((fun e : Msg => e.id == id) ∘ fun e => if e.id == k then f e else e) = fun e => e.id == id := by
    funext e
    show ((if e.id == k then f e else e).id == id) = _
    split
    · rw [keeps]
    · rfl
  rw [State.modMsg, State.msg, List.find?_map, same]
  exact congrArg (Option.map _) h

theorem msg_modMsg_self {s : State} {id : Nat} {m : Msg} (h : s.msg id = some m) {f : Msg → Msg} (keeps : ∀ e, (f e).id = e.id) :
    (s.modMsg id f).msg id = some (f m) := by
  rw [msg_modMsg h keeps, if_pos (beq_iff_eq.2 (msg_id h))]

theorem msg_answer {s : State} {id : Nat} {m : Msg} (h : s.msg id = some m) (v v2 : Word) (bs : List Byte) (fl : BitVec 9)
    (tag : List Nat) : (s.answer id v v2 bs fl tag).msg id = some { m with st := .replied v v2 bs fl tag } :=
  msg_modMsg_self h fun _ => rfl

theorem msg_refuse {s : State} {id : Nat} {m : Msg} (h : s.msg id = some m) (code : Nat) :
    (s.refuse id code).msg id = some { m with st := .failed code } :=
  msg_modMsg_self h fun _ => rfl

/-! ### Answers to many messages -/

/-- Message m, in one of two states. -/
def State.msgIn (t : State) (id : Nat) (m : Msg) (st : MsgState) : Prop := t.msg id = some { m with st := st }

/-- A change of another message. -/
theorem msg_modMsg_ne {s : State} {id k : Nat} (hk : k ≠ id) {f : Msg → Msg} (keeps : ∀ e, (f e).id = e.id) :
    (s.modMsg k f).msg id = s.msg id := by
  cases h : s.msg id with
  | some m =>
    rw [msg_modMsg h keeps, if_neg]
    rw [msg_id h, beq_iff_eq]
    exact Ne.symm hk
  | none =>
    have none_ : ∀ e ∈ s.msgs, ¬ (e.id == id) = true := List.find?_eq_none.1 h
    refine List.find?_eq_none.2 fun e he => ?_
    obtain ⟨x, hx, rfl⟩ := List.mem_map.1 he
    split
    · rw [keeps]; exact none_ x hx
    · exact none_ x hx

/-- A message is given a state. -/
theorem setState_msgIn {s : State} {id : Nat} {m : Msg} {st0 : MsgState} (h : s.msgIn id m st0) (st : MsgState) (k : Nat) :
    (s.modMsg k fun e => { e with st := st }).msgIn id m (if k = id then st else st0) := by
  by_cases hk : k = id
  · subst hk
    rw [if_pos rfl]
    exact msg_modMsg_self h fun _ => rfl
  · rw [if_neg hk]
    exact (msg_modMsg_ne (f := fun e => { e with st := st }) hk fun _ => rfl).trans h

/-- The messages of a list are given one state. -/
theorem foldl_setState {id : Nat} {m : Msg} (st : MsgState) (ids : List Nat) : ∀ {s : State} {st0 : MsgState}, s.msgIn id m st0 →
    (ids.foldl (fun s k => s.modMsg k fun e => { e with st := st }) s).msgIn id m (if id ∈ ids then st else st0) := by
  induction ids with
  | nil => exact fun h => h
  | cons k ids ih =>
    intro s st0 h
    have rest := ih (setState_msgIn h st k)
    by_cases hk : k = id
    · rw [if_pos hk, ite_self] at rest
      rwa [if_pos (List.mem_cons.2 (.inl hk.symm))]
    · rw [if_neg hk] at rest
      simp only [List.mem_cons, Ne.symm hk, false_or]
      exact rest

/-! ### The tests of a gate (R298, R306) -/

/-- Wakes leave the messages. -/
theorem wake_msgs (s : State) (n : Nat) : (s.wake n).msgs = s.msgs :=
  wake_induction (P := fun t => t.msgs = s.msgs) n rfl fun t q x hx h => by
    rcases wakeOne_cases t n (s.gate n).gcnt q hx with e | ⟨-, e⟩ <;> rw [e]
    · exact h
    · rw [State.fireWake]
      rcases interrupt_cases (t.modPHost q fun y => { y with hwake := y.hwake.set x 0 hx }) q x with ⟨-, e⟩ | ⟨-, e⟩ <;> rw [e] <;>
        exact h

/-- The test of a gate changes at most the state of a message. -/
theorem testWaits_msg {s : State} {id : Nat} {m : Msg} (n : Nat) (h : s.msg id = some m) : ∃ st, (s.testWaits n).msgIn id m st := by
  have answered := foldl_setState (.replied 0 0 [] 0 (s.gate n).clock)
    ((s.msgs.filter fun m => (s.waitsAt m).any fun x => x.1 == n && decide (x.2.toNat ≤ (s.gate n).gcnt.toNat)).map Msg.id)
    (s := s.modGate n fun g => { g with far := g.far.filter fun v => decide ((s.gate n).gcnt.toNat < v.toNat) }) (st0 := m.st) h
  exact ⟨_, (msg_congr (wake_msgs ..) id).trans answered⟩

theorem signal_msg {s : State} {id : Nat} {m : Msg} (n : Nat) (v : Word) (clock : List Nat) (h : s.msg id = some m) :
    ∃ st, (s.signal n v clock).msgIn id m st := by
  rw [State.signal]
  exact testWaits_msg n h

/-- A message that waits at a gate for a threshold (R302). -/
theorem waitsAt_eq {s : State} {m : Msg} {v : Word} {b wlim t0 : Nat} {charged : Bool} (op : m.op = .gate 1 v b wlim charged)
    (waits : m.st = .waiting t0) (here : bindMod (s.binding m.part b) = s.pf.modid.toNat) :
    s.waitsAt m = some (bindGate (s.binding m.part b), v) := by
  rw [State.waitsAt, op, waits]
  exact if_pos (beq_iff_eq.2 here)

/-- The number of a message that meets a test is among those that do. -/
theorem mem_ids {s : State} {id : Nat} {m : Msg} (h : s.msg id = some m) {p : Msg → Bool} (hp : p m = true) :
    id ∈ (s.msgs.filter p).map Msg.id :=
  List.mem_map.2 ⟨m, List.mem_filter.2 ⟨List.mem_of_find?_eq_some h, hp⟩, msg_id h⟩

/-- A registered wait whose threshold the counter has reached is released (R302). -/
theorem testWaits_releases {s : State} {id n : Nat} {m : Msg} {v : Word} (h : s.msg id = some m) (waits : s.waitsAt m = some (n, v))
    (reached : v.toNat ≤ (s.gate n).gcnt.toNat) : (s.testWaits n).msgIn id m (.replied 0 0 [] 0 (s.gate n).clock) := by
  have answered := foldl_setState (.replied 0 0 [] 0 (s.gate n).clock)
    ((s.msgs.filter fun m => (s.waitsAt m).any fun x => x.1 == n && decide (x.2.toNat ≤ (s.gate n).gcnt.toNat)).map Msg.id)
    (s := s.modGate n fun g => { g with far := g.far.filter fun v => decide ((s.gate n).gcnt.toNat < v.toNat) }) (st0 := m.st) h
  rw [if_pos (mem_ids h (by rw [waits]; simp [reached]))] at answered
  exact (msg_congr (wake_msgs ..) id).trans answered

/-! ### The access list (R299) -/

theorem bitOf_iff (v lo : Nat) : bitOf v lo = true ↔ bitsOf v lo 1 = 1 := beq_iff_eq

section Check
variable {g : Gate} {md p i : Nat} {host sig free : Bool}

/-- The right that an operation needs. -/
def Gate.admits (g : Gate) (i : Nat) (sig : Bool) : Bool := if sig then aclS (g.entry i) else aclW (g.entry i)

theorem admits_iff (g : Gate) (i : Nat) (sig : Bool) :
    g.admits i sig = true ↔ bitsOf (g.entry i).toNat (if sig then 8 else 9) 1 = 1 := by
  cases sig <;> exact bitOf_iff ..

theorem check_invalid (h : g.valid = false) : g.check md p host sig free = .denied := if_pos (by rw [h]; rfl)

/-- The check of a valid gate, by the entry that agrees. -/
theorem check_entry (valid : g.valid = true) (found : g.match_ md p host = some i) : g.check md p host sig free =
    if g.admits i sig = false then .denied
    else if free then .ok g
    else if aclBurst (g.entry i) = 0 then .rate
    else if aclRefill (g.entry i) = 0 then .ok g
    else if g.tokensOf i = 0 then .rate
    else .ok (g.setTokens i (g.tokensOf i - 1)) := by
  rw [Gate.check, if_neg (by rw [valid]; nofun), found, Gate.admits]
  simp only [Bool.not_eq_true']

theorem check_unlisted (valid : g.valid = true) (none_ : g.match_ md p host = none) : g.check md p host sig free = .denied := by
  rw [Gate.check, if_neg (by rw [valid]; nofun), none_]

end Check

/-! ### An operation at its gate (R302) -/

/-- What becomes of an operation at gate n by the verdict of its access list. -/
def State.admitted (s : State) (id op n : Nat) (v : Word) (clock : List Nat) : Admit → State
  | .denied => s.refuse id tGATE
  | .rate => s.answer id 3 0 [] 0 []
  | .ok g =>
    if op = 0 then ((s.modGate n fun _ => g).signal n v clock).answer id 0 0 [] 0 []
    else if v.toNat ≤ g.gcnt.toNat then (s.modGate n fun _ => g).answer id 0 0 [] 0 g.clock
    else if op = 2 then (s.modGate n fun _ => g).answer id 1 0 [] 0 []
    else (s.modGate n fun _ => g).registerWait id

section Admitted
variable {s : State} {id op n : Nat} {v : Word} {clock : List Nat} {g : Gate}

theorem admitted_signal : s.admitted id 0 n v clock (.ok g) = ((s.modGate n fun _ => g).signal n v clock).answer id 0 0 [] 0 [] := by
  rw [State.admitted, if_pos rfl]

theorem admitted_reached (other : op ≠ 0) (reached : v.toNat ≤ g.gcnt.toNat) :
    s.admitted id op n v clock (.ok g) = (s.modGate n fun _ => g).answer id 0 0 [] 0 g.clock := by
  rw [State.admitted, if_neg other, if_pos reached]

theorem admitted_poll (below : g.gcnt.toNat < v.toNat) :
    s.admitted id 2 n v clock (.ok g) = (s.modGate n fun _ => g).answer id 1 0 [] 0 [] := by
  rw [State.admitted, if_neg (by decide), if_neg (by omega), if_pos rfl]

theorem admitted_wait (below : g.gcnt.toNat < v.toNat) :
    s.admitted id 1 n v clock (.ok g) = (s.modGate n fun _ => g).registerWait id := by
  rw [State.admitted, if_neg (by decide), if_neg (by omega), if_neg (by decide)]

end Admitted

section Home
variable {s : State} {id op b wlim : Nat} {m : Msg} {v : Word} {charged : Bool}

/-- An operation that may be applied, by the verdict of the access list. -/
theorem gateAtHome_eq (h : s.msg id = some m) (is : m.op = .gate op v b wlim charged) (going : m.st = .going)
    (ordered : s.blockedByOrder m = false) (here : bindMod (s.binding m.part b) = s.pf.modid.toNat) {n : Nat}
    (gate : bindGate (s.binding m.part b) = n) {a : Admit}
    (verdict : (s.gate n).check s.pf.modid.toNat m.part false (op == 0) charged = a) :
    s.gateAtHome id = s.admitted id op n v m.clock a := by
  have local_ : (bindMod (s.binding m.part b) != s.pf.modid.toNat) = false := by rw [here]; exact bne_self_eq_false _
  subst gate verdict
  rw [State.gateAtHome, h]
  simp only [is, going, Msg.isGoing, ordered, local_, beq_self_eq_true, Bool.not_true, Bool.or_self, Bool.and_false, if_false,
    Bool.false_eq_true]
  cases (s.gate (bindGate (s.binding m.part b))).check s.pf.modid.toNat m.part false (op == 0) charged <;> rfl

/-- A wait is registered, or leaves when its context has been captured (R302, R308). -/
theorem registerWait_msg (h : s.msg id = some m) (is : m.op = .gate op v b wlim charged) :
    (s.registerWait id).msg id = some (if s.parks m.ctx then { m with op := .gate op v b wlim true, st := .parked }
      else { m with st := .waiting s.gcyc }) := by
  rw [State.registerWait, msg_modMsg_self h]
  · rw [is]
  · intro e
    split
    · split <;> rfl
    · rfl

theorem registerWait_modGate (n : Nat) (f : Gate → Gate) (h : s.msg id = some m) (is : m.op = .gate op v b wlim charged) :
    ((s.modGate n f).registerWait id).msg id = some (if s.parks m.ctx then { m with op := .gate op v b wlim true, st := .parked }
      else { m with st := .waiting s.gcyc }) :=
  registerWait_msg (s := s.modGate n f) h is

/-- A registered wait at its limit (R302). -/
theorem gateTimeout_eq {t0 : Nat} (h : s.msg id = some m) (is : m.op = .gate 1 v b wlim charged) (waits : m.st = .waiting t0)
    (limited : wlim ≠ 0) (late : wlim ≤ s.gcyc - t0) : s.gateTimeout id = s.answer id 2 0 [] 0 [] := by
  have due : s.waitOver m = true := by
    rw [State.waitOver, is, waits]
    simp [limited, late]
  rw [State.gateTimeout, h]
  exact if_pos due

theorem bindGate_lt (e : Word) : bindGate e < 4096 := Nat.mod_lt _ (by decide)

/-- A counter that is written (R298). -/
theorem writeGcnt_eq {n : Nat} (hn : n < 4096) (val : Word) : s.writeGcnt n val = (s.modGate n fun g => { g with gcnt := val }).testWaits n :=
  if_neg (by omega)

theorem writeValid_clears {n : Nat} (hn : n < 4096) (free : s.gateLockers n = []) (port : Nat) (h : s.msg id = some m)
    (waits : s.waitsAt m = some (n, v)) :
    ((s.writeValid port n false).gate n).valid = false ∧ (s.writeValid port n false).msgIn id m (.failed tGATE) := by
  have fails : s.writeValid port n false
      = ((s.msgs.filter fun m => (s.waitsAt m).any fun x => x.1 == n).map Msg.id).foldl (fun s id => s.refuse id tGATE)
          ((s.modGate n fun g => { g with valid := false }).modGate n fun g => { g with far := [] }) :=
    (if_neg (by omega)).trans ((if_neg (by rw [free]; nofun)).trans (if_neg nofun))
  have gates (ids : List Nat) (t : State) : (ids.foldl (fun s id => s.refuse id tGATE) t).gates = t.gates :=
    List.foldlRecOn (motive := fun u : State => u.gates = t.gates) ids _ rfl fun _ h _ _ => h
  rw [fails]
  refine ⟨?_, ?_⟩
  · rw [gate_congr (gates ..), gate_modGate_self, gate_modGate_self]
  · have failed := foldl_setState (.failed tGATE) ((s.msgs.filter fun m => (s.waitsAt m).any fun x => x.1 == n).map Msg.id)
      (s := (s.modGate n fun g => { g with valid := false }).modGate n fun g => { g with far := [] }) (st0 := m.st) h
    rwa [if_pos (mem_ids h (by rw [waits]; simp))] at failed

end Home

end Sys2Proof.Machine

open Sys2Proof Sys2Proof.Machine

/-- Settles O39: the operation by the verdict of its gate's access list, the waits by the tests of their gate. -/
theorem gateEvents : Obligations.GateEvents := by
  unfold Obligations.GateEvents
  refine ⟨fun id m op b wlim v charged s h is => ?operation, fun n i s _ due => congrArg Host.Outcome.next (if_pos due), fun g md p host sig free => ?list⟩
  case operation =>
    intro e n verdict becomes
    refine ⟨fun going ordered here => ?_, ?_, ?_⟩
    · have atHome {a : Admit} := gateAtHome_eq (a := a) h is going ordered here (n := n) rfl
      refine ⟨fun denied => ?_, fun rate => ?_, fun g ok => ⟨?_, ?_, ?_, ?_, ?_⟩⟩
      · exact ⟨_, congrArg Host.Outcome.next (atHome denied), fun _ => rfl, msg_refuse h _⟩
      · exact ⟨_, congrArg Host.Outcome.next (atHome rate), fun _ => rfl, msg_answer h ..⟩
      · rintro rfl
        obtain ⟨st, signalled⟩ := signal_msg (s := s.modGate n fun _ => g) n v m.clock h
        refine ⟨_, congrArg Host.Outcome.next ((atHome ok).trans admitted_signal), msg_answer signalled .., ?_⟩
        refine (signal_gcnt (s.modGate n fun _ => g) n v m.clock).trans ?_
        rw [gate_modGate_self]
      · intro other reached
        exact ⟨_, congrArg Host.Outcome.next ((atHome ok).trans (admitted_reached other reached)), fun _ => rfl, msg_answer h ..⟩
      · rintro rfl below
        exact ⟨_, congrArg Host.Outcome.next ((atHome ok).trans (admitted_poll below)), fun _ => rfl,
          msg_answer h ..⟩
      · rintro rfl below stays
        refine ⟨_, congrArg Host.Outcome.next ((atHome ok).trans (admitted_wait below)),
          fun _ => rfl, (registerWait_modGate n _ h is).trans ?_⟩
        rw [stays]
        rfl
      · rintro rfl below parks
        refine ⟨_, congrArg Host.Outcome.next ((atHome ok).trans (admitted_wait below)),
          fun _ => rfl, (registerWait_modGate n _ h is).trans ?_⟩
        rw [parks]
        rfl
    · rintro t0 rfl waits limited late
      exact ⟨_, congrArg Host.Outcome.next (gateTimeout_eq h is waits limited late), msg_answer h ..⟩
    · rintro val rfl ⟨t0, waits⟩ here
      have registered : s.waitsAt m = some (n, v) := waitsAt_eq is waits here
      have small : n < 4096 := bindGate_lt e
      refine ⟨fun reached => ⟨_, congrArg Host.Outcome.next (writeGcnt_eq small val), ?_, ?_⟩, fun free port => ⟨_, rfl, writeValid_clears small free port h registered⟩⟩
      · rw [testWaits_gcnt, gate_modGate_self]
      · have released := testWaits_releases (s := s.modGate n fun g => { g with gcnt := val }) h registered
          (by rw [gate_modGate_self]; exact reached)
        rwa [gate_modGate_self] at released
  case list =>
    refine ⟨check_invalid, check_unlisted, fun i valid found => ?_⟩
    have entry := check_entry (sig := sig) (free := free) valid found
    have may := admits_iff g i sig
    intro e right burst refill
    refine ⟨fun no => entry.trans (if_pos (Bool.eq_false_iff.2 (mt may.1 no))), ?_, ?_, ?_, ?_⟩
    all_goals
      rintro yes rfl
      have admitted : ¬ g.admits i sig = false := by rw [may.2 yes]; nofun
      rw [if_neg admitted, if_neg (by decide)] at entry
    · exact fun empty => entry.trans (if_pos empty)
    · exact fun some_ fixed => entry.trans ((if_neg some_).trans (if_pos fixed))
    · exact fun some_ fills none_ => entry.trans ((if_neg some_).trans ((if_neg fills).trans (if_pos none_)))
    · exact fun some_ fills left_ => entry.trans ((if_neg some_).trans ((if_neg fills).trans (if_neg left_)))
end

section
/-!
PROOFS. Arrivals at the barrier unit (`Obligations.BarrierEvents`).
-/

namespace Sys2Proof.Machine

/-! ### Two spindles out of order with one context number

`State.whereIs` takes the first spindle of the table that runs the context, and a write to the table keeps its keys in rising
order only where they were so before. In a table that is out of order, and whose first two spindles run contexts of one number,
the OVERRUN of a late arrival (R294) puts the second of them before the first, and the answer of the arrival (R287) goes there. -/

/-- The first spindle of the table: its context awaits the answer to message 1. -/
def twinAwaiting : Spindle := { run := .running, ctx := { ({} : Ctx) with id := 7, pipe := [{ left := 0, await := some 1 }] } }

/-- The second spindle: a context of the same number, strict, in a BARRW of phase 1. -/
def twinIdling : Spindle := { run := .running, ctx := { ({} : Ctx) with id := 7, ctl := { ({} : Ctl) with strict := true }, barw := .idling 0 1 } }

/-- The arrival of a spindle of the timed domain of gang 1 at barrier 0, first of two in phase 0. -/
def twinArrival : Msg := { id := 1, ctx := 7, spin := 5, part := 0, loc := .phys 0, op := .barrier 0 0 2 1 0, waits := true, grp := 1, val := 0 }

/-- The arrival reaches the barrier unit. -/
def twinState : State := { State.reset with spindles := [(5, twinAwaiting), (3, twinIdling)], msgs := [twinArrival] }

theorem twinState_whereIs : twinState.whereIs 7 = some 5 := by decide

/-- Spindle 5 is still awaiting the message after the arrival has been counted. -/
theorem twinState_unanswered : ((twinState.barrierArrives 1).ctxOf 5).pipe = [{ left := 0, await := some 1 }] := by decide +kernel

end Sys2Proof.Machine

open Sys2Proof Sys2Proof.Machine

/-- Refutes O40: the answer to an arrival counted from a timed domain does not reach the first spindle that runs its context where
the table of spindles is out of order and two of them run contexts of one number. The statement is about every state, and such a
state meets its hypotheses; that the table is in order and the numbers differ is nowhere asked. -/
theorem not_barrierEvents : ¬ Obligations.BarrierEvents := by
  unfold Obligations.BarrierEvents
  intro h
  obtain ⟨arrivals, -, -⟩ := h
  obtain ⟨-, arrives⟩ := arrivals 1 twinArrival 0 2 1 0 0 twinState rfl
  obtain ⟨-, -, -, -, -, counted⟩ := arrives rfl
  obtain ⟨t, next, -, answered, -⟩ := counted (by decide) (by decide) (by decide) (by decide) (by decide)
  obtain ⟨-, answered⟩ := answered.2 (by decide)
  have pipe := answered 5 twinState_whereIs
  cases next
  have same : (twinState.ctxOf 5).pipe = [{ left := 0, await := some 1 }] := rfl
  rw [twinState_unanswered, same] at pipe
  exact absurd pipe (by decide)
end

section
/-!
PROOFS. SPDM requests, sessions, keys and signers (`Obligations.SessionEvents`).
-/

namespace Sys2Proof.Machine

theorem tfind_tdel_self {α : Type} (k : Nat) (t : Tbl α) : tfind k (tdel k t) = none := by
  induction t with
  | nil => rfl
  | cons y t ih =>
    rw [tdel, List.filter_cons]
    by_cases h : y.1 = k
    · rw [if_neg (by simp [h])]; exact ih
    · rw [if_pos (by simp [h]), tfind, if_neg h]; exact ih

/-! ### The negotiation of a port (R365) -/

theorem setLevel_level (s : State) (port : Nat) {k : Nat} (hk : k < 4) : (s.setLevel port k).level port = k := by
  have others : (s.sec.negotiated.filter fun x => x / 4 != port).filter (fun x => x / 4 == port) = [] := by
    rw [List.filter_filter]
    exact List.filter_eq_nil_iff.2 fun x _ => by simp
  have own : ((4 * port + k) / 4 == port) = true := by rw [beq_iff_eq]; omega
  rw [State.level, State.setLevel, List.filter_append, others, List.nil_append, List.filter_cons, if_pos own, List.filter_nil,
    List.foldl_cons, List.foldl_nil]
  omega

section Requests
variable {s : State} {port : Nat}

theorem answers_iff : s.answers port = true ↔ s.sec.stage = 7 ∧ port < 2 := by
  simp [State.answers]

section Silent
variable (off_ : s.answers port = false)
include off_

theorem negotiate_silent (k code : Nat) (d : List Byte) : s.negotiate port k code d = s := if_pos (by rw [off_]; rfl)

theorem ask_silent (code : Nat) (d : List Byte) : s.ask port code d = s := if_pos (by rw [off_]; rfl)

theorem certificate_silent (slot off len : Nat) (chunked : Bool) : s.certificate port slot off len chunked = s :=
  if_pos (by rw [off_]; rfl)

theorem challenge_silent (slot : Nat) (nonce : List Byte) : s.challenge port slot nonce = s := by
  rw [State.challenge, if_neg (by rw [off_]; nofun), ask_silent off_]

theorem openSession_silent (slot period : Nat) (psk mutAuth : Bool) : s.openSession port slot period psk mutAuth = s :=
  if_pos (by rw [off_]; rfl)

theorem measurements_silent (idx : Nat) : s.measurements port idx = s := by
  simp only [State.measurements, ask_silent off_, off_, Bool.false_eq_true, if_false, dite_eq_ite, ite_self]

end Silent

variable (on : s.answers port = true)
include on

theorem negotiate_first (code : Nat) (d : List Byte) : s.negotiate port 1 code d = (s.setLevel port 1).spdm port code d := by
  rw [State.negotiate, if_neg (by simp [on]), if_pos rfl]

theorem negotiate_next {k : Nat} (hk : k ≠ 1) (next : s.level port + 1 = k) (code : Nat) (d : List Byte) :
    s.negotiate port k code d = (s.setLevel port k).spdm port code d := by
  rw [State.negotiate, if_neg (by simp [on]), if_neg hk, if_neg (by simp [next])]

theorem negotiate_disordered {k : Nat} (hk : k ≠ 1) (next : s.level port + 1 ≠ k) (code : Nat) (d : List Byte) :
    s.negotiate port k code d = s.spdmError port := by
  rw [State.negotiate, if_neg (by simp [on]), if_neg hk, if_pos (by simp [next])]

theorem ask_early (early : s.level port < 3) (code : Nat) (d : List Byte) : s.ask port code d = s.spdmError port := by
  rw [State.ask, if_neg (by simp [on]), if_pos early]

theorem ask_told (done : 3 ≤ s.level port) (code : Nat) (d : List Byte) : s.ask port code d = s.spdm port code d := by
  rw [State.ask, if_neg (by simp [on]), if_neg (by omega)]

theorem certificate_error {slot off len : Nat} {chunked : Bool}
    (bad : s.level port < 3 ∨ slot ≠ 0 ∨ chunked = true ∨ s.chain.length ≤ off) :
    s.certificate port slot off len chunked = s.spdmError port := by
  rw [State.certificate, if_neg (by simp [on]), if_pos (by simpa [or_assoc] using bad)]

theorem certificate_told {off len : Nat} (done : 3 ≤ s.level port) (inside : off < s.chain.length) :
    s.certificate port 0 off len false = s.spdm port 0x02 ((s.chain.drop off).take len) := by
  rw [State.certificate, if_neg (by simp [on]), if_neg (by simp [done, inside])]

theorem challenge_error {slot : Nat} (bad : slot ≠ 0) (nonce : List Byte) : s.challenge port slot nonce = s.spdmError port := by
  rw [State.challenge, if_pos (by simp [on, bad])]

theorem challenge_early (slot : Nat) (nonce : List Byte) (early : s.level port < 3) : s.challenge port slot nonce = s.spdmError port := by
  rw [State.challenge, ask_early on early, ite_self]

omit on in
theorem challenge_ask (nonce : List Byte) : s.challenge port 0 nonce = s.ask port 0x03 (Config.response 0x03 (s.sec.device.2 ++ nonce)) := by
  rw [State.challenge, if_neg (by simp)]

omit on in
theorem measurements_one (k : Fin 6) : s.measurements port (k.val + 1) = s.ask port 0x60 s.sec.meas[k] := by
  rw [State.measurements, if_neg (by omega), if_neg (by omega), dif_pos (by omega)]
  rfl

/-! ### KEY_EXCHANGE (R366) -/

theorem openSession_error {slot period : Nat} {psk mutAuth : Bool} (bad : slot ≠ 0 ∨ psk = true ∨ mutAuth = true) :
    s.openSession port slot period psk mutAuth = s.spdmError port := by
  rw [State.openSession, if_neg (by simp [on]), if_pos (by simpa [or_assoc] using bad)]

/-- The lowest free session is opened, if the negotiation is complete and the period is none above 60 s. -/
theorem openSession_eq {n : Nat} (period : Nat) (hn : n < 8) (free : tfind n s.sec.sessions = none)
    (lowest : ∀ m, m < n → tfind m s.sec.sessions ≠ none) : s.openSession port 0 period false false =
      if s.level port < 3 || 60 < period then s.spdmError port
      else (s.setSession n { port := port, period := period, last := s.gcyc }).spdm port 0x64 (Config.response 0x64 [BitVec.ofNat 8 n]) := by
  have found : (List.range 8).find? (fun n => (tfind n s.sec.sessions).isNone) = some n := by
    rw [List.find?_range_eq_some]
    refine ⟨by rw [free]; rfl, List.mem_range.2 hn, fun m hm => ?_⟩
    simpa [Option.isSome_iff_ne_none] using lowest m hm
  rw [State.openSession, if_neg (by simp [on]), if_neg (by simp), found]

theorem openSession_full (period : Nat) (full : ∀ n, n < 8 → tfind n s.sec.sessions ≠ none) :
    s.openSession port 0 period false false = s.spdmError port := by
  have none_ : (List.range 8).find? (fun n => (tfind n s.sec.sessions).isNone) = none :=
    List.find?_eq_none.2 fun n hn => by simpa using full n (List.mem_range.1 hn)
  rw [State.openSession, if_neg (by simp [on]), if_neg (by simp), none_]

end Requests

/-! ### Messages of a session (R366) -/

section Session_
variable {s : State} {n : Nat} {x : Session}

theorem setSession_found (s : State) (n : Nat) (x : Session) : tfind n (s.setSession n x).sec.sessions = some x := tfind_tput_self ..

theorem secured_none (none_ : s.session n = none) (k : Session → State → State) : s.secured n k = s := by
  rw [State.secured, none_]
  exact ite_self s

theorem secured_unfinished (stage : s.sec.stage = 7) (found : s.session n = some x) (unfinished : x.finished = false)
    (k : Session → State → State) : s.secured n k = s.spdmError x.port := by
  rw [State.secured, if_neg (by simp [stage]), found]
  exact if_pos (by rw [unfinished]; rfl)

/-- A secured message restarts the period. -/
theorem secured_eq (h : s.secures n x) (k : Session → State → State) : s.secured n k = k { x with last := s.gcyc } (s.heard n x) := by
  rw [State.secured, if_neg (by simp [h.stage]), h.session]
  exact if_neg (by rw [h.finished]; nofun)

theorem finishSession_again (found : s.session n = some x) (finished : x.finished = true) : s.finishSession n = s.spdmError x.port := by
  rw [State.finishSession, found]
  exact if_pos finished

theorem finishSession_completes (found : s.session n = some x) (unfinished : x.finished = false) : s.finishSession n =
    (s.setSession n { x with finished := true, last := s.gcyc }).spdm x.port 0x65 (Config.response 0x65 [BitVec.ofNat 8 n]) := by
  rw [State.finishSession, found]
  exact if_neg (by rw [unfinished]; nofun)

theorem finishSession_none (none_ : s.session n = none) : s.finishSession n = s := by
  rw [State.finishSession, none_]

/-! ### The end of a session (R371, R374) -/

theorem enterError_sec (s : State) (p cause : Nat) : (s.enterError p cause).sec = s.sec := by
  have told : ∀ (c : Prop) [Decidable c] (o : HostOut), (if c then s.emit o else s).sec = s.sec := fun c _ o => by
    split <;> rfl
  rw [State.enterError]
  dsimp only
  split
  · exact told _ _
  · rfl

/-- What the end of a session does to an interface that is bound to it. -/
def State.unbind (s : State) (cause p : Nat) : State :=
  if (s.part p).trust.state == .error then s.modTrust p fun t => { t with bound := none, stopping := none } else s.enterError p cause

theorem unbind_sec (s : State) (cause p : Nat) : (s.unbind cause p).sec = s.sec := by
  rw [State.unbind]
  split
  · rfl
  · exact enterError_sec ..

theorem dropSession_eq (s : State) (n cause : Nat) : s.dropSession n cause =
    ((s.parts.filter fun p => p.2.trust.bound == some (BitVec.ofNat 3 n)).map Prod.fst).foldl (fun s p => s.unbind cause p)
      { s with sec := { s.sec with sessions := tdel n s.sec.sessions } } := rfl

/-- A session that is dropped is gone. -/
theorem dropSession_gone (s : State) (n cause : Nat) : tfind n (s.dropSession n cause).sec.sessions = none := by
  have sec : (s.dropSession n cause).sec = { s.sec with sessions := tdel n s.sec.sessions } := by
    rw [dropSession_eq]
    exact List.foldlRecOn (motive := fun t : State => t.sec = _) _ _ rfl fun t ht p _ => (unbind_sec t cause p).trans ht
  rw [sec]
  exact tfind_tdel_self ..

theorem expireSession_stays (found : tfind n s.sec.sessions = some x) (lasts : s.session n ≠ none) : s.expireSession n = s := by
  rw [State.expireSession, found]
  exact if_neg (by simpa using lasts)

theorem expireSession_drops (found : tfind n s.sec.sessions = some x) (over_ : s.session n = none) :
    s.expireSession n = s.dropSession n 1 := by
  rw [State.expireSession, found]
  exact if_pos (by rw [over_]; rfl)

/-- The one interface that is bound to a session that ends, and is locked or runs, goes to ERROR. -/
theorem dropSession_one {p : Nat} {cause : Nat} (bound : (s.parts.filter fun q => q.2.trust.bound == some (BitVec.ofNat 3 n)) = [(p, s.part p)])
    (live : (s.part p).trust.state = .locked ∨ (s.part p).trust.state = .run) :
    (s.dropSession n cause).part p = { s.part p with trust := { (s.part p).trust with
      state := .error, scrub := true, ecause := BitVec.ofNat 8 cause, starting := false, stopping := none
      bound := if cause = 3 then (s.part p).trust.bound else none } } := by
  have alive : ¬ ((s.part p).trust.state == .error) = true := by rcases live with h | h <;> rw [h] <;> decide
  rw [dropSession_eq, bound, List.map_cons, List.map_nil, List.foldl_cons, List.foldl_nil, State.unbind]
  exact (congrArg (State.part · p) (if_neg alive)).trans (enterError_part cause live)

/-! ### Vendor requests (R368, R369) -/

/-- A vendor request that the interface takes: session n is bound to it, and it is locked or runs. -/
structure State.takes (s : State) (n p : Nat) : Prop where
  part : p < 64
  bound : (s.part p).trust.bound = some (BitVec.ofNat 3 n)
  live : (s.part p).trust.state = .locked ∨ (s.part p).trust.state = .run

theorem vendor_does {p : Nat} (h : s.secures n x) (mine : s.takes n p) (f : PartTrust → PartTrust) :
    s.vendor n p true f = ((s.heard n x).modTrust p f).spdm x.port 0x7E [] := by
  rw [State.vendor, secured_eq h]
  refine if_pos ?_
  simp [mine.part, mine.bound, mine.live]

theorem vendor_error {p : Nat} {ok : Bool} (h : s.secures n x) (bad : ok = false ∨ ¬ s.takes n p) (f : PartTrust → PartTrust) :
    s.vendor n p ok f = (s.heard n x).spdmError x.port := by
  rw [State.vendor, secured_eq h]
  refine if_neg fun holds => ?_
  simp only [heard_part, Bool.and_eq_true, Bool.or_eq_true, decide_eq_true_eq, beq_iff_eq] at holds
  obtain ⟨⟨⟨good, part⟩, bound⟩, live⟩ := holds
  rcases bad with bad | bad
  · rw [bad] at good; cases good
  · exact bad ⟨part, bound, live⟩

theorem dropKey_gone (t : PartTrust) (slot : Nat) : tfind slot (t.dropKey slot).keys = none := tfind_tdel_self ..

end Session_

end Sys2Proof.Machine

open Sys2Proof Sys2Proof.Machine

/-- Settles O55: the requests by the negotiation of their port, the messages of a session by whether it stands and is finished. -/
theorem sessionEvents : Obligations.SessionEvents := by
  unfold Obligations.SessionEvents
  refine ⟨fun port slot nonce off len idx period chunked psk mutAuth s => ⟨?silence, ?requests⟩, ?messages, ?gone, ?expiry, ?error, ?vendor⟩
  case silence =>
    intro off_ i hi
    have quiet : s.answers port = false := by
      refine Bool.eq_false_iff.2 fun h => ?_
      obtain ⟨stage, low⟩ := answers_iff.1 h
      rcases off_ with bad | bad
      · exact bad stage
      · omega
    simp only [List.mem_cons, List.not_mem_nil, or_false] at hi
    rcases hi with rfl | rfl | rfl | rfl | rfl | rfl | rfl | rfl
    · exact congrArg Host.Outcome.next (negotiate_silent quiet _ _ _)
    · exact congrArg Host.Outcome.next (negotiate_silent quiet _ _ _)
    · exact congrArg Host.Outcome.next (negotiate_silent quiet _ _ _)
    · exact congrArg Host.Outcome.next (ask_silent quiet _ _)
    · exact congrArg Host.Outcome.next (certificate_silent quiet _ _ _ _)
    · exact congrArg Host.Outcome.next (challenge_silent quiet _ _)
    · exact congrArg Host.Outcome.next (openSession_silent quiet _ _ _ _)
    · exact congrArg Host.Outcome.next (measurements_silent quiet _)
  case requests =>
    intro stage low
    have on : s.answers port = true := answers_iff.2 ⟨stage, low⟩
    intro tells error reaches
    have negotiated {i : Instr} {k code : Nat} {d : List Byte} (hk : k < 4)
        (is : exec i s = .next ((s.setLevel port k).spdm port code d)) : reaches i k code d :=
      ⟨_, is, setLevel_level s port hk, rfl, rfl⟩
    refine ⟨negotiated (by decide) (congrArg Host.Outcome.next (negotiate_first on _ _)),
      fun h => negotiated (by decide) (congrArg Host.Outcome.next (negotiate_next on (by decide) (by rw [h]) _ _)),
      fun h => congrArg Host.Outcome.next (negotiate_disordered on (by decide) (by omega) _ _),
      fun h => negotiated (by decide) (congrArg Host.Outcome.next (negotiate_next on (by decide) (by rw [h]) _ _)),
      fun h => congrArg Host.Outcome.next (negotiate_disordered on (by decide) (by omega) _ _), fun early => ?early, fun bad => ?slot,
      fun bad => congrArg Host.Outcome.next (certificate_error on (.inr (.inr (.inl bad)))), fun bad => congrArg Host.Outcome.next (openSession_error on (.inr bad)),
      fun done => ?told, fun n hn free lowest => ?opens, fun full => congrArg Host.Outcome.next (openSession_full on period full)⟩
    case early =>
      exact ⟨congrArg Host.Outcome.next (ask_early on early _ _), congrArg Host.Outcome.next (certificate_error on (.inl early)),
        congrArg Host.Outcome.next (challenge_early on slot nonce early), congrArg Host.Outcome.next (ask_early on early _ _)⟩
    case slot =>
      exact ⟨congrArg Host.Outcome.next (certificate_error on (.inr (.inl bad))), congrArg Host.Outcome.next (challenge_error on bad nonce),
        congrArg Host.Outcome.next (openSession_error on (.inl bad))⟩
    case told =>
      have ask := ask_told on done
      exact ⟨congrArg Host.Outcome.next (ask _ _), fun inside => congrArg Host.Outcome.next (certificate_told on done inside),
        fun out => congrArg Host.Outcome.next (certificate_error on (.inr (.inr (.inr out)))),
        congrArg Host.Outcome.next ((challenge_ask nonce).trans (ask _ _)), congrArg Host.Outcome.next (ask _ _), congrArg Host.Outcome.next (ask _ _),
        fun k => congrArg Host.Outcome.next ((measurements_one k).trans (ask _ _))⟩
    case opens =>
      have opens := openSession_eq on period hn free lowest
      refine ⟨fun done short => ⟨_, congrArg Host.Outcome.next (opens.trans (if_neg ?_)), setSession_found ..⟩,
        fun bad => congrArg Host.Outcome.next (opens.trans (if_pos (by simpa using bad)))⟩
      simp only [Bool.or_eq_true, decide_eq_true_eq]
      omega
  case messages =>
    intro n x s found stage tells error
    refine ⟨fun unfinished => ?_, fun finished => ?_⟩
    · have refused := secured_unfinished stage found unfinished
      exact ⟨⟨_, congrArg Host.Outcome.next (finishSession_completes found unfinished), setSession_found .., _, rfl⟩, congrArg Host.Outcome.next (refused _),
        congrArg Host.Outcome.next (refused _), congrArg Host.Outcome.next (refused _)⟩
    · have heard := secured_eq ⟨stage, found, finished⟩
      refine ⟨congrArg Host.Outcome.next (finishSession_again found finished), ⟨_, congrArg Host.Outcome.next (heard _), setSession_found .., _, rfl⟩,
        ⟨_, congrArg Host.Outcome.next (heard _), setSession_found .., _, rfl⟩, ⟨_, congrArg Host.Outcome.next (heard _), dropSession_gone .., ?_⟩⟩
      exact List.mem_append_right _ List.mem_cons_self
  case gone =>
    intro n s none_ i hi
    simp only [List.mem_cons, List.not_mem_nil, or_false] at hi
    rcases hi with rfl | rfl | rfl | rfl
    · exact congrArg Host.Outcome.next (secured_none none_ _)
    · exact congrArg Host.Outcome.next (secured_none none_ _)
    · exact congrArg Host.Outcome.next (secured_none none_ _)
    · exact congrArg Host.Outcome.next (finishSession_none none_)
  case expiry =>
    exact fun n x s found => ⟨fun lasts => congrArg Host.Outcome.next (expireSession_stays found lasts),
      fun past => ⟨_, congrArg Host.Outcome.next (expireSession_drops found past), dropSession_gone ..⟩⟩
  case error =>
    intro n x p s found past bound live
    have part := dropSession_one (cause := 1) bound live
    exact ⟨_, congrArg Host.Outcome.next (expireSession_drops found past), congrArg (fun x => x.trust.state) part,
      congrArg (fun x => x.trust.ecause) part, congrArg (fun x => x.trust.bound) part, congrArg (fun x => x.trust.scrub) part⟩
  case vendor =>
    intro n p slot key m id x s stage found finished
    have secures : s.secures n x := ⟨stage, found, finished⟩
    intro t0 mine error does
    have takes : mine → s.takes n p := fun ⟨part, bound, live⟩ => ⟨part, bound, live⟩
    have refuses {i : Instr} {ok : Bool} {f : PartTrust → PartTrust} (is : exec i s = .next (s.vendor n p ok f))
        (bad : ok = false ∨ ¬ s.takes n p) : error i :=
      ⟨_, is.trans (congrArg Host.Outcome.next (vendor_error secures bad f)), rfl, rfl⟩
    have acts {i : Instr} {ok : Bool} {f : PartTrust → PartTrust} {u : PartTrust} (is : exec i s = .next (s.vendor n p ok f))
        (gives : f t0 = u) (good : ok = true) (yes : mine) : does i u := by
      subst good gives
      exact ⟨_, is.trans (congrArg Host.Outcome.next (vendor_does secures (takes yes) f)),
        congrArg Part.trust (part_modTrust_self (s.heard n x) p f), rfl⟩
    refine ⟨fun no => ?_, fun yes small length => acts rfl rfl (by simp [small, length]) yes, fun yes bad => refuses rfl (.inl ?_),
      fun yes small => ⟨acts rfl rfl (by simp [small]) yes, dropKey_gone ..⟩,
      fun yes length room fresh => acts rfl rfl ?_ yes, fun yes full => refuses rfl (.inl ?_), fun yes => acts rfl rfl rfl yes⟩
    · have bad : ¬ s.takes n p := fun h => no ⟨h.part, h.bound, h.live⟩
      exact ⟨refuses rfl (.inr bad), refuses rfl (.inr bad), refuses rfl (.inr bad), refuses rfl (.inr bad)⟩
    · rcases bad with bad | bad <;> simp [bad]
    · have small : (s.part p).trust.signers.length < 16 := room
      simpa [length, small] using fresh
    · have many : ¬ (s.part p).trust.signers.length < 16 := Nat.not_lt.2 full
      simp [many]
end

section
/-!
PROOFS. The record of an escalation and the traps after SYSC and ESC (`Obligations.TrapsAfterWords`).
-/

namespace Sys2Proof.Machine

/-! ### A field of bytes that have been written -/

theorem read_written {l : List Host.Cell} {m : Memory} {a off len : Nat} {bs : List Byte} (wf : cellsWf l = true)
    (written : m.cells = cellsWrite l a bs) (inside : off + len ≤ bs.length) : m.read (a + off) len = (bs.drop off).take len := by
  refine List.ext_getElem (by simp [Memory.read, cellsRead]; omega) fun i h1 h2 => ?_
  have hi : i < len := by simpa [Memory.read, cellsRead] using h1
  simp only [Memory.read, cellsRead, List.getElem_map, List.getElem_range, List.getElem_take, List.getElem_drop]
  rw [written, cellGet_cellsWrite wf, if_pos (by omega), List.getD_eq_getElem _ _ (by omega)]
  congr 1
  omega

/-- A number that stands in bytes that have been written. -/
theorem read_field {l : List Host.Cell} {m : Memory} {a off len v : Nat} {bs : List Byte} (wf : cellsWf l = true)
    (written : m.cells = cellsWrite l a bs) (inside : off + len ≤ bs.length) (field : (bs.drop off).take len = bytesLE v len) :
    ofBytesLE (m.read (a + off) len) = v % 256 ^ len := by
  rw [read_written wf written inside, field, ofBytesLE_bytesLE]

/-! ### The record of an escalation (R319, R320) -/

theorem trapRecord_length (c : Ctx) (g : Nat) (tr : Trap) (nested vol : Bool) : (trapRecord c g tr nested vol).length = 32 := rfl

/-- Where the next record of a stand goes. -/
def Stand.slot (st : Stand) (k : Nat) : Nat := superKey k (st.trqbase.toNat * 4096 + 32 * (st.trqhead.toNat % 128))

/-- The record of the latest spindle of a count goes behind those of the others. -/
theorem postRecord_latest {s : State} {n : Nat} (bs : List Byte) (latest : ∀ m ∈ s.recordsNow (standOf n), m ≤ n) :
    s.postRecord n bs = (s.modStand (standOf n) fun st => { st with recent := s.recordsNow (standOf n), recentAt := s.gcyc }).putRecords
      (standOf n) [(n, bs)] := by
  have none_after : (s.recordsNow (standOf n)).filter (fun m => decide (n < m)) = [] :=
    List.filter_eq_nil_iff.2 fun m hm => by simpa using latest m hm
  have kept : (s.recordsNow (standOf n)).filter (fun m => !([] : List Nat).contains m) = s.recordsNow (standOf n) :=
    List.filter_eq_self.2 fun _ _ => rfl
  have zero (v : BitVec 32) : v - BitVec.ofNat 32 0 = v := BitVec.sub_zero v
  simp only [State.postRecord, none_after, ite_self, kept, List.length_nil, zero]
  rfl

theorem putRecords_full {s : State} {k : Nat} (full : (s.stand k).ringFull = true) (r : Nat × List Byte) :
    s.putRecords k [r] = s.modStand k fun st => { st with recWait := waitRecord r st.recWait } := by
  rw [State.putRecords, if_pos full, State.putRecords]

theorem putRecords_room {s : State} {k : Nat} (room : (s.stand k).ringFull = false) (r : Nat × List Byte) :
    s.putRecords k [r] = (s.putRecord k r.2).modStand k fun st => { st with recent := st.recent ++ [r.1] } := by
  rw [State.putRecords, if_neg (by rw [room]; nofun), State.putRecords]

theorem mem_waitRecord (r : Nat × List Byte) (l : List (Nat × List Byte)) : r ∈ waitRecord r l := by
  induction l with
  | nil => exact List.mem_cons_self
  | cons q l ih =>
    rw [waitRecord]
    split
    · exact List.mem_cons_self
    · exact List.mem_cons_of_mem _ ih

section Record
variable {s : State} {n : Nat} {bs : List Byte} (latest : ∀ m ∈ s.recordsNow (standOf n), m ≤ n)
include latest

/-- With a full ring the record waits, and no memory is written. -/
theorem postRecord_waits (full : (s.stand (standOf n)).ringFull = true) :
    (s.postRecord n bs).mem = s.mem ∧ ((s.postRecord n bs).stand (standOf n)).trqhead = (s.stand (standOf n)).trqhead
      ∧ (n, bs) ∈ ((s.postRecord n bs).stand (standOf n)).recWait := by
  have noted := stand_modStand_self s (standOf n) fun st => { st with recent := s.recordsNow (standOf n), recentAt := s.gcyc }
  rw [postRecord_latest bs latest, putRecords_full (by rw [noted]; exact full), stand_modStand_self, noted]
  exact ⟨rfl, rfl, mem_waitRecord ..⟩

/-- With room the record is written behind the others. -/
theorem postRecord_writes (room : (s.stand (standOf n)).ringFull = false) :
    ((s.postRecord n bs).stand (standOf n)).trqhead = (s.stand (standOf n)).trqhead + 1
      ∧ (s.postRecord n bs).mem.cells = cellsWrite s.mem.cells ((s.stand (standOf n)).slot (standOf n)) bs := by
  have noted := stand_modStand_self s (standOf n) fun st => { st with recent := s.recordsNow (standOf n), recentAt := s.gcyc }
  rw [postRecord_latest bs latest, putRecords_room (by rw [noted]; exact room), stand_modStand_self, State.putRecord,
    stand_modStand_self]
  have head := congrArg (fun st : Stand => st.trqhead + 1) noted
  have slot := congrArg (fun st : Stand => cellsWrite s.mem.cells (st.slot (standOf n)) bs) noted
  exact ⟨head, slot⟩

end Record

/-- The record of an escalation. -/
def State.recordOf (s : State) (n : Nat) (tr : Trap) : List Byte := trapRecord (s.ctxOf n) s.gcyc tr (s.ctxOf n).ctl.hmode false

/-- Memory and stands after an escalation are those after its record. -/
theorem escalate_posts (s : State) (n : Nat) (tr : Trap) : ∃ t : State, t.mem = s.mem ∧ t.stands = s.stands ∧ t.gcyc = s.gcyc
    ∧ (s.escalate n tr).mem = (t.postRecord n (s.recordOf n tr)).mem
    ∧ (s.escalate n tr).stands = (t.postRecord n (s.recordOf n tr)).stands :=
  ⟨s.blackBox 1 (dieOf n) (s.ctxOf n).ident.part.toNat ((s.recordOf n tr).take 20), rfl, rfl, rfl, rfl, rfl⟩

theorem stand_congr {s t : State} (h : t.stands = s.stands) (k : Nat) : t.stand k = s.stand k := by rw [State.stand, State.stand, h]

theorem recordsNow_congr {s t : State} (h : t.stands = s.stands) (g : t.gcyc = s.gcyc) (k : Nat) : t.recordsNow k = s.recordsNow k := by
  rw [State.recordsNow, State.recordsNow, stand_congr h, g]

section Escalation
variable {s : State} {n : Nat} {tr : Trap} (latest : ∀ m ∈ s.recordsNow (standOf n), m ≤ n)
include latest

theorem escalate_waits (full : (s.stand (standOf n)).ringFull = true) :
    (s.escalate n tr).mem = s.mem ∧ ((s.escalate n tr).stand (standOf n)).trqhead = (s.stand (standOf n)).trqhead
      ∧ (n, s.recordOf n tr) ∈ ((s.escalate n tr).stand (standOf n)).recWait := by
  obtain ⟨t, mem, stands, gcyc, mem', stands'⟩ := escalate_posts s n tr
  rw [mem', stand_congr stands', ← mem, ← stand_congr stands]
  exact postRecord_waits (by rwa [recordsNow_congr stands gcyc]) (by rwa [stand_congr stands])

theorem escalate_records (room : (s.stand (standOf n)).ringFull = false) :
    ((s.escalate n tr).stand (standOf n)).trqhead = (s.stand (standOf n)).trqhead + 1
      ∧ (s.escalate n tr).mem.cells = cellsWrite s.mem.cells ((s.stand (standOf n)).slot (standOf n)) (s.recordOf n tr) := by
  obtain ⟨t, mem, stands, gcyc, mem', stands'⟩ := escalate_posts s n tr
  rw [mem', stand_congr stands', ← mem, ← stand_congr stands]
  exact postRecord_writes (by rwa [recordsNow_congr stands gcyc]) (by rwa [stand_congr stands])

end Escalation

/-! ### After the bundle (R130, R318) -/

/-- A trap keeps the registers. -/
theorem takeTrap_regs (s : State) (n : Nat) {tr : Trap} (bundle : tr.source = .bundle) :
    ((s.takeTrap n tr).ctxOf n).regs = (s.ctxOf n).regs := by
  by_cases taken : (s.ctxOf n).takesLocally tr.code
  · rw [takeTrap_local bundle taken, State.ctxOf, localEntry_sp]; rfl
  · rw [takeTrap_escalates bundle taken, State.ctxOf, State.escalate, escalateWith_sp]; rfl

section After
variable {s : State} {n : Nat} {hm : Bool} {sfc : BitVec 32}

theorem afterBundle_none (sysc : (s.ctxOf n).bun.sysc = none) (esc : (s.ctxOf n).bun.esc = none) : s.afterBundle n hm sfc = s := by
  rw [State.afterBundle]
  simp only [sysc, esc]

theorem afterBundle_sysc {k : BitVec 12} (sysc : (s.ctxOf n).bun.sysc = some k) : s.afterBundle n hm sfc =
    (s.takeTrap n { code := tSYSC, slot := 0, val := k.setWidth 64, epc := (s.ctxOf n).pc.setWidth 16 }).modCtx n fun c =>
      if hm then c else { c with trap := { c.trap with hsfc := sfc } } := by
  rw [State.afterBundle]
  simp only [sysc]

/-- ESC outside a handler. -/
theorem afterBundle_esc {k : BitVec 12} (sysc : (s.ctxOf n).bun.sysc = none) (esc : (s.ctxOf n).bun.esc = some k) :
    s.afterBundle n false sfc =
      s.escalateWith n { code := tSYSC, slot := 0, val := k.setWidth 64, epc := (s.ctxOf n).pc.setWidth 16 } false true false := by
  rw [State.afterBundle]
  simp only [sysc, esc]
  rfl

/-- The trap that the trap registers name (R318). -/
def TrapRegs.again (r : TrapRegs) : Trap := { code := r.tcause.toNat, slot := r.tslot.toNat, val := r.tval, epc := r.tepc }

/-- ESC in a handler. -/
theorem afterBundle_escHandler {k : BitVec 12} (sysc : (s.ctxOf n).bun.sysc = none) (esc : (s.ctxOf n).bun.esc = some k) :
    s.afterBundle n true sfc = s.escalateWith n (s.ctxOf n).trap.again true true true := by
  rw [State.afterBundle]
  simp only [sysc, esc]
  rfl

end After

end Sys2Proof.Machine

open Sys2Proof Sys2Proof.Machine

/-- Settles O15: the record by the place that the ring has for it, SYSC and ESC by the trap that the bundle ends with. -/
theorem trapsAfterWords : Obligations.TrapsAfterWords := by
  unfold Obligations.TrapsAfterWords
  refine ⟨fun s n tr sound latest => ?record, fun s n hm sfc => ?after⟩
  case record =>
    intro c k st t at_
    refine ⟨fun full => ?_, fun room => ?_⟩
    · obtain ⟨mem, head, waits⟩ := escalate_waits (tr := tr) latest full
      exact ⟨mem, head, _, waits, rfl⟩
    · obtain ⟨head, written⟩ := escalate_records (tr := tr) latest room
      have length := trapRecord_length c s.gcyc tr c.ctl.hmode false
      refine ⟨head, fun a out => ?_, fun off len v hv => ?_⟩
      · rw [written]
        refine cellGet_cellsWrite_out _ _ _ sound ?_
        rw [show (s.recordOf n tr).length = 32 from length]
        by_contra inside
        have place : (s.stand (standOf n)).slot (standOf n) = at_ := rfl
        rw [place] at inside
        exact out (List.mem_map.2 ⟨a - at_, List.mem_range.2 (by omega), by omega⟩)
      · have field {off len v : Nat} (inside : off + len ≤ 32)
            (is : ((trapRecord c s.gcyc tr c.ctl.hmode false).drop off).take len = bytesLE v len) :
            ofBytesLE (t.mem.read (at_ + off) len) = v % 256 ^ len :=
          read_field sound written (length.symm ▸ inside) is
        simp only [List.mem_cons, Prod.mk.injEq, List.not_mem_nil, or_false] at hv
        rcases hv with ⟨rfl, rfl, rfl⟩ | ⟨rfl, rfl, rfl⟩ | ⟨rfl, rfl, rfl⟩ | ⟨rfl, rfl, rfl⟩ | ⟨rfl, rfl, rfl⟩ | ⟨rfl, rfl, rfl⟩
          | ⟨rfl, rfl, rfl⟩ | ⟨rfl, rfl, rfl⟩ | ⟨rfl, rfl, rfl⟩ | ⟨rfl, rfl, rfl⟩ | ⟨rfl, rfl, rfl⟩
        all_goals exact field (by decide) rfl
  case after =>
    intro c t d
    refine ⟨fun sysc esc => afterBundle_none sysc esc, fun k sysc => ?sysc, fun k sysc esc hm => ?esc, fun k sysc esc hm => ?handler⟩
    case sysc =>
      intro u
      have after : t = u.modCtx n _ := afterBundle_sysc sysc
      have ctx : d = if hm then u.ctxOf n else { u.ctxOf n with trap := { (u.ctxOf n).trap with hsfc := sfc } } := by
        rw [show d = t.ctxOf n from rfl, after, modCtx_self]
      have regs : (u.ctxOf n).regs = c.regs := takeTrap_regs s n rfl
      refine ⟨by rw [after, modCtx_mem], by rw [after, State.modCtx, sp_modSp], ?_⟩
      rw [ctx]
      cases hm <;> exact ⟨rfl, rfl, regs, rfl⟩
    case esc =>
      subst hm
      have sp := (congrArg (State.sp · n) (afterBundle_esc (sfc := sfc) sysc esc)).trans (escalateWith_sp ..)
      exact ⟨congrArg Spindle.run sp, congrArg (fun x => x.ctx.regs) sp, congrArg (fun x => x.ctx.ctl) sp,
        congrArg (fun x => x.ctx.pc) sp, congrArg (fun x => x.ctx.trap) sp⟩
    case handler =>
      subst hm
      have sp := (congrArg (State.sp · n) (afterBundle_escHandler (sfc := sfc) sysc esc)).trans (escalateWith_sp ..)
      exact ⟨congrArg Spindle.run sp, congrArg (fun x => x.ctx.regs) sp, congrArg (fun x => x.ctx.trap) sp,
        congrArg (fun x => x.ctx.pc) sp⟩
end

section
/-!
PROOFS. Dispositions, the tail of the trap ring and the watchdog (`Obligations.DispositionsAndWatchdog`).
-/

namespace Sys2Proof.Machine

/-! ### The word of a RESUME (R320, R321) -/

section Word
variable (newpc setx : Bool) (xreg : BitVec 5) (addr : BitVec 16)

theorem resumeWord_bit (i : Nat) : (resumeWord newpc setx xreg addr).getLsbD i =
    if i < 16 then (if i < 2 then (1#2).getLsbD i else if i < 3 then newpc else if i < 4 then setx else xreg.getLsbD (i - 4))
    else addr.getLsbD (i - 16) := by
  rw [resumeWord, BitVec.getLsbD_append, BitVec.getLsbD_append, BitVec.getLsbD_append, BitVec.getLsbD_append, BitVec.getLsbD_append]
  split
  · split
    · rfl
    · by_cases h3 : i < 3
      · simp [show i = 2 by omega]
      · by_cases h4 : i < 4
        · simp [show i = 3 by omega]
        · have place : i - 2 - 1 - 1 = i - 4 := by omega
          rw [if_neg (by omega), if_neg (by omega), if_neg h3, if_neg h4, place]
          split
          · rfl
          · rw [BitVec.getLsbD_zero]
            exact (BitVec.getLsbD_of_ge xreg _ (by omega)).symm
  · rfl

theorem resumeWord_action : (resumeWord newpc setx xreg addr).extractLsb' 0 2 = 1#2 := by
  refine BitVec.eq_of_getLsbD_eq fun i hi => ?_
  rw [BitVec.getLsbD_extractLsb', Nat.zero_add, resumeWord_bit, if_pos (by omega), if_pos hi, decide_eq_true hi, Bool.true_and]

theorem resumeWord_newpc : (resumeWord newpc setx xreg addr).getLsbD 2 = newpc := by
  rw [resumeWord_bit]; rfl

theorem resumeWord_setx : (resumeWord newpc setx xreg addr).getLsbD 3 = setx := by
  rw [resumeWord_bit]; rfl

theorem resumeWord_xreg : (resumeWord newpc setx xreg addr).extractLsb' 4 5 = xreg := by
  refine BitVec.eq_of_getLsbD_eq fun i hi => ?_
  rw [BitVec.getLsbD_extractLsb', resumeWord_bit, if_pos (by omega), if_neg (by omega), if_neg (by omega), if_neg (by omega),
    decide_eq_true hi, Bool.true_and, Nat.add_sub_cancel_left]

theorem resumeWord_addr : (resumeWord newpc setx xreg addr).extractLsb' 16 16 = addr := by
  refine BitVec.eq_of_getLsbD_eq fun i hi => ?_
  rw [BitVec.getLsbD_extractLsb', resumeWord_bit, if_neg (by omega), decide_eq_true hi, Bool.true_and, Nat.add_sub_cancel_left]

/-- The word of a RESUME has no bit outside the fields of the register. -/
theorem resumeWord_masked : resumeWord newpc setx xreg addr &&& 0xFFFF01FF#32 = resumeWord newpc setx xreg addr := by
  have fields : ∀ i < 32, (0xFFFF01FF#32).getLsbD i = (decide (i < 9) || decide (16 ≤ i)) := by decide
  refine BitVec.eq_of_getLsbD_eq fun i hi => ?_
  rw [BitVec.getLsbD_and, fields i hi]
  by_cases gap : 9 ≤ i ∧ i < 16
  · rw [resumeWord_bit, if_pos (by omega), if_neg (by omega), if_neg (by omega), if_neg (by omega), BitVec.getLsbD_of_ge _ _ (by omega),
      Bool.false_and]
  · have inside : (decide (i < 9) || decide (16 ≤ i)) = true := by
      rw [Bool.or_eq_true, decide_eq_true_eq, decide_eq_true_eq]; omega
    rw [inside, Bool.and_true]

end Word

/-! ### A held spindle (R321) -/

section Held
variable {s : State} {stand k : Nat} (hs : stand < 40) (hk : k < 8)

/-- Whether the record of a spindle waits for a slot of its ring (R320). -/
def State.recordWaits (s : State) (stand k : Nat) : Prop := ∃ r ∈ (s.stand stand).recWait, r.1 = spindleOf stand k

theorem noteDisp_stand (s : State) (stand k : Nat) (v : BitVec 32) : (s.noteDisp stand k v).stand stand =
    { s.stand stand with disp := (s.stand stand).disp.set (k % 8) v (Nat.mod_lt _ (by decide)) } := stand_modStand_self ..

theorem recWait_any : ((s.stand stand).recWait.any fun r => r.1 == spindleOf stand k) = true ↔ s.recordWaits stand k := by
  simp [State.recordWaits, List.any_eq_true]

theorem heldNow_none (h : (s.sp (spindleOf stand k)).run.heldBy = none ∨ s.recordWaits stand k) : s.heldNow stand k = none := by
  rw [State.heldNow]
  rcases h with h | h
  · rw [h, ite_self]
  · exact if_pos (by rw [recWait_any.2 h, Bool.or_true])

include hs hk in
theorem heldNow_some (settled : ¬ s.recordWaits stand k) : s.heldNow stand k = (s.sp (spindleOf stand k)).run.heldBy := by
  refine if_neg ?_
  rw [Bool.eq_false_iff.2 (mt recWait_any.1 settled)]
  simp only [Bool.or_false, Bool.or_eq_true, decide_eq_true_eq]
  omega

/-- What a disposition finds is not changed by the register. -/
theorem heldNow_noteDisp (v : BitVec 32) : (s.noteDisp stand k v).heldNow stand k = s.heldNow stand k := by
  rw [State.heldNow, State.heldNow, noteDisp_stand]
  rfl

include hs hk in
theorem writeDisposition_resume (newpc setx : Bool) (xreg : BitVec 5) (addr : BitVec 16) :
    s.writeDisposition stand k (resumeWord newpc setx xreg addr)
      = (s.noteDisp stand k (resumeWord newpc setx xreg addr)).resumeHeld stand k newpc setx xreg addr := by
  have range : ¬ (decide (40 ≤ stand) || decide (8 ≤ k)) = true := by simp; omega
  refine (if_neg range).trans ?_
  rw [resumeWord_masked, resumeWord_action, resumeWord_newpc, resumeWord_setx, resumeWord_xreg, resumeWord_addr]
  rfl

include hs hk in
theorem writeDisposition_kill : s.writeDisposition stand k 2 = (s.noteDisp stand k 2).killHeld stand k := by
  have range : ¬ (decide (40 ≤ stand) || decide (8 ≤ k)) = true := by simp; omega
  exact if_neg range

/-- A spindle that is not held is left as it is. -/
theorem resumeHeld_none (none_ : s.heldNow stand k = none) (newpc setx : Bool) (xreg : BitVec 5) (addr : BitVec 16) :
    s.resumeHeld stand k newpc setx xreg addr = s := by rw [State.resumeHeld, none_]

theorem killHeld_none (none_ : s.heldNow stand k = none) : s.killHeld stand k = s := by rw [State.killHeld, none_]

theorem killHeld_some {vol : Bool} (held : s.heldNow stand k = some vol) : s.killHeld stand k = s.killTask (spindleOf stand k) := by
  rw [State.killHeld, held]

/-- The context of a spindle that a RESUME finds held, by ESC or not. -/
def Ctx.resumed (c : Ctx) (vol newpc setx : Bool) (xreg : BitVec 5) (addr : BitVec 16) (x : Word) : Ctx :=
  let c := if setx then { c with regs := c.regs.wx xreg x } else c
  let c := if vol then c.leavesHandler else c
  { (if newpc then c.redirected addr else c) with wait := none, cameFrom := none }

theorem resumeHeld_some {vol : Bool} (held : s.heldNow stand k = some vol) (newpc setx : Bool) (xreg : BitVec 5) (addr : BitVec 16) :
    s.resumeHeld stand k newpc setx xreg addr = s.modSp (spindleOf stand k) fun sp => { sp with
      run := .running
      ctx := sp.ctx.resumed vol newpc setx xreg addr ((s.stand stand).sret[k % 8]'(Nat.mod_lt _ (by decide))) } := by
  rw [State.resumeHeld, held]
  rfl

end Held

/-! ### The context that resumes (R318, R321) -/

/-- What a RESUME keeps of a context that had set its register. -/
structure Ctx.resumesFrom (c : Ctx) (vol newpc : Bool) (addr : BitVec 16) (d : Ctx) : Prop where
  pc : d.pc = if newpc then addr.setWidth 64 else c.pc
  ctl : d.ctl = if vol then { c.ctl with hmode := false } else c.ctl
  pipe : d.pipe = if vol = true ∧ c.ctl.hmode = true then c.pipe ++ c.hpipe else c.pipe
  regs : d.regs = c.regs
  trap : d.trap = c.trap

theorem leavesHandler_resumes (c : Ctx) (addr : BitVec 16) : c.resumesFrom true false addr c.leavesHandler := by
  rw [Ctx.leavesHandler]
  cases mode : c.ctl.hmode with
  | true => exact ⟨rfl, rfl, (if_pos ⟨rfl, mode⟩).symm, rfl, rfl⟩
  | false =>
    have same : c.ctl = { c.ctl with hmode := false } := by rw [← mode]
    exact ⟨rfl, same, (if_neg fun h => by rw [mode] at h; cases h.2).symm, rfl, rfl⟩

theorem resumed_resumes (c : Ctx) (vol newpc : Bool) (xreg : BitVec 5) (addr : BitVec 16) (x : Word) :
    c.resumesFrom vol newpc addr (c.resumed vol newpc false xreg addr x) := by
  cases vol with
  | false => cases newpc <;> exact ⟨rfl, rfl, rfl, rfl, rfl⟩
  | true =>
    obtain ⟨pc, ctl, pipe, regs, trap⟩ := leavesHandler_resumes c addr
    cases newpc with
    | false => exact ⟨pc, ctl, pipe, regs, trap⟩
    | true => exact ⟨rfl, ctl, pipe, regs, trap⟩

theorem wx_y (r : Regs) (n : BitVec 5) (v : Word) : (r.wx n v).y = r.y := by rw [Regs.wx]; split <;> rfl

theorem wx_p (r : Regs) (n : BitVec 5) (v : Word) : (r.wx n v).p = r.p := by rw [Regs.wx]; split <;> rfl

/-- The registers that a RESUME leaves: SETX acts before the rest. -/
theorem resumed_regs (c : Ctx) (vol newpc setx : Bool) (xreg : BitVec 5) (addr : BitVec 16) (x : Word) :
    c.resumed vol newpc setx xreg addr x
      = { c with regs := if setx then c.regs.wx xreg x else c.regs }.resumed vol newpc false xreg addr x := by
  cases setx <;> rfl

theorem setx_rx (r : Regs) (setx : Bool) (xreg k : BitVec 5) (x : Word) :
    (if setx then r.wx xreg x else r).rx k = if setx = true ∧ k = xreg ∧ k ≠ 0 then x else r.rx k := by
  cases setx with
  | false => rw [if_neg (by nofun), if_neg (by nofun)]
  | true =>
    rw [if_pos rfl, rx_wx]
    by_cases zero : k = 0
    · subst zero
      rw [if_pos rfl, if_neg fun h => h.2.2 rfl]
      rfl
    · simp only [zero, if_false, true_and, ne_eq, not_false_eq_true, and_true]

theorem setx_y (r : Regs) (setx : Bool) (xreg : BitVec 5) (x : Word) : (if setx then r.wx xreg x else r).y = r.y := by
  cases setx with
  | false => rfl
  | true => exact wx_y r xreg x

theorem setx_p (r : Regs) (setx : Bool) (xreg : BitVec 5) (x : Word) : (if setx then r.wx xreg x else r).p = r.p := by
  cases setx with
  | false => rfl
  | true => exact wx_p r xreg x

/-! ### The tail of the trap ring (R320) -/

theorem putRecord_stand (s : State) (k : Nat) (bs : List Byte) : (s.putRecord k bs).stand k =
    { s.stand k with trqhead := (s.stand k).trqhead + 1 } := stand_modStand_self ..

/-- What a flush of the ring leaves of a stand: its tail, and of the waiting records no more than there were. -/
theorem flushRing_stand (k fuel : Nat) (s : State) : ((s.flushRing k fuel).stand k).trqtail = (s.stand k).trqtail
    ∧ ((s.flushRing k fuel).stand k).recWait.length ≤ (s.stand k).recWait.length := by
  induction fuel generalizing s with
  | zero => exact ⟨rfl, le_refl _⟩
  | succ fuel ih =>
    rw [State.flushRing]
    cases waits : (s.stand k).recWait with
    | nil => exact ⟨rfl, le_of_eq (congrArg _ waits)⟩
    | cons r rs =>
      dsimp only
      split
      · exact ⟨rfl, le_of_eq (congrArg _ waits)⟩
      · obtain ⟨tail, length⟩ := ih ((s.modStand k fun st => { st with recWait := rs }).putRecord k r.2)
        have put : (((s.modStand k fun st => { st with recWait := rs }).putRecord k r.2).stand k) =
            { (s.stand k) with recWait := rs, trqhead := (s.stand k).trqhead + 1 } := by
          rw [putRecord_stand, stand_modStand_self]
        rw [put] at tail length
        exact ⟨tail, length.trans (Nat.le_succ _)⟩

/-- A record goes out if the ring has room. -/
theorem flushRing_room {s : State} {k : Nat} {r : Nat × List Byte} {rs : List (Nat × List Byte)} (waits : (s.stand k).recWait = r :: rs)
    (room : (s.stand k).ringFull = false) (fuel : Nat) :
    ((s.flushRing k (fuel + 1)).stand k).recWait.length < (s.stand k).recWait.length := by
  have put : (((s.modStand k fun st => { st with recWait := rs }).putRecord k r.2).stand k).recWait = rs := by
    rw [putRecord_stand, stand_modStand_self]
  rw [State.flushRing]
  simp only [waits, room, Bool.false_eq_true, if_false]
  have shorter := (flushRing_stand k fuel ((s.modStand k fun st => { st with recWait := rs }).putRecord k r.2)).2
  rw [put] at shorter
  exact Nat.lt_succ_of_le shorter

/-! ### The watchdog (R323) -/

section Watchdog
variable {s : State} {n : Nat} {w : Wait} (waits : (s.ctxOf n).wait = some w)

/-- The wait has lasted longer than FRZLIM. -/
def State.waitsLong (s : State) (n : Nat) (w : Wait) : Prop :=
  (s.sp n).run = .running ∧ (s.ctxOf n).trap.frzlim ≠ 0 ∧ (s.ctxOf n).trap.frzlim.toNat < s.gcyc - w.since

/-- The bundle that waits has issued. -/
def State.waitsAfter (s : State) (n : Nat) : Bool := (s.ctxOf n).inTend || (s.postWait n).isSome

/-- The trap of the watchdog. -/
def State.watchdogTrap (s : State) (n : Nat) (w : Wait) : Trap :=
  { code := tWATCHDOG, slot := 7, val := BitVec.ofNat 64 w.kind
    epc := (if s.waitsAfter n then (s.ctxOf n).bun.start else (s.ctxOf n).pc).setWidth 16 }

theorem watchdogTrap_issued (w : Wait) (after : s.waitsAfter n = true) : (s.watchdogTrap n w).epc = (s.ctxOf n).bun.start.setWidth 16 := by
  rw [State.watchdogTrap, if_pos after]

theorem watchdogTrap_waiting (w : Wait) (before : ¬ s.waitsAfter n = true) : (s.watchdogTrap n w).epc = (s.ctxOf n).pc.setWidth 16 := by
  rw [State.watchdogTrap, if_neg before]

include waits

theorem watchdogDue_iff : s.watchdogDue n = true ↔ s.waitsLong n w := by
  rw [State.watchdogDue, State.waitsLong]
  simp [waits, and_assoc]

theorem watchdogFires_early (early : ¬ s.waitsLong n w) : s.watchdogFires n = s := by
  have no : (if s.watchdogDue n then (s.ctxOf n).wait else none) = none := if_neg (mt (watchdogDue_iff waits).1 early)
  rw [State.watchdogFires]
  simp only [no]

theorem watchdogFires_late (late : s.waitsLong n w) : s.watchdogFires n =
    if s.waitsAfter n then (s.escalate n (s.watchdogTrap n w)).modCtx n fun x => { x with pc := (s.ctxOf n).pc, cameFrom := (s.ctxOf n).cameFrom }
    else (s.unfuse n).escalate n (s.watchdogTrap n w) := by
  have yes : (if s.watchdogDue n then (s.ctxOf n).wait else none) = some w := (if_pos ((watchdogDue_iff waits).2 late)).trans waits
  rw [State.watchdogFires]
  simp only [yes]
  rw [State.watchdogTrap]
  cases after : s.waitsAfter n with
  | true => simp only [show ((s.ctxOf n).inTend || (s.postWait n).isSome) = true from after, if_true]
  | false => simp only [show ((s.ctxOf n).inTend || (s.postWait n).isSome) = false from after, Bool.false_eq_true, if_false]

end Watchdog

/-- What an escalation does to its spindle. -/
structure State.escalates (s : State) (n : Nat) (tr : Trap) (t : State) : Prop where
  run : (t.sp n).run = .held false
  wait : (t.ctxOf n).wait = none
  trap : (s.ctxOf n).ctl.hmode = false → (t.ctxOf n).trap = (s.ctxOf n).trap.take tr
  regs : (t.ctxOf n).regs = (s.ctxOf n).regs
  ctl : (t.ctxOf n).ctl = (s.ctxOf n).ctl

theorem escalate_escalates (s : State) (n : Nat) (tr : Trap) : s.escalates n tr (s.escalate n tr) := by
  have sp := escalateWith_sp s n tr (s.ctxOf n).ctl.hmode false false
  refine ⟨congrArg Spindle.run sp, congrArg (fun x => x.ctx.wait) sp, fun mode => (congrArg (fun x => x.ctx.trap) sp).trans ?_,
    congrArg (fun x => x.ctx.regs) sp, congrArg (fun x => x.ctx.ctl) sp⟩
  exact if_neg (by rw [mode]; nofun)

/-- The start of the bundle that issues again is marked, and nothing else of the context changes (R182). -/
theorem unfuse_ctxOf (s : State) (n : Nat) : ∃ u, (s.unfuse n).ctxOf n = { s.ctxOf n with unfused := u } := by
  rw [State.unfuse, modCtx_self]
  split
  · exact ⟨_, rfl⟩
  · exact ⟨_, rfl⟩

theorem watchdogFires_escalates {s : State} {n : Nat} {w : Wait} (waits : (s.ctxOf n).wait = some w) (late : s.waitsLong n w) :
    s.escalates n (s.watchdogTrap n w) (s.watchdogFires n) := by
  rw [watchdogFires_late waits late]
  split
  · obtain ⟨run, wait, trap, regs, ctl⟩ := escalate_escalates s n (s.watchdogTrap n w)
    have ctx := modCtx_self (s.escalate n (s.watchdogTrap n w)) n fun x => { x with pc := (s.ctxOf n).pc, cameFrom := (s.ctxOf n).cameFrom }
    refine ⟨by rw [State.modCtx, sp_modSp]; exact run, ?_, fun mode => ?_, ?_, ?_⟩ <;> rw [ctx]
    · exact wait
    · exact trap mode
    · exact regs
    · exact ctl
  · obtain ⟨u, before⟩ := unfuse_ctxOf s n
    obtain ⟨run, wait, trap, regs, ctl⟩ := escalate_escalates (s.unfuse n) n (s.watchdogTrap n w)
    rw [before] at trap regs ctl
    exact ⟨run, wait, trap, regs, ctl⟩

/-! ### A write of TRQTAIL (R320) -/

section Tail
variable {s : State} {k : Nat} (hk : k < 40) (v : BitVec 32)
include hk

theorem writeTail_eq : s.writeTail k v = (s.modStand k fun st => { st with trqtail := v }).flushRing k (s.stand k).recWait.length := by
  have length : ((s.modStand k fun st => { st with trqtail := v }).stand k).recWait.length = (s.stand k).recWait.length := by
    rw [stand_modStand_self]
  exact (if_neg (by omega)).trans (congrArg _ length)

theorem writeTail_tail : ((s.writeTail k v).stand k).trqtail = v := by
  rw [writeTail_eq hk, (flushRing_stand ..).1, stand_modStand_self]

theorem writeTail_quiet (none_ : (s.stand k).recWait = []) : s.writeTail k v = s.modStand k fun st => { st with trqtail := v } := by
  rw [writeTail_eq hk, none_]
  rfl

theorem writeTail_room {r : Nat × List Byte} {rs : List (Nat × List Byte)} (waits : (s.stand k).recWait = r :: rs)
    (room : (s.stand k).trqhead - v ≠ 128) : ((s.writeTail k v).stand k).recWait.length < (s.stand k).recWait.length := by
  have stand := stand_modStand_self s k fun st => { st with trqtail := v }
  have shorter := flushRing_room (s := s.modStand k fun st => { st with trqtail := v }) (k := k) (r := r) (rs := rs)
    (by rw [stand]; exact waits) (by rw [stand]; exact beq_eq_false_iff_ne.2 room) rs.length
  rw [writeTail_eq hk, waits]
  rw [stand] at shorter
  rwa [waits] at shorter

end Tail

end Sys2Proof.Machine

open Sys2Proof Sys2Proof.Machine

/-- Settles O16: dispositions by how they find their spindle, the tail by the room that it makes, the watchdog by its wait. -/
theorem dispositionsAndWatchdog : Obligations.DispositionsAndWatchdog := by
  unfold Obligations.DispositionsAndWatchdog
  refine ⟨fun s stand k newpc setx xreg addr val hs hk => ?dispositions, fun s n w wait => ?watchdog⟩
  case dispositions =>
    intro n c waits
    refine ⟨fun vol held settled => ?resume, fun free => ?free, fun held settled => ?kill, ?tail⟩
    case resume =>
      let x : Word := (s.stand stand).sret.toList.getD k 0
      have found : (s.noteDisp stand k (resumeWord newpc setx xreg addr)).heldNow stand k = some vol := by
        rw [heldNow_noteDisp, heldNow_some hs hk settled]
        exact congrArg RunState.heldBy held
      have index : k % 8 = k := Nat.mod_eq_of_lt hk
      have sret : ((s.noteDisp stand k (resumeWord newpc setx xreg addr)).stand stand).sret[k % 8]'(Nat.mod_lt _ (by decide))
          = x := by
        rw [noteDisp_stand]
        simp [x, index, hk]
      have resumes := (writeDisposition_resume hs hk newpc setx xreg addr).trans (resumeHeld_some found newpc setx xreg addr)
      rw [sret] at resumes
      have sp := sp_modSp (s.noteDisp stand k (resumeWord newpc setx xreg addr)) n fun sp => { sp with
        run := .running, ctx := sp.ctx.resumed vol newpc setx xreg addr x }
      have disp : ((s.noteDisp stand k (resumeWord newpc setx xreg addr)).stand stand).disp.toList.getD k 0 = resumeWord newpc setx xreg addr := by
        rw [noteDisp_stand]
        simp [index, hk]
      have others (m : Nat) (hm : m ≠ n) := sp_modSp_ne (s.noteDisp stand k (resumeWord newpc setx xreg addr)) hm fun sp => { sp with
        run := .running, ctx := sp.ctx.resumed vol newpc setx xreg addr x }
      refine ⟨_, congrArg Host.Outcome.next resumes, congrArg Spindle.run sp, ?_⟩
      obtain ⟨pc, ctl, pipe, regs, trap⟩ := resumed_resumes { c with regs := if setx then c.regs.wx xreg x else c.regs } vol newpc xreg addr x
      rw [← resumed_regs] at pc ctl pipe regs trap
      have ctx := congrArg Spindle.ctx sp
      refine ⟨(congrArg Ctx.pc ctx).trans pc, (congrArg Ctx.ctl ctx).trans ctl, (congrArg Ctx.pipe ctx).trans pipe, disp, fun r => ?_,
        ?_, ?_, (congrArg Ctx.trap ctx).trans trap, rfl, others⟩
      · exact ((congrArg (fun d => d.regs.rx r) ctx).trans (congrArg (fun g => g.rx r) regs)).trans (setx_rx ..)
      · exact ((congrArg (fun d => d.regs.y) ctx).trans (congrArg Regs.y regs)).trans (setx_y ..)
      · exact ((congrArg (fun d => d.regs.p) ctx).trans (congrArg Regs.p regs)).trans (setx_p ..)
    case free =>
      have none_ (v : BitVec 32) : (s.noteDisp stand k v).heldNow stand k = none := (heldNow_noteDisp v).trans (heldNow_none free)
      intro i hi
      simp only [List.mem_cons, List.not_mem_nil, or_false] at hi
      rcases hi with rfl | rfl
      · exact ⟨_, congrArg Host.Outcome.next ((writeDisposition_resume hs hk newpc setx xreg addr).trans
          (resumeHeld_none (none_ _) newpc setx xreg addr)), rfl, rfl, rfl⟩
      · exact ⟨_, congrArg Host.Outcome.next ((writeDisposition_kill hs hk).trans (killHeld_none (none_ _))), rfl, rfl, rfl⟩
    case kill =>
      obtain ⟨vol, held⟩ := Option.isSome_iff_exists.1 held
      have found : (s.noteDisp stand k 2).heldNow stand k = some vol := by
        rw [heldNow_noteDisp, heldNow_some hs hk settled]
        exact held
      exact ⟨_, congrArg Host.Outcome.next ((writeDisposition_kill hs hk).trans (killHeld_some found)), rfl⟩
    case tail =>
      exact ⟨_, rfl, writeTail_tail hs val, writeTail_quiet hs val, fun r rs waits room => writeTail_room hs val waits room⟩
  case watchdog =>
    intro c late issued
    refine ⟨fun early => congrArg Host.Outcome.next (watchdogFires_early wait early), fun late => ?_⟩
    obtain ⟨run, none_, trap, regs, ctl⟩ := watchdogFires_escalates wait late
    have issued_iff : s.waitsAfter n = true ↔ issued := Bool.or_eq_true ..  ▸ Iff.rfl
    refine ⟨_, rfl, run, none_, fun mode => ?_, regs, ctl⟩
    have taken := trap mode
    refine ⟨congrArg TrapRegs.tcause taken, congrArg TrapRegs.tslot taken, congrArg TrapRegs.tval taken, fun yes => ?_, fun no => ?_⟩
    · exact (congrArg TrapRegs.tepc taken).trans (watchdogTrap_issued w (issued_iff.2 yes))
    · exact (congrArg TrapRegs.tepc taken).trans (watchdogTrap_waiting w (mt issued_iff.1 no))
end

section
/-!
PROOFS. How a context stops (R335, R336, R340 to R342): what the landing of its results, the end of a line of the cipher engine and
the stop itself leave of the spindles (`Obligations.CaptureEvents`).
-/

namespace Sys2Proof.Machine

/-! ### Where the spindles stand

Neither a result that lands nor the cipher engine starts or stops a spindle, or sends it elsewhere. -/

/-- Every spindle runs, waits or is held as before, at the start where it was. -/
structure State.standing (s t : State) : Prop where
  run : ∀ m, (t.sp m).run = (s.sp m).run
  pc : ∀ m, (t.ctxOf m).pc = (s.ctxOf m).pc

section Standing
variable {s t u : State}

theorem State.standing.refl (s : State) : s.standing s := ⟨fun _ => rfl, fun _ => rfl⟩

theorem State.standing.trans (h : s.standing t) (k : t.standing u) : s.standing u :=
  ⟨fun m => (k.run m).trans (h.run m), fun m => (k.pc m).trans (h.pc m)⟩

theorem State.onlyFusion.standing (h : s.onlyFusion t) : s.standing t := by
  refine ⟨fun m => ?_, fun m => ?_⟩
  · obtain ⟨f, same⟩ := h m
    rw [same]
  · obtain ⟨f, same⟩ := h m
    rw [State.ctxOf, same]
    rfl

theorem standing_of_spindles (same : t.spindles = s.spindles) : s.standing t := (onlyFusion_of_spindles same).standing

theorem standing_ite {c : Prop} [Decidable c] (ht : s.standing t) (hu : s.standing u) : s.standing (if c then t else u) := by
  split
  · exact ht
  · exact hu

theorem standing_foldl {α : Type} {f : State → α → State} (l : List α) (hf : ∀ t x, State.standing t (f t x)) (s : State) :
    s.standing (l.foldl f s) :=
  List.foldlRecOn l f (.refl s) fun _ h x _ => h.trans (hf _ x)

theorem standing_modSp (s : State) (n : Nat) {f : Spindle → Spindle} (hf : ∀ x, (f x).run = x.run ∧ (f x).ctx.pc = x.ctx.pc) :
    s.standing (s.modSp n f) := by
  have key (m : Nat) : ((s.modSp n f).sp m).run = (s.sp m).run ∧ ((s.modSp n f).sp m).ctx.pc = (s.sp m).ctx.pc := by
    by_cases own : m = n
    · subst own
      rw [sp_modSp]
      exact hf _
    · rw [sp_modSp_ne _ own]
      exact ⟨rfl, rfl⟩
  exact ⟨fun m => (key m).1, fun m => (key m).2⟩

theorem standing_modCtx (s : State) (n : Nat) {f : Ctx → Ctx} (hf : ∀ x, (f x).pc = x.pc) : s.standing (s.modCtx n f) :=
  standing_modSp s n fun x => ⟨rfl, hf x.ctx⟩

theorem standing_askBlocks (s : State) (n : Nat) (bs : List Nat) : s.standing (s.askBlocks n bs) :=
  standing_foldl bs (fun t b => standing_modSp t n fun x => by split <;> exact ⟨rfl, rfl⟩) s

theorem standing_choose (s : State) (k : Nat) : s.standing (s.choose k).2 := by
  obtain ⟨v, chosen⟩ := choose_eq s k
  rw [chosen]
  exact standing_of_spindles rfl

theorem standing_readLoc (s : State) (l : Loc) (len : Nat) : s.standing (s.readLoc l len).2 := by
  cases l with
  | slice n off => exact .refl s
  | phys pa => exact .refl s
  | host a => exact standing_of_spindles rfl
  | far m off => exact standing_of_spindles rfl

theorem standing_outerRead (s : State) (m off len : Nat) : s.standing (s.outerRead m off len).2 := by
  unfold State.outerRead
  split
  · exact .refl s
  · split
    · exact .refl s
    · refine List.foldlRecOn (motive := fun x : List Byte × State => s.standing x.2) _ _ (.refl s) fun x h i _ => ?_
      dsimp only
      exact (h.trans (standing_choose x.2 _)).trans (standing_modCtx _ m fun _ => rfl)

theorem standing_homeRead (s : State) (l : Loc) (len : Nat) : s.standing (s.homeRead l len).2.2 := by
  unfold State.homeRead
  split
  · exact standing_readLoc s l len
  · split
    · exact standing_outerRead ..
    · exact .refl s

/-- Bytes that are not reached have at most asked for blocks or a walk. -/
def LineReach.standing (s : State) : LineReach → Prop
  | .wait t => s.standing t
  | _ => True

theorem reachStanding_ite {c : Prop} [Decidable c] {x y : LineReach} (hx : x.standing s) (hy : y.standing s) :
    (if c then x else y).standing s := by
  split
  · exact hx
  · exact hy

theorem lineSlice_standing (s : State) (n m off len : Nat) (wr trusted : Bool) : (s.lineSlice n m off len wr trusted).standing s :=
  reachStanding_ite trivial (reachStanding_ite (standing_askBlocks s m _) (reachStanding_ite (.refl s) trivial))

theorem lineReach_standing (s : State) (n : Nat) (a : Word) (len : Nat) (wr : Bool) : (s.lineReach n a len wr).standing s := by
  have waits {c : Prop} [Decidable c] {p : Place} : (if c then LineReach.wait s else .at_ p).standing s :=
    reachStanding_ite (.refl s) trivial
  unfold State.lineReach
  dsimp only
  cases s.aim (s.ctxOf n) a.toNat with
  | bad => trivial
  | own off => exact lineSlice_standing s n n off len wr true
  | remote m off => exact lineSlice_standing s n m off len wr true
  | global o =>
    dsimp only
    cases s.xlate (dieOf n) (s.ctxOf n).partN o wr (s.ctxOf n).ctl.strict with
    | miss =>
      unfold State.askWalk
      exact standing_ite (.refl s) (standing_of_spindles rfl)
    | fault => trivial
    | hit l e => cases l <;> exact waits
  | cluster m off =>
    refine reachStanding_ite trivial (reachStanding_ite (reachStanding_ite trivial trivial) ?_)
    cases s.farPlace (s.farPart (s.ctxOf n).partN m) off wr with
    | none => trivial
    | some l =>
      cases l with
      | slice k o => exact reachStanding_ite (standing_askBlocks s k _) waits
      | _ => exact waits

theorem standing_of_wait {n len : Nat} {a : Word} {wr : Bool} (wait : s.lineReach n a len wr = .wait t) : s.standing t := by
  have standing := lineReach_standing s n a len wr
  rwa [wait] at standing

/-! ### The cipher engine at a capture (R234, R342) -/

theorem standing_failCipher (s : State) (n code : Nat) (a : Word) : s.standing (s.failCipher n code a) := standing_modCtx s n fun _ => rfl

theorem standing_cipherConvert (s : State) (n : Nat) (cy : Cipher) (a t : Word) (p q : Place) :
    s.standing (s.cipherConvert n cy a t p q).2 := by
  unfold State.cipherConvert
  dsimp only
  split
  · exact .refl s
  · exact .refl s
  · exact .refl s
  · have text := standing_homeRead s p.loc 4096
    split
    · split
      · exact text
      · have record := text.trans (standing_homeRead _ q.loc 32)
        split
        · exact record
        · exact record
    · split
      · exact text
      · exact text.trans (standing_of_spindles rfl)

theorem standing_cipherBytes (s : State) (n : Nat) (cy : Cipher) (a t : Word) (p q : Place) :
    s.standing (s.cipherBytes n cy a t p q).2 := by
  unfold State.cipherBytes
  split
  · exact standing_cipherConvert ..
  · exact .refl s

theorem standing_cipherLines (s : State) (n : Nat) (cy : Cipher) (a t : Word) (p q : Place) :
    s.standing (s.cipherLines n cy a t p q) := by
  have chosen := standing_choose s (64 - cy.line)
  have bytes := chosen.trans (standing_cipherBytes (s.choose (64 - cy.line)).2 n cy a t p q)
  unfold State.cipherLines
  dsimp only
  split
  · exact chosen
  · split
    · next conv => rw [conv] at bytes; exact bytes
    · next conv =>
      rw [conv] at bytes
      exact (bytes.trans (State.onlyFusion.standing (putLine_onlyFusion _ _ _ _ _))).trans (standing_modCtx _ n fun _ => rfl)

theorem standing_cipherCut (s : State) (n : Nat) : s.standing (s.cipherCut n) := by
  unfold State.cipherCut State.cipherAt
  split
  · exact .refl s
  · dsimp only
    refine standing_ite (.refl s) (standing_ite (standing_askBlocks ..) ?_)
    split
    · exact standing_failCipher ..
    · next wait => exact standing_of_wait wait
    · exact standing_failCipher ..
    · next wait => exact standing_of_wait wait
    · exact standing_cipherLines ..

/-- A cipher engine without a command is left as it is. -/
theorem cipherCut_idle {n : Nat} (idle : (s.ctxOf n).eng.cipher = none) : s.cipherCut n = s := by
  rw [State.cipherCut, State.cipherAt, idle]

/-! ### Results that land (R73) -/

/-- What lands on spindle n changes nothing of another, and of its own neither where it stands nor what its cipher engine does. -/
structure State.lands (s : State) (n : Nat) (t : State) : Prop where
  standing : s.standing t
  others : ∀ m, m ≠ n → t.ctxOf m = s.ctxOf m
  cipher : (t.ctxOf n).eng.cipher = (s.ctxOf n).eng.cipher

theorem State.lands.refl (s : State) (n : Nat) : s.lands n s := ⟨.refl s, fun _ _ => rfl, rfl⟩

theorem State.lands.trans {n : Nat} (h : s.lands n t) (k : t.lands n u) : s.lands n u :=
  ⟨h.standing.trans k.standing, fun m hm => (k.others m hm).trans (h.others m hm), k.cipher.trans h.cipher⟩

theorem lands_modCtx (s : State) (n : Nat) {f : Ctx → Ctx} (hf : ∀ x, (f x).pc = x.pc ∧ (f x).eng.cipher = x.eng.cipher) :
    s.lands n (s.modCtx n f) :=
  ⟨standing_modCtx s n fun x => (hf x).1, fun _ hm => modCtx_other s hm f, by rw [modCtx_self]; exact (hf _).2⟩

theorem lands_foldl {α : Type} {n : Nat} {f : State → α → State} (l : List α) (hf : ∀ t x, State.lands t n (f t x)) (s : State) :
    s.lands n (l.foldl f s) :=
  List.foldlRecOn l f (.refl s n) fun _ h x _ => h.trans (hf _ x)

theorem stays_ite {c d e : Ctx} {p : Prop} [Decidable p] (hd : d.pc = c.pc ∧ d.eng.cipher = c.eng.cipher)
    (he : e.pc = c.pc ∧ e.eng.cipher = c.eng.cipher) :
    (if p then d else e).pc = c.pc ∧ (if p then d else e).eng.cipher = c.eng.cipher := by
  split
  · exact hd
  · exact he

theorem writeCr_stays (c : Ctx) (k : BitVec 16) (v : Word) : (c.writeCr k v).pc = c.pc ∧ (c.writeCr k v).eng.cipher = c.eng.cipher := by
  unfold Ctx.writeCr
  dsimp only
  iterate 18 refine stays_ite ⟨rfl, rfl⟩ ?_
  refine stays_ite ?_ (stays_ite ⟨rfl, rfl⟩ ⟨rfl, rfl⟩)
  split <;> exact ⟨rfl, rfl⟩

theorem lands_land (s : State) (n : Nat) (l : Land) : s.lands n (s.land n l) := by
  cases l with
  | acc own off bs =>
    have put : s.lands n (s.putSlice n off bs (bs.length / 65536 + 2)) :=
      ⟨standing_of_spindles (putSlice_spindles ..), fun _ _ => putSlice_ctxOf .., by rw [putSlice_ctxOf]⟩
    have written : s.lands n (if own then s.writeOwn n off bs else s.writeSlice n off bs) := by
      cases own with
      | true => exact put
      | false => exact put.trans (lands_modCtx _ n
          (f := fun c => { c with fusion := Fusion.after c.fusion off bs.length }) fun _ => ⟨rfl, rfl⟩)
    exact ⟨written.standing.trans (standing_of_spindles rfl), written.others, written.cipher⟩
  | creg k v => exact lands_modCtx s n fun x => writeCr_stays x k v
  | x r v => exact lands_modCtx s n (f := fun c => { c with regs := c.regs.wx r v }) fun _ => ⟨rfl, rfl⟩
  | y r v => exact lands_modCtx s n (f := fun c => { c with regs := c.regs.wy r v }) fun _ => ⟨rfl, rfl⟩
  | p k b => exact lands_modCtx s n (f := fun c => { c with regs := c.regs.wp k b }) fun _ => ⟨rfl, rfl⟩
  | flags g => exact lands_modCtx s n (f := fun c => c.setFlags g) fun _ => ⟨rfl, rfl⟩

theorem lands_landAll (s : State) (n : Nat) (ls : List Land) : s.lands n (s.landAll n ls) :=
  (lands_foldl _ (fun t l => lands_land t n l) s).trans (lands_foldl _ (fun t l => lands_land t n l) _)

theorem flagLater_stays (c : Ctx) (runs : Bool) (f : BitVec 9) :
    (c.flagLater runs f).pc = c.pc ∧ (c.flagLater runs f).eng.cipher = c.eng.cipher := by
  unfold Ctx.flagLater
  split_ifs <;> exact ⟨rfl, rfl⟩

theorem setActive_stays (c : Ctx) (l : List Pending) : (c.setActive l).pc = c.pc ∧ (c.setActive l).eng.cipher = c.eng.cipher := by
  unfold Ctx.setActive
  split <;> exact ⟨rfl, rfl⟩

theorem lands_landThese (s : State) (n : Nat) (ps : List Pending) : s.lands n (s.landThese n ps) := by
  have landed := lands_landAll s n (ps.flatMap Pending.now)
  unfold State.landThese
  dsimp only
  split
  · exact landed
  · exact landed.trans (lands_modCtx _ n fun x => flagLater_stays x _ _)

theorem lands_landDue (s : State) (n : Nat) : s.lands n (s.landDue n) :=
  (lands_modCtx s n fun x => setActive_stays x _).trans (lands_landThese ..)

end Standing

theorem setActive_active (c : Ctx) : c.setActive c.active = c := by
  unfold Ctx.setActive Ctx.active
  split <;> rfl

/-- With no result due, nothing lands. -/
theorem landDue_none {s : State} {n : Nat} (none_ : (s.ctxOf n).active.filter Pending.due = []) :
    s.landDue n = s.modCtx n fun c => c.setActive (c.active.filter fun p => !p.due) := by
  rw [State.landDue, none_]
  rfl

/-- A context of which nothing is due. -/
theorem active_kept {c : Ctx} (later : ∀ p ∈ c.pipe ++ c.hpipe, p.left ≠ 0 ∨ p.await ≠ none) :
    c.active.filter Pending.due = [] ∧ c.setActive (c.active.filter fun p => !p.due) = c := by
  have within : ∀ p ∈ c.active, p ∈ c.pipe ++ c.hpipe := fun p hp => by
    rw [Ctx.active] at hp
    split at hp
    · exact List.mem_append_right _ hp
    · exact List.mem_append_left _ hp
  have undue : ∀ p ∈ c.active, p.due = false := fun p hp => by
    have := later p (within p hp)
    simp only [Pending.due, Bool.and_eq_false_iff, beq_eq_false_iff_ne, Option.isNone_eq_false_iff, Option.isSome_iff_ne_none]
    exact this
  refine ⟨List.filter_eq_nil_iff.2 fun p hp => by rw [undue p hp]; nofun, ?_⟩
  rw [List.filter_eq_self.2 fun p hp => by rw [undue p hp]; rfl, setActive_active]

/-! ### The stop (R340 to R342) -/

/-- The results that are due at a capture are written, unless their blocks are absent. -/
def State.landed (s : State) (n : Nat) : State :=
  if (s.missingOf n (s.ctxOf n).landBlocks).isEmpty then s.landDue n else s

/-- Spindle n as its capture leaves it. -/
def State.capturedSp (s : State) (n kind why c : Nat) : Spindle :=
  { s.sp n with
    run := .captured kind why c (s.sp n).run.heldBy
    ctx := { s.ctxOf n with
      lock := none, wait := none, domOps := s.withdrawn (s.ctxOf n).domOps, ckpt := kind == 0 && (s.ctxOf n).ckpt
      clock := s.clockOf (dieOf n) } }

/-- The context of spindle n is captured. -/
def State.captureAs (s : State) (n kind why c : Nat) : State :=
  (s.parkWaits (s.ctxOf n).id).setSp n (s.capturedSp n kind why c)

section Stop
variable {s : State} {n kind why c : Nat}

theorem stopAs_captures (hk : kind ≠ 3) : s.stopAs n kind why c = ((s.landed n).cipherCut n).captureAs n kind why c := if_neg hk

theorem lands_landed (s : State) (n : Nat) : s.lands n (s.landed n) := by
  unfold State.landed
  split
  · exact lands_landDue s n
  · exact .refl s n

/-- A running spindle is captured at the start where it stands, and its hold of banks ends. -/
theorem stopAs_running (hk : kind ≠ 3) (running : (s.sp n).run = .running) :
    ((s.stopAs n kind why c).sp n).run = .captured kind why c none ∧ ((s.stopAs n kind why c).ctxOf n).pc = (s.ctxOf n).pc
      ∧ ((s.stopAs n kind why c).ctxOf n).lock = none := by
  have before := (lands_landed s n).standing.trans (standing_cipherCut (s.landed n) n)
  have sp : (s.stopAs n kind why c).sp n = ((s.landed n).cipherCut n).capturedSp n kind why c := by
    rw [stopAs_captures hk]
    exact sp_setSp ..
  rw [State.ctxOf, sp]
  refine ⟨?_, before.pc n, rfl⟩
  rw [State.capturedSp, before.run n, running]
  rfl

/-- Where the cipher engine has no command, the stop keeps what the landing left. -/
theorem stopAs_keeps (hk : kind ≠ 3) (idle : (s.ctxOf n).eng.cipher = none) :
    let t := s.stopAs n kind why c
    let d := s.landed n
    (∀ m, m ≠ n → t.ctxOf m = s.ctxOf m) ∧ t.mem = d.mem ∧ (t.ctxOf n).sameRegs (d.ctxOf n)
      ∧ (t.ctxOf n).pipe = (d.ctxOf n).pipe ∧ (t.ctxOf n).hpipe = (d.ctxOf n).hpipe ∧ (t.ctxOf n).notices = (d.ctxOf n).notices := by
  intro t d
  have landed := lands_landed s n
  have captured : t = d.captureAs n kind why c :=
    (stopAs_captures hk).trans (congrArg (fun x : State => x.captureAs n kind why c) (cipherCut_idle (landed.cipher.trans idle)))
  have own : t.ctxOf n = (d.capturedSp n kind why c).ctx := by
    rw [captured]
    exact congrArg Spindle.ctx (sp_setSp ..)
  refine ⟨fun m hm => ?_, by rw [captured]; rfl, ?_⟩
  · rw [captured]
    exact (congrArg Spindle.ctx (sp_setSp_ne _ hm _)).trans (landed.others m hm)
  · rw [own]
    exact ⟨⟨rfl, rfl, rfl, rfl⟩, rfl, rfl, rfl⟩

/-- With nothing due, the landing leaves memory and the context. -/
theorem landed_none (later : ∀ p ∈ (s.ctxOf n).pipe ++ (s.ctxOf n).hpipe, p.left ≠ 0 ∨ p.await ≠ none) :
    (s.landed n).mem = s.mem ∧ (s.landed n).ctxOf n = s.ctxOf n := by
  obtain ⟨none_, kept⟩ := active_kept later
  unfold State.landed
  split
  · rw [landDue_none none_]
    exact ⟨rfl, (modCtx_self ..).trans kept⟩
  · exact ⟨rfl, rfl⟩

/-- The CUT of kind 3 (R341). -/
def State.cutTrap (s : State) (n c : Nat) : Trap :=
  { code := tCUT, slot := 7, val := BitVec.ofNat 64 c, epc := (s.ctxOf n).pc.setWidth 16 }

theorem stopAs_escalates (running : (s.sp n).run = .running) : s.stopAs n 3 why c =
    (s.escalate n (s.cutTrap n c)).modSp n fun x => { x with
      run := .captured 3 why c none
      ctx := { x.ctx with fusion := (s.ctxOf n).fusion, cameFrom := (s.ctxOf n).cameFrom } } := by
  unfold State.stopAs
  dsimp only
  rw [if_pos rfl, running]
  rfl

end Stop

end Sys2Proof.Machine
end

section
/-!
PROOFS. The count of a cut (R340) and the stop at a bundle start (R335, R336): `Obligations.CaptureEvents`.
-/

namespace Sys2Proof.Machine

section Cut
variable {s : State} {n : Nat} {k : Cut}

/-- A cut that has come for one running spindle stops it. -/
theorem cutStop_one (found : (s.cuts.find? fun k => k.spins.contains n && decide (k.c ≤ s.gcyc)) = some k) (fits : s.cutFits k n = true)
    (running : (s.sp n).run = .running) (alone : s.groupOf n = [n]) :
    s.cutStop n = if s.txBusy n then s else (s.cutReached k [n]).stopAs n k.kind k.why k.c := by
  have group : (if ((s.sp n).run == .empty) = true then [n] else s.groupOf n) = [n] := by
    rw [alone, ite_self]
  have reached : ((s.cutReached k [n]).sp n).run = .running := running
  have busy : (s.cutReached k [n]).txBusy n = s.txBusy n := rfl
  unfold State.cutStop
  rw [found]
  dsimp only
  rw [group]
  simp only [fits, Bool.not_true, Bool.false_eq_true, if_false, List.any_cons, List.any_nil, Bool.or_false]
  have unloaded : ((s.sp n).run == RunState.loading) = false := by rw [running]; rfl
  rw [unloaded, Bool.false_or]
  cases idle : s.txBusy n with
  | true => rfl
  | false =>
    rw [idle] at busy
    have may : (s.cutReached k [n]).mayStop n = true := by
      rw [State.mayStop, busy, reached]
      rfl
    simp only [Bool.false_eq_true, if_false, List.filter_cons, List.filter_nil, reached, Bool.and_false, List.foldl_nil, may, if_true,
      List.foldl_cons]

/-- What lands at the stop of a cut. -/
theorem landed_cut : (s.cutReached k [n]).landed n =
    if s.missingOf n (s.ctxOf n).landBlocks = [] then (s.cutReached k [n]).landDue n else s.cutReached k [n] := by
  unfold State.landed
  refine if_congr ?_ rfl rfl
  exact List.isEmpty_iff

end Cut

end Sys2Proof.Machine
end

section
/-!
PROOFS. Quiescence of a captured spindle, and the image that it begins (R343, R345): `Obligations.CaptureEvents`.
-/

namespace Sys2Proof.Machine

/-! ### Bytes that go to one slot -/

/-- From s to t bytes go to one slot alone, from `lo` on; if `ok`, none goes past its end. No spindle changes, and of a partition only
its images. -/
structure State.fillsSlot (p slot lo : Nat) (ok : Prop) (s t : State) : Prop where
  spindles : t.spindles = s.spindles
  part : ∀ q, ∃ l, t.part q = { s.part q with sched := { (s.part q).sched with images := l } }
  sound : s.sound → t.sound
  below : s.sound → ∀ a, a < s.slotAddr p slot + lo → cellGet t.mem.cells a = cellGet s.mem.cells a
  above : ok → s.sound → ∀ a, s.slotAddr p slot + 0x1800000 ≤ a → cellGet t.mem.cells a = cellGet s.mem.cells a

section Fills
variable {p slot lo : Nat} {ok : Prop} {s t u : State}

theorem State.fillsSlot.refl (s : State) : State.fillsSlot p slot lo ok s s :=
  ⟨rfl, fun _ => ⟨_, rfl⟩, id, fun _ _ _ => rfl, fun _ _ _ _ => rfl⟩

theorem State.fillsSlot.addr (h : State.fillsSlot p slot lo ok s t) : t.slotAddr p slot = s.slotAddr p slot := by
  obtain ⟨l, same⟩ := h.part p
  have cfg := congrArg Part.cfg same
  exact slotAddr_congr cfg slot

theorem State.fillsSlot.trans (h : State.fillsSlot p slot lo ok s t) (k : State.fillsSlot p slot lo ok t u) :
    State.fillsSlot p slot lo ok s u where
  spindles := k.spindles.trans h.spindles
  part q := by
    obtain ⟨l, hl⟩ := h.part q
    obtain ⟨m, hm⟩ := k.part q
    rw [hm, hl]
    exact ⟨m, rfl⟩
  sound x := k.sound (h.sound x)
  below x a ha := (k.below (h.sound x) a (by rwa [h.addr])).trans (h.below x a ha)
  above y x a ha := (k.above y (h.sound x) a (by rwa [h.addr])).trans (h.above y x a ha)

theorem fillsSlot_foldl {α : Type} {f : State → α → State} (l : List α) (hf : ∀ t, ∀ x ∈ l, State.fillsSlot p slot lo ok t (f t x))
    (s : State) : State.fillsSlot p slot lo ok s (l.foldl f s) :=
  List.foldlRecOn l f (.refl s) fun t h x hx => h.trans (hf t x hx)

theorem fillsSlot_ite {c : Prop} [Decidable c] (ht : State.fillsSlot p slot lo ok s t) (hu : State.fillsSlot p slot lo ok s u) :
    State.fillsSlot p slot lo ok s (if c then t else u) := by
  split
  · exact ht
  · exact hu

theorem fillsSlot_modSched (s : State) (q : Nat) (g : Tbl Image → Tbl Image) :
    State.fillsSlot p slot lo ok s (s.modSched q fun d => { d with images := g d.images }) where
  spindles := rfl
  part r := by
    by_cases own : r = q
    · subst own
      rw [part_modSched_self]
      exact ⟨_, rfl⟩
    · rw [part_modSched_ne s own]
      exact ⟨_, rfl⟩
  sound := id
  below _ _ _ := rfl
  above _ _ _ _ := rfl

theorem fillsSlot_write {a off : Nat} {bs : List Byte} (place : a = s.slotAddr p slot + off) (from_ : lo ≤ off)
    (fits : ok → off + bs.length ≤ 0x1800000) : State.fillsSlot p slot lo ok s (s.modMem fun m => m.write a bs) where
  spindles := rfl
  part _ := ⟨_, rfl⟩
  sound h := Memory.write_wf _ _ h
  below hs _ hb := cellGet_cellsWrite_out _ _ _ hs (by omega)
  above hok hs _ hb := cellGet_cellsWrite_out _ _ _ hs (by have := fits hok; omega)

theorem fillsSlot_writeSlot (s : State) {off : Nat} {x : Nat ⊕ List Byte} (from_ : lo ≤ off) (fits : ok → off + slotLen x ≤ 0x1800000) :
    State.fillsSlot p slot lo ok s (s.writeSlot p slot off x) := by
  cases x with
  | inr bs => exact fillsSlot_write rfl from_ fits
  | inl n =>
    have taken : State.fillsSlot p slot lo ok s (s.freeBytes n).2 :=
      ⟨rfl, fun _ => ⟨_, rfl⟩, id, fun _ _ _ => rfl, fun _ _ _ _ => rfl⟩
    have noted : State.fillsSlot p slot lo ok s ((s.freeBytes n).2.note p slot off (s.freeBytes n).1) :=
      taken.trans (fillsSlot_modSched _ p fun l => l.map (atSlot slot (Image.note off _)))
    rw [writeSlot_hidden]
    refine noted.trans (fillsSlot_write ?_ from_ fun hok => ?_)
    · rw [noted.addr]
    · rw [freeBytes_length]
      exact fits hok

/-- The form and the poison bits of a block. -/
theorem fillsSlot_bits (s : State) {f q : Nat} (x : SavedBlock) (from_ : lo ≤ f ∧ lo ≤ q)
    (fits : ok → f + 128 ≤ 0x1800000 ∧ q + 128 ≤ 0x1800000) : State.fillsSlot p slot lo ok s
      ((s.writeSlot p slot f (.inr (lineBits x.form))).writeSlot p slot q (.inr (lineBits x.poison))) := by
  refine (fillsSlot_writeSlot s from_.1 fun h => ?_).trans (fillsSlot_writeSlot _ from_.2 fun h => ?_)
  · rw [slotLen, lineBits, bytesLE_length]
    exact (fits h).1
  · rw [slotLen, lineBits, bytesLE_length]
    exact (fits h).2

/-- The blocks stand after the head of a slot. -/
theorem blockSpan_from (b : Nat) : 0x1000 ≤ (blockSpan b).1 := by
  unfold blockSpan
  split <;> dsimp only <;> omega

/-- A block goes to its slot, after the head; one of the 310 blocks, without a shadow pool, within its end. -/
theorem fillsSlot_writeBlock {i : Image} (b : Nat) (at_ : s.imageAt p slot = some i)
    (numbered : ok → i.dir.any (fun x => x.1 == b && x.2 == .image) = true → b < 310) (own : ok → i.ctx.eng.ownPool i.spin = []) :
    State.fillsSlot p slot 0x1000 ok s (s.writeBlock p slot b) := by
  simp only [State.writeBlock, at_]
  split
  · exact .refl s
  · next listed =>
    have hb (h : ok) : b < 310 := numbered h (by simpa using listed)
    have bytes : State.fillsSlot p slot 0x1000 ok s
        ((s.writeSlot p slot (blockSpan b).1 (.inl (blockSpan b).2)).writeSlot p slot (tagPlace b) (.inl 16)) := by
      refine (fillsSlot_writeSlot s (blockSpan_from b) fun h => by rw [slotLen]; exact blockSpan_fits (hb h)).trans
        (fillsSlot_writeSlot _ ?_ fun h => ?_) <;> unfold tagPlace
      · omega
      · have := hb h
        rw [slotLen]
        omega
    have bits := bytes.trans (fillsSlot_bits _ (f := formPlace (b - 6)) (q := poisonPlace (b - 6)) (tget {} b i.blocks)
      (by unfold formPlace poisonPlace; omega) fun h => by
        have := hb h
        unfold formPlace poisonPlace
        omega)
    have block := fillsSlot_ite (c := isMemBlock b = true) bits bytes
    refine fillsSlot_ite (block.trans (fillsSlot_foldl _ (fun t pb hpb => ?_) _)) block
    have none_ (h : ok) : False := absurd (own h ▸ hpb) List.not_mem_nil
    refine ((fillsSlot_writeSlot t ?_ fun h => (none_ h).elim).trans (fillsSlot_writeSlot _ ?_ fun h => (none_ h).elim)).trans
      (fillsSlot_bits _ _ ?_ fun h => (none_ h).elim)
    · unfold poolPlace
      omega
    · unfold poolTagPlace
      omega
    · unfold poolFormPlace poolPoisonPlace
      omega

theorem fillsSlot_writeHead {i : Image} (at_ : s.imageAt p slot = some i) : State.fillsSlot p slot 0 ok s (s.writeHead p slot) := by
  rw [writeHead_image at_]
  refine fillsSlot_writeSlot s (Nat.zero_le _) fun _ => ?_
  rw [slotLen, head_length]
  omega

/-- Blocks of an image that go to its slot. -/
theorem fillsSlot_writeBlocks {i : Image} (l : Tbl BlockSrc) (at_ : s.imageAt p slot = some i)
    (numbered : ok → ∀ x ∈ i.dir, x.2 = .image → x.1 < 310) (own : ok → i.ctx.eng.ownPool i.spin = []) :
    State.fillsSlot p slot 0x1000 ok s (l.foldl (fun s x => s.writeBlock p slot x.1) s) ∧
      s.notesBytes (l.foldl (fun s x => s.writeBlock p slot x.1) s) := by
  refine List.foldlRecOn l (motive := fun t => State.fillsSlot p slot 0x1000 ok s t ∧ s.notesBytes t) _ ⟨.refl s, .refl s⟩
    fun t h x _ => ?_
  obtain ⟨filled, noted⟩ := h
  obtain ⟨w, now⟩ := noted.image p slot i at_
  refine ⟨filled.trans (fillsSlot_writeBlock x.1 now (fun hok listed => ?_) own), noted.trans (notesBytes_writeBlock t p slot x.1)⟩
  obtain ⟨y, hy, is_⟩ := List.any_eq_true.1 listed
  simp only [Bool.and_eq_true, beq_iff_eq] at is_
  exact is_.1 ▸ numbered hok y hy is_.2

theorem State.fillsSlot.mono {lo' : Nat} (h : State.fillsSlot p slot lo ok s t) (le : lo' ≤ lo) : State.fillsSlot p slot lo' ok s t :=
  { h with below := fun hs a ha => h.below hs a (by omega) }

end Fills

/-! ### An image begins (R345) -/

section Begins
variable {s : State} {p n slot kind c seg : Nat} {was : Option Bool} {ctx : Ctx} {dir : Tbl BlockSrc} {blocks : Tbl SavedBlock}
variable {charge : Option Nat × Nat} {ok : Prop}

/-- The image of a context that begins in a slot. -/
def State.firstImage (s : State) (n kind c : Nat) (was : Option Bool) (ctx : Ctx) (seg : Nat) (dir : Tbl BlockSrc)
    (blocks : Tbl SavedBlock) (charge : Option Nat × Nat) : Image :=
  { state := 0, kind := kind, c := c, was := was, ctx := ctx, rev := s.sec.rev, spin := n, seg := seg, dir := dir, blocks := blocks
    charged := charge.2, firstIssue := charge.1 }

/-- The image stands in the table. -/
def State.listImage (s : State) (p slot : Nat) (i : Image) : State := s.modSched p fun d => { d with images := tput slot i d.images }

theorem listImage_imageAt (s : State) (p slot : Nat) (i : Image) : (s.listImage p slot i).imageAt p slot = some i := by
  rw [State.imageAt, State.listImage, part_modSched_self]
  exact tfind_tput_self ..

/-- The same bytes read alike. -/
theorem read_congr {m m' : Memory} {a len : Nat} (same : ∀ k < len, cellGet m.cells (a + k) = cellGet m'.cells (a + k)) :
    m.read a len = m'.read a len :=
  List.map_congr_left fun k hk => same k (List.mem_range.1 hk)

/-- An image that begins changes its slot alone, and its head stands there. -/
theorem newImage_begins (numbered : ok → ∀ x ∈ dir, x.2 = .image → x.1 < 310) (own : ok → ctx.eng.ownPool n = []) :
    let i := s.firstImage n kind c was ctx seg dir blocks charge
    let t := s.newImage p n slot kind c was ctx seg dir blocks charge
    State.fillsSlot p slot 0 ok s t ∧ (∃ w, t.imageAt p slot = some { i with written := w })
      ∧ (s.sound → t.mem.read (s.slotAddr p slot) 2544 = i.head p) := by
  intro i t
  have at_ := listImage_imageAt s p slot i
  have listed : State.fillsSlot p slot 0 ok s (s.listImage p slot i) := fillsSlot_modSched ..
  have head := fillsSlot_writeHead (ok := ok) at_
  obtain ⟨w, now⟩ := (notesBytes_writeHead (s.listImage p slot i) p slot).image p slot i at_
  obtain ⟨filled, noted⟩ := fillsSlot_writeBlocks dir now numbered own
  refine ⟨(listed.trans head).trans (filled.mono (Nat.zero_le _)), ?_, fun hs => ?_⟩
  · obtain ⟨v, last⟩ := noted.image p slot _ now
    exact ⟨v, last⟩
  · have before := (listed.trans head).sound hs
    have addr := (listed.trans head).addr
    have kept := read_congr (len := (i.head p).length) fun k hk => filled.below before (s.slotAddr p slot + k) (by
      rw [head_length] at hk
      omega)
    have written := Memory.read_write (m := (s.listImage p slot i).mem) (s.slotAddr p slot) (i.head p) hs
    have mem : ((s.listImage p slot i).writeHead p slot).mem =
        (s.listImage p slot i).mem.write (s.slotAddr p slot) (i.head p) := by
      rw [writeHead_image at_, writeSlot_plain, listed.addr, Nat.add_zero]
      rfl
    rw [← head_length i p]
    exact kept.trans ((congrArg (fun m : Memory => m.read (s.slotAddr p slot) (i.head p).length) mem).trans written)

end Begins

/-! ### The unit of a context rests (R51, R351) -/

/-- Memory, the spindles and the images stay. -/
structure State.keepsImage (s t : State) : Prop where
  mem : t.mem = s.mem
  spindles : t.spindles = s.spindles
  image : ∀ q k, t.imageAt q k = s.imageAt q k

section Rests
variable {s t u : State} {p n : Nat}

theorem State.keepsImage.refl (s : State) : s.keepsImage s := ⟨rfl, rfl, fun _ _ => rfl⟩

theorem State.keepsImage.trans (h : s.keepsImage t) (k : t.keepsImage u) : s.keepsImage u :=
  ⟨k.mem.trans h.mem, k.spindles.trans h.spindles, fun q m => (k.image q m).trans (h.image q m)⟩

theorem keepsImage_modSched (s : State) (p : Nat) {f : PartSched → PartSched} (hf : ∀ d, (f d).images = d.images) :
    s.keepsImage (s.modSched p f) :=
  ⟨rfl, rfl, fun q k => imageAt_modSched_images s p q k hf⟩

theorem keepsImage_leaveUnit (s : State) (p n : Nat) {u : Placed} (unbound : u.work.job = none) : s.keepsImage (s.leaveUnit p n u) := by
  unfold State.leaveUnit
  rw [unbound]
  exact keepsImage_modSched s p fun _ => rfl

/-- A context whose node has not failed rests, as a task of its own or with its gang. -/
theorem keepsImage_restImage (s : State) (p n slot : Nat) {c : Ctx} (whole : Bool) {u : Placed} (unit : s.unitOf c = some u)
    (sane : s.nodeFailed c = false) (unbound : u.work.job = none) : s.keepsImage (s.restImage p n slot c whole) := by
  unfold State.restImage
  rw [unit]
  dsimp only
  rw [if_neg (by rw [sane]; nofun)]
  split
  · refine State.keepsImage.trans ?_ (keepsImage_leaveUnit _ p n unbound)
    split
    · refine State.keepsImage.trans ?_ (keepsImage_modSched _ p fun _ => rfl)
      exact keepsImage_modSched s p fun _ => rfl
    · exact keepsImage_modSched s p fun _ => rfl
  · refine State.keepsImage.trans ?_ (keepsImage_leaveUnit _ p n unbound)
    exact keepsImage_modSched s p fun _ => rfl

theorem keepsImage_leaveStand (s : State) (n seg gid : Nat) : s.keepsImage (s.leaveStand n seg gid) := ⟨rfl, rfl, fun _ _ => rfl⟩

theorem keepsImage_schedDue (s : State) (p : Nat) : s.keepsImage (s.schedDue p) := keepsImage_modSched s p fun _ => rfl

end Rests

/-! ### Quiescence (R343) -/

section Quiet
variable {s : State} {n kind why cnt : Nat} {was : Option Bool}

/-- The numbers of the blocks that a directory takes from the image: none but those that were absent are not of the 310. -/
theorem dirOf_numbered {b : Nat} (numbered : ∀ x ∈ (s.sp n).absent, x.1 < 310)
    (listed : (b, BlockSrc.image) ∈ dirOf n (s.leaveBlocks n).1 (s.leaveBlocks n).2.1) : b < 310 := by
  simp only [dirOf, State.leaveBlocks, List.mem_append, List.mem_map, Prod.mk.injEq, reduceCtorEq, and_false, exists_false,
    or_false] at listed
  rcases listed with away | ⟨k, -, rfl, source⟩
  · exact numbered _ away
  · rw [savedSrc] at source
    split at source
    · cases source
    · omega

/-- The blocks that a context has present, and no other owes, are owed. -/
theorem leaveBlocks_owes {b : Nat} (hb : b < 310) (present : ∀ x ∈ (s.sp n).absent, x.1 ≠ b) (free : ∀ x ∈ (s.sp n).owed, x.1 ≠ b) :
    b ∈ (s.leaveBlocks n).1 := by
  simp only [State.leaveBlocks, List.mem_filter, List.mem_range, Bool.and_eq_true, Bool.not_eq_true', List.contains_eq_mem,
    decide_eq_false_iff_not, List.mem_map, not_exists, not_and, and_imp]
  exact ⟨hb, fun x hx => present x hx, fun x hx _ => free x hx⟩

/-- The context of spindle n as it is suspended. -/
def State.suspended (s : State) (n why : Nat) (was : Option Bool) : Susp :=
  { spin := n, why := why
    sp := { s.sp n with
      run := match was with | some v => .held v | none => .running
      absent := (s.leaveBlocks n).2.1, saved := (s.leaveBlocks n).2.2, owed := [], want := [] } }

section Captured
variable (captured : (s.sp n).run = .captured kind why cnt was) (quiet : s.quiet n = true)
include captured

theorem quiesce_held (three : kind = 3) : s.quiesce n = s := by
  unfold State.quiesce
  dsimp only
  rw [captured, three]
  rfl

include quiet

theorem quiesce_suspends (zero : kind = 0) : s.quiesce n =
    ((s.modSched (s.ctxOf n).partN fun d => { d with susp := d.susp ++ [s.suspended n why was] }).setSp n
      ((s.sp n).leave (s.leaveBlocks n).1)).schedDue (s.ctxOf n).partN := by
  unfold State.quiesce
  dsimp only
  rw [captured, zero, quiet]
  rfl

theorem quiesce_ends (two : kind = 2) :
    s.quiesce n = if s.underWay (fun m => m.ctx == (s.ctxOf n).id) then s else s.killTask n := by
  unfold State.quiesce
  dsimp only
  rw [captured, two, quiet]
  rw [State.ctxOf]
  cases s.underWay fun m => m.ctx == (s.sp n).ctx.id <;> rfl

theorem quiesce_saves (one : kind = 1) {slot : Nat} (free : s.freeSlot (s.ctxOf n).partN = some slot) : s.quiesce n =
    ((((s.newImage (s.ctxOf n).partN n slot 1 cnt was (s.ctxOf n) (s.sp n).seg
        (dirOf n (s.leaveBlocks n).1 (s.leaveBlocks n).2.1) (s.leaveBlocks n).2.2 ((s.sp n).firstIssue, (s.sp n).charged)).setSp n
      ((s.sp n).leave (s.leaveBlocks n).1)).restImage (s.ctxOf n).partN n slot (s.ctxOf n) ((s.ctxOf n).domain || why == 4)).leaveStand n
        (s.sp n).seg (s.ctxOf n).gang).schedDue (s.ctxOf n).partN := by
  unfold State.quiesce
  dsimp only
  rw [captured, one, quiet]
  dsimp only
  rw [if_neg (by nofun), if_neg (by nofun), if_neg (by nofun)]
  rw [State.ctxOf] at free
  rw [free]
  rfl

end Captured

end Quiet

end Sys2Proof.Machine
end

section
/-!
PROOFS. What quiescence leaves, and the stop at a bundle start (R335, R336, R343): `Obligations.CaptureEvents`.
-/

namespace Sys2Proof.Machine

/-- A cut of kind 3 holds the spindle, with its registers and the trap of the cut. -/
theorem stopAs_escalated {s : State} {n why c : Nat} (running : (s.sp n).run = .running) :
    let t := s.stopAs n 3 why c
    (t.sp n).run = .captured 3 why c none ∧ (t.ctxOf n).regs = (s.ctxOf n).regs
      ∧ ((s.ctxOf n).ctl.hmode = false → (t.ctxOf n).trap = (s.ctxOf n).trap.take (s.cutTrap n c)) := by
  intro t
  obtain ⟨-, -, trap, regs, -⟩ := escalate_escalates s n (s.cutTrap n c)
  have eq : t = _ := stopAs_escalates running
  generalize s.escalate n (s.cutTrap n c) = u at eq trap regs
  have sp : t.sp n = _ := eq ▸ sp_modSp ..
  exact ⟨congrArg Spindle.run sp, (congrArg (fun x => x.ctx.regs) sp).trans regs,
    fun mode => (congrArg (fun x => x.ctx.trap) sp).trans (trap mode)⟩

/-! ### What quiescence leaves -/

theorem unitOf_congr {s t : State} {c : Ctx} (same : (t.part c.partN).sched.placed = (s.part c.partN).sched.placed) :
    t.unitOf c = s.unitOf c := by
  rw [State.unitOf, State.unitOf, same]

theorem nodeFailed_congr {s t : State} {c : Ctx} (same : (t.part c.partN).sched.graphs = (s.part c.partN).sched.graphs) :
    t.nodeFailed c = s.nodeFailed c := by
  rw [State.nodeFailed, State.nodeFailed, State.graph, State.graph, same]

theorem sp_of_spindles {s t : State} (n : Nat) (same : t.spindles = s.spindles) : t.sp n = s.sp n := by
  rw [State.sp, State.sp, same]

section Leaves
variable {s : State} {n kind why cnt : Nat} {was : Option Bool}
variable (captured : (s.sp n).run = .captured kind why cnt was) (quiet : s.quiet n = true)
include captured quiet

theorem quiesce_suspended (zero : kind = 0) :
    let t := s.quiesce n
    t.mem = s.mem ∧ t.sp n = (s.sp n).leave (s.leaveBlocks n).1
      ∧ s.suspended n why was ∈ (t.part (s.ctxOf n).partN).sched.susp := by
  intro t
  have eq : t = _ := quiesce_suspends captured quiet zero
  rw [eq]
  refine ⟨rfl, ?_, ?_⟩
  · exact sp_setSp ..
  · rw [State.schedDue, part_modSched_self]
    have listed := congrArg (fun x : Part => x.sched.susp) (part_modSched_self s (s.ctxOf n).partN fun d =>
      { d with susp := d.susp ++ [s.suspended n why was] })
    have kept := List.mem_append_right (s.part (s.ctxOf n).partN).sched.susp (List.mem_singleton_self (s.suspended n why was))
    exact listed ▸ kept

/-- The image of a checkpointed context. -/
def State.savedImage (s : State) (n cnt : Nat) (was : Option Bool) : Image :=
  s.firstImage n 1 cnt was (s.ctxOf n) (s.sp n).seg (dirOf n (s.leaveBlocks n).1 (s.leaveBlocks n).2.1) (s.leaveBlocks n).2.2
    ((s.sp n).firstIssue, (s.sp n).charged)

theorem quiesce_saved (one : kind = 1) {slot : Nat} {u : Placed} (free : s.freeSlot (s.ctxOf n).partN = some slot)
    (unit : s.unitOf (s.ctxOf n) = some u) (sane : s.nodeFailed (s.ctxOf n) = false) (unbound : u.work.job = none) :
    let p := (s.ctxOf n).partN
    let t := s.quiesce n
    let i := s.savedImage n cnt was
    (t.sp n).run = .empty ∧ (∃ w, t.imageAt p slot = some { i with written := w })
      ∧ (s.sound → t.mem.read (s.slotAddr p slot) 2544 = i.head p)
      ∧ (s.sound → (∀ x ∈ (s.sp n).absent, x.1 < 310) → (s.ctxOf n).eng.ownPool n = [] →
          ∀ a, a < s.slotAddr p slot ∨ s.slotAddr p slot + 0x1800000 ≤ a → cellGet t.mem.cells a = cellGet s.mem.cells a) := by
  intro p t i
  have eq : t = _ := quiesce_saves captured quiet one free
  obtain ⟨filled, image, head⟩ := newImage_begins (s := s) (p := p) (n := n) (slot := slot) (kind := 1) (c := cnt) (seg := (s.sp n).seg)
    (was := was) (ctx := s.ctxOf n) (dir := dirOf n (s.leaveBlocks n).1 (s.leaveBlocks n).2.1) (blocks := (s.leaveBlocks n).2.2)
    (charge := ((s.sp n).firstIssue, (s.sp n).charged))
    (ok := (∀ x ∈ (s.sp n).absent, x.1 < 310) ∧ (s.ctxOf n).eng.ownPool n = [])
    (fun ok x hx source => dirOf_numbered ok.1 (source ▸ hx)) fun ok => ok.2
  generalize s.newImage p n slot 1 cnt was (s.ctxOf n) (s.sp n).seg (dirOf n (s.leaveBlocks n).1 (s.leaveBlocks n).2.1)
    (s.leaveBlocks n).2.2 ((s.sp n).firstIssue, (s.sp n).charged) = v at eq filled image head
  obtain ⟨l, part⟩ := filled.part (s.ctxOf n).partN
  have unit' : (v.setSp n ((s.sp n).leave (s.leaveBlocks n).1)).unitOf (s.ctxOf n) = some u := by
    have placed := congrArg (fun x : Part => x.sched.placed) part
    exact (unitOf_congr placed).trans unit
  have sane' : (v.setSp n ((s.sp n).leave (s.leaveBlocks n).1)).nodeFailed (s.ctxOf n) = false := by
    have graphs := congrArg (fun x : Part => x.sched.graphs) part
    exact (nodeFailed_congr graphs).trans sane
  have rests := ((keepsImage_restImage _ (s.ctxOf n).partN n slot ((s.ctxOf n).domain || why == 4) unit' sane' unbound).trans
    (keepsImage_leaveStand _ n (s.sp n).seg (s.ctxOf n).gang)).trans (keepsImage_schedDue _ (s.ctxOf n).partN)
  rw [← eq] at rests
  have mem : t.mem = v.mem := rests.mem
  refine ⟨?_, ?_, fun hs => ?_, fun hs numbered own a outside => ?_⟩
  · have sp : t.sp n = (s.sp n).leave (s.leaveBlocks n).1 :=
      (sp_of_spindles n rests.spindles).trans (sp_setSp ..)
    rw [sp]
    rfl
  · obtain ⟨w, now⟩ := image
    exact ⟨w, (rests.image p slot).trans now⟩
  · rw [mem]
    exact head hs
  · rw [mem]
    rcases outside with before | behind
    · exact filled.below hs a (by rwa [Nat.add_zero])
    · exact filled.above ⟨numbered, own⟩ hs a behind

end Leaves

/-! ### The stop at a bundle start (R335, R336) -/

section Bound
variable {s : State} {n : Nat}

theorem actOf_captures (running : (s.sp n).run = .running) (mode : (s.ctxOf n).ctl.hmode = false) (busy : s.txBusy n = false)
    (pending : (s.ctxOf n).ckpt = true) (late : (s.ctxOf n).ctl.ppbound.toNat ≤ (s.ctxOf n).ppcount.toNat) :
    (s.actOf n).1 = .capture := by
  have due : State.captureDue { s with cur := n } n = true := by
    have ckpt : (s.ctxOf n).ckptDue = true := by
      rw [Ctx.ckptDue, mode, pending, decide_eq_true late]
      rfl
    have idle : State.txBusy { s with cur := n } n = false := busy
    rw [State.captureDue, idle]
    exact ckpt.symm ▸ rfl
  have runs : (State.sp { s with cur := n } n).run = .running := running
  unfold State.actOf
  dsimp only
  rw [runs, due]
  rfl

theorem actOf_expires (running : (s.sp n).run = .running) (mode : (s.ctxOf n).ctl.hmode = false) (none_ : (s.ctxOf n).ckpt = false)
    (tend : (s.ctxOf n).inTend = false) (engine : State.mxStalls { s with cur := n } n = false)
    (wait : State.postWait { s with cur := n } n = none) (notices : (s.ctxOf n).notices = [])
    (late : (s.ctxOf n).ctl.ppbound.toNat < (s.ctxOf n).ppcount.toNat) : (s.actOf n).1 = .expire := by
  have runs : (State.sp { s with cur := n } n).run = .running := running
  have here : State.ctxOf { s with cur := n } n = s.ctxOf n := rfl
  have undue : State.captureDue { s with cur := n } n = false := by
    rw [State.captureDue, here, Ctx.ckptDue, none_, Bool.and_false, Bool.false_and, Bool.false_and]
  have due : (s.ctxOf n).ppDue = true := by
    rw [Ctx.ppDue, mode, none_, decide_eq_true late]
    rfl
  unfold State.actOf
  dsimp only
  rw [runs, undue, here, engine, tend, wait, notices, mode, due]
  rfl

/-- Only a spindle that runs takes a pending checkpoint. -/
theorem running_of_capture (act : (s.actOf n).1 = .capture) : (s.sp n).run = .running := by
  by_contra stands
  have other : (State.sp { s with cur := n } n).run ≠ .running := stands
  unfold State.actOf at act
  dsimp only at act
  rw [if_pos (bne_iff_ne.2 other)] at act
  cases act

/-- The state that a pending checkpoint captures: at a mark, TEPC is the start of the marked bundle. -/
def State.atMark (s : State) (n : Nat) : State :=
  if (s.ctxOf n).ckptDue then s else s.modCtx n fun c => { c with trap := { c.trap with tepc := c.pc.setWidth 16 } }

theorem ppStop_captures (act : (s.actOf n).1 = .capture) : s.ppStop n = (s.atMark n).stopAs n 1 4 s.gcyc := by
  rw [State.ppStop, act]
  rfl

theorem ppStop_captured (act : (s.actOf n).1 = .capture) :
    (((s.atMark n).stopAs n 1 4 s.gcyc).sp n).run = .captured 1 4 s.gcyc none := by
  have running := running_of_capture act
  have runs : ((s.atMark n).sp n).run = .running := by
    unfold State.atMark
    split
    · exact running
    · rw [State.modCtx, sp_modSp]
      exact running
  obtain ⟨run, -, -⟩ := stopAs_running (kind := 1) (why := 4) (c := s.gcyc) (by decide) runs
  exact run

end Bound

end Sys2Proof.Machine

open Sys2Proof Sys2Proof.Machine

/-- Settles O46: by the stop of one spindle (`cutStop_one`, `stopAs_running`, `stopAs_keeps`), by what quiescence leaves for each kind
of capture, and by what a spindle does at a bundle start. -/
theorem captureEvents : Obligations.CaptureEvents := by
  unfold Obligations.CaptureEvents
  refine ⟨fun n k s found fits running alone => ?_, fun n kind why cnt was s captured quiet => ?_, fun n s => ?_⟩
  · have stop := cutStop_one found fits running alone
    have reached : ((s.cutReached k [n]).sp n).run = .running := running
    refine ⟨fun busy => congrArg Host.Outcome.next (stop.trans (by rw [busy]; rfl)), fun busy other => ?_, fun busy three mode => ?_⟩
    · obtain ⟨run, pc, lock⟩ := stopAs_running (why := k.why) (c := k.c) other reached
      refine ⟨_, congrArg Host.Outcome.next (stop.trans (by rw [busy]; rfl)), run, pc, lock, fun idle => ?_, fun idle later => ?_⟩
      · obtain ⟨others, mem, regs, pipe, hpipe, notices⟩ :=
          stopAs_keeps (s := s.cutReached k [n]) (n := n) (why := k.why) (c := k.c) other idle
        rw [landed_cut] at mem regs pipe hpipe notices
        exact ⟨others, fun a => by rw [mem], regs, pipe, hpipe, notices⟩
      · obtain ⟨-, mem, regs, pipe, hpipe, notices⟩ :=
          stopAs_keeps (s := s.cutReached k [n]) (n := n) (why := k.why) (c := k.c) other idle
        obtain ⟨before, kept⟩ := landed_none (s := s.cutReached k [n]) later
        rw [kept] at regs pipe hpipe notices
        exact ⟨fun a => by rw [mem, before]; rfl, regs, pipe, hpipe, notices⟩
    · obtain ⟨run, regs, trap⟩ := stopAs_escalated (why := k.why) (c := k.c) reached
      have taken := trap mode
      exact ⟨_, congrArg Host.Outcome.next (stop.trans (by rw [busy, three]; rfl)), run, regs,
        congrArg (fun x => x.tcause.toNat) taken, congrArg TrapRegs.tval taken, congrArg TrapRegs.tepc taken⟩
  · refine ⟨fun zero => ?_, fun two => ⟨fun sent => ?_, fun sent => ?_⟩, fun one slot u free unit sane unbound => ?_, fun three => ?_⟩
    · obtain ⟨mem, sp, listed⟩ := quiesce_suspended captured quiet zero
      refine ⟨_, rfl, fun a => by rw [mem], by rw [sp]; rfl, ⟨_, listed, rfl, rfl, rfl, rfl⟩, fun b hb present free => ?_⟩
      rw [sp]
      exact List.mem_append_right _ (List.mem_map.2 ⟨b, leaveBlocks_owes hb present free, rfl⟩)
    · exact congrArg Host.Outcome.next ((quiesce_ends captured quiet two).trans (if_pos sent))
    · have ends := (quiesce_ends captured quiet two).trans (if_neg (by rw [sent]; nofun))
      exact ⟨_, congrArg Host.Outcome.next ends, killTask_run s n⟩
    · obtain ⟨run, ⟨w, image⟩, head, outside⟩ := quiesce_saved captured quiet one free unit sane unbound
      exact ⟨_, _, rfl, run, image, rfl, rfl, rfl, rfl, rfl, rfl, rfl, rfl, rfl, head, outside⟩
    · exact congrArg Host.Outcome.next (quiesce_held captured three)
  · refine ⟨fun act => ?_, fun act => ⟨congrArg Host.Outcome.next (ppStop_captures act), ppStop_captured act⟩,
      fun running mode => ⟨fun busy pending late => actOf_captures running mode busy pending late,
        fun none_ tend engine wait notices late => actOf_expires running mode none_ tend engine wait notices late⟩⟩
    exact congrArg Host.Outcome.next (by rw [State.ppStop, act])
end

section
/-!
PROOFS. The writes of a routine of the matrix engine (R244 to R246): what is read back of a list of local writes, and of the rows of a
tile (`Obligations.MatrixEvents`).
-/

namespace Sys2Proof.Machine

/-! ### Local writes in order -/

/-- Writes to the own slice, in their order. -/
def State.localWrites (s : State) (n : Nat) (ws : List (Nat × List Byte)) : State := ws.foldl (fun s w => s.localWrite n w.1 w.2) s

/-- Of the contexts, at most a fused sequence of spindle n ends. -/
structure State.atMostUnfuses (s : State) (n : Nat) (t : State) : Prop where
  sound : s.sound → t.sound
  own : ∃ f, t.ctxOf n = { s.ctxOf n with fusion := f }
  others : ∀ m, m ≠ n → t.ctxOf m = s.ctxOf m

section Writes
variable {s t u : State} {n : Nat}

theorem State.atMostUnfuses.refl (s : State) (n : Nat) : s.atMostUnfuses n s := ⟨id, ⟨_, rfl⟩, fun _ _ => rfl⟩

theorem State.atMostUnfuses.trans (h : s.atMostUnfuses n t) (k : t.atMostUnfuses n u) : s.atMostUnfuses n u := by
  obtain ⟨f, hf⟩ := h.own
  obtain ⟨g, hg⟩ := k.own
  exact ⟨fun x => k.sound (h.sound x), ⟨g, by rw [hg, hf]⟩, fun m hm => (k.others m hm).trans (h.others m hm)⟩

theorem atMostUnfuses_foldl {α : Type} {f : State → α → State} (l : List α) (hf : ∀ t x, State.atMostUnfuses t n (f t x)) (s : State) :
    s.atMostUnfuses n (l.foldl f s) :=
  List.foldlRecOn l f (.refl s n) fun t h x _ => h.trans (hf t x)

theorem atMostUnfuses_localWrite (s : State) (n off : Nat) (bs : List Byte) : s.atMostUnfuses n (s.localWrite n off bs) :=
  ⟨fun h => writeSlice_sound n off bs h, ⟨_, localWrite_ctx ..⟩, fun _ hm => localWrite_other s hm off bs⟩

theorem atMostUnfuses_localWrites (s : State) (n : Nat) (ws : List (Nat × List Byte)) : s.atMostUnfuses n (s.localWrites n ws) :=
  atMostUnfuses_foldl ws (fun t w => atMostUnfuses_localWrite t n w.1 w.2) s

theorem State.atMostUnfuses.sliceAt (h : s.atMostUnfuses n t) (o : Nat) : t.sliceAt n o = s.sliceAt n o := by
  obtain ⟨f, own⟩ := h.own
  rw [State.sliceAt, State.sliceAt, own]

/-- A byte outside the writes is kept. -/
theorem localWrites_out (ws : List (Nat × List Byte)) (a : Nat) (sound : s.sound)
    (out : ∀ w ∈ ws, ∀ i, i < w.2.length → s.sliceAt n (w.1 + i) ≠ a) :
    cellGet (s.localWrites n ws).mem.cells a = cellGet s.mem.cells a := by
  induction ws generalizing s with
  | nil => rfl
  | cons w ws ih =>
    have first := atMostUnfuses_localWrite s n w.1 w.2
    refine (ih (first.sound sound) fun v hv i hi => ?_).trans (writeSlice_out n w.1 w.2 a sound (out w List.mem_cons_self))
    rw [first.sliceAt]
    exact out v (List.mem_cons_of_mem _ hv) i hi

/-- A byte that one write alone covers, and covers once, holds what that write puts there. -/
theorem localWrites_get (ws : List (Nat × List Byte)) {w : Nat × List Byte} {i : Nat} (sound : s.sound) (hw : w ∈ ws)
    (hi : i < w.2.length) (once : ∀ j, j < w.2.length → s.sliceAt n (w.1 + j) = s.sliceAt n (w.1 + i) → j = i)
    (alone : ∀ v ∈ ws, v ≠ w → ∀ j, j < v.2.length → s.sliceAt n (v.1 + j) ≠ s.sliceAt n (w.1 + i)) :
    cellGet (s.localWrites n ws).mem.cells (s.sliceAt n (w.1 + i)) = w.2.getD i 0 := by
  induction ws generalizing s with
  | nil => cases hw
  | cons v ws ih =>
    have first := atMostUnfuses_localWrite s n v.1 v.2
    have same := first.sliceAt
    by_cases later : w ∈ ws
    · have rest := ih (s := s.localWrite n v.1 v.2) (first.sound sound) later (by simpa only [same] using once)
        (by simpa only [same] using fun x hx => alone x (List.mem_cons_of_mem _ hx))
      rw [same] at rest
      exact rest
    · obtain rfl : w = v := (List.mem_cons.1 hw).resolve_right later
      have kept := localWrites_out (s := s.localWrite n w.1 w.2) (n := n) ws (s.sliceAt n (w.1 + i)) (first.sound sound)
        (by simpa only [same] using fun x hx => alone x (List.mem_cons_of_mem _ hx) fun e => later (e ▸ hx))
      exact kept.trans (putSlice_get n w.1 w.2 _ i sound (by omega) hi once)

/-- A write whose bytes no other covers, and none of them twice, is read back whole. -/
theorem localWrites_read (ws : List (Nat × List Byte)) {w : Nat × List Byte} (sound : s.sound) (hw : w ∈ ws)
    (once : ∀ i j, i < w.2.length → j < w.2.length → s.sliceAt n (w.1 + i) = s.sliceAt n (w.1 + j) → i = j)
    (alone : ∀ v ∈ ws, v ≠ w → ∀ i j, i < w.2.length → j < v.2.length → s.sliceAt n (w.1 + i) ≠ s.sliceAt n (v.1 + j)) :
    (s.localWrites n ws).readSlice n w.1 w.2.length = w.2 := by
  refine List.ext_getElem (readSlice_length ..) fun i h1 h2 => ?_
  simp only [State.readSlice, List.getElem_map, List.getElem_range, (atMostUnfuses_localWrites s n ws).sliceAt]
  rw [localWrites_get ws sound hw h2 (fun j hj => once j i hj h2) fun v hv other j hj => (alone v hv other i j h2 hj).symm,
    List.getD_eq_getElem _ _ h2]

end Writes

/-! ### The rows of a tile (R238) -/

/-- A byte of a list of pieces of one length. -/
theorem flatMap_getD {g : Nat → List Byte} {w c j b : Nat} (len : ∀ x, (g x).length = w) (hj : j < c) (hb : b < w) :
    ((List.range c).flatMap g).getD (j * w + b) 0 = (g j).getD b 0 := by
  induction c with
  | zero => omega
  | succ c ih =>
    have total : ((List.range c).flatMap g).length = c * w := by
      simp only [List.length_flatMap, len, List.map_const', List.length_range, List.sum_replicate, smul_eq_mul]
    rw [List.range_succ, List.flatMap_append, List.flatMap_singleton]
    rcases Nat.lt_succ_iff_lt_or_eq.1 hj with before | rfl
    · have : j * w + w ≤ c * w := by
        rw [← Nat.succ_mul]
        exact Nat.mul_le_mul_right w before
      rw [List.getD_append _ _ _ _ (by omega), ih before]
    · rw [List.getD_append_right _ _ _ _ (by omega), total, Nat.add_sub_cancel_left]

/-- Rows of elements of w bytes, as they are written to a tile. -/
def tileWrites (tile w m c : Nat) (e : Nat → Nat → Nat) : List (Nat × List Byte) :=
  (List.range m).map fun i => (tileOff tile i 0 w, (List.range c).flatMap fun j => bytesLE (e i j) w)

theorem tileRow_length (w c : Nat) (e : Nat → Nat) : ((List.range c).flatMap fun j => bytesLE (e j) w).length = c * w := by
  simp only [List.length_flatMap, bytesLE_length, List.map_const', List.length_range, List.sum_replicate, smul_eq_mul]

/-- The LOCAL offsets of tiles are not mapped. -/
theorem sliceAt_tile (s : State) (n tile i j w b : Nat) :
    s.sliceAt n (tileOff tile i j w + b) = sliceKey n (0x1200000 + (tile * 65536 + i * 512 + j * w + b)) := by
  have from_ : tileOff tile i j w + b - 0x1000000 = tile * 65536 + i * 512 + j * w + b := by unfold tileOff; omega
  rw [State.sliceAt, mapOff, if_neg (by unfold tileOff; omega), from_]

/-- The elements that rows of a tile bring are read back. -/
theorem localWrites_tileElem {s : State} {n tile w m c i j : Nat} (e : Nat → Nat → Nat) (sound : s.sound) (fits : c * w ≤ 512)
    (hi : i < m) (hj : j < c) : (s.localWrites n (tileWrites tile w m c e)).tileElem n tile i j w = e i j % 256 ^ w := by
  have read : (s.localWrites n (tileWrites tile w m c e)).readSlice n (tileOff tile i j w) w = bytesLE (e i j) w := by
    refine List.ext_getElem (by rw [readSlice_length, bytesLE_length]) fun b h1 h2 => ?_
    have hb : b < w := by rwa [bytesLE_length] at h2
    have inside : j * w + b < c * w := by
      have : j * w + w ≤ c * w := by
        rw [← Nat.succ_mul]
        exact Nat.mul_le_mul_right w hj
      omega
    have place : s.sliceAt n (tileOff tile i j w + b) = s.sliceAt n (tileOff tile i 0 w + (j * w + b)) := by
      rw [sliceAt_tile, sliceAt_tile]
      congr 1
      omega
    have row : (tileOff tile i 0 w, (List.range c).flatMap fun j => bytesLE (e i j) w) ∈ tileWrites tile w m c e :=
      List.mem_map.2 ⟨i, List.mem_range.2 hi, rfl⟩
    have got := localWrites_get (n := n) (i := j * w + b) _ sound row (by rw [tileRow_length]; exact inside) (fun k hk same => ?_)
      fun v hv other k hk same => ?_
    · simp only [State.readSlice, List.getElem_map, List.getElem_range, (atMostUnfuses_localWrites s n _).sliceAt]
      rw [place, got, flatMap_getD (fun x => bytesLE_length ..) hj hb, List.getD_eq_getElem]
    · rw [sliceAt_tile, sliceAt_tile, sliceKey, sliceKey] at same
      omega
    · obtain ⟨i', -, rfl⟩ := List.mem_map.1 hv
      rw [tileRow_length] at hk
      rw [sliceAt_tile, sliceAt_tile, sliceKey, sliceKey] at same
      refine other ?_
      obtain rfl : i' = i := by omega
      rfl
  rw [State.tileElem, read, ofBytesLE_bytesLE]

/-! ### The flags of the elements -/

/-- A flag of many: one of them has it. -/
theorem foldl_or_getLsbD {α : Type} (l : List α) (f : α → BitVec 9) (z : BitVec 9) (k : Nat) :
    (l.foldl (fun x e => x ||| f e) z).getLsbD k = true ↔ z.getLsbD k = true ∨ ∃ e ∈ l, (f e).getLsbD k = true := by
  induction l generalizing z with
  | nil => simp
  | cons e l ih =>
    rw [List.foldl_cons, ih, BitVec.getLsbD_or, Bool.or_eq_true, List.exists_mem_cons_iff, or_assoc]

end Sys2Proof.Machine
end

section
/-!
PROOFS. The completion and the stop of a routine of the matrix engine (R244 to R246, R250, R253): `Obligations.MatrixEvents`.
-/

namespace Sys2Proof.Machine

/-! ### The size of a routine (R239) -/

section Size
variable {r : MxRun}

theorem MxRun.m_le (r : MxRun) : r.m ≤ 128 := Nat.succ_le_of_lt (Nat.mod_lt _ (by decide))
theorem MxRun.n_le (r : MxRun) : r.n ≤ 128 := Nat.succ_le_of_lt (Nat.mod_lt _ (by decide))

theorem of_ite_none {α : Type} {c : Prop} [Decidable c] {x : α} {y : Option α} (h : (if c then some x else y) = none) : ¬c ∧ y = none := by
  split at h
  · cases h
  · next no => exact ⟨no, h⟩

/-- FP64 rows that pass check 2 have at most 64 elements. -/
theorem columns_le (good : r.paramBad = none) : (r.rt = .dgemm → r.n ≤ 64) ∧ (r.rt = .loadc → r.cf = 0xA → r.n ≤ 64) := by
  unfold MxRun.paramBad at good
  obtain ⟨-, rest⟩ := of_ite_none good
  obtain ⟨dgemm, rest⟩ := of_ite_none rest
  obtain ⟨-, rest⟩ := of_ite_none rest
  obtain ⟨loadc, -⟩ := of_ite_none rest
  refine ⟨fun rt => ?_, fun rt code => ?_⟩
  · rw [rt] at dgemm
    simpa using dgemm
  · rw [rt, code] at loadc
    simpa using loadc

end Size

/-! ### The elements of a routine -/

/-- The last of the values that an element takes, with its flags. -/
def lastOf (e : List Nat × BitVec 9) : Nat × BitVec 9 := (e.1.getLast?.getD 0, e.2)

/-- The tile that a routine writes. -/
def MxRun.target (r : MxRun) : Nat := if r.rt == .mzero then r.tiles.headD 0 else r.ct

/-- The value that a routine gives element (i, j) of what it writes to its tile, with its flags. -/
def State.mxCell (s : State) (n : Nat) (r : MxRun) (i j : Nat) : Nat × BitVec 9 :=
  match r.rt, Fmt.ofCode r.cf with
  | .loadc, some f => s.loadcElem n r f i j
  | _, _ => lastOf (s.mxElem n r (s.operandsOf n r).1 (s.operandsOf n r).2 i j)

section Cells
variable {s : State} {n : Nat} {r : MxRun} {i j : Nat} {a b : Operand}

theorem mxCell_elem (other : r.rt ≠ .loadc) :
    s.mxCell n r i j = lastOf (s.mxElem n r (s.operandsOf n r).1 (s.operandsOf n r).2 i j) := by
  unfold State.mxCell
  split
  · next rt _ => exact absurd rt other
  · rfl

theorem mxCell_loadc {f : Fmt} (rt : r.rt = .loadc) (code : Fmt.ofCode r.cf = some f) : s.mxCell n r i j = s.loadcElem n r f i j := by
  unfold State.mxCell
  rw [rt, code]

theorem mxCell_sums (ops : s.operandsOf n r = (some a, some b)) (rt : r.rt = .gemm ∨ r.rt = .gemmt ∨ r.rt = .outer) :
    s.mxCell n r i j = lastOf (r.groupSums a b i j (s.tileElem n r.ct i j 4)) := by
  rcases rt with rt | rt | rt <;>
    (rw [mxCell_elem (by rw [rt]; nofun), ops]; unfold State.mxElem; rw [rt])

theorem mxCell_gemmz (ops : s.operandsOf n r = (some a, some b)) (rt : r.rt = .gemmz) :
    s.mxCell n r i j = lastOf (r.groupSums a b i j 0) := by
  rw [mxCell_elem (by rw [rt]; nofun), ops]
  unfold State.mxElem
  rw [rt]
  dsimp only [lastOf]
  rw [List.getLast?_cons]
  rfl

theorem mxCell_gemv (ops : s.operandsOf n r = (some a, some b)) (rt : r.rt = .gemv) :
    s.mxCell n r i j = lastOf (r.groupSums a b j 0 (s.tileElem n r.ct i j 4)) := by
  rw [mxCell_elem (by rw [rt]; nofun), ops]
  unfold State.mxElem
  rw [rt]

theorem mxCell_dgemm (ops : s.operandsOf n r = (some a, some b)) (rt : r.rt = .dgemm) :
    s.mxCell n r i j = lastOf (r.chain a b i j (s.tileElem n r.ct i j 8)) := by
  rw [mxCell_elem (by rw [rt]; nofun), ops]
  unfold State.mxElem
  rw [rt]

theorem mxCell_trans (rt : r.rt = .trans) : s.mxCell n r i j = (s.tileElem n r.stile j i 4, 0) := by
  rw [mxCell_elem (by rw [rt]; nofun)]
  unfold State.mxElem
  rw [rt]
  rfl

theorem mxCell_mzero (rt : r.rt = .mzero) : s.mxCell n r i j = (0, 0) := by
  rw [mxCell_elem (by rw [rt]; nofun)]
  unfold State.mxElem
  rw [rt]
  rfl

theorem mxCell_rowsc (rt : r.rt = .rowsc) :
    let x := ff32.mulV (ff32.decode (s.tileElem n r.ct i j 4)) (ff32.decode (ofBytesLE (s.readSlice n (r.sa + 4 * i) 4))) 0 false r.fo
    s.mxCell n r i j = (x.bits, x.fl) := by
  rw [mxCell_elem (by rw [rt]; nofun)]
  unfold State.mxElem
  rw [rt]
  rfl

theorem mxCell_colred (rt : r.rt = .colred) :
    let x := ff32.roundTotal (totalOf ((List.range r.m).map fun k => ff32.decode (s.tileElem n r.stile k j 4))) 0 r.fo
    s.mxCell n r i j = (x.bits, x.fl) := by
  rw [mxCell_elem (by rw [rt]; nofun)]
  unfold State.mxElem
  rw [rt]
  rfl

end Cells

/-! ### The writes of a routine -/

theorem foldl_or_raises {α : Type} (l : List α) (f : α → BitVec 9) (k : Nat) :
    (l.foldl (fun x e => x ||| f e) 0).getLsbD k = true ↔ ∃ e ∈ l, (f e).getLsbD k = true := by
  simp [foldl_or_getLsbD]

section Rows
variable {s : State} {n : Nat} {r : MxRun}

/-- All routines but CVTOUT write rows of a tile. -/
theorem mxWrites_rows (other : r.rt ≠ .cvtout) : s.mxWrites n r =
    (tileWrites r.target r.outShape.2.2 r.outShape.1 r.outShape.2.1 fun i j => (s.mxCell n r i j).1,
      (List.range r.outShape.1).foldl (fun x i => x ||| (List.range r.outShape.2.1).foldl (fun y j => y ||| (s.mxCell n r i j).2) 0) 0) := by
  unfold State.mxWrites
  split
  · next rt _ => exact absurd rt other
  · simp only [List.map_map, List.foldl_map, List.flatMap_map, Function.comp_def]
    rfl

/-- A flag shows when an element of the tile raises it. -/
theorem mxWrites_flags (other : r.rt ≠ .cvtout) (k : Nat) : (s.mxWrites n r).2.getLsbD k = true ↔
    ∃ i j, i < r.outShape.1 ∧ j < r.outShape.2.1 ∧ (s.mxCell n r i j).2.getLsbD k = true := by
  rw [mxWrites_rows other]
  simp only [foldl_or_raises, List.mem_range]
  exact ⟨fun ⟨i, hi, j, hj, h⟩ => ⟨i, j, hi, hj, h⟩, fun ⟨i, j, hi, hj, h⟩ => ⟨i, hi, j, hj, h⟩⟩

theorem mxWrites_tileElem (sound : s.sound) (other : r.rt ≠ .cvtout) (fits : r.outShape.2.1 * r.outShape.2.2 ≤ 512) {i j : Nat}
    (hi : i < r.outShape.1) (hj : j < r.outShape.2.1) :
    (s.localWrites n (s.mxWrites n r).1).tileElem n r.target i j r.outShape.2.2 = (s.mxCell n r i j).1 % 256 ^ r.outShape.2.2 := by
  rw [mxWrites_rows other]
  exact localWrites_tileElem (fun i j => (s.mxCell n r i j).1) sound fits hi hj

end Rows

/-! ### CVTOUT (R246) -/

section Cvtout
variable {s : State} {n : Nat} {r : MxRun} {f : Fmt} (rt : r.rt = .cvtout) (code : Fmt.ofCode r.cf = some f)

/-- The bytes of a row of CVTOUT and its flags: the elements, then the scales. -/
def State.cvtoutRow (s : State) (n : Nat) (r : MxRun) (f : Fmt) (i : Nat) : List Byte × BitVec 9 :=
  f.encodeAll ((List.range r.n).map fun j => ff32.decode (ff32.flush r.fi (s.tileElem n r.ct i j 4))) r.rm r.sat r.fo r.gap

include rt code

theorem mxWrites_cvtout : s.mxWrites n r = s.cvtoutWrites n r f := by
  unfold State.mxWrites
  rw [rt, code]

/-- The rows of codes 0 and 0xA go out as they stand, without flags. -/
theorem cvtout_plain (plain : f = .fp32 ∨ f = .fp64) : (s.mxWrites n r).2 = 0 ∧ ∀ i, i < r.m →
    (r.sb + i * r.rstr, s.readSlice n (tileOff r.ct i 0 1) (r.n * f.ebits / 8)) ∈ (s.mxWrites n r).1 := by
  have stored : (f == .fp32 || f == .fp64) = true := by simpa using plain
  rw [mxWrites_cvtout rt code]
  unfold State.cvtoutWrites
  simp only [stored, if_true]
  refine ⟨BitVec.eq_of_getLsbD_eq fun k _ => ?_, fun i hi => ?_⟩
  · rw [Bool.eq_iff_iff]
    simp [List.foldl_map]
  · exact List.mem_flatMap.2 ⟨_, List.mem_map.2 ⟨i, List.mem_range.2 hi, rfl⟩, List.mem_cons_self⟩

/-- The rows of the other codes are converted, with the scales of their blocks. -/
theorem cvtout_converts (other : f ≠ .fp32) (other' : f ≠ .fp64) :
    (∀ k, (s.mxWrites n r).2.getLsbD k = true ↔ ∃ i, i < r.m ∧ (s.cvtoutRow n r f i).2.getLsbD k = true)
      ∧ ∀ i, i < r.m → (r.sb + i * r.rstr, (s.cvtoutRow n r f i).1.take (r.n * f.ebits / 8)) ∈ (s.mxWrites n r).1
        ∧ (f.isBlock = true →
          (r.ascl + i * r.n / 32 * f.scaleBytes, (s.cvtoutRow n r f i).1.drop (r.n * f.ebits / 8)) ∈ (s.mxWrites n r).1) := by
  have converted : (f == .fp32 || f == .fp64) = false := by simpa using ⟨other, other'⟩
  rw [mxWrites_cvtout rt code]
  unfold State.cvtoutWrites
  simp only [converted, Bool.false_eq_true, if_false]
  refine ⟨fun k => ?_, fun i hi => ⟨?_, fun block => ?_⟩⟩
  · rw [List.foldl_map, foldl_or_raises]
    simp only [List.mem_range]
    rfl
  · exact List.mem_flatMap.2 ⟨_, List.mem_map.2 ⟨i, List.mem_range.2 hi, rfl⟩, List.mem_cons_self⟩
  · refine List.mem_flatMap.2 ⟨_, List.mem_map.2 ⟨i, List.mem_range.2 hi, rfl⟩, List.mem_cons_of_mem _ ?_⟩
    rw [if_pos block]
    exact List.mem_cons_self

end Cvtout

/-! ### The completion (R250, R253) -/

section Completes
variable {s : State} {n : Nat} {r : MxRun} (run : (s.ctxOf n).eng.mx.run = some r) (done : r.left = 0)
include run done

theorem mxComplete_eq : s.mxComplete n = (s.localWrites n (s.mxWrites n r).1).modCtx n fun c =>
    { c.setFlags (s.mxWrites n r).2 with
      eng := { c.eng with mx := { c.eng.mx with run := c.eng.mx.queue, queue := none, started := false, seen := [] } } } := by
  unfold State.mxComplete
  rw [run]
  dsimp only
  rw [done]
  rfl

theorem mxComplete_ctx :
    let t := s.mxComplete n
    (t.ctxOf n).eng.mx = { (s.ctxOf n).eng.mx with run := (s.ctxOf n).eng.mx.queue, queue := none, started := false, seen := [] }
      ∧ (t.ctxOf n).ctl.fstat = (s.ctxOf n).ctl.fstat ||| (s.mxWrites n r).2 ∧ (t.ctxOf n).regs = (s.ctxOf n).regs
      ∧ ∀ m, m ≠ n → t.ctxOf m = s.ctxOf m := by
  intro t
  have eq : t = _ := mxComplete_eq run done
  obtain ⟨-, ⟨f, own⟩, others⟩ := atMostUnfuses_localWrites s n (s.mxWrites n r).1
  have ctx : t.ctxOf n = _ := eq ▸ modCtx_self ..
  rw [own] at ctx
  have regs := congrArg Ctx.regs ctx
  exact ⟨congrArg (fun c : Ctx => c.eng.mx) ctx, congrArg (fun c : Ctx => c.ctl.fstat) ctx, regs,
    fun m hm => by rw [eq, modCtx_other _ hm, others m hm]⟩

theorem mxComplete_mem : (s.mxComplete n).mem = (s.localWrites n (s.mxWrites n r).1).mem := by
  rw [mxComplete_eq run done]
  rfl

/-- What the slice holds at the completion is what the writes leave. -/
theorem mxComplete_readSlice (off len : Nat) :
    (s.mxComplete n).readSlice n off len = (s.localWrites n (s.mxWrites n r).1).readSlice n off len := by
  have maps : ((s.mxComplete n).ctxOf n).eng.bmap = ((s.localWrites n (s.mxWrites n r).1).ctxOf n).eng.bmap := by
    rw [mxComplete_eq run done, modCtx_self]
  rw [State.readSlice, State.readSlice, mxComplete_mem run done]
  refine List.map_congr_left fun i _ => ?_
  rw [State.sliceAt, State.sliceAt, maps]

/-- An element of the tile that a routine writes, at its completion. -/
theorem mxComplete_tileElem (sound : s.sound) {tile w m c : Nat} (other : r.rt ≠ .cvtout) (target : r.target = tile)
    (shape : r.outShape = (m, c, w)) (fits : c * w ≤ 512) {i j : Nat} (hi : i < m) (hj : j < c) :
    (s.mxComplete n).tileElem n tile i j w = (s.mxCell n r i j).1 % 256 ^ w := by
  have rows := mxWrites_tileElem (r := r) (n := n) sound other (by rw [shape]; exact fits) (by rw [shape]; exact hi) (by rw [shape]; exact hj)
  rw [shape, target] at rows
  rw [State.tileElem, mxComplete_readSlice run done]
  exact rows

end Completes

/-! ### The stop (R253) -/

theorem mxStop_ctx {s : State} {n : Nat} {r : MxRun} {f : Nat × Word} (run : (s.ctxOf n).eng.mx.run = some r)
    (meets : s.mxMeets n r = some f) :
    let t := s.mxStop n
    (t.ctxOf n).eng.mx = { run := none, queue := none, started := false, fault := some f, faultTiles := r.tiles, seen := [] }
      ∧ (t.ctxOf n).regs = (s.ctxOf n).regs ∧ ∀ m, m ≠ n → t.ctxOf m = s.ctxOf m := by
  have fills : s.atMostUnfuses n (r.tiles.foldl (fun s t => (s.freeBytes 65536).2.localWrite n (0x1000000 + t * 65536) (s.freeBytes 65536).1) s) :=
    atMostUnfuses_foldl _ (fun t k => (⟨id, ⟨_, rfl⟩, fun _ _ => rfl⟩ : t.atMostUnfuses n (t.freeBytes 65536).2).trans
      (atMostUnfuses_localWrite _ n _ _)) s
  obtain ⟨-, ⟨g, own⟩, others⟩ := fills
  intro t
  have eq : t = ((r.tiles.foldl (fun s t => (s.freeBytes 65536).2.localWrite n (0x1000000 + t * 65536) (s.freeBytes 65536).1) s).modMem
      fun m => { m with form := s.mem.form, poison := s.mem.poison }).modCtx n fun c => { c with eng := { c.eng with mx :=
        { run := none, queue := none, started := false, fault := some f, faultTiles := r.tiles, seen := [] } } } := by
    show s.mxStop n = _
    unfold State.mxStop
    rw [run]
    dsimp only
    rw [meets]
  have ctx : t.ctxOf n = _ := eq ▸ modCtx_self ..
  have regs := congrArg Ctx.regs ctx
  have kept := congrArg Ctx.regs own
  refine ⟨congrArg (fun c : Ctx => c.eng.mx) ctx, regs.trans kept, fun m hm => ?_⟩
  rw [eq, modCtx_other _ hm]
  exact others m hm

/-! ### What each routine leaves in its tile -/

section Shapes
variable {r : MxRun}

theorem shape_square (rt : r.rt ∈ [Routine.gemm, .gemmt, .gemmz, .outer, .trans, .rowsc]) :
    r.rt ≠ .cvtout ∧ r.target = r.ct ∧ r.outShape = (r.m, r.n, 4) := by
  unfold MxRun.target MxRun.outShape MxRun.cellBytes
  simp only [List.mem_cons, List.not_mem_nil, or_false] at rt
  rcases rt with rt | rt | rt | rt | rt | rt <;> rw [rt] <;> exact ⟨nofun, rfl, rfl⟩

theorem shape_row {c : Nat} (rt : r.rt = .gemv ∧ c = r.m ∨ r.rt = .colred ∧ c = r.n) :
    r.rt ≠ .cvtout ∧ r.target = r.ct ∧ r.outShape = (1, c, 4) := by
  unfold MxRun.target MxRun.outShape
  rcases rt with ⟨rt, rfl⟩ | ⟨rt, rfl⟩ <;> rw [rt] <;> exact ⟨nofun, rfl, rfl⟩

theorem shape_dgemm (rt : r.rt = .dgemm) : r.outShape = (r.m, r.n, 8) := by
  rw [MxRun.outShape, rt, MxRun.cellBytes, rt]

theorem shape_loadc (rt : r.rt = .loadc) : r.outShape = (r.m, r.n, if r.cf = 0xA then 8 else 4) := by
  rw [MxRun.outShape, rt, MxRun.cellBytes, rt]

/-- The flags of a routine are those of its elements. -/
theorem mxWrites_raises {s : State} {n m c w : Nat} {p : Nat → Nat → BitVec 9} (other : r.rt ≠ .cvtout) (shape : r.outShape = (m, c, w))
    (cell : ∀ i j, i < m → (s.mxCell n r i j).2 = p i j) (k : Nat) :
    (s.mxWrites n r).2.getLsbD k = true ↔ ∃ i j, i < m ∧ j < c ∧ (p i j).getLsbD k = true := by
  rw [mxWrites_flags other, shape]
  exact exists_congr fun i => exists_congr fun j => and_congr_right fun hi => by rw [cell i j hi]

/-- A routine of which no element raises a flag raises none. -/
theorem mxWrites_quiet {s : State} {n : Nat} (other : r.rt ≠ .cvtout) (cell : ∀ i j, (s.mxCell n r i j).2 = 0) :
    (s.mxWrites n r).2 = 0 := by
  refine BitVec.eq_of_getLsbD_eq fun k _ => Bool.eq_iff_iff.2 ?_
  rw [mxWrites_flags other]
  simp [cell]

end Shapes

theorem ofBytesLE_lt (bs : List Byte) : ofBytesLE bs < 256 ^ bs.length := by
  induction bs with
  | nil => exact Nat.one_pos
  | cons b bs ih =>
    have := b.isLt
    rw [ofBytesLE, List.length_cons, Nat.pow_succ]
    omega

theorem tileElem_mod (s : State) (n tile i j : Nat) : s.tileElem n tile i j 4 % 2 ^ 32 = s.tileElem n tile i j 4 := by
  have := ofBytesLE_lt (s.readSlice n (tileOff tile i j 4) 4)
  rw [readSlice_length] at this
  exact Nat.mod_eq_of_lt this

section Routines
variable {s : State} {n : Nat} {r : MxRun} (run : (s.ctxOf n).eng.mx.run = some r) (done : r.left = 0) (sound : s.sound)
include run done sound

/-- The routines of m rows and n columns of FP32. -/
theorem mxComplete_square (rt : r.rt ∈ [Routine.gemm, .gemmt, .gemmz, .outer, .trans, .rowsc]) {i j : Nat} (hi : i < r.m) (hj : j < r.n) :
    (s.mxComplete n).tileElem n r.ct i j 4 = (s.mxCell n r i j).1 % 2 ^ 32 := by
  have fits : r.n * 4 ≤ 512 := by
    have := r.n_le
    omega
  obtain ⟨other, target, shape⟩ := shape_square rt
  exact mxComplete_tileElem run done sound other target shape fits hi hj

/-- GEMV and COLRED write row 0. -/
theorem mxComplete_row {c : Nat} (rt : r.rt = .gemv ∧ c = r.m ∨ r.rt = .colred ∧ c = r.n) {j : Nat} (hj : j < c) :
    (s.mxComplete n).tileElem n r.ct 0 j 4 = (s.mxCell n r 0 j).1 % 2 ^ 32 := by
  have hm := r.m_le
  have hn := r.n_le
  have fits : c * 4 ≤ 512 := by
    rcases rt with ⟨-, rfl⟩ | ⟨-, rfl⟩ <;> omega
  obtain ⟨other, target, shape⟩ := shape_row rt
  exact mxComplete_tileElem run done sound other target shape fits Nat.one_pos hj

theorem mxComplete_dgemm (rt : r.rt = .dgemm) (good : r.paramBad = none) {i j : Nat} (hi : i < r.m) (hj : j < r.n) :
    (s.mxComplete n).tileElem n r.ct i j 8 = (s.mxCell n r i j).1 % 2 ^ 64 := by
  obtain ⟨columns, -⟩ := columns_le good
  have fits := columns rt
  exact mxComplete_tileElem run done sound (by rw [rt]; nofun) (by rw [MxRun.target, rt]; rfl) (shape_dgemm rt) (by omega) hi hj

theorem mxComplete_loadc (rt : r.rt = .loadc) (good : r.paramBad = none) {i j : Nat} (hi : i < r.m) (hj : j < r.n) :
    let w := if r.cf = 0xA then 8 else 4
    (s.mxComplete n).tileElem n r.ct i j w = (s.mxCell n r i j).1 % 2 ^ (8 * w) := by
  intro w
  obtain ⟨-, columns⟩ := columns_le good
  have hn := r.n_le
  have fits : r.n * w ≤ 512 := by
    by_cases code : r.cf = 0xA
    · have := columns rt code
      rw [show w = 8 from if_pos code]
      omega
    · rw [show w = 4 from if_neg code]
      omega
  rw [pow_mul]
  exact mxComplete_tileElem run done sound (by rw [rt]; nofun) (by rw [MxRun.target, rt]; rfl) (shape_loadc rt) fits hi hj

theorem mxComplete_mzero (rt : r.rt = .mzero) {i j : Nat} (hi : i < 128) (hj : j < 128) :
    (s.mxComplete n).tileElem n (r.tiles.headD 0) i j 4 = 0 := by
  have cell := mxComplete_tileElem (tile := r.tiles.headD 0) (w := 4) run done sound (by rw [rt]; nofun) (by rw [MxRun.target, rt]; rfl)
    (by rw [MxRun.outShape, rt]) (by omega) hi hj
  rw [cell, mxCell_mzero rt]
  exact Nat.zero_mod _

end Routines

end Sys2Proof.Machine

open Sys2Proof Sys2Proof.Machine

/-- Settles O34: the completion is the local writes of the routine (`mxComplete_eq`), of which the rows of a tile are read back element by
element (`mxComplete_tileElem`), with the flags of those elements (`mxWrites_raises`); CVTOUT writes rows of its own. -/
theorem matrixEvents : Obligations.MatrixEvents := by
  unfold Obligations.MatrixEvents
  refine fun n r s sound run => ⟨fun done good => ?_, fun f meets => ⟨_, rfl, mxStop_ctx run meets⟩⟩
  obtain ⟨mx, fstat, regs, others⟩ := mxComplete_ctx run done
  have square {i j : Nat} := mxComplete_square (i := i) (j := j) run done sound
  have row {c j : Nat} := mxComplete_row (c := c) (j := j) run done sound
  refine ⟨_, rfl, mx, fstat, regs, others, fun a out => ?_, fun a b i j hi hj ops => ⟨fun rt => ?_, fun rt => ?_, fun rt => ?_, fun rt => ?_⟩,
    fun i j hi hj => ⟨fun rt => ?_, fun rt => ?_, fun rt => ?_, fun rt f code => ?_⟩,
    fun rt _ i j hi hj => mxComplete_mzero run done sound rt hi hj, fun w hw alone once => ?_, fun rt f i code hi => ⟨fun plain => ?_,
      fun other other' => ?_⟩, fun a b ops => ⟨fun rt k _ => ?_, fun rt k _ => ?_, fun rt k _ => ?_, fun rt k _ => ?_⟩, fun rt => ?_,
    fun rt k _ => ?_, fun rt k _ => ?_, fun f code => ⟨fun rt k _ => ?_, fun rt => ⟨fun plain => ?_, fun other other' k _ => ?_⟩⟩⟩
  -- the bytes outside the writes
  · rw [mxComplete_mem run done]
    exact localWrites_out _ a sound out
  -- the products
  · exact (square (by rcases rt with rt | rt | rt <;> simp [rt]) hi hj).trans (by rw [mxCell_sums ops rt]; rfl)
  · exact (square (by simp [rt]) hi hj).trans (by rw [mxCell_gemmz ops rt]; rfl)
  · exact (row (.inl ⟨rt, rfl⟩) hi).trans (by rw [mxCell_gemv ops rt]; rfl)
  · exact (mxComplete_dgemm run done sound rt good hi hj).trans (by rw [mxCell_dgemm ops rt]; rfl)
  -- the other routines that write a tile
  · exact (square (by simp [rt]) hi hj).trans (by rw [mxCell_trans rt]; exact tileElem_mod ..)
  · exact (square (by simp [rt]) hi hj).trans (by rw [mxCell_rowsc rt])
  · exact (row (.inr ⟨rt, rfl⟩) hj).trans (by rw [mxCell_colred rt])
  · exact (mxComplete_loadc run done sound rt good hi hj).trans (by rw [mxCell_loadc rt code])
  -- a write that no other covers
  · rw [mxComplete_readSlice run done]
    exact localWrites_read _ sound hw once alone
  -- CVTOUT
  · obtain ⟨-, rows⟩ := cvtout_plain (s := s) (n := n) rt code plain
    exact rows i hi
  · obtain ⟨-, rows⟩ := cvtout_converts (s := s) (n := n) rt code other other'
    exact rows i hi
  -- the flags of the products
  · obtain ⟨cvtout, -, shape⟩ := shape_square (r := r) (by rcases rt with rt | rt | rt <;> simp [rt])
    exact mxWrites_raises cvtout shape (fun i j _ => by rw [mxCell_sums ops rt]; rfl) k
  · obtain ⟨cvtout, -, shape⟩ := shape_square (r := r) (by simp [rt])
    exact mxWrites_raises cvtout shape (fun i j _ => by rw [mxCell_gemmz ops rt]; rfl) k
  · obtain ⟨cvtout, -, shape⟩ := shape_row (r := r) (.inl ⟨rt, rfl⟩)
    exact mxWrites_raises cvtout shape (fun i j first => by rw [mxCell_gemv ops rt, Nat.lt_one_iff.1 first]; rfl) k
  · exact mxWrites_raises (by rw [rt]; nofun) (shape_dgemm rt) (fun i j _ => by rw [mxCell_dgemm ops rt]; rfl) k
  -- the flags of the others
  · rcases rt with rt | rt
    · exact mxWrites_quiet (by rw [rt]; nofun) fun i j => by rw [mxCell_trans rt]
    · exact mxWrites_quiet (by rw [rt]; nofun) fun i j => by rw [mxCell_mzero rt]
  · obtain ⟨cvtout, -, shape⟩ := shape_square (r := r) (by simp [rt])
    exact mxWrites_raises cvtout shape (fun i j _ => by rw [mxCell_rowsc rt]) k
  · obtain ⟨cvtout, -, shape⟩ := shape_row (r := r) (.inr ⟨rt, rfl⟩)
    exact mxWrites_raises cvtout shape (fun i j _ => by rw [mxCell_colred rt]) k
  · exact mxWrites_raises (by rw [rt]; nofun) (shape_loadc rt) (fun i j _ => by rw [mxCell_loadc rt code]) k
  -- the flags of CVTOUT
  · obtain ⟨quiet, -⟩ := cvtout_plain (s := s) (n := n) rt code plain
    exact quiet
  · obtain ⟨raises, -⟩ := cvtout_converts (s := s) (n := n) rt code other other'
    refine (raises k).trans ⟨fun ⟨i, hi, h⟩ => ⟨i, 0, hi, Nat.one_pos, h⟩, fun ⟨i, _, hi, _, h⟩ => ⟨i, hi, h⟩⟩
end
